-- ==== Sys2Proof/Word.lean ====
section
/-! DEFINITION. The word types of the GX-576 and their plainest arithmetic (R3, R7, R270). -/

namespace Sys2Proof

/-- A scalar register, address or control word: 64 bits (R257). -/
abbrev Word := BitVec 64

/-- One byte of memory (R149: a location). -/
abbrev Byte := BitVec 8

/-- An instruction word: 32 bits (R3). -/
abbrev IWord := BitVec 32

/-- A scalar register number, `x0` to `x31` (R257). -/
abbrev Reg := Fin 32

/-- A vector register number, `v0` to `v31` (R257). -/
abbrev VReg := Fin 32

/-- A mask register number, `k0` to `k7` (R257). -/
abbrev KReg := Fin 8

/-- A branch-target register number, `b0` to `b3` (R257). -/
abbrev BReg := Fin 4

/-- A scope-table index (R152). -/
abbrev ScopeIx := Fin 32

/-- The 1 KiB contents of one vector register (R257, R258): byte 0 is the least significant. -/
abbrev VWord := BitVec 8192

/-- The 256 bits of one mask register (R257). -/
abbrev KWord := BitVec 256

/-- A poison payload (R128): fault-queue index in [15:0], log position in [20:16]. -/
abbrev Payload := BitVec 21

/-- A core: socket * 64 + site (sockets 0 to 15: sites 0 to 35; sockets 20 and 21: command cores 0 to 3). -/
abbrev CoreId := Nat

end Sys2Proof
end

