-- ==== Sys2Proof/Config.lean ====
section
/-! DEFINITION. What is fixed for the machine: the part's figures (R1) and the values the manual leaves open,
as constants without a body. -/

namespace Sys2Proof.Config

/-- Slots of a core (R1). -/
def slots : Nat := 8
/-- Sites of a core die (R1). -/
def sites : Nat := 36
/-- Entries of a TLB (R123). -/
def tlbEntries : Nat := 32
/-- Walkers of a core (R123). -/
def walkers : Nat := 4
/-- Physical extents of an extent table (R122). -/
def extentMax : Nat := 16
/-- Entries of a replay log (R129). -/
def logMax : Nat := 16
/-- Whole vector registers a replay log may record (R129). -/
def logVecMax : Nat := 8
/-- Bytes of the staging area (R142). -/
def stagingBytes : Nat := 32768
/-- Bytes of the undo log (R142). -/
def undoBytes : Nat := 65536
/-- Matrix queue (R204). -/
def matqMax : Nat := 16
/-- Copies in flight on a core die's core (R1) and on a command core (R69). -/
def copyMax (cmd : Bool) : Nat := if cmd then 64 else 512
/-- Collective queue (R204). -/
def colqMax : Nat := 8
/-- Courier message queue (R233). -/
def msgqMax : Nat := 32
/-- Records a deque holds (R190): those beyond 64 do not stand in near memory (log 76). -/
def dequeMax : Nat := 1088
/-- Save areas of a core (R205). -/
def saveAreas : Nat := 16
/-- Launch table entries of one host die (R186). -/
def launchMax : Nat := 2048
/-- Notice store of a die (R133). -/
def noticeMax : Nat := 1024
/-- Alert records held on the die (R80). -/
def alertHeld : Nat := 16
/-- Tile entries of a home (R98). -/
def tileMax : Nat := 65536
/-- Banks of a pool (R213), and of a command core's pool (R69). -/
def banks (cmd : Bool) : Nat := if cmd then 32 else 384
/-- Outstanding BISnp per port (R65). -/
def bisnpMax : Nat := 64
/-- Replay buffer of an in-package port (R32) and of a scale-up port (R48), in flits. -/
def replayInPackage : Nat := 128
def replayScaleUp : Nat := 1024
/-- Holding entries of one class (R36). -/
def holdMax : Nat := 32
/-- Response slots of a core, a command core and a home (R35). -/
def respCore : Nat := 256
def respCmd : Nat := 64
def respHome : Nat := 1024
/-- The DRAM page of an LPDDR-6 address (R114 gives no page size; log 18). -/
opaque dramPage : Nat → Nat
/-- Requests of a channel's sort buffer (R114). -/
def sortMax : Nat := 64
/-- LPDDR-6 bytes (R84). -/
def lpddrBytes : Nat := 0x10000000000
/-- Version byte of a context area written by this part (R391; which number is not in the source: log 19). -/
opaque contextVer : BitVec 8

/-- A value the manual leaves open, drawn by number from the counter `State.freeCount` (log 18): nothing constrains it. -/
opaque freeBit : Nat → Bool

/-- Ways of a set of a home's directory (R93). -/
def dirWays : Nat := 16
/-- Sets of a home's directory: 8,126,464 entries in 16-way sets (R93). -/
def dirSets : Nat := 507904
/-- The function that picks a line's set (R93 gives none; log 60). -/
opaque dirIndex : Nat → Nat

/-- Ways of a set of a die cache, of a core cache and of an instruction cache (R87, R211, R212). -/
def dieWays : Nat := 16
def coreWays : Nat := 4
/-- Sets of a core cache and of an instruction cache: 64 KiB in 4 ways of 128-byte lines (R1, R211, R212). -/
def coreSets : Nat := 128
/-- Sets of a die cache, whose size follows shadow storage, in units of 128 MiB (R14, R87). -/
def dieSets (shadow : Nat) : Nat := (7 - shadow) * 65536
/-- The function that picks a line's set in a die cache (R87 gives none; log 60). -/
opaque dieIndex : Nat → Nat
/-- Requests for host lines outstanding on one port (R67). -/
def hostReqMax : Nat := 256

/-- How the boot firmware divides an SRAM stack (R14): shadow storage takes 1 + this modulo 4 units of 128 MiB (log 72). -/
opaque sramDivision : Nat

/-- SM3 (R22): the manual names the standard and does not restate it (log 14). -/
opaque sm3 : List Byte → BitVec 256
/-- SM2 signature check of a digest under a public key (R22): key, digest, the two signature halves (log 14). -/
opaque sm2Verify : List Byte → BitVec 256 → BitVec 256 → BitVec 256 → Bool
/-- SM2 signature with the device identity key (R24): the two halves (log 14). -/
opaque sm2Sign : List Byte → BitVec 512
/-- Whether a debug token is signed and names this device (R27, log 14). -/
opaque tokenValid : List Byte → Bool
/-- AES-256-GCM over a scale-up flit (R40, R46): whether its tag authenticates under the live receive key of port,
slot and key generation with the given counter (log 14). -/
opaque gcmOk : Nat → Bool → Nat → BitVec 32 → BitVec 2048 → Bool
/-- The ciphered form of a scale-up flit, sent under port, slot, key generation and counter (log 14). -/
opaque gcmSeal : Nat → Bool → Nat → BitVec 32 → BitVec 2048 → BitVec 2048
/-- The clear form of a received flit (log 14). -/
opaque gcmOpen : Nat → Bool → Nat → BitVec 32 → BitVec 2048 → BitVec 2048
/-- The content of a key-exchange flit of a port for a key generation (R46): SM2 key exchange, which the manual names and does
not restate (log 14). -/
opaque keyShare : Nat → Nat → Nat
/-- The gateway's fixed hash of a flow to one of `n` live planes (R41): source core, destination package, network (log 14). -/
opaque flowHash : Nat → Nat → Nat → Nat

end Sys2Proof.Config
end

