-- ==== Sys2Proof/Syntax.lean ====
section
/-! DEFINITION. The syntax of the machine: every row of the opcode table is one constructor of `Instr`.
The encoded instructions (R257 to R268) carry their operand fields; the steps of other agents (the table's rows
without a word) carry what arrives from outside the step. -/

namespace Sys2Proof

/-- The element types of format V (R264). -/
inductive ElTy where
  | i8 | i16 | i32 | i64 | q8 | f16 | bf16 | f32 | f64
  deriving DecidableEq, Repr

/-- The order field of AMO (R156). -/
inductive Ord where
  | rlx | acq | rel | ar
  deriving DecidableEq, Repr

/-- The system registers of R259. -/
inductive SysReg where
  | slotid | coreid | pcoreid | socket | pkgid | ctxid | poolpart | faultq
  | xpc | xcause | xval | xvec | fmta | fmtb | fmtc | scalea | scaleb
  | harvest (d : Fin 16)
  deriving DecidableEq, Repr

/-- The engine registers of R355. -/
inductive EngReg where
  | cbase | cctl | cpool | cext | cstr01 | cstr23 | ccrd01 | ccrd23 | clo01 | clo23 | chi01 | chi23
  | cfill0 | cfill1 | caux
  deriving DecidableEq, Repr

/-- The three levels of a write counter (R161). -/
inductive Level where
  | near | device | host
  deriving DecidableEq, Repr

/-- The coherence classes of a home's holding entries (R36). -/
inductive HoldClass where
  | line | tile | translation
  deriving DecidableEq, Repr

/-- One firmware image as the boot ROM reads it from host memory (R22). -/
structure BootImage where
  /-- the image could be read over CXL (BOOTST cause 3 when not) -/
  readable : Bool
  /-- the manifest is well formed (BOOTST cause 4 when not) -/
  manifestOk : Bool
  bytes : List Byte
  key : List Byte
  sigR : BitVec 256
  sigS : BitVec 256
  secVersion : Word
  /-- entry of the image -/
  entry : Word
  /-- the last image of the manifest -/
  last : Bool
  /-- the physical address of device memory to which the image is loaded (log 77) -/
  load : Nat := 0
  deriving DecidableEq, Repr

/-- What the host writes into an HDM decoder (R59). -/
structure HdmDecoder where
  hostBase : Nat
  dpaBase : Nat
  size : Nat
  ways : Nat
  gran : Nat
  deriving DecidableEq, Repr

/-- One instrument of the FREEZE readout (R26): what is read. -/
inductive Instrument where
  | harvest (d : Fin 16)
  | bootst
  | scalar (core : CoreId) (slot : Fin 8) (r : Reg)
  | branch (core : CoreId) (slot : Fin 8) (r : BReg)
  | mask (core : CoreId) (slot : Fin 8) (r : KReg) (dword : Fin 4)
  | vector (core : CoreId) (slot : Fin 8) (r : VReg) (dword : Fin 128)
  | pc (core : CoreId) (slot : Fin 8)
  | sys (core : CoreId) (slot : Fin 8) (r : SysReg)
  | engine (core : CoreId) (slot : Fin 8) (r : EngReg)
  | pool (core : CoreId) (team : Nat) (off : Nat)
  | ring (core : CoreId) (n : Fin 8)
  | icacheLine (core : CoreId) (pa : Nat)
  | tlb (core : CoreId) (n : Nat)
  | deque (core : CoreId) (n : Nat)
  | lineEntry (pa : Nat)
  | tileEntry (pbase : Nat)
  | stack (pa : Nat)
  | channel (ch : Nat)
  | mailbox (n : Fin 8) (w : Fin 4)
  | cxlPort (n : Fin 4)
  | linkTable (n : Nat)
  | fport (n : Fin 36)
  | replay (n : Fin 36)
  | keySlots (n : Fin 36)
  | router (sock : Fin 24)
  | causeway (n : Fin 64)
  | slotStatus (core : CoreId) (slot : Fin 8)
  | acc (core : CoreId) (team : Nat) (off : Nat)
  | save (core : CoreId) (n : Nat)
  | coreCache (core : CoreId) (n : Nat)
  | extent (core : CoreId) (slot : Fin 8) (n : Nat)
  | dieTag (pa : Nat)
  | dieData (pa : Nat)
  | shadow (die : Fin 16) (off : Nat)
  | notices (die : Fin 24) (n : Nat)
  | faultWait (n : Nat)
  | gateway (n : Nat)
  | gatewayFlow (n : Nat)
  | linkReplay (sock : Fin 24)
  | linkQueue (sock : Fin 24)
  | dram (ch : Nat)
  | register (off : Nat)
  | upSkid (n : Fin 36)
  | awayReq (n : Nat)
  | awayResp (n : Nat)
  | replica (pbase : Nat) (die : Fin 16)
  deriving DecidableEq, Repr

/-- The result of a page walk (R116, R119, R108): a leaf, or the cause, level and entry bits. -/
inductive WalkResult where
  /-- physical page base, leaf bits [15:0], log2 of the page size (16, 21 or 29) -/
  | leaf (pbase : Nat) (bits : BitVec 16) (log2 : Nat)
  | fail (cause : Byte) (detail : Word)
  deriving DecidableEq, Repr

/-- A courier message (R395). -/
structure Courier where
  spkg : BitVec 8
  ssock : BitVec 5
  score : BitVec 6
  slot : BitVec 3
  ctx : BitVec 16
  ni : BitVec 2
  ret : Bool
  rsel : BitVec 3
  auto : Bool
  page : Nat
  words : BitVec 128
  m4 : Word
  m5 : Word
  m6 : Word
  m7 : Word
  deriving DecidableEq, Repr

/-- A write as it travels from a thread to its serialisation point: the virtual and physical address, the bytes and data
(R150), the leaf bits of its translation, and for an atomic its operation. -/
structure WriteMsg where
  va : Word
  pa : Nat
  n : Nat
  data : BitVec 128
  leaf : BitVec 16
  /-- the AMO minor code and the expected value of CAS, for an atomic that returns no value -/
  amo : Option (Nat × Word)
  pc : Word
  ctx : BitVec 16
  /-- the explicit message that it stands for (R397) -/
  courier : Option Courier
  /-- its place in the order in which the package's writes were issued (R34, R140) -/
  seq : Nat := 0
  /-- an atomic that is performed in the holder's die cache or at the home, not in the core cache (R167) -/
  wide : Bool := true
  deriving DecidableEq, Repr

/-- A kept remote-fault record (R140): the cause, the failed write, the index of its entry once that is written, and
whether the failure was known in the issuing die, so that a near-level release covers it. -/
structure FaultRec where
  cause : Byte
  write : WriteMsg
  index : Option Word
  onDie : Bool
  /-- the dispatch number of its thread, which may have been spilled since; none: the thread in the slot -/
  tid : Option Nat := none
  /-- it has been reported while a die still holds its entry (R133) -/
  reported : Bool := false
  deriving DecidableEq, Repr

/-- Every step of the opcode table. -/
inductive Instr where
  /-- R22. -/
  | packageReset
  /-- R21. -/
  | powerOff
  /-- R22: the boot ROM reads one image. -/
  | bootImageVerify (img : BootImage)
  /-- R25. -/
  | freezeAssert
  /-- R28. -/
  | freezeDeassert
  /-- R26. -/
  | freezeReadout (sel : Instrument)
  /-- R27. -/
  | debugToken (token : List Byte)
  /-- R21. -/
  | thermalTrip (sock : Fin 24)
  /-- R21. -/
  | thermalReset
  /-- R80. -/
  | alertWriteComplete
  /-- R80: the value written to ALRTCTL. -/
  | alrtctlWrite (v : Word)
  /-- R4: by the host (through BAR0) or by the device; physical offset and value. -/
  | registerWrite (host : Bool) (off : Nat) (v : Word)
  /-- R17: identifier and the phase the core names. -/
  | causewayArrival (id : Fin 64) (phase : Bool)
  /-- R17. -/
  | causewayRelease (id : Fin 64)
  /-- R19. -/
  | causewayMismatch (id : Fin 64)
  /-- R32: the socket whose port receives, and the 256 bytes. -/
  | flitReceive (sock : Fin 24) (flit : BitVec 2048)
  /-- R32: ACK of the received NAK. -/
  | flitNakReceive (sock : Fin 24) (ack : BitVec 10)
  /-- R32. -/
  | portCrcDown (sock : Fin 24)
  /-- R36. -/
  | holdingEntryServe (home : Fin 24) (cls : HoldClass)
  /-- R35, R31: requester and tag, and the data carried. -/
  | responseArrival (core : CoreId) (tag : BitVec 10) (data : BitVec 1024)
  /-- R13: requester, tag and the cause carried (R52, R68, R84). -/
  | errorResponseArrival (core : CoreId) (tag : BitVec 10) (cause : Byte)
  /-- R161. -/
  | writeAck (core : CoreId) (slot : Fin 8) (level : Level)
  /-- R198. -/
  | stealRequest (thief : CoreId)
  /-- R38. -/
  | stealReply (thief : CoreId)
  /-- R199. -/
  | stealRetryTimer (core : CoreId)
  /-- R48. -/
  | scaleupFlitReceive (port : Fin 36) (flit : BitVec 2048)
  /-- R48. -/
  | authFailPortDown (port : Fin 36)
  /-- R45. -/
  | linkTrain (port : Fin 36)
  /-- R410: the value of OFF written. -/
  | fpctlOff (port : Fin 36) (off : Bool)
  /-- R46. -/
  | fpctlRekey (port : Fin 36)
  /-- R46. -/
  | txctrRekeyThreshold (port : Fin 36)
  /-- R46. -/
  | txctrExhausted (port : Fin 36)
  /-- R47. -/
  | keyMarkerSend (port : Fin 36)
  /-- R49. -/
  | scaleupPortDown (port : Fin 36)
  /-- R50. -/
  | portIsolate (port : Fin 36)
  /-- R41: source core and tag of the request, destination package, virtual network. -/
  | gatewayRequest (core : CoreId) (tag : BitVec 10) (pkg : BitVec 8) (vn : Fin 4)
  /-- R41: the flow. -/
  | gatewayFlowRemap (core : CoreId) (pkg : BitVec 8) (vn : Fin 4)
  /-- R51. -/
  | fabricTimeout (core : CoreId) (tag : BitVec 10)
  /-- R43: the generation and its changed entries. -/
  | linkTableGeneration (gen : BitVec 32) (changes : List (BitVec 8 × Word))
  /-- R43: the generation and the full table. -/
  | fullTableInstall (gen : BitVec 32) (entries : List (BitVec 8 × Word))
  /-- R54: the group R of sockets that is reachable from the host die that decides here. -/
  | splitDetect (group : BitVec 24)
  /-- R56. -/
  | splitWaitExpire
  /-- R59. -/
  | hdmDecoderCommit (port : Fin 4) (dec : HdmDecoder)
  /-- R61: physical address of the 64-byte half, and whether A is asked for. -/
  | hostMemRead (pa : Nat) (wantA : Bool)
  /-- R63: physical address, byte count within one half, data. -/
  | hostMemWrite (pa : Nat) (n : Nat) (data : BitVec 512)
  /-- R62: the half, and the host's modified data if it had any. -/
  | birspReceive (half : Nat) (data : Option (BitVec 512))
  /-- R65. -/
  | bisnpTimeout (half : Nat)
  /-- R68. -/
  | cxlPortDown (port : Fin 4)
  /-- R66: the half of the host line. -/
  | snpinv (half : Nat)
  /-- R66. -/
  | snpdata (half : Nat)
  /-- R66. -/
  | snpcur (half : Nat)
  /-- R72: a host write. -/
  | mbinWrite (n : Fin 8) (v : Word)
  /-- R72: a command-core write. -/
  | mboutWrite (n : Fin 8) (v : Word)
  /-- R72: a command-core write of 1. -/
  | mbstatClearInv (n : Fin 8)
  /-- R72: a host write of 1. -/
  | mbstatClearOutv (n : Fin 8)
  /-- R72: a write of 1 to INOVF (true) or OUTOVF (false). -/
  | mbstatClearOvf (n : Fin 8) (inovf : Bool)
  /-- R74. -/
  | mbAttestationReport (n : Fin 8) (nonce : BitVec 256)
  /-- R73. -/
  | mbAttachLaunchQueue (n : Fin 8) (j : BitVec 6)
  /-- R73. -/
  | mbDetachLaunchQueue (n : Fin 8)
  /-- R73. -/
  | mbUnknownOp (n : Fin 8)
  /-- R79: the launch handle. -/
  | launchComplete (h : Nat)
  /-- R90: the requesting core and the physical address. -/
  | homeLineRead (core : CoreId) (pa : Nat)
  /-- R90: the core whose travelling write number `ix` is serialised. -/
  | homeLineStore (core : CoreId) (ix : Nat)
  /-- R90: the line number. -/
  | lineWriteBack (line : Nat)
  /-- R91: the line and the die it may be granted to. -/
  | lineMigration (line : Nat) (die : Fin 16)
  /-- R100: the core, physical address and whether it stores. -/
  | homeTileAccess (core : CoreId) (pa : Nat) (store : Bool)
  /-- R113: the line, and the sectors in which an uncorrectable error is found. -/
  | dieCacheEviction (line : Nat) (bad : BitVec 8)
  /-- R100. -/
  | tilePushAck (pbase : Nat)
  /-- R100: and the cause of the error response. -/
  | tilePushError (pbase : Nat) (cause : Byte)
  /-- R100: a copy or collective write of `n` bytes. -/
  | shadowFrameWrite (pa : Nat) (n : Nat) (data : BitVec 128)
  /-- R104. -/
  | publGenToggle (pbase : Nat)
  /-- R102: the acknowledging die. -/
  | haloPushAck (pbase : Nat) (die : Fin 16)
  /-- R107: the die that walks and the address of the table entry. -/
  | walkRead (die : Fin 24) (pa : Nat)
  /-- R107: the die the kill reaches and the line. -/
  | translationKill (die : Fin 24) (line : Nat)
  /-- R107: the acknowledging die. -/
  | killAck (die : Fin 24) (line : Nat)
  /-- R123: the core and slot whose walk ends, the virtual address, the result. -/
  | walkComplete (core : CoreId) (slot : Fin 8) (va : Word) (res : WalkResult)
  /-- R109. -/
  | homeDiscard (line : Nat)
  /-- R110: the contexts named in the dirty tags of the dirty copies that return. -/
  | lineEntryUncorrectable (line : Nat) (dirtyTags : List (BitVec 16))
  /-- R111: whether the declaration record and whether the owner answers. -/
  | tileEntryUncorrectable (pbase : Nat) (record : Bool) (owner : Bool)
  /-- R110. -/
  | correctableError (sock : Fin 24)
  /-- R114. -/
  | memoryChannelServe (ch : Fin 64)
  /-- R115. -/
  | dieCachePrefetch (die : Fin 16) (line : Nat)
  /-- R132. -/
  | faultQueueSpace (ctx : BitVec 16)
  /-- R133. -/
  | noticeStoreDrain (die : Fin 24) (ctx : BitVec 16)
  /-- R133. -/
  | noticeDropAlert (die : Fin 24)
  /-- R136. -/
  | taskReplay (core : CoreId) (slot : Fin 8)
  /-- R140: the origin, the write, and whether the permission check at the destination holds. -/
  | remoteStoreArrival (core : CoreId) (slot : Fin 8) (w : WriteMsg) (permitted : Bool)
  /-- R140. -/
  | remoteFaultRecord (core : CoreId) (slot : Fin 8) (r : FaultRec)
  /-- R143. -/
  | stagingTimeout (core : CoreId)
  /-- R144. -/
  | uncorrectableTeamError (core : CoreId) (team : Nat)
  /-- R146: the die, the 768 bytes of the packet, and the priority and launch of the task. -/
  | travelPacketArrival (die : Fin 16) (packet : BitVec 6144) (lh : Nat)
  /-- R146. -/
  | travelPacketReturn (core : CoreId) (slot : Fin 8)
  /-- R233. -/
  | messageEngineExecute (core : CoreId)
  /-- R126: the copy's number. -/
  | copyPageTranslate (core : CoreId) (id : Nat)
  /-- R168. -/
  | copyArrival (core : CoreId) (id : Nat)
  /-- R232: the producer core, its team, the barrier object's offset, the bytes freed. -/
  | stageFreeNotice (core : CoreId) (team : Nat) (fbo : Nat) (bytes : Nat)
  /-- R365. -/
  | cpyrFire (core : CoreId)
  /-- R221. -/
  | matrixStepFire (core : CoreId)
  /-- R223. -/
  | matrixOpComplete (core : CoreId) (id : Nat)
  /-- R180. -/
  | lctctlLock
  /-- R183: the partition and the value written. -/
  | partDiesWrite (p : Fin 16) (dies : BitVec 16)
  /-- R184. -/
  | partHaltreq (p : Fin 16)
  /-- R184. -/
  | partitionHalted (p : Fin 16)
  /-- R183. -/
  | partResume (p : Fin 16)
  /-- R184. -/
  | partSwapout (p : Fin 16)
  /-- R184. -/
  | swapoutComplete (p : Fin 16)
  /-- R184. -/
  | partSwapin (p : Fin 16)
  /-- R184. -/
  | swapinComplete (p : Fin 16)
  /-- R182. -/
  | partErrClear (p : Fin 16)
  /-- R189. -/
  | dealTask (h : Nat)
  /-- R196. -/
  | bandAdmit (h : Nat)
  /-- R192. -/
  | taskDispatch (core : CoreId)
  /-- R197. -/
  | taskRetire (core : CoreId) (team : Nat)
  /-- R206. -/
  | slotSpill (core : CoreId)
  /-- R205. -/
  | spillComplete (core : CoreId) (slot : Fin 8)
  /-- R206. -/
  | slotRestore (core : CoreId)
  /-- R298. -/
  | joinSpill (core : CoreId) (slot : Fin 8)
  /-- R324. -/
  | watchPoll (core : CoreId) (slot : Fin 8)
  /-- R325. -/
  | waitevTimeout (core : CoreId) (slot : Fin 8)
  /-- R297. -/
  | joinPoll (core : CoreId) (slot : Fin 8)
  /-- R138: an instruction of the current thread that would issue after a failed fetch: cause and DETAIL. -/
  | fetchFault (cause : Byte) (detail : Word)
  /-- R268: an illegal word of the current thread that would issue. -/
  | illegalInstruction (w : IWord)
  /-- R369. -/
  | collectiveStart (core : CoreId)
  /-- R371: the peer's descriptor, with which this one is compared (R376), the chunk, and its values as the children (all-reduce)
  or the parent send them. -/
  | collectiveChunkReceive (core : CoreId) (peer : BitVec 1024) (chunk : Nat) (left : List Byte) (right : List Byte) (down : Option (List Byte))
  /-- R373: the highest announced generation, and the chunks done at every participant. -/
  | collectiveAnnounce (core : CoreId) (gen : BitVec 32) (done : List Nat)
  /-- R375. -/
  | collectivePeerAbort (core : CoreId) (tag : BitVec 32)
  /-- R38: the dies at the ends of the link. -/
  | alleyLinkDown (a : Fin 16) (b : Fin 16)
  /-- R70: command core, slot, entry and context. -/
  | commandCoreStart (n : Fin 8) (slot : Fin 8) (entry : Word) (ctx : BitVec 16)
  /-- R67. -/
  | cxlPortUp (port : Fin 4)
  /-- R205. -/
  | slotRestoreComplete (core : CoreId) (slot : Fin 8)
  /-- R277. -/
  | add (d : Reg) (a : Reg) (b : Reg)
  /-- R277. -/
  | sub (d : Reg) (a : Reg) (b : Reg)
  /-- R277. -/
  | and (d : Reg) (a : Reg) (b : Reg)
  /-- R277. -/
  | or (d : Reg) (a : Reg) (b : Reg)
  /-- R277. -/
  | xor (d : Reg) (a : Reg) (b : Reg)
  /-- R277. -/
  | andn (d : Reg) (a : Reg) (b : Reg)
  /-- R277. -/
  | orn (d : Reg) (a : Reg) (b : Reg)
  /-- R277. -/
  | sll (d : Reg) (a : Reg) (b : Reg)
  /-- R277. -/
  | srl (d : Reg) (a : Reg) (b : Reg)
  /-- R277. -/
  | sra (d : Reg) (a : Reg) (b : Reg)
  /-- R277. -/
  | rol (d : Reg) (a : Reg) (b : Reg)
  /-- R277. -/
  | ror (d : Reg) (a : Reg) (b : Reg)
  /-- R277. -/
  | slt (d : Reg) (a : Reg) (b : Reg)
  /-- R277. -/
  | sltn (d : Reg) (a : Reg) (b : Reg)
  /-- R277. -/
  | seq (d : Reg) (a : Reg) (b : Reg)
  /-- R277. -/
  | min (d : Reg) (a : Reg) (b : Reg)
  /-- R277. -/
  | max (d : Reg) (a : Reg) (b : Reg)
  /-- R277. -/
  | minn (d : Reg) (a : Reg) (b : Reg)
  /-- R277. -/
  | maxn (d : Reg) (a : Reg) (b : Reg)
  /-- R277. -/
  | mul (d : Reg) (a : Reg) (b : Reg)
  /-- R277. -/
  | mulh (d : Reg) (a : Reg) (b : Reg)
  /-- R277. -/
  | mulhn (d : Reg) (a : Reg) (b : Reg)
  /-- R278. -/
  | div (d : Reg) (a : Reg) (b : Reg)
  /-- R278. -/
  | divn (d : Reg) (a : Reg) (b : Reg)
  /-- R278. -/
  | rem (d : Reg) (a : Reg) (b : Reg)
  /-- R278. -/
  | remn (d : Reg) (a : Reg) (b : Reg)
  /-- R279. -/
  | clz (d : Reg) (a : Reg)
  /-- R279. -/
  | ctz (d : Reg) (a : Reg)
  /-- R279. -/
  | popc (d : Reg) (a : Reg)
  /-- R279. -/
  | bswap (d : Reg) (a : Reg)
  /-- R280. -/
  | cmov (d : Reg) (a : Reg) (b : Reg)
  /-- R277. -/
  | shadd1 (d : Reg) (a : Reg) (b : Reg)
  /-- R277. -/
  | shadd2 (d : Reg) (a : Reg) (b : Reg)
  /-- R277. -/
  | shadd3 (d : Reg) (a : Reg) (b : Reg)
  /-- R281. -/
  | crcb (d : Reg) (a : Reg) (b : Reg)
  /-- R281. -/
  | crcd (d : Reg) (a : Reg) (b : Reg)
  /-- R282. -/
  | mix64 (d : Reg) (a : Reg) (b : Reg)
  /-- R283. -/
  | addi (d : Reg) (a : Reg) (i : BitVec 16)
  /-- R283. -/
  | andi (d : Reg) (a : Reg) (i : BitVec 16)
  /-- R283. -/
  | ori (d : Reg) (a : Reg) (i : BitVec 16)
  /-- R283. -/
  | xori (d : Reg) (a : Reg) (i : BitVec 16)
  /-- R283. -/
  | slti (d : Reg) (a : Reg) (i : BitVec 16)
  /-- R283. -/
  | sltin (d : Reg) (a : Reg) (i : BitVec 16)
  /-- R284. -/
  | lih (d : Reg) (a : Reg) (i : BitVec 16)
  /-- R285. -/
  | addpc (d : Reg) (i : BitVec 16)
  /-- R286. -/
  | slli (d : Reg) (a : Reg) (n : Fin 64)
  /-- R286. -/
  | srli (d : Reg) (a : Reg) (n : Fin 64)
  /-- R286. -/
  | srai (d : Reg) (a : Reg) (n : Fin 64)
  /-- R286. -/
  | rori (d : Reg) (a : Reg) (n : Fin 64)
  /-- R287. -/
  | bfx (d : Reg) (a : Reg) (l : Fin 64) (o : Fin 64)
  /-- R287. -/
  | bfxs (d : Reg) (a : Reg) (l : Fin 64) (o : Fin 64)
  /-- R289. -/
  | beq (a : Reg) (b : Reg) (p : BitVec 16)
  /-- R289. -/
  | bne (a : Reg) (b : Reg) (p : BitVec 16)
  /-- R289. -/
  | blt (a : Reg) (b : Reg) (p : BitVec 16)
  /-- R289. -/
  | bge (a : Reg) (b : Reg) (p : BitVec 16)
  /-- R289. -/
  | bltn (a : Reg) (b : Reg) (p : BitVec 16)
  /-- R289. -/
  | bgen (a : Reg) (b : Reg) (p : BitVec 16)
  /-- R290. -/
  | jmp (p : BitVec 26)
  /-- R290. -/
  | jal (p : BitVec 26)
  /-- R292. -/
  | prep (n : BReg) (p : BitVec 24)
  /-- R291. -/
  | jr (a : Reg)
  /-- R291. -/
  | jalr (d : Reg) (a : Reg)
  /-- R293. -/
  | btr (d : Reg) (n : BReg)
  /-- R293. -/
  | btrz (a : Reg) (n : BReg)
  /-- R293. -/
  | btrnz (a : Reg) (n : BReg)
  /-- R295. -/
  | fork (d : Reg) (a : Reg) (b : Reg)
  /-- R297. -/
  | join (a : Reg)
  /-- R299. -/
  | yield
  /-- R300. -/
  | stop
  /-- R301. -/
  | taskid (d : Reg)
  /-- R305. -/
  | ldb (d : Reg) (a : Reg) (i : BitVec 16)
  /-- R305. -/
  | ldh (d : Reg) (a : Reg) (i : BitVec 16)
  /-- R305. -/
  | ldw (d : Reg) (a : Reg) (i : BitVec 16)
  /-- R305. -/
  | ldd (d : Reg) (a : Reg) (i : BitVec 16)
  /-- R305. -/
  | ldbn (d : Reg) (a : Reg) (i : BitVec 16)
  /-- R305. -/
  | ldhn (d : Reg) (a : Reg) (i : BitVec 16)
  /-- R305. -/
  | ldwn (d : Reg) (a : Reg) (i : BitVec 16)
  /-- R305. -/
  | stb (d : Reg) (a : Reg) (i : BitVec 16)
  /-- R305. -/
  | sth (d : Reg) (a : Reg) (i : BitVec 16)
  /-- R305. -/
  | stw (d : Reg) (a : Reg) (i : BitVec 16)
  /-- R305. -/
  | std (d : Reg) (a : Reg) (i : BitVec 16)
  /-- R305. -/
  | ldp (d : Reg) (a : Reg) (i : BitVec 16)
  /-- R305. -/
  | stp (d : Reg) (a : Reg) (i : BitVec 16)
  /-- R306. -/
  | ldxb (d : Reg) (a : Reg) (b : Reg)
  /-- R306. -/
  | ldxh (d : Reg) (a : Reg) (b : Reg)
  /-- R306. -/
  | ldxw (d : Reg) (a : Reg) (b : Reg)
  /-- R306. -/
  | ldxd (d : Reg) (a : Reg) (b : Reg)
  /-- R306. -/
  | ldxbn (d : Reg) (a : Reg) (b : Reg)
  /-- R306. -/
  | ldxhn (d : Reg) (a : Reg) (b : Reg)
  /-- R306. -/
  | ldxwn (d : Reg) (a : Reg) (b : Reg)
  /-- R306. -/
  | stxb (d : Reg) (a : Reg) (b : Reg)
  /-- R306. -/
  | stxh (d : Reg) (a : Reg) (b : Reg)
  /-- R306. -/
  | stxw (d : Reg) (a : Reg) (b : Reg)
  /-- R306. -/
  | stxd (d : Reg) (a : Reg) (b : Reg)
  /-- R307. -/
  | ldaqB (d : Reg) (a : Reg) (b : Reg) (sc : ScopeIx)
  /-- R307. -/
  | ldaqH (d : Reg) (a : Reg) (b : Reg) (sc : ScopeIx)
  /-- R307. -/
  | ldaqW (d : Reg) (a : Reg) (b : Reg) (sc : ScopeIx)
  /-- R307. -/
  | ldaqD (d : Reg) (a : Reg) (b : Reg) (sc : ScopeIx)
  /-- R307. -/
  | strlB (d : Reg) (a : Reg) (b : Reg) (sc : ScopeIx)
  /-- R307. -/
  | strlH (d : Reg) (a : Reg) (b : Reg) (sc : ScopeIx)
  /-- R307. -/
  | strlW (d : Reg) (a : Reg) (b : Reg) (sc : ScopeIx)
  /-- R307. -/
  | strlD (d : Reg) (a : Reg) (b : Reg) (sc : ScopeIx)
  /-- R306. -/
  | ldpb (d : Reg) (a : Reg) (b : Reg)
  /-- R306. -/
  | ldph (d : Reg) (a : Reg) (b : Reg)
  /-- R306. -/
  | ldpw (d : Reg) (a : Reg) (b : Reg)
  /-- R306. -/
  | ldpbn (d : Reg) (a : Reg) (b : Reg)
  /-- R306. -/
  | ldphn (d : Reg) (a : Reg) (b : Reg)
  /-- R306. -/
  | ldpwn (d : Reg) (a : Reg) (b : Reg)
  /-- R306. -/
  | stpb (d : Reg) (a : Reg) (b : Reg)
  /-- R306. -/
  | stph (d : Reg) (a : Reg) (b : Reg)
  /-- R306. -/
  | stpw (d : Reg) (a : Reg) (b : Reg)
  /-- R309. -/
  | pfh (a : Reg) (b : Reg)
  /-- R309. -/
  | pfd (a : Reg) (b : Reg)
  /-- R310. -/
  | disc (a : Reg) (b : Reg)
  /-- R311. -/
  | amoaddd (d : Reg) (a : Reg) (b : Reg) (sc : ScopeIx) (o : Ord)
  /-- R311. -/
  | amoaddw (d : Reg) (a : Reg) (b : Reg) (sc : ScopeIx) (o : Ord)
  /-- R311. -/
  | amoand (d : Reg) (a : Reg) (b : Reg) (sc : ScopeIx) (o : Ord)
  /-- R311. -/
  | amoor (d : Reg) (a : Reg) (b : Reg) (sc : ScopeIx) (o : Ord)
  /-- R311. -/
  | amoxor (d : Reg) (a : Reg) (b : Reg) (sc : ScopeIx) (o : Ord)
  /-- R311. -/
  | amomin (d : Reg) (a : Reg) (b : Reg) (sc : ScopeIx) (o : Ord)
  /-- R311. -/
  | amomax (d : Reg) (a : Reg) (b : Reg) (sc : ScopeIx) (o : Ord)
  /-- R311. -/
  | amominn (d : Reg) (a : Reg) (b : Reg) (sc : ScopeIx) (o : Ord)
  /-- R311. -/
  | amomaxn (d : Reg) (a : Reg) (b : Reg) (sc : ScopeIx) (o : Ord)
  /-- R311. -/
  | amoswap (d : Reg) (a : Reg) (b : Reg) (sc : ScopeIx) (o : Ord)
  /-- R311. -/
  | amocas (d : Reg) (a : Reg) (b : Reg) (sc : ScopeIx) (o : Ord)
  /-- R311. -/
  | amofadd32 (d : Reg) (a : Reg) (b : Reg) (sc : ScopeIx) (o : Ord)
  /-- R311. -/
  | amofmax32 (d : Reg) (a : Reg) (b : Reg) (sc : ScopeIx) (o : Ord)
  /-- R160. -/
  | fence (sc : ScopeIx)
  /-- R160. -/
  | fencerl (sc : ScopeIx)
  /-- R160. -/
  | fenceaq (sc : ScopeIx)
  /-- R160. -/
  | fencerg (a : Reg) (b : Reg) (sc : ScopeIx)
  /-- R315. -/
  | bart (sc : ScopeIx)
  /-- R315. -/
  | barg (sc : ScopeIx)
  /-- R316. -/
  | barb (sc : ScopeIx)
  /-- R317. -/
  | boinit (a : Reg) (b : Reg)
  /-- R317. -/
  | boexp (a : Reg) (b : Reg)
  /-- R317. -/
  | boarr (a : Reg) (sc : ScopeIx)
  /-- R317. -/
  | bowait (a : Reg) (b : Reg) (sc : ScopeIx)
  /-- R317. -/
  | botest (d : Reg) (a : Reg) (b : Reg) (sc : ScopeIx)
  /-- R318. -/
  | scopeset (n : ScopeIx)
  /-- R320. -/
  | tdecl (d : Reg) (a : Reg)
  /-- R321. -/
  | tdrop (a : Reg)
  /-- R321. -/
  | tfwd (a : Reg) (b : Reg)
  /-- R321. -/
  | publ (a : Reg)
  /-- R323. -/
  | watch (d : Reg) (a : Reg)
  /-- R325. -/
  | waitev (d : Reg) (a : Reg)
  /-- R160. -/
  | xfence (sc : ScopeIx)
  /-- R335. -/
  | vadd (d : Reg) (a : Reg) (b : Reg) (k : KReg) (t : ElTy)
  /-- R335. -/
  | vsub (d : Reg) (a : Reg) (b : Reg) (k : KReg) (t : ElTy)
  /-- R335. -/
  | vmul (d : Reg) (a : Reg) (b : Reg) (k : KReg) (t : ElTy)
  /-- R335. -/
  | vmulh (d : Reg) (a : Reg) (b : Reg) (k : KReg) (t : ElTy)
  /-- R335. -/
  | vand (d : Reg) (a : Reg) (b : Reg) (k : KReg) (t : ElTy)
  /-- R335. -/
  | vor (d : Reg) (a : Reg) (b : Reg) (k : KReg) (t : ElTy)
  /-- R335. -/
  | vxor (d : Reg) (a : Reg) (b : Reg) (k : KReg) (t : ElTy)
  /-- R335. -/
  | vandn (d : Reg) (a : Reg) (b : Reg) (k : KReg) (t : ElTy)
  /-- R335. -/
  | vsll (d : Reg) (a : Reg) (b : Reg) (k : KReg) (t : ElTy)
  /-- R335. -/
  | vsrl (d : Reg) (a : Reg) (b : Reg) (k : KReg) (t : ElTy)
  /-- R335. -/
  | vsra (d : Reg) (a : Reg) (b : Reg) (k : KReg) (t : ElTy)
  /-- R335. -/
  | vmin (d : Reg) (a : Reg) (b : Reg) (k : KReg) (t : ElTy)
  /-- R335. -/
  | vmax (d : Reg) (a : Reg) (b : Reg) (k : KReg) (t : ElTy)
  /-- R335. -/
  | vminn (d : Reg) (a : Reg) (b : Reg) (k : KReg) (t : ElTy)
  /-- R335. -/
  | vmaxn (d : Reg) (a : Reg) (b : Reg) (k : KReg) (t : ElTy)
  /-- R335. -/
  | vadds (d : Reg) (a : Reg) (b : Reg) (k : KReg) (t : ElTy)
  /-- R335. -/
  | vsubs (d : Reg) (a : Reg) (b : Reg) (k : KReg) (t : ElTy)
  /-- R335. -/
  | vaddsn (d : Reg) (a : Reg) (b : Reg) (k : KReg) (t : ElTy)
  /-- R335. -/
  | vsubsn (d : Reg) (a : Reg) (b : Reg) (k : KReg) (t : ElTy)
  /-- R335. -/
  | vabsd (d : Reg) (a : Reg) (b : Reg) (k : KReg) (t : ElTy)
  /-- R336. -/
  | vcmpeq (d : KReg) (a : Reg) (b : Reg) (k : KReg) (t : ElTy)
  /-- R336. -/
  | vcmplt (d : KReg) (a : Reg) (b : Reg) (k : KReg) (t : ElTy)
  /-- R336. -/
  | vcmpltn (d : KReg) (a : Reg) (b : Reg) (k : KReg) (t : ElTy)
  /-- R336. -/
  | vcmple (d : KReg) (a : Reg) (b : Reg) (k : KReg) (t : ElTy)
  /-- R337. -/
  | vsel (d : Reg) (a : Reg) (b : Reg) (k : KReg) (t : ElTy)
  /-- R337. -/
  | vsplat (d : Reg) (a : Reg) (k : KReg) (t : ElTy)
  /-- R337. -/
  | viota (d : Reg) (k : KReg) (t : ElTy)
  /-- R337. -/
  | vmovx (d : Reg) (a : Reg) (b : Reg) (t : ElTy)
  /-- R335. -/
  | vaddi (d : Reg) (a : Reg) (i : BitVec 5) (k : KReg) (t : ElTy)
  /-- R335. -/
  | vslli (d : Reg) (a : Reg) (i : BitVec 5) (k : KReg) (t : ElTy)
  /-- R335. -/
  | vsrli (d : Reg) (a : Reg) (i : BitVec 5) (k : KReg) (t : ElTy)
  /-- R335. -/
  | vsrai (d : Reg) (a : Reg) (i : BitVec 5) (k : KReg) (t : ElTy)
  /-- R338. -/
  | vfadd (d : Reg) (a : Reg) (b : Reg) (k : KReg) (t : ElTy)
  /-- R338. -/
  | vfsub (d : Reg) (a : Reg) (b : Reg) (k : KReg) (t : ElTy)
  /-- R338. -/
  | vfmul (d : Reg) (a : Reg) (b : Reg) (k : KReg) (t : ElTy)
  /-- R338. -/
  | vffma (d : Reg) (a : Reg) (b : Reg) (k : KReg) (t : ElTy)
  /-- R338. -/
  | vffms (d : Reg) (a : Reg) (b : Reg) (k : KReg) (t : ElTy)
  /-- R338. -/
  | vfdiv (d : Reg) (a : Reg) (b : Reg) (k : KReg) (t : ElTy)
  /-- R338. -/
  | vfsqrt (d : Reg) (a : Reg) (k : KReg) (t : ElTy)
  /-- R338. -/
  | vfmin (d : Reg) (a : Reg) (b : Reg) (k : KReg) (t : ElTy)
  /-- R338. -/
  | vfmax (d : Reg) (a : Reg) (b : Reg) (k : KReg) (t : ElTy)
  /-- R338. -/
  | vfabs (d : Reg) (a : Reg) (k : KReg) (t : ElTy)
  /-- R338. -/
  | vfneg (d : Reg) (a : Reg) (k : KReg) (t : ElTy)
  /-- R339. -/
  | vfcmpeq (d : KReg) (a : Reg) (b : Reg) (k : KReg) (t : ElTy)
  /-- R339. -/
  | vfcmplt (d : KReg) (a : Reg) (b : Reg) (k : KReg) (t : ElTy)
  /-- R339. -/
  | vfcmple (d : KReg) (a : Reg) (b : Reg) (k : KReg) (t : ElTy)
  /-- R339. -/
  | vfclass (d : Reg) (a : Reg) (k : KReg) (t : ElTy)
  /-- R340. -/
  | vcvtf (d : Reg) (a : Reg) (c : ElTy) (k : KReg) (t : ElTy)
  /-- R340. -/
  | vcvtfi (d : Reg) (a : Reg) (c : Bool) (k : KReg) (t : ElTy)
  /-- R340. -/
  | vcvtif (d : Reg) (a : Reg) (c : Bool) (k : KReg) (t : ElTy)
  /-- R341. -/
  | vfsplat (d : Reg) (a : Reg) (k : KReg) (t : ElTy)
  /-- R338. -/
  | vfrecip (d : Reg) (a : Reg) (k : KReg) (t : ElTy)
  /-- R338. -/
  | vfrsqrt (d : Reg) (a : Reg) (k : KReg) (t : ElTy)
  /-- R338. -/
  | vfscale (d : Reg) (a : Reg) (b : Reg) (k : KReg) (t : ElTy)
  /-- R341. -/
  | vfdot2 (d : Reg) (a : Reg) (b : Reg) (k : KReg) (t : ElTy)
  /-- R342. -/
  | vld (d : Reg) (a : Reg) (k : KReg) (t : ElTy)
  /-- R342. -/
  | vlds (d : Reg) (a : Reg) (b : Reg) (k : KReg) (t : ElTy)
  /-- R342. -/
  | vldx (d : Reg) (a : Reg) (b : Reg) (k : KReg) (t : ElTy)
  /-- R344. -/
  | vst (d : Reg) (a : Reg) (k : KReg) (t : ElTy)
  /-- R344. -/
  | vsts (d : Reg) (a : Reg) (b : Reg) (k : KReg) (t : ElTy)
  /-- R344. -/
  | vstx (d : Reg) (a : Reg) (b : Reg) (k : KReg) (t : ElTy)
  /-- R342. -/
  | vldp (d : Reg) (a : Reg) (k : KReg) (t : ElTy)
  /-- R342. -/
  | vstp (d : Reg) (a : Reg) (k : KReg) (t : ElTy)
  /-- R342. -/
  | vldpx (d : Reg) (a : Reg) (b : Reg) (k : KReg) (t : ElTy)
  /-- R342. -/
  | vstpx (d : Reg) (a : Reg) (b : Reg) (k : KReg) (t : ElTy)
  /-- R342. -/
  | vldb (d : Reg) (a : Reg) (k : KReg) (t : ElTy)
  /-- R346. -/
  | kand (d : KReg) (a : KReg) (b : KReg)
  /-- R346. -/
  | kor (d : KReg) (a : KReg) (b : KReg)
  /-- R346. -/
  | kxor (d : KReg) (a : KReg) (b : KReg)
  /-- R346. -/
  | knot (d : KReg) (a : KReg)
  /-- R346. -/
  | kpop (d : Reg) (a : KReg) (t : ElTy)
  /-- R346. -/
  | kfirst (d : Reg) (a : KReg) (t : ElTy)
  /-- R346. -/
  | kset (d : KReg) (a : Reg) (t : ElTy)
  /-- R347. -/
  | vcompress (d : Reg) (a : Reg) (k : KReg) (t : ElTy)
  /-- R347. -/
  | vexpand (d : Reg) (a : Reg) (k : KReg) (t : ElTy)
  /-- R347. -/
  | vperm (d : Reg) (a : Reg) (b : Reg) (k : KReg) (t : ElTy)
  /-- R347. -/
  | vslideup (d : Reg) (a : Reg) (b : Reg) (k : KReg) (t : ElTy)
  /-- R347. -/
  | vslidedn (d : Reg) (a : Reg) (b : Reg) (k : KReg) (t : ElTy)
  /-- R348. -/
  | vredadd (d : Reg) (a : Reg) (b : Reg) (k : KReg) (t : ElTy)
  /-- R348. -/
  | vredmin (d : Reg) (a : Reg) (b : Reg) (k : KReg) (t : ElTy)
  /-- R348. -/
  | vredmax (d : Reg) (a : Reg) (b : Reg) (k : KReg) (t : ElTy)
  /-- R348. -/
  | vfredadd (d : Reg) (a : Reg) (b : Reg) (k : KReg) (t : ElTy)
  /-- R348. -/
  | vfredmax (d : Reg) (a : Reg) (b : Reg) (k : KReg) (t : ElTy)
  /-- R348. -/
  | vscanadd (d : Reg) (a : Reg) (k : KReg) (t : ElTy)
  /-- R347. -/
  | vzip (d : Reg) (a : Reg) (b : Reg) (k : KReg) (t : ElTy)
  /-- R347. -/
  | vunzip (d : Reg) (a : Reg) (b : Reg) (k : KReg) (t : ElTy)
  /-- R349. -/
  | vhashc (d : Reg) (a : Reg) (b : Reg) (k : KReg) (t : ElTy)
  /-- R349. -/
  | vhashm (d : Reg) (a : Reg) (b : Reg) (k : KReg)
  /-- R349. -/
  | vpart (d : Reg) (a : Reg) (b : Reg) (k : KReg) (t : ElTy)
  /-- R350. -/
  | vhist (d : Reg) (a : Reg) (k : KReg)
  /-- R352. -/
  | vdesc (d : Reg) (a : Reg) (b : Reg) (k : KReg)
  /-- R352. -/
  | vslen (d : Reg) (a : Reg) (k : KReg)
  /-- R353. -/
  | vspfx (d : Reg) (a : Reg) (k : KReg)
  /-- R353. -/
  | vscmp (d : Reg) (a : Reg) (b : Reg) (k : KReg)
  /-- R353. -/
  | vsfind (d : Reg) (a : Reg) (b : Reg) (k : KReg)
  /-- R353. -/
  | vseq (d : KReg) (a : Reg) (b : Reg) (k : KReg)
  /-- R353. -/
  | vshash (d : Reg) (a : Reg) (b : Reg) (k : KReg)
  /-- R332. -/
  | vsetvl (d : Reg) (a : Reg) (t : ElTy)
  /-- R333. -/
  | valloc (d : Reg) (a : Reg)
  /-- R333. -/
  | vshrink (a : Reg)
  /-- R333. -/
  | vallot (d : Reg)
  /-- R334. -/
  | vmv (d : Reg) (a : Reg)
  /-- R357. -/
  | mma (a : Reg) (n : Fin 32)
  /-- R357. -/
  | mmas (a : Reg) (n : Fin 32)
  /-- R358. -/
  | mzero (n : Fin 32)
  /-- R358. -/
  | mload (a : Reg) (n : Fin 32)
  /-- R358. -/
  | mdrain (a : Reg) (n : Fin 32)
  /-- R359. -/
  | mstat (d : Reg) (n : Fin 32)
  /-- R360. -/
  | rgcfg (a : Reg) (b : Reg) (n : Fin 8)
  /-- R361. -/
  | rgadv (a : Reg) (n : Fin 8)
  /-- R361. -/
  | rgtake (a : Reg) (n : Fin 8)
  /-- R362. -/
  | rgstat (d : Reg) (n : Fin 8)
  /-- R362. -/
  | rgreset (n : Fin 8)
  /-- R363. -/
  | cpy (a : Reg) (sc : ScopeIx)
  /-- R363. -/
  | cpyt (a : Reg) (b : Reg) (sc : ScopeIx)
  /-- R231. -/
  | cpym (a : Reg) (b : Reg) (sc : ScopeIx)
  /-- R365. -/
  | cpyr (a : Reg) (b : Reg) (sc : ScopeIx)
  /-- R363. -/
  | cpyg (a : Reg) (b : Reg) (sc : ScopeIx)
  /-- R366. -/
  | cpyp (a : Reg) (b : Reg) (sc : ScopeIx)
  /-- R367. -/
  | cpyq (d : Reg)
  /-- R369. -/
  | colrun (a : Reg)
  /-- R375. -/
  | colstat (d : Reg) (a : Reg)
  /-- R375. -/
  | colresume (a : Reg)
  /-- R375. -/
  | colabort (a : Reg)
  /-- R356. -/
  | eset (a : Reg) (e : EngReg)
  /-- R356. -/
  | eget (d : Reg) (e : EngReg)
  /-- R383. -/
  | trap (c : BitVec 10)
  /-- R384. -/
  | eret
  /-- R386. -/
  | sysr (d : Reg) (n : SysReg)
  /-- R386. -/
  | sysw (a : Reg) (n : SysReg)
  /-- R386. -/
  | sysset (a : Reg) (n : SysReg)
  /-- R386. -/
  | sysclr (a : Reg) (n : SysReg)
  /-- R387. -/
  | halt
  /-- R388. -/
  | ifence
  /-- R390. -/
  | spill (d : Reg) (a : Reg) (b : Reg)
  /-- R390. -/
  | restore (d : Reg) (a : Reg) (b : Reg)
  /-- R397. -/
  | csend (d : Reg) (a : Reg)
  /-- R394. -/
  | alert (a : Reg)
  /-- R392. -/
  | launch (d : Reg) (a : Reg) (n : Fin 8)
  /-- R393. -/
  | faultackResume (d : Reg) (a : Reg) (b : Reg)
  /-- R393. -/
  | faultackAbandon (d : Reg) (a : Reg) (b : Reg)
  /-- R389. -/
  | seal
  deriving DecidableEq, Repr

end Sys2Proof
end

