-- ==== Sys2Proof/WellFormed.lean ====
section
/-! DEFINITION. Well-formed instructions: the conditions of R267, R268, R287, R331 and R340 that an instruction's fields
meet beyond their widths. A word whose fields break one is illegal (R268). -/

namespace Sys2Proof

/-- Why a word names no instruction (R268), by name. -/
inductive Illegal where
  /-- major 0x00 or 0x32 to 0x3F (R265) -/
  | reservedMajor
  /-- a minor code that R266 does not list -/
  | unlistedMinor
  /-- a field the form does not use is not zero (R267, R268) -/
  | unusedField
  /-- a type code the form does not accept (R264, R331) -/
  | typeCode
  /-- scope 7 where the field is a scope (R267), or a SCOPESET index below 8 -/
  | scope
  /-- lo + len of BFX and BFXS is above 64 (R287) -/
  | bitfield
  /-- the conversion VCVTF of R340 names its own source type -/
  | conversion
  /-- an unassigned SYSN (R260) -/
  | sysn
  /-- a write of a system register that is read only (R260) -/
  | readOnly
  /-- a mask, branch-target, ring or engine register number above its range (R302, R331, R354) -/
  | registerNumber
  /-- fewer than four bytes are given; raised by `decodeBytes` alone -/
  | truncated
  deriving DecidableEq, Repr

namespace ElTy

/-- Type codes 0 to 3 of R331: the integer types. -/
def isInt : ElTy → Bool
  | i8 | i16 | i32 | i64 => true
  | q8 | f16 | bf16 | f32 | f64 => false

/-- Type codes 3 to 7 of major 0x27 (R264). -/
def isFlt : ElTy → Bool
  | q8 | f16 | bf16 | f32 | f64 => true
  | i8 | i16 | i32 | i64 => false

/-- Type codes 0 to 7 of the majors other than 0x27 (R264). -/
def notF64 : ElTy → Bool
  | f64 => false
  | _ => true

/-- Type codes 4 to 7 of the majors other than 0x27 (R331). -/
def isRedFlt : ElTy → Bool
  | q8 | f16 | bf16 | f32 => true
  | _ => false

/-- Type codes 5 and 6 (R331, VFDOT2). -/
def isHalf : ElTy → Bool
  | f16 | bf16 => true
  | _ => false

/-- Type codes 2 and 3 (R331, VHASHC and VPART). -/
def isKey : ElTy → Bool
  | i32 | i64 => true
  | _ => false

/-- Element width in bytes (R264). -/
def width : ElTy → Nat
  | i8 | q8 => 1
  | i16 | f16 | bf16 => 2
  | i32 | f32 => 4
  | i64 | f64 => 8

end ElTy

/-- The system registers that some mode may write (R259). -/
def SysReg.writable : SysReg → Bool
  | .xpc | .xcause | .xval | .xvec | .fmta | .fmtb | .fmtc | .scalea | .scaleb => true
  | .slotid | .coreid | .pcoreid | .socket | .pkgid | .ctxid | .poolpart | .faultq | .harvest _ => false

/-- `none` where the condition holds, the name of the failure where it does not. -/
def orIllegal (c : Bool) (e : Illegal) : Option Illegal := if c then none else some e

/-- The first well-formedness condition that an instruction's fields break, by name (R268). -/
def Instr.check : Instr → Option Illegal
  | .packageReset .. => none
  | .powerOff .. => none
  | .bootImageVerify .. => none
  | .freezeAssert .. => none
  | .freezeDeassert .. => none
  | .freezeReadout .. => none
  | .debugToken .. => none
  | .thermalTrip .. => none
  | .thermalReset .. => none
  | .alertWriteComplete .. => none
  | .alrtctlWrite .. => none
  | .registerWrite .. => none
  | .causewayArrival .. => none
  | .causewayRelease .. => none
  | .causewayMismatch .. => none
  | .flitReceive .. => none
  | .flitNakReceive .. => none
  | .portCrcDown .. => none
  | .holdingEntryServe .. => none
  | .responseArrival .. => none
  | .errorResponseArrival .. => none
  | .writeAck .. => none
  | .stealRequest .. => none
  | .stealReply .. => none
  | .stealRetryTimer .. => none
  | .scaleupFlitReceive .. => none
  | .authFailPortDown .. => none
  | .linkTrain .. => none
  | .fpctlOff .. => none
  | .fpctlRekey .. => none
  | .txctrRekeyThreshold .. => none
  | .txctrExhausted .. => none
  | .keyMarkerSend .. => none
  | .scaleupPortDown .. => none
  | .portIsolate .. => none
  | .gatewayRequest .. => none
  | .gatewayFlowRemap .. => none
  | .fabricTimeout .. => none
  | .linkTableGeneration .. => none
  | .fullTableInstall .. => none
  | .splitDetect .. => none
  | .splitWaitExpire .. => none
  | .hdmDecoderCommit .. => none
  | .hostMemRead .. => none
  | .hostMemWrite .. => none
  | .birspReceive .. => none
  | .bisnpTimeout .. => none
  | .cxlPortDown .. => none
  | .snpinv .. => none
  | .snpdata .. => none
  | .snpcur .. => none
  | .mbinWrite .. => none
  | .mboutWrite .. => none
  | .mbstatClearInv .. => none
  | .mbstatClearOutv .. => none
  | .mbstatClearOvf .. => none
  | .mbAttestationReport .. => none
  | .mbAttachLaunchQueue .. => none
  | .mbDetachLaunchQueue .. => none
  | .mbUnknownOp .. => none
  | .launchComplete .. => none
  | .homeLineRead .. => none
  | .homeLineStore .. => none
  | .lineWriteBack .. => none
  | .lineMigration .. => none
  | .homeTileAccess .. => none
  | .dieCacheEviction .. => none
  | .tilePushAck .. => none
  | .tilePushError .. => none
  | .shadowFrameWrite .. => none
  | .publGenToggle .. => none
  | .haloPushAck .. => none
  | .walkRead .. => none
  | .translationKill .. => none
  | .killAck .. => none
  | .walkComplete .. => none
  | .homeDiscard .. => none
  | .lineEntryUncorrectable .. => none
  | .tileEntryUncorrectable .. => none
  | .correctableError .. => none
  | .memoryChannelServe .. => none
  | .dieCachePrefetch .. => none
  | .faultQueueSpace .. => none
  | .noticeStoreDrain .. => none
  | .noticeDropAlert .. => none
  | .taskReplay .. => none
  | .remoteStoreArrival .. => none
  | .remoteFaultRecord .. => none
  | .stagingTimeout .. => none
  | .uncorrectableTeamError .. => none
  | .travelPacketArrival .. => none
  | .travelPacketReturn .. => none
  | .messageEngineExecute .. => none
  | .copyPageTranslate .. => none
  | .copyArrival .. => none
  | .stageFreeNotice .. => none
  | .cpyrFire .. => none
  | .matrixStepFire .. => none
  | .matrixOpComplete .. => none
  | .lctctlLock .. => none
  | .partDiesWrite .. => none
  | .partHaltreq .. => none
  | .partitionHalted .. => none
  | .partResume .. => none
  | .partSwapout .. => none
  | .swapoutComplete .. => none
  | .partSwapin .. => none
  | .swapinComplete .. => none
  | .partErrClear .. => none
  | .dealTask .. => none
  | .bandAdmit .. => none
  | .taskDispatch .. => none
  | .taskRetire .. => none
  | .slotSpill .. => none
  | .spillComplete .. => none
  | .slotRestore .. => none
  | .joinSpill .. => none
  | .watchPoll .. => none
  | .waitevTimeout .. => none
  | .joinPoll .. => none
  | .fetchFault .. => none
  | .illegalInstruction .. => none
  | .collectiveStart .. => none
  | .collectiveChunkReceive .. => none
  | .collectiveAnnounce .. => none
  | .collectivePeerAbort .. => none
  | .add .. => none
  | .sub .. => none
  | .and .. => none
  | .or .. => none
  | .xor .. => none
  | .andn .. => none
  | .orn .. => none
  | .sll .. => none
  | .srl .. => none
  | .sra .. => none
  | .rol .. => none
  | .ror .. => none
  | .slt .. => none
  | .sltn .. => none
  | .seq .. => none
  | .min .. => none
  | .max .. => none
  | .minn .. => none
  | .maxn .. => none
  | .mul .. => none
  | .mulh .. => none
  | .mulhn .. => none
  | .div .. => none
  | .divn .. => none
  | .rem .. => none
  | .remn .. => none
  | .clz .. => none
  | .ctz .. => none
  | .popc .. => none
  | .bswap .. => none
  | .cmov .. => none
  | .shadd1 .. => none
  | .shadd2 .. => none
  | .shadd3 .. => none
  | .crcb .. => none
  | .crcd .. => none
  | .mix64 .. => none
  | .addi .. => none
  | .andi .. => none
  | .ori .. => none
  | .xori .. => none
  | .slti .. => none
  | .sltin .. => none
  | .lih .. => none
  | .addpc .. => none
  | .slli .. => none
  | .srli .. => none
  | .srai .. => none
  | .rori .. => none
  | .bfx _ _ l o => orIllegal (decide (o.val + (l.val + 1) ≤ 64)) .bitfield
  | .bfxs _ _ l o => orIllegal (decide (o.val + (l.val + 1) ≤ 64)) .bitfield
  | .beq .. => none
  | .bne .. => none
  | .blt .. => none
  | .bge .. => none
  | .bltn .. => none
  | .bgen .. => none
  | .jmp .. => none
  | .jal .. => none
  | .prep .. => none
  | .jr .. => none
  | .jalr .. => none
  | .btr .. => none
  | .btrz .. => none
  | .btrnz .. => none
  | .fork .. => none
  | .join .. => none
  | .yield .. => none
  | .stop .. => none
  | .taskid .. => none
  | .ldb .. => none
  | .ldh .. => none
  | .ldw .. => none
  | .ldd .. => none
  | .ldbn .. => none
  | .ldhn .. => none
  | .ldwn .. => none
  | .stb .. => none
  | .sth .. => none
  | .stw .. => none
  | .std .. => none
  | .ldp .. => none
  | .stp .. => none
  | .ldxb .. => none
  | .ldxh .. => none
  | .ldxw .. => none
  | .ldxd .. => none
  | .ldxbn .. => none
  | .ldxhn .. => none
  | .ldxwn .. => none
  | .stxb .. => none
  | .stxh .. => none
  | .stxw .. => none
  | .stxd .. => none
  | .ldaqB _ _ _ sc => orIllegal (decide (sc.val ≠ 7)) .scope
  | .ldaqH _ _ _ sc => orIllegal (decide (sc.val ≠ 7)) .scope
  | .ldaqW _ _ _ sc => orIllegal (decide (sc.val ≠ 7)) .scope
  | .ldaqD _ _ _ sc => orIllegal (decide (sc.val ≠ 7)) .scope
  | .strlB _ _ _ sc => orIllegal (decide (sc.val ≠ 7)) .scope
  | .strlH _ _ _ sc => orIllegal (decide (sc.val ≠ 7)) .scope
  | .strlW _ _ _ sc => orIllegal (decide (sc.val ≠ 7)) .scope
  | .strlD _ _ _ sc => orIllegal (decide (sc.val ≠ 7)) .scope
  | .ldpb .. => none
  | .ldph .. => none
  | .ldpw .. => none
  | .ldpbn .. => none
  | .ldphn .. => none
  | .ldpwn .. => none
  | .stpb .. => none
  | .stph .. => none
  | .stpw .. => none
  | .pfh .. => none
  | .pfd .. => none
  | .disc .. => none
  | .amoaddd _ _ _ sc _ => orIllegal (decide (sc.val ≠ 7)) .scope
  | .amoaddw _ _ _ sc _ => orIllegal (decide (sc.val ≠ 7)) .scope
  | .amoand _ _ _ sc _ => orIllegal (decide (sc.val ≠ 7)) .scope
  | .amoor _ _ _ sc _ => orIllegal (decide (sc.val ≠ 7)) .scope
  | .amoxor _ _ _ sc _ => orIllegal (decide (sc.val ≠ 7)) .scope
  | .amomin _ _ _ sc _ => orIllegal (decide (sc.val ≠ 7)) .scope
  | .amomax _ _ _ sc _ => orIllegal (decide (sc.val ≠ 7)) .scope
  | .amominn _ _ _ sc _ => orIllegal (decide (sc.val ≠ 7)) .scope
  | .amomaxn _ _ _ sc _ => orIllegal (decide (sc.val ≠ 7)) .scope
  | .amoswap _ _ _ sc _ => orIllegal (decide (sc.val ≠ 7)) .scope
  | .amocas _ _ _ sc _ => orIllegal (decide (sc.val ≠ 7)) .scope
  | .amofadd32 _ _ _ sc _ => orIllegal (decide (sc.val ≠ 7)) .scope
  | .amofmax32 _ _ _ sc _ => orIllegal (decide (sc.val ≠ 7)) .scope
  | .fence sc => orIllegal (decide (sc.val ≠ 7)) .scope
  | .fencerl sc => orIllegal (decide (sc.val ≠ 7)) .scope
  | .fenceaq sc => orIllegal (decide (sc.val ≠ 7)) .scope
  | .fencerg _ _ sc => orIllegal (decide (sc.val ≠ 7)) .scope
  | .bart sc => orIllegal (decide (sc.val ≠ 7)) .scope
  | .barg sc => orIllegal (decide (sc.val ≠ 7)) .scope
  | .barb sc => orIllegal (decide (sc.val ≠ 7)) .scope
  | .boinit .. => none
  | .boexp .. => none
  | .boarr _ sc => orIllegal (decide (sc.val ≠ 7)) .scope
  | .bowait _ _ sc => orIllegal (decide (sc.val ≠ 7)) .scope
  | .botest _ _ _ sc => orIllegal (decide (sc.val ≠ 7)) .scope
  | .scopeset n => orIllegal (decide (8 ≤ n.val)) .scope
  | .tdecl .. => none
  | .tdrop .. => none
  | .tfwd .. => none
  | .publ .. => none
  | .watch .. => none
  | .waitev .. => none
  | .xfence .. => none
  | .vadd _ _ _ _ t => orIllegal t.isInt .typeCode
  | .vsub _ _ _ _ t => orIllegal t.isInt .typeCode
  | .vmul _ _ _ _ t => orIllegal t.isInt .typeCode
  | .vmulh _ _ _ _ t => orIllegal t.isInt .typeCode
  | .vand _ _ _ _ t => orIllegal t.isInt .typeCode
  | .vor _ _ _ _ t => orIllegal t.isInt .typeCode
  | .vxor _ _ _ _ t => orIllegal t.isInt .typeCode
  | .vandn _ _ _ _ t => orIllegal t.isInt .typeCode
  | .vsll _ _ _ _ t => orIllegal t.isInt .typeCode
  | .vsrl _ _ _ _ t => orIllegal t.isInt .typeCode
  | .vsra _ _ _ _ t => orIllegal t.isInt .typeCode
  | .vmin _ _ _ _ t => orIllegal t.isInt .typeCode
  | .vmax _ _ _ _ t => orIllegal t.isInt .typeCode
  | .vminn _ _ _ _ t => orIllegal t.isInt .typeCode
  | .vmaxn _ _ _ _ t => orIllegal t.isInt .typeCode
  | .vadds _ _ _ _ t => orIllegal t.isInt .typeCode
  | .vsubs _ _ _ _ t => orIllegal t.isInt .typeCode
  | .vaddsn _ _ _ _ t => orIllegal t.isInt .typeCode
  | .vsubsn _ _ _ _ t => orIllegal t.isInt .typeCode
  | .vabsd _ _ _ _ t => orIllegal t.isInt .typeCode
  | .vcmpeq _ _ _ _ t => orIllegal t.isInt .typeCode
  | .vcmplt _ _ _ _ t => orIllegal t.isInt .typeCode
  | .vcmpltn _ _ _ _ t => orIllegal t.isInt .typeCode
  | .vcmple _ _ _ _ t => orIllegal t.isInt .typeCode
  | .vsel _ _ _ _ t => orIllegal t.notF64 .typeCode
  | .vsplat _ _ _ t => orIllegal t.notF64 .typeCode
  | .viota _ _ t => orIllegal t.isInt .typeCode
  | .vmovx _ _ _ t => orIllegal t.notF64 .typeCode
  | .vaddi _ _ _ _ t => orIllegal t.isInt .typeCode
  | .vslli _ _ _ _ t => orIllegal t.isInt .typeCode
  | .vsrli _ _ _ _ t => orIllegal t.isInt .typeCode
  | .vsrai _ _ _ _ t => orIllegal t.isInt .typeCode
  | .vfadd _ _ _ _ t => orIllegal t.isFlt .typeCode
  | .vfsub _ _ _ _ t => orIllegal t.isFlt .typeCode
  | .vfmul _ _ _ _ t => orIllegal t.isFlt .typeCode
  | .vffma _ _ _ _ t => orIllegal t.isFlt .typeCode
  | .vffms _ _ _ _ t => orIllegal t.isFlt .typeCode
  | .vfdiv _ _ _ _ t => orIllegal t.isFlt .typeCode
  | .vfsqrt _ _ _ t => orIllegal t.isFlt .typeCode
  | .vfmin _ _ _ _ t => orIllegal t.isFlt .typeCode
  | .vfmax _ _ _ _ t => orIllegal t.isFlt .typeCode
  | .vfabs _ _ _ t => orIllegal t.isFlt .typeCode
  | .vfneg _ _ _ t => orIllegal t.isFlt .typeCode
  | .vfcmpeq _ _ _ _ t => orIllegal t.isFlt .typeCode
  | .vfcmplt _ _ _ _ t => orIllegal t.isFlt .typeCode
  | .vfcmple _ _ _ _ t => orIllegal t.isFlt .typeCode
  | .vfclass _ _ _ t => orIllegal t.isFlt .typeCode
  | .vcvtf _ _ c _ t => if t.isFlt && c.isFlt then orIllegal (decide (c ≠ t)) .conversion else some .typeCode
  | .vcvtfi _ _ _ _ t => orIllegal t.isFlt .typeCode
  | .vcvtif _ _ _ _ t => orIllegal t.isFlt .typeCode
  | .vfsplat _ _ _ t => orIllegal t.isFlt .typeCode
  | .vfrecip _ _ _ t => orIllegal t.isFlt .typeCode
  | .vfrsqrt _ _ _ t => orIllegal t.isFlt .typeCode
  | .vfscale _ _ _ _ t => orIllegal t.isFlt .typeCode
  | .vfdot2 _ _ _ _ t => orIllegal t.isHalf .typeCode
  | .vld _ _ _ t => orIllegal t.notF64 .typeCode
  | .vlds _ _ _ _ t => orIllegal t.notF64 .typeCode
  | .vldx _ _ _ _ t => orIllegal t.notF64 .typeCode
  | .vst _ _ _ t => orIllegal t.notF64 .typeCode
  | .vsts _ _ _ _ t => orIllegal t.notF64 .typeCode
  | .vstx _ _ _ _ t => orIllegal t.notF64 .typeCode
  | .vldp _ _ _ t => orIllegal t.notF64 .typeCode
  | .vstp _ _ _ t => orIllegal t.notF64 .typeCode
  | .vldpx _ _ _ _ t => orIllegal t.notF64 .typeCode
  | .vstpx _ _ _ _ t => orIllegal t.notF64 .typeCode
  | .vldb _ _ _ t => orIllegal t.notF64 .typeCode
  | .kand .. => none
  | .kor .. => none
  | .kxor .. => none
  | .knot .. => none
  | .kpop _ _ t => orIllegal t.notF64 .typeCode
  | .kfirst _ _ t => orIllegal t.notF64 .typeCode
  | .kset _ _ t => orIllegal t.notF64 .typeCode
  | .vcompress _ _ _ t => orIllegal t.notF64 .typeCode
  | .vexpand _ _ _ t => orIllegal t.notF64 .typeCode
  | .vperm _ _ _ _ t => orIllegal t.notF64 .typeCode
  | .vslideup _ _ _ _ t => orIllegal t.notF64 .typeCode
  | .vslidedn _ _ _ _ t => orIllegal t.notF64 .typeCode
  | .vredadd _ _ _ _ t => orIllegal t.isInt .typeCode
  | .vredmin _ _ _ _ t => orIllegal t.isInt .typeCode
  | .vredmax _ _ _ _ t => orIllegal t.isInt .typeCode
  | .vfredadd _ _ _ _ t => orIllegal t.isRedFlt .typeCode
  | .vfredmax _ _ _ _ t => orIllegal t.isRedFlt .typeCode
  | .vscanadd _ _ _ t => orIllegal t.isInt .typeCode
  | .vzip _ _ _ _ t => orIllegal t.notF64 .typeCode
  | .vunzip _ _ _ _ t => orIllegal t.notF64 .typeCode
  | .vhashc _ _ _ _ t => orIllegal t.isKey .typeCode
  | .vhashm .. => none
  | .vpart _ _ _ _ t => orIllegal t.isKey .typeCode
  | .vhist .. => none
  | .vdesc .. => none
  | .vslen .. => none
  | .vspfx .. => none
  | .vscmp .. => none
  | .vsfind .. => none
  | .vseq .. => none
  | .vshash .. => none
  | .vsetvl _ _ t => orIllegal t.notF64 .typeCode
  | .valloc .. => none
  | .vshrink .. => none
  | .vallot .. => none
  | .vmv .. => none
  | .mma .. => none
  | .mmas .. => none
  | .mzero .. => none
  | .mload .. => none
  | .mdrain .. => none
  | .mstat .. => none
  | .rgcfg .. => none
  | .rgadv .. => none
  | .rgtake .. => none
  | .rgstat .. => none
  | .rgreset .. => none
  | .cpy _ sc => orIllegal (decide (sc.val ≠ 7)) .scope
  | .cpyt _ _ sc => orIllegal (decide (sc.val ≠ 7)) .scope
  | .cpym _ _ sc => orIllegal (decide (sc.val ≠ 7)) .scope
  | .cpyr _ _ sc => orIllegal (decide (sc.val ≠ 7)) .scope
  | .cpyg _ _ sc => orIllegal (decide (sc.val ≠ 7)) .scope
  | .cpyp _ _ sc => orIllegal (decide (sc.val ≠ 7)) .scope
  | .cpyq .. => none
  | .colrun .. => none
  | .colstat .. => none
  | .colresume .. => none
  | .colabort .. => none
  | .eset .. => none
  | .eget .. => none
  | .trap .. => none
  | .eret .. => none
  | .sysr .. => none
  | .sysw _ n => orIllegal n.writable .readOnly
  | .sysset _ n => orIllegal n.writable .readOnly
  | .sysclr _ n => orIllegal n.writable .readOnly
  | .halt .. => none
  | .ifence .. => none
  | .spill .. => none
  | .restore .. => none
  | .csend .. => none
  | .alert .. => none
  | .launch .. => none
  | .faultackResume .. => none
  | .faultackAbandon .. => none
  | .seal .. => none
  | .alleyLinkDown .. => none
  | .commandCoreStart .. => none
  | .cxlPortUp .. => none
  | .slotRestoreComplete .. => none

/-- An instruction all of whose field conditions hold. -/
def Instr.wellFormed (i : Instr) : Bool := i.check.isNone

end Sys2Proof
end

