-- ==== Sys2Proof/Decode.lean ====
section
/-! DEFINITION. The decoder and the encoder of the 32-bit instruction words (R261 to R268).
The decoding functions are marked noncomputable for one reason: Lean's runtime gives an object at most 244 constructors,
and the opcode table has 419 rows. The kernel evaluates them. -/

namespace Sys2Proof

/-- Bits lo to lo + w - 1 of a word. -/
def fld (n lo w : Nat) : Nat := n / 2 ^ lo % 2 ^ w

/-- A 5-bit register, scope or tile field. -/
def reg (n lo : Nat) : Fin 32 := Fin.ofNat 32 (n / 2 ^ lo)

/-- A 3-bit register field. -/
def k3 (n lo : Nat) : Fin 8 := Fin.ofNat 8 (n / 2 ^ lo)

/-- A 2-bit branch-target register field. -/
def b2 (n lo : Nat) : Fin 4 := Fin.ofNat 4 (n / 2 ^ lo)

/-- A 6-bit shift or bit-field operand. -/
def six (n lo : Nat) : Fin 64 := Fin.ofNat 64 (n / 2 ^ lo)

/-- An immediate or displacement field. -/
def imm (n lo w : Nat) : BitVec w := BitVec.ofNat w (n / 2 ^ lo)

/-- A one-bit field. -/
def bit (n lo : Nat) : Bool := n / 2 ^ lo % 2 == 1

/-- The order field of AMO (R156). -/
def ord (n lo : Nat) : Ord :=
  match n / 2 ^ lo % 4 with
  | 0 => .rlx
  | 1 => .acq
  | 2 => .rel
  | _ => .ar

/-- A type code outside VFLT (R264). -/
def eltI (n lo : Nat) : Option ElTy :=
  match n / 2 ^ lo % 8 with
  | 0 => some .i8
  | 1 => some .i16
  | 2 => some .i32
  | 3 => some .i64
  | 4 => some .q8
  | 5 => some .f16
  | 6 => some .bf16
  | _ => some .f32

/-- A type code in VFLT (R264). -/
def eltF (n lo : Nat) : Option ElTy :=
  match n / 2 ^ lo % 8 with
  | 3 => some .f64
  | 4 => some .q8
  | 5 => some .f16
  | 6 => some .bf16
  | 7 => some .f32
  | _ => none

/-- The system register of a SYSN (R259). -/
def sysn (n lo : Nat) : Option SysReg :=
  let v := n / 2 ^ lo % 1024
  match v with
  | 0x000 => some .slotid
  | 0x001 => some .coreid
  | 0x002 => some .pcoreid
  | 0x003 => some .socket
  | 0x004 => some .pkgid
  | 0x005 => some .ctxid
  | 0x006 => some .poolpart
  | 0x007 => some .faultq
  | 0x010 => some .xpc
  | 0x011 => some .xcause
  | 0x012 => some .xval
  | 0x013 => some .xvec
  | 0x020 => some .fmta
  | 0x021 => some .fmtb
  | 0x022 => some .fmtc
  | 0x023 => some .scalea
  | 0x024 => some .scaleb
  | _ => if v / 16 == 4 then some (.harvest (Fin.ofNat 16 v)) else none

/-- The engine register of an ENO (R355). -/
def engn (n lo : Nat) : Option EngReg :=
  match n / 2 ^ lo % 32 with
  | 0 => some .cbase
  | 1 => some .cctl
  | 2 => some .cpool
  | 3 => some .cext
  | 4 => some .cstr01
  | 5 => some .cstr23
  | 6 => some .ccrd01
  | 7 => some .ccrd23
  | 8 => some .clo01
  | 9 => some .clo23
  | 10 => some .chi01
  | 11 => some .chi23
  | 12 => some .cfill0
  | 13 => some .cfill1
  | 14 => some .caux
  | _ => none

/-- Reject by name where a condition fails. -/
def require (c : Bool) (e : Illegal) (r : Except Illegal Instr) : Except Illegal Instr :=
  if c then r else .error e

/-- Reject by name where a field has no meaning. -/
def withField {α : Type} (o : Option α) (e : Illegal) (f : α → Except Illegal Instr) : Except Illegal Instr :=
  match o with
  | some a => f a
  | none => .error e

/-- Major 0x01 (R266). -/
noncomputable def decodeAlu (n : Nat) : Except Illegal Instr :=
  match fld n 0 11 with
  | 0 => .ok (.add (reg n 21) (reg n 16) (reg n 11))
  | 1 => .ok (.sub (reg n 21) (reg n 16) (reg n 11))
  | 2 => .ok (.and (reg n 21) (reg n 16) (reg n 11))
  | 3 => .ok (.or (reg n 21) (reg n 16) (reg n 11))
  | 4 => .ok (.xor (reg n 21) (reg n 16) (reg n 11))
  | 5 => .ok (.andn (reg n 21) (reg n 16) (reg n 11))
  | 6 => .ok (.orn (reg n 21) (reg n 16) (reg n 11))
  | 7 => .ok (.sll (reg n 21) (reg n 16) (reg n 11))
  | 8 => .ok (.srl (reg n 21) (reg n 16) (reg n 11))
  | 9 => .ok (.sra (reg n 21) (reg n 16) (reg n 11))
  | 10 => .ok (.rol (reg n 21) (reg n 16) (reg n 11))
  | 11 => .ok (.ror (reg n 21) (reg n 16) (reg n 11))
  | 12 => .ok (.slt (reg n 21) (reg n 16) (reg n 11))
  | 13 => .ok (.sltn (reg n 21) (reg n 16) (reg n 11))
  | 14 => .ok (.seq (reg n 21) (reg n 16) (reg n 11))
  | 15 => .ok (.min (reg n 21) (reg n 16) (reg n 11))
  | 16 => .ok (.max (reg n 21) (reg n 16) (reg n 11))
  | 17 => .ok (.minn (reg n 21) (reg n 16) (reg n 11))
  | 18 => .ok (.maxn (reg n 21) (reg n 16) (reg n 11))
  | 19 => .ok (.mul (reg n 21) (reg n 16) (reg n 11))
  | 20 => .ok (.mulh (reg n 21) (reg n 16) (reg n 11))
  | 21 => .ok (.mulhn (reg n 21) (reg n 16) (reg n 11))
  | 22 => .ok (.div (reg n 21) (reg n 16) (reg n 11))
  | 23 => .ok (.divn (reg n 21) (reg n 16) (reg n 11))
  | 24 => .ok (.rem (reg n 21) (reg n 16) (reg n 11))
  | 25 => .ok (.remn (reg n 21) (reg n 16) (reg n 11))
  | 26 => require (fld n 11 5 == 0) .unusedField (.ok (.clz (reg n 21) (reg n 16)))
  | 27 => require (fld n 11 5 == 0) .unusedField (.ok (.ctz (reg n 21) (reg n 16)))
  | 28 => require (fld n 11 5 == 0) .unusedField (.ok (.popc (reg n 21) (reg n 16)))
  | 29 => require (fld n 11 5 == 0) .unusedField (.ok (.bswap (reg n 21) (reg n 16)))
  | 30 => .ok (.cmov (reg n 21) (reg n 16) (reg n 11))
  | 31 => .ok (.shadd1 (reg n 21) (reg n 16) (reg n 11))
  | 32 => .ok (.shadd2 (reg n 21) (reg n 16) (reg n 11))
  | 33 => .ok (.shadd3 (reg n 21) (reg n 16) (reg n 11))
  | 34 => .ok (.crcb (reg n 21) (reg n 16) (reg n 11))
  | 35 => .ok (.crcd (reg n 21) (reg n 16) (reg n 11))
  | 36 => .ok (.mix64 (reg n 21) (reg n 16) (reg n 11))
  | _ => .error .unlistedMinor

/-- Major 0x0A (R266). -/
noncomputable def decodeShi (n : Nat) : Except Illegal Instr :=
  match fld n 6 10 with
  | 0 => .ok (.slli (reg n 21) (reg n 16) (six n 0))
  | 1 => .ok (.srli (reg n 21) (reg n 16) (six n 0))
  | 2 => .ok (.srai (reg n 21) (reg n 16) (six n 0))
  | 3 => .ok (.rori (reg n 21) (reg n 16) (six n 0))
  | _ => .error .unlistedMinor

/-- Major 0x0B (R266). -/
noncomputable def decodeBfx (n : Nat) : Except Illegal Instr :=
  match fld n 12 4 with
  | 0 => .ok (.bfx (reg n 21) (reg n 16) (six n 6) (six n 0))
  | 1 => .ok (.bfxs (reg n 21) (reg n 16) (six n 6) (six n 0))
  | _ => .error .unlistedMinor

/-- Major 0x15 (R266). -/
noncomputable def decodeCtl (n : Nat) : Except Illegal Instr :=
  match fld n 0 11 with
  | 0 => require (fld n 11 5 == 0) .unusedField (require (fld n 21 5 == 0) .unusedField (.ok (.jr (reg n 16))))
  | 1 => require (fld n 11 5 == 0) .unusedField (.ok (.jalr (reg n 21) (reg n 16)))
  | 2 => require (fld n 13 8 == 0) .unusedField (.ok (.btr (reg n 21) (b2 n 11)))
  | 3 => require (fld n 13 3 == 0) .unusedField (require (fld n 21 5 == 0) .unusedField (.ok (.btrz (reg n 16) (b2 n 11))))
  | 4 => require (fld n 13 3 == 0) .unusedField (require (fld n 21 5 == 0) .unusedField (.ok (.btrnz (reg n 16) (b2 n 11))))
  | 5 => .ok (.fork (reg n 21) (reg n 16) (reg n 11))
  | 6 => require (fld n 11 5 == 0) .unusedField (require (fld n 21 5 == 0) .unusedField (.ok (.join (reg n 16))))
  | 7 => require (fld n 11 15 == 0) .unusedField (.ok (.yield))
  | 8 => require (fld n 11 15 == 0) .unusedField (.ok (.stop))
  | 9 => require (fld n 11 10 == 0) .unusedField (.ok (.taskid (reg n 21)))
  | _ => .error .unlistedMinor

/-- Major 0x23 (R266). -/
noncomputable def decodeMemx (n : Nat) : Except Illegal Instr :=
  match fld n 0 6 with
  | 0 => require (fld n 6 5 == 0) .unusedField (.ok (.ldxb (reg n 21) (reg n 16) (reg n 11)))
  | 1 => require (fld n 6 5 == 0) .unusedField (.ok (.ldxh (reg n 21) (reg n 16) (reg n 11)))
  | 2 => require (fld n 6 5 == 0) .unusedField (.ok (.ldxw (reg n 21) (reg n 16) (reg n 11)))
  | 3 => require (fld n 6 5 == 0) .unusedField (.ok (.ldxd (reg n 21) (reg n 16) (reg n 11)))
  | 4 => require (fld n 6 5 == 0) .unusedField (.ok (.ldxbn (reg n 21) (reg n 16) (reg n 11)))
  | 5 => require (fld n 6 5 == 0) .unusedField (.ok (.ldxhn (reg n 21) (reg n 16) (reg n 11)))
  | 6 => require (fld n 6 5 == 0) .unusedField (.ok (.ldxwn (reg n 21) (reg n 16) (reg n 11)))
  | 7 => require (fld n 6 5 == 0) .unusedField (.ok (.stxb (reg n 21) (reg n 16) (reg n 11)))
  | 8 => require (fld n 6 5 == 0) .unusedField (.ok (.stxh (reg n 21) (reg n 16) (reg n 11)))
  | 9 => require (fld n 6 5 == 0) .unusedField (.ok (.stxw (reg n 21) (reg n 16) (reg n 11)))
  | 10 => require (fld n 6 5 == 0) .unusedField (.ok (.stxd (reg n 21) (reg n 16) (reg n 11)))
  | 11 => .ok (.ldaqB (reg n 21) (reg n 16) (reg n 11) (reg n 6))
  | 12 => .ok (.ldaqH (reg n 21) (reg n 16) (reg n 11) (reg n 6))
  | 13 => .ok (.ldaqW (reg n 21) (reg n 16) (reg n 11) (reg n 6))
  | 14 => .ok (.ldaqD (reg n 21) (reg n 16) (reg n 11) (reg n 6))
  | 15 => .ok (.strlB (reg n 21) (reg n 16) (reg n 11) (reg n 6))
  | 16 => .ok (.strlH (reg n 21) (reg n 16) (reg n 11) (reg n 6))
  | 17 => .ok (.strlW (reg n 21) (reg n 16) (reg n 11) (reg n 6))
  | 18 => .ok (.strlD (reg n 21) (reg n 16) (reg n 11) (reg n 6))
  | 19 => require (fld n 6 5 == 0) .unusedField (.ok (.ldpb (reg n 21) (reg n 16) (reg n 11)))
  | 20 => require (fld n 6 5 == 0) .unusedField (.ok (.ldph (reg n 21) (reg n 16) (reg n 11)))
  | 21 => require (fld n 6 5 == 0) .unusedField (.ok (.ldpw (reg n 21) (reg n 16) (reg n 11)))
  | 22 => require (fld n 6 5 == 0) .unusedField (.ok (.ldpbn (reg n 21) (reg n 16) (reg n 11)))
  | 23 => require (fld n 6 5 == 0) .unusedField (.ok (.ldphn (reg n 21) (reg n 16) (reg n 11)))
  | 24 => require (fld n 6 5 == 0) .unusedField (.ok (.ldpwn (reg n 21) (reg n 16) (reg n 11)))
  | 25 => require (fld n 6 5 == 0) .unusedField (.ok (.stpb (reg n 21) (reg n 16) (reg n 11)))
  | 26 => require (fld n 6 5 == 0) .unusedField (.ok (.stph (reg n 21) (reg n 16) (reg n 11)))
  | 27 => require (fld n 6 5 == 0) .unusedField (.ok (.stpw (reg n 21) (reg n 16) (reg n 11)))
  | 28 => require (fld n 6 5 == 0) .unusedField (require (fld n 21 5 == 0) .unusedField (.ok (.pfh (reg n 16) (reg n 11))))
  | 29 => require (fld n 6 5 == 0) .unusedField (require (fld n 21 5 == 0) .unusedField (.ok (.pfd (reg n 16) (reg n 11))))
  | 30 => require (fld n 6 5 == 0) .unusedField (require (fld n 21 5 == 0) .unusedField (.ok (.disc (reg n 16) (reg n 11))))
  | _ => .error .unlistedMinor

/-- Major 0x24 (R266). -/
noncomputable def decodeAmo (n : Nat) : Except Illegal Instr :=
  match fld n 0 4 with
  | 0 => .ok (.amoaddd (reg n 21) (reg n 16) (reg n 11) (reg n 6) (ord n 4))
  | 1 => .ok (.amoaddw (reg n 21) (reg n 16) (reg n 11) (reg n 6) (ord n 4))
  | 2 => .ok (.amoand (reg n 21) (reg n 16) (reg n 11) (reg n 6) (ord n 4))
  | 3 => .ok (.amoor (reg n 21) (reg n 16) (reg n 11) (reg n 6) (ord n 4))
  | 4 => .ok (.amoxor (reg n 21) (reg n 16) (reg n 11) (reg n 6) (ord n 4))
  | 5 => .ok (.amomin (reg n 21) (reg n 16) (reg n 11) (reg n 6) (ord n 4))
  | 6 => .ok (.amomax (reg n 21) (reg n 16) (reg n 11) (reg n 6) (ord n 4))
  | 7 => .ok (.amominn (reg n 21) (reg n 16) (reg n 11) (reg n 6) (ord n 4))
  | 8 => .ok (.amomaxn (reg n 21) (reg n 16) (reg n 11) (reg n 6) (ord n 4))
  | 9 => .ok (.amoswap (reg n 21) (reg n 16) (reg n 11) (reg n 6) (ord n 4))
  | 10 => .ok (.amocas (reg n 21) (reg n 16) (reg n 11) (reg n 6) (ord n 4))
  | 11 => .ok (.amofadd32 (reg n 21) (reg n 16) (reg n 11) (reg n 6) (ord n 4))
  | 12 => .ok (.amofmax32 (reg n 21) (reg n 16) (reg n 11) (reg n 6) (ord n 4))
  | _ => .error .unlistedMinor

/-- Major 0x25 (R266). -/
noncomputable def decodeSync (n : Nat) : Except Illegal Instr :=
  match fld n 0 6 with
  | 0 => require (fld n 11 15 == 0) .unusedField (.ok (.fence (reg n 6)))
  | 1 => require (fld n 11 15 == 0) .unusedField (.ok (.fencerl (reg n 6)))
  | 2 => require (fld n 11 15 == 0) .unusedField (.ok (.fenceaq (reg n 6)))
  | 3 => require (fld n 21 5 == 0) .unusedField (.ok (.fencerg (reg n 16) (reg n 11) (reg n 6)))
  | 4 => require (fld n 11 15 == 0) .unusedField (.ok (.bart (reg n 6)))
  | 5 => require (fld n 11 15 == 0) .unusedField (.ok (.barg (reg n 6)))
  | 6 => require (fld n 11 15 == 0) .unusedField (.ok (.barb (reg n 6)))
  | 7 => require (fld n 6 5 == 0) .unusedField (require (fld n 21 5 == 0) .unusedField (.ok (.boinit (reg n 16) (reg n 11))))
  | 8 => require (fld n 6 5 == 0) .unusedField (require (fld n 21 5 == 0) .unusedField (.ok (.boexp (reg n 16) (reg n 11))))
  | 9 => require (fld n 11 5 == 0) .unusedField (require (fld n 21 5 == 0) .unusedField (.ok (.boarr (reg n 16) (reg n 6))))
  | 10 => require (fld n 21 5 == 0) .unusedField (.ok (.bowait (reg n 16) (reg n 11) (reg n 6)))
  | 11 => .ok (.botest (reg n 21) (reg n 16) (reg n 11) (reg n 6))
  | 12 => require (fld n 11 15 == 0) .unusedField (.ok (.scopeset (reg n 6)))
  | 13 => require (fld n 6 10 == 0) .unusedField (.ok (.tdecl (reg n 21) (reg n 16)))
  | 14 => require (fld n 6 10 == 0) .unusedField (require (fld n 21 5 == 0) .unusedField (.ok (.tdrop (reg n 16))))
  | 15 => require (fld n 6 5 == 0) .unusedField (require (fld n 21 5 == 0) .unusedField (.ok (.tfwd (reg n 16) (reg n 11))))
  | 16 => require (fld n 6 10 == 0) .unusedField (require (fld n 21 5 == 0) .unusedField (.ok (.publ (reg n 16))))
  | 17 => require (fld n 6 10 == 0) .unusedField (.ok (.watch (reg n 21) (reg n 16)))
  | 18 => require (fld n 6 10 == 0) .unusedField (.ok (.waitev (reg n 21) (reg n 16)))
  | 19 => require (fld n 11 15 == 0) .unusedField (.ok (.xfence (reg n 6)))
  | _ => .error .unlistedMinor

/-- Major 0x26 (R266). -/
noncomputable def decodeVint (n : Nat) : Except Illegal Instr :=
  match fld n 0 5 with
  | 0 => withField (eltI n 5) .typeCode fun t => .ok (.vadd (reg n 21) (reg n 16) (reg n 11) (k3 n 8) t)
  | 1 => withField (eltI n 5) .typeCode fun t => .ok (.vsub (reg n 21) (reg n 16) (reg n 11) (k3 n 8) t)
  | 2 => withField (eltI n 5) .typeCode fun t => .ok (.vmul (reg n 21) (reg n 16) (reg n 11) (k3 n 8) t)
  | 3 => withField (eltI n 5) .typeCode fun t => .ok (.vmulh (reg n 21) (reg n 16) (reg n 11) (k3 n 8) t)
  | 4 => withField (eltI n 5) .typeCode fun t => .ok (.vand (reg n 21) (reg n 16) (reg n 11) (k3 n 8) t)
  | 5 => withField (eltI n 5) .typeCode fun t => .ok (.vor (reg n 21) (reg n 16) (reg n 11) (k3 n 8) t)
  | 6 => withField (eltI n 5) .typeCode fun t => .ok (.vxor (reg n 21) (reg n 16) (reg n 11) (k3 n 8) t)
  | 7 => withField (eltI n 5) .typeCode fun t => .ok (.vandn (reg n 21) (reg n 16) (reg n 11) (k3 n 8) t)
  | 8 => withField (eltI n 5) .typeCode fun t => .ok (.vsll (reg n 21) (reg n 16) (reg n 11) (k3 n 8) t)
  | 9 => withField (eltI n 5) .typeCode fun t => .ok (.vsrl (reg n 21) (reg n 16) (reg n 11) (k3 n 8) t)
  | 10 => withField (eltI n 5) .typeCode fun t => .ok (.vsra (reg n 21) (reg n 16) (reg n 11) (k3 n 8) t)
  | 11 => withField (eltI n 5) .typeCode fun t => .ok (.vmin (reg n 21) (reg n 16) (reg n 11) (k3 n 8) t)
  | 12 => withField (eltI n 5) .typeCode fun t => .ok (.vmax (reg n 21) (reg n 16) (reg n 11) (k3 n 8) t)
  | 13 => withField (eltI n 5) .typeCode fun t => .ok (.vminn (reg n 21) (reg n 16) (reg n 11) (k3 n 8) t)
  | 14 => withField (eltI n 5) .typeCode fun t => .ok (.vmaxn (reg n 21) (reg n 16) (reg n 11) (k3 n 8) t)
  | 15 => withField (eltI n 5) .typeCode fun t => .ok (.vadds (reg n 21) (reg n 16) (reg n 11) (k3 n 8) t)
  | 16 => withField (eltI n 5) .typeCode fun t => .ok (.vsubs (reg n 21) (reg n 16) (reg n 11) (k3 n 8) t)
  | 17 => withField (eltI n 5) .typeCode fun t => .ok (.vaddsn (reg n 21) (reg n 16) (reg n 11) (k3 n 8) t)
  | 18 => withField (eltI n 5) .typeCode fun t => .ok (.vsubsn (reg n 21) (reg n 16) (reg n 11) (k3 n 8) t)
  | 19 => withField (eltI n 5) .typeCode fun t => .ok (.vabsd (reg n 21) (reg n 16) (reg n 11) (k3 n 8) t)
  | 20 => require (fld n 24 2 == 0) .registerNumber (withField (eltI n 5) .typeCode fun t => .ok (.vcmpeq (k3 n 21) (reg n 16) (reg n 11) (k3 n 8) t))
  | 21 => require (fld n 24 2 == 0) .registerNumber (withField (eltI n 5) .typeCode fun t => .ok (.vcmplt (k3 n 21) (reg n 16) (reg n 11) (k3 n 8) t))
  | 22 => require (fld n 24 2 == 0) .registerNumber (withField (eltI n 5) .typeCode fun t => .ok (.vcmpltn (k3 n 21) (reg n 16) (reg n 11) (k3 n 8) t))
  | 23 => require (fld n 24 2 == 0) .registerNumber (withField (eltI n 5) .typeCode fun t => .ok (.vcmple (k3 n 21) (reg n 16) (reg n 11) (k3 n 8) t))
  | 24 => withField (eltI n 5) .typeCode fun t => .ok (.vsel (reg n 21) (reg n 16) (reg n 11) (k3 n 8) t)
  | 25 => require (fld n 11 5 == 0) .unusedField (withField (eltI n 5) .typeCode fun t => .ok (.vsplat (reg n 21) (reg n 16) (k3 n 8) t))
  | 26 => require (fld n 11 10 == 0) .unusedField (withField (eltI n 5) .typeCode fun t => .ok (.viota (reg n 21) (k3 n 8) t))
  | 27 => require (fld n 8 3 == 0) .unusedField (withField (eltI n 5) .typeCode fun t => .ok (.vmovx (reg n 21) (reg n 16) (reg n 11) t))
  | 28 => withField (eltI n 5) .typeCode fun t => .ok (.vaddi (reg n 21) (reg n 16) (imm n 11 5) (k3 n 8) t)
  | 29 => withField (eltI n 5) .typeCode fun t => .ok (.vslli (reg n 21) (reg n 16) (imm n 11 5) (k3 n 8) t)
  | 30 => withField (eltI n 5) .typeCode fun t => .ok (.vsrli (reg n 21) (reg n 16) (imm n 11 5) (k3 n 8) t)
  | 31 => withField (eltI n 5) .typeCode fun t => .ok (.vsrai (reg n 21) (reg n 16) (imm n 11 5) (k3 n 8) t)
  | _ => .error .unlistedMinor

/-- Major 0x27 (R266). -/
noncomputable def decodeVflt (n : Nat) : Except Illegal Instr :=
  match fld n 0 5 with
  | 0 => withField (eltF n 5) .typeCode fun t => .ok (.vfadd (reg n 21) (reg n 16) (reg n 11) (k3 n 8) t)
  | 1 => withField (eltF n 5) .typeCode fun t => .ok (.vfsub (reg n 21) (reg n 16) (reg n 11) (k3 n 8) t)
  | 2 => withField (eltF n 5) .typeCode fun t => .ok (.vfmul (reg n 21) (reg n 16) (reg n 11) (k3 n 8) t)
  | 3 => withField (eltF n 5) .typeCode fun t => .ok (.vffma (reg n 21) (reg n 16) (reg n 11) (k3 n 8) t)
  | 4 => withField (eltF n 5) .typeCode fun t => .ok (.vffms (reg n 21) (reg n 16) (reg n 11) (k3 n 8) t)
  | 5 => withField (eltF n 5) .typeCode fun t => .ok (.vfdiv (reg n 21) (reg n 16) (reg n 11) (k3 n 8) t)
  | 6 => require (fld n 11 5 == 0) .unusedField (withField (eltF n 5) .typeCode fun t => .ok (.vfsqrt (reg n 21) (reg n 16) (k3 n 8) t))
  | 7 => withField (eltF n 5) .typeCode fun t => .ok (.vfmin (reg n 21) (reg n 16) (reg n 11) (k3 n 8) t)
  | 8 => withField (eltF n 5) .typeCode fun t => .ok (.vfmax (reg n 21) (reg n 16) (reg n 11) (k3 n 8) t)
  | 9 => require (fld n 11 5 == 0) .unusedField (withField (eltF n 5) .typeCode fun t => .ok (.vfabs (reg n 21) (reg n 16) (k3 n 8) t))
  | 10 => require (fld n 11 5 == 0) .unusedField (withField (eltF n 5) .typeCode fun t => .ok (.vfneg (reg n 21) (reg n 16) (k3 n 8) t))
  | 11 => require (fld n 24 2 == 0) .registerNumber (withField (eltF n 5) .typeCode fun t => .ok (.vfcmpeq (k3 n 21) (reg n 16) (reg n 11) (k3 n 8) t))
  | 12 => require (fld n 24 2 == 0) .registerNumber (withField (eltF n 5) .typeCode fun t => .ok (.vfcmplt (k3 n 21) (reg n 16) (reg n 11) (k3 n 8) t))
  | 13 => require (fld n 24 2 == 0) .registerNumber (withField (eltF n 5) .typeCode fun t => .ok (.vfcmple (k3 n 21) (reg n 16) (reg n 11) (k3 n 8) t))
  | 14 => require (fld n 11 5 == 0) .unusedField (withField (eltF n 5) .typeCode fun t => .ok (.vfclass (reg n 21) (reg n 16) (k3 n 8) t))
  | 15 => require (fld n 14 2 == 0) .unusedField (withField (eltF n 11) .typeCode fun c => withField (eltF n 5) .typeCode fun t => .ok (.vcvtf (reg n 21) (reg n 16) c (k3 n 8) t))
  | 16 => require (fld n 12 4 == 0) .unusedField (withField (eltF n 5) .typeCode fun t => .ok (.vcvtfi (reg n 21) (reg n 16) (bit n 11) (k3 n 8) t))
  | 17 => require (fld n 12 4 == 0) .unusedField (withField (eltF n 5) .typeCode fun t => .ok (.vcvtif (reg n 21) (reg n 16) (bit n 11) (k3 n 8) t))
  | 18 => require (fld n 11 5 == 0) .unusedField (withField (eltF n 5) .typeCode fun t => .ok (.vfsplat (reg n 21) (reg n 16) (k3 n 8) t))
  | 19 => require (fld n 11 5 == 0) .unusedField (withField (eltF n 5) .typeCode fun t => .ok (.vfrecip (reg n 21) (reg n 16) (k3 n 8) t))
  | 20 => require (fld n 11 5 == 0) .unusedField (withField (eltF n 5) .typeCode fun t => .ok (.vfrsqrt (reg n 21) (reg n 16) (k3 n 8) t))
  | 21 => withField (eltF n 5) .typeCode fun t => .ok (.vfscale (reg n 21) (reg n 16) (reg n 11) (k3 n 8) t)
  | 22 => withField (eltF n 5) .typeCode fun t => .ok (.vfdot2 (reg n 21) (reg n 16) (reg n 11) (k3 n 8) t)
  | _ => .error .unlistedMinor

/-- Major 0x28 (R266). -/
noncomputable def decodeVmem (n : Nat) : Except Illegal Instr :=
  match fld n 0 5 with
  | 0 => require (fld n 11 5 == 0) .unusedField (withField (eltI n 5) .typeCode fun t => .ok (.vld (reg n 21) (reg n 16) (k3 n 8) t))
  | 1 => withField (eltI n 5) .typeCode fun t => .ok (.vlds (reg n 21) (reg n 16) (reg n 11) (k3 n 8) t)
  | 2 => withField (eltI n 5) .typeCode fun t => .ok (.vldx (reg n 21) (reg n 16) (reg n 11) (k3 n 8) t)
  | 3 => require (fld n 11 5 == 0) .unusedField (withField (eltI n 5) .typeCode fun t => .ok (.vst (reg n 21) (reg n 16) (k3 n 8) t))
  | 4 => withField (eltI n 5) .typeCode fun t => .ok (.vsts (reg n 21) (reg n 16) (reg n 11) (k3 n 8) t)
  | 5 => withField (eltI n 5) .typeCode fun t => .ok (.vstx (reg n 21) (reg n 16) (reg n 11) (k3 n 8) t)
  | 6 => require (fld n 11 5 == 0) .unusedField (withField (eltI n 5) .typeCode fun t => .ok (.vldp (reg n 21) (reg n 16) (k3 n 8) t))
  | 7 => require (fld n 11 5 == 0) .unusedField (withField (eltI n 5) .typeCode fun t => .ok (.vstp (reg n 21) (reg n 16) (k3 n 8) t))
  | 8 => withField (eltI n 5) .typeCode fun t => .ok (.vldpx (reg n 21) (reg n 16) (reg n 11) (k3 n 8) t)
  | 9 => withField (eltI n 5) .typeCode fun t => .ok (.vstpx (reg n 21) (reg n 16) (reg n 11) (k3 n 8) t)
  | 10 => require (fld n 11 5 == 0) .unusedField (withField (eltI n 5) .typeCode fun t => .ok (.vldb (reg n 21) (reg n 16) (k3 n 8) t))
  | _ => .error .unlistedMinor

/-- Major 0x29 (R266). -/
noncomputable def decodeVmsk (n : Nat) : Except Illegal Instr :=
  match fld n 0 5 with
  | 0 => require (fld n 5 3 == 0) .typeCode (require (fld n 8 3 == 0) .unusedField (require (fld n 24 2 == 0) .registerNumber (require (fld n 19 2 == 0) .registerNumber (require (fld n 14 2 == 0) .registerNumber (.ok (.kand (k3 n 21) (k3 n 16) (k3 n 11)))))))
  | 1 => require (fld n 5 3 == 0) .typeCode (require (fld n 8 3 == 0) .unusedField (require (fld n 24 2 == 0) .registerNumber (require (fld n 19 2 == 0) .registerNumber (require (fld n 14 2 == 0) .registerNumber (.ok (.kor (k3 n 21) (k3 n 16) (k3 n 11)))))))
  | 2 => require (fld n 5 3 == 0) .typeCode (require (fld n 8 3 == 0) .unusedField (require (fld n 24 2 == 0) .registerNumber (require (fld n 19 2 == 0) .registerNumber (require (fld n 14 2 == 0) .registerNumber (.ok (.kxor (k3 n 21) (k3 n 16) (k3 n 11)))))))
  | 3 => require (fld n 5 3 == 0) .typeCode (require (fld n 8 8 == 0) .unusedField (require (fld n 24 2 == 0) .registerNumber (require (fld n 19 2 == 0) .registerNumber (.ok (.knot (k3 n 21) (k3 n 16))))))
  | 4 => require (fld n 8 8 == 0) .unusedField (require (fld n 19 2 == 0) .registerNumber (withField (eltI n 5) .typeCode fun t => .ok (.kpop (reg n 21) (k3 n 16) t)))
  | 5 => require (fld n 8 8 == 0) .unusedField (require (fld n 19 2 == 0) .registerNumber (withField (eltI n 5) .typeCode fun t => .ok (.kfirst (reg n 21) (k3 n 16) t)))
  | 6 => require (fld n 8 8 == 0) .unusedField (require (fld n 24 2 == 0) .registerNumber (withField (eltI n 5) .typeCode fun t => .ok (.kset (k3 n 21) (reg n 16) t)))
  | 7 => require (fld n 11 5 == 0) .unusedField (withField (eltI n 5) .typeCode fun t => .ok (.vcompress (reg n 21) (reg n 16) (k3 n 8) t))
  | 8 => require (fld n 11 5 == 0) .unusedField (withField (eltI n 5) .typeCode fun t => .ok (.vexpand (reg n 21) (reg n 16) (k3 n 8) t))
  | 9 => withField (eltI n 5) .typeCode fun t => .ok (.vperm (reg n 21) (reg n 16) (reg n 11) (k3 n 8) t)
  | 10 => withField (eltI n 5) .typeCode fun t => .ok (.vslideup (reg n 21) (reg n 16) (reg n 11) (k3 n 8) t)
  | 11 => withField (eltI n 5) .typeCode fun t => .ok (.vslidedn (reg n 21) (reg n 16) (reg n 11) (k3 n 8) t)
  | 12 => withField (eltI n 5) .typeCode fun t => .ok (.vredadd (reg n 21) (reg n 16) (reg n 11) (k3 n 8) t)
  | 13 => withField (eltI n 5) .typeCode fun t => .ok (.vredmin (reg n 21) (reg n 16) (reg n 11) (k3 n 8) t)
  | 14 => withField (eltI n 5) .typeCode fun t => .ok (.vredmax (reg n 21) (reg n 16) (reg n 11) (k3 n 8) t)
  | 15 => withField (eltI n 5) .typeCode fun t => .ok (.vfredadd (reg n 21) (reg n 16) (reg n 11) (k3 n 8) t)
  | 16 => withField (eltI n 5) .typeCode fun t => .ok (.vfredmax (reg n 21) (reg n 16) (reg n 11) (k3 n 8) t)
  | 17 => require (fld n 11 5 == 0) .unusedField (withField (eltI n 5) .typeCode fun t => .ok (.vscanadd (reg n 21) (reg n 16) (k3 n 8) t))
  | 18 => withField (eltI n 5) .typeCode fun t => .ok (.vzip (reg n 21) (reg n 16) (reg n 11) (k3 n 8) t)
  | 19 => withField (eltI n 5) .typeCode fun t => .ok (.vunzip (reg n 21) (reg n 16) (reg n 11) (k3 n 8) t)
  | _ => .error .unlistedMinor

/-- Major 0x2A (R266). -/
noncomputable def decodeVdb (n : Nat) : Except Illegal Instr :=
  match fld n 0 5 with
  | 0 => withField (eltI n 5) .typeCode fun t => .ok (.vhashc (reg n 21) (reg n 16) (reg n 11) (k3 n 8) t)
  | 1 => require (fld n 5 3 == 3) .typeCode (.ok (.vhashm (reg n 21) (reg n 16) (reg n 11) (k3 n 8)))
  | 2 => withField (eltI n 5) .typeCode fun t => .ok (.vpart (reg n 21) (reg n 16) (reg n 11) (k3 n 8) t)
  | 3 => require (fld n 5 3 == 2) .typeCode (require (fld n 11 5 == 0) .unusedField (.ok (.vhist (reg n 21) (reg n 16) (k3 n 8))))
  | 4 => require (fld n 5 3 == 3) .typeCode (.ok (.vdesc (reg n 21) (reg n 16) (reg n 11) (k3 n 8)))
  | 5 => require (fld n 5 3 == 3) .typeCode (require (fld n 11 5 == 0) .unusedField (.ok (.vslen (reg n 21) (reg n 16) (k3 n 8))))
  | 6 => require (fld n 5 3 == 3) .typeCode (require (fld n 11 5 == 0) .unusedField (.ok (.vspfx (reg n 21) (reg n 16) (k3 n 8))))
  | 7 => require (fld n 5 3 == 3) .typeCode (.ok (.vscmp (reg n 21) (reg n 16) (reg n 11) (k3 n 8)))
  | 8 => require (fld n 5 3 == 3) .typeCode (.ok (.vsfind (reg n 21) (reg n 16) (reg n 11) (k3 n 8)))
  | 9 => require (fld n 5 3 == 3) .typeCode (require (fld n 24 2 == 0) .registerNumber (.ok (.vseq (k3 n 21) (reg n 16) (reg n 11) (k3 n 8))))
  | 10 => require (fld n 5 3 == 3) .typeCode (.ok (.vshash (reg n 21) (reg n 16) (reg n 11) (k3 n 8)))
  | _ => .error .unlistedMinor

/-- Major 0x2B (R266). -/
noncomputable def decodeVcfg (n : Nat) : Except Illegal Instr :=
  match fld n 0 5 with
  | 0 => require (fld n 8 8 == 0) .unusedField (withField (eltI n 5) .typeCode fun t => .ok (.vsetvl (reg n 21) (reg n 16) t))
  | 1 => require (fld n 5 3 == 0) .typeCode (require (fld n 8 8 == 0) .unusedField (.ok (.valloc (reg n 21) (reg n 16))))
  | 2 => require (fld n 5 3 == 0) .typeCode (require (fld n 8 8 == 0) .unusedField (require (fld n 21 5 == 0) .unusedField (.ok (.vshrink (reg n 16)))))
  | 3 => require (fld n 5 3 == 0) .typeCode (require (fld n 8 13 == 0) .unusedField (.ok (.vallot (reg n 21))))
  | 4 => require (fld n 5 3 == 0) .typeCode (require (fld n 8 8 == 0) .unusedField (.ok (.vmv (reg n 21) (reg n 16))))
  | _ => .error .unlistedMinor

/-- Major 0x2C (R266). -/
noncomputable def decodeMtx (n : Nat) : Except Illegal Instr :=
  match fld n 5 6 with
  | 0 => require (fld n 11 5 == 0) .unusedField (require (fld n 21 5 == 0) .unusedField (.ok (.mma (reg n 16) (reg n 0))))
  | 1 => require (fld n 11 5 == 0) .unusedField (require (fld n 21 5 == 0) .unusedField (.ok (.mmas (reg n 16) (reg n 0))))
  | 2 => require (fld n 11 15 == 0) .unusedField (.ok (.mzero (reg n 0)))
  | 3 => require (fld n 11 5 == 0) .unusedField (require (fld n 21 5 == 0) .unusedField (.ok (.mload (reg n 16) (reg n 0))))
  | 4 => require (fld n 11 5 == 0) .unusedField (require (fld n 21 5 == 0) .unusedField (.ok (.mdrain (reg n 16) (reg n 0))))
  | 5 => require (fld n 11 10 == 0) .unusedField (.ok (.mstat (reg n 21) (reg n 0)))
  | _ => .error .unlistedMinor

/-- Major 0x2D (R266). -/
noncomputable def decodeRing (n : Nat) : Except Illegal Instr :=
  match fld n 5 6 with
  | 0 => require (fld n 21 5 == 0) .unusedField (require (fld n 3 2 == 0) .registerNumber (.ok (.rgcfg (reg n 16) (reg n 11) (k3 n 0))))
  | 1 => require (fld n 11 5 == 0) .unusedField (require (fld n 21 5 == 0) .unusedField (require (fld n 3 2 == 0) .registerNumber (.ok (.rgadv (reg n 16) (k3 n 0)))))
  | 2 => require (fld n 11 5 == 0) .unusedField (require (fld n 21 5 == 0) .unusedField (require (fld n 3 2 == 0) .registerNumber (.ok (.rgtake (reg n 16) (k3 n 0)))))
  | 3 => require (fld n 11 10 == 0) .unusedField (require (fld n 3 2 == 0) .registerNumber (.ok (.rgstat (reg n 21) (k3 n 0))))
  | 4 => require (fld n 11 15 == 0) .unusedField (require (fld n 3 2 == 0) .registerNumber (.ok (.rgreset (k3 n 0))))
  | _ => .error .unlistedMinor

/-- Major 0x2E (R266). -/
noncomputable def decodeCopy (n : Nat) : Except Illegal Instr :=
  match fld n 5 6 with
  | 0 => require (fld n 11 5 == 0) .unusedField (require (fld n 21 5 == 0) .unusedField (.ok (.cpy (reg n 16) (reg n 0))))
  | 1 => require (fld n 21 5 == 0) .unusedField (.ok (.cpyt (reg n 16) (reg n 11) (reg n 0)))
  | 2 => require (fld n 21 5 == 0) .unusedField (.ok (.cpym (reg n 16) (reg n 11) (reg n 0)))
  | 3 => require (fld n 21 5 == 0) .unusedField (.ok (.cpyr (reg n 16) (reg n 11) (reg n 0)))
  | 4 => require (fld n 21 5 == 0) .unusedField (.ok (.cpyg (reg n 16) (reg n 11) (reg n 0)))
  | 5 => require (fld n 21 5 == 0) .unusedField (.ok (.cpyp (reg n 16) (reg n 11) (reg n 0)))
  | 6 => require (fld n 0 5 == 0) .unusedField (require (fld n 11 10 == 0) .unusedField (.ok (.cpyq (reg n 21))))
  | _ => .error .unlistedMinor

/-- Major 0x2F (R266). -/
noncomputable def decodeColl (n : Nat) : Except Illegal Instr :=
  match fld n 5 6 with
  | 0 => require (fld n 0 5 == 0) .unusedField (require (fld n 11 5 == 0) .unusedField (require (fld n 21 5 == 0) .unusedField (.ok (.colrun (reg n 16)))))
  | 1 => require (fld n 0 5 == 0) .unusedField (require (fld n 11 5 == 0) .unusedField (.ok (.colstat (reg n 21) (reg n 16))))
  | 2 => require (fld n 0 5 == 0) .unusedField (require (fld n 11 5 == 0) .unusedField (require (fld n 21 5 == 0) .unusedField (.ok (.colresume (reg n 16)))))
  | 3 => require (fld n 0 5 == 0) .unusedField (require (fld n 11 5 == 0) .unusedField (require (fld n 21 5 == 0) .unusedField (.ok (.colabort (reg n 16)))))
  | _ => .error .unlistedMinor

/-- Major 0x30 (R266). -/
noncomputable def decodeEng (n : Nat) : Except Illegal Instr :=
  match fld n 5 6 with
  | 0 => require (fld n 11 5 == 0) .unusedField (require (fld n 21 5 == 0) .unusedField (withField (engn n 0) .registerNumber fun e => .ok (.eset (reg n 16) e)))
  | 1 => require (fld n 11 10 == 0) .unusedField (withField (engn n 0) .registerNumber fun e => .ok (.eget (reg n 21) e))
  | _ => .error .unlistedMinor

/-- Major 0x31 (R266). -/
noncomputable def decodeSys (n : Nat) : Except Illegal Instr :=
  match fld n 0 6 with
  | 0 => require (fld n 16 10 == 0) .unusedField (.ok (.trap (imm n 6 10)))
  | 1 => require (fld n 6 20 == 0) .unusedField (.ok (.eret))
  | 2 => require (fld n 16 5 == 0) .unusedField (withField (sysn n 6) .sysn fun sr => .ok (.sysr (reg n 21) sr))
  | 3 => require (fld n 21 5 == 0) .unusedField (withField (sysn n 6) .sysn fun sr => .ok (.sysw (reg n 16) sr))
  | 4 => require (fld n 21 5 == 0) .unusedField (withField (sysn n 6) .sysn fun sr => .ok (.sysset (reg n 16) sr))
  | 5 => require (fld n 21 5 == 0) .unusedField (withField (sysn n 6) .sysn fun sr => .ok (.sysclr (reg n 16) sr))
  | 6 => require (fld n 6 20 == 0) .unusedField (.ok (.halt))
  | 7 => require (fld n 6 20 == 0) .unusedField (.ok (.ifence))
  | 8 => require (fld n 6 5 == 0) .unusedField (.ok (.spill (reg n 21) (reg n 16) (reg n 11)))
  | 9 => require (fld n 6 5 == 0) .unusedField (.ok (.restore (reg n 21) (reg n 16) (reg n 11)))
  | 10 => require (fld n 6 10 == 0) .unusedField (.ok (.csend (reg n 21) (reg n 16)))
  | 11 => require (fld n 6 10 == 0) .unusedField (require (fld n 21 5 == 0) .unusedField (.ok (.alert (reg n 16))))
  | 12 => require (fld n 9 7 == 0) .unusedField (.ok (.launch (reg n 21) (reg n 16) (k3 n 6)))
  | 13 => require (fld n 7 4 == 0) .unusedField
      (if bit n 6 then .ok (.faultackAbandon (reg n 21) (reg n 16) (reg n 11))
        else .ok (.faultackResume (reg n 21) (reg n 16) (reg n 11)))
  | 14 => require (fld n 6 20 == 0) .unusedField (.ok (.seal))
  | _ => .error .unlistedMinor

/-- The instruction whose fields a word holds, before the conditions of `Instr.check`. -/
noncomputable def decodeFields (n : Nat) : Except Illegal Instr :=
  match fld n 26 6 with
  | 1 => decodeAlu n
  | 2 => .ok (.addi (reg n 21) (reg n 16) (imm n 0 16))
  | 3 => .ok (.andi (reg n 21) (reg n 16) (imm n 0 16))
  | 4 => .ok (.ori (reg n 21) (reg n 16) (imm n 0 16))
  | 5 => .ok (.xori (reg n 21) (reg n 16) (imm n 0 16))
  | 6 => .ok (.slti (reg n 21) (reg n 16) (imm n 0 16))
  | 7 => .ok (.sltin (reg n 21) (reg n 16) (imm n 0 16))
  | 8 => .ok (.lih (reg n 21) (reg n 16) (imm n 0 16))
  | 9 => require (fld n 16 5 == 0) .unusedField (.ok (.addpc (reg n 21) (imm n 0 16)))
  | 10 => decodeShi n
  | 11 => decodeBfx n
  | 12 => .ok (.beq (reg n 21) (reg n 16) (imm n 0 16))
  | 13 => .ok (.bne (reg n 21) (reg n 16) (imm n 0 16))
  | 14 => .ok (.blt (reg n 21) (reg n 16) (imm n 0 16))
  | 15 => .ok (.bge (reg n 21) (reg n 16) (imm n 0 16))
  | 16 => .ok (.bltn (reg n 21) (reg n 16) (imm n 0 16))
  | 17 => .ok (.bgen (reg n 21) (reg n 16) (imm n 0 16))
  | 18 => .ok (.jmp (imm n 0 26))
  | 19 => .ok (.jal (imm n 0 26))
  | 20 => .ok (.prep (b2 n 24) (imm n 0 24))
  | 21 => decodeCtl n
  | 22 => .ok (.ldb (reg n 21) (reg n 16) (imm n 0 16))
  | 23 => .ok (.ldh (reg n 21) (reg n 16) (imm n 0 16))
  | 24 => .ok (.ldw (reg n 21) (reg n 16) (imm n 0 16))
  | 25 => .ok (.ldd (reg n 21) (reg n 16) (imm n 0 16))
  | 26 => .ok (.ldbn (reg n 21) (reg n 16) (imm n 0 16))
  | 27 => .ok (.ldhn (reg n 21) (reg n 16) (imm n 0 16))
  | 28 => .ok (.ldwn (reg n 21) (reg n 16) (imm n 0 16))
  | 29 => .ok (.stb (reg n 21) (reg n 16) (imm n 0 16))
  | 30 => .ok (.sth (reg n 21) (reg n 16) (imm n 0 16))
  | 31 => .ok (.stw (reg n 21) (reg n 16) (imm n 0 16))
  | 32 => .ok (.std (reg n 21) (reg n 16) (imm n 0 16))
  | 33 => .ok (.ldp (reg n 21) (reg n 16) (imm n 0 16))
  | 34 => .ok (.stp (reg n 21) (reg n 16) (imm n 0 16))
  | 35 => decodeMemx n
  | 36 => decodeAmo n
  | 37 => decodeSync n
  | 38 => decodeVint n
  | 39 => decodeVflt n
  | 40 => decodeVmem n
  | 41 => decodeVmsk n
  | 42 => decodeVdb n
  | 43 => decodeVcfg n
  | 44 => decodeMtx n
  | 45 => decodeRing n
  | 46 => decodeCopy n
  | 47 => decodeColl n
  | 48 => decodeEng n
  | 49 => decodeSys n
  | _ => .error .reservedMajor

/-- The decoder: the instruction a word names, or the name of what makes the word illegal (R268). The checks that depend
on the core or the mode are made when the instruction issues. -/
noncomputable def decode (w : IWord) : Except Illegal Instr :=
  match decodeFields w.toNat with
  | .ok i =>
    match i.check with
    | none => .ok i
    | some e => .error e
  | .error e => .error e

/-- The little-endian word of the next four bytes (R3), and the rest. -/
def takeWord : List Byte → Option (IWord × List Byte)
  | b0 :: b1 :: b2 :: b3 :: rest => some (b3 ++ b2 ++ b1 ++ b0, rest)
  | _ => none

/-- Decoding of bytes in memory order: total, every failure by name. -/
noncomputable def decodeBytes (bs : List Byte) : Except Illegal (Instr × List Byte) :=
  match takeWord bs with
  | none => .error .truncated
  | some (w, rest) =>
    match decode w with
    | .ok i => .ok (i, rest)
    | .error e => .error e

/-! The encoder, from R261 to R267. -/

/-- Format Q. -/
def fmtQ (major rd ra rb fn : Nat) : IWord :=
  BitVec.ofNat 32 (major * 67108864 + rd * 2097152 + ra * 65536 + rb * 2048 + fn)

/-- Format K. -/
def fmtK (major rd ra i : Nat) : IWord := BitVec.ofNat 32 (major * 67108864 + rd * 2097152 + ra * 65536 + i)

/-- Format B. -/
def fmtB (major ra rb disp : Nat) : IWord := BitVec.ofNat 32 (major * 67108864 + ra * 2097152 + rb * 65536 + disp)

/-- Format J. -/
def fmtJ (major disp : Nat) : IWord := BitVec.ofNat 32 (major * 67108864 + disp)

/-- Format P. -/
def fmtP (major b disp : Nat) : IWord := BitVec.ofNat 32 (major * 67108864 + b * 16777216 + disp)

/-- Format V. -/
def fmtV (major vd va vb k t fn : Nat) : IWord :=
  BitVec.ofNat 32 (major * 67108864 + vd * 2097152 + va * 65536 + vb * 2048 + k * 256 + t * 32 + fn)

/-- Format C. -/
def fmtC (major rd xa xb op imm5 : Nat) : IWord :=
  BitVec.ofNat 32 (major * 67108864 + rd * 2097152 + xa * 65536 + xb * 2048 + op * 32 + imm5)

/-- The order field of R156. -/
def Ord.code : Ord → Nat
  | .rlx => 0 | .acq => 1 | .rel => 2 | .ar => 3

/-- The type code of R264. -/
def ElTy.code : ElTy → Nat
  | .i8 => 0 | .i16 => 1 | .i32 => 2 | .i64 => 3 | .q8 => 4 | .f16 => 5 | .bf16 => 6 | .f32 => 7 | .f64 => 3

/-- The SYSN of R259. -/
def SysReg.code : SysReg → Nat
  | .slotid => 0x000 | .coreid => 0x001 | .pcoreid => 0x002 | .socket => 0x003 | .pkgid => 0x004 | .ctxid => 0x005
  | .poolpart => 0x006 | .faultq => 0x007 | .xpc => 0x010 | .xcause => 0x011 | .xval => 0x012 | .xvec => 0x013
  | .fmta => 0x020 | .fmtb => 0x021 | .fmtc => 0x022 | .scalea => 0x023 | .scaleb => 0x024
  | .harvest d => 0x040 + d.val

/-- The ENO of R355. -/
def EngReg.code : EngReg → Nat
  | .cbase => 0 | .cctl => 1 | .cpool => 2 | .cext => 3 | .cstr01 => 4 | .cstr23 => 5 | .ccrd01 => 6 | .ccrd23 => 7
  | .clo01 => 8 | .clo23 => 9 | .chi01 => 10 | .chi23 => 11 | .cfill0 => 12 | .cfill1 => 13 | .caux => 14

/-- The word of an instruction. A step of another agent has no word: it answers the word 0, which is always illegal
(R268). -/
def encode : Instr → IWord
  | .packageReset .. => 0
  | .powerOff .. => 0
  | .bootImageVerify .. => 0
  | .freezeAssert .. => 0
  | .freezeDeassert .. => 0
  | .freezeReadout .. => 0
  | .debugToken .. => 0
  | .thermalTrip .. => 0
  | .thermalReset .. => 0
  | .alertWriteComplete .. => 0
  | .alrtctlWrite .. => 0
  | .registerWrite .. => 0
  | .causewayArrival .. => 0
  | .causewayRelease .. => 0
  | .causewayMismatch .. => 0
  | .flitReceive .. => 0
  | .flitNakReceive .. => 0
  | .portCrcDown .. => 0
  | .holdingEntryServe .. => 0
  | .responseArrival .. => 0
  | .errorResponseArrival .. => 0
  | .writeAck .. => 0
  | .stealRequest .. => 0
  | .stealReply .. => 0
  | .stealRetryTimer .. => 0
  | .scaleupFlitReceive .. => 0
  | .authFailPortDown .. => 0
  | .linkTrain .. => 0
  | .fpctlOff .. => 0
  | .fpctlRekey .. => 0
  | .txctrRekeyThreshold .. => 0
  | .txctrExhausted .. => 0
  | .keyMarkerSend .. => 0
  | .scaleupPortDown .. => 0
  | .portIsolate .. => 0
  | .gatewayRequest .. => 0
  | .gatewayFlowRemap .. => 0
  | .fabricTimeout .. => 0
  | .linkTableGeneration .. => 0
  | .fullTableInstall .. => 0
  | .splitDetect .. => 0
  | .splitWaitExpire .. => 0
  | .hdmDecoderCommit .. => 0
  | .hostMemRead .. => 0
  | .hostMemWrite .. => 0
  | .birspReceive .. => 0
  | .bisnpTimeout .. => 0
  | .cxlPortDown .. => 0
  | .snpinv .. => 0
  | .snpdata .. => 0
  | .snpcur .. => 0
  | .mbinWrite .. => 0
  | .mboutWrite .. => 0
  | .mbstatClearInv .. => 0
  | .mbstatClearOutv .. => 0
  | .mbstatClearOvf .. => 0
  | .mbAttestationReport .. => 0
  | .mbAttachLaunchQueue .. => 0
  | .mbDetachLaunchQueue .. => 0
  | .mbUnknownOp .. => 0
  | .launchComplete .. => 0
  | .homeLineRead .. => 0
  | .homeLineStore .. => 0
  | .lineWriteBack .. => 0
  | .lineMigration .. => 0
  | .homeTileAccess .. => 0
  | .dieCacheEviction .. => 0
  | .tilePushAck .. => 0
  | .tilePushError .. => 0
  | .shadowFrameWrite .. => 0
  | .publGenToggle .. => 0
  | .haloPushAck .. => 0
  | .walkRead .. => 0
  | .translationKill .. => 0
  | .killAck .. => 0
  | .walkComplete .. => 0
  | .homeDiscard .. => 0
  | .lineEntryUncorrectable .. => 0
  | .tileEntryUncorrectable .. => 0
  | .correctableError .. => 0
  | .memoryChannelServe .. => 0
  | .dieCachePrefetch .. => 0
  | .faultQueueSpace .. => 0
  | .noticeStoreDrain .. => 0
  | .noticeDropAlert .. => 0
  | .taskReplay .. => 0
  | .remoteStoreArrival .. => 0
  | .remoteFaultRecord .. => 0
  | .stagingTimeout .. => 0
  | .uncorrectableTeamError .. => 0
  | .travelPacketArrival .. => 0
  | .travelPacketReturn .. => 0
  | .messageEngineExecute .. => 0
  | .copyPageTranslate .. => 0
  | .copyArrival .. => 0
  | .stageFreeNotice .. => 0
  | .cpyrFire .. => 0
  | .matrixStepFire .. => 0
  | .matrixOpComplete .. => 0
  | .lctctlLock .. => 0
  | .partDiesWrite .. => 0
  | .partHaltreq .. => 0
  | .partitionHalted .. => 0
  | .partResume .. => 0
  | .partSwapout .. => 0
  | .swapoutComplete .. => 0
  | .partSwapin .. => 0
  | .swapinComplete .. => 0
  | .partErrClear .. => 0
  | .dealTask .. => 0
  | .bandAdmit .. => 0
  | .taskDispatch .. => 0
  | .taskRetire .. => 0
  | .slotSpill .. => 0
  | .spillComplete .. => 0
  | .slotRestore .. => 0
  | .joinSpill .. => 0
  | .watchPoll .. => 0
  | .waitevTimeout .. => 0
  | .joinPoll .. => 0
  | .fetchFault .. => 0
  | .illegalInstruction .. => 0
  | .collectiveStart .. => 0
  | .collectiveChunkReceive .. => 0
  | .collectiveAnnounce .. => 0
  | .collectivePeerAbort .. => 0
  | .add d a b => fmtQ 1 d.val a.val b.val 0
  | .sub d a b => fmtQ 1 d.val a.val b.val 1
  | .and d a b => fmtQ 1 d.val a.val b.val 2
  | .or d a b => fmtQ 1 d.val a.val b.val 3
  | .xor d a b => fmtQ 1 d.val a.val b.val 4
  | .andn d a b => fmtQ 1 d.val a.val b.val 5
  | .orn d a b => fmtQ 1 d.val a.val b.val 6
  | .sll d a b => fmtQ 1 d.val a.val b.val 7
  | .srl d a b => fmtQ 1 d.val a.val b.val 8
  | .sra d a b => fmtQ 1 d.val a.val b.val 9
  | .rol d a b => fmtQ 1 d.val a.val b.val 10
  | .ror d a b => fmtQ 1 d.val a.val b.val 11
  | .slt d a b => fmtQ 1 d.val a.val b.val 12
  | .sltn d a b => fmtQ 1 d.val a.val b.val 13
  | .seq d a b => fmtQ 1 d.val a.val b.val 14
  | .min d a b => fmtQ 1 d.val a.val b.val 15
  | .max d a b => fmtQ 1 d.val a.val b.val 16
  | .minn d a b => fmtQ 1 d.val a.val b.val 17
  | .maxn d a b => fmtQ 1 d.val a.val b.val 18
  | .mul d a b => fmtQ 1 d.val a.val b.val 19
  | .mulh d a b => fmtQ 1 d.val a.val b.val 20
  | .mulhn d a b => fmtQ 1 d.val a.val b.val 21
  | .div d a b => fmtQ 1 d.val a.val b.val 22
  | .divn d a b => fmtQ 1 d.val a.val b.val 23
  | .rem d a b => fmtQ 1 d.val a.val b.val 24
  | .remn d a b => fmtQ 1 d.val a.val b.val 25
  | .clz d a => fmtQ 1 d.val a.val 0 26
  | .ctz d a => fmtQ 1 d.val a.val 0 27
  | .popc d a => fmtQ 1 d.val a.val 0 28
  | .bswap d a => fmtQ 1 d.val a.val 0 29
  | .cmov d a b => fmtQ 1 d.val a.val b.val 30
  | .shadd1 d a b => fmtQ 1 d.val a.val b.val 31
  | .shadd2 d a b => fmtQ 1 d.val a.val b.val 32
  | .shadd3 d a b => fmtQ 1 d.val a.val b.val 33
  | .crcb d a b => fmtQ 1 d.val a.val b.val 34
  | .crcd d a b => fmtQ 1 d.val a.val b.val 35
  | .mix64 d a b => fmtQ 1 d.val a.val b.val 36
  | .addi d a i => fmtK 2 d.val a.val i.toNat
  | .andi d a i => fmtK 3 d.val a.val i.toNat
  | .ori d a i => fmtK 4 d.val a.val i.toNat
  | .xori d a i => fmtK 5 d.val a.val i.toNat
  | .slti d a i => fmtK 6 d.val a.val i.toNat
  | .sltin d a i => fmtK 7 d.val a.val i.toNat
  | .lih d a i => fmtK 8 d.val a.val i.toNat
  | .addpc d i => fmtK 9 d.val 0 i.toNat
  | .slli d a n => fmtK 10 d.val a.val n.val
  | .srli d a n => fmtK 10 d.val a.val (n.val + 64)
  | .srai d a n => fmtK 10 d.val a.val (n.val + 128)
  | .rori d a n => fmtK 10 d.val a.val (n.val + 192)
  | .bfx d a l o => fmtK 11 d.val a.val (l.val * 64 + o.val)
  | .bfxs d a l o => fmtK 11 d.val a.val (l.val * 64 + o.val + 4096)
  | .beq a b p => fmtB 12 a.val b.val p.toNat
  | .bne a b p => fmtB 13 a.val b.val p.toNat
  | .blt a b p => fmtB 14 a.val b.val p.toNat
  | .bge a b p => fmtB 15 a.val b.val p.toNat
  | .bltn a b p => fmtB 16 a.val b.val p.toNat
  | .bgen a b p => fmtB 17 a.val b.val p.toNat
  | .jmp p => fmtJ 18 p.toNat
  | .jal p => fmtJ 19 p.toNat
  | .prep n p => fmtP 20 n.val p.toNat
  | .jr a => fmtQ 21 0 a.val 0 0
  | .jalr d a => fmtQ 21 d.val a.val 0 1
  | .btr d n => fmtQ 21 d.val 0 n.val 2
  | .btrz a n => fmtQ 21 0 a.val n.val 3
  | .btrnz a n => fmtQ 21 0 a.val n.val 4
  | .fork d a b => fmtQ 21 d.val a.val b.val 5
  | .join a => fmtQ 21 0 a.val 0 6
  | .yield => fmtQ 21 0 0 0 7
  | .stop => fmtQ 21 0 0 0 8
  | .taskid d => fmtQ 21 d.val 0 0 9
  | .ldb d a i => fmtK 22 d.val a.val i.toNat
  | .ldh d a i => fmtK 23 d.val a.val i.toNat
  | .ldw d a i => fmtK 24 d.val a.val i.toNat
  | .ldd d a i => fmtK 25 d.val a.val i.toNat
  | .ldbn d a i => fmtK 26 d.val a.val i.toNat
  | .ldhn d a i => fmtK 27 d.val a.val i.toNat
  | .ldwn d a i => fmtK 28 d.val a.val i.toNat
  | .stb d a i => fmtK 29 d.val a.val i.toNat
  | .sth d a i => fmtK 30 d.val a.val i.toNat
  | .stw d a i => fmtK 31 d.val a.val i.toNat
  | .std d a i => fmtK 32 d.val a.val i.toNat
  | .ldp d a i => fmtK 33 d.val a.val i.toNat
  | .stp d a i => fmtK 34 d.val a.val i.toNat
  | .ldxb d a b => fmtQ 35 d.val a.val b.val 0
  | .ldxh d a b => fmtQ 35 d.val a.val b.val 1
  | .ldxw d a b => fmtQ 35 d.val a.val b.val 2
  | .ldxd d a b => fmtQ 35 d.val a.val b.val 3
  | .ldxbn d a b => fmtQ 35 d.val a.val b.val 4
  | .ldxhn d a b => fmtQ 35 d.val a.val b.val 5
  | .ldxwn d a b => fmtQ 35 d.val a.val b.val 6
  | .stxb d a b => fmtQ 35 d.val a.val b.val 7
  | .stxh d a b => fmtQ 35 d.val a.val b.val 8
  | .stxw d a b => fmtQ 35 d.val a.val b.val 9
  | .stxd d a b => fmtQ 35 d.val a.val b.val 10
  | .ldaqB d a b sc => fmtQ 35 d.val a.val b.val (sc.val * 64 + 11)
  | .ldaqH d a b sc => fmtQ 35 d.val a.val b.val (sc.val * 64 + 12)
  | .ldaqW d a b sc => fmtQ 35 d.val a.val b.val (sc.val * 64 + 13)
  | .ldaqD d a b sc => fmtQ 35 d.val a.val b.val (sc.val * 64 + 14)
  | .strlB d a b sc => fmtQ 35 d.val a.val b.val (sc.val * 64 + 15)
  | .strlH d a b sc => fmtQ 35 d.val a.val b.val (sc.val * 64 + 16)
  | .strlW d a b sc => fmtQ 35 d.val a.val b.val (sc.val * 64 + 17)
  | .strlD d a b sc => fmtQ 35 d.val a.val b.val (sc.val * 64 + 18)
  | .ldpb d a b => fmtQ 35 d.val a.val b.val 19
  | .ldph d a b => fmtQ 35 d.val a.val b.val 20
  | .ldpw d a b => fmtQ 35 d.val a.val b.val 21
  | .ldpbn d a b => fmtQ 35 d.val a.val b.val 22
  | .ldphn d a b => fmtQ 35 d.val a.val b.val 23
  | .ldpwn d a b => fmtQ 35 d.val a.val b.val 24
  | .stpb d a b => fmtQ 35 d.val a.val b.val 25
  | .stph d a b => fmtQ 35 d.val a.val b.val 26
  | .stpw d a b => fmtQ 35 d.val a.val b.val 27
  | .pfh a b => fmtQ 35 0 a.val b.val 28
  | .pfd a b => fmtQ 35 0 a.val b.val 29
  | .disc a b => fmtQ 35 0 a.val b.val 30
  | .amoaddd d a b sc o => fmtQ 36 d.val a.val b.val (sc.val * 64 + o.code * 16)
  | .amoaddw d a b sc o => fmtQ 36 d.val a.val b.val (sc.val * 64 + o.code * 16 + 1)
  | .amoand d a b sc o => fmtQ 36 d.val a.val b.val (sc.val * 64 + o.code * 16 + 2)
  | .amoor d a b sc o => fmtQ 36 d.val a.val b.val (sc.val * 64 + o.code * 16 + 3)
  | .amoxor d a b sc o => fmtQ 36 d.val a.val b.val (sc.val * 64 + o.code * 16 + 4)
  | .amomin d a b sc o => fmtQ 36 d.val a.val b.val (sc.val * 64 + o.code * 16 + 5)
  | .amomax d a b sc o => fmtQ 36 d.val a.val b.val (sc.val * 64 + o.code * 16 + 6)
  | .amominn d a b sc o => fmtQ 36 d.val a.val b.val (sc.val * 64 + o.code * 16 + 7)
  | .amomaxn d a b sc o => fmtQ 36 d.val a.val b.val (sc.val * 64 + o.code * 16 + 8)
  | .amoswap d a b sc o => fmtQ 36 d.val a.val b.val (sc.val * 64 + o.code * 16 + 9)
  | .amocas d a b sc o => fmtQ 36 d.val a.val b.val (sc.val * 64 + o.code * 16 + 10)
  | .amofadd32 d a b sc o => fmtQ 36 d.val a.val b.val (sc.val * 64 + o.code * 16 + 11)
  | .amofmax32 d a b sc o => fmtQ 36 d.val a.val b.val (sc.val * 64 + o.code * 16 + 12)
  | .fence sc => fmtQ 37 0 0 0 (sc.val * 64)
  | .fencerl sc => fmtQ 37 0 0 0 (sc.val * 64 + 1)
  | .fenceaq sc => fmtQ 37 0 0 0 (sc.val * 64 + 2)
  | .fencerg a b sc => fmtQ 37 0 a.val b.val (sc.val * 64 + 3)
  | .bart sc => fmtQ 37 0 0 0 (sc.val * 64 + 4)
  | .barg sc => fmtQ 37 0 0 0 (sc.val * 64 + 5)
  | .barb sc => fmtQ 37 0 0 0 (sc.val * 64 + 6)
  | .boinit a b => fmtQ 37 0 a.val b.val 7
  | .boexp a b => fmtQ 37 0 a.val b.val 8
  | .boarr a sc => fmtQ 37 0 a.val 0 (sc.val * 64 + 9)
  | .bowait a b sc => fmtQ 37 0 a.val b.val (sc.val * 64 + 10)
  | .botest d a b sc => fmtQ 37 d.val a.val b.val (sc.val * 64 + 11)
  | .scopeset n => fmtQ 37 0 0 0 (n.val * 64 + 12)
  | .tdecl d a => fmtQ 37 d.val a.val 0 13
  | .tdrop a => fmtQ 37 0 a.val 0 14
  | .tfwd a b => fmtQ 37 0 a.val b.val 15
  | .publ a => fmtQ 37 0 a.val 0 16
  | .watch d a => fmtQ 37 d.val a.val 0 17
  | .waitev d a => fmtQ 37 d.val a.val 0 18
  | .xfence sc => fmtQ 37 0 0 0 (sc.val * 64 + 19)
  | .vadd d a b k t => fmtV 38 d.val a.val b.val k.val t.code 0
  | .vsub d a b k t => fmtV 38 d.val a.val b.val k.val t.code 1
  | .vmul d a b k t => fmtV 38 d.val a.val b.val k.val t.code 2
  | .vmulh d a b k t => fmtV 38 d.val a.val b.val k.val t.code 3
  | .vand d a b k t => fmtV 38 d.val a.val b.val k.val t.code 4
  | .vor d a b k t => fmtV 38 d.val a.val b.val k.val t.code 5
  | .vxor d a b k t => fmtV 38 d.val a.val b.val k.val t.code 6
  | .vandn d a b k t => fmtV 38 d.val a.val b.val k.val t.code 7
  | .vsll d a b k t => fmtV 38 d.val a.val b.val k.val t.code 8
  | .vsrl d a b k t => fmtV 38 d.val a.val b.val k.val t.code 9
  | .vsra d a b k t => fmtV 38 d.val a.val b.val k.val t.code 10
  | .vmin d a b k t => fmtV 38 d.val a.val b.val k.val t.code 11
  | .vmax d a b k t => fmtV 38 d.val a.val b.val k.val t.code 12
  | .vminn d a b k t => fmtV 38 d.val a.val b.val k.val t.code 13
  | .vmaxn d a b k t => fmtV 38 d.val a.val b.val k.val t.code 14
  | .vadds d a b k t => fmtV 38 d.val a.val b.val k.val t.code 15
  | .vsubs d a b k t => fmtV 38 d.val a.val b.val k.val t.code 16
  | .vaddsn d a b k t => fmtV 38 d.val a.val b.val k.val t.code 17
  | .vsubsn d a b k t => fmtV 38 d.val a.val b.val k.val t.code 18
  | .vabsd d a b k t => fmtV 38 d.val a.val b.val k.val t.code 19
  | .vcmpeq d a b k t => fmtV 38 d.val a.val b.val k.val t.code 20
  | .vcmplt d a b k t => fmtV 38 d.val a.val b.val k.val t.code 21
  | .vcmpltn d a b k t => fmtV 38 d.val a.val b.val k.val t.code 22
  | .vcmple d a b k t => fmtV 38 d.val a.val b.val k.val t.code 23
  | .vsel d a b k t => fmtV 38 d.val a.val b.val k.val t.code 24
  | .vsplat d a k t => fmtV 38 d.val a.val 0 k.val t.code 25
  | .viota d k t => fmtV 38 d.val 0 0 k.val t.code 26
  | .vmovx d a b t => fmtV 38 d.val a.val b.val 0 t.code 27
  | .vaddi d a i k t => fmtV 38 d.val a.val i.toNat k.val t.code 28
  | .vslli d a i k t => fmtV 38 d.val a.val i.toNat k.val t.code 29
  | .vsrli d a i k t => fmtV 38 d.val a.val i.toNat k.val t.code 30
  | .vsrai d a i k t => fmtV 38 d.val a.val i.toNat k.val t.code 31
  | .vfadd d a b k t => fmtV 39 d.val a.val b.val k.val t.code 0
  | .vfsub d a b k t => fmtV 39 d.val a.val b.val k.val t.code 1
  | .vfmul d a b k t => fmtV 39 d.val a.val b.val k.val t.code 2
  | .vffma d a b k t => fmtV 39 d.val a.val b.val k.val t.code 3
  | .vffms d a b k t => fmtV 39 d.val a.val b.val k.val t.code 4
  | .vfdiv d a b k t => fmtV 39 d.val a.val b.val k.val t.code 5
  | .vfsqrt d a k t => fmtV 39 d.val a.val 0 k.val t.code 6
  | .vfmin d a b k t => fmtV 39 d.val a.val b.val k.val t.code 7
  | .vfmax d a b k t => fmtV 39 d.val a.val b.val k.val t.code 8
  | .vfabs d a k t => fmtV 39 d.val a.val 0 k.val t.code 9
  | .vfneg d a k t => fmtV 39 d.val a.val 0 k.val t.code 10
  | .vfcmpeq d a b k t => fmtV 39 d.val a.val b.val k.val t.code 11
  | .vfcmplt d a b k t => fmtV 39 d.val a.val b.val k.val t.code 12
  | .vfcmple d a b k t => fmtV 39 d.val a.val b.val k.val t.code 13
  | .vfclass d a k t => fmtV 39 d.val a.val 0 k.val t.code 14
  | .vcvtf d a c k t => fmtV 39 d.val a.val c.code k.val t.code 15
  | .vcvtfi d a c k t => fmtV 39 d.val a.val c.toNat k.val t.code 16
  | .vcvtif d a c k t => fmtV 39 d.val a.val c.toNat k.val t.code 17
  | .vfsplat d a k t => fmtV 39 d.val a.val 0 k.val t.code 18
  | .vfrecip d a k t => fmtV 39 d.val a.val 0 k.val t.code 19
  | .vfrsqrt d a k t => fmtV 39 d.val a.val 0 k.val t.code 20
  | .vfscale d a b k t => fmtV 39 d.val a.val b.val k.val t.code 21
  | .vfdot2 d a b k t => fmtV 39 d.val a.val b.val k.val t.code 22
  | .vld d a k t => fmtV 40 d.val a.val 0 k.val t.code 0
  | .vlds d a b k t => fmtV 40 d.val a.val b.val k.val t.code 1
  | .vldx d a b k t => fmtV 40 d.val a.val b.val k.val t.code 2
  | .vst d a k t => fmtV 40 d.val a.val 0 k.val t.code 3
  | .vsts d a b k t => fmtV 40 d.val a.val b.val k.val t.code 4
  | .vstx d a b k t => fmtV 40 d.val a.val b.val k.val t.code 5
  | .vldp d a k t => fmtV 40 d.val a.val 0 k.val t.code 6
  | .vstp d a k t => fmtV 40 d.val a.val 0 k.val t.code 7
  | .vldpx d a b k t => fmtV 40 d.val a.val b.val k.val t.code 8
  | .vstpx d a b k t => fmtV 40 d.val a.val b.val k.val t.code 9
  | .vldb d a k t => fmtV 40 d.val a.val 0 k.val t.code 10
  | .kand d a b => fmtV 41 d.val a.val b.val 0 0 0
  | .kor d a b => fmtV 41 d.val a.val b.val 0 0 1
  | .kxor d a b => fmtV 41 d.val a.val b.val 0 0 2
  | .knot d a => fmtV 41 d.val a.val 0 0 0 3
  | .kpop d a t => fmtV 41 d.val a.val 0 0 t.code 4
  | .kfirst d a t => fmtV 41 d.val a.val 0 0 t.code 5
  | .kset d a t => fmtV 41 d.val a.val 0 0 t.code 6
  | .vcompress d a k t => fmtV 41 d.val a.val 0 k.val t.code 7
  | .vexpand d a k t => fmtV 41 d.val a.val 0 k.val t.code 8
  | .vperm d a b k t => fmtV 41 d.val a.val b.val k.val t.code 9
  | .vslideup d a b k t => fmtV 41 d.val a.val b.val k.val t.code 10
  | .vslidedn d a b k t => fmtV 41 d.val a.val b.val k.val t.code 11
  | .vredadd d a b k t => fmtV 41 d.val a.val b.val k.val t.code 12
  | .vredmin d a b k t => fmtV 41 d.val a.val b.val k.val t.code 13
  | .vredmax d a b k t => fmtV 41 d.val a.val b.val k.val t.code 14
  | .vfredadd d a b k t => fmtV 41 d.val a.val b.val k.val t.code 15
  | .vfredmax d a b k t => fmtV 41 d.val a.val b.val k.val t.code 16
  | .vscanadd d a k t => fmtV 41 d.val a.val 0 k.val t.code 17
  | .vzip d a b k t => fmtV 41 d.val a.val b.val k.val t.code 18
  | .vunzip d a b k t => fmtV 41 d.val a.val b.val k.val t.code 19
  | .vhashc d a b k t => fmtV 42 d.val a.val b.val k.val t.code 0
  | .vhashm d a b k => fmtV 42 d.val a.val b.val k.val 3 1
  | .vpart d a b k t => fmtV 42 d.val a.val b.val k.val t.code 2
  | .vhist d a k => fmtV 42 d.val a.val 0 k.val 2 3
  | .vdesc d a b k => fmtV 42 d.val a.val b.val k.val 3 4
  | .vslen d a k => fmtV 42 d.val a.val 0 k.val 3 5
  | .vspfx d a k => fmtV 42 d.val a.val 0 k.val 3 6
  | .vscmp d a b k => fmtV 42 d.val a.val b.val k.val 3 7
  | .vsfind d a b k => fmtV 42 d.val a.val b.val k.val 3 8
  | .vseq d a b k => fmtV 42 d.val a.val b.val k.val 3 9
  | .vshash d a b k => fmtV 42 d.val a.val b.val k.val 3 10
  | .vsetvl d a t => fmtV 43 d.val a.val 0 0 t.code 0
  | .valloc d a => fmtV 43 d.val a.val 0 0 0 1
  | .vshrink a => fmtV 43 0 a.val 0 0 0 2
  | .vallot d => fmtV 43 d.val 0 0 0 0 3
  | .vmv d a => fmtV 43 d.val a.val 0 0 0 4
  | .mma a n => fmtC 44 0 a.val 0 0 n.val
  | .mmas a n => fmtC 44 0 a.val 0 1 n.val
  | .mzero n => fmtC 44 0 0 0 2 n.val
  | .mload a n => fmtC 44 0 a.val 0 3 n.val
  | .mdrain a n => fmtC 44 0 a.val 0 4 n.val
  | .mstat d n => fmtC 44 d.val 0 0 5 n.val
  | .rgcfg a b n => fmtC 45 0 a.val b.val 0 n.val
  | .rgadv a n => fmtC 45 0 a.val 0 1 n.val
  | .rgtake a n => fmtC 45 0 a.val 0 2 n.val
  | .rgstat d n => fmtC 45 d.val 0 0 3 n.val
  | .rgreset n => fmtC 45 0 0 0 4 n.val
  | .cpy a sc => fmtC 46 0 a.val 0 0 sc.val
  | .cpyt a b sc => fmtC 46 0 a.val b.val 1 sc.val
  | .cpym a b sc => fmtC 46 0 a.val b.val 2 sc.val
  | .cpyr a b sc => fmtC 46 0 a.val b.val 3 sc.val
  | .cpyg a b sc => fmtC 46 0 a.val b.val 4 sc.val
  | .cpyp a b sc => fmtC 46 0 a.val b.val 5 sc.val
  | .cpyq d => fmtC 46 d.val 0 0 6 0
  | .colrun a => fmtC 47 0 a.val 0 0 0
  | .colstat d a => fmtC 47 d.val a.val 0 1 0
  | .colresume a => fmtC 47 0 a.val 0 2 0
  | .colabort a => fmtC 47 0 a.val 0 3 0
  | .eset a e => fmtC 48 0 a.val 0 0 e.code
  | .eget d e => fmtC 48 d.val 0 0 1 e.code
  | .trap c => fmtQ 49 0 0 (c.toNat / 32) (c.toNat % 32 * 64)
  | .eret => fmtQ 49 0 0 0 1
  | .sysr d n => fmtQ 49 d.val 0 (n.code / 32) (n.code % 32 * 64 + 2)
  | .sysw a n => fmtQ 49 0 a.val (n.code / 32) (n.code % 32 * 64 + 3)
  | .sysset a n => fmtQ 49 0 a.val (n.code / 32) (n.code % 32 * 64 + 4)
  | .sysclr a n => fmtQ 49 0 a.val (n.code / 32) (n.code % 32 * 64 + 5)
  | .halt => fmtQ 49 0 0 0 6
  | .ifence => fmtQ 49 0 0 0 7
  | .spill d a b => fmtQ 49 d.val a.val b.val 8
  | .restore d a b => fmtQ 49 d.val a.val b.val 9
  | .csend d a => fmtQ 49 d.val a.val 0 10
  | .alert a => fmtQ 49 0 a.val 0 11
  | .launch d a n => fmtQ 49 d.val a.val 0 (n.val * 64 + 12)
  | .faultackResume d a b => fmtQ 49 d.val a.val b.val 13
  | .faultackAbandon d a b => fmtQ 49 d.val a.val b.val 77
  | .seal => fmtQ 49 0 0 0 14
  | .alleyLinkDown .. => 0
  | .commandCoreStart .. => 0
  | .cxlPortUp .. => 0
  | .slotRestoreComplete .. => 0

/-- Whether an instruction has a word of its own: false for the steps of other agents. -/
def Instr.hasWord : Instr → Bool
  | .packageReset .. => false
  | .powerOff .. => false
  | .bootImageVerify .. => false
  | .freezeAssert .. => false
  | .freezeDeassert .. => false
  | .freezeReadout .. => false
  | .debugToken .. => false
  | .thermalTrip .. => false
  | .thermalReset .. => false
  | .alertWriteComplete .. => false
  | .alrtctlWrite .. => false
  | .registerWrite .. => false
  | .causewayArrival .. => false
  | .causewayRelease .. => false
  | .causewayMismatch .. => false
  | .flitReceive .. => false
  | .flitNakReceive .. => false
  | .portCrcDown .. => false
  | .holdingEntryServe .. => false
  | .responseArrival .. => false
  | .errorResponseArrival .. => false
  | .writeAck .. => false
  | .stealRequest .. => false
  | .stealReply .. => false
  | .stealRetryTimer .. => false
  | .scaleupFlitReceive .. => false
  | .authFailPortDown .. => false
  | .linkTrain .. => false
  | .fpctlOff .. => false
  | .fpctlRekey .. => false
  | .txctrRekeyThreshold .. => false
  | .txctrExhausted .. => false
  | .keyMarkerSend .. => false
  | .scaleupPortDown .. => false
  | .portIsolate .. => false
  | .gatewayRequest .. => false
  | .gatewayFlowRemap .. => false
  | .fabricTimeout .. => false
  | .linkTableGeneration .. => false
  | .fullTableInstall .. => false
  | .splitDetect .. => false
  | .splitWaitExpire .. => false
  | .hdmDecoderCommit .. => false
  | .hostMemRead .. => false
  | .hostMemWrite .. => false
  | .birspReceive .. => false
  | .bisnpTimeout .. => false
  | .cxlPortDown .. => false
  | .snpinv .. => false
  | .snpdata .. => false
  | .snpcur .. => false
  | .mbinWrite .. => false
  | .mboutWrite .. => false
  | .mbstatClearInv .. => false
  | .mbstatClearOutv .. => false
  | .mbstatClearOvf .. => false
  | .mbAttestationReport .. => false
  | .mbAttachLaunchQueue .. => false
  | .mbDetachLaunchQueue .. => false
  | .mbUnknownOp .. => false
  | .launchComplete .. => false
  | .homeLineRead .. => false
  | .homeLineStore .. => false
  | .lineWriteBack .. => false
  | .lineMigration .. => false
  | .homeTileAccess .. => false
  | .dieCacheEviction .. => false
  | .tilePushAck .. => false
  | .tilePushError .. => false
  | .shadowFrameWrite .. => false
  | .publGenToggle .. => false
  | .haloPushAck .. => false
  | .walkRead .. => false
  | .translationKill .. => false
  | .killAck .. => false
  | .walkComplete .. => false
  | .homeDiscard .. => false
  | .lineEntryUncorrectable .. => false
  | .tileEntryUncorrectable .. => false
  | .correctableError .. => false
  | .memoryChannelServe .. => false
  | .dieCachePrefetch .. => false
  | .faultQueueSpace .. => false
  | .noticeStoreDrain .. => false
  | .noticeDropAlert .. => false
  | .taskReplay .. => false
  | .remoteStoreArrival .. => false
  | .remoteFaultRecord .. => false
  | .stagingTimeout .. => false
  | .uncorrectableTeamError .. => false
  | .travelPacketArrival .. => false
  | .travelPacketReturn .. => false
  | .messageEngineExecute .. => false
  | .copyPageTranslate .. => false
  | .copyArrival .. => false
  | .stageFreeNotice .. => false
  | .cpyrFire .. => false
  | .matrixStepFire .. => false
  | .matrixOpComplete .. => false
  | .lctctlLock .. => false
  | .partDiesWrite .. => false
  | .partHaltreq .. => false
  | .partitionHalted .. => false
  | .partResume .. => false
  | .partSwapout .. => false
  | .swapoutComplete .. => false
  | .partSwapin .. => false
  | .swapinComplete .. => false
  | .partErrClear .. => false
  | .dealTask .. => false
  | .bandAdmit .. => false
  | .taskDispatch .. => false
  | .taskRetire .. => false
  | .slotSpill .. => false
  | .spillComplete .. => false
  | .slotRestore .. => false
  | .joinSpill .. => false
  | .watchPoll .. => false
  | .waitevTimeout .. => false
  | .joinPoll .. => false
  | .fetchFault .. => false
  | .illegalInstruction .. => false
  | .collectiveStart .. => false
  | .collectiveChunkReceive .. => false
  | .collectiveAnnounce .. => false
  | .collectivePeerAbort .. => false
  | .alleyLinkDown .. => false
  | .commandCoreStart .. => false
  | .cxlPortUp .. => false
  | .slotRestoreComplete .. => false
  | _ => true

/-- What the decoder reads from an instruction of `nbits` bits with value `w` (one little-endian word of 32 bits). -/
noncomputable def decodeTableWord (nbits w : Nat) : Option Instr :=
  if nbits = 32 then
    match decode (BitVec.ofNat 32 w) with
    | .ok i => some i
    | .error _ => none
  else none

end Sys2Proof
end

