-- ==== Sys2Proof/Machine/Micro.lean ====
section
/-! DEFINITION. The propagating instructions (R129) as plain data: what a replay log entry records of an instruction, so
that its replay (R136) runs the definition its first execution ran. One constructor per instruction shape; the operation
is a name of its own type. -/

namespace Sys2Proof.Machine

/-- The operations of major 0x01 (R266). -/
inductive AluFn where
  | add | sub | and | or | xor | andn | orn | sll | srl | sra | rol | ror | slt | sltn | seq | min | max | minn | maxn
  | mul | mulh | mulhn | div | divn | rem | remn | clz | ctz | popc | bswap | shadd1 | shadd2 | shadd3
  | crcb | crcd | mix64
  deriving DecidableEq, Repr

/-- The immediate operations of majors 0x02 to 0x0A (R265), and the two bit-field extractions (R287). -/
inductive ImmFn where
  | addi | andi | ori | xori | slti | sltin | lih | slli | srli | srai | rori | bfx | bfxs
  deriving DecidableEq, Repr

/-- The arithmetic minors 0 to 19 of VINT (R335). -/
inductive VintFn where
  | vadd | vsub | vmul | vmulh | vand | vor | vxor | vandn | vsll | vsrl | vsra | vmin | vmax | vminn | vmaxn
  | vadds | vsubs | vaddsn | vsubsn | vabsd
  deriving DecidableEq, Repr

/-- The comparisons of VINT and VFLT (R336, R339). -/
inductive VcmpFn where
  | eq | lt | ltn | le | feq | flt | fle
  deriving DecidableEq, Repr

/-- The immediate forms of VINT (R337). -/
inductive VimmFn where
  | vaddi | vslli | vsrli | vsrai
  deriving DecidableEq, Repr

/-- The element-wise forms of VFLT (R338, R339). -/
inductive VfltFn where
  | vfadd | vfsub | vfmul | vffma | vffms | vfdiv | vfsqrt | vfmin | vfmax | vfabs | vfneg | vfclass | vfrecip | vfrsqrt
  | vfscale
  deriving DecidableEq, Repr

/-- The conversions of R340. -/
inductive VcvtFn where
  | fi | fin | intf | intnf
  deriving DecidableEq, Repr

/-- The mask logic of R346. -/
inductive KFn where
  | kand | kor | kxor
  deriving DecidableEq, Repr

/-- The rearranging and reducing forms of VMSK (R347 to R349). -/
inductive VmskFn where
  | vcompress | vexpand | vperm | vslideup | vslidedn | vredadd | vredmin | vredmax | vfredadd | vfredmax | vscanadd
  | vzip | vunzip
  deriving DecidableEq, Repr

/-- The database forms that read registers only (R350 to R352). -/
inductive VdbFn where
  | vhashc | vhashm | vpart | vhist | vdesc | vslen
  deriving DecidableEq, Repr

/-- The vector loads, from memory or from the pool, and the string forms (R342 to R345, R353). -/
inductive VloadFn where
  | vld | vlds | vldx | vldb | vldp | vldpx | vspfx | vscmp | vsfind | vseq | vshash
  deriving DecidableEq, Repr

/-- A relaxed load that may take the poison path (R127), as a latent entry keeps it for its replay (R136). -/
inductive LoadOp where
  /-- format K and MEMX loads: destination, effective address, bytes, sign extension -/
  | scalar (d : Reg) (va : Word) (n : Nat) (signed : Bool)
  /-- vector loads and string forms: the fields of the word -/
  | vector (f : VloadFn) (d a b : Fin 32) (k : KReg) (t : ElTy)
  deriving DecidableEq, Repr

/-- An instruction that computes registers from registers. -/
inductive PropOp where
  | alu (f : AluFn) (d a b : Reg)
  | cmov (d a b : Reg)
  | imm (f : ImmFn) (d a : Reg) (i : BitVec 16)
  | vint (f : VintFn) (d a b : VReg) (k : KReg) (t : ElTy)
  | vcmp (f : VcmpFn) (d : KReg) (a b : VReg) (k : KReg) (t : ElTy)
  | vsel (d a b : VReg) (k : KReg) (t : ElTy)
  | vsplat (d : VReg) (a : Reg) (k : KReg) (t : ElTy)
  | viota (d : VReg) (k : KReg) (t : ElTy)
  | vmovx (d : Reg) (a : VReg) (b : Reg) (t : ElTy)
  | vimm (f : VimmFn) (d a : VReg) (i : BitVec 5) (k : KReg) (t : ElTy)
  | vflt (f : VfltFn) (d a b : VReg) (k : KReg) (t : ElTy)
  | vcvtf (d a : VReg) (c : ElTy) (k : KReg) (t : ElTy)
  | vcvt (f : VcvtFn) (d a : VReg) (k : KReg) (t : ElTy)
  | vfsplat (d : VReg) (a : Reg) (k : KReg) (t : ElTy)
  | vfdot2 (d a b : VReg) (k : KReg) (t : ElTy)
  | klog (f : KFn) (d a b : KReg)
  | knot (d a : KReg)
  | kpop (d : Reg) (a : KReg) (t : ElTy)
  | kfirst (d : Reg) (a : KReg) (t : ElTy)
  | kset (d : KReg) (a : Reg) (t : ElTy)
  | vmsk (f : VmskFn) (d a b : VReg) (k : KReg) (t : ElTy)
  | vdb (f : VdbFn) (d a b : VReg) (k : KReg) (t : ElTy)
  | vmv (d a : VReg)
  /-- a load form that read a poisoned value it does not consume: a remainder of VSHASH (R353), or the other elements of a
  poisoned lane (R330); its replay reads memory again -/
  | reload (op : LoadOp)
  /-- a pool load that left the other elements of a poisoned lane (R330): the elements that it read -/
  | poolLoad (d : VReg) (t : ElTy) (es : List (Nat × Nat))
  deriving DecidableEq, Repr

end Sys2Proof.Machine
end

