-- ==== Sys2Proof/Machine/State.lean ====
section
/-! DEFINITION. The state of one GX-576 package, as plain data, and the state right after package reset (R22). The current
core and its current thread stand in fields of their own; the other cores and slots stand in lists, and every access goes
through the operations of Machine/Ops.lean. -/

namespace Sys2Proof.Machine

/-- Bytes of memory: address and value, addresses strictly rising, no entry equal to what an unlisted address reads as. -/
abbrev Memory := List Host.Cell

/-- Finite data by number, keys strictly rising. -/
abbrev Map (α : Type) := List (Nat × α)

/-- The modes of R377. -/
inductive Mode where
  | user | supervisor
  deriving DecidableEq, Repr

/-- The registers that propagating instructions read and write (R257, R128): `xp`, `vp` and `kp` are the poison payloads,
`vp` by 32-bit lane. -/
structure Regs where
  x : Vector Word 32
  xp : Vector (Option Payload) 32
  b : Vector Word 4
  v : Vector VWord 32
  vp : Vector (Map Payload) 32
  k : Vector KWord 8
  kp : Vector (Option Payload) 8
  /-- vector length (R327) -/
  vl : Nat
  fmta : Word
  fmtb : Word
  fmtc : Word
  scalea : Word
  scaleb : Word
  deriving DecidableEq, Repr

/-- A replay log entry (R129): the instruction, its PC, and the register values it read. -/
structure LogEntry where
  pc : Word
  op : PropOp
  regs : Regs
  /-- whole vector registers that it records -/
  vecs : Nat
  deriving DecidableEq, Repr

/-- A latent or raised entry that a thread holds (R132, R136): the fault-queue index, and the load to be performed again;
`load` is absent for a stopped copy (R230), a parking fault and a remote fault, whose write is sent again (R140). -/
structure HeldEntry where
  ctx : BitVec 16
  index : Word
  pc : Word
  load : Option LoadOp
  /-- the registers the load read -/
  regs : Regs
  /-- the stopped copy (R230) -/
  copy : Option Nat
  raised : Bool
  acked : Bool
  /-- the failed write that is sent again (R140) -/
  write : Option WriteMsg := none
  /-- the index that its poison carries, when a replay has reserved another one (R136) -/
  orig : Option Word := none
  /-- the load has been performed again: the registers with its result -/
  value : Option Regs := none
  deriving DecidableEq, Repr

/-- A fault-queue entry before it is written (R134). -/
structure FaultEntry where
  cause : Byte
  stat : BitVec 2
  remote : Bool
  write : Bool
  notask : Bool
  ctx : BitVec 16
  fva : Word
  fpc : Word
  rpc : Word
  pkg : BitVec 8
  sock : BitVec 5
  core : BitVec 6
  slot : BitVec 3
  pa : Nat
  detail : Word
  task : BitVec 32
  /-- the command core whose FCNT counts it (R132) -/
  sup : Nat
  /-- the issue number of the write that failed, by which the origin knows its record (R133, R140) -/
  seq : Nat := 0
  deriving DecidableEq, Repr

/-- A watch entry (R322, R324). -/
structure WatchEntry where
  line : Nat
  armed : Bool
  triggered : Bool
  /-- the line cannot be registered: it triggers every 1,024 cycles -/
  polled : Bool
  /-- the cycle in which it was armed -/
  since : Nat
  deriving DecidableEq, Repr

/-- One physical extent of an extent table (R122). -/
structure Extent where
  vbase : Nat
  len : Nat
  pbase : Nat
  leaf : BitVec 16
  /-- the table lines it is derived from -/
  lines : List Nat
  deriving DecidableEq, Repr

/-- An entry that waits for space in its fault queue (R132): the thread that holds it, and for a load what the load still
has to write: the registers with its good elements, and the failed lanes (none for a scalar). -/
structure FqItem where
  core : CoreId
  slot : Fin 8
  entry : FaultEntry
  load : Option LoadOp
  after : Option Regs
  lanes : List Nat
  /-- the stopped copy whose entry it is (R230) -/
  copy : Option Nat
  /-- the failed write whose entry it is (R140) -/
  write : Option WriteMsg := none
  deriving DecidableEq, Repr

/-- What a parked slot waits for (R202, R210). -/
inductive Wait where
  /-- a response to an outstanding request (R13, R35), by its tag; the instruction then runs again with the data -/
  | response (tag : Nat)
  /-- the write counters of a level (R161); the instruction runs again when they are zero -/
  | counters (l : Level)
  /-- the write counters of a level, inside a tile form, whose slot is not spilled before the form completes (R161, R319) -/
  | form (l : Level)
  /-- a TLB walk that a WALK_COMPLETE ends (R123) -/
  | walk
  | bart (episode : Nat)
  | barg (episode : Nat)
  | barb (id : Nat) (phase : Bool)
  /-- BOWAIT: the offset of the object and the phase -/
  | bowait (off : Nat) (phase : Bool)
  /-- JOIN: the line of its counter (R297), and the counter's address; a write to the line runs the instruction again -/
  | join (line : Nat) (va : Word)
  /-- WAITEV: the destination and the cycle at which the limit passes (none: no limit) -/
  | waitev (d : Reg) (limit : Option Nat)
  /-- a matrix operation of the core's queue (R223) -/
  | matrix (id : Nat)
  /-- a full queue or table: the instruction runs again when there is room (R202, R204) -/
  | matqFull | copyFull | colqFull | launchFull
  /-- STOP and HALT wait for the thread's copies (R300) -/
  | copies
  /-- a fault acknowledgement (R136) -/
  | fault
  /-- an entry waits for space in the fault queue of this context (R132) -/
  | fqSpace (ctx : BitVec 16)
  /-- a SPILL or RESTORE in progress (R390) -/
  | saving
  /-- the thread's travel packet is on its way (R146) -/
  | travel
  /-- a request held while a tile is in-forward, or a release whose halo pushes are not acknowledged (R100, R102); the
  instruction runs again -/
  | tile (pbase : Nat)
  /-- TFWD: its push is not acknowledged (R101); the address it named -/
  | tfwd (pbase : Nat) (va : Word)
  /-- TDROP: a replica drop is not acknowledged (R102) -/
  | tdrop (pbase : Nat)
  /-- PUBL: the toggle, and then the acknowledgements of its halo pushes (R104) -/
  | publ (pbase : Nat) (toggled : Bool)
  /-- an access to a fenced die during the wait after a split (R56); the instruction runs again -/
  | split
  /-- a BISnp to the host is outstanding for this half line (R62) -/
  | bisnp (half : Nat)
  /-- the core has no response slot, or the port of a host line has 256 requests outstanding (R35, R67); the instruction
  runs again -/
  | slot
  /-- a host line that its home is obtaining (R66); the instruction runs again when it has come, or has not -/
  | hostLine (line : Nat)
  /-- the slot has executed STOP (R300) or stands halted until package reset (R387) -/
  | stopped | halted
  deriving DecidableEq, Repr

/-- The state of a slot (R210). A spilled thread is in a save area and its slot is empty. -/
inductive Status where
  | empty | ready | parked (w : Wait)
  deriving DecidableEq, Repr

/-- The data of a response, or the cause of an error response, kept until the instruction that asked for it has run again. -/
structure Got where
  pa : Nat
  n : Nat
  fail : Option Byte
  data : BitVec 1024
  /-- the engine that asked for it, where one did -/
  engine : Option Nat := none
  deriving DecidableEq, Repr

/-- What a thread is (R178): a member of a launch task, a forked thread task, or a supervisor strand. -/
inductive Kind where
  | gang | thread | strand
  deriving DecidableEq, Repr

/-- One thread, in its slot. -/
structure Thread where
  status : Status
  regs : Regs
  pc : Word
  mode : Mode
  xpc : Word
  xcause : Word
  xval : Word
  xvec : Word
  /-- the copy geometry registers, by ENO (R355) -/
  eng : Vector Word 15
  /-- vector allotment (R216) -/
  allot : Nat
  watch : Vector WatchEntry 4
  log : List LogEntry
  held : List HeldEntry
  /-- remote-fault records that are pending (R140) -/
  records : List FaultRec
  /-- outstanding-write counters (R161) -/
  near : Nat
  dev : Nat
  hst : Nat
  /-- offers the slot still gives up (R202) -/
  skip : Nat
  lastIssue : Option Nat
  /-- the package cycle in which the instruction at pc first issued: the order in which requests arrive (R90, R100) -/
  since : Nat := 0
  /-- the writes that had been issued by then, by which it takes its place among them -/
  came : Nat := 0
  kind : Kind
  task : BitVec 32
  /-- launch handle (R186) -/
  lh : Nat
  ctx : BitVec 16
  joinp : Word
  fmtp : Word
  scopet : Word
  /-- gang rank, team member (R193) -/
  rank : Nat
  member : Nat
  gangw : Nat
  teamw : Nat
  prio : Nat
  /-- team number on its core -/
  team : Nat
  /-- band identifier (R196) -/
  band : Option Nat
  /-- dispatch order on the core (R206) -/
  order : Nat
  extents : List Extent
  /-- a format-context or scope-table read that failed at dispatch: cause and address (R195) -/
  dispatchFault : Option (Byte × Word)
  /-- it was owed re-admission when its partition was swapped out (R208) -/
  owed : Bool
  /-- the barriers (0 BART, 1 BARG, 2 BARB) up to whose arrival R208 protects it from R206 -/
  protect : List (Fin 3)
  /-- barrier episodes this thread has arrived at: BART, BARG, BARB (R315) -/
  arrivals : Vector Nat 3
  /-- the pc of an instruction whose access is performed remotely, because its travel packet came back (R146) -/
  stay : Option Word
  /-- the stores of the courier message that is still open, oldest first (R147) -/
  packing : List WriteMsg
  /-- the core's cycle in which that message was begun -/
  packedAt : Nat := 0
  /-- the virtual base and the address of the message whose value CSEND at pc waits for (R397) -/
  sent : Option (Word × Nat) := none
  /-- the scope table that the instruction at pc decoded when it issued, while it waits (R318) -/
  scopeTab : Option (List Byte) := none
  /-- FORK at pc holds a place in the deque (R295) -/
  reserved : Bool := false
  /-- pages whose walk has failed for the instruction at pc: page number, cause and DETAIL (R123, R134) -/
  walked : List (Nat × Byte × Word) := []
  /-- the instruction at pc runs again after such a walk -/
  rewalk : Bool := false
  /-- responses that have arrived for the instruction at pc -/
  got : List Got
  /-- the half whose BIRsp has arrived for the access that the instruction at pc makes (R62) -/
  owes : Option Nat
  /-- the halves for which the TDECL at pc has sent its BISnpInv (R64) -/
  snooped : List Nat := []
  deriving DecidableEq, Repr

/-- A TLB entry (R123). -/
structure TlbEntry where
  slot : Nat
  ctx : BitVec 16
  vbase : Nat
  log2 : Nat
  pbase : Nat
  leaf : BitVec 16
  lines : List Nat
  deriving DecidableEq, Repr

/-- A write on its way, or held in staging (R142, R150), with the dispatch number of the thread that made it. -/
structure Pending where
  tid : Nat
  msg : WriteMsg
  /-- its near count has ended (R161) -/
  near : Bool
  deriving DecidableEq, Repr

/-- The checkpoint bank of a team (R142): the members' slots with their registers and PC. -/
structure Checkpoint where
  members : List (Nat × Regs × Word)
  isOpen : Bool
  /-- old contents of first-written sectors: scratchpad offset, or accumulator byte address with its tile -/
  undo : List (Nat × BitVec 128)
  undoAcc : List (Nat × Memory)
  deriving DecidableEq, Repr

/-- A team on its core (R192, R213, R214). -/
structure Team where
  id : Nat
  poolpart : Word
  firstBank : Nat
  lh : Nat
  ctx : BitVec 16
  task : BitVec 32
  prio : Nat
  kind : Kind
  /-- the slots of its members that have not stopped; a spilled member keeps its number -/
  members : Nat
  stopped : Nat
  /-- cores of the gang in rank order, and this core's rank -/
  gang : List CoreId
  rank : Nat
  /-- frames held by its threads (R216) -/
  frames : Nat
  /-- scratchpad bytes by pool offset -/
  pool : Memory
  /-- accumulator tiles: bytes of tile n at 16384 * n -/
  acc : Memory
  ckpt : Checkpoint
  /-- arrivals of the current episode and episodes completed: BART, BARG -/
  bartCount : Nat
  bartDone : Nat
  bargCount : Nat
  bargDone : Nat
  /-- BARB: threads of this core that have arrived (R316), and the phase last seen released -/
  barbCount : Nat
  barbPhase : Bool
  band : Option Nat
  deriving DecidableEq, Repr

/-- A ring (R220, R360). -/
structure Ring where
  team : Nat
  base : Nat
  log2 : Nat
  written : Nat
  taken : Nat
  /-- bytes reserved by fired copies (R365) -/
  reserved : Nat
  /-- a remote handle: the owner core and its team -/
  remote : Option (CoreId × Nat)
  /-- the producer of a remotely configured ring: core, team, FBO -/
  producer : Option (CoreId × Nat × Nat)
  ovr : Bool
  deriving DecidableEq, Repr

/-- The matrix operations (R357, R358). -/
inductive MatKind where
  | mma | mmas | mzero | mload (off : Nat) | mdrain (off : Nat)
  deriving DecidableEq, Repr

/-- An entry of the matrix queue (R204, R223). -/
structure MatOp where
  id : Nat
  kind : MatKind
  slot : Nat
  team : Nat
  tile : Nat
  aring : Nat
  bring : Nat
  zring : Nat
  steps : Nat
  fmta : Word
  fmtb : Word
  fmtc : Word
  scalea : Word
  scaleb : Word
  /-- K-steps fired so far -/
  fired : Nat
  /-- the scale units in use (R244) -/
  scA : List Byte
  scB : List Byte
  deriving DecidableEq, Repr

/-- The geometry of a copy, read at issue (R226, R227). -/
structure CopyGeom where
  base : Word
  loge : Nat
  dir : Bool
  pool : Nat
  n : Vector Nat 4
  s : Vector Int 4
  c : Vector Int 4
  lo : Vector Int 4
  hi : Vector Int 4
  fill : BitVec 128
  deriving DecidableEq, Repr

/-- The copy forms (R363); CPYT is a box with its tile's geometry. -/
inductive CopyKind where
  | cpy | cpym (mask : Nat) | cpyr (ring : Nat) | cpyg (list : List Int) | cpyp (dest : List (Option Word))
  deriving DecidableEq, Repr

/-- A copy in flight (R226). -/
structure Copy where
  id : Nat
  tid : Nat
  team : Nat
  ctx : BitVec 16
  mode : Mode
  pc : Word
  kind : CopyKind
  geom : CopyGeom
  bo : Nat
  level : Level
  /-- the next element, in index order: earlier ones have moved -/
  next : Nat
  /-- fired into its ring (R365): the ring position it reserved -/
  fired : Option Nat
  /-- stopped at a failing page (R230), with its entry written -/
  stopped : Bool
  /-- its writes that have not ended on the device and host counters (R161, R168) -/
  dev : Nat
  hst : Nat
  deriving DecidableEq, Repr

/-- A collective operation (R369, R376). -/
structure ColOp where
  id : Nat
  desc : Word
  ctx : BitVec 16
  mode : Mode
  pc : Word
  /-- the command core that counts its entries (R369) -/
  sup : Nat
  kind : Nat
  rop : Nat
  fmt : Nat
  ntree : Nat
  pub : Bool
  tag : BitVec 32
  count : Nat
  src : Word
  dst : Word
  chunk : Nat
  root : Nat
  prog : Word
  pkgs : BitVec 256
  state : Nat
  detail : Nat
  nt : Nat
  gen : BitVec 32
  recomp : Nat
  /-- planes of the trees in use (R370) -/
  planes : List Nat
  /-- the engine's copy of the marks (R372): chunk, state, tree, generation; a chunk not listed is pending -/
  marks : Map (Nat × Nat × BitVec 32)
  /-- its writes to other packages or the host that have not ended on the device and host counters (R161) -/
  dev : Nat
  hst : Nat
  /-- its STATUS is still to be written -/
  stat : Bool
  /-- its descriptor has been compared with a peer's (R376) -/
  met : Bool := false
  /-- its PUBL has been performed (R374) -/
  pubd : Bool := false
  deriving DecidableEq, Repr

/-- A task record (R187), with its launch's priority. -/
structure TaskRec where
  pc : Word
  a0 : Word
  a1 : Word
  sp : Word
  fmtp : Word
  rngp : Word
  joinp : Word
  task : BitVec 32
  lh : Nat
  thread : Bool
  nrng : Nat
  deriving DecidableEq, Repr

/-- A courier message in a message-engine queue (R233): the tag by which its origin waits, the instructions performed so
far, and the message registers (R395). -/
structure MsgEntry where
  msg : Courier
  tag : Nat
  pos : Nat
  m : Vector Word 8
  /-- a message of another package: the package and the header slot of its request (R31) -/
  away : Option (Nat × BitVec 128) := none
  /-- the dispatch number of its thread, for a message of this package -/
  tid : Nat := 0
  /-- its place in the order of arrival, among the messages that have not ended -/
  place : Nat := 0
  deriving DecidableEq, Repr

/-- A saved thread (R205). -/
structure Saved where
  thread : Thread
  /-- spilled by R298: the counter that must read 0 before it comes back -/
  joins : Option Word
  /-- that counter has read 0 -/
  due : Bool
  deriving DecidableEq, Repr

/-- A line of a core cache, with the valid bits of its 16-byte sectors (R211). -/
structure CoreLine where
  line : Nat
  valid : BitVec 8
  deriving DecidableEq, Repr

/-- One core site or command core. -/
structure Core where
  slots : Vector Thread 8
  /-- cycles of this core's rotation (R201) -/
  cycle : Nat
  /-- the datapath is occupied until this cycle; claims in order (R219) -/
  dpFree : Nat
  claims : List Nat
  teams : List Team
  nextTeam : Nat
  nextOrder : Nat
  nextId : Nat
  rings : Vector (Option Ring) 8
  /-- the deque, bottom first (R191); those past the 64th stand in the spill area too (R190) -/
  deque : List TaskRec
  /-- the record for which a joiner has been spilled, which is dispatched first (R298) -/
  child : Option TaskRec := none
  saves : List Saved
  tlb : List TlbEntry
  /-- the slots for which a walker works (R123) -/
  walks : List Nat := []
  /-- lines of the instruction cache (R212), the earliest filled first -/
  icache : Map (BitVec 1024)
  /-- lines of the core cache (R211), least recently used first -/
  ccache : List CoreLine
  staging : List Pending
  /-- the cycle of the first held store, by team (R143) -/
  stagedAt : Map Nat
  inflight : List Pending
  matq : List MatOp
  copies : List Copy
  /-- responses that have arrived for the engines -/
  got : List Got
  colq : List ColOp
  msgq : List MsgEntry
  /-- the messages that wait in holding entries for that queue (R36, R233) -/
  msgHeld : List MsgEntry := []
  /-- a full context save waits until that queue is empty (R233) -/
  saving : Bool := false
  /-- scope-table copies by launch handle: the 3 KiB (R154) -/
  scopes : Map (List Byte)
  /-- the fixed scratchpad of a command core (R69) -/
  pool : Memory
  /-- steal state (R198, R199): the next victim number, a request outstanding, waiting until this cycle of the package -/
  stealNext : Nat
  stealOut : Bool
  stealWait : Option Nat
  /-- stopped by a halt of its partition, a split or a power-down (R184, R55) -/
  stopped : Bool
  deriving DecidableEq, Repr

/-- A home line entry (R92), with the valid and dirty sector masks of its holder's die cache, the dirty tag (R87, R88) and
the migration count of R91. -/
structure LineEntry where
  state : BitVec 2
  holder : BitVec 4
  hlo : BitVec 2
  hhi : BitVec 2
  tov : Bool
  wat : Bool
  wset : BitVec 18
  valid : BitVec 8
  dirty : BitVec 8
  tag : BitVec 16
  away : Nat
  awayDie : Nat
  /-- watchers that came while kills of the line were on their way (R107) -/
  fresh : BitVec 18 := 0
  /-- the core whose cache has it exclusively, for stores (R87, R211) -/
  excl : Option CoreId := none
  /-- the sectors that this core has stored to since, and that are not written back to the die cache yet (R211) -/
  unsaved : BitVec 8 := 0
  deriving DecidableEq, Repr

/-- The states of a tile (R98, R100). -/
inductive TileState where
  | home | owned | inForward | shadowed | lost
  deriving DecidableEq, Repr

/-- A tile entry (R98). -/
structure Tile where
  tstate : TileState
  gen : Bool
  shad : Bool
  rows : Nat
  rowq : Nat
  pitch : Nat
  owner : CoreId
  ftgt : CoreId
  dcore : CoreId
  ctx : BitVec 16
  sfrm : Nat
  ht : Nat
  hb : Nat
  hl : Nat
  hr : Nat
  fmt : Byte
  neighbours : List CoreId
  /-- the previous state, for an error response to a push (R100) -/
  prev : TileState
  prevOwner : CoreId
  /-- the dirty tags of its die-cache entries, by line (R87, R88) -/
  tags : Map (BitVec 16) := []
  deriving DecidableEq, Repr

/-- A halo replica on a die (R102): contents by sector number. -/
structure Replica where
  pbase : Nat
  die : Nat
  sectors : Map (BitVec 128)
  /-- a push, or after TDROP its drop, is not acknowledged -/
  pushed : Bool
  deriving DecidableEq, Repr

/-- A translation kill that has not been acknowledged (R107): the line, the die, whether it has reached the die, and the
thread whose device count waits for it (R125). -/
structure Kill where
  line : Nat
  die : Nat
  reached : Bool
  core : CoreId
  tid : Nat
  deriving DecidableEq, Repr

/-- A launch table entry (R186). -/
structure Launch where
  ntask : Nat
  gangw : Nat
  team : Nat
  prio : Nat
  fpol : Nat
  partn : Nat
  bandg : Nat
  poolpart : Word
  fmtctx : Word
  scopet : Word
  args : Word
  done : Word
  ctx : BitVec 16
  entry : Word
  sup : Nat
  next : Nat
  live : Nat
  status : Nat
  aborted : Bool
  /-- the parts of R79 made so far: the status, then the count -/
  told : Nat
  deriving DecidableEq, Repr

/-- A partition (R182). -/
structure Part where
  dies : BitVec 16
  state : Nat
  busy : Bool
  err : Bool
  /-- the request in progress: 0 none, 1 halt, 2 swap out, 3 swap in -/
  req : Nat
  mem : Word
  /-- cores saved in shadow storage (R184) -/
  saved : List (CoreId × Core)
  /-- the swap used PARTMEM (R185) -/
  viaMem : Bool
  deriving DecidableEq, Repr

/-- An identifier of the causeway (R17). -/
structure Causeway where
  used : Bool
  expected : Nat
  count : Nat
  next : Nat
  phase : Bool
  broken : Bool
  /-- a release is on its way (R17) -/
  releasing : Bool
  deriving DecidableEq, Repr

/-- A mailbox (R71, R72). -/
structure Mailbox where
  mbin : Word
  mbout : Word
  inv : Bool
  outv : Bool
  inovf : Bool
  outovf : Bool
  ien : Bool
  fcnt : BitVec 32
  fctx : BitVec 16
  deriving DecidableEq, Repr

/-- An alert record (R81). -/
structure Alert where
  cls : Byte
  src : BitVec 5
  ctx : BitVec 16
  seq : BitVec 32
  time : Word
  data : List Word
  deriving DecidableEq, Repr

/-- The 64 bytes of an alert record (R81): CLASS, SRC, CTX and SEQ, then TIME, then the doublewords D0 to D5, those without a
payload 0. -/
def Alert.bytes (a : Alert) : BitVec 512 :=
  let head := a.cls.toNat + 2 ^ 8 * a.src.toNat + 2 ^ 16 * a.ctx.toNat + 2 ^ 32 * a.seq.toNat
  let data := (a.data.take 6).foldr (fun (d : Word) r => d.toNat + 2 ^ 64 * r) 0
  BitVec.ofNat 512 (head + 2 ^ 64 * a.time.toNat + 2 ^ 128 * data)

/-- An in-package link port (R31, R32, R35). -/
structure Link where
  up : Bool
  rxSeq : BitVec 10
  txSeq : BitVec 10
  ack : BitVec 10
  fails : Nat
  /-- sequence numbers of flits not yet acknowledged, with the flits -/
  replay : List (BitVec 10 × BitVec 2048)
  /-- skid entries in use, the STOP bits sent, and those received, by network (R35) -/
  skid : Vector Nat 4
  mine : Vector Bool 4
  stop : Vector Bool 4
  /-- messages that wait at their source while their network is stopped or the replay buffer is full (R35): the network, the
  slots, and what happens once the message has left -/
  queue : List (Nat × List (BitVec 128) × Option Instr)
  deriving DecidableEq, Repr

/-- A scale-up port (R44 to R48). -/
structure Fport where
  state : Nat
  ktx : Bool
  krx : Bool
  afail : Nat
  txctr : BitVec 32
  rxctr : BitVec 32
  downs : Nat
  off : Bool
  rekey : Bool
  rxSeq : BitVec 12
  txSeq : BitVec 12
  ack : BitVec 12
  /-- key generations of the two slots, by direction: the keys themselves are never readable (R27) -/
  txGen : Nat
  rxGen : Nat
  exchanging : Bool
  marker : Option (BitVec 12)
  replay : List (BitVec 12 × BitVec 2048)
  /-- a key-exchange flit, or the marker, that is still to be sent (R46, R47) -/
  keyDue : Bool
  markerDue : Bool
  /-- the idle receive slot holds a new key, which the peer's marker makes live (R46, R47) -/
  rxNew : Bool := false
  /-- the STOP bits sent and those received, by network, and the data flits in the skid buffers in clear form (R40, R41) -/
  mine : Vector Bool 4
  stop : Vector Bool 4
  skid : List (BitVec 2048)
  deriving DecidableEq, Repr

/-- A CXL port with its HDM decoder (R58, R59). -/
structure CxlPort where
  up : Bool
  committed : Bool
  /-- the error-not-committed status of its decoder -/
  failed : Bool
  hostBase : Nat
  dpaBase : Nat
  size : Nat
  ways : Nat
  gran : Nat
  deriving DecidableEq, Repr

/-- A request that left the package, or went to the host, and expects a response (R31, R35). -/
structure Outstanding where
  core : CoreId
  tag : Nat
  tid : Nat
  pa : Nat
  n : Nat
  /-- destination package (the own package number for the host window) -/
  pkg : Nat
  /-- plane of the flow, once the gateway has sent it (R41) -/
  plane : Option Nat
  /-- a store or an atomic that returns nothing: its write, for a remote-fault record; none: the thread waits for data -/
  write : Option WriteMsg
  /-- a fill of a host line under HC = 1 (R66) -/
  fill : Bool
  /-- the copy or collective that sent it; none: the thread -/
  engine : Option Nat
  /-- for a write, which of its counts have ended (R161) -/
  nearDone : Bool
  devDone : Bool
  /-- the sequence number of its last flit on that plane (R49) -/
  flit : Option (BitVec 12) := none
  /-- the CXL port of a request for a host line (R67) -/
  port : Option Nat := none
  /-- its message to another package, or the parts of its travel packet: the slots, header first (R31) -/
  msgs : List (List (BitVec 128)) := []
  /-- stores of the thread that come before the read and are not performed yet: their bytes are in its result (R157) -/
  own : List WriteMsg := []
  /-- the atomic for which the host die has taken the line, performed when the line arrives (R313) -/
  amo : Option WriteMsg := none
  /-- a fill that takes ownership (RdOwn) -/
  owns : Bool := false
  /-- a line that its home gives up or writes back, which nobody waits for (R66, R67) -/
  evict : Bool := false
  /-- the core whose access a fill of a home is for -/
  asker : CoreId := 0
  deriving DecidableEq, Repr

/-- A request that has arrived from another package and is not answered yet (R41): the package, and its message (R31). -/
structure AwayReq where
  pkg : Nat
  slots : List (BitVec 128)
  /-- the package cycle in which it arrived (R146) -/
  since : Nat := 0
  deriving DecidableEq, Repr

/-- A response to another package (R49): the core whose flow it takes, the package, its message, and once it has left the
plane and the sequence number of its flit. -/
structure AwayResp where
  core : CoreId
  pkg : Nat
  slots : List (BitVec 128)
  sent : Option (Nat × BitVec 12)
  deriving DecidableEq, Repr

/-- A flow of the gateway (R41): its plane, and whether new flits are held. -/
structure Flow where
  core : CoreId
  pkg : Nat
  vn : Nat
  plane : Nat
  holding : Bool
  deriving DecidableEq, Repr

/-- A request in a holding entry (R36): the die and class, what it waits for, and whose it is: the core, and the dispatch
number of the thread or the number of the engine's operation. -/
structure Holding where
  home : Nat
  cls : HoldClass
  wait : Wait
  core : CoreId := 0
  tid : Nat := 0
  deriving DecidableEq, Repr

/-- A half of a host line that the device holds (R66): 1 shared, 2 owned, 3 + c owned and dirty with tag c; and the port
through which it was obtained (R68). -/
structure HostLine where
  st : Nat
  port : Nat
  deriving DecidableEq, Repr

/-- The CXL.cache requests of the device (R66). -/
inductive CxlReq where
  | rdShared | rdOwn | rdAny | rdCurr | wrCur | cleanEvict | dirtyEvict
  deriving DecidableEq, Repr

/-- What waits for a fault queue's lines (R132, R136, R137): a new STAT of an entry, with its RPC where it is raised; or, with a
command core named, one entry that this command core still has to count (R72). -/
structure StatWrite where
  ctx : BitVec 16
  index : Word
  stat : Nat
  rpc : Option Word
  sup : Option Nat
  deriving DecidableEq, Repr

/-- A launch queue that firmware has attached (R73, R75). -/
structure LaunchQueue where
  num : Nat
  addr : Nat
  core : Nat
  deriving DecidableEq, Repr

/-- A notice store of one die (R133). -/
structure Notices where
  entries : List FaultEntry
  dropped : Nat
  dropCtx : BitVec 16
  dropCause : Byte
  deriving DecidableEq, Repr

/-- A memory channel's sort buffer (R114): the addresses of its requests and whether each is a write, oldest first, and the
open page. -/
structure Channel where
  buffer : List (Nat × Bool)
  openPage : Option Nat
  deriving DecidableEq, Repr

/-- What the package sends outside, oldest first (log 17). -/
inductive Out where
  | msix (port : Nat) (vector : Nat)
  | aer (uncorrectable : Bool) (port : Nat)
  | alert (port : Option Nat) (hostAddr : Nat) (rec : BitVec 512)
  | bisnp (half : Nat) (data : Bool)
  | cxlWrite (kind : CxlReq) (port : Nat) (hostAddr : Nat) (n : Nat) (data : BitVec 512) (bad : Bool := false)
  | cxlRead (kind : CxlReq) (port : Nat) (hostAddr : Nat) (n : Nat)
  | hostData (pa : Nat) (data : BitVec 512) (poisoned : Bool) (state : BitVec 2)
  | hostDone (pa : Nat)
  | snoopData (half : Nat) (data : BitVec 512) (dirty : Bool)
  | courier (pkg : Nat) (plane : Nat) (msg : Courier)
  | write (pkg : Nat) (pa : Nat) (n : Nat) (data : BitVec 128)
  | request (pkg : Nat) (plane : Nat) (tag : Nat) (pa : Nat) (n : Nat)
  | response (pkg : Nat) (slots : List (BitVec 128))
  | travel (pkg : Nat) (packet : BitVec 6144)
  | flitAck (sock : Nat) (ack : BitVec 10) (nak : Bool)
  | flit (sock : Nat) (seq : BitVec 10)
  | upAck (port : Nat) (ack : BitVec 12) (nak : Bool)
  | upFlit (port : Nat) (seq : BitVec 12) (kind : Nat) (flit : BitVec 2048)
  | keyExchange (port : Nat)
  | tableRequest
  | announce (tag : BitVec 32) (gen : BitVec 32)
  | descriptor (tag : BitVec 32) (fields : List Nat)
  | doneSet (tag : BitVec 32) (gen : BitVec 32) (chunks : List Nat)
  | collective (tag : BitVec 32) (chunk : Nat) (up : Bool) (data : List Byte)
  | abort (tag : BitVec 32)
  | portReport (port : Nat)
  | readout (data : List Word)
  | report (port : Option Nat) (hostAddr : Nat) (bytes : List Byte)
  deriving DecidableEq, Repr

/-- Why the machine stops with a fault. Every constructor is safe: the model stops where the hardware has stopped. -/
inductive Fault where
  /-- The package has no power: raised by `step` after POWER_OFF (R21: all state is lost). Safe. -/
  | poweredOff
  deriving DecidableEq, Repr

/-- Why an instruction has no meaning. -/
inductive Refusal where
  /-- No meaning yet: raised by an arm of `exec` that names the mnemonic. Safe. -/
  | notModelled (mnemonic : String)
  deriving DecidableEq, Repr

/-- The state of the package. -/
structure State where
  powered : Bool
  frozen : Bool
  freezePin : Bool
  /-- package reset holds until FREEZE is deasserted (R28) -/
  resetHeld : Bool
  /-- core cycles since package reset (R81) -/
  cycles : Nat
  thermal : Option Nat
  debugToken : Bool
  debugFuse : Bool
  fuseKeyHash : BitVec 256
  fuseMinSec : Word
  harvest : Vector Word 16
  pkgid : BitVec 8
  sramShadow : Nat
  bootState : BitVec 2
  bootImage : BitVec 8
  bootCause : BitVec 4
  bootDigests : List (BitVec 256)
  bootNext : Nat
  /-- entry of the first image, until command core 0 starts (R70) -/
  bootEntry : Word
  causeway : Vector Causeway 64
  outbox : List Out
  /-- events due, oldest first (log 7) -/
  agenda : List Instr
  /-- the cores whose cycle comes next (log 7) -/
  schedule : List Nat
  /-- the slots whose held request is served next, in order of arrival (R36, R90, R100) -/
  rerun : List (CoreId × Fin 8)
  /-- free values drawn (log 18) -/
  freeCount : Nat
  links : Vector Link 24
  holdings : List Holding
  alleysDown : List (Nat × Nat)
  outstanding : List Outstanding
  fports : Vector Fport 36
  ltGen : BitVec 32
  ltStale : Bool
  linkTable : Vector Word 256
  ltPending : Bool
  flows : List Flow
  /-- requests from other packages, and responses to them (R41, R49) -/
  awayReqs : List AwayReq
  responses : List AwayResp
  liveMask : BitVec 24
  /-- the live mask as it stood before the split that took sockets out of it (R54) -/
  preSplit : BitVec 24
  /-- the sockets of fenced groups (R55) -/
  fenced : BitVec 24
  /-- the wait after a split (R56): the sockets that are gone, and the cycle of the decision -/
  splitWait : Option (BitVec 24 × Nat)
  lostDies : BitVec 24
  cxl : Vector CxlPort 4
  /-- outstanding BISnps (R62, R65): the half, the port, and whether it is BISnpData -/
  bisnps : List (Nat × Nat × Bool)
  /-- steps that run again when a BIRsp arrives (R62) -/
  hostHeld : List Instr
  /-- host lines held under HC = 1, by half (R66) -/
  hostLines : Map HostLine
  mailboxes : Vector Mailbox 8
  queues : List LaunchQueue
  alrtBase : Word
  alrtLog2n : Nat
  alrtEn : Bool
  alrtHead : Word
  alrtTail : Word
  alrtLost : Nat
  alrtSeq : BitVec 32
  alrtHeld : List Alert
  alrtFlight : List Alert
  mem : Memory
  /-- bytes held dirty in a die cache (R87), by physical address -/
  dirty : Map Byte
  /-- shadow-storage bytes by core die and frame: key die * 2^30 + byte (R89) -/
  shadow : Map Byte
  /-- poisoned 16-byte sectors (R112) -/
  psect : List Nat
  /-- the line entries of the homes (R92), the most recently used first (R93) -/
  lines : Map LineEntry
  /-- lines whose entry is being evicted (R93) -/
  evicting : List Nat
  tiles : Map Tile
  declRecs : Map Tile
  replicas : List Replica
  kills : List Kill
  /-- per die and watched line, the cores with derived translations (R107) -/
  coreMaps : List (Nat × Nat × List CoreId)
  channels : Vector Channel 64
  notices : Map Notices
  fqWait : List FqItem
  /-- new STATs that wait for their entry (R132), oldest first -/
  statWait : List StatWrite
  /-- writes issued since package reset (R34) -/
  issued : Nat
  ctxtEn : Bool
  ctxtBase : Nat
  tvEn : Bool
  tvBase : Nat
  /-- logical core table by number (R179) -/
  lct : Map Word
  lctLock : Bool
  lctErr : Bool
  nlog : Nat
  parts : Vector Part 16
  launches : Map Launch
  /-- admitted bands: identifier, launch, cores, tasks still live (R196) -/
  bands : List (Nat × Nat × List CoreId × Nat)
  /-- what full context saves have put into context areas, by the number that the area holds (R390, R391; log 31) -/
  areas : List (Nat × Core)
  /-- the current core, its number, and the current thread with its slot -/
  loc : CoreId
  core : Core
  slot : Fin 8
  th : Thread
  /-- the other cores that differ from an idle core -/
  cores : Map Core
  deriving DecidableEq, Repr

/-- The registers of a thread at its start (R193) and of a slot that has held none (log 5). -/
def Regs.zero : Regs where
  x := Vector.replicate 32 0
  xp := Vector.replicate 32 none
  b := Vector.replicate 4 0
  v := Vector.replicate 32 0
  vp := Vector.replicate 32 []
  k := Vector.replicate 8 0
  kp := Vector.replicate 8 none
  vl := 0
  fmta := 0
  fmtb := 0
  fmtc := 0
  scalea := 0
  scaleb := 0

/-- A watch entry that is not armed (R322). -/
def WatchEntry.clear : WatchEntry where
  line := 0
  armed := false
  triggered := false
  polled := false
  since := 0

/-- The reset values of the copy geometry registers (R355). -/
def engReset : Vector Word 15 :=
  #v[0, 0, 0, 0, 0, 0, 0, 0, 0x8000000080000000, 0x8000000080000000, 0x7FFFFFFF7FFFFFFF, 0x7FFFFFFF7FFFFFFF, 0, 0, 0]

/-- A slot that holds no thread (R210). -/
def Thread.empty : Thread where
  status := .empty
  regs := Regs.zero
  pc := 0
  mode := .user
  xpc := 0
  xcause := 0
  xval := 0
  xvec := 0
  eng := engReset
  allot := 0
  watch := Vector.replicate 4 WatchEntry.clear
  log := []
  held := []
  records := []
  near := 0
  dev := 0
  hst := 0
  skip := 0
  lastIssue := none
  since := 0
  came := 0
  kind := .strand
  task := 0
  lh := 0
  ctx := 0
  joinp := 0
  fmtp := 0
  scopet := 0
  rank := 0
  member := 0
  gangw := 1
  teamw := 1
  prio := 0
  team := 0
  band := none
  order := 0
  extents := []
  dispatchFault := none
  owed := false
  protect := []
  arrivals := Vector.replicate 3 0
  stay := none
  packing := []
  packedAt := 0
  sent := none
  scopeTab := none
  reserved := false
  walked := []
  rewalk := false
  got := []
  owes := none
  snooped := []

/-- A core right after reset: no thread, nothing cached, nothing queued (R22, R210). -/
def Core.idle : Core where
  slots := Vector.replicate 8 Thread.empty
  cycle := 0
  dpFree := 0
  claims := []
  teams := []
  nextTeam := 0
  nextOrder := 0
  nextId := 0
  rings := Vector.replicate 8 none
  deque := []
  child := none
  saves := []
  tlb := []
  walks := []
  icache := []
  ccache := []
  staging := []
  stagedAt := []
  inflight := []
  matq := []
  copies := []
  got := []
  colq := []
  msgq := []
  scopes := []
  pool := []
  stealNext := 0
  stealOut := false
  stealWait := none
  stopped := false

/-- The state right after package reset: every field at the value the manual gives, or at the one a log entry names. The root
and every identifier of the causeway stand with no count, no arrival and phase 0, for which R17 gives no value (log 65). -/
def State.reset : State where
  powered := true
  frozen := false
  freezePin := false
  resetHeld := false
  cycles := 0
  thermal := none
  debugToken := false
  debugFuse := false
  fuseKeyHash := 0
  fuseMinSec := 0
  harvest := Vector.replicate 16 0x24FFFFFFFFF
  pkgid := 0
  sramShadow := 1
  bootState := 0
  bootImage := 0
  bootCause := 0
  bootDigests := []
  bootNext := 0
  bootEntry := 0
  causeway := Vector.replicate 64 ⟨false, 0, 0, 0, false, false, false⟩
  outbox := []
  agenda := []
  schedule := []
  rerun := []
  freeCount := 0
  links := Vector.replicate 24
    ⟨true, 0, 0, 0, 0, [], Vector.replicate 4 0, Vector.replicate 4 false, Vector.replicate 4 false, []⟩
  holdings := []
  alleysDown := []
  outstanding := []
  fports := Vector.replicate 36
    ⟨0, false, false, 0, 0, 0, 0, false, false, 0, 0, 0, 0, 0, false, none, [], false, false, false, Vector.replicate 4 false,
      Vector.replicate 4 false, []⟩
  ltGen := 0
  ltStale := true
  linkTable := Vector.replicate 256 0
  ltPending := false
  flows := []
  awayReqs := []
  responses := []
  liveMask := BitVec.allOnes 24
  preSplit := BitVec.allOnes 24
  fenced := 0
  splitWait := none
  lostDies := 0
  cxl := Vector.replicate 4 ⟨true, false, false, 0, 0, 0, 1, 256⟩
  bisnps := []
  hostHeld := []
  hostLines := []
  mailboxes := Vector.replicate 8 ⟨0, 0, false, false, false, false, false, 0, 0⟩
  queues := []
  alrtBase := 0
  alrtLog2n := 0
  alrtEn := false
  alrtHead := 0
  alrtTail := 0
  alrtLost := 0
  alrtSeq := 0
  alrtHeld := []
  alrtFlight := []
  mem := []
  dirty := []
  shadow := []
  psect := []
  lines := []
  evicting := []
  tiles := []
  declRecs := []
  replicas := []
  kills := []
  coreMaps := []
  channels := Vector.replicate 64 ⟨[], none⟩
  notices := []
  fqWait := []
  statWait := []
  issued := 0
  ctxtEn := false
  ctxtBase := 0
  tvEn := false
  tvBase := 0
  lct := []
  lctLock := false
  lctErr := false
  nlog := 0
  parts := (Vector.replicate 16 ⟨0, 0, false, false, 0, 0, [], false⟩).set 0 ⟨0xFFFF, 1, false, false, 0, 0, [], false⟩
  launches := []
  bands := []
  areas := []
  loc := 0
  core := Core.idle
  slot := 0
  th := Thread.empty
  cores := []

end Sys2Proof.Machine
end

