-- ==== Sys2Proof/Machine/Data.lean ====
section
/-! DEFINITION. Helpers over the data of the state: finite maps, bytes and bit fields, register accessors (R128, R257), and
the accessors of cores and threads, through which every read and write of a core or a slot goes. -/

namespace Sys2Proof.Machine

/-! Bit fields. -/

/-- bits(v, hi, lo) of R270 for a word, as a number. -/
def bits (v : Word) (hi lo : Nat) : Nat := v.toNat / 2 ^ lo % 2 ^ (hi - lo + 1)

/-- sint(v, n) of R270. -/
def sint (v n : Nat) : Int := if v % 2 ^ n < 2 ^ (n - 1) then Int.ofNat (v % 2 ^ n) else Int.ofNat (v % 2 ^ n) - 2 ^ n

/-- uint(v, n) of R270 for an exact integer. -/
def uint (v : Int) (n : Nat) : Nat := (v % (2 ^ n : Int)).toNat

/-- sat(v, lo, hi) of R270. -/
def sat (v lo hi : Int) : Int := if v < lo then lo else if hi < v then hi else v

/-- A number as a word. -/
def w64 (n : Nat) : Word := BitVec.ofNat 64 n

/-- An exact integer as a word, modulo 2^64. -/
def w64i (n : Int) : Word := BitVec.ofInt 64 n

/-! Finite maps with rising keys. -/

/-- The value at a key. -/
def mapGet {α : Type} : Map α → Nat → Option α
  | [], _ => none
  | (k, v) :: r, a => if k = a then some v else mapGet r a

/-- The map with one value set. -/
def mapSet {α : Type} : Map α → Nat → α → Map α
  | [], a, x => [(a, x)]
  | (k, v) :: r, a, x => if a < k then (a, x) :: (k, v) :: r else if a = k then (a, x) :: r else (k, v) :: mapSet r a x

/-- The map without a key. -/
def mapErase {α : Type} : Map α → Nat → Map α
  | [], _ => []
  | (k, v) :: r, a => if a = k then mapErase r a else (k, v) :: mapErase r a

/-- The launch handle of a thread from another package: no launch of this package (R186, log 78). -/
def awayLaunch : Nat := 4096

/-! Memory in canonical form: an unlisted byte reads 0 (log 1). -/

/-- What an address that nothing has written reads as (log 1). -/
def Memory.unlisted : Byte := 0

/-- The byte at an address. -/
def memByte : Memory → Nat → Byte
  | [], _ => Memory.unlisted
  | (k, v) :: r, a => if k = a then v else memByte r a

/-- The memory with one byte written, in canonical form. -/
def memPut : Memory → Nat → Byte → Memory
  | [], a, x => if x = Memory.unlisted then [] else [(a, x)]
  | (k, v) :: r, a, x =>
    if a < k then (if x = Memory.unlisted then (k, v) :: r else (a, x) :: (k, v) :: r)
    else if a = k then (if x = Memory.unlisted then r else (a, x) :: r)
    else (k, v) :: memPut r a x

/-- The canonical form: addresses strictly rising from `lo`, no entry that reads as an unlisted address does. -/
def Memory.wfFrom : Nat → Memory → Bool
  | _, [] => true
  | lo, (k, v) :: r => decide (lo ≤ k) && decide (v ≠ Memory.unlisted) && Memory.wfFrom (k + 1) r

/-- The canonical form of a memory. -/
def Memory.wf (m : Memory) : Bool := Memory.wfFrom 0 m

/-- The little-endian number in `n` bytes from `a`, each byte read by `f` (R3). -/
def leRead (f : Nat → Byte) (a : Nat) : Nat → Nat
  | 0 => 0
  | n + 1 => (f a).toNat + 256 * leRead f (a + 1) n

/-- The memory with the low `n` bytes of `v` written from `a`, little-endian (R3). -/
def memWrite (m : Memory) (a : Nat) : Nat → Nat → Memory
  | 0, _ => m
  | n + 1, v => memWrite (memPut m a (BitVec.ofNat 8 v)) (a + 1) n (v / 256)

/-- `n` bytes from `a` as a number. -/
def memRead (m : Memory) (a n : Nat) : Nat := leRead (memByte m) a n

/-- The bytes of a number, little-endian. -/
def toBytes : Nat → Nat → List Byte
  | 0, _ => []
  | n + 1, v => BitVec.ofNat 8 v :: toBytes n (v / 256)

/-- The number in a list of bytes, little-endian. -/
def ofBytes : List Byte → Nat
  | [] => 0
  | b :: r => b.toNat + 256 * ofBytes r

/-! Registers. -/

/-- A scalar register; `x0` reads as zero (R257). -/
def Regs.rx (r : Regs) (i : Reg) : Word := if i = 0 then 0 else r.x[i]

/-- The poison payload of a scalar register; `x0` has none (R128). -/
def Regs.rxp (r : Regs) (i : Reg) : Option Payload := if i = 0 then none else r.xp[i]

/-- A write of a clean value to a scalar register; a write to `x0` is discarded (R128). -/
def Regs.wx (r : Regs) (i : Reg) (v : Word) : Regs :=
  if i = 0 then r else { r with x := r.x.set i v, xp := r.xp.set i none }

/-- A write of poison to a scalar register, which then holds the payload (R128). -/
def Regs.wxp (r : Regs) (i : Reg) (p : Payload) : Regs :=
  if i = 0 then r else { r with x := r.x.set i (p.setWidth 64), xp := r.xp.set i (some p) }

/-- A mask register; `k0` reads as all true (R257). -/
def Regs.rk (r : Regs) (i : KReg) : KWord := if i = 0 then BitVec.allOnes 256 else r.k[i]

/-- The poison payload of a mask register. -/
def Regs.rkp (r : Regs) (i : KReg) : Option Payload := if i = 0 then none else r.kp[i]

/-- A write of a clean value to a mask register; a write to `k0` is discarded and carries no poison (R257). -/
def Regs.wk (r : Regs) (i : KReg) (v : KWord) : Regs :=
  if i = 0 then r else { r with k := r.k.set i v, kp := r.kp.set i none }

/-- A write of poison to a mask register (R128): the payload in bits [20:0]. -/
def Regs.wkp (r : Regs) (i : KReg) (p : Payload) : Regs :=
  if i = 0 then r else { r with k := r.k.set i (p.setWidth 256), kp := r.kp.set i (some p) }

/-- A vector register with its lane payloads. -/
def Regs.wv (r : Regs) (i : VReg) (v : VWord) (p : Map Payload) : Regs :=
  { r with v := r.v.set i v, vp := r.vp.set i p }

/-! Cores and threads. -/

/-- The socket of a core. -/
def sockOf (c : CoreId) : Nat := c / 64

/-- The site of a core on its socket. -/
def siteOf (c : CoreId) : Nat := c % 64

/-- The core of a socket and site. -/
def coreOf (sock site : Nat) : CoreId := sock * 64 + site

/-- Whether a core is a command core (R69). -/
def isCmd (c : CoreId) : Bool := decide (20 ≤ sockOf c)

/-- The number n of a command core (R69). -/
def cmdNo (c : CoreId) : Nat := (sockOf c - 20) * 4 + siteOf c

/-- Command core n (R69). -/
def cmdCore (n : Nat) : CoreId := coreOf (20 + n / 4) (n % 4)

/-- Whether a core holds a thread in a slot. -/
def Core.occupied (k : Core) : Bool := k.slots.toList.any fun t => t.status != .empty

/-- The current core with its current thread in place. -/
def State.here (s : State) : Core := { s.core with slots := s.core.slots.set s.slot s.th }

/-- Any core. -/
def State.getCore (s : State) (c : CoreId) : Core :=
  if c = s.loc then s.here else (mapGet s.cores c).getD Core.idle

/-- Any core written. -/
def State.putCore (s : State) (c : CoreId) (k : Core) : State :=
  if c = s.loc then { s with core := k, th := k.slots[s.slot] } else { s with cores := mapSet s.cores c k }

/-- A core changed by a function. -/
def State.onCore (s : State) (c : CoreId) (f : Core → Core) : State := s.putCore c (f (s.getCore c))

/-- Any thread. -/
def State.getThread (s : State) (c : CoreId) (sl : Fin 8) : Thread :=
  if c = s.loc ∧ sl = s.slot then s.th else (s.getCore c).slots[sl]

/-- Any thread written. -/
def State.putThread (s : State) (c : CoreId) (sl : Fin 8) (t : Thread) : State :=
  if c = s.loc ∧ sl = s.slot then { s with th := t }
  else s.onCore c fun k => { k with slots := k.slots.set sl t }

/-- A thread changed by a function. -/
def State.onSlot (s : State) (c : CoreId) (sl : Fin 8) (f : Thread → Thread) : State :=
  s.putThread c sl (f (s.getThread c sl))

/-- The same package with another core and slot as the current ones. -/
def State.focus (s : State) (c : CoreId) (sl : Fin 8) : State :=
  let k := s.getCore c
  let cores := if c = s.loc then s.cores else mapErase (mapSet s.cores s.loc s.here) c
  { s with loc := c, core := k, slot := sl, th := k.slots[sl], cores := cores }

/-- An operation on the current thread, done as another thread. -/
def State.asThread (s : State) (c : CoreId) (sl : Fin 8) (f : State → State) : State :=
  (f (s.focus c sl)).focus s.loc s.slot

/-- The current thread changed. -/
def State.onTh (s : State) (f : Thread → Thread) : State := { s with th := f s.th }

/-- The current core changed (not its current slot). -/
def State.onHere (s : State) (f : Core → Core) : State := { s with core := f s.core }

/-- The registers of the current thread changed. -/
def State.onRegs (s : State) (f : Regs → Regs) : State := { s with th := { s.th with regs := f s.th.regs } }

/-- A scalar register of the current thread. -/
def State.x (s : State) (i : Reg) : Word := s.th.regs.rx i

/-- A clean write of a scalar register of the current thread. -/
def State.setX (s : State) (i : Reg) (v : Word) : State := s.onRegs fun r => r.wx i v

/-- The next instruction in program order. -/
def State.adv (s : State) : State := { s with th := { s.th with pc := s.th.pc + 4 } }

/-- The program counter set. -/
def State.goto (s : State) (pc : Word) : State := { s with th := { s.th with pc := pc } }

/-- The current slot parks (R210). -/
def State.park (s : State) (w : Wait) : State := { s with th := { s.th with status := .parked w } }

/-- The current slot is ready. -/
def State.wake (s : State) : State := { s with th := { s.th with status := .ready } }

/-- An event that is due after those that are (log 7). -/
def State.later (s : State) (i : Instr) : State := { s with agenda := s.agenda ++ [i] }

/-- An event that waits is held until something that it may wait for has happened (R36, R62, R100). -/
def State.hold (s : State) (i : Instr) : State := { s with hostHeld := s.hostHeld ++ [i] }

/-- Events that were held run again. -/
def State.requeueHeld (s : State) : State := { s with agenda := s.agenda ++ s.hostHeld, hostHeld := [] }

/-- The events that act while the package is frozen (R25 to R28): the pins with package reset, the power, the management port
and the readout. -/
def runsFrozen : Instr → Bool
  | .freezeDeassert | .freezeReadout .. | .debugToken .. | .powerOff | .freezeAssert | .packageReset => true
  | _ => false

/-- Something sent outside the package (log 17). -/
def State.out (s : State) (o : Out) : State := { s with outbox := s.outbox ++ [o] }

/-- Every core that is not idle changed by a function of its number. -/
def State.mapCores (s : State) (f : CoreId → Core → Core) : State :=
  let k := f s.loc s.here
  { s with core := k, th := k.slots[s.slot], cores := s.cores.map fun p => (p.1, f p.1 p.2) }

/-- Every thread changed by a function. -/
def State.mapThreads (s : State) (f : CoreId → Fin 8 → Thread → Thread) : State :=
  s.mapCores fun c k => { k with slots := Vector.ofFn fun i => f c i k.slots[i] }

/-- The cores that are not idle, the current one included. -/
def State.coreList (s : State) : List CoreId := s.loc :: s.cores.map (·.1)

/-- A pair put in front of the first one whose key is not lower. -/
def insertKeyed {α : Type} (p : Nat × α) : List (Nat × α) → List (Nat × α)
  | [] => [p]
  | q :: r => if p.1 ≤ q.1 then p :: q :: r else q :: insertKeyed p r

/-- A list in ascending order of a key; elements with equal keys keep their order. -/
def sortBy {α : Type} (key : α → Nat) (l : List α) : List α :=
  ((l.map fun a => (key a, a)).foldr insertKeyed []).map (·.2)

/-- A value left open by the manual: a fresh bit (log 18). -/
def State.freeBit (s : State) : Bool × State := (Config.freeBit s.freeCount, { s with freeCount := s.freeCount + 1 })

end Sys2Proof.Machine
end

