-- ==== Sys2Proof/Machine/Float.lean ====
section
/-! DEFINITION. Number formats and their arithmetic (R235 to R256): decoding, exact operations, and the one rounding of R245
to R247. -/

namespace Sys2Proof.Machine

/-- A floating-point format (R235 to R238): its magnitude codes rise with the magnitudes they stand for. -/
structure Fmt where
  bytes : Nat
  signed : Bool
  /-- trailing significand bits -/
  t : Nat
  bias : Int
  /-- the highest finite magnitude code -/
  maxCode : Nat
  /-- the magnitude code of infinity -/
  inf : Option Nat
  /-- the canonical NaN (R256) -/
  nan : Nat
  /-- an IEEE 754 format: it has a negative zero, and every code above infinity is a NaN -/
  ieee : Bool
  deriving DecidableEq, Repr

/-- FP16, BF16, FP32 and FP64 (R238). -/
def fp16 : Fmt := ⟨2, true, 10, 15, 0x7BFF, some 0x7C00, 0x7E00, true⟩
def bf16 : Fmt := ⟨2, true, 7, 127, 0x7F7F, some 0x7F80, 0x7FC0, true⟩
def fp32 : Fmt := ⟨4, true, 23, 127, 0x7F7FFFFF, some 0x7F800000, 0x7FC00000, true⟩
def fp64 : Fmt := ⟨8, true, 52, 1023, 0x7FEFFFFFFFFFFFFF, some 0x7FF0000000000000, 0x7FF8000000000000, true⟩

/-- A binary8 format by its code (R235 to R237); the reserved codes give none. -/
def fmt8 (code : Nat) : Option Fmt :=
  let p := code % 8
  let signed := code / 64 % 2 == 1
  let inf := code / 32 % 2 == 1
  if code / 128 % 2 = 1 ∧ code / 8 % 4 = 0 ∧ p ≠ 0 then
    let w := if signed then 8 - p else 9 - p
    let top := if signed then 0x7F else 0xFE
    some
      { bytes := 1, signed := signed, t := p - 1, bias := 2 ^ (w - 1), maxCode := if inf then top - 1 else top,
        inf := if inf then some top else none, nan := if signed then 0x80 else 0xFF, ieee := false }
  else none

/-- The floating-point format of a format code (R235). -/
def fmtOfCode (code : Nat) : Option Fmt :=
  if code = 5 then some fp16
  else if code = 6 then some bf16
  else if code = 7 then some fp32
  else if code = 8 then some fp64
  else fmt8 code

/-- An exact value: for a finite one, `num * 2 ^ exp`, and a little more than that (less than one unit of `num`) when
`sticky`: the exact quotients and roots that no binary fraction equals. -/
inductive FVal where
  | nan
  | inf (neg : Bool)
  | fin (neg : Bool) (num : Nat) (exp : Int) (sticky : Bool)
  deriving DecidableEq, Repr

/-- A zero with a sign. -/
def FVal.zero (neg : Bool) : FVal := .fin neg 0 0 false

/-- The exact value of an integer. -/
def FVal.ofInt (i : Int) : FVal := .fin (decide (i < 0)) i.natAbs 0 false

/-- Bits of a magnitude code. -/
def Fmt.magBits (f : Fmt) : Nat := if f.signed then 8 * f.bytes - 1 else 8 * f.bytes

/-- The value of a magnitude code, as if it were finite (R236, R238). -/
def Fmt.magVal (f : Fmt) (neg : Bool) (m : Nat) : FVal :=
  let e := m / 2 ^ f.t
  let r := m % 2 ^ f.t
  if e = 0 then .fin neg r (1 - f.bias - f.t) false else .fin neg (2 ^ f.t + r) (e - f.bias - f.t) false

/-- Whether a bit pattern is a NaN. -/
def Fmt.isNan (f : Fmt) (b : Nat) : Bool :=
  if f.ieee then decide ((f.inf.getD 0) < b % 2 ^ f.magBits) else b == f.nan

/-- The sign of a bit pattern. -/
def Fmt.sign (f : Fmt) (b : Nat) : Bool := f.signed && b / 2 ^ f.magBits % 2 == 1

/-- decode(c, b) of R270 for a floating-point format. -/
def Fmt.decode (f : Fmt) (b : Nat) : FVal :=
  let m := b % 2 ^ f.magBits
  if f.isNan b then .nan
  else if f.inf = some m then .inf (f.sign b)
  else f.magVal (f.sign b) m

/-- The rounding modes of R240. -/
inductive Rnd where
  | rne | rtz | rup | rdn | odd
  deriving DecidableEq, Repr

/-- The rounding mode of a code; 5 to 7 name none (R240). -/
def rndOf (c : Nat) : Option Rnd :=
  match c with
  | 0 => some .rne
  | 1 => some .rtz
  | 2 => some .rup
  | 3 => some .rdn
  | 4 => some .odd
  | _ => none

/-- Where a magnitude lies against the codes: the code at or below it, whether it is equal, and how the rest compares with
half the distance to the next code. -/
structure Place where
  code : Nat
  exact : Bool
  half : Ordering
  deriving DecidableEq, Repr

/-- The place of `num * 2 ^ exp` among the magnitude codes (R245), the codes above the finite ones continued. -/
def Fmt.place (f : Fmt) (num : Nat) (exp : Int) (sticky : Bool) : Place :=
  if num = 0 then ⟨0, !sticky, .lt⟩
  else
    let l : Int := Nat.log2 num + exp
    let e : Int := if 1 ≤ l + f.bias then l + f.bias else 0
    let q : Int := if 1 ≤ l + f.bias then l - f.t else 1 - f.bias - f.t
    let base : Nat := if 1 ≤ l + f.bias then (e.toNat - 1) * 2 ^ f.t else 0
    if q ≤ exp then ⟨base + num * 2 ^ (exp - q).toNat, !sticky, .lt⟩
    else
      let sh := (q - exp).toNat
      if Nat.log2 num + 1 < sh then ⟨0, false, .lt⟩
      else
        let r := num % 2 ^ sh
        let h := 2 ^ (sh - 1)
        ⟨base + num / 2 ^ sh, r == 0 && !sticky,
          if r < h then .lt else if r = h then (if sticky then .gt else .eq) else .gt⟩

/-- The magnitude code chosen by the rounding mode (R245); above `maxCode` it is an overflow. -/
def Fmt.choose (f : Fmt) (rnd : Rnd) (neg : Bool) (num : Nat) (exp : Int) (sticky : Bool) : Nat :=
  let huge := decide ((2 : Int) ^ (f.magBits - f.t) < Nat.log2 num + exp + f.bias) && num != 0
  let p : Place := if huge then ⟨f.maxCode + 1, false, .gt⟩ else f.place num exp sticky
  if p.exact ∧ p.code ≤ f.maxCode then p.code
  else
    -- beyond the largest finite value the neighbours are the last finite code and the next one
    let beyond := decide (f.maxCode < p.code)
    let lo := if beyond then f.maxCode else p.code
    let near := if beyond then Ordering.gt else p.half
    match rnd with
    | .rne =>
      match near with
      | .lt => lo
      | .gt => lo + 1
      | .eq => if lo % 2 = 0 then lo else lo + 1
    | .rtz => lo
    | .rup => if neg then lo else lo + 1
    | .rdn => if neg then lo + 1 else lo
    | .odd => min f.maxCode (if lo % 2 = 1 then lo else lo + 1)

/-- A magnitude code with a sign as a bit pattern; only an IEEE format has a negative zero. -/
def Fmt.pack (f : Fmt) (neg : Bool) (m : Nat) : Nat :=
  if neg && f.signed && (m != 0 || f.ieee) then m + 2 ^ f.magBits else m

/-- deliver(x, c, rnd, s) of R270: the bit pattern of an exact value (R245 to R247). -/
def Fmt.deliver (f : Fmt) (rnd : Rnd) (sat : Bool) (x : FVal) : Nat :=
  match x with
  | .nan => f.nan
  | .inf neg =>
    if neg && !f.signed then (if sat then 0 else f.nan)
    else
      match f.inf with
      | some m => f.pack neg m
      | none => if sat then f.pack neg f.maxCode else f.nan
  | .fin neg num exp sticky =>
    let c := f.choose rnd neg num exp sticky
    if neg && !f.signed && c != 0 then (if sat then 0 else f.nan)
    else if c ≤ f.maxCode then f.pack neg c
    else if sat then f.pack neg f.maxCode
    else
      match f.inf with
      | some m => f.pack neg m
      | none => f.nan

/-- The fixed mode of R248 and R249. -/
def Fmt.rne (f : Fmt) (x : FVal) : Nat := f.deliver .rne false x

/-! Exact arithmetic. -/

/-- Whether a value is negative or −0. -/
def FVal.neg : FVal → Bool
  | .nan => false
  | .inf n => n
  | .fin n .. => n

/-- Whether a value is a zero. -/
def FVal.isZero : FVal → Bool
  | .fin _ 0 _ false => true
  | _ => false

/-- A finite value as an integer multiple of `2 ^ m`, for an `m` at or below its exponent. -/
def scaled (neg : Bool) (num : Nat) (exp m : Int) : Int :=
  let v : Int := num * 2 ^ (exp - m).toNat
  if neg then -v else v

/-- a + b: an exact zero sum of different signs is +0 (IEEE 754 under RNE). -/
def FVal.add (a b : FVal) : FVal :=
  match a, b with
  | .nan, _ | _, .nan => .nan
  | .inf m, .inf n => if m = n then .inf m else .nan
  | .inf m, .fin .. => .inf m
  | .fin .., .inf n => .inf n
  | .fin m x e _, .fin n y f _ =>
    if x = 0 ∧ y = 0 then .fin (m && n) 0 0 false
    else if x = 0 then b
    else if y = 0 then a
    else
      let q := min e f
      let s := scaled m x e q + scaled n y f q
      .fin (decide (s < 0)) s.natAbs q false

/-- The opposite sign; a NaN stays. -/
def FVal.flip : FVal → FVal
  | .nan => .nan
  | .inf n => .inf !n
  | .fin n x e s => .fin (!n) x e s

/-- a × b. -/
def FVal.mul (a b : FVal) : FVal :=
  match a, b with
  | .nan, _ | _, .nan => .nan
  | .inf m, .inf n => .inf (m != n)
  | .inf m, .fin n y _ _ => if y = 0 then .nan else .inf (m != n)
  | .fin m x _ _, .inf n => if x = 0 then .nan else .inf (m != n)
  | .fin m x e _, .fin n y f _ => .fin (m != n) (x * y) (e + f) false

/-- a / b. -/
def FVal.div (a b : FVal) : FVal :=
  match a, b with
  | .nan, _ | _, .nan => .nan
  | .inf _, .inf _ => .nan
  | .inf m, .fin n .. => .inf (m != n)
  | .fin m .., .inf n => .zero (m != n)
  | .fin m x e _, .fin n y f _ =>
    if y = 0 then (if x = 0 then .nan else .inf (m != n))
    else
      let k := Nat.log2 y + 70
      let t := x * 2 ^ k
      .fin (m != n) (t / y) (e - f - k) (t % y != 0)

/-- The integer square root, `n` bits of the root still to be found. -/
def isqrtFrom (v : Nat) : Nat → Nat → Nat
  | 0, r => r
  | n + 1, r => if (r + 2 ^ n) * (r + 2 ^ n) ≤ v then isqrtFrom v n (r + 2 ^ n) else isqrtFrom v n r

/-- The integer square root. -/
def isqrt (v : Nat) : Nat := isqrtFrom v (Nat.log2 v / 2 + 1) 0

/-- √a (R249). -/
def FVal.sqrt : FVal → FVal
  | .nan => .nan
  | .inf n => if n then .nan else .inf false
  | .fin n x e _ =>
    if x = 0 then .zero n
    else if n then .nan
    else
      let odd : Nat := (e % 2).toNat
      let t := x * 2 ^ (140 + odd)
      let r := isqrt t
      .fin false r ((e - odd) / 2 - 70) (r * r != t)

/-- 1 / √a: ±0 gives ±∞ (R338). -/
def FVal.rsqrt : FVal → FVal
  | .nan => .nan
  | .inf n => if n then .nan else .zero false
  | .fin n x e _ =>
    if x = 0 then .inf n
    else if n then .nan
    else
      let l := Nat.log2 x
      let odd : Nat := ((e + 2 * l + 140) % 2).toNat
      let k := 2 * l + 140 + odd
      let r := isqrt (2 ^ k / x)
      .fin false r ((-e - k) / 2) (r * r * x != 2 ^ k)

/-- a × 2^n. -/
def FVal.scale (a : FVal) (n : Int) : FVal :=
  match a with
  | .fin m x e s => .fin m x (e + n) s
  | v => v

/-- The absolute value. -/
def FVal.abs : FVal → FVal
  | .nan => .nan
  | .inf _ => .inf false
  | .fin _ x e s => .fin false x e s

/-- a < b on numbers; false with a NaN (R339). -/
def FVal.lt (a b : FVal) : Bool :=
  match a, b with
  | .nan, _ | _, .nan => false
  | .inf m, .inf n => m && !n
  | .inf m, .fin .. => m
  | .fin .., .inf n => !n
  | .fin m x e _, .fin n y f _ => let q := min e f; decide (scaled m x e q < scaled n y f q)

/-- a = b on numbers; −0 equals +0, false with a NaN. -/
def FVal.eq (a b : FVal) : Bool :=
  match a, b with
  | .nan, _ | _, .nan => false
  | .inf m, .inf n => m == n
  | .fin m x e _, .fin n y f _ => let q := min e f; decide (scaled m x e q = scaled n y f q)
  | _, _ => false

/-- The order of VFMIN and VFMAX: −0 below +0 (R249). -/
def FVal.below (a b : FVal) : Bool := a.lt b || (a.isZero && b.isZero && a.neg && !b.neg)

/-- VFMIN (R249). -/
def FVal.min (a b : FVal) : FVal :=
  match a, b with
  | .nan, x | x, .nan => x
  | x, y => if y.below x then y else x

/-- VFMAX (R249). -/
def FVal.max (a b : FVal) : FVal :=
  match a, b with
  | .nan, x | x, .nan => x
  | x, y => if x.below y then y else x

/-- RNE to an integer, saturated to a range; NaN gives 0 (R248). -/
def FVal.toIntSat (a : FVal) (lo hi : Int) : Int :=
  match a with
  | .nan => 0
  | .inf n => if n then lo else hi
  | .fin n x e s =>
    let mag : Int :=
      if x = 0 then 0
      else if 128 < Nat.log2 x + e then 2 ^ 128
      else if 0 ≤ e then x * 2 ^ e.toNat
      else
        let sh := (-e).toNat
        if Nat.log2 x + 1 < sh then 0
        else
          let q := x / 2 ^ sh
          let r := x % 2 ^ sh
          let h := 2 ^ (sh - 1)
          if r < h then q else if r = h ∧ !s then q + q % 2 else q + 1
    sat (if n then -mag else mag) lo hi

/-- The class codes of R339. -/
def Fmt.classOf (f : Fmt) (b : Nat) : Nat :=
  let m := b % 2 ^ f.magBits
  let neg := f.sign b
  if f.isNan b then 0
  else if f.inf = some m then (if neg then 1 else 8)
  else if m = 0 then (if neg then 4 else 5)
  else if m / 2 ^ f.t = 0 then (if neg then 3 else 6)
  else (if neg then 2 else 7)

/-! Format records (R240, R241). -/

/-- CODE, SMODE, RND and SAT of a record. -/
def recCode (w : Word) : Nat := bits w 7 0
def recSmode (w : Word) : Nat := bits w 9 8
def recRnd (w : Word) : Nat := bits w 12 10
def recSat (w : Word) : Bool := w.getLsbD 13

/-- FMTC decoded for a vector instruction with a q8 operand (R241): the format, rounding and saturation, or ill-formed. -/
def recQ8 (w : Word) : Option (Fmt × Rnd × Bool) :=
  match fmt8 (recCode w), rndOf (recRnd w) with
  | some f, some r => if recSmode w = 0 then some (f, r, recSat w) else none
  | _, _ => none

/-- FMTC decoded by MDRAIN and MLOAD (R241). -/
def recC (w : Word) : Option (Fmt × Rnd × Bool) :=
  match fmtOfCode (recCode w), rndOf (recRnd w) with
  | some f, some r => if recSmode w = 0 ∧ recCode w ≠ 8 then some (f, r, recSat w) else none
  | _, _ => none

/-- The class of an operand format (R241): binary8, FP16 with BF16, FP32. -/
def fmtClass (code : Nat) : Nat := if code = 7 then 2 else if code = 5 ∨ code = 6 then 1 else 0

/-- FMTA or FMTB decoded by MMA and MMAS (R241). -/
def recAB (w : Word) : Option Fmt :=
  match fmtOfCode (recCode w), rndOf (recRnd w) with
  | some f, some _ => if recCode w = 8 then none else some f
  | _, _ => none

end Sys2Proof.Machine
end

