-- ==== Sys2Proof/Machine/Home.lean ====
section
/-! DEFINITION. The memory system below translation: the physical map and homes (R84, R85), alerts (R80), the line
protocol (R90), tiles (R96 to R106), watching (R107), watch triggers (R324), poisoned memory (R112), and the serialisation of
one write and of one read (R150). -/

namespace Sys2Proof.Machine

/-! The physical map (R84). -/

/-- What lies at an offset of the local map. -/
inductive Region where
  | lpddr | near | unassigned | host | sysreg
  deriving DecidableEq, Repr

/-- The region of a physical address by its offset (R84). -/
def regionOf (pa : Nat) : Region :=
  let off := pa % 0x100000000000
  if off < 0x10000000000 then .lpddr
  else if off < 0x10400000000 then .near
  else if off < 0x80000000000 then .unassigned
  else if off < 0xF0000000000 then .host
  else .sysreg

/-- The package that a physical address names (R84). -/
def pkgOf (pa : Nat) : Nat := pa / 0x100000000000 % 256

/-- Whether an address is resolved by this package's map. -/
def State.isLocal (s : State) (pa : Nat) : Bool := pkgOf pa == s.pkgid.toNat

/-- Whether an address is device memory: LPDDR-6 or near memory of this package. -/
def State.isDevMem (s : State) (pa : Nat) : Bool :=
  s.isLocal pa && (regionOf pa == .lpddr || regionOf pa == .near)

/-- The exclusive-OR of the `n` lowest 4-bit groups. -/
def xorGroups : Nat → Nat → Nat
  | 0, _ => 0
  | n + 1, v => (v % 16) ^^^ xorGroups n (v / 16)

/-- The home die of an address (R84, R85). -/
def homeOf (pa : Nat) : Nat :=
  if regionOf pa == .near then pa / 0x40000000 % 16 else xorGroups 9 (pa / 65536 % 0x1000000000)

/-- The LPDDR-6 channel of an address (R85). -/
def channelOf (pa : Nat) : Nat := (pa / 256 % 64) ^^^ (pa / 65536 % 64)

/-- The line number of an address: bits [51:7]. -/
def lineOf (pa : Nat) : Nat := pa / 128

/-- The 64-byte half number of an address. -/
def halfOf (pa : Nat) : Nat := pa / 64

/-- The port that a request for a host line uses (R67). -/
def State.hostPort (s : State) (pa : Nat) : Option Nat :=
  ((List.range 4).map fun g => (pa / 4096 + g) % 4).find? fun p => ((s.cxl[p]?).map (·.up)).getD false

/-! Alerts (R80 to R82). -/

/-- Whether the alert ring is in use (R80). -/
def State.alertsOn (s : State) : Bool := s.alrtEn && decide (6 ≤ s.alrtLog2n ∧ s.alrtLog2n ≤ 16)

/-- The alert writes that have not completed count against the ring as records written. -/
def State.alertSend (s : State) (a : Alert) : State :=
  if (s.alrtTail.toNat + s.alrtFlight.length + 2 ^ 64 - s.alrtHead.toNat) % 2 ^ 64 = 2 ^ s.alrtLog2n then
    { s with alrtLost := min (s.alrtLost + 1) 0xFFFFFFFF }
  else
    let ix := (s.alrtTail.toNat + s.alrtFlight.length) % 2 ^ s.alrtLog2n
    let at' := s.alrtBase.toNat + 64 * ix
    ({ s with alrtFlight := s.alrtFlight ++ [a] }).out (.alert (s.hostPort at') at' a.bytes)

/-- An alert record is posted (R80, R81): written to the ring, held, or dropped. -/
def State.alert (s : State) (cls : Byte) (src : Nat) (ctx : BitVec 16) (data : List Word) : State :=
  let seq := s.alrtSeq + 1
  let a : Alert := ⟨cls, BitVec.ofNat 5 src, ctx, seq, w64 s.cycles, data⟩
  let s := { s with alrtSeq := seq }
  if s.alertsOn then s.alertSend a
  else if s.alrtHeld.length < Config.alertHeld then { s with alrtHeld := s.alrtHeld ++ [a] }
  else { s with alrtHeld := s.alrtHeld.drop 1 ++ [a], alrtLost := min (s.alrtLost + 1) 0xFFFFFFFF }

/-- The lowest-numbered CXL port that is up, if any. -/
def State.lowestCxl (s : State) : Option Nat :=
  (List.range 4).find? fun p => (s.cxl[p]?.map (·.up)).getD false

/-- An MSI-X message leaves through the lowest-numbered port that is up (R72); while none is up it is lost (log 70). -/
def State.msix (s : State) (vector : Nat) : State :=
  match s.lowestCxl with
  | some p => s.out (.msix p vector)
  | none => s

/-- A corrected error is signalled on the lowest-numbered port that is up (R82). -/
def State.correctedError (s : State) : State :=
  match s.lowestCxl with
  | some p => s.out (.aer false p)
  | none => s

/-! Watches (R322 to R325). -/

/-- The triggered entries of a thread, as bits 0 to 3 (R325). -/
def Thread.triggeredMask (t : Thread) : Nat :=
  (List.range 4).foldl (fun m i =>
    match t.watch[i]? with
    | some e => if e.armed && e.triggered then m + 2 ^ i else m
    | none => m) 0

/-- WAITEV returns: the triggered bits are read and cleared, the entries stay armed (R325). -/
def Thread.endWaitev (t : Thread) (d : Reg) : Thread :=
  let m := t.triggeredMask
  { t with
    status := .ready
    regs := t.regs.wx d (w64 (if m = 0 then 0x10 else m))
    watch := t.watch.map fun e => { e with triggered := false }
    pc := t.pc + 4 }

/-- A thread that waits in WAITEV with a triggered entry leaves the wait. -/
def Thread.checkWaitev (t : Thread) : Thread :=
  match t.status with
  | .parked (.waitev d _) => if t.triggeredMask = 0 then t else t.endWaitev d
  | _ => t

/-- A write to a line is serialised: every armed entry registered on it triggers (R324), and a JOIN whose counter lies in it
reads again (R297). -/
def Thread.trigger (line : Nat) (t : Thread) : Thread :=
  let hit : WatchEntry → Bool := fun e => e.armed && !e.polled && e.line == line
  let t := match t.status with
    | .parked (.join l _) => if l = line then { t with status := .ready } else t
    | _ => t
  if t.watch.any hit then
    ({ t with watch := t.watch.map fun e => if hit e then { e with triggered := true } else e }).checkWaitev
  else t

/-- Watch triggers of a line, in every slot of the package. -/
def State.trigger (s : State) (line : Nat) : State := s.mapThreads fun _ _ t => t.trigger line

/-! Line entries. -/

/-- A line that no die holds and nobody watches. -/
def LineEntry.none : LineEntry where
  state := 0
  holder := 0
  hlo := 0
  hhi := 0
  tov := false
  wat := false
  wset := 0
  valid := 0
  dirty := 0
  tag := 0
  away := 0
  awayDie := 0

/-- The home's entry of a line. -/
def State.lineAt (s : State) (line : Nat) : LineEntry := (mapGet s.lines line).getD LineEntry.none

/-- The holder die of a line. -/
def LineEntry.held (e : LineEntry) : Option Nat := if e.state = 1 ∨ e.state = 2 then some e.holder.toNat else Option.none

/-- Whether two lines have one home. -/
def sameHome (a b : Nat) : Bool := homeOf (128 * a) == homeOf (128 * b)

/-- Whether two lines of one home share a set of its directory (R93). -/
def sameSet (a b : Nat) : Bool :=
  sameHome a b && Config.dirIndex a % Config.dirSets == Config.dirIndex b % Config.dirSets

/-- Whether more than `n` entries stand in the set of a line (R93). -/
def State.setOver (s : State) (line n : Nat) : Bool :=
  decide (n < (s.lines.filter fun p => sameHome line p.1).length) &&
    decide (n < (s.lines.filter fun p => sameSet line p.1).length)

/-- Whether a line has an entry in a set that is not over-full, or its set has a free one (R93). -/
def State.roomFor (s : State) (line : Nat) : Bool :=
  !s.setOver line (if (mapGet s.lines line).isSome then Config.dirWays else Config.dirWays - 1)

/-- The source agent of a home (R31). -/
def homeSite : Nat := 36

/-- The home's entry of a line written, which is now the most recently used (R93); an entry that says nothing is not kept. A
new entry in a full set takes the place of one that is evicted next (R93, log 60). -/
def State.setLine (s : State) (line : Nat) (e : LineEntry) : State :=
  if e = LineEntry.none then { s with lines := mapErase s.lines line }
  else
    let t := { s with lines := (line, e) :: mapErase s.lines line }
    if (mapGet s.lines line).isNone && t.setOver line Config.dirWays then t.later (.homeLineRead (coreOf (homeOf (128 * line)) homeSite) (128 * line)) else t

/-- A line entry with a value that is never stored (R92). -/
def LineEntry.broken (e : LineEntry) : Bool := e.state == 3 || e.hlo == 3 || e.hhi == 3

/-- A request for a line by a die (R90, R91): requests of one die other than the holder are counted while they are
consecutive. -/
def LineEntry.asked (e : LineEntry) (die : Nat) : LineEntry :=
  match e.held with
  | some h =>
    { e with
      away := if h = die then 0 else if e.awayDie = die then e.away + 1 else 1
      awayDie := if h = die then 0 else die }
  | Option.none => e

/-- The host state of a half (R61). -/
def State.hostState (s : State) (half : Nat) : BitVec 2 :=
  let e := s.lineAt (half / 2)
  if half % 2 = 0 then e.hlo else e.hhi

/-- The host state of a half set. -/
def State.setHostState (s : State) (half : Nat) (v : BitVec 2) : State :=
  let e := s.lineAt (half / 2)
  s.setLine (half / 2) (if half % 2 = 0 then { e with hlo := v } else { e with hhi := v })

/-! Tiles (R96 to R105). -/

/-- Bytes of a tile's footprint (R97). -/
def Tile.footprint (t : Tile) : Nat := (t.rows - 1) * t.pitch + 16 * t.rowq

/-- Whether a tile at `pbase` covers the sector of an address (R96). -/
def Tile.covers (t : Tile) (pbase pa : Nat) : Bool :=
  decide (pbase ≤ pa) &&
    (let off := pa - pbase
     if t.rows = 1 then decide (off < 16 * t.rowq)
     else decide (off / t.pitch < t.rows) && decide (off % t.pitch < 16 * t.rowq))

/-- Row and sector of a covered address. -/
def Tile.cell (t : Tile) (pbase pa : Nat) : Nat × Nat :=
  let off := pa - pbase
  if t.rows = 1 then (0, off / 16) else (off / t.pitch, off % t.pitch / 16)

/-- Whether a covered address lies in a halo sector (R96). -/
def Tile.inHalo (t : Tile) (pbase pa : Nat) : Bool :=
  let (i, j) := t.cell pbase pa
  decide (i < t.ht) || decide (t.rows - t.hb ≤ i) || decide (j < t.hl) || decide (t.rowq - t.hr ≤ j)

/-- The covered sectors of a tile, by physical address. -/
def Tile.sectors (t : Tile) (pbase : Nat) : List Nat :=
  (List.range t.rows).flatMap fun i => (List.range t.rowq).map fun j => pbase + i * t.pitch + 16 * j

/-- The tile that covers an address, lost tiles excepted (R100: a lost tile's sectors act as lines). -/
def State.tileOver (s : State) (pa : Nat) : Option (Nat × Tile) :=
  s.tiles.find? fun p => p.2.tstate != .lost && p.2.covers p.1 pa

/-- The lines of a tile's footprint that hold a covered sector. -/
def Tile.lines (t : Tile) (pb : Nat) : List Nat := ((t.sectors pb).map lineOf).eraseDups

/-- The uncovered sectors of a line: those for which a fill grants holding (R105). -/
def State.openMask (s : State) (line : Nat) : BitVec 8 :=
  (List.range 8).foldl (fun m j => if (s.tileOver (128 * line + 16 * j)).isNone then m ||| BitVec.ofNat 8 (2 ^ j) else m) 0

/-- Whether a sector of `n` bytes at `pa` is an uncovered sector of a line: only then is the access the line's (R105). -/
def State.touchesOpen (s : State) (line pa n : Nat) : Bool :=
  (List.range ((pa + n - 1) / 16 + 1 - pa / 16)).any fun i =>
    (pa / 16 + i) / 8 == line && (s.tileOver (16 * (pa / 16 + i))).isNone

/-- Where a byte of a tile's shadow frame lies in shadow storage. -/
def Tile.frameByte (t : Tile) (pbase pa : Nat) : Nat :=
  homeOf pbase * 0x40000000 + t.sfrm * 4096 + (pa - pbase)

/-- The byte that stands in the visible frame (R103, R104), below the die caches. -/
def State.backing (s : State) (pa : Nat) : Byte :=
  match s.tileOver pa with
  | some (pb, t) => if t.gen then (mapGet s.shadow (t.frameByte pb pa)).getD 0 else memByte s.mem pa
  | none => memByte s.mem pa

/-- The current value of a byte, at its serialisation point (R150). -/
def State.physByte (s : State) (pa : Nat) : Byte :=
  match mapGet s.dirty pa with
  | some b => b
  | none => s.backing pa

/-- A byte written to the visible frame. -/
def State.putBacking (s : State) (pa : Nat) (b : Byte) : State :=
  match s.tileOver pa with
  | some (pb, t) =>
    if t.gen then { s with shadow := mapSet s.shadow (t.frameByte pb pa) b } else { s with mem := memPut s.mem pa b }
  | none => { s with mem := memPut s.mem pa b }

/-- `n` bytes of current values as a number. -/
def State.physRead (s : State) (pa n : Nat) : Nat := leRead s.physByte pa n

/-! Memory channels (R114). -/

/-- The next request of a channel: the oldest that hits the open page, else the oldest. -/
def Channel.pick (c : Channel) : Option (Nat × Bool) :=
  (c.buffer.find? fun q => c.openPage == some (Config.dramPage q.1)).or c.buffer.head?

/-- A channel serves one request. -/
def Channel.serve (c : Channel) : Channel :=
  match c.pick with
  | none => c
  | some q => { c with buffer := c.buffer.erase q, openPage := some (Config.dramPage q.1) }

/-- A read of a line joins the line's last request in the buffer when that is a read too. -/
def Channel.merges (pa : Nat) (c : Channel) : Bool :=
  (c.buffer.reverse.find? fun q => q.1 / 128 == pa / 128) == some (pa / 128 * 128, false)

/-- A channel takes a request; a full sort buffer serves one first. -/
def Channel.take (pa : Nat) (wr : Bool) (c : Channel) : Channel :=
  if !wr && c.merges pa then c
  else
    let c := if Config.sortMax ≤ c.buffer.length then c.serve else c
    { c with buffer := c.buffer ++ [(pa / 128 * 128, wr)] }

/-- A line read or a write that reaches LPDDR-6 enters its channel's sort buffer. -/
def State.channelTake (s : State) (pa : Nat) (wr : Bool) : State :=
  if regionOf pa == .lpddr then
    match s.channels[channelOf pa]? with
    | some c => { s with channels := s.channels.setIfInBounds (channelOf pa) (c.take pa wr) }
    | none => s
  else s

/-- Dirty bytes from `pa` written back to the visible frame, `n` of them. -/
def State.writeBack (s : State) (pa : Nat) : Nat → State
  | 0 => s
  | n + 1 =>
    let s := match mapGet s.dirty pa with
      | some b => { (s.putBacking pa b) with dirty := mapErase s.dirty pa }
      | none => s
    s.writeBack (pa + 1) n

/-- Dirty bytes from `pa` dropped. -/
def State.dropDirty (s : State) (pa : Nat) : Nat → State
  | 0 => s
  | n + 1 => ({ s with dirty := mapErase s.dirty pa }).dropDirty (pa + 1) n

/-- A line written back is one request of its memory channel, where the visible frame of some dirty byte is memory (R114). -/
def State.writeRequest (s : State) (line : Nat) : State :=
  if (List.range 128).any fun i => (mapGet s.dirty (128 * line + i)).isSome &&
      (match s.tileOver (128 * line + i) with
       | some (_, t) => !t.gen
       | none => true) then
    s.channelTake (128 * line) true
  else s

/-- Write-back of the uncovered sectors of a line: dirty bytes of covered sectors belong to their tile (R105). -/
def State.lineWriteBack (s : State) (line : Nat) : State :=
  (List.range 8).foldl (fun s j =>
    let pa := line * 128 + 16 * j
    match s.tileOver pa with
    | some _ => s
    | none => s.writeBack pa 16) (s.writeRequest line)

/-- A tile none of whose die-cache entries is dirty. -/
def Tile.clean (t : Tile) : Tile := { t with tags := [] }

/-- The whole tile written back to its visible frame (R100). -/
def State.tileWriteBack (s : State) (pbase : Nat) (t : Tile) : State :=
  (t.sectors pbase).foldl (fun s pa => s.writeBack pa 16) ((t.lines pbase).foldl State.writeRequest s)

/-- Whether some sector of a line is covered by a declared tile. -/
def State.covered (s : State) (line : Nat) : Bool :=
  (List.range 8).any fun j => (s.tileOver (line * 128 + 16 * j)).isSome

/-- An entry whose line no die holds. -/
def LineEntry.freed (e : LineEntry) : LineEntry :=
  { e with
    state := 0, holder := 0, valid := 0, dirty := 0, tag := 0, away := 0, awayDie := 0, excl := Option.none, unsaved := 0 }

/-- Core caches keep only what their die cache holds (R87). -/
def State.uncache (s : State) (line : Nat) : State :=
  s.mapCores fun _ k => { k with ccache := k.ccache.filter (·.line != line) }

/-- A die gives up what it holds of a tile: no core cache keeps a copy (R87). -/
def State.tileLeaves (s : State) (pb : Nat) (t : Tile) : State := (t.lines pb).foldl State.uncache s

/-- The holder gives a line up: dirty data to memory, no holder, no copy in a core cache (R87, R90, R91). -/
def State.recall (s : State) (line : Nat) : State :=
  let e := s.lineAt line
  match e.held with
  | none => s
  | some _ =>
    let s := if e.state = 2 then s.lineWriteBack line else s
    (s.setLine line (s.lineAt line).freed).uncache line

/-! Die caches (R86, R87). -/

/-- The lines of which a die cache has an entry: lines that the die holds, and host lines of which it is the home (R66), parts
of tiles that its cores own, and its halo replicas; near memory that its own home holds takes none (R86). -/
def State.heldLines (s : State) (die : Nat) : List Nat :=
  ((s.hostLines.map fun q => q.1 / 2).eraseDups.filter fun l => homeOf (128 * l) == die) ++
    (s.lines.filter fun p =>
      p.2.held == some die && !(regionOf (128 * p.1) == .near && homeOf (128 * p.1) == die)).map (·.1)
def State.tileLines (s : State) (die : Nat) : List Nat :=
  (s.tiles.flatMap fun p => if p.2.tstate == .owned && sockOf p.2.owner == die then p.2.lines p.1 else []) ++
    (s.replicas.filter fun r => r.die == die).flatMap fun r => ((r.sectors.map fun q => q.1 / 8)).eraseDups

/-- Whether two lines share a set of a die cache (R87). -/
def State.sameDieSet (s : State) (a b : Nat) : Bool :=
  Config.dieIndex a % Config.dieSets s.sramShadow == Config.dieIndex b % Config.dieSets s.sramShadow

/-- A die cache has taken an entry for a line: where its set has too many, one is evicted next (R87, log 60). -/
def State.dieCrowd (s : State) (die line : Nat) : State :=
  let ls := s.heldLines die
  let ts := s.tileLines die
  let same := fun l => s.sameDieSet line l && l != line
  if Config.dieWays ≤ (ls ++ ts).length - 1 && Config.dieWays ≤ ((ls ++ ts).filter same).length then
    match ((ls.filter same).getLast?).or (ts.find? same) with
    | some v => s.later (.dieCacheEviction v 0)
    | none => s
  else s

/-- Whether a die cache holds a sector: of a line that the die holds, of a tile that one of its cores owns, or of a replica
(R87). -/
def State.dieHas (s : State) (die q : Nat) : Bool :=
  match s.tileOver (16 * q) with
  | some (pb, t) =>
    (t.tstate == .owned && sockOf t.owner == die) ||
      s.replicas.any fun r => r.pbase == pb && r.die == die && (mapGet r.sectors q).isSome
  | none => (s.lineAt (q / 8)).held == some die && (s.lineAt (q / 8)).valid.getLsbD (q % 8)

/-- The sectors of a line, among those of `n` bytes at `pa`, that a die cache holds. -/
def State.dieMask (s : State) (die line pa n : Nat) : BitVec 8 :=
  (List.range ((pa + n - 1) / 16 + 1 - pa / 16)).foldl (fun m i =>
    let q := pa / 16 + i
    if q / 8 == line && s.dieHas die q then m ||| BitVec.ofNat 8 (2 ^ (q % 8)) else m) 0

/-- The socket of an address of the system register range (R84). -/
def regSock (pa : Nat) : Nat := (pa % 0x100000000000 - 0xF0000000000) / 0x1000000

/-- Whether an address is reached only through dies of a mask: its home or its memory die is one, and no die outside the
mask holds the line (R56); a system register is reached through its socket. -/
def State.behind (s : State) (m : BitVec 24) (pa : Nat) : Bool :=
  let gone := if regionOf pa == .sysreg then m.getLsbD (regSock pa)
    else m.getLsbD (homeOf pa) || (regionOf pa == .lpddr && m.getLsbD (16 + channelOf pa / 16))
  gone && (match (s.lineAt (lineOf pa)).held with
    | some h => m.getLsbD h
    | none => true)

/-- Whether memory at an address is lost (R56). -/
def State.lostAt (s : State) (pa : Nat) : Bool := s.behind s.lostDies pa

/-- Whether an access gets no answer: it is held by the wait after a split (R56), or the dies behind it are fenced and their
homes have stopped (R55). -/
def State.heldBySplit (s : State) (pa : Nat) : Bool :=
  !s.lostAt pa &&
    (s.behind s.fenced pa ||
      (match s.splitWait with
       | some m => s.behind m.1 pa
       | none => false))

/-! Back-invalidation (R62, R65). -/

/-- Whether a port's decoder maps a half of device memory: it is committed, the half lies in its range, and in the port's
part of the interleave, which is its number modulo the ways (R59, log 43). -/
def State.portMaps (s : State) (p : Fin 4) (half : Nat) : Bool :=
  let c := s.cxl[p]
  let dpa := half * 64 % 0x100000000000
  c.committed && decide (c.dpaBase ≤ dpa ∧ dpa < c.dpaBase + c.size) && c.gran != 0 && c.ways != 0 &&
    (dpa - c.dpaBase) / c.gran % c.ways == p.val % c.ways

/-- The port that carries the back-invalidations of a half: the lowest-numbered one that is up and maps it (R59, R65, log
43). -/
def State.bisnpPort (s : State) (half : Nat) : Nat :=
  (((List.finRange 4).find? fun p => s.cxl[p].up && s.portMaps p half).map (·.val)).getD 0

/-- Who makes a request: a core, and the dispatch number of its thread or the number of its engine's operation. -/
abbrev Requester := CoreId × Nat

/-- A request that waits takes a holding entry of its class at its home, unless it has one already (R36). While all are in use
it waits without one, and runs again when one is free. -/
def State.holdEntry (s : State) (by' : Requester) (die : Nat) (c : HoldClass) (w : Wait) : State :=
  if s.holdings.contains ⟨die, c, w, by'.1, by'.2⟩ ∨
      Config.holdMax ≤ (s.holdings.filter fun h => h.home == die && h.cls == c).length then s
  else { s with holdings := s.holdings ++ [⟨die, c, w, by'.1, by'.2⟩] }

/-- Whether the forward egress of a home is stopped (R36). -/
def State.forwardStopped (s : State) (die : Nat) : Bool := ((s.links[die]?).map (·.stop[1])).getD false

/-- The home sends a BISnp for a half, unless one is outstanding; the request waits in a holding entry of its class while the
port's 64 are in use or the forward egress is stopped (R36, R65). -/
def State.sendBisnp (s : State) (by' : Requester) (half : Nat) (data : Bool) (cls : HoldClass := .line) : State :=
  if s.bisnps.any fun p => p.1 == half then s
  else
    let port := s.bisnpPort half
    if Config.bisnpMax ≤ (s.bisnps.filter fun p => p.2.1 == port).length || s.forwardStopped (homeOf (half * 64)) then
      s.holdEntry by' (homeOf (half * 64)) cls (.bisnp half)
    else ({ s with bisnps := s.bisnps ++ [(half, port, data)] }).out (.bisnp half data)

/-! Host lines (R66). -/

/-- Whether the device owns the host line of an address. -/
def State.ownsHost (s : State) (pa : Nat) : Bool := (mapGet s.hostLines (halfOf pa)).any fun v => decide (2 ≤ v.st)

/-- The address in host memory of an address of the host window (R66). -/
def hostAddr (pa : Nat) : Nat := pa % 2 ^ 44 - 0x80000000000

/-- A tag that no outstanding request of an agent holds (R31): the lowest one. An agent with a free response slot has one
below 1,024. -/
def State.freeTag (s : State) (core : CoreId) : Nat :=
  ((List.range (s.outstanding.length + 1)).find? fun t => !(s.outstanding.any fun o => o.core == core && o.tag == t)).getD 0

/-- The agent of a line's home (R31). -/
def homeAgent (pa : Nat) : CoreId := coreOf (homeOf pa) homeSite

/-- A home sends a line of the host, or gives one up: a request of the home's agent 36 (R31) on the line's port (R67). -/
def State.toHost (s : State) (pa : Nat) (kind : CxlReq) (data : Option (BitVec 512)) (bad : Bool := false) : State :=
  let p := (s.hostPort pa).getD 0
  let home := homeAgent pa
  let o : Outstanding :=
    { core := home, tag := s.freeTag home, tid := 0, pa := pa, n := 0, pkg := pkgOf pa, plane := none, write := none, fill := true
      engine := none, nearDone := true, devDone := true, port := some p, evict := true }
  ({ s with outstanding := s.outstanding ++ [o] }).out
    (match data with
     | some d => .cxlWrite kind p (hostAddr pa) 64 d bad
     | none => .cxlRead kind p (hostAddr pa) 0)

/-- Whether that port takes another request (R67). -/
def State.portRoom (s : State) (pa : Nat) : Bool :=
  match s.hostPort pa with
  | some p => decide ((s.outstanding.filter fun o => o.port == some p).length < Config.hostReqMax)
  | none => true

/-- A half of a host line leaves the die cache (R66): a dirty one with its data. It goes to the line's port (R67). -/
def State.evictHostHalf (s : State) (half : Nat) (bad : Bool := false) : State :=
  match mapGet s.hostLines half with
  | none => s
  | some h =>
    let pa := 64 * half
    let d : BitVec 512 := BitVec.ofNat 512 (memRead s.mem pa 64)
    let s := s.toHost pa (if 3 ≤ h.st then .dirtyEvict else .cleanEvict) (if 3 ≤ h.st then some d else none) bad
    { s with hostLines := mapErase s.hostLines half, mem := memWrite s.mem pa 64 0 }

/-- A dirty half of a host line that a context other than `ctx` has written is written back, and stays owned: the rule does not
say how (R88, log 81). -/
def State.cleanHalf (s : State) (half : Nat) (ctx : BitVec 16) : State :=
  match mapGet s.hostLines half with
  | none => s
  | some h =>
    if 3 ≤ h.st ∧ h.st ≠ 3 + ctx.toNat then
      let s := s.toHost (64 * half) .wrCur (some (BitVec.ofNat 512 (memRead s.mem (64 * half) 64)))
      { s with hostLines := mapSet s.hostLines half { h with st := 2 } }
    else s

/-- An owned half that a context dirties (R68); what another context has dirtied in the line is written back first, since one
entry of the die cache names one context (R87, R88). -/
def State.dirtyHalf (s : State) (half : Nat) (ctx : BitVec 16) : State :=
  let s := (s.cleanHalf (half / 2 * 2) ctx).cleanHalf (half / 2 * 2 + 1) ctx
  match mapGet s.hostLines half with
  | none => s
  | some h => { s with hostLines := mapSet s.hostLines half { h with st := 3 + ctx.toNat } }

/-- The owned halves that `n` bytes at `pa` write are dirty, with a dirty tag (R68, R88). -/
def State.dirtyHost (s : State) (pa n : Nat) (ctx : BitVec 16) : State :=
  if halfOf pa = halfOf (pa + n - 1) then s.dirtyHalf (halfOf pa) ctx
  else (s.dirtyHalf (halfOf pa) ctx).dirtyHalf (halfOf (pa + n - 1)) ctx

/-- Whether a write by a context has halves of its lines written back first that another context has dirtied (R88). -/
def State.mustClean (s : State) (pa n : Nat) (ctx : BitVec 16) : Bool :=
  [2 * lineOf pa, 2 * lineOf pa + 1, 2 * lineOf (pa + n - 1), 2 * lineOf (pa + n - 1) + 1].any fun h =>
    (mapGet s.hostLines h).any fun v => decide (3 ≤ v.st ∧ v.st ≠ 3 + ctx.toNat)

/-! Translation kills (R107). -/

/-- A write to a watched line sends a kill to every die in WSET; each acknowledgement counts for the storing thread. -/
def State.sendKills (s : State) (line : Nat) (core : CoreId) (tid : Nat) : State :=
  let e := s.lineAt line
  if e.wat then
    let s := s.setLine line { e with fresh := 0 }
    (List.range 18).foldl (fun s i =>
      if e.wset.getLsbD i then
        let die := if i < 16 then i else i + 4
        let s := { s with kills := s.kills ++ [⟨line, die, false, core, tid⟩] }
        if h : die < 24 then s.later (.translationKill ⟨die, h⟩ line) else s
      else s) s
  else s

/-- Every TLB entry and extent of a core that is derived from a line is dropped (R107, R122). -/
def Core.dropDerived (line : Nat) (k : Core) : Core :=
  { k with
    tlb := k.tlb.filter fun e => !e.lines.contains line
    slots := k.slots.map fun t => { t with extents := t.extents.filter fun x => !x.lines.contains line } }

/-- A kill reaches a die (R107): each core in the die's map drops what it derived from the line. -/
def State.killReaches (s : State) (die line : Nat) : State :=
  let cores := ((s.coreMaps.find? fun p => p.1 == die && p.2.1 == line).map (·.2.2)).getD []
  let s := s.mapCores fun c k => if cores.contains c then k.dropDerived line else k
  { s with
    coreMaps := s.coreMaps.filter fun p => !(p.1 == die && p.2.1 == line)
    kills := s.kills.map fun k => if k.die == die && k.line == line then { k with reached := true } else k }

/-- A die's acknowledgement arrives at the home: with the last one the line is no longer watched, but by the dies that came
after its kills (R107). -/
def State.killAcked (s : State) (die line : Nat) : State :=
  let had := s.kills.any fun k => k.die == die && k.line == line
  let s := { s with kills := s.kills.filter fun k => !(k.die == die && k.line == line) }
  if had && !(s.kills.any fun k => k.line == line) then
    let e := s.lineAt line
    s.setLine line { e with wat := e.fresh != 0, wset := e.fresh, fresh := 0 }
  else s

/-- Every kill that a thread's stores sent is delivered and acknowledged (R125: the wait of a device-level release). -/
def State.finishKills (s : State) (core : CoreId) (tid : Nat) : State :=
  (s.kills.filter fun k => k.core == core && k.tid == tid).foldl
    (fun s k => (s.killReaches k.die k.line).killAcked k.die k.line) s

/-- A die becomes a watcher of a line, for cores of it that derive translations from it; the read is one request of the die
(R91, R107). -/
def State.watchFor (s : State) (line die : Nat) (cores : List CoreId) : State :=
  let bit := if die < 16 then die else die - 4
  let e := (s.lineAt line).asked die
  let new : BitVec 18 := BitVec.ofNat 18 (2 ^ bit)
  let late := s.kills.any fun k => k.line == line
  let s := s.setLine line { e with
    wat := true
    wset := e.wset ||| new
    fresh := if late then e.fresh ||| new else e.fresh }
  let old := ((s.coreMaps.find? fun p => p.1 == die && p.2.1 == line).map (·.2.2)).getD []
  let rest := s.coreMaps.filter fun p => !(p.1 == die && p.2.1 == line)
  { s with coreMaps := rest ++ [(die, line, old ++ cores.filter (!old.contains ·))] }

/-- A die becomes a watcher of a line, for a core. -/
def State.watchLine (s : State) (line : Nat) (core : CoreId) : State := s.watchFor line (sockOf core) [core]

/-! Core caches (R211): four ways of 128 sets, least recently used first. -/

/-- The line that leaves a full set when another comes: the least recently used. -/
def Core.crowded (line : Nat) (k : Core) : Option CoreLine :=
  let same := k.ccache.filter fun l => l.line != line && l.line % Config.coreSets == line % Config.coreSets
  if same.length < Config.coreWays then none else same.head?

/-- A core's cache takes sectors of a line. -/
def Core.touch (line : Nat) (m : BitVec 8) (k : Core) : Core :=
  let old := ((k.ccache.find? (·.line == line)).map (·.valid)).getD 0
  let rest := k.ccache.filter (·.line != line)
  let rest := match k.crowded line with
    | some v => rest.erase v
    | none => rest
  { k with ccache := rest ++ [⟨line, old ||| m⟩] }

/-- A core has a line no longer exclusively: what it has stored in it is written back to the die cache (R87, R211). -/
def State.endExcl (s : State) (core : CoreId) (line : Nat) : State :=
  let e := s.lineAt line
  if e.excl = some core then s.setLine line { e with excl := none, unsaved := 0 } else s

/-- The core cache of a core takes sectors of a line, which its die cache holds; an exclusive line that leaves for it is written
back (R211). -/
def State.touch (s : State) (core : CoreId) (line : Nat) (m : BitVec 8) : State :=
  (match (s.getCore core).crowded line with
    | some v => s.endExcl core v.line
    | none => s).onCore core (Core.touch line m)

/-- Sectors of a line are stored in the core cache that has it exclusively (R211). -/
def State.keepStored (s : State) (core : CoreId) (line : Nat) (m : BitVec 8) : State :=
  let e := s.lineAt line
  if e.excl = some core then s.setLine line { e with unsaved := e.unsaved ||| m } else s

/-- Lines leave a core's cache (R87, R167). -/
def State.leaveCore (s : State) (core : CoreId) (ls : List Nat) : State :=
  ls.foldl (fun s l =>
    (s.endExcl core l).onCore core fun k => { k with ccache := k.ccache.filter (·.line != l) }) s

/-- A write invalidates the line in every other core cache (R87). -/
def State.invalidateOthers (s : State) (line : Nat) (core : CoreId) : State :=
  s.mapCores fun c k => if c = core then k else { k with ccache := k.ccache.filter (·.line != line) }

/-! Serialisation of a write. -/

/-- Who writes: a core, a thread's dispatch number for kill counts, the context of the dirty tag, whether the access may hold lines and claim
tiles (a core-die thread through the line path with MT = 0). -/
structure Source where
  core : CoreId
  tid : Nat
  ctx : BitVec 16
  mayHold : Bool
  deriving DecidableEq, Repr

/-- What became of a write or read at its serialisation point. -/
inductive Served (α : Type) where
  | done (v : α)
  | wait (w : Wait)
  | fail (cause : Byte)
  deriving DecidableEq, Repr

/-- The first half of `n` bytes at `pa` that the host may hold. -/
def State.hostHalf (s : State) (pa n : Nat) (onlyA : Bool) : Option Nat :=
  [halfOf pa, halfOf (pa + n - 1)].find? fun h => if onlyA then s.hostState h == 2 else s.hostState h != 0

/-- The sectors that `n` bytes at `pa` touch. -/
def sectorsOf (pa n : Nat) : List Nat :=
  (List.range ((pa + n - 1) / 16 + 1 - pa / 16)).map fun i => pa / 16 + i

/-- The half of a line for which a BISnp is outstanding: the line's transaction is not over (R90, R110). -/
def State.busyHalf (s : State) (line : Nat) : Option Nat := (s.bisnps.find? fun p => p.1 / 2 == line).map (·.1)

/-- The key of the poison mark of a sector of shadow storage, by the place of its first byte (R112). -/
def shadowMark (b : Nat) : Nat := 2 ^ 52 + b / 16

/-- The poison mark of a sector: that of the frame that is visible (R103, R112). -/
def State.markOf (s : State) (q : Nat) : Nat :=
  match s.tileOver (16 * q) with
  | some (pb, t) => if t.gen then shadowMark (t.frameByte pb (16 * q)) else q
  | none => q

/-- The sectors that `n` bytes at `pa` write whole. -/
def wholeSectors (pa n : Nat) : List Nat := (sectorsOf pa n).filter fun q => decide (pa ≤ 16 * q ∧ 16 * q + 16 ≤ pa + n)

/-- A poisoned sector that `n` bytes at `pa` write only in part (R112). -/
def State.partPoisoned (s : State) (pa n : Nat) : Bool :=
  (sectorsOf pa n).any fun q => s.psect.contains (s.markOf q) && !(decide (pa ≤ 16 * q ∧ 16 * q + 16 ≤ pa + n))

/-- The marks of the sectors that `n` bytes at `pa` write whole are cleared (R112). -/
def State.clearMarks (s : State) (pa n : Nat) : State :=
  let ms := (wholeSectors pa n).map s.markOf
  { s with psect := s.psect.filter fun m => !ms.contains m }

/-- The replica of a halo sector on the die of a core that is a neighbour (R102). -/
def State.replicaSector (s : State) (core : CoreId) (pa : Nat) : Option (BitVec 128) :=
  match s.tileOver pa with
  | none => none
  | some (pb, t) =>
    if t.neighbours.contains core then
      (s.replicas.find? fun r => r.pbase == pb && r.die == sockOf core && !r.pushed).bind
        fun r => mapGet r.sectors (pa / 16)
    else none

/-- A neighbour's store drops its replica of the sector first (R102). -/
def State.dropReplica (s : State) (core : CoreId) (pa : Nat) : State :=
  match s.tileOver pa with
  | none => s
  | some (pb, t) =>
    if t.neighbours.contains core then
      { s with replicas := s.replicas.map fun r =>
          if r.pbase == pb && r.die == sockOf core then { r with sectors := mapErase r.sectors (pa / 16) } else r }
    else s

/-- The covered sectors of a line that belong to a tile, by address. -/
def Tile.sectorsIn (t : Tile) (pb line : Nat) : List Nat :=
  ((List.range 8).map fun j => 128 * line + 16 * j).filter fun pa => t.covers pb pa

/-- A byte stored into an owned tile (R100): its die-cache entry is tagged with the writer's context, and what another
context has dirtied in it is written back first (R88). -/
def State.tileDirty (s : State) (src : Source) (pb : Nat) (t : Tile) (pa : Nat) (b : Byte) : State :=
  let line := lineOf pa
  let s := s.dropReplica src.core pa
  let s := match mapGet t.tags line with
    | some c => if c = src.ctx then s else (t.sectorsIn pb line).foldl (fun s q => s.writeBack q 16) (s.writeRequest line)
    | none => s
  { s with
    tiles := mapSet s.tiles pb { t with tags := mapSet t.tags line src.ctx }
    dirty := mapSet s.dirty pa b }

/-- A tile has come to a core's die (R100): its lines are entries of that die's cache (R87), and a replica on the die is
dropped, since a neighbour on the owner's die reads the tile itself (R102). -/
def State.tileArrives (s : State) (pb : Nat) (t : Tile) (c : CoreId) : State :=
  let s := { s with replicas := s.replicas.filterMap fun (r : Replica) =>
    if r.pbase == pb && r.die == sockOf c then (if r.pushed then some { r with sectors := [] } else none) else some r }
  (t.lines pb).foldl (fun s l => s.dieCrowd (sockOf c) l) s

/-- The whole tile is read from the visible frame (R100), by its memory channels where that frame is memory (R114). -/
def State.tileFill (s : State) (pb : Nat) (t : Tile) : State :=
  if t.gen then s else (t.lines pb).foldl (fun s l => s.channelTake (128 * l) false) s

/-- A claim (R100): the whole tile is filled into the core's die cache from the visible frame, and the core owns it. -/
def State.claim (s : State) (src : Source) (pb : Nat) (t : Tile) : State :=
  { (s.tileFill pb t) with tiles := mapSet s.tiles pb { t with tstate := .owned, owner := src.core, tags := [] } }

/-- A store into a covered sector, by tile state (R100). -/
def State.tileStore (s : State) (src : Source) (pb : Nat) (t : Tile) (pa : Nat) (b : Byte) : State :=
  match t.tstate with
  | .owned => s.tileDirty src pb t pa b
  | .home =>
    if src.mayHold && src.ctx == t.ctx then
      ((s.claim src pb t).tileDirty src pb { t with tstate := .owned, owner := src.core, tags := [] } pa b).tileArrives pb t src.core
    else (s.dropReplica src.core pa).putBacking pa b
  | .inForward | .shadowed | .lost => (s.dropReplica src.core pa).putBacking pa b

/-- The line's holder for a store (R90): the holder, or the storing die when there is none and it may hold. -/
def State.lineForStore (s : State) (src : Source) (line : Nat) : State :=
  let e := s.lineAt line
  match e.held with
  | some h =>
    let s := if e.state = 2 && e.tag != src.ctx then s.lineWriteBack line else s
    s.setLine line { e.asked (sockOf src.core) with
      state := 2
      tag := src.ctx
      dirty := if e.state = 2 && e.tag != src.ctx then 0 else e.dirty
      excl := if src.mayHold && h == sockOf src.core then some src.core else none
      unsaved := if src.mayHold && h == sockOf src.core && e.excl == some src.core then e.unsaved else 0 }
  | none =>
    if src.mayHold && e.hlo != 2 && e.hhi != 2 then
      (((s.channelTake (128 * line) false).setLine line { e with
        state := 2
        holder := BitVec.ofNat 4 (sockOf src.core)
        valid := s.openMask line
        dirty := 0
        tag := src.ctx
        away := 0
        awayDie := 0
        excl := some src.core
        unsaved := 0 })).dieCrowd (sockOf src.core) line
    else s.channelTake (128 * line) true

/-- A store into an uncovered sector: in the holder's die cache, or in memory when no die holds the line or the holder is
the home of near memory (R86, R90). -/
def State.lineStore (s : State) (pa : Nat) (b : Byte) : State :=
  let line := lineOf pa
  let e := s.lineAt line
  match e.held with
  | some h =>
    if regionOf pa == .near && h == homeOf pa then { s with mem := memPut s.mem pa b, dirty := mapErase s.dirty pa }
    else
      let s := s.setLine line { e with dirty := e.dirty ||| BitVec.ofNat 8 (2 ^ (pa / 16 % 8)) }
      { s with dirty := mapSet s.dirty pa b }
  | none => { s with mem := memPut s.mem pa b }

/-- The lines of the sectors among `n` bytes at `pa` whose data stands in the tile's own memory: covered sectors of a tile that
no core owns, with GEN = 0 (R103). -/
def State.frameLines (s : State) (pa n : Nat) : List Nat :=
  (((sectorsOf pa n).filter fun q => match s.tileOver (16 * q) with
    | some (_, t) => t.tstate != .owned && !t.gen
    | none => false).map (· / 8)).eraseDups

/-- Accesses to such lines enter the channel's sort buffer (R114). -/
def State.frameTake (s : State) (pa n : Nat) (wr : Bool) : State :=
  (s.frameLines pa n).foldl (fun s l => s.channelTake (128 * l) wr) s

/-- One byte stored where R90 and R100 send it. -/
def State.storeByte (s : State) (src : Source) (pa : Nat) (b : Byte) : State :=
  match s.tileOver pa with
  | some (pb, t) => s.tileStore src pb t pa b
  | none => s.lineStore pa b

/-- The low `n` bytes of `v` stored from `pa`. -/
def State.storeBytes (s : State) (src : Source) (pa : Nat) : Nat → Nat → State
  | 0, _ => s
  | n + 1, v => (s.storeByte src pa (BitVec.ofNat 8 v)).storeBytes src (pa + 1) n (v / 256)

/-- Whether a line lies in the context table (R117). -/
def State.inCtxTable (s : State) (line : Nat) : Bool :=
  s.ctxtEn && decide (s.ctxtBase ≤ 128 * line ∧ 128 * line < s.ctxtBase + 0x400000)

/-- Entries, new STATs and notices that wait for a fault queue are tried again (R132, R133). -/
def State.retryQueues (s : State) : State :=
  let s := (s.fqWait.map (·.entry.ctx) ++ s.statWait.map (·.ctx)).eraseDups.foldl (fun s c => s.later (.faultQueueSpace c)) s
  s.notices.foldl (fun s p =>
    (p.2.entries.map (·.ctx)).eraseDups.foldl (fun s c => s.later (.noticeStoreDrain (Fin.ofNat 24 p.1) c)) s) s

/-- What every write to a line does besides: kills, watch triggers, core-cache invalidation; and a write to the context
table may make room in a fault queue (R132). -/
def State.lineWritten (s : State) (src : Source) (line : Nat) : State :=
  let s := ((s.sendKills line src.core src.tid).trigger line).invalidateOthers line src.core
  if s.inCtxTable line then s.retryQueues else s

/-- The lines that `n` bytes at `pa` touch. -/
def linesOf (pa n : Nat) : List Nat :=
  if lineOf pa = lineOf (pa + n - 1) then [lineOf pa] else [lineOf pa, lineOf (pa + n - 1)]

/-- The tile whose forward holds requests for `n` bytes at `pa` (R100). -/
def State.forwarding (s : State) (pa n : Nat) : Option Nat :=
  ((sectorsOf pa n).filterMap fun q => s.tileOver (16 * q)).findSome? fun p =>
    if p.2.tstate == .inForward then some p.1 else none

/-- The dirty tags of a line's copy, for the recovery of its entry (R110). -/
def State.lineTags (s : State) (line : Nat) : List (BitVec 16) :=
  if (List.range 128).any fun i => (mapGet s.dirty (128 * line + i)).isSome && (s.tileOver (128 * line + i)).isNone then
    [(s.lineAt line).tag]
  else []

/-- Whether an event is the recovery of a line's entry. -/
def isRecovery (line : Nat) : Instr → Bool
  | .lineEntryUncorrectable l _ => l == line
  | _ => false

/-- The recovery of a broken entry is due, unless it is going on (R92, R110). -/
def State.recover (s : State) (line : Nat) : State :=
  if s.agenda.any (isRecovery line) || s.hostHeld.any (isRecovery line) then s
  else s.later (.lineEntryUncorrectable line (s.lineTags line))

/-- What holds a request for `n` bytes at `pa` up at its home, in this order: the wait after a split (R56), an entry with a
value that is never stored (R92, R110), the line's running transaction (R90), a half that the host must give up first
(R62), and a forward of a tile (R100). -/
def State.blocked (s : State) (by' : Requester) (pa n : Nat) (onlyA : Bool) (cls : HoldClass := .line) : Option Wait × State :=
  if s.heldBySplit pa || s.heldBySplit (pa + n - 1) then (some .split, s)
  else
    match (linesOf pa n).find? fun l => (s.lineAt l).broken with
    | some l => (some (.bisnp (2 * l)), s.recover l)
    | none =>
      match (linesOf pa n).findSome? s.busyHalf with
      | some h => (some (.bisnp h), s)
      | none =>
        match s.hostHalf pa n onlyA with
        | some h => (some (.bisnp h), s.sendBisnp by' h onlyA cls)
        | none =>
          match s.forwarding pa n with
          | some pb => (some (.tile pb), s.holdEntry by' (homeOf pb) .tile (.tile pb))
          | none => (none, s)

/-- One write to device memory is serialised (R90, R100, R105, R150): performed, held up, or failed. -/
def State.serialise (s : State) (src : Source) (pa n v : Nat) : Served Unit × State :=
  if s.lostAt pa || s.lostAt (pa + n - 1) then (.fail 0x13, s)
  else
    match s.blocked (src.core, src.tid) pa n false with
    | (some w, s) => (.wait w, s)
    | (none, s) =>
      if s.partPoisoned pa n then (.fail 0x0D, s)
      else
        let ls := linesOf pa n
        let s := ls.foldl (fun s l => if s.touchesOpen l pa n then s.lineForStore src l else s) (s.frameTake pa n true)
        let s := (s.storeBytes src pa n v).clearMarks pa n
        let s := ls.foldl (fun s l => s.lineWritten src l) s
        (.done (), if src.mayHold then
          ls.foldl (fun s l =>
            let m := s.dieMask (sockOf src.core) l pa n
            if m = 0 then s else (s.touch src.core l m).keepStored src.core l m) s
        else s)

/-- DISC is serialised at the line's home (R105, R109): the uncovered sectors take the memory value, the line has no
holder. -/
def State.discard (s : State) (src : Source) (line : Nat) : Served Unit × State :=
  let pa := 128 * line
  if s.lostAt pa then (.fail 0x13, s)
  else
    match s.blocked (src.core, src.tid) pa 128 false with
    | (some w, s) => (.wait w, s)
    | (none, s) =>
      let free := (List.range 8).filter fun j => (s.tileOver (pa + 16 * j)).isNone
      let s := free.foldl (fun s j => s.dropDirty (pa + 16 * j) 16) s
      let s := (s.setLine line (s.lineAt line).freed).uncache line
      (.done (), s.lineWritten src line)

/-! Serialisation of a read. -/

/-- What a read does to the line's entry (R90): a core die becomes the holder of a line that none holds, unless
the host owns a half of it (R61). -/
def State.lineForRead (s : State) (core : CoreId) (line : Nat) (mayHold : Bool) : State :=
  let e := s.lineAt line
  match e.held with
  | some h =>
    s.setLine line { e.asked (sockOf core) with
      excl := if h = sockOf core ∧ e.excl ≠ some core then none else e.excl
      unsaved := if h = sockOf core ∧ e.excl ≠ some core then 0 else e.unsaved }
  | none =>
    if mayHold && e.hlo != 2 && e.hhi != 2 then
      ((s.channelTake (128 * line) false).setLine line { e with
        state := 1
        holder := BitVec.ofNat 4 (sockOf core)
        valid := s.openMask line
        dirty := 0
        tag := 0
        away := 0
        awayDie := 0
        excl := none
        unsaved := 0 }).dieCrowd (sockOf core) line
    else s.channelTake (128 * line) false

/-- The byte a core's read returns: its halo replica's, or the current one (R102, R150). -/
def State.byteFor (s : State) (core : CoreId) (pa : Nat) : Byte :=
  match s.replicaSector core pa with
  | some q => BitVec.ofNat 8 (q.toNat / 256 ^ (pa % 16))
  | none => s.physByte pa

/-- Whether some byte of a read lies in a sector marked poisoned (R112). -/
def State.poisonedIn (s : State) (pa n : Nat) : Bool := (sectorsOf pa n).any fun q => s.psect.contains (s.markOf q)

/-- One read of device memory is served (R90, R100, R112). -/
def State.serveRead (s : State) (core : CoreId) (pa n : Nat) (mayHold : Bool) (tid : Nat := 0) : Served Nat × State :=
  if s.lostAt pa || s.lostAt (pa + n - 1) then (.fail 0x13, s)
  else
    match s.blocked (core, tid) pa n true with
    | (some w, s) => (.wait w, s)
    | (none, s) =>
      if s.poisonedIn pa n then (.fail 0x0D, s)
      else
        let v := leRead (s.byteFor core) pa n
        let ls := linesOf pa n
        let s := ls.foldl (fun s l => if s.touchesOpen l pa n then s.lineForRead core l mayHold else s) (s.frameTake pa n false)
        (.done v, if mayHold then
          ls.foldl (fun s l =>
            let m := s.dieMask (sockOf core) l pa n
            if m = 0 then s else s.touch core l m) s
        else s)

end Sys2Proof.Machine
end

