-- ==== Sys2Proof/Machine/Flits.lean ====
section
/-! DEFINITION. Flits and messages: the check and the message slots of an in-package flit (R31), sending on a link with replay
and stop bits (R32, R35), the flit of a scale-up port and its sending (R40, R46, R48), the live planes and the flows of the
gateway (R41, R42). -/

namespace Sys2Proof.Machine

/-! CRC-64/ECMA-182 (R31; log 15). -/

/-- One bit of the division. -/
def crc64Bits : Nat → BitVec 64 → BitVec 64
  | 0, c => c
  | n + 1, c => crc64Bits n (if c.getLsbD 63 then (c <<< 1) ^^^ 0x42F0E1EBA9EA3693#64 else c <<< 1)

/-- The CRC of bytes in order, most significant bit first. -/
def crc64 (bs : List Byte) : BitVec 64 := bs.foldl (fun c b => crc64Bits 8 (c ^^^ BitVec.ofNat 64 (b.toNat * 2 ^ 56))) 0

/-- The bytes of a flit. -/
def flitBytes (f : BitVec 2048) : List Byte := toBytes 256 f.toNat

/-- A field of a flit's first doubleword. -/
def flitField (f : BitVec 2048) (hi lo : Nat) : Nat := bits (f.setWidth 64) hi lo

/-- Whether a flit passes its check: its CRC, and a network number that is sent (R31). -/
def flitGood (f : BitVec 2048) : Bool :=
  crc64 ((flitBytes f).take 248) == BitVec.ofNat 64 (f.toNat / 2 ^ 1984) && decide (flitField f 2 0 ≤ 4)

/-- A sequence number lies after another in the window of a replay buffer. -/
def seqAfter {n : Nat} (a b : BitVec n) : Bool := a != b && decide ((a - b).toNat < 2 ^ (n - 1))

/-- Replay entries that an acknowledgement leaves. -/
def unacked {n m : Nat} (ack : BitVec n) (r : List (BitVec n × BitVec m)) : List (BitVec n × BitVec m) :=
  r.filter fun p => seqAfter p.1 ack

/-! Messages (R31). The rule names the fields of a header slot and gives their widths; their places, and the codes of the
kinds, are the model's choice (log 61). -/

/-- The kinds of message between packages: a read, a courier message, a part of a travel packet, a write of an engine; data, an
acknowledgement, an error response, a remote-fault record, a travel packet that comes back, and a collective chunk. -/
inductive MsgKind where
  | read | courier | travel | data | ack | error | record | back | write | chunk
  deriving DecidableEq, Repr

/-- The code of a kind. -/
def MsgKind.code : MsgKind → Nat
  | .read => 0 | .courier => 1 | .travel => 2 | .data => 3 | .ack => 4 | .error => 5 | .record => 6 | .back => 7 | .write => 8 | .chunk => 9

/-- The kind of a code. -/
def MsgKind.ofCode (n : Nat) : MsgKind :=
  ([MsgKind.read, .courier, .travel, .data, .ack, .error, .record, .back, .write, .chunk][n]?).getD .read

/-- A header slot: destination and source socket, source agent, tag, part number, kind, the byte count (a cause in an error
response), and the physical address (an index in a record). -/
structure MsgHead where
  dst : Nat
  src : Nat
  agent : Nat
  tag : Nat
  part : Nat
  kind : MsgKind
  n : Nat
  addr : Nat
  deriving DecidableEq, Repr

/-- A header as its slot. -/
def MsgHead.slot (h : MsgHead) : BitVec 128 :=
  BitVec.ofNat 128 (h.dst % 32 + 2 ^ 5 * (h.src % 32) + 2 ^ 10 * (h.agent % 64) + 2 ^ 16 * (h.tag % 1024) + 2 ^ 26 * (h.part % 4)
    + 2 ^ 28 * h.kind.code + 2 ^ 32 * (h.n % 4096) + 2 ^ 64 * (h.addr % 2 ^ 64))

/-- The field of a slot. -/
def slotField (v : BitVec 128) (lo w : Nat) : Nat := v.toNat / 2 ^ lo % 2 ^ w

/-- The header that a slot holds. -/
def headOf (v : BitVec 128) : MsgHead where
  dst := slotField v 0 5
  src := slotField v 5 5
  agent := slotField v 10 6
  tag := slotField v 16 10
  part := slotField v 26 2
  kind := MsgKind.ofCode (slotField v 28 4)
  n := slotField v 32 12
  addr := slotField v 64 64

/-- The data slots that `n` bytes take: eight for a line, one for each sector (R31). -/
def dataSlots (v : Nat) (n : Nat) : List (BitVec 128) :=
  (List.range ((n + 15) / 16)).map fun i => BitVec.ofNat 128 (v / 2 ^ (128 * i))

/-- The value that data slots carry. -/
def slotsValue (l : List (BitVec 128)) : Nat := l.foldr (fun q r => q.toNat + 2 ^ 128 * r) 0

/-- The source agent of a core: its site (R31). -/
def agentOf (c : CoreId) : Nat := siteOf c

/-- The four parts of a travel packet (R31): 13, 13, 13 and 9 data slots, each part with a header of its own. -/
def travelParts (h : MsgHead) (packet : BitVec 6144) : List (List (BitVec 128)) :=
  let ss := dataSlots packet.toNat 768
  (List.range 4).map fun i => { h with part := i : MsgHead }.slot :: (ss.drop (13 * i)).take 13

/-- The slots of a courier message's 64 bytes (R395). -/
def courierSlots (c : Courier) : List (BitVec 128) :=
  let h := c.spkg.toNat + 2 ^ 8 * c.ssock.toNat + 2 ^ 13 * c.score.toNat + 2 ^ 19 * c.slot.toNat + 2 ^ 22 * c.ctx.toNat
    + 2 ^ 38 * c.ni.toNat + 2 ^ 40 * c.ret.toNat + 2 ^ 41 * c.rsel.toNat + 2 ^ 44 * c.auto.toNat
  [BitVec.ofNat 128 (h + 2 ^ 64 * (c.page % 2 ^ 52)), c.words, BitVec.ofNat 128 (c.m4.toNat + 2 ^ 64 * c.m5.toNat),
    BitVec.ofNat 128 (c.m6.toNat + 2 ^ 64 * c.m7.toNat)]

/-- The courier message in four slots (R395). -/
def courierIn (l : List (BitVec 128)) : Courier :=
  let v := slotsValue l
  let f := fun lo w => v / 2 ^ lo % 2 ^ w
  { spkg := BitVec.ofNat 8 v
    ssock := BitVec.ofNat 5 (f 8 5)
    score := BitVec.ofNat 6 (f 13 6)
    slot := BitVec.ofNat 3 (f 19 3)
    ctx := BitVec.ofNat 16 (f 22 16)
    ni := BitVec.ofNat 2 (f 38 2)
    ret := f 40 1 == 1
    rsel := BitVec.ofNat 3 (f 41 3)
    auto := f 44 1 == 1
    page := f 80 36 * 65536
    words := BitVec.ofNat 128 (f 128 128)
    m4 := w64 (f 256 64)
    m5 := w64 (f 320 64)
    m6 := w64 (f 384 64)
    m7 := w64 (f 448 64) }

/-! In-package links (R31, R32, R35). -/

/-- A link changed. -/
def State.onLink (s : State) (k : Fin 24) (f : Link → Link) : State := { s with links := s.links.set k (f s.links[k]) }

/-- STOP bits that a receiver sends from its skid buffers of 256 entries (R35): set at 128 free entries, cleared at 192. -/
def Link.decideStop (l : Link) : Link :=
  { l with mine := Vector.ofFn fun i =>
      if l.skid[i] ≥ 128 then true else if l.skid[i] ≤ 64 then false else l.mine[i] }

/-- STOP bits as a number. -/
def stopBits (stop : Vector Bool 4) : Nat := (stop.toList.mapIdx fun i b => 2 ^ i * b.toNat).sum

/-- An in-package flit (R31) complete with its CRC: network, slots, SEQ, ACK, NAK and STOP. -/
def inFlit (vn : Nat) (slots : List (BitVec 128)) (seq ack : BitVec 10) (nak : Bool) (stop : Vector Bool 4) : BitVec 2048 :=
  let head := vn + 2 ^ 3 * slots.length + 2 ^ 8 * seq.toNat + 2 ^ 18 * ack.toNat + 2 ^ 28 + 2 ^ 29 * nak.toNat
    + 2 ^ 30 * stopBits stop
  let body := head + 2 ^ 64 * slotsValue slots
  BitVec.ofNat 2048 (body + 2 ^ 1984 * (crc64 (toBytes 248 body)).toNat)

/-- A link-control flit (R31). -/
def ctlFlit (seq ack : BitVec 10) (nak : Bool) (stop : Vector Bool 4) : BitVec 2048 := inFlit 4 [] seq ack nak stop

/-- The slots of an in-package flit. -/
def flitSlots (f : BitVec 2048) : List (BitVec 128) :=
  (List.range (flitField f 6 3)).map fun i => BitVec.ofNat 128 (f.toNat / 2 ^ (64 + 128 * i))

/-- One waiting message leaves, when its network is not stopped and the replay buffer has room (R32, R35); the last place of
the buffer is kept for a NAK. The counters are 0 after reset and training, so that the first SEQ sent and expected is 1, which
no rule gives (log 44). -/
def State.linkOne (s : State) (k : Fin 24) (m : Nat × List (BitVec 128) × Option Instr) : State :=
  let l := s.links[k]
  if (l.stop[m.1]?).getD false ∨ Config.replayInPackage ≤ l.replay.length + 1 then
    s.onLink k fun l => { l with queue := l.queue ++ [m] }
  else
    let seq := l.txSeq + 1
    let f := inFlit m.1 m.2.1 seq l.rxSeq false l.mine
    let s := (s.onLink k fun l => { l with txSeq := seq, replay := l.replay ++ [(seq, f)] }).out (.flit k seq)
    match m.2.2 with
    | some i => s.later i
    | none => s

/-- Waiting messages leave in order; one network that is stopped does not hold another (R33, R35). -/
def State.linkPump (s : State) (k : Fin 24) : State :=
  s.links[k].queue.foldl (fun s m => s.linkOne k m) (s.onLink k fun l => { l with queue := [] })

/-- A message enters a socket's port, behind those of its network that wait there (R33, R34). -/
def State.linkSend (s : State) (k : Fin 24) (vn : Nat) (slots : List (BitVec 128)) (then' : Option Instr) : State :=
  if s.links[k].queue.any fun m => m.1 == vn then s.onLink k fun l => { l with queue := l.queue ++ [(vn, slots, then')] }
  else s.linkOne k (vn, slots, then')

/-- The port answers with a link-control flit that carries ACK, NAK and STOP (R31, R32). A replay buffer without room takes
no acknowledgement, which later flits carry; its last place takes a NAK, and a NAK that is in it already is sent again. -/
def State.linkAnswer (s : State) (k : Fin 24) (nak : Bool) : State :=
  let l := s.links[k]
  if Config.replayInPackage ≤ l.replay.length then
    if nak then s.out (.flitAck k l.rxSeq nak) else s
  else if !nak ∧ Config.replayInPackage ≤ l.replay.length + 1 then s
  else
    let seq := l.txSeq + 1
    let f := ctlFlit seq l.rxSeq nak l.mine
    (s.onLink k fun l => { l with txSeq := seq, replay := l.replay ++ [(seq, f)] }).out (.flitAck k l.rxSeq nak)

/-- Every flit after the one that a NAK names is sent again, in order (R32). -/
def State.linkReplay (s : State) (k : Fin 24) (ack : BitVec 10) : State :=
  let s := s.onLink k fun l => { l with ack := ack, replay := unacked ack l.replay }
  s.links[k].replay.foldl (fun s p => s.out (.flit k p.1)) s

/-! Scale-up ports (R40, R44 to R48). -/

/-- A port changed. -/
def State.onPort (s : State) (p : Fin 36) (f : Fport → Fport) : State := { s with fports := s.fports.set p (f s.fports[p]) }

/-- The socket of a port. -/
def portSock (p : Fin 36) : Fin 24 := if p.val < 18 then 22 else 23

/-- The clear header of a scale-up flit (R40). -/
def upHead (seq ack : BitVec 12) (nak : Bool) (type : Nat) (stop : Vector Bool 4) : Nat :=
  seq.toNat + 2 ^ 12 * ack.toNat + 2 ^ 24 + 2 ^ 25 * nak.toNat + 2 ^ 26 * type + 2 ^ 29 * stopBits stop

/-- The payload of a data flit (R40): both packages, the network, and up to 14 slots. -/
def upPayload (dpkg spkg vn : Nat) (slots : List (BitVec 128)) : Nat :=
  dpkg + 2 ^ 8 * spkg + 2 ^ 16 * vn + 2 ^ 64 * slotsValue slots

/-- Whether a port can send flits: it is up, its counter is not used up, its replay buffer has room besides the last place,
which is kept for a NAK, and the flit's network is not stopped (R35, R46, R48). -/
def Fport.ready (f : Fport) (vn : Nat) (flits : Nat := 1) : Bool :=
  f.state == 3 && decide (f.replay.length + flits < Config.replayScaleUp) && f.txctr != 0xFFFFFFFF && !((f.stop[vn]?).getD false)

/-- The network number of flits that belong to none. -/
def noVn : Nat := 7

/-- A flit is sent on a port (R46, R48): encrypted under the active slot with the next counter, and kept for replay. A port
whose replay buffer is full, or whose counter is used up, sends nothing; its first SEQ after training is 1 (log 44). -/
def State.upSend (s : State) (p : Fin 36) (type : Nat) (nak : Bool) (payload : Nat) : State :=
  let f := s.fports[p]
  if f.state ≠ 3 ∨ Config.replayScaleUp ≤ f.replay.length ∨ f.txctr = 0xFFFFFFFF then s
  else
    let seq := f.txSeq + 1
    let clear := BitVec.ofNat 2048 (upHead seq f.rxSeq nak type f.mine + 2 ^ 64 * payload)
    let flit := Config.gcmSeal p.val f.ktx f.txGen f.txctr clear
    let n := f.txctr + 1
    let s := s.onPort p fun f => { f with txSeq := seq, txctr := n, replay := f.replay ++ [(seq, flit)] }
    let s := s.out (.upFlit p seq type flit)
    if n = 0x80000000 then s.later (.txctrRekeyThreshold p)
    else if n = 0xFFFFFFFF then s.later (.txctrExhausted p)
    else s

/-- A key-exchange flit goes out under the current key, or is due until the port can send it (R46). -/
def State.sendKeyFlit (s : State) (p : Fin 36) : State :=
  if s.fports[p].ready noVn then
    (s.onPort p fun f => { f with keyDue := false }).upSend p 3 false (Config.keyShare p.val s.fports[p].txGen)
  else s.onPort p fun f => { f with keyDue := true }

/-- The transmitting end starts a key exchange, unless one is running (R46). -/
def State.startExchange (s : State) (p : Fin 36) : State :=
  if s.fports[p].state = 3 && !s.fports[p].exchanging then
    ((s.onPort p fun f => { f with exchanging := true }).out (.keyExchange p)).sendKeyFlit p
  else s

/-! The gateway's flows (R41, R42). -/

/-- The planes that a request for a package may take: the link table shows the edge live at both ends (R42), and the own port
of the plane is up; with no such plane the request is answered at once, also where the table alone still shows a live edge
(R50, log 64). -/
def State.livePlanes (s : State) (pkg : Nat) : List Nat :=
  let mine := (s.linkTable[s.pkgid.toNat]?).getD 0
  let there := (s.linkTable[pkg]?).getD 0
  (List.range 36).filter fun p =>
    mine.getLsbD 36 && there.getLsbD 36 && mine.getLsbD p && there.getLsbD p && pkg != s.pkgid.toNat &&
      ((s.fports[p]?.map (·.state)).getD 0) == 3

/-- The plane of a flow: the one it is mapped to, or a new mapping by the gateway's fixed hash. -/
def State.planeOf (s : State) (core : CoreId) (pkg vn : Nat) : Option Nat × State :=
  match s.flows.find? fun f => f.core == core && f.pkg == pkg && f.vn == vn with
  | some f => (if f.holding then none else some f.plane, s)
  | none =>
    let ps := s.livePlanes pkg
    match ps[Config.flowHash core pkg vn % ps.length]? with
    | none => (none, s)
    | some p => (some p, { s with flows := s.flows ++ [⟨core, pkg, vn, p, false⟩] })

/-- The fabric die whose gateway a flow takes: that of its plane. -/
def State.gatewayOf (s : State) (core : CoreId) (pkg vn : Nat) : Fin 24 :=
  match (s.planeOf core pkg vn).1 with
  | some p => if p < 18 then 22 else 23
  | none => 22

/-- A response to another package leaves on its flow's plane, when the port can send; else it waits (R41). -/
def State.sendResponse (s : State) (r : AwayResp) : State :=
  match s.planeOf r.core r.pkg 2 with
  | (some p, t) =>
    if h : p < 36 then
      if t.fports[p].ready 2 then
        let t := t.upSend ⟨p, h⟩ 0 false (upPayload r.pkg s.pkgid.toNat 2 r.slots)
        { t with responses := t.responses ++ [{ r with sent := some (p, t.fports[p].txSeq) }] }
      else { s with responses := s.responses ++ [r] }
    else { s with responses := s.responses ++ [r] }
  | (none, _) => { s with responses := s.responses ++ [r] }

/-- Responses that wait are tried again, in order (R41, R49). -/
def State.sendResponses (s : State) : State :=
  s.responses.foldl (fun s r => if r.sent.isSome then { s with responses := s.responses ++ [r] } else s.sendResponse r)
    { s with responses := [] }

/-- Whether a home is full of held requests of some class: its port's network 0 then fills (R36). A courier message that waits
for its message engine is held among the requests for lines (R233, log 91). -/
def State.homeFull (s : State) (k : Nat) : Bool :=
  let msgs := ((s.coreList.filter fun c => sockOf c == k).map fun c => (s.getCore c).msgHeld.length).sum
  [HoldClass.line, .tile, .translation].any fun c =>
    decide (Config.holdMax ≤ (s.holdings.filter fun h => h.home == k && h.cls == c).length + if c == .line then msgs else 0)

/-- A home takes requests again: the skid buffer that was full of network 0 drains, and the port answers where a STOP bit
changes (R35, R36). -/
def State.drainSkid (s : State) (home : Fin 24) : State :=
  let old := s.links[home].mine
  let s := s.onLink home fun l => { l with skid := l.skid.set 0 0 : Link }.decideStop
  if s.links[home].mine = old then s else s.linkAnswer home false

/-- A response to another package: the header echoes the source of the request (R31). -/
def State.respondAway (s : State) (core : CoreId) (pkg : Nat) (req : MsgHead) (kind : MsgKind) (n addr : Nat)
    (data : List (BitVec 128)) : State :=
  let slots := { req with kind := kind, n := n, addr := addr : MsgHead }.slot :: data
  (s.out (.response pkg slots)).sendResponse { core := core, pkg := pkg, slots := slots, sent := none }

end Sys2Proof.Machine
end

