-- ==== Sys2Proof/Machine/Ops.lean ====
section
/-! DEFINITION. The shared operations of a thread: taking a trap and returning from it (R378 to R384), the fault queue
(R132 to R137), parking on poison and on faults (R127, R130, R131), the checks before an instruction (R269), and what ends
a thread or a launch. -/

namespace Sys2Proof.Machine

/-! Launches. -/

/-- The launch of a handle (R186). -/
def State.launchAt (s : State) (h : Nat) : Option Launch := mapGet s.launches h

/-- Whether a launch is aborted (R79). -/
def State.isAborted (s : State) (h : Nat) : Bool := ((s.launchAt h).map (·.aborted)).getD false

/-- A launch is aborted with a status (R79, R197): its records leave every deque, its running tasks retire, and it completes
when none is left. -/
def State.abortLaunch (s : State) (h status : Nat) : State :=
  match s.launchAt h with
  | none => s
  | some l =>
    if l.aborted then s
    else
      let s := { s with launches := mapSet s.launches h { l with aborted := true, status := status } }
      let waiting := s.coreList.foldl (fun n c => n + ((s.getCore c).deque.filter fun r => r.lh == h).length) 0
      let s := s.mapCores fun _ k => { k with deque := k.deque.filter fun r => !(r.lh == h) }
      let live := l.live - waiting
      let s := { s with launches := mapSet s.launches h { l with aborted := true, status := status, live := live } }
      let s := s.coreList.foldl (fun s c =>
        ((s.getCore c).teams.filter fun t => t.lh == h).foldl (fun s t => s.later (.taskRetire c t.id)) s) s
      if live = 0 then s.later (.launchComplete h) else s

/-! Traps (R378 to R384). -/

/-- The slot stops issuing and stays parked until package reset; its watch entries are cleared (R387). -/
def State.haltSlot (s : State) : State :=
  s.onTh fun t => { t with status := .parked .halted, watch := Vector.replicate 4 WatchEntry.clear }

/-- An unhandled or double trap, and HALT on a core die, end the thread (R382, R387). -/
def State.endThread (s : State) : State :=
  if isCmd s.loc then s.haltSlot else (s.park .stopped).abortLaunch s.th.lh 1

/-- Bit INH of XCAUSE (R380). -/
def Thread.inh (t : Thread) : Bool := t.xcause.getLsbD 9

/-- Taking a trap (R378): the one operation by which every trap is taken. A double trap or a trap without a handler ends
the thread, and the trap registers keep what they held (R382). -/
def State.trap (s : State) (code : Nat) (xval : Word) : State :=
  if s.th.inh || s.th.xvec == 0 then s.endThread
  else s.onTh fun t => { t with
    xpc := t.pc
    xcause := BitVec.ofNat 64 (code + (if t.mode = .supervisor then 256 else 0) + 512)
    xval := xval
    mode := .supervisor
    pc := t.xvec &&& ~~~3#64 }

/-- Return from a trap (R384): pc, mode and INH in one step. -/
def State.trapReturn (s : State) : State :=
  s.onTh fun t => { t with
    pc := t.xpc
    mode := if t.xcause.getLsbD 8 then .supervisor else .user
    xcause := t.xcause &&& ~~~0x200#64 }

/-! The checks before an instruction, in the order of R269. -/

/-- Illegal on a command core (R265). -/
def guardCmd (w : IWord) (k : State → State) (s : State) : State :=
  if isCmd s.loc then s.trap 0x01 (w.setWidth 64) else k s

/-- Privileged (R266, R377). -/
def guardPriv (w : IWord) (k : State → State) (s : State) : State :=
  if s.th.mode = .user then s.trap 0x02 (w.setWidth 64) else k s

/-- Vector registers below the allotment (R217): the first that is not, in the order vd, va, vb. -/
def guardAllot (rs : List VReg) (k : State → State) (s : State) : State :=
  match rs.find? fun r => decide (s.th.allot ≤ r.val) with
  | some r => s.trap 0x03 (w64 r.val)
  | none => k s

/-! The fault queue (R117, R132 to R134). -/

/-- A valid context table entry (R117). -/
structure CtxEntry where
  addr : Nat
  root : Nat
  fqword : Word
  fqbase : Nat
  n : Nat
  deriving DecidableEq, Repr

/-- A physical address of this package. -/
def State.localPa (s : State) (off : Nat) : Nat := s.pkgid.toNat * 0x100000000000 + off

/-- The address of a context's table entry (R117). -/
def State.ctxAddr (s : State) (ctx : BitVec 16) : Nat := s.ctxtBase + 64 * ctx.toNat

/-- Whether a context's table entry can be read now, or what holds its read up at its home (R62, R90). -/
def State.ctxReady (s : State) (ctx : BitVec 16) : Option Wait × State :=
  if s.ctxtEn then s.blocked (s.loc, 0) (s.ctxAddr ctx) 64 true else (none, s)

/-- What FAULTQ reads of a context (R117): the word at 0x08, or 0 while EN or V is 0. -/
def State.faultqOf (s : State) (ctx : BitVec 16) : Word :=
  if s.ctxtEn && (w64 (s.physRead (s.ctxAddr ctx) 8)).getLsbD 0 then w64 (s.physRead (s.ctxAddr ctx + 8) 8) else 0

/-- The context table entry of a context, if the table is in use and the entry is valid (R117). -/
def State.ctxEntry (s : State) (ctx : BitVec 16) : Option CtxEntry :=
  if s.ctxtEn then
    let a := s.ctxAddr ctx
    let w0 := w64 (s.physRead a 8)
    let w1 := w64 (s.physRead (a + 8) 8)
    let l := bits w1 4 0
    if w0.getLsbD 0 && decide (6 ≤ l ∧ l ≤ 16) then
      some ⟨a, bits w0 51 16 * 65536, w1, bits w1 51 12 * 4096, 2 ^ l⟩
    else none
  else none

/-- The device as the writer of a queue entry: no thread's kill counts, no line held. -/
def deviceSource (core : CoreId) (ctx : BitVec 16) : Source := ⟨core, 0, ctx, false⟩

/-- The address of a command core's mailbox (R71). -/
def mailboxOff (n : Nat) : Nat := 0xF0014000000 + n / 4 * 0x1000000 + 0x20000 + 0x1000 * (n % 4)

/-- A change of mailbox n wakes the watches of its line (R71, R324). -/
def State.mailboxChanged (s : State) (n : Nat) : State := s.trigger (lineOf (s.localPa (mailboxOff n)))

/-- A mailbox changed by a function; every change is a write to its line (R71). -/
def State.onMailbox (s : State) (n : Fin 8) (f : Mailbox → Mailbox) : State :=
  ({ s with mailboxes := s.mailboxes.set n (f s.mailboxes[n]) }).mailboxChanged n

/-- FCNT and FCTX of the command core that counts an entry (R72, R132). -/
def State.countEntry (s : State) (sup : Nat) (ctx : BitVec 16) : State :=
  s.onMailbox (Fin.ofNat 8 sup) fun m => { m with fcnt := m.fcnt + 1, fctx := ctx }

/-- The eight doublewords of an entry (R134). -/
def FaultEntry.words (e : FaultEntry) : List Nat :=
  [ e.cause.toNat + 256 * e.stat.toNat + 1024 * e.remote.toNat + 2048 * e.write.toNat + 4096 * e.notask.toNat
      + 65536 * e.ctx.toNat,
    e.fva.toNat, e.fpc.toNat, e.rpc.toNat,
    e.pkg.toNat + 256 * e.sock.toNat + 8192 * e.core.toNat + 524288 * e.slot.toNat,
    e.pa, e.detail.toNat, e.task.toNat ]

/-- The 64 bytes of an entry as one number. -/
def FaultEntry.value (e : FaultEntry) : Nat := e.words.foldr (fun w r => w % 2 ^ 64 + 2 ^ 64 * r) 0

/-- An entry is counted (R132): behind the writes of entries of its context that wait, since each is performed before the
increment that follows it (R406). -/
def State.fqCount (s : State) (sup : Nat) (ctx : BitVec 16) : State :=
  if s.statWait.any fun y => y.ctx == ctx then
    { s with statWait := s.statWait ++ [{ ctx := ctx, index := 0, stat := 0, rpc := none, sup := some sup : StatWrite }] }
  else s.countEntry sup ctx

/-- An entry is written at FQTAIL, which then advances (R132): its index, or none while the queue is full, its context
entry is not valid, or one of the two lines cannot be read or written yet (R62, R90). -/
def State.fqWrite (s : State) (e : FaultEntry) : Option Word × State :=
  match s.ctxReady e.ctx with
  | (some _, s) => (none, s)
  | (none, s) =>
    match s.ctxEntry e.ctx with
    | none => (none, s)
    | some c =>
      let tail := s.physRead (c.addr + 0x10) 8
      let head := s.physRead (c.addr + 0x18) 8
      if (tail + 2 ^ 64 - head) % 2 ^ 64 = c.n then (none, s)
      else
        let a := c.fqbase + 64 * (tail % c.n)
        match s.blocked (s.loc, 0) a 64 false with
        | (some _, s) => (none, s)
        | (none, s) =>
          match s.blocked (s.loc, 0) c.addr 64 false with
          | (some _, s) => (none, s)
          | (none, s) =>
            let src := deviceSource s.loc e.ctx
            let s := (s.serialise src a 64 e.value).2
            let s := (s.serialise src (c.addr + 0x10) 8 ((tail + 1) % 2 ^ 64)).2
            (some (w64 tail), s)

/-- Such a write, of a task's own entry: behind those of the context that wait already (R132). -/
def State.fqTake (s : State) (e : FaultEntry) : Option Word × State :=
  if s.fqWait.any fun q => q.entry.ctx == e.ctx then (none, s) else s.fqWrite e

/-- An entry written raised is counted (R132). -/
def State.fqPut (s : State) (e : FaultEntry) : Option Word × State :=
  match s.fqWrite e with
  | (some ix, s) => (some ix, if e.stat = 1 then s.fqCount e.sup e.ctx else s)
  | (none, s) => (none, s)

/-- A new STAT, and RPC where the entry is raised, written into an entry (R132, R136, R137), or an entry counted; the answer
says whether it could be done. -/
def State.statTry (s : State) (x : StatWrite) : Bool × State :=
  match x.sup with
  | some n => (true, s.countEntry n x.ctx)
  | none =>
    match s.ctxReady x.ctx with
    | (some _, s) => (false, s)
    | (none, s) =>
      match s.ctxEntry x.ctx with
      | none => (false, s)
      | some c =>
        let a := c.fqbase + 64 * (x.index.toNat % c.n)
        match s.blocked (s.loc, 0) a 64 false with
        | (some _, s) => (false, s)
        | (none, s) =>
          let src := deviceSource s.loc x.ctx
          let b := s.physRead (a + 1) 1
          let s := (s.serialise src (a + 1) 1 (b / 4 * 4 + x.stat)).2
          (true, match x.rpc with
            | some v => (s.serialise src (a + 0x18) 8 v.toNat).2
            | none => s)

/-- A new STAT of an entry: written, or kept until it can be, after those of the context that wait already (R132). -/
def State.fqStat (s : State) (x : StatWrite) : State :=
  if s.statWait.any fun y => y.ctx == x.ctx then { s with statWait := s.statWait ++ [x] }
  else
    match s.statTry x with
    | (true, s) => s
    | (false, s) => { s with statWait := s.statWait ++ [x] }

/-- The command core that counts the entries of the current thread (R132). -/
def State.supOf (s : State) : Nat :=
  if isCmd s.loc then cmdNo s.loc else ((s.launchAt s.th.lh).map (·.sup)).getD 0

/-- An entry of the current thread (R134). -/
def State.entryOf (s : State) (cause : Byte) (fva : Word) (stat : Nat) (write : Bool) (pa : Nat) (detail : Word) :
    FaultEntry where
  cause := cause
  stat := BitVec.ofNat 2 stat
  remote := false
  write := write
  notask := false
  ctx := s.th.ctx
  fva := fva
  fpc := s.th.pc
  rpc := s.th.pc
  pkg := s.pkgid
  sock := BitVec.ofNat 5 (sockOf s.loc)
  core := BitVec.ofNat 6 (siteOf s.loc)
  slot := BitVec.ofNat 3 s.slot
  pa := pa
  detail := detail
  task := if s.th.kind = .strand then 0 else s.th.task
  sup := s.supOf

/-- What the launch's fault policy adds when an entry of a task is raised (R77): FPOL 1 aborts the launch, FPOL 2 posts an
alert of class 0x08. -/
def State.faultPolicy (s : State) (index : Word) : State :=
  if s.th.kind = .strand then s
  else
    match s.launchAt s.th.lh with
    | none => s
    | some l =>
      if l.fpol = 1 then s.abortLaunch s.th.lh 1
      else if l.fpol = 2 then s.alert 0x08 (sockOf s.loc) s.th.ctx [index, w64 l.sup]
      else s

/-- One held entry is raised (R132); it is counted once every entry raised with it is written (R406). -/
def State.raiseOne (s : State) (e : HeldEntry) : State :=
  if e.raised then s
  else
    let s := s.fqStat ⟨e.ctx, e.index, 1, some s.th.pc, none⟩
    (s.onTh fun t => { t with held := t.held.map fun x => if x.index = e.index then { x with raised := true } else x }).faultPolicy
      e.index

/-- Every latent entry of the current thread is raised in ascending order, and then counted; the reporting instruction is at pc
(R132, R406). -/
def State.raiseHeld (s : State) : State :=
  let new := s.th.held.filter (!·.raised)
  new.foldl (fun s e => s.fqCount s.supOf e.ctx) (new.foldl State.raiseOne s)

/-- The task parks as a consumer of poison (R130, R131): its entries are raised, and it waits for their acknowledgement. -/
def State.parkConsumer (s : State) : State := s.raiseHeld.park .fault

/-- One raised entry of the current thread, written now or waiting for space (R132), with the write that its acknowledgement
sends again; one of several is counted by its caller, once all are written (R406). -/
def State.raiseNew (s : State) (e : FaultEntry) (write : Option WriteMsg) (alone : Bool := true) : State :=
  let s := s.park .fault
  match s.fqTake e with
  | (some ix, s) =>
    let s := if alone then s.fqCount e.sup e.ctx else s
    let h : HeldEntry :=
      { ctx := e.ctx, index := ix, pc := e.fpc, load := none, regs := Regs.zero, copy := none, raised := true, acked := false,
        write := write }
    (s.onTh fun t => { t with held := t.held ++ [h] }).faultPolicy ix
  | (none, s) =>
    let s := s.park (.fqSpace e.ctx)
    { s with fqWait := s.fqWait ++
      [{ core := s.loc, slot := s.slot, entry := e, load := none, after := none, lanes := [], copy := none, write := write }] }

/-- A parking fault (R127): precise; the instruction runs again after its acknowledgement. -/
def State.parkFault (s : State) (cause : Byte) (fva : Word) (write : Bool) (pa : Nat) (detail : Word) : State :=
  let e := s.entryOf cause fva 1 write pa detail
  s.raiseHeld.raiseNew e none

/-- Poison checked: an instruction that consumes a poisoned operand parks its task (R130). -/
def guardClean (ps : List (Option Payload)) (k : State → State) (s : State) : State :=
  if ps.any Option.isSome then s.parkConsumer else k s

/-- Scalar operands that an instruction consumes. -/
def consumeX (rs : List Reg) (k : State → State) (s : State) : State := guardClean (rs.map s.th.regs.rxp) k s

/-- A fence, a release, a barrier arrival and STOP consume while a latent entry is held, of a load or of a stopped copy
(R131, R230). -/
def guardLatent (k : State → State) (s : State) : State := if s.th.held.isEmpty then k s else s.parkConsumer

/-- An acquire consumes while an earlier load of the thread holds a latent entry (R131); `mine` tells the stopped copies whose
entry it raises too (R230). -/
def guardLoads (mine : Nat → Bool) (k : State → State) (s : State) : State :=
  if s.th.held.all (fun e => match e.copy with
    | none => false
    | some id => !mine id) then k s
  else s.parkConsumer

/-! Poison of a failed load (R127, R128, R343). -/

/-- `v` with its `n` bytes at byte `at` replaced by the low bytes of `x`. -/
def putBytes (v : VWord) (at' n : Nat) (x : Nat) : VWord :=
  let m : VWord := BitVec.ofNat 8192 ((2 ^ (8 * n) - 1) * 2 ^ (8 * at'))
  (v &&& ~~~m) ||| BitVec.ofNat 8192 (x % 2 ^ (8 * n) * 2 ^ (8 * at'))

/-- The lanes that element `i` of width `w` lies in (R328). -/
def lanesOf (w i : Nat) : List Nat := if w = 8 then [2 * i, 2 * i + 1] else [w * i / 4]

/-- The bytes of a poisoned element: the payload in each lane, a narrow element its low bytes (R128, R330). -/
def poisonVal (w : Nat) (p : Payload) : Nat := if w = 8 then p.toNat + 2 ^ 32 * p.toNat else p.toNat % 2 ^ (8 * w)

/-- Elements of a vector register written as poison (R330): each holds the payload, its lanes are poisoned. -/
def Regs.poisonElems (r : Regs) (d : VReg) (w : Nat) (p : Payload) : List Nat → Regs
  | [] => r
  | i :: es =>
    let v := putBytes r.v[d] (w * i) w (poisonVal w p)
    let vp := (lanesOf w i).foldl (fun m j => mapSet m j p) r.vp[d]
    (r.wv d v vp).poisonElems d w p es

/-- The destination of a failed load written as poison: the register, the failed elements, or the whole mask. -/
def Regs.poisonLoad (r : Regs) (op : LoadOp) (elems : List Nat) (p : Payload) : Regs :=
  match op with
  | .scalar d .. => r.wxp d p
  | .vector f d _ _ _ t =>
    match f with
    | .vseq => r.wkp (Fin.ofNat 8 d.val) p
    | _ => r.poisonElems d t.width p elems

/-- A load takes the poison path (R127): a latent entry is reserved and the thread goes on, or it waits for space. -/
def State.poisonPath (s : State) (op : LoadOp) (e : FaultEntry) (after : Regs) (elems : List Nat) : State :=
  match s.fqTake e with
  | (some ix, s) =>
    let p : Payload := BitVec.ofNat 21 (ix.toNat % 65536)
    let h : HeldEntry :=
      { ctx := e.ctx, index := ix, pc := e.fpc, load := some op, regs := s.th.regs, copy := none, raised := false,
        acked := false }
    (s.onTh fun t => { t with status := .ready, held := t.held ++ [h], regs := after.poisonLoad op elems p, pc := t.pc + 4 })
  | (none, s) =>
    let s := s.park (.fqSpace e.ctx)
    { s with fqWait := s.fqWait ++
      [{ core := s.loc, slot := s.slot, entry := e, load := some op, after := some after, lanes := elems, copy := none }] }

/-! Notices (R133). -/

/-- The notice store of a die. -/
def State.noticesOf (s : State) (die : Nat) : Notices := (mapGet s.notices die).getD ⟨[], 0, 0, 0⟩

/-- An entry put into a die's notice store, or counted as dropped when the store is full (R133): a remote-fault entry is
then left to its origin. -/
def State.keepNotice (s : State) (die : Nat) (e : FaultEntry) : State :=
  let ns := s.noticesOf die
  if ns.entries.length < Config.noticeMax then
    { s with notices := mapSet s.notices die { ns with entries := ns.entries ++ [e] } }
  else if e.notask then
    { s with notices := mapSet s.notices die { ns with
        dropped := ns.dropped + 1
        dropCtx := if ns.dropped = 0 then e.ctx else ns.dropCtx
        dropCause := if ns.dropped = 0 then e.cause else ns.dropCause } }
  else s

/-- An entry that an agent other than the faulted thread's core writes (R133): written, but never ahead of the entries that
the die holds for the queue, or held; its index once it is written. -/
def State.noticeIx (s : State) (die : Nat) (e : FaultEntry) : Option Word × State :=
  if (s.noticesOf die).entries.any fun x => x.ctx == e.ctx then (none, s.keepNotice die e)
  else
    match s.fqPut e with
    | (some ix, s) => (some ix, s)
    | (none, s) => (none, s.keepNotice die e)

/-- That entry, whose index nobody asks for. -/
def State.notice (s : State) (die : Nat) (e : FaultEntry) : State := (s.noticeIx die e).2

/-- A notice with NOTASK = 1. -/
def noticeEntry (s : State) (die : Nat) (cause : Byte) (ctx : BitVec 16) (fva fpc : Word) (pa sup : Nat) : FaultEntry where
  cause := cause
  stat := 1
  remote := false
  write := false
  notask := true
  ctx := ctx
  fva := fva
  fpc := fpc
  rpc := fpc
  pkg := s.pkgid
  sock := BitVec.ofNat 5 die
  core := 0
  slot := 0
  pa := pa
  detail := 0
  task := 0
  sup := sup

/-! Teams of the current core. -/

/-- The team of the current thread, if it has one: a command core's strand has none (R69). -/
def State.team (s : State) : Option Team := s.core.teams.find? fun t => t.id == s.th.team && !isCmd s.loc

/-- A team of a core changed by a function. -/
def Core.onTeam (k : Core) (id : Nat) (f : Team → Team) : Core :=
  { k with teams := k.teams.map fun t => if t.id == id then f t else t }

/-- The current thread's team changed by a function. -/
def State.onTeam (s : State) (f : Team → Team) : State := s.onHere fun k => k.onTeam s.th.team f

/-- Fields of POOLPART (R213). -/
def rfbOf (w : Word) : Nat := bits w 8 0
def acbOf (w : Word) : Nat := bits w 17 9
def spbOf (w : Word) : Nat := bits w 26 18

/-- Banks that a pool partition word reserves (R213). -/
def banksOf (w : Word) : Nat := rfbOf w + acbOf w + spbOf w

/-- Bytes of the scratchpad that the current thread reaches: its team's share, or a command core's whole pool (R69, R214). -/
def State.spBytes (s : State) : Nat :=
  if isCmd s.loc then 8192 * Config.banks true else ((s.team.map fun t => 8192 * spbOf t.poolpart)).getD 0

end Sys2Proof.Machine
end

