-- ==== Sys2Proof/Machine/Sysreg.lean ====
section
/-! DEFINITION. The system register range (R44, R71, R80, R84, R117, R179, R182, R381): which address names which register,
what it reads, and what a write does. -/

namespace Sys2Proof.Machine

/-- A memory-mapped register. -/
inductive MReg where
  | mailbox (n : Fin 8) (word : Nat)
  | alert (ix : Nat)
  | ctxtbase
  | part (p : Fin 16)
  | partmem (p : Fin 16)
  | lctctl
  | tvbase
  | lct (n : Nat)
  | ltgen
  | fport (p : Fin 36)
  | fpctl (p : Fin 36)
  | ltent (n : Fin 256)
  deriving DecidableEq, Repr

/-- The scheduler register at an offset of its block (R179, R182, R381). -/
def schedReg (o : Nat) : Option MReg :=
  if o < 0x80 then some (.part (Fin.ofNat 16 (o / 8)))
  else if o = 0x80 then some .lctctl
  else if o = 0x88 then some .tvbase
  else if 0x100 ≤ o ∧ o < 0x180 then some (.partmem (Fin.ofNat 16 ((o - 0x100) / 8)))
  else if 0x1000 ≤ o ∧ o < 0x1000 + 8 * 576 then some (.lct ((o - 0x1000) / 8))
  else none

/-- The register that an aligned doubleword of a socket's block names. -/
def blockReg (sock o : Nat) : Option MReg :=
  if sock = 20 ∨ sock = 21 then
    if 0x20000 ≤ o ∧ o < 0x24000 ∧ o % 0x1000 < 0x80 then
      some (.mailbox (Fin.ofNat 8 ((sock - 20) * 4 + (o - 0x20000) / 0x1000)) (o % 0x1000 / 8))
    else if sock = 20 ∧ 0x30000 ≤ o ∧ o < 0x30028 then some (.alert ((o - 0x30000) / 8))
    else if sock = 20 ∧ o = 0x40000 then some .ctxtbase
    else if 0x50000 ≤ o ∧ o < 0x60000 then schedReg (o - 0x50000)
    else none
  else if sock = 22 ∨ sock = 23 then
    if o = 0 then some .ltgen
    else if 0x1000 ≤ o ∧ o < 0x1000 + 8 * 18 then some (.fport (Fin.ofNat 36 ((sock - 22) * 18 + (o - 0x1000) / 8)))
    else if 0x2000 ≤ o ∧ o < 0x2000 + 8 * 18 then some (.fpctl (Fin.ofNat 36 ((sock - 22) * 18 + (o - 0x2000) / 8)))
    else if 0x10000 ≤ o ∧ o < 0x10000 + 8 * 256 then some (.ltent (Fin.ofNat 256 ((o - 0x10000) / 8)))
    else none
  else none

/-- The register at an offset of the package's map (R44, R84): an aligned doubleword within one defined register. -/
def mregAt (off n : Nat) : Option MReg :=
  if n = 8 ∧ off % 8 = 0 ∧ 0xF0000000000 ≤ off then
    blockReg ((off - 0xF0000000000) / 0x1000000) ((off - 0xF0000000000) % 0x1000000)
  else none

/-! Mailboxes (R72). -/

/-- MBSTAT as it reads. -/
def Mailbox.stat (m : Mailbox) : Word :=
  w64 (m.inv.toNat + 2 * m.outv.toNat + 4 * m.inovf.toNat + 8 * m.outovf.toNat + 256 * m.ien.toNat)

/-- A change of a mailbox; the line's watches wake only when a word changed (R71). -/
def State.mailboxSet (s : State) (n : Fin 8) (m : Mailbox) : State :=
  if m = s.mailboxes[n] then s else s.onMailbox n fun _ => m

/-- MBIN written (R72): by the host; a write by a device agent is ignored. -/
def State.writeMbin (s : State) (host : Bool) (n : Fin 8) (v : Word) : State :=
  let m := s.mailboxes[n]
  if !host then s
  else if m.inv then s.mailboxSet n { m with inovf := true }
  else s.mailboxSet n { m with mbin := v, inv := true }

/-- MBOUT written (R72): by a command core; a host write is ignored. The rule speaks of the command core's writes alone; every
write of a device agent is treated as one of them here, and at MBSTAT (log 62). -/
def State.writeMbout (s : State) (host : Bool) (n : Fin 8) (v : Word) : State :=
  let m := s.mailboxes[n]
  if host then s
  else if m.outv then s.mailboxSet n { m with outovf := true }
  else
    let s := s.mailboxSet n { m with mbout := v, outv := true }
    if m.ien then s.msix n else s

/-- MBSTAT written (R72). -/
def State.writeMbstat (s : State) (host : Bool) (n : Fin 8) (v : Word) : State :=
  let m := s.mailboxes[n]
  s.mailboxSet n { m with
    inv := m.inv && !(v.getLsbD 0 && !host)
    outv := m.outv && !(v.getLsbD 1 && host)
    inovf := m.inovf && !v.getLsbD 2
    outovf := m.outovf && !v.getLsbD 3
    ien := v.getLsbD 8 }

/-! Alert registers (R80). -/

/-- Held records are delivered in order once the ring is in use. -/
def State.deliverHeld (s : State) : State :=
  if s.alertsOn then s.alrtHeld.foldl State.alertSend { s with alrtHeld := [] } else s

/-- ALRTCTL written (R80). -/
def State.writeAlrtctl (s : State) (v : Word) : State :=
  ({ s with alrtLog2n := bits v 4 0, alrtEn := v.getLsbD 8 }).deliverHeld

/-- An alert register written; ALRTTAIL and ALRTLOST are read only. -/
def State.writeAlert (s : State) (ix : Nat) (v : Word) : State :=
  match ix with
  | 0 => { s with alrtBase := w64 (bits v 51 6 * 64) }
  | 1 => s.writeAlrtctl v
  | 2 => { s with alrtHead := v }
  | _ => s

/-- An alert register read. -/
def State.readAlert (s : State) (ix : Nat) : Word :=
  match ix with
  | 0 => s.alrtBase
  | 1 => w64 (s.alrtLog2n + 256 * s.alrtEn.toNat)
  | 2 => s.alrtHead
  | 3 => s.alrtTail
  | _ => w64 s.alrtLost

/-! The logical core table (R179, R180). -/

/-- Whether a site is enabled (R15). -/
def State.siteOn (s : State) (die site : Nat) : Bool :=
  decide (site < 36) && ((s.harvest[die]?).getD 0).getLsbD site

/-- The core that an entry names, if V is set. -/
def lctTarget (w : Word) : Option CoreId :=
  if w.getLsbD 10 then some (coreOf (bits w 9 6) (bits w 5 0)) else none

/-- The cores named by entries with V = 1, in entry order. -/
def State.lctNamed (s : State) : List (Nat × CoreId) :=
  s.lct.filterMap fun p => (lctTarget p.2).map fun c => (p.1, c)

/-- The enabled sites of the package in ascending die and site order. -/
def State.enabledSites (s : State) : List CoreId :=
  (List.range 16).flatMap fun d => ((List.range 36).filter fun k => s.siteOn d k).map fun k => coreOf d k

/-- Whether a LOCK write succeeds (R180). -/
def State.lockOk (s : State) : Bool :=
  let named := s.lctNamed
  let sites := s.enabledSites
  ((named.map (·.1)) == List.range named.length) &&
    named.all (fun p => s.siteOn (sockOf p.2) (siteOf p.2)) &&
    named.length == sites.length && sites.all (fun c => named.any fun p => p.2 == c)

/-- A LOCK write (R180). -/
def State.lockLct (s : State) : State :=
  if s.lctLock then s
  else if s.lockOk then ({ s with lctLock := true, lctErr := false, nlog := s.lctNamed.length }).requeueHeld
  else { s with lctErr := true }

/-- The core of a logical number (R180). -/
def State.logical (s : State) (n : Nat) : Option CoreId :=
  if s.lctLock && decide (n < s.nlog) then (mapGet s.lct n).bind lctTarget else none

/-- The logical number of a core; 0 until the lock (R180), 1,024 + n on a command core (R69). -/
def State.logicalNo (s : State) (c : CoreId) : Nat :=
  if isCmd c then 1024 + cmdNo c
  else if s.lctLock then ((s.lctNamed.find? fun p => p.2 == c).map (·.1)).getD 0
  else 0

/-! Partitions (R182 to R185). -/

/-- Whether the dies of two masks meet. -/
def diesMeet (a b : BitVec 16) : Bool := a &&& b != 0

/-- Whether dies overlap another partition that runs or is halted (R183). -/
def State.diesTaken (s : State) (p : Fin 16) (dies : BitVec 16) : Bool :=
  (List.range 16).any fun q =>
    match s.parts[q]? with
    | some x => q != p.val && (x.state == 1 || x.state == 2) && diesMeet x.dies dies
    | none => false

/-- Whether some launch of a partition is live (R183): its table entry has not freed. -/
def State.liveLaunch (s : State) (p : Fin 16) : Bool := s.launches.any fun x => x.2.partn == p.val

/-- Whether a collective of a partition is running (R183). -/
def State.colRunning (s : State) (dies : BitVec 16) : Bool :=
  s.coreList.any fun c => dies.getLsbD (sockOf c) && !isCmd c &&
    (s.getCore c).colq.any fun o => o.state == 2 || o.state == 3

/-- Bytes of one die's block of a swap area (R185). -/
def swapBlock : Nat := 0x9948000

/-- The dies of a mask. -/
def popDies (dies : BitVec 16) : Nat := ((List.range 16).filter fun i => dies.getLsbD i).length

/-- Whether a swap area lies in LPDDR-6 (R185). -/
def swapFits (mem : Word) (dies : BitVec 16) : Bool :=
  decide (mem.toNat % 0x100000000000 + swapBlock * popDies dies ≤ Config.lpddrBytes)

/-- Whether a write of PART is refused (R183). -/
def State.partRefused (s : State) (p : Fin 16) (dies : BitVec 16) (halt resume out inn : Bool) : Bool :=
  let x := s.parts[p]
  let empties := dies == 0 && x.state == 1 && !s.liveLaunch p
  let changes := dies != x.dies
  let state := if empties && changes then 0 else x.state
  (x.busy && (changes || halt || resume || out || inn)) ||
  (changes && (x.state == 1 || x.state == 2) && !empties) ||
  (x.state == 0 && dies != 0 && s.diesTaken p dies) ||
  (resume && state != 2) || (halt && state != 1) ||
  (out && (state != 2 || s.colRunning dies)) ||
  (inn && (state != 3 || s.diesTaken p dies)) ||
  decide (1 < halt.toNat + resume.toNat + out.toNat + inn.toNat)

/-- PART written (R182, R183): refused as a whole, or DIES and one request take effect. -/
def State.writePart (s : State) (p : Fin 16) (v : Word) : State :=
  let x := s.parts[p]
  let dies : BitVec 16 := v.setWidth 16
  let halt := v.getLsbD 18
  let resume := v.getLsbD 19
  let out := v.getLsbD 20
  let inn := v.getLsbD 21
  let x := if v.getLsbD 23 then { x with err := false } else x
  if s.partRefused p dies halt resume out inn then { s with parts := s.parts.set p { x with err := true } }
  else
    let state := if x.state = 0 ∧ dies ≠ 0 then 1 else if x.state = 1 ∧ dies = 0 then 0 else x.state
    let x := { x with dies := dies, state := state }
    if halt then
      ({ s with parts := s.parts.set p { x with busy := true, req := 1 } }).later (.partitionHalted p)
    else if resume then
      let on := fun (c : CoreId) => !isCmd c && dies.getLsbD (sockOf c) && !s.lostDies.getLsbD (sockOf c) && !s.fenced.getLsbD (sockOf c)
      (({ s with parts := s.parts.set p { x with state := 1 } }).mapCores fun c k =>
        if on c then { k with stopped := false } else k).requeueHeld
    else if out then ({ s with parts := s.parts.set p { x with busy := true, req := 2 } }).later (.swapoutComplete p)
    else if inn then ({ s with parts := s.parts.set p { x with busy := true, req := 3 } }).later (.swapinComplete p)
    else ({ s with parts := s.parts.set p x }).requeueHeld

/-- PART as it reads (R182): while BUSY is 1, bits [21:18] read 1. -/
def Part.read (x : Part) : Word :=
  w64 (x.dies.toNat + 65536 * x.state + (if x.busy then 4194304 else 0) + (if x.err then 8388608 else 0)
    + (if x.busy then 15 * 262144 else 0))

/-! Fabric registers (R42, R44). -/

/-- FPORT as it reads. -/
def Fport.read (p : Fport) : Word :=
  w64 (p.state + 8 * p.ktx.toNat + 16 * p.krx.toNat + 32 * p.afail + 65536 * p.txctr.toNat + 2 ^ 48 * p.downs)

/-- FPCTL as it reads. -/
def Fport.readCtl (p : Fport) : Word := w64 (p.off.toNat + 2 * p.rekey.toNat)

/-- OFF of FPCTL written (R44, R410): 1 takes the port down and holds it down, and changes nothing where it is set already, so
that the STATE 4 of an isolated port stays; 0 lets it train. -/
def State.writeOff (s : State) (p : Fin 36) (off : Bool) : State :=
  let f := s.fports[p]
  if off then
    let s := { s with fports := s.fports.set p { f with off := true } }
    if f.off ∨ f.state = 0 then s else s.later (.scaleupPortDown p)
  else
    { s with fports := s.fports.set p { f with off := false, state := if f.off ∧ (f.state = 0 ∨ f.state = 4) then 1 else f.state } }

/-- REKEY set (R44, R46): a key exchange starts at once; the bit reads 1 until the marker has been acknowledged. The rule does
not say what a write does while the port is not up: here the bit reads 1, no exchange starts, and a later training leaves
it (log 63). -/
def State.startRekey (s : State) (p : Fin 36) : State := (s.onPort p fun f => { f with rekey := true }).startExchange p

/-! Reads and writes. -/

/-- A register read. -/
def State.readMReg (s : State) : MReg → Word
  | .mailbox n w =>
    let m := s.mailboxes[n]
    match w with
    | 0 => m.mbin
    | 1 => m.mbout
    | 2 => m.stat
    | 3 => w64 (m.fcnt.toNat + 2 ^ 32 * m.fctx.toNat)
    | _ => 0
  | .alert ix => s.readAlert ix
  | .ctxtbase => w64 (s.ctxtEn.toNat + s.ctxtBase)
  | .part p => s.parts[p].read
  | .partmem p => s.parts[p].mem
  | .lctctl => w64 (s.lctLock.toNat + 2 * s.lctErr.toNat + (if s.lctLock then 4 * s.nlog else 0))
  | .tvbase => w64 (s.tvEn.toNat + s.tvBase)
  | .lct n => (mapGet s.lct n).getD 0
  | .ltgen => w64 (s.ltGen.toNat + 2 ^ 32 * s.ltStale.toNat)
  | .fport p => s.fports[p].read
  | .fpctl p => s.fports[p].readCtl
  | .ltent n => s.linkTable[n]

/-- A register written; reserved bits are discarded and read-only registers ignore the write (R5). -/
def State.writeMReg (s : State) (host : Bool) (r : MReg) (v : Word) : State :=
  match r with
  | .mailbox n w =>
    match w with
    | 0 => s.writeMbin host n v
    | 1 => s.writeMbout host n v
    | 2 => s.writeMbstat host n v
    | _ => s
  | .alert ix => s.writeAlert ix v
  | .ctxtbase => ({ s with ctxtEn := v.getLsbD 0, ctxtBase := bits v 51 22 * 0x400000 }).retryQueues.requeueHeld
  | .part p => s.writePart p v
  | .partmem p => { s with parts := s.parts.set p { s.parts[p] with mem := w64 (bits v 51 12 * 4096) } }
  | .lctctl => if v.getLsbD 0 then s.lockLct else s
  | .tvbase => { s with tvEn := v.getLsbD 0, tvBase := bits v 51 12 * 4096 }
  | .lct n => if s.lctLock then s else { s with lct := mapSet s.lct n (v &&& 0x7FF) }
  | .fpctl p =>
    let s := s.writeOff p (v.getLsbD 0)
    if v.getLsbD 1 then s.startRekey p else s
  | .ltgen | .fport _ | .ltent _ => s

/-- Whether the host reaches a register through BAR0 (R60): only the mailboxes and the alert registers. -/
def MReg.hostSees : MReg → Bool
  | .mailbox .. | .alert _ => true
  | _ => false

/-- A register written from a physical offset by the host or by the device (R4, R60); any other offset does nothing
here (a device access to it gets an error response, R84). -/
def State.writeReg (s : State) (host : Bool) (off : Nat) (v : Word) : State :=
  match mregAt off 8 with
  | some r => if host && !r.hostSees then s else s.writeMReg host r v
  | none => s

/-- Whether a core lies on a die of a partition (R182). -/
def State.inPart (s : State) (p : Fin 16) (c : CoreId) : Bool := !isCmd c && s.parts[p].dies.getLsbD (sockOf c)

/-- Whether a core's partition is halted (R184). -/
def State.haltedAt (s : State) (c : CoreId) : Bool := (List.finRange 16).any fun p => s.inPart p c && s.parts[p].state == 2

end Sys2Proof.Machine
end

