-- ==== Sys2Proof/Machine/Xlate.lean ====
section
/-! DEFINITION. Address translation (R116 to R123): canonical form, the three-level walk with its watchers, extents, the
TLB and the permission checks. -/

namespace Sys2Proof.Machine

/-- The kinds of access of R120. -/
inductive Access where
  | load | store | atomic | fetch | tdecl
  deriving DecidableEq, Repr

/-- Bits [63:53] are all equal (R116). -/
def canonical (va : Word) : Bool := bits va 63 53 == 0 || bits va 63 53 == 0x7FF

/-- On whose behalf an address is translated. -/
structure Asid where
  core : CoreId
  slot : Nat
  ctx : BitVec 16
  mode : Mode
  /-- a thread's accesses use its extents and its core's TLB; the engines and the dispatch unit walk -/
  thread : Bool
  deriving DecidableEq, Repr

/-- The current thread as the one that accesses. -/
def State.asid (s : State) : Asid := ⟨s.loc, s.slot.val, s.th.ctx, s.th.mode, true⟩

/-- A translation: physical base, leaf bits, log2 of the page size, the table lines it is derived from. -/
structure Leaf where
  pbase : Nat
  bits : BitVec 16
  log2 : Nat
  lines : List Nat
  deriving DecidableEq, Repr

/-- A translation that gives no address: the cause and DETAIL (R134), or what it waits for. -/
structure XFault where
  cause : Byte
  detail : Word
  wait : Option Wait := none
  deriving DecidableEq, Repr

/-- DETAIL of a walk that ended at a level with an entry value, or without one (R134). -/
def walkDetail (level : Nat) (entry : Option Nat) : Word :=
  w64 (level + 65536 * ((entry.map fun e => e % 65536).getD 0))

/-- Whether an entry is a bad entry at its level (R119): 0 top, 1 middle, 2 bottom. -/
def badEntry (level e : Nat) : Bool :=
  let w := w64 e
  let leaf := bits w 3 1 != 0
  (bits w 15 14 != 0 || bits w 63 52 != 0) ||
  (if leaf then
    level == 0 || (level == 1 && bits w 28 16 != 0) || (w.getLsbD 2 && !w.getLsbD 1) || decide (2 ≤ bits w 9 8)
  else level == 2 || decide (2 ≤ bits w 9 8))

/-- A table can be read only in LPDDR-6 or near memory of this package that is not lost (R108). -/
def State.tableReadable (s : State) (pa : Nat) : Bool := s.isDevMem pa && !s.lostAt pa

/-- A failure with a cause. -/
def xfail (cause : Byte) (detail : Word) : XFault := { cause := cause, detail := detail }

/-- A translation that waits. -/
def xwait (w : Wait) : XFault := { cause := 0, detail := 0, wait := some w }

/-- One table entry read by a walk: the die becomes a watcher of its line (R107). -/
def State.walkEntry (s : State) (core : CoreId) (pa : Nat) : Nat × State := (s.physRead pa 8, s.watchLine (lineOf pa) core)

/-- The physical number and log2 size of a leaf at a level (R116, R119), with the group of a contiguous hint (R121): a hint
whose group would begin below address 0 is false, and the page uses its own entry. -/
def leafOf (level e : Nat) (va : Word) (lines : List Nat) (groupLine : Nat) : Leaf :=
  let w := w64 e
  let b := BitVec.ofNat 16 e
  let ppn := bits w 51 16
  if level = 1 then ⟨ppn * 65536, b, 29, lines⟩
  else if w.getLsbD 13 && decide (bits va 20 16 ≤ ppn) then
    ⟨(ppn - bits va 20 16) * 65536, b, 21, lines ++ [groupLine]⟩
  else ⟨ppn * 65536, b, 16, lines⟩

/-- The walk from a table at a level, `fuel` levels left (R116, R119, R108). -/
def State.walkFrom (s : State) (core : CoreId) (va : Word) (level table : Nat) (lines : List Nat) :
    Nat → Except XFault Leaf × State
  | 0 => (.error (xfail 0x02 (walkDetail level none)), s)
  | fuel + 1 =>
    let ix := if level = 0 then bits va 53 42 else if level = 1 then bits va 41 29 else bits va 28 16
    let pa := table + 8 * ix
    if !s.tableReadable pa then (.error (xfail 0x01 (walkDetail level none)), s)
    else
      match s.blocked (core, 0) pa 8 true .translation with
      | (some w, s) => (.error (xwait w), s)
      | (none, s) =>
        let (e, s) := s.walkEntry core pa
        if s.poisonedIn pa 8 then (.error (xfail 0x0D (walkDetail level none)), s)
        else
          if e % 2 = 0 then (.error (xfail 0x01 (walkDetail level (some e))), s)
          else if badEntry level e then (.error (xfail 0x02 (walkDetail level (some e))), s)
          else
            let lines := lines ++ [lineOf pa]
            if bits (w64 e) 3 1 != 0 then
              -- the aligned group of 32 entries lies in two lines (R121)
              let group := lineOf (table + 8 * (ix / 32 * 32))
              let other := if lineOf pa = group then group + 1 else group
              let l := leafOf level e va lines other
              (.ok l, if l.log2 = 21 then s.watchLine other core else s)
            else s.walkFrom core va (level + 1) (bits (w64 e) 51 16 * 65536) lines fuel

/-- A whole walk for a context (R116, R117): an invalid context entry translates nothing. -/
def State.walk (s : State) (core : CoreId) (ctx : BitVec 16) (va : Word) : Except XFault Leaf × State :=
  match s.ctxReady ctx with
  | (some w, s) => (.error (xwait w), s)
  | (none, s) =>
    match s.ctxEntry ctx with
    | none => (.error (xfail 0x01 0), s)
    | some c => s.walkFrom core va 0 c.root [] 3

/-- What a walk found, as the event of its end carries it (R123). -/
def walkResult : Except XFault Leaf → WalkResult
  | .ok l => .leaf l.pbase l.bits l.log2
  | .error f => .fail f.cause f.detail

/-- Whether a TLB entry matches (R123). -/
def TlbEntry.hits (e : TlbEntry) (slot : Nat) (ctx : BitVec 16) (va : Word) : Bool :=
  e.slot == slot && (e.leaf.getLsbD 5 || e.ctx == ctx) && va.toNat / 2 ^ e.log2 == e.vbase / 2 ^ e.log2

/-- The translation that an entry gives. -/
def TlbEntry.asLeaf (e : TlbEntry) : Leaf := ⟨e.pbase, e.leaf, e.log2, e.lines⟩

/-- A TLB takes an entry; the least recently used one leaves a full TLB (R123). -/
def Core.tlbInsert (e : TlbEntry) (k : Core) : Core :=
  let rest := if k.tlb.length < Config.tlbEntries then k.tlb else k.tlb.drop 1
  { k with tlb := rest ++ [e] }

/-- An entry that hits becomes the most recently used. -/
def Core.tlbTouch (e : TlbEntry) (k : Core) : Core := { k with tlb := k.tlb.erase e ++ [e] }

/-- The extent that holds an access wholly (R122). -/
def extentFor (xs : List Extent) (va n : Nat) : Option Extent :=
  xs.find? fun x => decide (x.vbase ≤ va ∧ va + n ≤ x.vbase + x.len)

/-- A lookup that finds nothing (R123): a free walker begins the walk, whose end is an event of its own, and the slot waits for
it; while every walker is busy the slot waits for one. -/
def State.startWalk (s : State) (a : Asid) (va : Word) : Except XFault Leaf × State :=
  if Config.walkers ≤ (s.getCore a.core).walks.length then (.error (xwait .walk), s)
  else
    match s.walk a.core a.ctx va with
    | (r, s) =>
      match r with
      | .error f =>
        match f.wait with
        | some w => (.error (xwait w), s)
        | none =>
          (.error (xwait .walk), (s.onCore a.core fun k => { k with walks := k.walks ++ [a.slot] }).later
            (.walkComplete a.core (Fin.ofNat 8 a.slot) va (walkResult r)))
      | .ok _ =>
        (.error (xwait .walk), (s.onCore a.core fun k => { k with walks := k.walks ++ [a.slot] }).later
          (.walkComplete a.core (Fin.ofNat 8 a.slot) va (walkResult r)))

/-- The translation of an address, before the permission checks: an extent, a TLB entry, or what the walk for the
instruction at pc has found; an engine walks at once (R122, R123, R126). -/
def State.lookup (s : State) (a : Asid) (va : Word) (n : Nat) : Except XFault Leaf × State :=
  let k := s.getCore a.core
  let t := s.getThread a.core (Fin.ofNat 8 a.slot)
  if !a.thread then s.walk a.core a.ctx va
  else
    match extentFor t.extents va.toNat n with
    | some x => (.ok ⟨x.pbase + (va.toNat - x.vbase) - va.toNat % 65536, x.leaf, 16, x.lines⟩, s)
    | none =>
      match k.tlb.find? fun e => e.hits a.slot a.ctx va with
      | some e => (.ok e.asLeaf, s.onCore a.core (Core.tlbTouch e))
      | none =>
        match t.walked.find? fun w => w.1 == va.toNat / 65536 with
        | some w => (.error (xfail w.2.1 w.2.2), s)
        | none => s.startWalk a va

/-- The checks of R120 in their order: the cause of the first that fails. -/
def checkLeaf (leaf : BitVec 16) (k : Access) (mode : Mode) : Option Byte :=
  let rd := leaf.getLsbD 1
  let wr := leaf.getLsbD 2
  let ex := leaf.getLsbD 3
  let us := leaf.getLsbD 4
  let ac := leaf.getLsbD 6
  let dt := leaf.getLsbD 7
  let perm : Option Byte := match k with
    | .load => if rd then none else some 0x03
    | .store | .tdecl => if wr then none else some 0x04
    | .atomic => if !rd then some 0x03 else if !wr then some 0x04 else none
    | .fetch => if ex then none else some 0x05
  match perm with
  | some c => some c
  | none =>
    let priv := match mode, k with
      | .user, _ => us
      | .supervisor, .fetch => !us
      | .supervisor, _ => true
    let writes := match k with
      | .store | .tdecl | .atomic => true
      | .load | .fetch => false
    if !priv then some 0x06
    else if !ac then some 0x07
    else if writes && !dt then some 0x08
    else if k == .tdecl && !leaf.getLsbD 11 then some 0x0A
    else none

/-- A translated byte range: its physical address and the leaf bits. -/
structure Phys where
  pa : Nat
  leaf : BitVec 16
  deriving DecidableEq, Repr

/-- MT = 1: uncached (R118). -/
def Phys.uncached (p : Phys) : Bool := p.leaf.getLsbD 8

/-- HC: host-coherent (R66). -/
def Phys.hc (p : Phys) : Bool := p.leaf.getLsbD 10

/-- Translation of one page of an access (R116 to R120). -/
def State.xlate (s : State) (a : Asid) (va : Word) (n : Nat) (k : Access) : Except XFault Phys × State :=
  if !canonical va then (.error (xfail 0x09 0), s)
  else
    match s.lookup a va n with
    | (.error f, s) => (.error f, s)
    | (.ok l, s) =>
      match checkLeaf l.bits k a.mode with
      | some c => (.error (xfail c 0), s)
      | none => (.ok ⟨l.pbase + va.toNat % 2 ^ l.log2, l.bits⟩, s)

/-- The pieces of an access of `n` bytes, one for each 64 KiB page it touches: a failure on either fails it (R303). -/
def State.xlateSpan (s : State) (a : Asid) (va : Word) (n : Nat) (k : Access) : Except XFault (List (Phys × Nat)) × State :=
  let room := 65536 - va.toNat % 65536
  if n ≤ room then
    match s.xlate a va n k with
    | (.error f, s) => (.error f, s)
    | (.ok p, s) => (.ok [(p, n)], s)
  else
    match s.xlate a va room k with
    | (.error f, s) => (.error f, s)
    | (.ok p, s) =>
      match s.xlate a (va + w64 room) (n - room) k with
      | (.error f, s) => (.error f, s)
      | (.ok q, s) => (.ok [(p, room), (q, n - room)], s)

end Sys2Proof.Machine
end

