-- ==== Sys2Proof/Machine/Access.lean ====
section
/-! DEFINITION. A thread's accesses to memory: pool accesses with the undo log (R142, R215), staging and its drain (R142,
R143), loads with the thread's own stores ahead of memory (R150, R157), stores on their way and their performance (R90,
R161), remote accesses (R13, R66, R147), releases (R159, R161) and remote-fault records (R140). -/

namespace Sys2Proof.Machine

/-! Threads by dispatch number, in a slot or in a save area (R175). -/

/-- The thread with a dispatch number changed, wherever it is on its core. -/
def Core.onTid (k : Core) (tid : Nat) (f : Thread → Thread) : Core :=
  { k with
    slots := k.slots.map fun t => if t.order == tid && t.status != .empty then f t else t
    saves := k.saves.map fun v => if v.thread.order == tid then { v with thread := f v.thread } else v }

/-- The thread with a dispatch number changed. -/
def State.onTid (s : State) (core : CoreId) (tid : Nat) (f : Thread → Thread) : State :=
  s.onCore core fun k => k.onTid tid f

/-- The slot number of a thread by its dispatch number. -/
def Core.slotOfTid (k : Core) (tid : Nat) : Nat :=
  ((List.range 8).find? fun i => match k.slots[i]? with
    | some t => t.order == tid && t.status != .empty
    | none => false).getD 0

/-- A parked thread whose wait satisfies a test runs its instruction again. -/
def Thread.retryIf (p : Wait → Bool) (t : Thread) : Thread :=
  match t.status with
  | .parked w => if p w then { t with status := .ready } else t
  | _ => t

/-- Every parked thread whose wait satisfies a test runs its instruction again. -/
def State.retry (s : State) (p : Wait → Bool) : State := s.mapThreads fun _ _ t => t.retryIf p

/-- The slots whose threads are parked in a wait that satisfies a test, in the order in which their instructions issued. -/
def State.waiters (s : State) (p : Wait → Bool) : List (CoreId × Fin 8) :=
  (sortBy (·.1) (s.coreList.flatMap fun c => (List.finRange 8).filterMap fun sl =>
    let t := s.getThread c sl
    match t.status with
    | .parked w => if p w then some (t.since, c, sl) else none
    | _ => none)).map (·.2)

/-- The home at which a wait takes a holding entry (R36). -/
def Wait.home : Wait → Option Nat
  | .bisnp h => some (homeOf (64 * h))
  | .tile pb => some (homeOf pb)
  | _ => none

/-- A wait for which a home of a list has had no holding entry free (R36): no entry stands for it. -/
def State.unentered (s : State) (homes : List Nat) (w : Wait) : Bool :=
  (w.home.any homes.contains) && !(s.holdings.any fun h => h.wait == w)

/-- What held requests at a home is over: their holding entries are free, and they are served in order of arrival, ahead of new
ones (R36, R90, R100); then those that found no entry free run again. -/
def State.serveHeld (s : State) (p : Wait → Bool) : State :=
  let homes := (s.holdings.filter fun h => p h.wait).map (·.home)
  let q := s.waiters p ++ s.waiters fun w => !p w && s.unentered homes w && !(s.bisnps.any fun b => w == .bisnp b.1)
  let s := s.retry fun w => p w || (s.unentered homes w && !(s.bisnps.any fun b => w == .bisnp b.1))
  { s with
    holdings := s.holdings.filter fun h => !p h.wait
    rerun := s.rerun ++ q.filter (!s.rerun.contains ·) }

/-! Staging (R142, R143). -/

/-- Whether the current thread's checkpoint is open: its stores are then held in staging. -/
def State.ckptOpen (s : State) : Bool := ((s.team.map fun t => t.ckpt.isOpen)).getD false

/-- The dispatch numbers of a team's threads. -/
def Core.tidsOf (k : Core) (team : Nat) : List Nat :=
  (k.slots.toList.filter fun t => t.status != .empty && t.team == team).map (·.order) ++
    (k.saves.filter fun v => v.thread.team == team).map (·.thread.order)

/-! Requests that leave the core (R31, R35, R67). -/

/-- The request that a response answers (R31). -/
def State.requestOf (s : State) (core : CoreId) (tag : BitVec 10) : Option Outstanding :=
  s.outstanding.find? fun o => o.core == core && o.tag == tag.toNat

/-- Whether the host die has taken the host line of an address for one atomic, so that other requests for it wait (R313). -/
def State.hostTaken (s : State) (pa : Nat) : Bool := s.outstanding.any fun o => o.amo.isSome && lineOf o.pa == lineOf pa

/-- Whether what lies behind some bytes of the package answers: an access to lost memory fails, one to dies that do not answer
waits (R55, R56). -/
def State.reach (s : State) (pa n : Nat) : Served Unit :=
  if s.lostAt pa || s.lostAt (pa + n - 1) then .fail 0x13
  else if s.heldBySplit pa || s.heldBySplit (pa + n - 1) then .wait .split
  else .done ()

/-- Whether a core has a free response slot for a request, and the port of a host line takes another, for a line that is not
taken and whose home answers (R35, R56, R67, R313). -/
def State.canSend (s : State) (core : CoreId) (pa : Nat) : Bool :=
  decide ((((s.outstanding.filter fun o => o.core == core && !o.fill).map (·.tag)).eraseDups).length <
      (if isCmd core then Config.respCmd else Config.respCore)) &&
    (!s.isLocal pa || regionOf pa != .host || (s.portRoom pa && !s.hostTaken pa && !s.heldBySplit pa))

/-- Whether the home of a host line has a free response slot for a fill, and the port takes another (R35, R66, R67). -/
def State.fillRoom (s : State) (pa : Nat) : Bool :=
  let die := homeOf pa
  decide ((s.outstanding.filter fun o => o.fill && homeOf o.pa == die).length + (s.bisnps.filter fun b => homeOf (64 * b.1) == die).length
      < Config.respHome) && s.portRoom pa && !s.hostTaken pa

/-- A request for a host line goes to its port (R67); while no port is up it is answered at once as a lost host link (R68,
log 74). -/
def State.hostRequest (s : State) (o : Outstanding) (kind : CxlReq) (n : Nat) (data : Option (BitVec 512)) : State :=
  match s.hostPort o.pa with
  | none => ({ s with outstanding := s.outstanding ++ [o] }).later (.errorResponseArrival o.core (BitVec.ofNat 10 o.tag) 0x12)
  | some p =>
    ({ s with outstanding := s.outstanding ++ [{ o with port := some p }] }).out
      (match data with
       | some d => .cxlWrite kind p (hostAddr o.pa) n d
       | none => .cxlRead kind p (hostAddr o.pa) n)

/-- A line kept under HC = 1 is obtained by its home, as the home's agent 36, for an access of `n` bytes at `pa` that lacks it
(R31, R66): what the access waits for, or nothing when the home has it as needed. `asker` and `tid` are the core and thread
that keep a failure; 0 is no thread. -/
def State.obtain (s : State) (asker : CoreId) (tid : Nat) (engine : Option Nat) (pa n : Nat) (own : Bool) : Option Wait × State :=
  let lacks := fun h => if own then !s.ownsHost (64 * h) else (mapGet s.hostLines h).isNone
  match [halfOf pa, halfOf (pa + n - 1)].find? lacks with
  | none => (none, s)
  | some h =>
    let at' := if lineOf pa = h / 2 then pa else pa + n - 1
    if s.outstanding.any fun o => o.fill && lineOf o.pa == h / 2 then (some (.hostLine (h / 2)), s)
    else if !s.fillRoom at' then (some .slot, s)
    else
      let home := homeAgent at'
      let o : Outstanding :=
        { core := home, tag := s.freeTag home, tid := tid, pa := at', n := n, pkg := pkgOf at', plane := none, write := none,
          fill := true, engine := engine, nearDone := true, devDone := true, owns := own, asker := asker }
      (some (.hostLine (h / 2)), s.hostRequest o (if own then .rdOwn else .rdShared) 128 none)

/-- The header of a request to another package (R31). -/
def State.reqHead (s : State) (core : CoreId) (tag vn pkg : Nat) (kind : MsgKind) (n addr : Nat) : MsgHead where
  dst := (s.gatewayOf core pkg vn).val
  src := sockOf core
  agent := agentOf core
  tag := tag
  part := 0
  kind := kind
  n := n
  addr := addr

/-- The number by which the dispatch unit's requests are known among an engine's. -/
def dispatchId : Nat := 2 ^ 64

/-- The virtual network of a request (R33): copy payloads and collective chunks are bulk data on network 3, and every other
request, the reads of an engine too, is on network 0. -/
def Outstanding.vn (o : Outstanding) : Nat :=
  match o.engine with
  | some id => if id < dispatchId ∧ (o.write.isSome ∨ o.n = 0) then 3 else 0
  | none => 0

/-- A request for another package enters the viaduct (R33, R41, R50): it is answered at once when no edge to the package is
live; else its messages leave its socket on their network, in order, and the gateway takes it when the last has left. -/
def State.enterGateway (s : State) (o : Outstanding) : State :=
  let vn := o.vn
  let s := { s with outstanding := s.outstanding ++ [o] }
  if (s.livePlanes o.pkg).isEmpty then
    s.later (.errorResponseArrival o.core (BitVec.ofNat 10 o.tag) 0x10)
  else
    let ev : Instr := .gatewayRequest o.core (BitVec.ofNat 10 o.tag) (BitVec.ofNat 8 o.pkg) (Fin.ofNat 4 vn)
    let k : Fin 24 := Fin.ofNat 24 (sockOf o.core)
    match o.msgs.reverse with
    | [] => s.later ev
    | m :: r => (r.reverse.foldl (fun s q => s.linkSend k vn q none) s).linkSend k vn m (some ev)

/-! Courier messages that the hardware builds (R147). -/

/-- Bytes of a store in a courier message, by the stores of the restricted set: offset, log2 of the width, data (R396). -/
def storeChunks : Nat → Nat → Nat → Nat → List (Nat × Nat × Nat)
  | 0, _, _, _ => []
  | fuel + 1, off, n, v =>
    if n = 0 then []
    else
      let k := if 8 ≤ n then 3 else if 4 ≤ n then 2 else if 2 ≤ n then 1 else 0
      (off, k, v % 256 ^ (2 ^ k)) :: storeChunks fuel (off + 2 ^ k) (n - 2 ^ k) (v / 256 ^ (2 ^ k))

/-- The chunks of some stores of one page, in order. -/
def chunksOf (ws : List WriteMsg) : List (Nat × Nat × Nat) :=
  ws.flatMap fun w => storeChunks 16 (w.pa % 65536) w.n w.data.toNat

/-- Whether stores fit one message (R147, R396): at most four instructions, all in the lower half of one page, whose addresses
count from m1; or at most three anywhere in it, whose addresses count from m7. -/
def courierFits (ws : List WriteMsg) : Bool :=
  let cs := chunksOf ws
  ws.all (fun w => w.amo.isNone && w.courier.isNone && some (w.pa / 65536) == (ws.head?.map fun q => q.pa / 65536)) &&
    (decide (cs.length ≤ 3) || (decide (cs.length ≤ 4) && cs.all fun c => decide (c.1 < 0x8000)))

/-- The instruction word of an atomic in a courier message (R396): its address in m7, its operand in m4, the expected value of
CAS in m5, to which the old value goes where one returns (log 21). -/
def courierAtomic (ret : Bool) (op : Nat) : Nat :=
  0x24 * 2 ^ 26 + (if ret ∨ op = 10 then 5 * 2 ^ 21 else 0) + 7 * 2 ^ 16 + 4 * 2 ^ 11 + 4 * 64 + op

/-- The header and page of a message of a core's slot. -/
def State.courierHead (s : State) (core : CoreId) (slot : Nat) (ctx : BitVec 16) (ret : Bool) (page : Nat) : Courier where
  spkg := s.pkgid
  ssock := BitVec.ofNat 5 (sockOf core)
  score := BitVec.ofNat 6 (siteOf core)
  slot := BitVec.ofNat 3 slot
  ctx := ctx
  ni := 0
  ret := ret
  rsel := if ret then 5 else 0
  auto := true
  page := page
  words := 0
  m4 := 0
  m5 := 0
  m6 := 0
  m7 := 0

/-- The message of one atomic (R147). -/
def State.courierAmo (s : State) (core : CoreId) (slot : Nat) (ret : Bool) (w : WriteMsg) (op : Nat) (exp : Word) : Courier :=
  { s.courierHead core slot w.ctx ret (w.pa / 65536 * 65536) with
    words := BitVec.ofNat 128 (courierAtomic ret op), m4 := w.data.setWidth 64, m5 := exp, m7 := w64 w.pa }

/-- The message of some stores: the data in m4 upward (R147, R396). -/
def State.courierStores (s : State) (core : CoreId) (slot : Nat) (ws : List WriteMsg) : Courier :=
  match ws with
  | [] => s.courierHead core slot 0 false 0
  | w :: _ =>
    let cs := chunksOf ws
    let page := w.pa / 65536 * 65536
    let low := cs.all fun c => decide (c.1 < 0x8000)
    let word := fun (i : Nat) (c : Nat × Nat × Nat) =>
      (0x1D + c.2.1) * 2 ^ 26 + (4 + i) * 2 ^ 21 + (if low then 1 * 2 ^ 16 + c.1 else 7 * 2 ^ 16 + (c.1 + 0x8000) % 65536)
    let d := fun i => w64 (((cs[i]?).map fun c => c.2.2).getD 0)
    { s.courierHead core slot w.ctx false page with
      ni := BitVec.ofNat 2 (cs.length - 1)
      words := BitVec.ofNat 128 ((cs.mapIdx fun i c => word i c * 2 ^ (32 * i)).sum)
      m4 := d 0
      m5 := d 1
      m6 := d 2
      m7 := if low then d 3 else w64 (page + 0x8000) }

/-- The message that one write, or the stores of an open message, travel in. -/
def State.courierOfWrites (s : State) (core : CoreId) (slot : Nat) (ws : List WriteMsg) : Courier :=
  match ws with
  | [w] =>
    match w.courier, w.amo with
    | some c, _ => c
    | none, some (op, exp) => s.courierAmo core slot false w op exp
    | none, none => s.courierStores core slot ws
  | _ => s.courierStores core slot ws

/-- Writes leave for another package in one message (R147): each is outstanding until the message is acknowledged. -/
def State.sendGroup (s : State) (core : CoreId) (tid slot : Nat) (ws : List WriteMsg) : State :=
  match ws with
  | [] => s
  | w :: r =>
    let tag := s.freeTag core
    let pkg := pkgOf w.pa
    let c := s.courierOfWrites core slot ws
    let o : WriteMsg → Outstanding := fun q =>
      { core := core, tag := tag, tid := tid, pa := q.pa, n := q.n, pkg := pkg, plane := none, write := some q, fill := false,
        engine := none, nearDone := false, devDone := false,
        msgs := [(s.reqHead core tag 0 pkg .courier 64 w.pa).slot :: courierSlots c] }
    let s := (s.out (.courier pkg 0 c)).enterGateway (o w)
    { s with outstanding := s.outstanding ++ r.map o }

/-- A write leaves for the host window or another package (R66, R147): it is outstanding until it is acknowledged. For an
atomic in the host window the host die takes the line (R313). -/
def State.sendWrite (s : State) (core : CoreId) (tid slot : Nat) (w : WriteMsg) : State :=
  if s.isLocal w.pa then
    let o : Outstanding :=
      { core := core, tag := s.freeTag core, tid := tid, pa := w.pa, n := w.n, pkg := pkgOf w.pa, plane := none,
        write := some w, fill := false, engine := none, nearDone := false, devDone := false }
    if w.amo.isSome then s.hostRequest { o with amo := some w } .rdOwn 64 none
    else s.hostRequest o .wrCur w.n (some (w.data.setWidth 512))
  else s.sendGroup core tid slot [w]

/-- Whether a write is served inside the package: device memory, a system register, an unassigned offset, or a host line
kept under HC = 1 (R66, R84). -/
def State.servedHere (s : State) (w : WriteMsg) : Bool :=
  s.isLocal w.pa && (regionOf w.pa != .host || w.leaf.getLsbD 10)

/-- A write waits with its core: it travels inside the package, or it has no response slot yet (R35). -/
def State.enqueueWrite (s : State) (core : CoreId) (p : Pending) : State :=
  (s.onCore core fun k => { k with inflight := k.inflight ++ [p] }).later (.homeLineStore core 0)

/-- The threads of a core whose open message is 2,048 cycles old: it is closed (R147, log 21). -/
def Core.overdue (k : Core) : List Nat :=
  ((k.slots.toList ++ k.saves.map (·.thread)).filter fun t => !t.packing.isEmpty && decide (t.packedAt + 2048 ≤ k.cycle)).map
    (·.order)

/-- The thread with a dispatch number, in its slot or in a save area. -/
def State.threadOf (s : State) (core : CoreId) (tid : Nat) : Thread :=
  let k := s.getCore core
  ((k.saves.find? fun v => v.thread.order == tid).map (·.thread)).getD (s.getThread core (Fin.ofNat 8 (k.slotOfTid tid)))

/-- The open message of a thread is closed and leaves; without a response slot its stores wait (R35, R147). -/
def State.closeMsg (s : State) (core : CoreId) (tid : Nat) : State :=
  match (s.threadOf core tid).packing with
  | [] => s
  | w :: r =>
    let s := s.onTid core tid fun t => { t with packing := [] }
    if s.canSend core w.pa then s.sendGroup core tid ((s.getCore core).slotOfTid tid) (w :: r)
    else (w :: r).foldl (fun s q => s.enqueueWrite core ⟨tid, q, false⟩) s

/-- Whether a write that leaves the package must wait: its core has no response slot, or an earlier one to the same place
waits (R34, R35). -/
def State.mustQueue (s : State) (core : CoreId) (w : WriteMsg) : Bool :=
  !s.canSend core w.pa || (s.isLocal w.pa && s.lostAt w.pa) || (s.getCore core).inflight.any fun q => !s.servedHere q.msg && pkgOf q.msg.pa == pkgOf w.pa

/-- A write that leaves its thread: it travels inside the package, joins the thread's open message or begins one, or leaves
at once (R147). -/
def State.issueWrite (s : State) (core : CoreId) (slot : Nat) (p : Pending) : State :=
  if s.servedHere p.msg then s.enqueueWrite core p
  else if s.isLocal p.msg.pa then
    if s.mustQueue core p.msg then s.enqueueWrite core p else s.sendWrite core p.tid slot p.msg
  else
    let ws := (s.threadOf core p.tid).packing ++ [p.msg]
    if 1 < ws.length && courierFits ws then s.onTid core p.tid fun t => { t with packing := ws }
    else
      let s := s.closeMsg core p.tid
      if s.mustQueue core p.msg then s.enqueueWrite core p
      else if courierFits [p.msg] then
        let now := (s.getCore core).cycle
        s.onTid core p.tid fun t => { t with packing := [p.msg], packedAt := now }
      else s.sendWrite core p.tid slot p.msg

/-- Staging drains and seals the checkpoint of a team (R143). -/
def State.sealOf (s : State) (core : CoreId) (team : Nat) : State :=
  let k := s.getCore core
  let tids := k.tidsOf team
  let mine := k.staging.filter fun p => tids.contains p.tid
  let s := s.onCore core fun k =>
    { k.onTeam team (fun t => { t with ckpt := { t.ckpt with isOpen := false } }) with
      staging := k.staging.filter fun p => !tids.contains p.tid
      stagedAt := mapErase k.stagedAt team }
  let s := mine.foldl (fun s p => s.issueWrite core (k.slotOfTid p.tid) p) s
  tids.foldl (fun s tid => s.closeMsg core tid) s

/-- Staging of the current thread's team drains (R143). -/
def State.seal (s : State) : State := if isCmd s.loc then s else s.sealOf s.loc s.th.team

/-! The pool (R214, R215). -/

/-- The scratchpad that the current thread reaches. -/
def State.pool (s : State) : Memory := if isCmd s.loc then s.core.pool else ((s.team.map (·.pool))).getD []

/-- `n` bytes of the scratchpad as a number. -/
def State.poolRead (s : State) (o n : Nat) : Nat := memRead s.pool o n

/-- The undo log of a team in bytes (R142): 16 for each sector, 16 KiB for each accumulator tile. -/
def Checkpoint.undoBytes (c : Checkpoint) : Nat := 16 * c.undo.length + 16384 * c.undoAcc.length

/-- The sectors of a write whose old contents the undo log does not hold yet (R142). -/
def Team.newUndo (t : Team) (o n : Nat) : List (Nat × BitVec 128) :=
  (sectorsOf o n).filterMap fun q =>
    if t.ckpt.undo.any fun u => u.1 == q then none else some (q, BitVec.ofNat 128 (memRead t.pool (16 * q) 16))

/-- A team's scratchpad written, with the undo log of an open checkpoint. -/
def Team.poolWrite (t : Team) (o n v : Nat) : Team :=
  let ck := if t.ckpt.isOpen && decide (0 < n) then { t.ckpt with undo := t.ckpt.undo ++ t.newUndo o n } else t.ckpt
  { t with pool := memWrite t.pool o n v, ckpt := ck }

/-- A scratchpad of a core written by a team's thread or by an engine; a full undo log seals first (R143). -/
def State.poolWriteOf (s : State) (core : CoreId) (team o n v : Nat) : State :=
  if isCmd core then s.onCore core fun k => { k with pool := memWrite k.pool o n v }
  else
    let full := (s.getCore core).teams.any fun t =>
      t.id == team && t.ckpt.isOpen &&
        decide (Config.undoBytes < { t.ckpt with undo := t.ckpt.undo ++ t.newUndo o n : Checkpoint }.undoBytes)
    let s := if full then s.sealOf core team else s
    s.onCore core fun k => k.onTeam team fun t => t.poolWrite o n v

/-- The current thread's scratchpad written. -/
def State.poolWrite (s : State) (o n v : Nat) : State := s.poolWriteOf s.loc s.th.team o n v

/-- An access to the scratchpad at or beyond its end takes the pool-range trap (R215); XVAL is the first offset out of
range (R379). -/
def guardPool (o n : Nat) (k : State → State) (s : State) : State :=
  if o + n ≤ s.spBytes then k s else s.trap 0x04 (w64 (max o s.spBytes))

/-- Natural alignment (R304); XVAL is the address or offset (R379). -/
def guardAlign (a n : Nat) (k : State → State) (s : State) : State :=
  if a % n = 0 then k s else s.trap 0x05 (w64 a)

/-! Stores. -/

/-- A write counts on the three counters of its thread (R161), and takes its place in the order of issue (R34). -/
def State.countWrite (s : State) : State :=
  ({ s with issued := s.issued + 1 }).onTh fun t => { t with near := t.near + 1, dev := t.dev + 1, hst := t.hst + 1 }

/-- One piece of a store leaves the thread: into staging while the checkpoint is open, else on its way (R142); a full
staging area drains first (R143). -/
def State.storePiece (s : State) (w : WriteMsg) : State :=
  let p : Pending := ⟨s.th.order, { w with seq := s.issued }, false⟩
  let s := s.countWrite
  if s.ckptOpen then
    let used := (s.core.staging.map fun p => p.msg.n).sum
    if used + w.n ≤ Config.stagingBytes then
      s.onHere fun k => { k with
        staging := k.staging ++ [p]
        stagedAt := if (mapGet k.stagedAt s.th.team).isSome then k.stagedAt else mapSet k.stagedAt s.th.team k.cycle }
    else s.seal.issueWrite s.loc s.slot p
  else s.issueWrite s.loc s.slot p

/-- The pieces of a store, lowest first. -/
def State.storePieces (s : State) (va : Word) (v : Nat) : List (Phys × Nat) → State
  | [] => s
  | (p, n) :: r =>
    let w : WriteMsg :=
      { va := va, pa := p.pa, n := n, data := BitVec.ofNat 128 (v % 256 ^ n), leaf := p.leaf, amo := none,
        pc := s.th.pc, ctx := s.th.ctx, courier := none }
    (s.storePiece w).storePieces va (v / 256 ^ n) r

/-! Remote-fault records (R140). -/

/-- The entry of a write that failed: REMOTE and WRITE set, FPC the store. -/
def State.remoteEntry (s : State) (core : CoreId) (slot : Nat) (task : BitVec 32) (sup : Nat) (cause : Byte) (w : WriteMsg) :
    FaultEntry where
  cause := cause
  stat := 0
  remote := true
  write := true
  notask := false
  ctx := w.ctx
  fva := w.va
  fpc := w.pc
  rpc := w.pc
  pkg := s.pkgid
  sock := BitVec.ofNat 5 (sockOf core)
  core := BitVec.ofNat 6 (siteOf core)
  slot := BitVec.ofNat 3 slot
  pa := w.pa
  detail := 0
  task := task
  sup := sup
  seq := w.seq

/-- The counting command core of a thread of a core. -/
def State.supFor (s : State) (core : CoreId) (t : Thread) : Nat :=
  if isCmd core then cmdNo core else ((s.launchAt t.lh).map (·.sup)).getD 0

/-- A write failed after it left its thread (R140): its entry is written, or held by the die that found it, and the origin
keeps the record with the store's message; `near` tells whether a near-level release covers it. Where the queue is full the
entry waits in that die's notice store: for an error response's that is the origin's own, which the rule does not say (log 84). -/
def State.writeFailedOn (s : State) (core : CoreId) (tid die : Nat) (near : Bool) (cause : Byte) (w : WriteMsg) : State :=
  let t := s.threadOf core tid
  let e := s.remoteEntry core ((s.getCore core).slotOfTid tid) (if t.kind = .strand then 0 else t.task) (s.supFor core t) cause w
  match s.noticeIx die e with
  | (ix, s) => s.onTid core tid fun t => { t with
      records := t.records ++ [{ cause := cause, write := w, index := ix, onDie := near, tid := some tid }] }

/-- A write that fails on a die: the issuing die's own failures are known in it, unless the write's near count has ended in
the die's egress (R140). -/
def State.writeFailed (s : State) (core : CoreId) (tid die : Nat) (cause : Byte) (w : WriteMsg) (left : Bool := false) : State :=
  s.writeFailedOn core tid die (die == sockOf core && !left) cause w

/-- The counts of a write end (R161). -/
def Thread.endWrite (nearDone devDone hstDone : Bool) (t : Thread) : Thread :=
  { t with
    near := if nearDone then t.near else t.near - 1
    dev := if devDone then t.dev else t.dev - 1
    hst := if hstDone then t.hst else t.hst - 1 }

/-! Atomics (R167, R311). -/

/-- Bytes of an atomic by its minor code (R311). -/
def amoWidth (op : Nat) : Nat := if op = 1 ∨ op = 11 ∨ op = 12 then 4 else 8

/-- The new value of an atomic (R311): minor code, old value, operand b, and the expected value of CAS. -/
def amoNew (op old b exp : Nat) : Nat :=
  let lt := decide (sint old 64 < sint b 64)
  match op with
  | 0 => (old + b) % 2 ^ 64
  | 1 => (old + b) % 2 ^ 32
  | 2 => old &&& b
  | 3 => old ||| b
  | 4 => old ^^^ b
  | 5 => if lt then old else b
  | 6 => if lt then b else old
  | 7 => min old b
  | 8 => max old b
  | 9 => b
  | 10 => if old = exp then b else old
  | 11 => fp32.rne ((fp32.decode old).add (fp32.decode (b % 2 ^ 32)))
  | _ => fp32.rne ((fp32.decode old).max (fp32.decode (b % 2 ^ 32)))

/-- The value that an atomic returns (R311): ADDW sign-extends. -/
def amoOld (op old : Nat) : Word := if op = 1 then w64i (sint old 32) else w64 old

/-- An atomic on device memory is performed where R167 places it: no other access comes between its read and its write; it
writes part of its sector only, so that a poisoned one fails it (R112). A `wide` one, of a scope beyond `.gang`, is performed in the
holder's die cache or at the home, and the core cache keeps nothing of it. -/
def State.atomicDev (s : State) (src : Source) (pa op b exp : Nat) (wide : Bool := true) : Served Nat × State :=
  let n := amoWidth op
  let old := s.physRead pa n
  match s.serialise src pa n (amoNew op old b exp) with
  | (.done _, s) => (.done old, if wide then s.leaveCore src.core (linesOf pa n) else s)
  | (.wait w, s) => (.wait w, s)
  | (.fail c, s) => (.fail c, s)

/-! Performing a write. -/

/-- One write on its way is performed where it is serialised (R90, R100, R150). `asker` is the thread that waits for its
outcome, or 0. -/
def State.performMsg (s : State) (core : CoreId) (tid : Nat) (w : WriteMsg) (asker : Nat := 0) : Served Unit × State :=
  match regionOf w.pa with
  | .sysreg =>
    match s.reach w.pa w.n, mregAt (w.pa % 0x100000000000) w.n, w.amo with
    | .wait x, _, _ => (.wait x, s)
    | .done _, some r, none => (.done (), s.writeMReg false r (w.data.setWidth 64))
    | _, _, _ => (.fail 0x13, s)
  | .unassigned => (.fail 0x13, s)
  | .lpddr | .near =>
    let src : Source := ⟨core, tid, w.ctx, !isCmd core && !w.leaf.getLsbD 8⟩
    match w.amo with
    | none => s.serialise src w.pa w.n w.data.toNat
    | some (op, exp) =>
      match s.atomicDev src w.pa op w.data.toNat exp.toNat w.wide with
      | (.done _, s) => (.done (), s)
      | (.wait x, s) => (.wait x, s)
      | (.fail c, s) => (.fail c, s)
  | .host =>
    match s.reach w.pa w.n with
    | .fail c => (.fail c, s)
    | .wait x => (.wait x, s)
    | .done _ =>
      -- a host line under HC = 1 is written once its home owns it (R66)
      match s.obtain core asker none w.pa w.n true with
      | (some x, s) => (.wait x, s)
      | (none, s) =>
        if s.mustClean w.pa w.n w.ctx && !s.portRoom w.pa then (.wait .slot, s)
        else
        let v := match w.amo with
          | none => w.data.toNat
          | some (op, exp) => amoNew op (memRead s.mem w.pa w.n) w.data.toNat exp.toNat
        let s := (s.dirtyHost w.pa w.n w.ctx).storeBytes ⟨core, tid, w.ctx, false⟩ w.pa w.n v
        (.done (), (linesOf w.pa w.n).foldl State.trigger s)

/-- The die that finds out whether a write can be performed: its line's holder, or its home. -/
def State.findsOut (s : State) (pa : Nat) : Nat :=
  match (s.lineAt (lineOf pa)).held with
  | some h => h
  | none => homeOf pa

/-- A write leaves the core's list. -/
def State.unqueue (s : State) (core : CoreId) (p : Pending) : State :=
  s.onCore core fun k => { k with inflight := k.inflight.erase p }

/-- One write of a core's list: performed in the package, or sent out of it once a response slot is free; a held one stays.
The answer says whether it left. -/
def State.performOne (s : State) (core : CoreId) (p : Pending) : Served Unit × State :=
  if s.servedHere p.msg then
    let gone := fun (s : State) => (s.unqueue core p).onTid core p.tid (Thread.endWrite p.near false false)
    match s.performMsg core p.tid p.msg with
    | (.done _, s) => (.done (), gone s)
    | (.wait w, s) => (.wait w, s)
    | (.fail c, s) => (.done (), (gone s).writeFailed core p.tid (s.findsOut p.msg.pa) c p.msg p.near)
  else if s.isLocal p.msg.pa && s.lostAt p.msg.pa then
    (.done (), ((s.unqueue core p).onTid core p.tid (Thread.endWrite p.near false false)).writeFailed core p.tid
      (homeOf p.msg.pa) 0x13 p.msg p.near)
  else if s.canSend core p.msg.pa then
    (.done (), (s.unqueue core p).sendWrite core p.tid ((s.getCore core).slotOfTid p.tid) p.msg)
  else (.wait .slot, s)

/-- Writes of cores' lists, in order, up to one that is held. -/
def State.performSeq (s : State) : List (CoreId × Pending) → Served Unit × State
  | [] => (.done (), s)
  | q :: r =>
    match s.performOne q.1 q.2 with
    | (.done _, s) => s.performSeq r
    | x => x

/-- The writes of a socket that a test selects, in the order in which they were issued. -/
def State.socketWrites (s : State) (sock : Nat) (p : Pending → Bool) : List (CoreId × Pending) :=
  sortBy (fun q => q.2.msg.seq) ((s.coreList.filter fun c => sockOf c == sock).flatMap fun c =>
    ((s.getCore c).inflight.filter p).map fun q => (c, q))

/-- Whether two writes travel to one place by one way (R34): to one 64 KiB region. -/
def sameWay (a b : Nat) : Bool := a / 65536 == b / 65536

/-- The writes that go ahead of one (R34): those of its source socket and region that were issued earlier. -/
def State.olderWrites (s : State) (core : CoreId) (p : Pending) : List (CoreId × Pending) :=
  s.socketWrites (sockOf core) fun q => decide (q.msg.seq < p.msg.seq) && sameWay q.msg.pa p.msg.pa

/-- A write on its way is performed behind those that go ahead of it (R34). -/
def State.perform (s : State) (core : CoreId) (p : Pending) : Served Unit × State :=
  match s.performSeq (s.olderWrites core p) with
  | (.done _, s) => s.performOne core p
  | x => x

/-- A read of a core follows the writes of its socket to the same region that have entered the die's egress (R34, R161). -/
def State.settle (s : State) (core : CoreId) (pa : Nat) : Served Unit × State :=
  s.performSeq (s.socketWrites (sockOf core) fun q => q.near && sameWay q.msg.pa pa)

/-- Writes on their way performed in order, up to one that is held. -/
def State.performAll (s : State) (core : CoreId) : List Pending → Served Unit × State
  | [] => (.done (), s)
  | p :: r =>
    match s.perform core p with
    | (.done _, s) => s.performAll core r
    | x => x

/-! Scopes and releases. -/

/-- A doubleword of a 128-byte entry of a scope table. -/
def scopeWord (tab : List Byte) (sc k : Nat) : Word := w64 (ofBytes ((tab.drop (128 * (sc - 8) + 8 * k)).take 8))

/-- A byte of an entry. -/
def scopeByte (tab : List Byte) (sc k : Nat) : Byte := (tab[128 * (sc - 8) + k]?).getD 0

/-- The logical cores of an entry (R153). -/
def scopeCores (tab : List Byte) (sc : Nat) : List Nat :=
  (List.range 576).filter fun n => (scopeWord tab sc (n / 64)).getLsbD (n % 64)

/-- Whether an entry is valid (R153). -/
def State.scopeValid (s : State) (tab : List Byte) (sc : Nat) : Bool :=
  let f := scopeByte tab sc 0x48
  f.getLsbD 0 && f.toNat / 8 == 0 && ((tab.drop (128 * (sc - 8) + 0x4A)).take 0x36).all (· == 0) &&
    (scopeCores tab sc).all fun n => decide (n < s.nlog)

/-- Under what a core keeps a thread's scope table: its launch; for a thread of another package, whose launch is not known here,
its context and the pointer of its travel packet (R154). -/
def Thread.scopeKey (t : Thread) : Nat :=
  if t.lh < awayLaunch then t.lh else awayLaunch + t.ctx.toNat * 2 ^ 64 + t.scopet.toNat

/-- The scope table that the instruction at pc uses: the core's copy (R154), or the one it decoded when it issued (R318). -/
def State.scopeTable (s : State) : Option (List Byte) := s.th.scopeTab.or (mapGet s.core.scopes s.th.scopeKey)

/-- The instruction at pc waits, and keeps the scope table it has decoded (R318). -/
def State.parkScoped (s : State) (w : Wait) : State :=
  (s.onTh fun t => { t with scopeTab := s.scopeTable }).park w

/-- The level of a scope (R155); `none` is local. -/
def State.levelOf (s : State) (sc : ScopeIx) : Option Level :=
  if sc.val = 0 then none
  else if sc.val ≤ 3 then some .near
  else if sc.val ≤ 5 then some .device
  else if sc.val < 8 then some .host
  else if s.th.kind = .strand then some .host
  else
    match s.scopeTable with
    | none => some .host
    | some tab =>
      if !s.scopeValid tab sc then some .host
      else
        let f := scopeByte tab sc 0x48
        let die := sockOf s.loc
        if f.getLsbD 1 then some .host
        else if !f.getLsbD 2 && scopeByte tab sc 0x49 == 0 && !isCmd s.loc &&
            (scopeCores tab sc).all (fun n => (s.logical n).map sockOf == some die) then some .near
        else some .device

/-- Rank of a level: a release waits on every narrower one (R161). -/
def levelRank : Option Level → Nat
  | none => 0
  | some .near => 1
  | some .device => 2
  | some .host => 3

/-- The wider of two levels. -/
def widerLevel (a b : Option Level) : Option Level := if levelRank a < levelRank b then b else a

/-- Whether a write leaves its die toward a holder or a home: no entry of the own die cache takes it (R161). -/
def State.entersEgress (s : State) (core : CoreId) (pa : Nat) : Bool :=
  match s.tileOver pa with
  | some (_, t) => !(t.tstate == .owned && sockOf t.owner == sockOf core)
  | none => (s.lineAt (lineOf pa)).held != some (sockOf core)

/-- A thread's writes up to the end of their near counts (R161): performed, or in the egress of the die, where a held one
waits. -/
def State.nearAll (s : State) (core : CoreId) : List Pending → Served Unit × State
  | [] => (.done (), s)
  | p :: r =>
    match s.perform core p with
    | (.done _, s) => s.nearAll core r
    | (x, s) =>
      if s.servedHere p.msg && s.entersEgress core p.msg.pa then
        ((s.onCore core fun k => { k with
          inflight := k.inflight.map fun q => if q = p then { q with near := true } else q }).onTid core p.tid fun t =>
            if p.near then t else { t with near := t.near - 1 }).nearAll core r
      else (x, s)

/-- The near counts of the thread's writes that have left the die end: they have entered its egress (R161). -/
def State.endNear (s : State) : State :=
  let n := (s.outstanding.filter fun o => o.core == s.loc && o.tid == s.th.order && !o.nearDone).length
  let s := { s with outstanding := s.outstanding.map fun (o : Outstanding) =>
    if o.core == s.loc && o.tid == s.th.order then { o with nearDone := true } else o }
  s.onTh fun t => { t with near := t.near - n }

/-- The drain of a release at a level (R159, R161): staging leaves, the thread's writes are performed, its kills are
acknowledged; `wait` when something outside the core is still owed. -/
def State.drain (s : State) (l : Option Level) : Served Unit × State :=
  let s := s.seal.closeMsg s.loc s.th.order
  let mine := s.core.inflight.filter fun p => p.tid == s.th.order
  if levelRank l = 0 then (.done (), s)
  else
    match (if levelRank l = 1 then s.nearAll s.loc mine else s.performAll s.loc mine) with
    | (.wait w, s) => (.wait w, s)
    | (.fail c, s) => (.fail c, s)
    | (.done _, s) =>
      let s := s.endNear
      if levelRank l = 1 then (.done (), s)
      else
        let s := s.finishKills s.loc s.th.order
        if 0 < s.th.dev then (.wait (.counters .device), s)
        else if levelRank l = 3 ∧ 0 < s.th.hst then (.wait (.counters .host), s)
        else (.done (), s)

/-- The records that a release at a level covers (R140). -/
def coveredRecords (l : Option Level) (rs : List FaultRec) : List FaultRec :=
  match levelRank l with
  | 0 => []
  | 1 => rs.filter (·.onDie)
  | _ => rs

/-- Whether an entry that a die holds is that of a record (R133). -/
def recordHeld (r : FaultRec) (x : FaultEntry) : Bool :=
  x.remote && x.fpc == r.write.pc && x.fva == r.write.va && x.seq == r.write.seq

/-- The entry of a record, held by a die, is written raised when its turn comes (R133). -/
def State.raiseNotice (s : State) (r : FaultRec) : State :=
  let raise' := fun (x : FaultEntry) => if recordHeld r x then { x with stat := 1, rpc := s.th.pc } else x
  { s with notices := s.notices.map fun (p : Nat × Notices) => (p.1, { p.2 with entries := p.2.entries.map raise' }) }

/-- One record is reported at the instruction at pc (R140): its entry is raised, now or when the die that holds it writes it
(R133), or written by the origin. -/
def State.reportRecord (s : State) (r : FaultRec) : State :=
  match r.index with
  | some ix =>
    let s := s.fqStat ⟨r.write.ctx, ix, 1, some s.th.pc, none⟩
    let h : HeldEntry :=
      { ctx := r.write.ctx, index := ix, pc := r.write.pc, load := none, regs := Regs.zero, copy := none, raised := true,
        acked := false, write := some r.write }
    (s.onTh fun t => { t with held := t.held ++ [h] }).faultPolicy ix
  | none =>
    if s.notices.any fun p => p.2.entries.any (recordHeld r) then
      (s.raiseNotice r).onTh fun t => { t with records := t.records ++ [{ r with reported := true }] }
    else
      let e := s.remoteEntry s.loc s.slot (if s.th.kind = .strand then 0 else s.th.task) s.supOf r.cause r.write
      s.raiseNew { e with stat := 1, rpc := s.th.pc } (some r.write) false

/-- Every covered record is reported in store issue order, and the task parks (R140); the entries are counted once all are
written (R406). -/
def State.reportRecords (s : State) (rs : List FaultRec) : State :=
  let s := s.onTh fun t => { t with records := t.records.filter (!rs.contains ·) }
  let s := s.raiseHeld.park .fault
  let before := s.th.held.length
  let s := (sortBy (fun r => r.write.seq) rs).foldl State.reportRecord s
  let s := (List.range (s.th.held.length - before)).foldl (fun s _ => s.fqCount s.supOf s.th.ctx) s
  if (s.fqWait.any fun q => q.core == s.loc && q.slot == s.slot) || s.th.records.any (·.reported) then s.park (.fqSpace s.th.ctx) else s

/-- Whether a scope contains a core of the package (R152, R153). -/
def State.scopeHas (s : State) (sc : ScopeIx) (c : CoreId) : Bool :=
  if sc.val ≤ 3 then sockOf c == sockOf s.loc
  else if sc.val < 8 ∨ s.th.kind = .strand then true
  else
    match s.scopeTable with
    | none => true
    | some tab => !s.scopeValid tab sc || (scopeCores tab sc).any fun n => s.logical n == some c

/-- The current halo sectors of a tile (R96), by sector number. -/
def State.haloOf (s : State) (pb : Nat) (t : Tile) : Map (BitVec 128) :=
  ((t.sectors pb).filter fun pa => t.inHalo pb pa).foldl
    (fun m pa => mapSet m (pa / 16) (BitVec.ofNat 128 (s.physRead pa 16))) []

/-- The halo of a tile pushed to one die, unless the die holds it already or a push of it is on its way (R102): its lines are
entries of that die's cache, whose cores keep no older copy (R87). -/
def State.pushTo (s : State) (pb : Nat) (q : Map (BitVec 128)) (die : Nat) : State :=
  if s.replicas.any fun r => r.pbase == pb && r.die == die && r.sectors == q then s
  else
    let rest := s.replicas.filter fun r => !(r.pbase == pb && r.die == die)
    let ls := (q.map fun x => x.1 / 8).eraseDups
    let s := (ls.foldl State.uncache { s with replicas := rest ++ [{ pbase := pb, die := die, sectors := q, pushed := true : Replica }] }).later
      (.haloPushAck pb (Fin.ofNat 16 die))
    ls.foldl (fun s l => s.dieCrowd die l) s

/-- The halo of a tile pushed to the die of each neighbour that lies on another die than `home` (R102). -/
def State.pushHalo (s : State) (pb home : Nat) (t : Tile) : State :=
  let q := s.haloOf pb t
  if q.isEmpty then s
  else ((t.neighbours.map sockOf).filter (· != home)).eraseDups.foldl (fun s d => s.pushTo pb q d) s

/-- Whether a push or a drop of a tile's replicas is not acknowledged. -/
def State.haloOut (s : State) (pb : Nat) : Bool := s.replicas.any fun r => r.pbase == pb && r.pushed

/-- The tiles whose halo a release of the current thread pushes (R102): owned by this core, of its context, with every
neighbour in the scope. -/
def State.haloTiles (s : State) (has : CoreId → Bool) : Map Tile :=
  s.tiles.filter fun p =>
    p.2.tstate == .owned && p.2.owner == s.loc && p.2.ctx == s.th.ctx && p.2.neighbours.all has

/-- A release at a level, whose scope `has` the cores it names (R159), then the rest of the instruction: the consumer check
of R131, the drain, the report of covered records, and the halo pushes (R102). -/
def withReleaseOf (l : Option Level) (has : CoreId → Bool) (k : State → State) (s : State) : State :=
  guardLatent (fun s =>
    match s.drain l with
    | (.wait w, s) => s.parkScoped w
    | (.fail _, s) => k s
    | (.done _, s) =>
      let rs := coveredRecords l s.th.records
      if rs.isEmpty then
        let ts := s.haloTiles has
        let s := ts.foldl (fun s p => s.pushHalo p.1 (sockOf s.loc) p.2) s
        match ts.find? fun p => s.haloOut p.1 with
        | some p => s.parkScoped (.tile p.1)
        | none => k { s with th := { s.th with scopeTab := none } }
      else s.reportRecords rs) s

/-- The first step of STOP and HALT (R300): a consumer under R131, and a reporting instruction of every pending record
(R140). -/
def guardPending (k : State → State) (s : State) : State :=
  guardLatent (fun s => if s.th.records.isEmpty then k s else s.reportRecords s.th.records) s

/-- A release at a level whose scope contains every core that its level reaches. -/
def withRelease (l : Option Level) (k : State → State) (s : State) : State :=
  withReleaseOf l (fun c => levelRank l > 1 || sockOf c == sockOf s.loc) k s

/-- A release at a scope (R152, R159). -/
def releaseAt (sc : ScopeIx) (k : State → State) (s : State) : State := withReleaseOf (s.levelOf sc) (s.scopeHas sc) k s

/-! Migration (R145, R146). -/

/-- TRV: migrate on remote touch (R118). -/
def Phys.trv (p : Phys) : Bool := p.leaf.getLsbD 12

/-- Whether a register holds poison. -/
def Regs.anyPoison (r : Regs) : Bool :=
  r.xp.toList.any Option.isSome || r.vp.toList.any (fun m => !m.isEmpty) || r.kp.toList.any Option.isSome

/-- Whether the current thread may migrate (R145): a forked thread task without allotment, poison, log or records, in user
mode, that does not stay for this instruction. -/
def State.isFree (s : State) : Bool :=
  s.th.kind == .thread && s.th.allot == 0 && !s.th.regs.anyPoison && s.th.log.isEmpty &&
    s.th.records.isEmpty && s.th.mode == .user && !s.th.inh && s.th.stay != some s.th.pc && !isCmd s.loc

/-- The address to which an access takes the thread, if it migrates (R145). -/
def State.travelsTo (s : State) (ps : List (Phys × Nat)) : Option Nat :=
  if s.isFree then
    (ps.find? fun p =>
      !s.isLocal p.1.pa || (p.1.trv && (s.isDevMem p.1.pa || regionOf p.1.pa == .host) && homeOf p.1.pa != sockOf s.loc)).map
        (·.1.pa)
  else none

/-- The doublewords of a travel packet (R146). -/
def Thread.packet (t : Thread) : List Word :=
  t.regs.x.toList.drop 1 ++ t.regs.b.toList ++
    [t.pc, w64 (t.ctx.toNat + 2 ^ 32 * t.task.toNat), t.joinp, t.fmtp, t.scopet, t.regs.fmta, t.regs.fmtb, t.regs.fmtc,
      t.regs.scalea, t.regs.scaleb, t.xpc, t.xcause, t.xval] ++ t.eng.toList ++
    (t.regs.k.toList.drop 1).flatMap fun k => (List.range 4).map fun i => w64 (k.toNat / 2 ^ (64 * i))

/-- A packet of 768 bytes. -/
def packBits (ws : List Word) : BitVec 6144 := BitVec.ofNat 6144 (ws.foldr (fun w r => w.toNat + 2 ^ 64 * r) 0)

/-- Whether an event is the arrival of a packet. -/
def isArrival (p : BitVec 6144) : Instr → Bool
  | .travelPacketArrival _ q _ => q == p
  | _ => false

/-- The thread waits for its packet, from this cycle on. -/
def State.setOut (s : State) : State := (s.park .travel).onTh fun t => { t with since := s.cycles }

/-- The thread migrates (R146): its writes are acknowledged, it parks, and its packet leaves for the home die. -/
def State.travel (s : State) (pa : Nat) : State :=
  match s.drain (some .host) with
  | (.wait w, s) => s.park w
  | (_, s) =>
    let pkt := packBits s.th.packet
    let tag := s.freeTag s.loc
    -- a store that has failed in the drain keeps the thread here: its access is performed remotely (R145)
    if !s.isFree then s.onTh fun t => { t with stay := some t.pc }
    else if !s.canSend s.loc pa then s.park .slot
    else if s.isLocal pa then
      let h : MsgHead := { s.reqHead s.loc tag 0 (pkgOf pa) .travel 768 pa with dst := homeOf pa }
      let ev : Instr := .travelPacketArrival (Fin.ofNat 16 (homeOf pa)) pkt s.th.lh
      let k : Fin 24 := Fin.ofNat 24 (sockOf s.loc)
      let o : Outstanding :=
        { core := s.loc, tag := tag, tid := s.th.order, pa := pa, n := 768, pkg := pkgOf pa, plane := none,
          write := none, fill := false, engine := none, nearDone := true, devDone := true }
      ((travelParts h pkt).mapIdx fun i m => (i, m)).foldl
        (fun s q => s.linkSend k 0 q.2 (if q.1 = 3 then some ev else none)) { s.setOut with outstanding := s.outstanding ++ [o] }
    else
      let o : Outstanding :=
        { core := s.loc, tag := tag, tid := s.th.order, pa := pa, n := 768, pkg := pkgOf pa, plane := none,
          write := none, fill := false, engine := none, nearDone := true, devDone := true
          msgs := travelParts (s.reqHead s.loc tag 0 (pkgOf pa) .travel 768 pa) pkt }
      (s.setOut.enterGateway o).out (.travel (pkgOf pa) pkt)

/-- The entries of a thread that retires, or leaves (R137): those still latent are never raised. -/
def State.dropEntries (s : State) (t : Thread) : State :=
  let drop := fun (s : State) (ctx : BitVec 16) (ix : Word) =>
    s.fqStat { ctx := ctx, index := ix, stat := 2, rpc := none, sup := none }
  let s := (t.held.filter (!·.raised)).foldl (fun s h => drop s h.ctx h.index) s
  t.records.foldl (fun s r => match r.index with
    | some ix => drop s r.write.ctx ix
    | none => s) s

/-- A thread whose packet was accepted leaves its slot (R146): its team of one is gone with its banks, and an entry that is
still latent is never raised (log 79). -/
def State.departed (s : State) (core : CoreId) (slot : Fin 8) : State :=
  let t := s.getThread core slot
  let s := { s with outstanding := s.outstanding.filter fun o => !(o.core == core && o.tid == t.order && o.n == 768) }
  let s := (s.dropEntries t).onSlot core slot fun t => { t with
    status := .empty, held := [], allot := 0, watch := Vector.replicate 4 WatchEntry.clear, extents := [], got := [] }
  let s := s.onCore core fun k => { k with
    teams := k.teams.filter fun m => m.id != t.team
    rings := k.rings.map fun r => match r with
      | some g => if g.team = t.team then none else some g
      | none => none
    tlb := k.tlb.filter fun e => e.slot != slot.val }
  ((s.later (.slotRestore core)).later (.taskDispatch core)).requeueHeld

/-- A thread whose packet came back runs its instruction again, whose access is then performed remotely (R146). -/
def Thread.stayHere (t : Thread) : Thread :=
  if t.status = .parked .travel then { t with status := .ready, stay := some t.pc } else t

/-! Loads. -/

/-- The current thread's own stores that are not performed yet, latest first (R150, R157): held in staging, of its open
message, or on their way. -/
def State.ownStores (s : State) : List WriteMsg :=
  let mine := fun (l : List Pending) => (l.reverse.filter fun p => p.tid == s.th.order && p.msg.amo.isNone).map (·.msg)
  mine s.core.staging ++ s.th.packing.reverse ++ mine s.core.inflight

/-- A byte of the thread's own latest store that is not performed yet. -/
def ownByte : List WriteMsg → Nat → Option Byte
  | [], _ => none
  | w :: r, pa =>
    if w.pa ≤ pa ∧ pa < w.pa + w.n then some (BitVec.ofNat 8 (w.data.toNat / 256 ^ (pa - w.pa))) else ownByte r pa

/-- The byte a thread's load returns. -/
def State.loadByte (s : State) (own : List WriteMsg) (pa : Nat) : Byte :=
  match ownByte own pa with
  | some b => b
  | none => s.byteFor s.loc pa

/-- What a load finds. -/
inductive LoadOut where
  | value (v : Nat)
  | fault (f : XFault) (pa : Nat)
  | wait (w : Wait)
  /-- the thread migrates to the address (R145) -/
  | travel (pa : Nat)
  deriving DecidableEq, Repr

/-- A response that has arrived for the current instruction. -/
def State.gotFor (s : State) (pa n : Nat) : Option Got := s.th.got.find? fun g => g.pa == pa && g.n == n

/-- The responses kept for the current instruction are used up. -/
def State.useUp (s : State) : State := s.onTh fun t => { t with got := [] }

/-- A read of the host window or of another package is sent (R13, R66): what its slot waits for, its response or a response slot
for it (R35, R67). The thread's own stores that are not performed yet go with it (R157). -/
def State.ask (s : State) (p : Phys) (n : Nat) : Wait × State :=
  let tag := s.freeTag s.loc
  let pkg := pkgOf p.pa
  let o : Outstanding :=
    { core := s.loc, tag := tag, tid := s.th.order, pa := p.pa, n := n, pkg := pkg, plane := none, write := none,
      fill := false, engine := none, nearDone := true, devDone := true, own := s.ownStores
      msgs := [[(s.reqHead s.loc tag 0 pkg .read n p.pa).slot]] }
  if !s.canSend s.loc p.pa then (.slot, s)
  else (.response tag,
    if s.isLocal p.pa then s.hostRequest o .rdCurr n none else (s.enterGateway o).out (.request pkg 0 tag p.pa n))

/-- Data that comes from outside the device memory: the thread's own stores where they hold all of it (R150), a response that
has arrived, or a request that the slot waits for. -/
def State.awayPiece (s : State) (p : Phys) (n : Nat) : LoadOut × State :=
  let own := s.ownStores
  if (List.range n).all fun i => (ownByte own (p.pa + i)).isSome then (.value (leRead (s.loadByte own) p.pa n), s)
  else
    match s.gotFor p.pa n with
    | some g =>
      match g.fail with
      | some c => (.fault (xfail c 0) p.pa, s)
      | none => (.value (g.data.toNat % 256 ^ n), s)
    | none =>
      match s.ask p n with
      | (w, s) => (.wait w, s)

/-- The thread's own atomics on some bytes that are still on their way are performed before it reads them (R157, R312). -/
def State.flushAmos (s : State) (pa n : Nat) : Served Unit × State :=
  s.performAll s.loc (s.core.inflight.filter fun p =>
    p.tid == s.th.order && p.msg.amo.isSome && decide (p.msg.pa < pa + n ∧ pa < p.msg.pa + p.msg.n))

/-- Whether a response that has arrived is the failure of a host line that `n` bytes at `pa` need (R66). -/
def Got.failsAt (g : Got) (pa n : Nat) : Bool := g.fail.isSome && g.n == n && (g.pa == pa || g.pa == pa + n - 1)

/-- One piece of a load of a host line under HC = 1 (R66): behind the writes of the socket that have entered its egress (R161),
once the home has the line; the thread's own stores come first (R150). -/
def State.hostPiece (s : State) (p : Phys) (n : Nat) : LoadOut × State :=
  match s.th.got.find? fun g => g.failsAt p.pa n with
  | some g => (.fault (xfail ((g.fail).getD 0x12) 0) p.pa, s)
  | none =>
    match s.settle s.loc p.pa with
    | (.wait w, s) => (.wait w, s)
    | (_, s) =>
      match s.obtain s.loc s.th.order none p.pa n false with
      | (some w, s) => (.wait w, s)
      | (none, s) => (.value (leRead (s.loadByte s.ownStores) p.pa n), s)

/-- One piece of a load where it lies. -/
def State.loadHere (s : State) (p : Phys) (n : Nat) : LoadOut × State :=
  if !s.isLocal p.pa then s.awayPiece p n
  else
    match regionOf p.pa with
    | .unassigned => (.fault (xfail 0x13 0) p.pa, s)
    | .sysreg =>
      match s.reach p.pa n, mregAt (p.pa % 0x100000000000) n with
      | .wait w, _ => (.wait w, s)
      | .done _, some r => (.value (s.readMReg r).toNat, s)
      | _, _ => (.fault (xfail 0x13 0) p.pa, s)
    | .host =>
      match s.reach p.pa n with
      | .fail c => (.fault (xfail c 0) p.pa, s)
      | .wait w => (.wait w, s)
      | .done _ => if p.hc then s.hostPiece p n else s.awayPiece p n
    | .lpddr | .near =>
      let own := s.ownStores
      if (List.range n).all fun i => (ownByte own (p.pa + i)).isSome then
        (.value (leRead (s.loadByte own) p.pa n), s)
      else
        match s.settle s.loc p.pa with
        | (.wait w, s) => (.wait w, s)
        | (_, s) =>
          match s.serveRead s.loc p.pa n (!isCmd s.loc && !p.uncached) s.th.order with
          | (.done _, s) => (.value (leRead (s.loadByte own) p.pa n), s)
          | (.wait w, s) => (.wait w, s)
          | (.fail c, s) => (.fault (xfail c 0) p.pa, s)

/-- One piece of a load. -/
def State.loadPiece (s : State) (p : Phys) (n : Nat) : LoadOut × State :=
  match s.flushAmos p.pa n with
  | (.done _, s) => s.loadHere p n
  | (.wait w, s) => (.wait w, s)
  | (.fail c, s) => (.fault (xfail c 0) p.pa, s)

/-- The pieces of a load, lowest first, as one little-endian number. -/
def State.loadPieces (s : State) : List (Phys × Nat) → LoadOut × State
  | [] => (.value 0, s)
  | (p, n) :: r =>
    match s.loadPiece p n with
    | (.value v, s) =>
      match s.loadPieces r with
      | (.value u, s) => (.value (v + 256 ^ n * u), s)
      | x => x
    | x => x

/-- A load of `n` bytes at a virtual address. -/
def State.loadVa (s : State) (va : Word) (n : Nat) : LoadOut × State :=
  match s.xlateSpan s.asid va n .load with
  | (.error f, s) =>
    match f.wait with
    | some w => (.wait w, s)
    | none => (.fault f 0, s)
  | (.ok ps, s) =>
    match s.travelsTo ps with
    | some pa => (.travel pa, s)
    | none => s.loadPieces ps

/-- The value that a scalar load writes (R305). -/
def loadValue (n : Nat) (signed : Bool) (v : Nat) : Word := if signed then w64i (sint v (8 * n)) else w64 v

end Sys2Proof.Machine
end

