-- ==== Sys2Proof/Machine/Flags.lean ====
section
/-! DEFINITION. The conditions an instruction can test. The machine keeps no flags: no instruction sets one (R276, R250),
so every condition is a comparison of register values. -/

namespace Sys2Proof.Machine

/-- A comparison of two words: the branch conditions of R289 and the comparisons of R277. -/
inductive Cond where
  | eq | ne | lt | ge | ltn | gen
  deriving DecidableEq, Repr

/-- Whether a condition holds; the names that end in n read unsigned values (R239, R289). -/
def Cond.holds (c : Cond) (a b : Word) : Bool :=
  match c with
  | .eq => a == b
  | .ne => a != b
  | .lt => decide (a.toInt < b.toInt)
  | .ge => decide (b.toInt ≤ a.toInt)
  | .ltn => decide (a.toNat < b.toNat)
  | .gen => decide (b.toNat ≤ a.toNat)

/-- 1 when a comparison holds, else 0 (R277). -/
def boolWord (b : Bool) : Word := if b then 1 else 0

end Sys2Proof.Machine
end

