-- ==== Sys2Proof/Machine/Alu.lean ====
section
/-! DEFINITION. The values that the scalar operations compute (R277 to R287), and the hash steps that the vector forms share
(R281, R282). -/

namespace Sys2Proof.Machine

/-! Hash steps. -/

/-- `n` bit steps of the reflected CRC-32C (R281). -/
def crcBits : Nat → BitVec 32 → BitVec 32
  | 0, c => c
  | n + 1, c => crcBits n (if c.getLsbD 0 then (c >>> 1) ^^^ 0x82F63B78#32 else c >>> 1)

/-- One byte fed to the remainder. -/
def crcByte (c : BitVec 32) (b : Byte) : BitVec 32 := crcBits 8 (c ^^^ b.setWidth 32)

/-- Bytes fed in order. -/
def crcBytes (c : BitVec 32) (bs : List Byte) : BitVec 32 := bs.foldl crcByte c

/-- MIX64 (R282). -/
def mixWords (a b : Word) : Word :=
  let h := a + b * 0x9E6C63D0676A9A99#64
  let h := h ^^^ (h >>> 32)
  let h := h * 0xD2B74407B1CE6E93#64
  let h := h ^^^ (h >>> 29)
  let h := h * 0x9E6C63D0676A9A99#64
  h ^^^ (h >>> 32)

/-! Counts. -/

/-- Leading zeros of a word, its `n` highest bits still to be seen. -/
def leadingZeros (a : Word) : Nat → Nat
  | 0 => 0
  | n + 1 => if a.getLsbD n then 0 else 1 + leadingZeros a n

/-- Trailing zeros from bit `i`, `n` bits still to be seen. -/
def trailingZeros (a : Word) (i : Nat) : Nat → Nat
  | 0 => 0
  | n + 1 => if a.getLsbD i then 0 else 1 + trailingZeros a (i + 1) n

/-- One bits of a number among its `n` lowest. -/
def popCount (v : Nat) : Nat → Nat
  | 0 => 0
  | n + 1 => (v / 2 ^ n % 2) + popCount v n

/-- The 8 bytes in reverse order (R279). -/
def byteSwap (a : Word) : Word := w64 (ofBytes (toBytes 8 a.toNat).reverse)

/-! The functions. -/

/-- Rotate left (R277). -/
def rotl (a : Word) (n : Nat) : Word := a.rotateLeft n

/-- Rotate right. -/
def rotr (a : Word) (n : Nat) : Word := a.rotateRight n

/-- Quotient truncated toward zero (R278): −1 for a zero divisor; −2^63 for the quotient that does not fit. -/
def divSigned (a b : Word) : Word := if b = 0 then BitVec.allOnes 64 else w64i (a.toInt.tdiv b.toInt)

/-- Remainder with the sign of the dividend (R278). -/
def remSigned (a b : Word) : Word := if b = 0 then a else w64i (a.toInt.tmod b.toInt)

/-- What an operation of major 0x01 writes (R277 to R282). -/
def AluFn.eval (f : AluFn) (a b : Word) : Word :=
  let n := b.toNat % 64
  match f with
  | .add => a + b
  | .sub => a - b
  | .and => a &&& b
  | .or => a ||| b
  | .xor => a ^^^ b
  | .andn => a &&& ~~~b
  | .orn => a ||| ~~~b
  | .sll => a <<< n
  | .srl => a >>> n
  | .sra => a.sshiftRight n
  | .rol => rotl a n
  | .ror => rotr a n
  | .slt => boolWord (Cond.lt.holds a b)
  | .sltn => boolWord (Cond.ltn.holds a b)
  | .seq => boolWord (Cond.eq.holds a b)
  | .min => if a.toInt ≤ b.toInt then a else b
  | .max => if a.toInt ≤ b.toInt then b else a
  | .minn => if a.toNat ≤ b.toNat then a else b
  | .maxn => if a.toNat ≤ b.toNat then b else a
  | .mul => a * b
  | .mulh => w64i (a.toInt * b.toInt / 2 ^ 64)
  | .mulhn => w64 (a.toNat * b.toNat / 2 ^ 64)
  | .div => divSigned a b
  | .divn => if b = 0 then BitVec.allOnes 64 else w64 (a.toNat / b.toNat)
  | .rem => remSigned a b
  | .remn => if b = 0 then a else w64 (a.toNat % b.toNat)
  | .clz => w64 (leadingZeros a 64)
  | .ctz => w64 (trailingZeros a 0 64)
  | .popc => w64 (popCount a.toNat 64)
  | .bswap => byteSwap a
  | .shadd1 => a <<< 1 + b
  | .shadd2 => a <<< 2 + b
  | .shadd3 => a <<< 3 + b
  | .crcb => (crcByte (a.setWidth 32) (b.setWidth 8)).setWidth 64
  | .crcd => (crcBytes (a.setWidth 32) (toBytes 8 b.toNat)).setWidth 64
  | .mix64 => mixWords a b

/-- A 16-bit immediate, sign-extended (R262). -/
def immS (i : BitVec 16) : Word := i.signExtend 64

/-- A 16-bit immediate, zero-extended. -/
def immZ (i : BitVec 16) : Word := i.setWidth 64

/-- What an immediate operation writes (R283, R284, R286, R287). -/
def ImmFn.eval (f : ImmFn) (a : Word) (i : BitVec 16) : Word :=
  let n := i.toNat % 64
  let len := i.toNat / 64 % 64 + 1
  match f with
  | .addi => a + immS i
  | .andi => a &&& immZ i
  | .ori => a ||| immZ i
  | .xori => a ^^^ immZ i
  | .slti => boolWord (Cond.lt.holds a (immS i))
  | .sltin => boolWord (Cond.ltn.holds a (immS i))
  | .lih => a <<< 16 ||| immZ i
  | .slli => a <<< n
  | .srli => a >>> n
  | .srai => a.sshiftRight n
  | .rori => rotr a n
  | .bfx => w64 (bits a (n + len - 1) n)
  | .bfxs => w64i (sint (bits a (n + len - 1) n) len)

end Sys2Proof.Machine
end

