-- ==== Sys2Proof/Machine/Vector.lean ====
section
/-! DEFINITION. Vector elements, masks and poison by lane (R327 to R330), and what the element-wise forms compute
(R335 to R352). -/

namespace Sys2Proof.Machine

/-- What a propagating instruction does to the registers (R129): the registers after it, whether it read a poisoned operand
and so needs a log entry, and the whole vector registers that the entry records. -/
structure EffOut where
  regs : Regs
  log : Bool
  vecs : Nat
  deriving DecidableEq, Repr

/-- A value read, with its poison payload. -/
structure Src where
  val : Nat
  pay : Option Payload
  deriving DecidableEq, Repr

/-- A payload restamped with the position of the new log entry (R129). -/
def stamp (pos : Nat) (p : Payload) : Payload := BitVec.ofNat 21 (p.toNat % 65536 + 65536 * pos)

/-! Elements. -/

/-- Element `i` of width `w` of a register's bits (R258). -/
def elemOf (v : VWord) (w i : Nat) : Nat := v.toNat / 2 ^ (8 * w * i) % 2 ^ (8 * w)

/-- An element with its poison: the payload of its lowest poisoned lane. -/
def Regs.elem (r : Regs) (a : VReg) (w i : Nat) : Src :=
  ⟨elemOf r.v[a] w i, (lanesOf w i).findSome? (mapGet r.vp[a])⟩

/-- A scalar operand as a source. -/
def Regs.src (r : Regs) (a : Reg) : Src := ⟨(r.rx a).toNat, r.rxp a⟩

/-- The element count of a width (R328). -/
def Regs.body (r : Regs) (w : Nat) : Nat := min r.vl (1024 / w)

/-- Whether a mask governs element `i` as true (R328). -/
def govBit (k : KWord) (w i : Nat) : Bool := k.getLsbD (w * i / 4)

/-- The active elements of a body (R328). -/
def activeOf (k : KWord) (w e : Nat) : List Nat := (List.range e).filter (govBit k w)

/-- The mask of the lanes that hold a true element (R329). -/
def maskOf (w : Nat) (es : List Nat) : KWord :=
  es.foldl (fun m i => (lanesOf w i).foldl (fun m j => m ||| BitVec.ofNat 256 (2 ^ j)) m) 0

/-! Writing elements. -/

/-- One element to be written; `pay` is the payload of the first poisoned value it was computed from. -/
structure Elem where
  ix : Nat
  val : Nat
  pay : Option Payload
  deriving DecidableEq, Repr

/-- The lanes that elements lie in, each once. -/
def lanesTouched (w : Nat) (es : List Elem) : List Nat :=
  es.foldl (fun ls e => (lanesOf w e.ix).foldl (fun ls j => if ls.contains j then ls else j :: ls) ls) []

/-- The poison of lane `j` once `es` are written (R330): a poisoned element's payload; else, when some element of the lane is
not written, the poison that the lane already had, restamped. -/
def laneAfter (old : Map Payload) (w pos : Nat) (es : List Elem) (j : Nat) : Option Payload :=
  let mine := es.filter fun e => (lanesOf w e.ix).contains j
  match mine.findSome? (·.pay) with
  | some p => some (stamp pos p)
  | none => if w < 4 ∧ mine.length < 4 / w then (mapGet old j).map (stamp pos) else none

/-- Whether lane `j` was poisoned and is written only in part: its other elements are then a source (R330). -/
def lanePart (old : Map Payload) (w : Nat) (es : List Elem) (j : Nat) : Bool :=
  (mapGet old j).isSome && decide (w < 4 ∧ (es.filter fun e => (lanesOf w e.ix).contains j).length < 4 / w)

/-- The bytes that an element takes (R330): the low bytes of its lane's payload where it is poisoned, by its own sources or by
the rest of its lane. -/
def elemBytes (old : Map Payload) (w pos : Nat) (es : List Elem) (e : Elem) : Nat :=
  let j := w * e.ix / 4
  if e.pay.isSome || lanePart old w es j then ((laneAfter old w pos es j).map (poisonVal w)).getD e.val else e.val

/-- Elements of a vector register written, with the poison of their lanes; `log` when a lane is left poisoned (R330). -/
def Regs.writeElems (r : Regs) (d : VReg) (w pos vecs : Nat) (es : List Elem) : EffOut :=
  let old := r.vp[d]
  let v := es.foldl (fun v e => putBytes v (w * e.ix) w (elemBytes old w pos es e)) r.v[d]
  let ls := lanesTouched w es
  let vp := ls.foldl (fun m j =>
    match laneAfter old w pos es j with
    | some p => mapSet m j p
    | none => mapErase m j) old
  let bad := ls.any fun j => (laneAfter old w pos es j).isSome
  let part := ls.any fun j => lanePart old w es j && (laneAfter old w pos es j).isSome
  ⟨r.wv d v vp, bad, if part then vecs + 1 else vecs⟩

/-- The same, recording no more than `n` registers: the destination is one of those counted already. -/
def EffOut.atMost (n : Nat) (o : EffOut) : EffOut := { o with vecs := min o.vecs n }

/-- Elements written poisoned because the mask is, each with a payload (R330): the entry also records the destination. -/
def Regs.poisonEach (r : Regs) (d : VReg) (w pos vecs : Nat) (es : List Nat) (p : Nat → Option Payload) : EffOut :=
  (r.writeElems d w pos (vecs + 1) (es.map fun i => ⟨i, 0, p i⟩)).atMost (vecs + 1)

/-- Elements written poisoned with the payload of the governing mask (R330). -/
def Regs.poisonAll (r : Regs) (d : VReg) (w pos vecs : Nat) (es : List Nat) (p : Payload) : EffOut :=
  r.poisonEach d w pos vecs es fun _ => some p

/-- A vector form under a governing mask (R328, R330): active elements by `f`; a poisoned mask poisons the whole body. -/
def Regs.governed (r : Regs) (d : VReg) (k : KReg) (w e pos vecs : Nat) (sel : KWord → List Nat)
    (f : Nat → Src) : EffOut :=
  match r.rkp k with
  | some p => r.poisonAll d w pos vecs (List.range e) p
  | none => r.writeElems d w pos vecs ((sel (r.rk k)).map fun i => let x := f i; ⟨i, x.val, x.pay⟩)

/-- A scalar result (R330): poisoned when something it read is. -/
def Regs.scalarOut (r : Regs) (d : Reg) (v : Word) (p : Option Payload) (pos vecs : Nat) : EffOut :=
  match p with
  | some p => ⟨r.wxp d (stamp pos p), true, vecs⟩
  | none => ⟨r.wx d v, false, vecs⟩

/-- A mask result. -/
def Regs.maskOut (r : Regs) (d : KReg) (v : KWord) (p : Option Payload) (pos vecs : Nat) : EffOut :=
  match p with
  | some p => ⟨r.wkp d (stamp pos p), true, vecs⟩
  | none => ⟨r.wk d v, false, vecs⟩

/-- The first payload of two. -/
def firstPay (a b : Option Payload) : Option Payload := a.or b

/-- A value computed from two sources, in the order ra, rb (R129). -/
def src2 (a b : Src) (f : Nat → Nat → Nat) : Src := ⟨f a.val b.val, firstPay a.pay b.pay⟩

/-! Integer elements (R335, R336). -/

/-- f(a, b) of R335 for elements of `n` bits. -/
def VintFn.eval (f : VintFn) (n a b : Nat) : Nat :=
  let sa := sint a n
  let sb := sint b n
  let c := b % n
  let top : Int := 2 ^ (n - 1)
  match f with
  | .vadd => uint (a + b) n
  | .vsub => uint ((a : Int) - b) n
  | .vmul => a * b % 2 ^ n
  | .vmulh => uint (sa * sb / 2 ^ n) n
  | .vand => a &&& b
  | .vor => a ||| b
  | .vxor => a ^^^ b
  | .vandn => a &&& (2 ^ n - 1 - b)
  | .vsll => a * 2 ^ c % 2 ^ n
  | .vsrl => a / 2 ^ c
  | .vsra => uint (sa / 2 ^ c) n
  | .vmin => if sa ≤ sb then a else b
  | .vmax => if sa ≤ sb then b else a
  | .vminn => min a b
  | .vmaxn => max a b
  | .vadds => uint (sat (sa + sb) (-top) (top - 1)) n
  | .vsubs => uint (sat (sa - sb) (-top) (top - 1)) n
  | .vaddsn => min (a + b) (2 ^ n - 1)
  | .vsubsn => a - b
  | .vabsd => uint (sa - sb).natAbs n

/-- The immediate forms (R335). -/
def VimmFn.eval (f : VimmFn) (n a : Nat) (i : BitVec 5) : Nat :=
  match f with
  | .vaddi => uint (a + sint i.toNat 5) n
  | .vslli => VintFn.vsll.eval n a i.toNat
  | .vsrli => VintFn.vsrl.eval n a i.toNat
  | .vsrai => VintFn.vsra.eval n a i.toNat

/-! Floating-point elements (R338 to R340). -/

/-- How a floating-point type decodes and delivers: its format, rounding and saturation (R249, R250). -/
structure Flt where
  fmt : Fmt
  rnd : Rnd
  sat : Bool
  deriving DecidableEq, Repr

/-- The format of a type; q8 decodes FMTC, and none means an ill-formed record (R241). -/
def fltOf (r : Regs) (t : ElTy) : Option Flt :=
  match t with
  | .f16 => some ⟨fp16, .rne, false⟩
  | .bf16 => some ⟨bf16, .rne, false⟩
  | .f32 => some ⟨fp32, .rne, false⟩
  | .f64 => some ⟨fp64, .rne, false⟩
  | .q8 => (recQ8 r.fmtc).map fun x => ⟨x.1, x.2.1, x.2.2⟩
  | .i8 | .i16 | .i32 | .i64 => none

/-- The value that a pattern has. -/
def Flt.get (c : Flt) (b : Nat) : FVal := c.fmt.decode b

/-- An exact result delivered. -/
def Flt.put (c : Flt) (x : FVal) : Nat := c.fmt.deliver c.rnd c.sat x

/-- Whether a form reads its vb field as a vector. -/
def VfltFn.binary : VfltFn → Bool
  | .vfadd | .vfsub | .vfmul | .vffma | .vffms | .vfdiv | .vfmin | .vfmax | .vfscale => true
  | _ => false

/-- Whether a form reads its destination (R338). -/
def VfltFn.readsD : VfltFn → Bool
  | .vffma | .vffms => true
  | _ => false

/-- The result of a form on patterns a, b and d (R338, R339). -/
def VfltFn.eval (f : VfltFn) (c : Flt) (a b d : Nat) : Nat :=
  let x := c.get a
  let y := c.get b
  match f with
  | .vfadd => c.put (x.add y)
  | .vfsub => c.put (x.add y.flip)
  | .vfmul => c.put (x.mul y)
  | .vffma => c.put ((x.mul y).add (c.get d))
  | .vffms => c.put ((x.mul y).add (c.get d).flip)
  | .vfdiv => c.put (x.div y)
  | .vfsqrt => c.put x.sqrt
  | .vfmin => c.put (x.min y)
  | .vfmax => c.put (x.max y)
  | .vfabs => c.put x.abs
  | .vfneg => c.put x.flip
  | .vfclass => c.fmt.classOf a
  | .vfrecip => c.put ((FVal.ofInt 1).div x)
  | .vfrsqrt => c.put x.rsqrt
  | .vfscale => c.put (x.scale (sint b (8 * c.fmt.bytes)))

/-- The comparisons of R336 and R339 on elements of `n` bits; the float ones decode with `c`. -/
def VcmpFn.eval (f : VcmpFn) (n : Nat) (c : Option Flt) (a b : Nat) : Bool :=
  match f with
  | .eq => a == b
  | .lt => decide (sint a n < sint b n)
  | .ltn => decide (a < b)
  | .le => decide (sint a n ≤ sint b n)
  | .feq => ((c.map fun c => (c.get a).eq (c.get b))).getD false
  | .flt => ((c.map fun c => (c.get a).lt (c.get b))).getD false
  | .fle => ((c.map fun c => (c.get a).lt (c.get b) || (c.get a).eq (c.get b))).getD false

/-- The conversions between a float and the integer of its width (R340, R248). -/
def VcvtFn.eval (f : VcvtFn) (c : Flt) (a : Nat) : Nat :=
  let n := 8 * c.fmt.bytes
  match f with
  | .fi => uint ((c.get a).toIntSat (-(2 ^ (n - 1))) (2 ^ (n - 1) - 1)) n
  | .fin => uint ((c.get a).toIntSat 0 (2 ^ n - 1)) n
  | .intf => c.put (FVal.ofInt (sint a n))
  | .intnf => c.put (FVal.ofInt a)

/-! Folds and permutes (R347, R348). -/

/-- The first payload in a list of sources. -/
def paysOf (xs : List Src) : Option Payload := xs.findSome? (·.pay)

/-- A reduction of element 0 of vb with the active elements of va (R348). -/
def Regs.reduce (r : Regs) (d a b : VReg) (k : KReg) (w pos : Nat) (f : Nat → Nat → Nat) : EffOut :=
  let e := r.body w
  let first := r.elem b w 0
  match (if e = 0 then none else r.rkp k) with
  | some p => r.poisonAll d w pos 2 [0] p
  | none =>
    let xs := (activeOf (r.rk k) w e).map (r.elem a w)
    let v := xs.foldl (fun acc x => f acc x.val) first.val
    r.writeElems d w pos 2 [⟨0, v, firstPay (paysOf xs) first.pay⟩]

/-- The prefix sums over the active elements in ascending order (R348). -/
def scanSums (n : Nat) : Nat → Option Payload → List (Nat × Src) → List Elem
  | _, _, [] => []
  | s, p, (i, x) :: r =>
    let s := (s + x.val) % 2 ^ n
    let p := firstPay p x.pay
    ⟨i, s, p⟩ :: scanSums n s p r

/-- VCOMPRESS and VEXPAND (R347) under their selector, which `pick` pairs with the elements moved. A poisoned selector may
have moved any body element, so that the first poisoned one gives the payload, else the mask (R129, log 79). -/
def Regs.selected (r : Regs) (d a : VReg) (k : KReg) (w pos : Nat) (pick : List Nat → List Elem) : EffOut :=
  let e := r.body w
  match r.rkp k with
  | some p => r.poisonEach d w pos 1 (List.range e) fun _ => firstPay (paysOf ((List.range e).map (r.elem a w))) (some p)
  | none => r.writeElems d w pos 1 (pick (activeOf (r.rk k) w e))

/-- What a form of VMSK that rearranges or reduces does (R347, R348); `b` names a vector or a scalar. -/
def VmskFn.eff (f : VmskFn) (pos : Nat) (d a b : Fin 32) (k : KReg) (t : ElTy) (r : Regs) : EffOut :=
  let w := t.width
  let e := r.body w
  let n := 8 * w
  let act := fun m => activeOf m w e
  let va := r.elem a w
  let vb := r.elem b w
  let x := (r.rx b).toNat
  match f with
  | .vcompress => r.selected d a k w pos fun js => js.mapIdx fun c j => ⟨c, (va j).val, (va j).pay⟩
  | .vexpand => r.selected d a k w pos fun is => is.mapIdx fun c i => ⟨i, (va c).val, (va c).pay⟩
  | .vperm =>
    r.governed d k w e pos 2 act fun i =>
      let ix := vb i
      match ix.pay with
      | some p => ⟨0, some p⟩
      | none => va (ix.val % (1024 / w))
  | .vslideup => r.governed d k w e pos 1 (fun m => (act m).filter fun i => decide (x ≤ i)) fun i => va (i - x)
  | .vslidedn => r.governed d k w e pos 1 act fun i => if i + x < e then va (i + x) else ⟨0, none⟩
  | .vzip => r.governed d k w e pos 2 act fun i => if i % 2 = 0 then va (i / 2) else vb (i / 2)
  | .vunzip => r.governed d k w e pos 2 act fun i => if 2 * i < e then va (2 * i) else vb (2 * i - e)
  | .vredadd => r.reduce d a b k w pos fun s v => (s + v) % 2 ^ n
  | .vredmin => r.reduce d a b k w pos (VintFn.vmin.eval n)
  | .vredmax => r.reduce d a b k w pos (VintFn.vmax.eval n)
  | .vfredadd =>
    match fltOf r t with
    | some c => r.reduce d a b k w pos fun s v => c.put ((c.get s).add (c.get v))
    | none => ⟨r, false, 0⟩
  | .vfredmax =>
    match fltOf r t with
    | some c => r.reduce d a b k w pos fun s v => c.put ((c.get s).max (c.get v))
    | none => ⟨r, false, 0⟩
  | .vscanadd =>
    match r.rkp k with
    | some p => r.poisonAll d w pos 1 (List.range e) p
    | none => r.writeElems d w pos 1 (scanSums n 0 none ((act (r.rk k)).map fun i => (i, va i)))

/-! Mask operations (R346). -/

/-- The logic of two masks. -/
def KFn.eval (f : KFn) (a b : KWord) : KWord :=
  match f with
  | .kand => a &&& b
  | .kor => a ||| b
  | .kxor => a ^^^ b

/-! Database operations (R349 to R352). -/

/-- The null descriptor (R351). -/
def nullDesc : Nat := 0xFFFFFFFFFFFFFFFF

/-- SADDR of a descriptor, as a virtual address. -/
def descAddr (x : Nat) : Word := w64i (sint x 54)

/-- SLEN of a descriptor. -/
def descLen (x : Nat) : Nat := x / 2 ^ 54 % 1024

/-- VDESC on one element (R352). -/
def makeDesc (a b : Nat) : Nat :=
  let n := uint ((b : Int) - a) 64
  if 1023 < n ∨ !(bits (w64 a) 63 53 == 0 || bits (w64 a) 63 53 == 0x7FF) ∨ (a = nullDesc ∧ n = 1023) then nullDesc
  else n * 2 ^ 54 + a % 2 ^ 54

/-- VHIST (R350): every body element gains the count of the selected elements that equal its index. -/
def Regs.histogram (r : Regs) (d a : VReg) (k : KReg) (pos : Nat) : EffOut :=
  let e := r.body 4
  let sel := (activeOf (r.rk k) 4 e).map (r.elem a 4)
  let all := (List.range e).map (r.elem a 4)
  let p := if e = 0 then none else firstPay (paysOf (if (r.rkp k).isSome then all else sel)) (r.rkp k)
  r.writeElems d 4 pos 2 ((List.range e).map fun j =>
    let old := r.elem d 4 j
    let h := if p.isSome then 0 else (sel.filter fun x => x.val == j).length
    ⟨j, (old.val + h) % 2 ^ 32, firstPay p old.pay⟩)

/-- What a database form that reads registers only does (R349 to R352); `b` names a vector, or a scalar for VPART. -/
def VdbFn.eff (f : VdbFn) (pos : Nat) (d a b : Fin 32) (k : KReg) (t : ElTy) (r : Regs) : EffOut :=
  let w := t.width
  let e := r.body w
  let act := fun m => activeOf m w e
  let va := r.elem a w
  let vb := r.elem b w
  match f with
  | .vhashc =>
    r.governed d k w e pos 2 act fun i =>
      src2 (va i) (vb i) fun x y => (crcBytes (BitVec.ofNat 32 x) (toBytes w y)).toNat
  | .vhashm => r.governed d k w e pos 2 act fun i => src2 (va i) (vb i) fun x y => (mixWords (w64 x) (w64 y)).toNat
  | .vpart =>
    r.governed d k w e pos 1 act fun i =>
      src2 (va i) (r.src b) fun x y => x % 2 ^ 32 * (max 1 (min y 65536)) / 2 ^ 32
  | .vhist => r.histogram d a k pos
  | .vdesc => r.governed d k w e pos 2 act fun i => src2 (va i) (vb i) makeDesc
  | .vslen =>
    r.governed d k w e pos 1 act fun i =>
      let x := va i
      ⟨if x.val = nullDesc then nullDesc else descLen x.val, x.pay⟩

/-! The whole set. -/

/-- The effect of a comparison (R329, R336, R339). -/
def Regs.compare (r : Regs) (f : VcmpFn) (d : KReg) (a b : VReg) (k : KReg) (t : ElTy) (pos : Nat) : EffOut :=
  let w := t.width
  let e := r.body w
  if e ≠ 0 ∧ (r.rkp k).isSome then r.maskOut d 0 (r.rkp k) pos 2
  else
    let es := activeOf (r.rk k) w e
    let c := fltOf r t
    let true' := es.filter fun i => f.eval (8 * w) c (r.elem a w i).val (r.elem b w i).val
    r.maskOut d (maskOf w true') (firstPay (paysOf (es.map (r.elem a w))) (paysOf (es.map (r.elem b w)))) pos 2

/-- CMOV and its poison rules (R280). -/
def Regs.cmov (r : Regs) (d a b : Reg) (pos : Nat) : EffOut :=
  if d = 0 then ⟨r, false, 0⟩
  else
    match r.rxp b with
    | some pb => ⟨r.wxp d (stamp pos ((r.rxp a).getD pb)), true, 0⟩
    | none =>
      if r.rx b = 0 then ⟨r, false, 0⟩
      else
        match r.rxp a with
        | some p => ⟨r.wxp d p, false, 0⟩
        | none => ⟨r.wx d (r.rx a), false, 0⟩

/-- VFDOT2 on lane `i` (R341). -/
def dot2 (c : Flt) (a b d : Nat) : Nat :=
  let p := fun j => (c.get (a / 65536 ^ j % 65536)).mul (c.get (b / 65536 ^ j % 65536))
  fp32.rne (((fp32.decode d).add (p 0)).add (p 1))

/-- What a propagating instruction does to the registers, its log entry at `pos` (R128, R129, R271, R330). -/
def PropOp.eff (op : PropOp) (pos : Nat) (r : Regs) : EffOut :=
  match op with
  | .alu f d a b => r.scalarOut d (f.eval (r.rx a) (r.rx b)) (firstPay (r.rxp a) (r.rxp b)) pos 0
  | .cmov d a b => r.cmov d a b pos
  | .imm f d a i => r.scalarOut d (f.eval (r.rx a) i) (r.rxp a) pos 0
  | .vint f d a b k t =>
    let w := t.width
    let e := r.body w
    r.governed d k w e pos 2 (fun m => activeOf m w e) fun i => src2 (r.elem a w i) (r.elem b w i) (f.eval (8 * w))
  | .vcmp f d a b k t => r.compare f d a b k t pos
  | .vsel d a b k t =>
    let w := t.width
    let e := r.body w
    let x := r.elem a w
    let y := r.elem b w
    match r.rkp k with
    | some p => r.writeElems d w pos 2 ((List.range e).map fun i => ⟨i, 0, firstPay (firstPay (x i).pay (y i).pay) (some p)⟩)
    | none => r.writeElems d w pos 2 ((List.range e).map fun i =>
        let z := if govBit (r.rk k) w i then x i else y i
        ⟨i, z.val, z.pay⟩)
  | .vsplat d a k t =>
    let w := t.width
    let e := r.body w
    r.governed d k w e pos 0 (fun m => activeOf m w e) fun _ => ⟨(r.rx a).toNat % 2 ^ (8 * w), r.rxp a⟩
  | .viota d k t =>
    let w := t.width
    let e := r.body w
    r.governed d k w e pos 0 (fun m => activeOf m w e) fun i => ⟨i % 2 ^ (8 * w), none⟩
  | .vmovx d a b t =>
    let w := t.width
    match r.rxp b with
    | some p => r.scalarOut d 0 (some p) pos 1
    | none =>
      let x := r.elem a w ((r.rx b).toNat % (1024 / w))
      r.scalarOut d (if t.isInt then w64i (sint x.val (8 * w)) else w64 x.val) x.pay pos 1
  | .vimm f d a i k t =>
    let w := t.width
    let e := r.body w
    r.governed d k w e pos 1 (fun m => activeOf m w e) fun j =>
      let x := r.elem a w j
      ⟨f.eval (8 * w) x.val i, x.pay⟩
  | .vflt f d a b k t =>
    match fltOf r t with
    | none => ⟨r, false, 0⟩
    | some c =>
      let w := t.width
      let e := r.body w
      let o := r.governed d k w e pos (1 + f.binary.toNat + f.readsD.toNat) (fun m => activeOf m w e) fun i =>
        let x := r.elem a w i
        let y := if f.binary then r.elem b w i else ⟨0, none⟩
        let z := r.elem d w i
        ⟨f.eval c x.val y.val z.val, firstPay (firstPay x.pay y.pay) (if f.readsD then z.pay else none)⟩
      -- the destination of the FMA forms is one of their sources; under a poisoned mask it is recorded once more (R330)
      if f.readsD && (r.rkp k).isNone then o.atMost 3 else o
  | .vcvtf d a c k t =>
    match fltOf r t, fltOf r c with
    | some s, some u =>
      let w := max t.width c.width
      let e := r.body w
      match r.rkp k with
      | some p => r.poisonAll d c.width pos 1 (List.range e) p
      | none =>
        r.writeElems d c.width pos 1 ((activeOf (r.rk k) w e).map fun i =>
          let x := r.elem a t.width i
          ⟨i, u.put (s.get x.val), x.pay⟩)
    | _, _ => ⟨r, false, 0⟩
  | .vcvt f d a k t =>
    match fltOf r t with
    | none => ⟨r, false, 0⟩
    | some c =>
      let w := t.width
      let e := r.body w
      r.governed d k w e pos 1 (fun m => activeOf m w e) fun i => let x := r.elem a w i; ⟨f.eval c x.val, x.pay⟩
  | .vfsplat d a k t =>
    match fltOf r t with
    | none => ⟨r, false, 0⟩
    | some c =>
      let w := t.width
      let e := r.body w
      let x := r.src a
      r.governed d k w e pos 0 (fun m => activeOf m w e) fun _ =>
        ⟨if t = .f64 then x.val else c.put (fp64.decode x.val), x.pay⟩
  | .vfdot2 d a b k t =>
    match fltOf r t with
    | none => ⟨r, false, 0⟩
    | some c =>
      let e := r.body 4
      r.governed d k 4 e pos 3 (fun m => activeOf m 4 e) fun i =>
        let x := r.elem a 4 i
        let y := r.elem b 4 i
        let z := r.elem d 4 i
        ⟨dot2 c x.val y.val z.val, firstPay (firstPay x.pay y.pay) z.pay⟩
  | .klog f d a b => r.maskOut d (f.eval (r.rk a) (r.rk b)) (firstPay (r.rkp a) (r.rkp b)) pos 0
  | .knot d a => r.maskOut d (~~~(r.rk a)) (r.rkp a) pos 0
  | .kpop d a t =>
    let w := t.width
    let e := r.body w
    r.scalarOut d (w64 (activeOf (r.rk a) w e).length) (if e = 0 then none else r.rkp a) pos 0
  | .kfirst d a t =>
    let w := t.width
    let e := r.body w
    r.scalarOut d (((activeOf (r.rk a) w e).head?.map w64).getD (BitVec.allOnes 64)) (if e = 0 then none else r.rkp a) pos 0
  | .kset d a t =>
    let w := t.width
    r.maskOut d (maskOf w (List.range (min (r.rx a).toNat (r.body w)))) (r.rxp a) pos 0
  | .vmsk f d a b k t => f.eff pos d a b k t r
  | .vdb f d a b k t => f.eff pos d a b k t r
  | .vmv d a => ⟨r.wv d r.v[a] r.vp[a], false, 0⟩
  | .reload _ => ⟨r, false, 0⟩
  | .poolLoad d t es => r.writeElems d t.width pos 0 (es.map fun e => ⟨e.1, e.2, none⟩)

/-- Whether an instruction decodes FMTC (R241, R250): a vector form with a q8 operand, the moves and permutes too. The forms
that only count elements or mask bits have none. -/
def PropOp.usesQ8 : PropOp → Bool
  | .vcvtf _ _ c _ t => t == .q8 || c == .q8
  | .vcmp _ _ _ _ _ t | .vsel _ _ _ _ t | .vsplat _ _ _ t | .vmovx _ _ _ t | .vflt _ _ _ _ _ t | .vcvt _ _ _ _ t
  | .vfsplat _ _ _ t | .vmsk _ _ _ _ _ t => t == .q8
  | .alu .. | .cmov .. | .imm .. | .vint .. | .viota .. | .vimm .. | .vfdot2 .. | .klog .. | .knot .. | .kpop .. | .kfirst ..
  | .kset .. | .vdb .. | .vmv .. | .reload .. | .poolLoad .. => false

end Sys2Proof.Machine
end

