-- ==== Sys2Proof/Machine/Operands.lean ====
section
/-! DEFINITION. The operand forms (R261 to R263, R273, R303, R342): effective addresses, branch targets and element addresses,
and the run of a propagating instruction over its operands (R129, R271). -/

namespace Sys2Proof.Machine

/-! Addresses. -/

/-- The address of format K: x[ra] + sint(imm16, 16) modulo 2^64 (R303). -/
def State.addrK (s : State) (a : Reg) (i : BitVec 16) : Word := s.x a + immS i

/-- The address of MEMX: x[ra] + x[rb] modulo 2^64 (R303). -/
def State.addrX (s : State) (a b : Reg) : Word := s.x a + s.x b

/-- A branch target: pc + 4 × the signed displacement (R262). -/
def branchTarget {n : Nat} (pc : Word) (disp : BitVec n) : Word := pc + 4 * disp.signExtend 64

/-- How element addresses of a vector memory form are made (R342). -/
inductive VAddr where
  /-- x[ra] + w × i -/
  | unit
  /-- x[ra] + i × sint(x[rb], 64) -/
  | stride (b : Reg)
  /-- x[ra] + sint(v[vb].e[i], 8w) -/
  | index (b : VReg)
  /-- x[ra] for every element -/
  | broadcast
  deriving DecidableEq, Repr

/-- The address of element `i` of width `w`, modulo 2^64. -/
def VAddr.addr (m : VAddr) (r : Regs) (a : Reg) (w i : Nat) : Word :=
  match m with
  | .unit => r.rx a + w64 (w * i)
  | .stride b => r.rx a + w64 i * r.rx b
  | .index b => r.rx a + w64i (sint (r.elem b w i).val (8 * w))
  | .broadcast => r.rx a

/-- The pool offset of element `i` (R342): indices are unsigned. -/
def VAddr.poolOff (m : VAddr) (r : Regs) (a : Reg) (w i : Nat) : Nat :=
  match m with
  | .unit | .stride _ => (r.rx a + w64 (w * i)).toNat
  | .index b => (r.rx a + w64 (r.elem b w i).val).toNat
  | .broadcast => (r.rx a).toNat

/-- Whether the addresses of some elements are made from a poisoned register or index element. -/
def VAddr.poisoned (m : VAddr) (r : Regs) (a : Reg) (w : Nat) (es : List Nat) : Bool :=
  (r.rxp a).isSome ||
    match m with
    | .unit | .broadcast => false
    | .stride b => (r.rxp b).isSome
    | .index b => es.any fun i => (r.elem b w i).pay.isSome

/-! Propagating instructions. -/

/-- The whole vector registers that a log records. -/
def loggedVecs (l : List LogEntry) : Nat := (l.map (·.vecs)).sum

/-- Whether a log has no room for one more entry (R129). -/
def logFull (l : List LogEntry) (vecs : Nat) : Bool :=
  decide (Config.logMax ≤ l.length) || decide (Config.logVecMax < loggedVecs l + vecs)

/-- An entry appended to the replay log. -/
def Thread.logged (t : Thread) (op : PropOp) (vecs : Nat) : Thread :=
  { t with log := t.log ++ [⟨t.pc, op, t.regs, vecs⟩] }

/-- A propagating instruction runs (R129, R271): its results are written, with a log entry when it read poison; without
room for the entry it is a consumer. An ill-formed FMTC faults before anything is written (R241). -/
def runProp (op : PropOp) (s : State) : State :=
  let o := op.eff (s.th.log.length + 1) s.th.regs
  if o.log && logFull s.th.log o.vecs then s.parkConsumer
  else if op.usesQ8 && (recQ8 s.th.regs.fmtc).isNone then s.parkFault 0x15 0 false 0 0
  else
    let s := if o.log then s.onTh fun t => t.logged op o.vecs else s
    (s.onRegs fun _ => o.regs).adv

/-- A vector form of a core die (R265, R217, R269): illegal on a command core, then the allotment, then its effect. -/
def runVec (w : IWord) (rs : List VReg) (k : State → State) (s : State) : State := guardCmd w (guardAllot rs k) s

end Sys2Proof.Machine
end

