-- ==== Sys2Proof/Machine/Mem.lean ====
section
/-! DEFINITION. Scalar loads and stores (R303 to R310): format K, MEMX, ordered and pool forms, prefetches and DISC. -/

namespace Sys2Proof.Machine

/-! The shared operations. -/

/-- A relaxed scalar load (R305, R127): a failure takes the poison path. -/
def runLoad (d : Reg) (va : Word) (n : Nat) (signed : Bool) (s : State) : State :=
  match s.loadVa va n with
  | (.value v, s) => (s.useUp.setX d (loadValue n signed v)).adv
  | (.fault f pa, s) =>
    s.useUp.poisonPath (.scalar d va n signed) (s.entryOf f.cause va 0 false pa f.detail) s.th.regs []
  | (.wait w, s) => s.park w
  | (.travel pa, s) => s.travel pa

/-- A load whose failure parks the task (R127), and what follows it. -/
def loadThen (va : Word) (n : Nat) (k : Nat → State → State) (s : State) : State :=
  match s.loadVa va n with
  | (.value v, s) => k v s.useUp
  | (.fault f pa, s) => s.useUp.parkFault f.cause va false pa f.detail
  | (.wait w, s) => s.park w
  | (.travel pa, s) => s.travel pa

/-- A translation that gives no address, of an instruction whose failures park the task (R127): it waits, or faults. -/
def State.failX (s : State) (va : Word) (write : Bool) (f : XFault) : State :=
  match f.wait with
  | some w => s.park w
  | none => s.parkFault f.cause va write 0 f.detail

/-- A store of the low `n` bytes of `v` (R305): both pages are translated first; a failure parks the task. -/
def runStore (va : Word) (n : Nat) (v : Nat) (s : State) : State :=
  match s.xlateSpan s.asid va n .store with
  | (.error f, s) => s.failX va true f
  | (.ok ps, s) =>
    match s.travelsTo ps with
    | some pa => s.travel pa
    | none => (s.storePieces va (v % 256 ^ n) ps).adv

/-- A scalar load in format K (R305). -/
def loadK (d a : Reg) (i : BitVec 16) (n : Nat) (signed : Bool) (s : State) : State :=
  consumeX [a] (runLoad d (s.addrK a i) n signed) s

/-- A scalar store in format K (R305). -/
def storeK (d a : Reg) (i : BitVec 16) (n : Nat) (s : State) : State :=
  consumeX [a, d] (runStore (s.addrK a i) n (s.x d).toNat) s

/-- A scalar load of MEMX (R306). -/
def loadX (d a b : Reg) (n : Nat) (signed : Bool) (s : State) : State :=
  consumeX [a, b] (runLoad d (s.addrX a b) n signed) s

/-- A scalar store of MEMX (R306). -/
def storeX (d a b : Reg) (n : Nat) (s : State) : State :=
  consumeX [a, b, d] (runStore (s.addrX a b) n (s.x d).toNat) s

/-- LDAQ (R307): an acquire; every failure is a parking fault. -/
def loadAcq (d a b : Reg) (n : Nat) (s : State) : State :=
  consumeX [a, b] (guardLoads (fun _ => false) (guardAlign (s.addrX a b).toNat n
    (loadThen (s.addrX a b) n fun v s => (s.setX d (w64 v)).adv))) s

/-- STRL (R307): the release at its scope, then the store. -/
def storeRel (d a b : Reg) (sc : ScopeIx) (n : Nat) (s : State) : State :=
  consumeX [a, b, d] (guardLatent (guardAlign (s.addrX a b).toNat n
    (releaseAt sc (runStore (s.addrX a b) n (s.x d).toNat)))) s

/-- A pool load (R305, R306, R308): range, then alignment; it never translates. -/
def loadPool (d : Reg) (o : Word) (n : Nat) (signed : Bool) (s : State) : State :=
  guardPool o.toNat n (guardAlign o.toNat n fun s =>
    (s.setX d (loadValue n signed (s.poolRead o.toNat n))).adv) s

/-- A pool store. -/
def storePool (d : Reg) (o : Word) (n : Nat) (s : State) : State :=
  guardPool o.toNat n (guardAlign o.toNat n fun s => (s.poolWrite o.toNat n (s.x d).toNat).adv) s

/-! Prefetch and discard. -/

/-- A translation without a walk, for a prefetch: it never becomes a watcher (R115). -/
def State.lookAside (s : State) (va : Word) : Option Phys :=
  let leaf : Option Leaf := match extentFor s.th.extents va.toNat 1 with
    | some x => some ⟨x.pbase + (va.toNat - x.vbase) - va.toNat % 65536, x.leaf, 16, x.lines⟩
    | none => (s.core.tlb.find? fun e => e.hits s.slot.val s.th.ctx va).map TlbEntry.asLeaf
  match leaf with
  | none => none
  | some l =>
    if canonical va && (checkLeaf l.bits .load s.th.mode).isNone then
      some ⟨l.pbase + va.toNat % 2 ^ l.log2, l.bits⟩
    else none

/-- A prefetch (R115, R309): it fills a line that has no holder or is held by this die, and is dropped otherwise; where the
directory has no entry free it is dropped too, since it evicts nothing (R93). -/
def State.prefetch (s : State) (high : Bool) (va : Word) : State :=
  match s.lookAside va with
  | none => s
  | some p =>
    let line := lineOf p.pa
    let fits := match (s.lineAt line).held with
      | none => true
      | some h => h == sockOf s.loc
    if isCmd s.loc || p.uncached || !s.isDevMem p.pa || s.lostAt p.pa || s.covered line || !fits ||
        (s.hostHalf (128 * line) 128 true).isSome || (s.busyHalf line).isSome || (s.lineAt line).broken ||
        s.heldBySplit p.pa || !s.roomFor line then s
    else
      let s := s.lineForRead s.loc line true
      if high then s.touch s.loc line (s.lineAt line).valid else s

/-- PFH and PFD: a poisoned operand drops the prefetch (R309). -/
def runPrefetch (high : Bool) (a b : Reg) (s : State) : State :=
  if (s.th.regs.rxp a).isSome || (s.th.regs.rxp b).isSome then s.adv else (s.prefetch high (s.addrX a b)).adv

/-- A team none of whose stores is held any more has no first held store (R143). -/
def Core.keepStaged (k : Core) : Core :=
  { k with stagedAt := k.stagedAt.filter fun p => k.staging.any fun q => (k.tidsOf p.1).contains q.tid }

/-- The thread's own writes to a line leave staging and are performed (R310). An open checkpoint stays open, since R143 lists no
DISC; what a rollback then does to these stores is left open (log 85). -/
def State.flushLine (s : State) (line : Nat) : Served Unit × State :=
  let mine : Pending → Bool := fun p => p.tid == s.th.order && (linesOf p.msg.pa p.msg.n).contains line
  let staged := s.core.staging.filter mine
  let s := s.onCore s.loc fun k => { k with staging := k.staging.filter fun p => !mine p }.keepStaged
  let s := staged.foldl (fun s p => s.issueWrite s.loc s.slot p) s
  s.performAll s.loc (s.core.inflight.filter mine)

/-- A host line kept under HC = 1 is dropped (R310). -/
def State.dropHostLine (s : State) (line : Nat) : State :=
  let s := { s with hostLines := mapErase (mapErase s.hostLines (2 * line)) (2 * line + 1) }
  let s := { s with mem := memWrite s.mem (128 * line) 128 0 }
  s.trigger line

/-- DISC (R109, R310). -/
def runDisc (va : Word) (s : State) : State :=
  match s.xlate s.asid va 1 .store with
  | (.error f, s) => s.failX va true f
  | (.ok p, s) =>
    let line := lineOf p.pa
    match s.flushLine line with
    | (.wait w, s) => s.park w
    | (_, s) =>
      if s.isDevMem p.pa then
        match s.discard ⟨s.loc, s.th.order, s.th.ctx, false⟩ line with
        | (.done _, s) => s.adv
        | (.wait w, s) => s.park w
        | (.fail c, s) => s.parkFault c va true p.pa 0
      else if s.isLocal p.pa && regionOf p.pa == .host then
        if p.hc then (s.dropHostLine line).adv else s.adv
      else s.parkFault 0x13 va true p.pa 0

/-! The instructions. -/

/-- R305. -/
def execLdb (d a : Reg) (i : BitVec 16) (s : State) : Host.Outcome State Fault Refusal := .next (loadK d a i 1 true s)

/-- R305. -/
def execLdh (d a : Reg) (i : BitVec 16) (s : State) : Host.Outcome State Fault Refusal := .next (loadK d a i 2 true s)

/-- R305. -/
def execLdw (d a : Reg) (i : BitVec 16) (s : State) : Host.Outcome State Fault Refusal := .next (loadK d a i 4 true s)

/-- R305. -/
def execLdd (d a : Reg) (i : BitVec 16) (s : State) : Host.Outcome State Fault Refusal := .next (loadK d a i 8 false s)

/-- R305. -/
def execLdbn (d a : Reg) (i : BitVec 16) (s : State) : Host.Outcome State Fault Refusal := .next (loadK d a i 1 false s)

/-- R305. -/
def execLdhn (d a : Reg) (i : BitVec 16) (s : State) : Host.Outcome State Fault Refusal := .next (loadK d a i 2 false s)

/-- R305. -/
def execLdwn (d a : Reg) (i : BitVec 16) (s : State) : Host.Outcome State Fault Refusal := .next (loadK d a i 4 false s)

/-- R305. -/
def execStb (d a : Reg) (i : BitVec 16) (s : State) : Host.Outcome State Fault Refusal := .next (storeK d a i 1 s)

/-- R305. -/
def execSth (d a : Reg) (i : BitVec 16) (s : State) : Host.Outcome State Fault Refusal := .next (storeK d a i 2 s)

/-- R305. -/
def execStw (d a : Reg) (i : BitVec 16) (s : State) : Host.Outcome State Fault Refusal := .next (storeK d a i 4 s)

/-- R305. -/
def execStd (d a : Reg) (i : BitVec 16) (s : State) : Host.Outcome State Fault Refusal := .next (storeK d a i 8 s)

/-- R305. -/
def execLdp (d a : Reg) (i : BitVec 16) (s : State) : Host.Outcome State Fault Refusal := .next (consumeX [a] (loadPool d (s.addrK a i) 8 false) s)

/-- R305. -/
def execStp (d a : Reg) (i : BitVec 16) (s : State) : Host.Outcome State Fault Refusal := .next (consumeX [a, d] (storePool d (s.addrK a i) 8) s)

/-- R306. -/
def execLdxb (d a b : Reg) (s : State) : Host.Outcome State Fault Refusal := .next (loadX d a b 1 true s)

/-- R306. -/
def execLdxh (d a b : Reg) (s : State) : Host.Outcome State Fault Refusal := .next (loadX d a b 2 true s)

/-- R306. -/
def execLdxw (d a b : Reg) (s : State) : Host.Outcome State Fault Refusal := .next (loadX d a b 4 true s)

/-- R306. -/
def execLdxd (d a b : Reg) (s : State) : Host.Outcome State Fault Refusal := .next (loadX d a b 8 false s)

/-- R306. -/
def execLdxbn (d a b : Reg) (s : State) : Host.Outcome State Fault Refusal := .next (loadX d a b 1 false s)

/-- R306. -/
def execLdxhn (d a b : Reg) (s : State) : Host.Outcome State Fault Refusal := .next (loadX d a b 2 false s)

/-- R306. -/
def execLdxwn (d a b : Reg) (s : State) : Host.Outcome State Fault Refusal := .next (loadX d a b 4 false s)

/-- R306. -/
def execStxb (d a b : Reg) (s : State) : Host.Outcome State Fault Refusal := .next (storeX d a b 1 s)

/-- R306. -/
def execStxh (d a b : Reg) (s : State) : Host.Outcome State Fault Refusal := .next (storeX d a b 2 s)

/-- R306. -/
def execStxw (d a b : Reg) (s : State) : Host.Outcome State Fault Refusal := .next (storeX d a b 4 s)

/-- R306. -/
def execStxd (d a b : Reg) (s : State) : Host.Outcome State Fault Refusal := .next (storeX d a b 8 s)

/-- R307; the scope orders nothing more in a model whose loads complete in their step (log 10). -/
def execLdaqB (d a b : Reg) (_sc : ScopeIx) (s : State) : Host.Outcome State Fault Refusal := .next (loadAcq d a b 1 s)

/-- R307; the scope orders nothing more in a model whose loads complete in their step (log 10). -/
def execLdaqH (d a b : Reg) (_sc : ScopeIx) (s : State) : Host.Outcome State Fault Refusal := .next (loadAcq d a b 2 s)

/-- R307; the scope orders nothing more in a model whose loads complete in their step (log 10). -/
def execLdaqW (d a b : Reg) (_sc : ScopeIx) (s : State) : Host.Outcome State Fault Refusal := .next (loadAcq d a b 4 s)

/-- R307; the scope orders nothing more in a model whose loads complete in their step (log 10). -/
def execLdaqD (d a b : Reg) (_sc : ScopeIx) (s : State) : Host.Outcome State Fault Refusal := .next (loadAcq d a b 8 s)

/-- R307. -/
def execStrlB (d a b : Reg) (sc : ScopeIx) (s : State) : Host.Outcome State Fault Refusal := .next (storeRel d a b sc 1 s)

/-- R307. -/
def execStrlH (d a b : Reg) (sc : ScopeIx) (s : State) : Host.Outcome State Fault Refusal := .next (storeRel d a b sc 2 s)

/-- R307. -/
def execStrlW (d a b : Reg) (sc : ScopeIx) (s : State) : Host.Outcome State Fault Refusal := .next (storeRel d a b sc 4 s)

/-- R307. -/
def execStrlD (d a b : Reg) (sc : ScopeIx) (s : State) : Host.Outcome State Fault Refusal := .next (storeRel d a b sc 8 s)

/-- R306. -/
def execLdpb (d a b : Reg) (s : State) : Host.Outcome State Fault Refusal := .next (consumeX [a, b] (loadPool d (s.addrX a b) 1 true) s)

/-- R306. -/
def execLdph (d a b : Reg) (s : State) : Host.Outcome State Fault Refusal := .next (consumeX [a, b] (loadPool d (s.addrX a b) 2 true) s)

/-- R306. -/
def execLdpw (d a b : Reg) (s : State) : Host.Outcome State Fault Refusal := .next (consumeX [a, b] (loadPool d (s.addrX a b) 4 true) s)

/-- R306. -/
def execLdpbn (d a b : Reg) (s : State) : Host.Outcome State Fault Refusal := .next (consumeX [a, b] (loadPool d (s.addrX a b) 1 false) s)

/-- R306. -/
def execLdphn (d a b : Reg) (s : State) : Host.Outcome State Fault Refusal := .next (consumeX [a, b] (loadPool d (s.addrX a b) 2 false) s)

/-- R306. -/
def execLdpwn (d a b : Reg) (s : State) : Host.Outcome State Fault Refusal := .next (consumeX [a, b] (loadPool d (s.addrX a b) 4 false) s)

/-- R306. -/
def execStpb (d a b : Reg) (s : State) : Host.Outcome State Fault Refusal := .next (consumeX [a, b, d] (storePool d (s.addrX a b) 1) s)

/-- R306. -/
def execStph (d a b : Reg) (s : State) : Host.Outcome State Fault Refusal := .next (consumeX [a, b, d] (storePool d (s.addrX a b) 2) s)

/-- R306. -/
def execStpw (d a b : Reg) (s : State) : Host.Outcome State Fault Refusal := .next (consumeX [a, b, d] (storePool d (s.addrX a b) 4) s)

/-- R309. -/
def execPfh (a b : Reg) (s : State) : Host.Outcome State Fault Refusal := .next (runPrefetch true a b s)

/-- R309. -/
def execPfd (a b : Reg) (s : State) : Host.Outcome State Fault Refusal := .next (runPrefetch false a b s)

/-- R310. -/
def execDisc (a b : Reg) (s : State) : Host.Outcome State Fault Refusal := .next (consumeX [a, b] (runDisc (s.addrX a b)) s)

end Sys2Proof.Machine
end

