-- ==== Sys2Proof/Machine/Atomic.lean ====
section
/-! DEFINITION. The atomics (R141, R167, R311 to R313). -/

namespace Sys2Proof.Machine

/-- The thread's own writes to the bytes of an atomic, and those to another package that wait with the core, go ahead of it
(R34, R157). -/
def State.flushBytes (s : State) (pa n : Nat) : Served Unit × State :=
  s.performAll s.loc (s.core.inflight.filter fun p =>
    p.tid == s.th.order && (decide (p.msg.pa < pa + n ∧ pa < p.msg.pa + p.msg.n) ||
      (!s.isLocal pa && pkgOf p.msg.pa == pkgOf pa)))

/-- The write message of an atomic. -/
def State.amoMsg (s : State) (va : Word) (p : Phys) (op b exp : Nat) (wide : Bool := true) : WriteMsg where
  va := va
  pa := p.pa
  n := amoWidth op
  data := BitVec.ofNat 128 b
  leaf := p.leaf
  amo := some (op, w64 exp)
  pc := s.th.pc
  ctx := s.th.ctx
  courier := none
  seq := s.issued
  wide := wide

/-- The request of an atomic whose old value the thread waits for. -/
def State.amoOut (s : State) (w : WriteMsg) : Outstanding where
  core := s.loc
  tag := s.freeTag s.loc
  tid := s.th.order
  pa := w.pa
  n := w.n
  pkg := pkgOf w.pa
  plane := none
  write := none
  fill := false
  engine := none
  nearDone := true
  devDone := true

/-- The old value that has arrived for an atomic, or what the thread waits for once `send` has sent the request. -/
def State.amoGot (s : State) (pa n : Nat) (send : State → State) : Served Nat × State :=
  match s.gotFor pa n with
  | some g =>
    match g.fail with
    | some c => (.fail c, s)
    | none => (.done (g.data.toNat % 256 ^ n), s)
  | none => if s.canSend s.loc pa then (.wait (.response (s.freeTag s.loc)), send s) else (.wait .slot, s)

/-- An atomic in the host window: under HC = 1 it is performed on the line once the home owns it (R66); under HC = 0 the host
die takes the line by RdOwn for the single atomic, which is performed as the line arrives (R313). -/
def State.atomicHost (s : State) (p : Phys) (w : WriteMsg) : Served Nat × State :=
  match s.reach p.pa w.n with
  | .fail c => (.fail c, s)
  | .wait x => (.wait x, s)
  | .done _ =>
  if p.hc then
    match s.gotFor p.pa w.n with
    | some g => (.fail ((g.fail).getD 0x12), s)
    | none =>
      match s.settle s.loc p.pa with
      | (.wait x, s) => (.wait x, s)
      | (_, s) =>
        let old := memRead s.mem p.pa w.n
        match s.performMsg s.loc s.th.order w s.th.order with
        | (.done _, s) => (.done old, s)
        | (.wait x, s) => (.wait x, s)
        | (.fail c, s) => (.fail c, s)
  else s.amoGot p.pa w.n fun s => s.hostRequest { s.amoOut w with amo := some w } .rdOwn 64 none

/-- An atomic in another package whose outcome the thread waits for (R141, R147): a courier message that returns a value. -/
def State.atomicAway (s : State) (p : Phys) (w : WriteMsg) (op : Nat) (exp : Word) : Served Nat × State :=
  s.amoGot p.pa w.n fun s =>
    let c := s.courierAmo s.loc s.slot true w op exp
    let o := s.amoOut w
    (s.out (.courier o.pkg 0 c)).enterGateway
      { o with msgs := [(s.reqHead s.loc o.tag 0 o.pkg .courier 64 w.pa).slot :: courierSlots c] }

/-- An atomic whose address is translated: the old value, or why not. -/
def State.atomicAt (s : State) (va : Word) (p : Phys) (op b exp : Nat) (wide : Bool := true) : Served Nat × State :=
  let w := s.amoMsg va p op b exp wide
  match s.flushBytes p.pa (amoWidth op) with
  | (.wait x, s) => (.wait x, s)
  | (_, s) =>
    if !s.isLocal p.pa then s.atomicAway p w op (w64 exp)
    else
      match regionOf p.pa with
      | .sysreg | .unassigned => (.fail 0x13, s)
      | .host => s.atomicHost p w
      | .lpddr | .near =>
        match s.settle s.loc p.pa with
        | (.wait x, s) => (.wait x, s)
        | (_, s) => s.atomicDev ⟨s.loc, s.th.order, s.th.ctx, !isCmd s.loc && !p.uncached⟩ p.pa op b exp wide

/-- An atomic that returns nothing to its thread is posted (R312): it counts as a store, and waits with the core where it
cannot be performed or sent at once. -/
def State.postAtomic (s : State) (w : WriteMsg) : State :=
  let t := s.countWrite
  if t.servedHere w || t.mustQueue t.loc w then t.enqueueWrite t.loc ⟨t.th.order, w, false⟩
  else t.sendWrite t.loc t.th.order t.slot w

/-- Whether an atomic can be performed at once inside the package. -/
def State.amoHere (s : State) (p : Phys) : Bool := s.isLocal p.pa && (regionOf p.pa != .host || p.hc)

/-- An atomic at a virtual address and what follows it; `waits` when the thread waits for its outcome, so that a failure is
a parking fault (R141), else it is a remote-fault record (R140, R312). -/
def atomicThen (va : Word) (op b exp : Nat) (waits : Bool) (k : Nat → State → State) (s : State) (wide : Bool := true) :
    State :=
  match s.xlate s.asid va (amoWidth op) .atomic with
  | (.error f, s) => s.failX va true f
  | (.ok p, s) =>
    match s.travelsTo [(p, amoWidth op)] with
    | some pa => s.travel pa
    | none =>
      let w := s.amoMsg va p op b exp wide
      if !waits && !s.amoHere p then k 0 (s.postAtomic w)
      else
        match s.atomicAt va p op b exp wide with
        | (.done old, s) => k old s.useUp
        | (.wait x, s) => if waits then s.park x else k 0 (s.postAtomic w)
        | (.fail c, s) =>
          let s := s.useUp
          if waits then s.parkFault c va true p.pa 0
          else k 0 (s.writeFailed s.loc s.th.order (s.findsOut p.pa) c w)

/-- An AMO form (R311 to R313): its poison and release parts, the seal of the checkpoint, and the atomic. -/
def runAmo (op : Nat) (d a b : Reg) (sc : ScopeIx) (o : Ord) (s : State) : State :=
  let rel := o == .rel || o == .ar
  let acq := o == .acq || o == .ar
  let va := s.x a
  let waits := d != 0 || acq
  let act : State → State := fun s =>
    atomicThen va op (s.x b).toNat (s.x d).toNat waits
      (fun old s => (s.setX d (amoOld op old)).adv) s.seal (decide (2 < sc.val))
  let go : State → State := if rel then releaseAt sc act else act
  consumeX (if op = 10 then [a, b, d] else [a, b])
    ((if rel then guardLatent else if acq then guardLoads (fun _ => false) else fun k => k) (guardAlign va.toNat (amoWidth op) go)) s

/-- R311. -/
def execAmoaddd (d a b : Reg) (sc : ScopeIx) (o : Ord) (s : State) : Host.Outcome State Fault Refusal :=
  .next (runAmo 0 d a b sc o s)

/-- R311. -/
def execAmoaddw (d a b : Reg) (sc : ScopeIx) (o : Ord) (s : State) : Host.Outcome State Fault Refusal :=
  .next (runAmo 1 d a b sc o s)

/-- R311. -/
def execAmoand (d a b : Reg) (sc : ScopeIx) (o : Ord) (s : State) : Host.Outcome State Fault Refusal :=
  .next (runAmo 2 d a b sc o s)

/-- R311. -/
def execAmoor (d a b : Reg) (sc : ScopeIx) (o : Ord) (s : State) : Host.Outcome State Fault Refusal :=
  .next (runAmo 3 d a b sc o s)

/-- R311. -/
def execAmoxor (d a b : Reg) (sc : ScopeIx) (o : Ord) (s : State) : Host.Outcome State Fault Refusal :=
  .next (runAmo 4 d a b sc o s)

/-- R311. -/
def execAmomin (d a b : Reg) (sc : ScopeIx) (o : Ord) (s : State) : Host.Outcome State Fault Refusal :=
  .next (runAmo 5 d a b sc o s)

/-- R311. -/
def execAmomax (d a b : Reg) (sc : ScopeIx) (o : Ord) (s : State) : Host.Outcome State Fault Refusal :=
  .next (runAmo 6 d a b sc o s)

/-- R311. -/
def execAmominn (d a b : Reg) (sc : ScopeIx) (o : Ord) (s : State) : Host.Outcome State Fault Refusal :=
  .next (runAmo 7 d a b sc o s)

/-- R311. -/
def execAmomaxn (d a b : Reg) (sc : ScopeIx) (o : Ord) (s : State) : Host.Outcome State Fault Refusal :=
  .next (runAmo 8 d a b sc o s)

/-- R311. -/
def execAmoswap (d a b : Reg) (sc : ScopeIx) (o : Ord) (s : State) : Host.Outcome State Fault Refusal :=
  .next (runAmo 9 d a b sc o s)

/-- R311. -/
def execAmocas (d a b : Reg) (sc : ScopeIx) (o : Ord) (s : State) : Host.Outcome State Fault Refusal :=
  .next (runAmo 10 d a b sc o s)

/-- R311. -/
def execAmofadd32 (d a b : Reg) (sc : ScopeIx) (o : Ord) (s : State) : Host.Outcome State Fault Refusal :=
  .next (runAmo 11 d a b sc o s)

/-- R311. -/
def execAmofmax32 (d a b : Reg) (sc : ScopeIx) (o : Ord) (s : State) : Host.Outcome State Fault Refusal :=
  .next (runAmo 12 d a b sc o s)

end Sys2Proof.Machine
end

