-- ==== Sys2Proof/Machine/Control.lean ====
section
/-! DEFINITION. Branches and jumps (R289 to R294), and the task instructions (R295 to R301). -/

namespace Sys2Proof.Machine

/-! Branches. -/

/-- A plain taken branch: the slot gives up the next offer it would accept (R202, R294). -/
def State.takeBranch (s : State) (target : Word) : State :=
  s.onTh fun t => { t with pc := target, skip := t.skip + 1 }

/-- A conditional branch (R289): it consumes poison. -/
def runBranch (c : Cond) (a b : Reg) (p : BitVec 16) (s : State) : State :=
  consumeX [a, b] (fun s =>
    if c.holds (s.x a) (s.x b) then s.takeBranch (branchTarget s.th.pc p) else s.adv) s

/-- A branch through a prepared target register costs no offer (R293, R294). -/
def runPrepared (taken : Word → Bool) (a : Reg) (n : BReg) (s : State) : State :=
  consumeX [a] (fun s => if taken (s.x a) then s.goto s.th.regs.b[n] else s.adv) s

/-- R289. -/
def execBeq (a b : Reg) (p : BitVec 16) (s : State) : Host.Outcome State Fault Refusal := .next (runBranch .eq a b p s)

/-- R289. -/
def execBne (a b : Reg) (p : BitVec 16) (s : State) : Host.Outcome State Fault Refusal := .next (runBranch .ne a b p s)

/-- R289. -/
def execBlt (a b : Reg) (p : BitVec 16) (s : State) : Host.Outcome State Fault Refusal := .next (runBranch .lt a b p s)

/-- R289. -/
def execBge (a b : Reg) (p : BitVec 16) (s : State) : Host.Outcome State Fault Refusal := .next (runBranch .ge a b p s)

/-- R289. -/
def execBltn (a b : Reg) (p : BitVec 16) (s : State) : Host.Outcome State Fault Refusal := .next (runBranch .ltn a b p s)

/-- R289. -/
def execBgen (a b : Reg) (p : BitVec 16) (s : State) : Host.Outcome State Fault Refusal := .next (runBranch .gen a b p s)

/-- R290. -/
def execJmp (p : BitVec 26) (s : State) : Host.Outcome State Fault Refusal :=
  .next (s.takeBranch (branchTarget s.th.pc p))

/-- R290: the link address goes to x1, clean. -/
def execJal (p : BitVec 26) (s : State) : Host.Outcome State Fault Refusal :=
  .next ((s.setX 1 (s.th.pc + 4)).takeBranch (branchTarget s.th.pc p))

/-- R292: no scalar register is read. -/
def execPrep (n : BReg) (p : BitVec 24) (s : State) : Host.Outcome State Fault Refusal :=
  .next (s.onRegs fun r => { r with b := r.b.set n (branchTarget s.th.pc p) }).adv

/-- R291: bits [1:0] of the target are cleared. -/
def execJr (a : Reg) (s : State) : Host.Outcome State Fault Refusal :=
  .next (consumeX [a] (fun s => s.takeBranch (s.x a &&& ~~~3#64)) s)

/-- R291: the target is read before the link is written. -/
def execJalr (d a : Reg) (s : State) : Host.Outcome State Fault Refusal :=
  .next (consumeX [a] (fun s => (s.setX d (s.th.pc + 4)).takeBranch (s.x a &&& ~~~3#64)) s)

/-- R293: the target is used as written. -/
def execBtr (d : Reg) (n : BReg) (s : State) : Host.Outcome State Fault Refusal :=
  .next ((s.setX d (s.th.pc + 4)).goto s.th.regs.b[n])

/-- R293. -/
def execBtrz (a : Reg) (n : BReg) (s : State) : Host.Outcome State Fault Refusal := .next (runPrepared (· == 0) a n s)

/-- R293. -/
def execBtrnz (a : Reg) (n : BReg) (s : State) : Host.Outcome State Fault Refusal := .next (runPrepared (· != 0) a n s)

/-! Task records (R187) and the spill area of a deque (R190). -/

/-- The doublewords of a record. -/
def TaskRec.words (r : TaskRec) : List Nat :=
  [r.pc.toNat, r.a0.toNat, r.a1.toNat, r.sp.toNat, r.fmtp.toNat, r.rngp.toNat, r.joinp.toNat,
    r.task.toNat + 2 ^ 32 * (r.lh + 2 ^ 12 * r.thread.toNat + 2 ^ 14 * r.nrng)]

/-- Doublewords from an offset as sectors. -/
def sectorsAt (at' : Nat) : List Nat → List (Nat × Nat)
  | [] => []
  | [a] => [(at', a % 2 ^ 64)]
  | a :: b :: r => (at', a % 2 ^ 64 + 2 ^ 64 * (b % 2 ^ 64)) :: sectorsAt (at' + 16) r

/-- The spill area of a core's deque, at the top of its die's near memory (R190). -/
def State.spillArea (s : State) (core : CoreId) : Nat :=
  s.localPa (0x1003FC00000 + sockOf core * 0x40000000 + siteOf core * 0x10000)

/-- The records of a deque past the 64th stand in its spill area, in their order (R190, log 76). -/
def State.keepSpilled (s : State) (core : CoreId) : State :=
  let recs := ((s.getCore core).deque.drop 64).flatMap TaskRec.words
  { s with mem := (sectorsAt (s.spillArea core) recs).foldl (fun m p => memWrite m p.1 16 p.2) s.mem }

/-! Fork and join. -/

/-- The record that FORK pushes (R295). -/
def State.forkRec (s : State) (a b : Reg) : TaskRec where
  pc := s.x a &&& ~~~3#64
  a0 := s.x 10
  a1 := s.x 11
  sp := s.x 13
  fmtp := ((s.launchAt s.th.lh).map (·.fmtctx)).getD s.th.fmtp
  rngp := 0
  joinp := s.x b &&& ~~~7#64
  task := s.th.task
  lh := s.th.lh
  thread := true
  nrng := 0

/-- The count of FORK (R295): 1 is added to the join counter; a failure is a parking fault. -/
def forkCount (j : Word) (k : State → State) (s : State) : State :=
  if j = 0 then k s
  else
    let s := atomicThen j 0 1 0 true (fun _ s => k s) s
    match s.th.status with
    | .parked .fault | .parked (.fqSpace _) => s.onTh fun t => { t with reserved := false }
    | _ => s

/-- A record of a live launch counts as one of its tasks (R79, R197). -/
def State.countTask (s : State) (h : Nat) : State :=
  match s.launchAt h with
  | some l => { s with launches := mapSet s.launches h { l with live := l.live + 1 } }
  | none => s

/-- The push of FORK (R191, R295): at the bottom of the core's deque; it ends the core's wait between two sequences of steals
(R199). -/
def forkPush (d : Reg) (r : TaskRec) (s : State) : State :=
  let s := ((s.onHere fun k => { k with deque := r :: k.deque, stealWait := none }).keepSpilled s.loc).countTask r.lh
  ((((s.onTh fun t => { t with reserved := false }).setX d 0).adv)).later (.taskDispatch s.loc)

/-- Places of a core's deque that forks have reserved (R295), those of threads that have been spilled since included. -/
def Core.reserved (k : Core) : Nat :=
  ((k.slots.toList.filter fun t => t.status != .empty && t.reserved) ++ (k.saves.map (·.thread)).filter (·.reserved)).length

/-- FORK (R295): room, which is then reserved, release, count, push. -/
def runFork (d a b : Reg) (s : State) : State :=
  consumeX [a, b, 10, 11, 13] (fun s =>
    if isCmd s.loc then (s.setX d 2).adv
    else if !s.th.reserved && decide (Config.dequeMax ≤ s.core.deque.length + s.here.reserved) then (s.setX d 1).adv
    else (fun s : State => withRelease (some .device) (fun s =>
      let r := s.forkRec a b
      forkCount r.joinp (forkPush d r) s.seal) s) (s.onTh fun t => { t with reserved := true })) s

/-- R295. -/
def execFork (d a b : Reg) (s : State) : Host.Outcome State Fault Refusal := .next (runFork d a b s)

/-- JOIN (R297): it completes at a read of 0, else the slot parks and watches the counter's line; a record in the core's deque
may then need its slot (R298). -/
def runJoin (a : Reg) (s : State) : State :=
  let va := s.x a &&& ~~~7#64
  consumeX [a] (guardLoads (fun _ => false) (loadThen va 8 fun v s =>
    if v = 0 then s.adv
    else
      match s.xlate s.asid va 8 .load with
      | (.ok p, s) =>
        let s := s.park (.join (lineOf p.pa) va)
        if s.core.deque.isEmpty then s else s.later (.taskDispatch s.loc)
      | (.error f, s) => s.failX va false f)) s

/-- R297. -/
def execJoin (a : Reg) (s : State) : Host.Outcome State Fault Refusal := .next (runJoin a s)

/-- R299: the next two offers are given up. -/
def execYield (s : State) : Host.Outcome State Fault Refusal :=
  .next (s.onTh fun t => { t with skip := t.skip + 2 }).adv

/-! Stop. -/

/-- Whether a copy of the thread has not arrived (R300). -/
def State.copiesOut (s : State) : Bool := s.core.copies.any fun c => c.tid == s.th.order

/-- The slot becomes empty, and the thread's register frames return to its team (R300, R322). -/
def State.emptySlot (s : State) : State :=
  let n := s.th.allot
  let tm := s.th.team
  let s := s.onTeam fun t => { t with frames := t.frames - n, stopped := t.stopped + 1 }
  let s := s.onTh fun t => { t with
    status := .empty, allot := 0, watch := Vector.replicate 4 WatchEntry.clear, log := [], extents := [] }
  if isCmd s.loc then s
  else (s.later (.taskRetire s.loc tm)).later (.slotRestore s.loc)

/-- The join step of a forked thread task (R296, R300). -/
def joinStep (k : State → State) (s : State) : State :=
  if s.th.kind = .thread ∧ s.th.joinp ≠ 0 then atomicThen s.th.joinp 0 (2 ^ 64 - 1) 0 true (fun _ s => k s) s
  else k s

/-- STOP (R300): consumer check, copies, release at host level, join step, empty slot. -/
def runStop (s : State) : State :=
  guardPending (fun s =>
    if s.copiesOut then s.park .copies
    else withRelease (some .host) (joinStep State.emptySlot) s) s

/-- R300. -/
def execStop (s : State) : Host.Outcome State Fault Refusal := .next (runStop s)

/-- R301: a supervisor strand has no task record and reads 0. -/
def execTaskid (d : Reg) (s : State) : Host.Outcome State Fault Refusal :=
  .next (s.setX d (if s.th.kind = .strand then 0 else s.th.task.setWidth 64)).adv

end Sys2Proof.Machine
end

