-- ==== Sys2Proof/Machine/Sync.lean ====
section
/-! DEFINITION. Fences (R160, R314), barriers (R315, R316), barrier objects (R224, R225, R317), SCOPESET (R318), WATCH and
WAITEV (R322 to R325). -/

namespace Sys2Proof.Machine

/-! Fences. -/

/-- FENCE and FENCERL: a release at the scope (R160). -/
def runFence (sc : ScopeIx) (s : State) : State := releaseAt sc State.adv s

/-- R160. -/
def execFence (sc : ScopeIx) (s : State) : Host.Outcome State Fault Refusal := .next (runFence sc s)

/-- R160; later loads of a model that performs each load in its step need no further order (log 10). -/
def execFencerl (sc : ScopeIx) (s : State) : Host.Outcome State Fault Refusal := .next (releaseAt sc State.adv s)

/-- R160: no release; a consumer (R131). -/
def execFenceaq (_sc : ScopeIx) (s : State) : Host.Outcome State Fault Refusal := .next (guardLatent State.adv s)

/-- R125, R160: the release is at `.sys`, and every kill that the thread's stores sent is acknowledged. -/
def execXfence (_sc : ScopeIx) (s : State) : Host.Outcome State Fault Refusal :=
  .next (withRelease (some .host) (fun s => (s.finishKills s.loc s.th.order).adv) s)

/-! Barriers of a team and of a gang. -/

/-- A thread that waits for something departs: it acquires, and goes on after its instruction. -/
def Thread.departIf (p : Wait → Bool) (t : Thread) : Thread :=
  match t.status with
  | .parked w => if p w then { t with status := .ready, pc := t.pc + 4 } else t
  | _ => t

/-- The threads of a team, in their slots or save areas, changed. -/
def Core.onMembers (k : Core) (team : Nat) (f : Thread → Thread) : Core :=
  { k with
    slots := k.slots.map fun t => if t.status != .empty && t.team == team then f t else t
    saves := k.saves.map fun v => if v.thread.team == team then { v with thread := f v.thread } else v }

/-- The members of a team as a checkpoint holds them (R142): dispatch number, registers and pc. -/
def Core.memberStates (k : Core) (team : Nat) : List (Nat × Regs × Word) :=
  (k.slots.toList.filter fun t => t.status != .empty && t.team == team).map (fun t => (t.order, t.regs, t.pc)) ++
    (k.saves.filter fun v => v.thread.team == team).map fun v => (v.thread.order, v.thread.regs, v.thread.pc)

/-- A checkpoint of a team is taken and open (R142). -/
def Core.openCheckpoint (k : Core) (team : Nat) : Core :=
  k.onTeam team fun t => { t with ckpt := ⟨k.memberStates team, true, [], []⟩ }

/-- The core and number of each team of the current thread's gang, its own included (R178). -/
def State.gangTeams (s : State) (tm : Team) : List (CoreId × Nat) :=
  if tm.kind = .gang then
    tm.gang.flatMap fun c =>
      ((s.getCore c).teams.filter fun t => t.lh == tm.lh && t.task == tm.task && t.kind == .gang).map fun t => (c, t.id)
  else [(s.loc, tm.id)]

/-- A team of any core. -/
def State.teamAt (s : State) (c : CoreId) (id : Nat) : Option Team := (s.getCore c).teams.find? fun t => t.id == id

/-- BART: the episode completes with the last of the team's threads (R315). -/
def State.bartDepart (s : State) (c : CoreId) (id : Nat) : State :=
  s.onCore c fun k =>
    let k := k.onMembers id (Thread.departIf fun w => match w with | .bart _ => true | _ => false)
    let k := k.onTeam id fun t => { t with bartCount := 0, bartDone := t.bartDone + 1 }
    k.openCheckpoint id

/-- BARG: the episode completes with the last thread of the gang. -/
def State.bargDepart (s : State) (c : CoreId) (id : Nat) : State :=
  s.onCore c fun k =>
    let k := k.onMembers id (Thread.departIf fun w => match w with | .barg _ => true | _ => false)
    let k := k.onTeam id fun t => { t with bargCount := 0, bargDone := t.bargDone + 1 }
    k.openCheckpoint id

/-- A counted arrival of the current thread at barrier `i` (0 BART, 1 BARG, 2 BARB): R208 no longer protects it for that
barrier. -/
def State.arrive (s : State) (i : Fin 3) (w : Wait) : State :=
  s.onTh fun t => { t with
    status := .parked w, arrivals := t.arrivals.set i (t.arrivals[i] + 1), 
    protect := t.protect.filter (· != i) }

/-- A barrier on a command core is a barrier error (R315). -/
def guardTeam (k : Team → State → State) (s : State) : State :=
  match s.team with
  | none => s.trap 0x07 0
  | some t => k t s

/-- BART (R315). -/
def runBart (sc : ScopeIx) (s : State) : State :=
  guardLatent (guardTeam fun _ s =>
    withReleaseOf (widerLevel (s.levelOf sc) (some .near)) (s.scopeHas sc) (fun s =>
      let s := s.onTeam fun t => { t with bartCount := t.bartCount + 1 }
      match s.team with
      | none => s
      | some t =>
        let s := s.arrive 0 (.bart t.bartDone)
        if t.bartCount = s.th.teamw then s.bartDepart s.loc t.id else s) s) s

/-- R315. -/
def execBart (sc : ScopeIx) (s : State) : Host.Outcome State Fault Refusal := .next (runBart sc s)

/-- BARG (R315). -/
def runBarg (sc : ScopeIx) (s : State) : State :=
  guardLatent (guardTeam fun _ s =>
    withReleaseOf (widerLevel (s.levelOf sc) (some .near)) (s.scopeHas sc) (fun s =>
      let s := s.onTeam fun t => { t with bargCount := t.bargCount + 1 }
      match s.team with
      | none => s
      | some t =>
        let s := s.arrive 1 (.barg t.bargDone)
        let ts := s.gangTeams t
        let n := (ts.map fun p => ((s.teamAt p.1 p.2).map (·.bargCount)).getD 0).sum
        if n = s.th.gangw * s.th.teamw then ts.foldl (fun s p => s.bargDepart p.1 p.2) s else s) s) s

/-- R315. -/
def execBarg (sc : ScopeIx) (s : State) : Host.Outcome State Fault Refusal := .next (runBarg sc s)

/-- BARB (R316): the core's arrival leaves once all its threads have arrived. -/
def runBarb (sc : ScopeIx) (s : State) : State :=
  guardLatent (guardTeam fun t s =>
    match t.band with
    | none => s.trap 0x07 0
    | some id =>
      if ((s.causeway[id]?).map (·.broken)).getD false then s.trap 0x07 (w64 id)
      else
        withReleaseOf (widerLevel (s.levelOf sc) (some .device)) (fun c => decide (levelRank (s.levelOf sc) < 3) || s.scopeHas sc c) (fun s =>
          let s := s.onTeam fun t => { t with barbCount := t.barbCount + 1 }
          let s := s.arrive 2 (.barb id t.barbPhase)
          if t.barbCount + 1 = s.th.teamw then
            (s.onTeam fun t => { t with barbCount := 0 }).later (.causewayArrival (Fin.ofNat 64 id) t.barbPhase)
          else s) s) s

/-- R316. -/
def execBarb (sc : ScopeIx) (s : State) : Host.Outcome State Fault Refusal := .next (runBarb sc s)

/-! Barrier objects (R224, R225). -/

/-- A barrier object. -/
structure BarObj where
  bytes : Int
  thr : Nat
  phase : Bool
  v : Bool
  err : Bool
  thrn : Nat
  deriving DecidableEq, Repr

/-- The object in 128 bits of the scratchpad (R224). -/
def BarObj.ofBits (n : Nat) : BarObj where
  bytes := sint n 32
  thr := n / 2 ^ 32 % 2 ^ 16
  phase := n / 2 ^ 48 % 2 == 1
  v := n / 2 ^ 49 % 2 == 1
  err := n / 2 ^ 50 % 2 == 1
  thrn := n / 2 ^ 64 % 2 ^ 16

/-- The object as 128 bits; reserved bits are 0. -/
def BarObj.toBits (b : BarObj) : Nat :=
  uint b.bytes 32 + 2 ^ 32 * b.thr + 2 ^ 48 * b.phase.toNat + 2 ^ 49 * b.v.toNat + 2 ^ 50 * b.err.toNat + 2 ^ 64 * b.thrn

/-- An update (R225): bytes added and thread arrivals taken off; out of range sets ERR; a completed phase toggles. -/
def BarObj.update (b : BarObj) (bytes : Int) (arrivals : Nat) : BarObj :=
  let n := b.bytes + bytes
  if n < -(2 ^ 31) ∨ 2 ^ 31 ≤ n ∨ b.thr < arrivals then { b with err := true }
  else if n = 0 ∧ b.thr = arrivals then { b with bytes := 0, thr := b.thrn, phase := !b.phase }
  else { b with bytes := n, thr := b.thr - arrivals }

/-- `n` bytes of the scratchpad of a team, or of a command core's pool. -/
def State.poolReadOf (s : State) (core : CoreId) (team o n : Nat) : Nat :=
  if isCmd core then memRead (s.getCore core).pool o n
  else ((s.teamAt core team).map fun t => memRead t.pool o n).getD 0

/-- A barrier object of a team of a core. -/
def State.barObj (s : State) (core : CoreId) (team o : Nat) : BarObj := BarObj.ofBits (s.poolReadOf core team o 16)

/-- Whether a wait is for an object and a phase. -/
def waitsOn (o : Nat) (p : Bool) : Wait → Bool
  | .bowait off q => off == o && q == p
  | _ => false

/-- Whether a wait is for an object. -/
def waitsObj (o : Nat) : Wait → Bool
  | .bowait off _ => off == o
  | _ => false

/-- A BOWAIT already parked on an object with ERR takes the barrier-error trap at once (R225); one that is spilled takes it
when it runs again. -/
def State.barError (s : State) (core : CoreId) (team o : Nat) : State :=
  let s := (List.finRange 8).foldl (fun s sl =>
    let t := s.getThread core sl
    match t.status with
    | .parked w =>
      if waitsObj o w && (t.team == team || isCmd core) then s.asThread core sl fun s => s.wake.trap 0x07 (w64 o) else s
    | _ => s) s
  s.onCore core fun k => { k with saves := k.saves.map fun v =>
    if v.thread.team == team then { v with thread := v.thread.retryIf (waitsObj o) } else v }

/-- A barrier object updated (R225), with what its waiters do. -/
def State.barUpdate (s : State) (core : CoreId) (team o : Nat) (bytes : Int) (arrivals : Nat) : State :=
  let b := s.barObj core team o
  let c := b.update bytes arrivals
  let s := s.poolWriteOf core team o 16 c.toBits
  if c.err && !b.err then s.barError core team o
  else if c.phase != b.phase then s.onCore core fun k => k.onMembers team (Thread.departIf (waitsOn o b.phase))
  else s

/-- The checks of an object operand: range, alignment (R317). -/
def guardObj (o : Word) (k : State → State) (s : State) : State := guardPool o.toNat 16 (guardAlign o.toNat 16 k) s

/-- BOINIT (R317). -/
def runBoinit (a b : Reg) (s : State) : State :=
  consumeX [a, b] (fun s => guardObj (s.x a) (fun s =>
    let n := (s.x b).toNat
    if n = 0 ∨ 65535 < n then s.trap 0x07 (s.x a)
    else (s.poolWrite (s.x a).toNat 16 (BarObj.toBits ⟨0, n, false, true, false, n⟩)).adv) s) s

/-- R317. -/
def execBoinit (a b : Reg) (s : State) : Host.Outcome State Fault Refusal := .next (runBoinit a b s)

/-- R317: bytes are expected. -/
def execBoexp (a b : Reg) (s : State) : Host.Outcome State Fault Refusal :=
  .next (consumeX [a, b] (fun s => guardObj (s.x a) (fun s =>
    (s.barUpdate s.loc s.th.team (s.x a).toNat (s.x b).toNat 0).adv) s) s)

/-- R317: release, then one thread arrival. -/
def execBoarr (a : Reg) (sc : ScopeIx) (s : State) : Host.Outcome State Fault Refusal :=
  .next (consumeX [a] (guardLatent fun s => guardObj (s.x a) (releaseAt sc fun s =>
    (s.barUpdate s.loc s.th.team (s.x a).toNat 0 1).adv) s) s)

/-- A ring of a core. -/
def State.ringAt (s : State) (core : CoreId) (n : Fin 8) : Option Ring := (s.getCore core).rings[n]

/-- The core and team of each receiver of a copy (R231, R365). -/
def State.receivers (s : State) (core : CoreId) (c : Copy) : List (CoreId × Nat) :=
  match c.kind with
  | .cpym mask =>
    if isCmd core then [(core, c.team)]
    else
      match s.teamAt core c.team with
      | none => []
      | some tm =>
        if tm.kind = .gang then
          (List.range 4).filterMap fun g =>
            if mask / 2 ^ g % 2 = 1 then
              (tm.gang[g]?).bind fun d =>
                ((s.getCore d).teams.find? fun t => t.lh == tm.lh && t.task == tm.task && t.kind == .gang).map fun t => (d, t.id)
            else none
        else [(core, c.team)]
  | .cpyr r =>
    match s.ringAt core (Fin.ofNat 8 r) with
    | some g => match g.remote with
      | some p => [p]
      | none => [(core, c.team)]
    | none => []
  | .cpy | .cpyg _ | .cpyp _ => [(core, c.team)]

/-- Whether a barrier object of a copy lies on the core that issued it: one of its receivers' objects does, or the copy reads
the pool (R230, R363). -/
def State.copyOwn (s : State) (core : CoreId) (c : Copy) : Bool :=
  c.geom.dir || (s.receivers core c).any fun p => p.1 == core

/-- Whether a stopped copy names a barrier object of the current core (R230). -/
def State.copyOn (s : State) (o : Nat) (id : Nat) : Bool :=
  s.core.copies.any fun c => c.id == id && c.bo == o && s.copyOwn s.loc c

/-- BOWAIT (R317): a complete phase returns at once, an object with ERR traps, else the slot parks. -/
def runBowait (a b : Reg) (s : State) : State :=
  consumeX [a, b] (guardLoads (s.copyOn (s.x a).toNat) fun s => guardObj (s.x a) (fun s =>
    let o := (s.x a).toNat
    let p := (s.x b).getLsbD 0
    let obj := s.barObj s.loc s.th.team o
    if obj.err then s.trap 0x07 (w64 o)
    else if obj.phase != p then s.adv
    else s.park (.bowait o p)) s) s

/-- R317; the scope of the acquire orders nothing more here (log 10). -/
def execBowait (a b : Reg) (_sc : ScopeIx) (s : State) : Host.Outcome State Fault Refusal := .next (runBowait a b s)

/-- BOTEST (R317): a result of 1 is an acquire, and so a consumer (R131). -/
def runBotest (d a b : Reg) (s : State) : State :=
  consumeX [a, b] (fun s => guardObj (s.x a) (fun s =>
    let o := (s.x a).toNat
    let p := (s.x b).getLsbD 0
    let obj := s.barObj s.loc s.th.team o
    if obj.err then s.trap 0x07 (w64 o)
    else if obj.phase != p then guardLoads (s.copyOn o) (fun s => (s.setX d 1).adv) s
    else (s.setX d 0).adv) s) s

/-- R317. -/
def execBotest (d a b : Reg) (_sc : ScopeIx) (s : State) : Host.Outcome State Fault Refusal := .next (runBotest d a b s)

/-! The scope table. -/

/-- `n` bytes of a list replaced from an index. -/
def listPut (l : List Byte) (at' : Nat) (new : List Byte) : List Byte :=
  l.take at' ++ new ++ l.drop (at' + new.length)

/-- SCOPESET (R318): one entry of the launch's table is read again. -/
def runScopeset (n : ScopeIx) (s : State) : State :=
  if s.th.kind = .strand then s.adv
  else
    loadThen (s.th.scopet + w64 (128 * (n.val - 8))) 128 (fun v s =>
      let tab := (mapGet s.core.scopes s.th.scopeKey).getD (List.replicate 3072 0)
      let tab := listPut tab (128 * (n.val - 8)) (toBytes 128 v)
      (s.onHere fun k => { k with scopes := mapSet k.scopes s.th.scopeKey tab }).adv) s

/-- R318. -/
def execScopeset (n : ScopeIx) (s : State) : Host.Outcome State Fault Refusal := .next (runScopeset n s)

/-! WATCH and WAITEV. -/

/-- Whether a line can be registered (R324): else it is polled. A line of another package, which the table does not list, is
polled (log 89). -/
def State.registers (s : State) (p : Phys) : Bool :=
  s.isLocal p.pa &&
    (match regionOf p.pa with
     | .lpddr | .near => !p.uncached && !s.covered (lineOf p.pa)
     | .host => p.hc
     | .sysreg =>
       (List.range 8).any fun n => lineOf (s.localPa (mailboxOff n)) == lineOf p.pa
     | .unassigned => false)

/-- The entry that WATCH takes for a line (R323). -/
def watchSlot (ws : Vector WatchEntry 4) (line : Nat) : Fin 4 :=
  match (List.finRange 4).find? fun i => ws[i].armed && ws[i].line == line with
  | some i => i
  | none =>
    match (List.finRange 4).find? fun i => !ws[i].armed with
    | some i => i
    | none => (List.finRange 4).foldl (fun j i => if ws[i].since < ws[j].since then i else j) 0

/-- The home holds both halves of a host line that WATCH registers, or asks the host for the line (R324). -/
def State.takeLine (s : State) (p : Phys) : LoadOut × State :=
  let pa := 128 * lineOf p.pa
  match s.gotFor pa 128, s.reach pa 128 with
  | some g, _ => (.fault (xfail ((g.fail).getD 0x12) 0) p.pa, s)
  | none, .fail c => (.fault (xfail c 0) p.pa, s)
  | none, .wait w => (.wait w, s)
  | none, .done _ =>
    match s.obtain s.loc s.th.order none pa 128 false with
    | (some w, s) => (.wait w, s)
    | (none, s) => (.value 0, s)

/-- WATCH takes an entry for a line (R323). -/
def watchArm (d : Reg) (p : Phys) (s : State) : State :=
  let line := lineOf p.pa
  let i := watchSlot s.th.watch line
  let e : WatchEntry := ⟨line, true, false, !s.registers p, s.core.cycle⟩
  ((s.onTh fun t => { t with watch := t.watch.set i e }).setX d (w64 i.val)).adv

/-- WATCH (R323): a host line under HC = 1 that the home does not hold is taken first. -/
def runWatch (d a : Reg) (s : State) : State :=
  consumeX [a] (fun s =>
    match s.xlate s.asid (s.x a) 1 .load with
    | (.error f, s) => s.failX (s.x a) false f
    | (.ok p, s) =>
      if s.isLocal p.pa && regionOf p.pa == .host && p.hc then
        match s.takeLine p with
        | (.wait w, s) => s.park w
        | (.fault f pa, s) => s.useUp.parkFault f.cause (s.x a) false pa 0
        | (_, s) => watchArm d p s.useUp
      else watchArm d p s) s

/-- R323. -/
def execWatch (d a : Reg) (s : State) : Host.Outcome State Fault Refusal := .next (runWatch d a s)

/-- WAITEV (R325). -/
def runWaitev (d a : Reg) (s : State) : State :=
  consumeX [a] (fun s =>
    if !(s.th.watch.any fun e => e.armed) then (s.setX d 0x20).adv
    else if s.th.triggeredMask = 0 then
      s.park (.waitev d (if s.x a = 0 then none else some (s.core.cycle + (s.x a).toNat)))
    else s.onTh fun t => t.endWaitev d) s

/-- R325. -/
def execWaitev (d a : Reg) (s : State) : Host.Outcome State Fault Refusal := .next (runWaitev d a s)

end Sys2Proof.Machine
end

