-- ==== Sys2Proof/Machine/Tiles.lean ====
section
/-! DEFINITION. The tile forms TDECL, TDROP, TFWD and PUBL (R94 to R106, R319 to R321) and the events of tiles that complete
them (R100, R102, R104). -/

namespace Sys2Proof.Machine

/-! Descriptors (R94). -/

/-- A tile descriptor. -/
structure TileDesc where
  base : Word
  rows : Nat
  rowq : Nat
  pitch : Nat
  fmt : Nat
  shad : Bool
  nnb : Nat
  ht : Nat
  hb : Nat
  hl : Nat
  hr : Nat
  neigh : List Nat
  /-- the reserved bits, as a number -/
  reserved : Nat
  deriving DecidableEq, Repr

/-- Bytes `i` to `i + n` of a number. -/
def bytesAt (v i n : Nat) : Nat := v / 256 ^ i % 256 ^ n

/-- The descriptor in 64 bytes (R94). -/
def TileDesc.ofBits (v : Nat) : TileDesc where
  base := w64 (bytesAt v 0 8)
  rows := bytesAt v 8 2
  rowq := bytesAt v 0xA 2 % 8192
  pitch := bytesAt v 0xC 4
  fmt := bytesAt v 0x10 1
  shad := bytesAt v 0x11 1 % 2 == 1
  nnb := bytesAt v 0x11 1 / 2 % 16
  ht := bytesAt v 0x12 1
  hb := bytesAt v 0x13 1
  hl := bytesAt v 0x14 1
  hr := bytesAt v 0x15 1
  neigh := (List.range (min 8 (bytesAt v 0x11 1 / 2 % 16))).map fun i => bytesAt v (0x18 + 2 * i) 2
  reserved := bytesAt v 0xA 2 / 8192 + bytesAt v 0x11 1 / 32 + bytesAt v 0x16 2 + bytesAt v 0x28 24

/-- A format code that is not reserved (R235). -/
def codeDefined (code : Nat) : Bool := decide (1 ≤ code ∧ code ≤ 4) || (fmtOfCode code).isSome

/-- Bytes of a descriptor's footprint (R97). -/
def TileDesc.span (d : TileDesc) : Nat := (d.rows - 1) * d.pitch + 16 * d.rowq

/-- The checks of R95 that the descriptor alone decides. -/
def TileDesc.ok (d : TileDesc) : Bool :=
  d.reserved == 0 && d.base.toNat % 16 == 0 && canonical d.base &&
    decide (1 ≤ d.rows ∧ d.rows ≤ 4096 ∧ 1 ≤ d.rowq ∧ d.rowq ≤ 4096) &&
    (d.rows == 1 || (d.pitch % 16 == 0 && decide (16 * d.rowq ≤ d.pitch))) &&
    codeDefined d.fmt && decide (d.nnb ≤ 8) && decide (d.ht + d.hb ≤ d.rows ∧ d.hl + d.hr ≤ d.rowq) &&
    !(d.nnb == 0 && decide (0 < d.ht + d.hb + d.hl + d.hr)) && d.neigh.Nodup

/-- The neighbours as physical cores, if each is an enabled logical core other than the declaring one (R95, R98). -/
def State.resolveNeigh (s : State) : List Nat → Option (List CoreId)
  | [] => some []
  | n :: r =>
    match s.logical n, s.resolveNeigh r with
    | some c, some cs => if c = s.loc then none else some (c :: cs)
    | _, _ => none

/-- The tile that a descriptor declares at a physical address, by the current thread (R98). -/
def State.tileOf (s : State) (d : TileDesc) (ns : List CoreId) : Tile where
  tstate := .owned
  gen := false
  shad := d.shad
  rows := d.rows
  rowq := d.rowq
  pitch := d.pitch
  owner := s.loc
  ftgt := 0
  dcore := s.loc
  ctx := s.th.ctx
  sfrm := 0
  ht := d.ht
  hb := d.hb
  hl := d.hl
  hr := d.hr
  fmt := BitVec.ofNat 8 d.fmt
  neighbours := ns
  prev := .owned
  prevOwner := s.loc

/-! Shadow frames (R89, R103). -/

/-- Units of 4 KiB that a tile's frame takes (R89). -/
def Tile.units (t : Tile) : Nat := (t.footprint + 4095) / 4096

/-- Bytes of a saved context (R391): header, records, slots, save areas in use and reserved banks. -/
def Core.savedBytes (k : Core) : Nat :=
  0x82000 + 0xC000 * k.saves.length +
    8192 * (k.teams.map fun t => rfbOf t.poolpart + acbOf t.poolpart + spbOf t.poolpart).sum

/-- Shadow storage of a die in use, in bytes: the contexts that swaps have moved there (R89, R184). -/
def State.contextsUsed (s : State) (die : Nat) : Nat :=
  (s.parts.toList.flatMap fun p =>
    if p.viaMem then [] else (p.saved.filter fun q => sockOf q.1 == die).map fun q => q.2.savedBytes).sum

/-- Bytes of a member in its team's checkpoint bank: its scalar, branch-target, mask and vector registers (R142). -/
def bankBytes (t : Thread) : Nat := 8 * 32 + 8 * 4 + 32 * 8 + 1024 * t.allot

/-- Shadow storage of a die in use, in bytes: the checkpoint banks of its cores' teams (R89, R142). -/
def State.banksUsed (s : State) (die : Nat) : Nat :=
  ((s.coreList.filter fun c => sockOf c == die && !isCmd c).map fun c =>
    (((s.getCore c).slots.toList.filter fun t => t.status != .empty).map bankBytes).sum).sum

/-- The first room of `need` units among the frames in use, given in ascending order. -/
def firstRoom (need : Nat) : Nat → List (Nat × Nat) → Nat
  | start, [] => start
  | start, (a, n) :: r => if start + need ≤ a then start else firstRoom need (a + n) r

/-- A frame for a tile on its home die, if shadow storage has room (R89). -/
def State.allocFrame (s : State) (pb : Nat) (t : Tile) : Option Nat :=
  let die := homeOf pb
  let used := (s.tiles.filter fun p => p.2.shad && homeOf p.1 == die).map fun p => (p.2.sfrm, p.2.units)
  let start := firstRoom t.units 0 (sortBy (·.1) used)
  if start + t.units + (s.contextsUsed die + s.banksUsed die + 4095) / 4096 ≤ s.sramShadow * 32768 then some start else none

/-- A frame whose bytes read zero: it has never been used (R101). -/
def State.clearFrame (s : State) (pb : Nat) (t : Tile) : State :=
  let lo := t.frameByte pb pb
  { s with
    shadow := s.shadow.filter fun p => !(decide (lo ≤ p.1 ∧ p.1 < lo + 4096 * t.units))
    psect := s.psect.filter fun m => !(decide (shadowMark lo ≤ m ∧ m < shadowMark (lo + 4096 * t.units))) }

/-- A poison mark set or cleared. -/
def State.setMark (s : State) (m : Nat) (on : Bool) : State :=
  let rest := s.psect.filter (· != m)
  { s with psect := if on then rest ++ [m] else rest }

/-- The visible frame copied into the tile's own memory, with its poison marks (R100: TDROP with GEN = 1). -/
def State.frameToMemory (s : State) (pb : Nat) (t : Tile) : State :=
  (t.sectors pb).foldl (fun s pa =>
    ((List.range 16).foldl (fun s i =>
      { s with mem := memPut s.mem (pa + i) ((mapGet s.shadow (t.frameByte pb (pa + i))).getD 0) }) s).setMark (pa / 16)
        (s.psect.contains (shadowMark (t.frameByte pb pa)))) s

/-- TOV of the lines of a footprint (R92): 1 while a declared tile covers a sector. -/
def State.markLines (s : State) (ls : List Nat) : State :=
  ls.foldl (fun s l =>
    let tov := (List.range 8).any fun j => s.tiles.any fun p => p.2.covers p.1 (128 * l + 16 * j)
    s.setLine l { (s.lineAt l) with tov := tov }) s

/-! TDECL. -/

/-- The declaring transaction of R100: line holders are recalled, and the whole tile is filled into the owner's die. -/
def State.declare (s : State) (pb : Nat) (t : Tile) : State :=
  let ls := t.lines pb
  let s := (ls.foldl (fun s l => s.recall l) s).tileFill pb t
  let s := { s with tiles := mapSet s.tiles pb t, declRecs := mapSet s.declRecs pb t }
  ((if t.shad then s.clearFrame pb t else s).markLines ls).tileArrives pb t t.owner

/-- What holds the declaring transaction up: the wait after a split (R56), or a transaction of a line of its footprint
(R90). -/
def State.declWaits (s : State) (pb : Nat) (t : Tile) : Option Wait :=
  if (t.sectors pb).any s.heldBySplit then some .split
  else ((t.lines pb).findSome? s.busyHalf).map Wait.bisnp

/-- The halves that contain a covered sector (R64). -/
def Tile.halves (t : Tile) (pb : Nat) : List Nat := ((t.sectors pb).map halfOf).eraseDups

/-- TDECL sends a BISnpInv for a half, once (R64). -/
def State.snoopHalf (s : State) (h : Nat) : State :=
  if s.th.snooped.contains h then s
  else
    let t := s.sendBisnp (s.loc, s.th.order) h false
    if s.bisnps.length < t.bisnps.length then t.onTh fun t => { t with snooped := t.snooped ++ [h] } else t

/-- TDECL sends a BISnpInv for every half that contains a covered sector, also for one that the host does not hold, and waits
for every BIRsp (R64); a half that the host has taken since is asked for again. -/
def State.snoopAll (s : State) (pb : Nat) (t : Tile) : Option Wait × State :=
  let hs := t.halves pb
  let out := fun (s : State) (h : Nat) => s.bisnps.any fun p => p.1 == h
  let s := s.onTh fun t => { t with snooped := t.snooped.filter fun h => out s h || s.hostState h == 0 }
  let s := hs.foldl State.snoopHalf s
  ((hs.find? fun h => !s.th.snooped.contains h || out s h).map Wait.bisnp, s)

/-- The statuses of R320 and the transaction; the status is written and the thread goes on. -/
def finishDecl (d : Reg) (pb : Nat) (t : Tile) (s : State) : State :=
  let entries := (s.tiles.filter fun p => homeOf p.1 == homeOf pb).length
  if Config.tileMax ≤ entries then (s.setX d 1).adv
  else
    match (if t.shad then s.allocFrame pb t else some 0) with
    | none => (s.setX d 2).adv
    | some f =>
      match s.snoopAll pb t with
      | (some w, s) => s.park w
      | (none, s) =>
        match s.declWaits pb t with
        | some w => s.park w
        | none => (((s.onTh fun t => { t with snooped := [] }).declare pb { t with sfrm := f }).setX d 0).adv

/-- Steps 4 to 7 of R320, at a translated base. -/
def declareAt (d : Reg) (va : Word) (desc : TileDesc) (pb : Nat) (s : State) : State :=
  match (if desc.ok then s.resolveNeigh desc.neigh else none) with
  | none => s.parkFault 0x0C va false 0 0
  | some ns =>
    let t := s.tileOf desc ns
    if pb / 65536 ≠ (pb + desc.span - 1) / 65536 ∨ (s.isLocal pb && regionOf pb == .host) then
      s.parkFault 0x0C va false pb 0
    else if !s.isDevMem pb || (List.range (desc.span / 16)).any (fun j => s.lostAt (pb + 16 * j)) then
      s.parkFault 0x13 va true pb 0
    else if (t.sectors pb).any (fun q => s.tiles.any fun p => p.2.covers p.1 q) then s.parkFault 0x0C va false pb 0
    else if s.haloOut pb then s.park (.tile pb)
    else withRelease (some .device) (finishDecl d pb t) s

/-- TDECL (R320). -/
def runTdecl (d a : Reg) (s : State) : State :=
  let va := s.x a
  consumeX [a] (guardLatent fun s =>
    if va.toNat % 64 ≠ 0 ∨ isCmd s.loc then s.parkFault 0x0C va false 0 0
    else
      loadThen va 64 (fun v s =>
        let desc := TileDesc.ofBits v
        match s.xlate s.asid desc.base 1 .tdecl with
        | (.error f, s) => s.failX desc.base true f
        | (.ok p, s) => declareAt d desc.base desc p.pa s) s) s

/-- A tile form that waits for write counters is a form in progress (R319). -/
def tileForm (k : State → State) (s : State) : State :=
  let s := k s
  match s.th.status with
  | .parked (.counters l) => s.park (.form l)
  | _ => s

/-- R320. -/
def execTdecl (d a : Reg) (s : State) : Host.Outcome State Fault Refusal := .next (tileForm (runTdecl d a) s)

/-! The forms that name a declared tile. -/

/-- The tile that x[ra] names (R319): translated as a load; no declared tile, or another context, faults (R101). -/
def tileThen (a : Reg) (k : Nat → Tile → State → State) (s : State) : State :=
  let va := s.x a
  match s.xlate s.asid va 1 .load with
  | (.error f, s) => s.failX va false f
  | (.ok p, s) =>
    match mapGet s.tiles p.pa with
    | none => s.parkFault 0x0C va false p.pa 0
    | some t =>
      if t.ctx ≠ s.th.ctx then s.parkFault 0x0C va false p.pa 0
      else if s.heldBySplit p.pa then s.park .split
      else if t.tstate = .inForward then (s.holdEntry (s.loc, s.th.order) (homeOf p.pa) .tile (.tile p.pa)).park (.tile p.pa)
      else k p.pa t s

/-- The tile after the form's own release, in whose drain a store may have claimed it (R100). -/
def stillTile (a : Reg) (pb : Nat) (k : Tile → State → State) (s : State) : State :=
  match mapGet s.tiles pb with
  | none => s.parkFault 0x0C (s.x a) false pb 0
  | some t => k t s

/-- A replica is dropped; its die acknowledges the drop (R102). -/
def State.dropReplicas (s : State) (pb : Nat) : State :=
  let mine := s.replicas.filter fun r => r.pbase == pb
  let s := (mine.flatMap fun r => r.sectors.map fun q => q.1 / 8).eraseDups.foldl State.uncache s
  let s := { s with replicas := s.replicas.map fun (r : Replica) =>
    if r.pbase == pb then { r with sectors := [], pushed := true } else r }
  mine.foldl (fun s r => if r.pushed then s else s.later (.haloPushAck pb (Fin.ofNat 16 r.die))) s

/-- The lines of a tile's footprint, those that hold no covered sector included. -/
def Tile.footLines (t : Tile) (pb : Nat) : List Nat :=
  (List.range (lineOf (pb + t.footprint - 1) + 1 - lineOf pb)).map fun i => lineOf pb + i

/-- The dropping transaction of R100: the tile's sectors are lines again, clean, and no line of the footprint has a holder
(R105). -/
def State.undeclare (s : State) (pb : Nat) (t : Tile) : State :=
  let ls := t.footLines pb
  let s := if t.tstate = .lost then s
    else
      let s := s.tileWriteBack pb t
      if t.gen then s.frameToMemory pb t else s
  let s := { s with tiles := mapErase s.tiles pb, declRecs := mapErase s.declRecs pb }
  (((ls.foldl (fun s l => s.recall l) s).tileLeaves pb t).dropReplicas pb).markLines ls

/-- TDROP (R321). -/
def runTdrop (a : Reg) (s : State) : State :=
  consumeX [a] (guardLatent (tileThen a fun pb _ =>
    withRelease (some .device) (stillTile a pb fun t s =>
      let s := s.undeclare pb t
      if s.haloOut pb then s.park (.tdrop pb) else s.adv))) s

/-- R321. -/
def execTdrop (a : Reg) (s : State) : Host.Outcome State Fault Refusal := .next (tileForm (runTdrop a) s)

/-- The push of TFWD (R101): the tile is in-forward until the push is acknowledged. -/
def State.forward (s : State) (va : Word) (pb : Nat) (t : Tile) (c : CoreId) : State :=
  let t := { t with tstate := .inForward, ftgt := c, prev := t.tstate, prevOwner := t.owner }
  let recs := match mapGet s.declRecs pb with
    | some r => mapSet s.declRecs pb { r with ftgt := c }
    | none => s.declRecs
  (({ s with tiles := mapSet s.tiles pb t, declRecs := recs }).park (.tfwd pb va)).later (.tilePushAck pb)

/-- Whether the current core may forward a tile (R101): a declared-home one, or one that it owns. -/
def State.mayForward (s : State) (t : Tile) : Bool :=
  t.tstate != .shadowed && t.tstate != .lost && !(t.tstate == .owned && t.owner != s.loc)

/-- TFWD (R101, R169, R321). -/
def runTfwd (a b : Reg) (s : State) : State :=
  consumeX [a, b] (guardLatent fun s =>
    let va := s.x a
    tileThen a (fun pb t s =>
      match s.logical (s.x b).toNat with
      | none => s.parkFault 0x0C va false pb 0
      | some c =>
        if s.mayForward t then
          withRelease (some (if sockOf c = sockOf s.loc then .near else .device))
            (stillTile a pb fun t s =>
              if !s.mayForward t then s.parkFault 0x0C va false pb 0
              else if t.tstate == .owned && c == s.loc then s.adv
              else s.forward va pb t c) s
        else s.parkFault 0x0C va false pb 0) s) s

/-- R321. -/
def execTfwd (a b : Reg) (s : State) : Host.Outcome State Fault Refusal := .next (tileForm (runTfwd a b) s)

/-- PUBL (R104, R321). -/
def runPubl (a : Reg) (s : State) : State :=
  consumeX [a] (guardLatent fun s =>
    let va := s.x a
    tileThen a (fun pb t s =>
      if !t.shad || t.tstate == .lost then s.parkFault 0x0C va false pb 0
      else
        withRelease (some .host) (stillTile a pb fun t s =>
          if t.tstate = .shadowed then (s.park (.publ pb false)).later (.publGenToggle pb) else s.adv) s) s) s

/-- R321. -/
def execPubl (a : Reg) (s : State) : Host.Outcome State Fault Refusal := .next (tileForm (runPubl a) s)

/-! The events that complete them. -/

/-- Every thread whose wait satisfies a test goes on after its instruction. -/
def State.depart (s : State) (p : Wait → Bool) : State := s.mapThreads fun _ _ t => t.departIf p

/-- Whether a wait is for a tile, by its kind. -/
def waitsTile (pb : Nat) : Wait → Bool
  | .tile q => q == pb
  | _ => false
def waitsTfwd (pb : Nat) : Wait → Bool
  | .tfwd q _ => q == pb
  | _ => false
def waitsTdrop (pb : Nat) : Wait → Bool
  | .tdrop q => q == pb
  | _ => false
def waitsPubl (pb : Nat) : Wait → Bool
  | .publ q done => q == pb && done
  | _ => false

/-- The push comes back as an error (R100, R321): the previous state returns, TFWD takes a parking fault with the response's
cause, and held requests are served. -/
def State.pushFails (s : State) (pbase : Nat) (cause : Byte) (t : Tile) : State :=
  let s := { s with
    agenda := s.agenda.erase (.tilePushAck pbase)
    tiles := mapSet s.tiles pbase { t with tstate := t.prev, owner := t.prevOwner } }
  let s := s.coreList.foldl (fun s c => (List.finRange 8).foldl (fun s sl =>
    let t := s.getThread c sl
    match t.status with
    | .parked (.tfwd q va) =>
      if q = pbase then s.asThread c sl fun s => s.parkFault cause va false pbase 0 else s
    | _ => s) s) s
  s.requeueHeld.serveHeld (waitsTile pbase)

/-- Whether a die is gone: fenced, or lost after a split (R55, R56). -/
def State.dieGone (s : State) (die : Nat) : Bool := s.fenced.getLsbD die || s.lostDies.getLsbD die

/-- R100: the target owns the tile, TFWD completes, and held requests are served; a push to a die that is gone is answered by
an error response (R56). -/
def execTilePushAck (pbase : Nat) (s : State) : Host.Outcome State Fault Refusal :=
  .next (match mapGet s.tiles pbase with
    | some t =>
      if t.tstate = .inForward then
        if s.dieGone (sockOf t.ftgt) then s.pushFails pbase 0x13 t
        else
          let s := { s with tiles := mapSet s.tiles pbase { t with tstate := .owned, owner := t.ftgt } }
          let s := (s.tileLeaves pbase t).tileArrives pbase t t.ftgt
          ((s.depart (waitsTfwd pbase)).requeueHeld).serveHeld (waitsTile pbase)
      else s
    | none => s)

/-- R100, R321. -/
def execTilePushError (pbase : Nat) (cause : Byte) (s : State) : Host.Outcome State Fault Refusal :=
  .next (match mapGet s.tiles pbase with
    | some t => if t.tstate = .inForward then s.pushFails pbase cause t else s
    | none => s)

/-- A write into the invisible frame (R100, R103). -/
def State.frameWrite (s : State) (pb : Nat) (t : Tile) (pa n v : Nat) : State :=
  (List.range n).foldl (fun s i =>
    let b : Byte := BitVec.ofNat 8 (v / 256 ^ i)
    if t.gen then { s with mem := memPut s.mem (pa + i) b }
    else { s with shadow := mapSet s.shadow (t.frameByte pb (pa + i)) b }) s

/-- A copy or collective write into a tile with SHAD = 1 (R100): the first one recalls the owner and opens the invisible
frame. -/
def State.shadowWrite (s : State) (pb : Nat) (t : Tile) (pa n v : Nat) : State :=
  let s := if t.tstate = .shadowed then s
    else
      let s := (s.tileWriteBack pb t).tileLeaves pb t
      { s with tiles := mapSet s.tiles pb { t.clean with tstate := .shadowed } }
  s.frameWrite pb t pa n v

/-- The poison mark of a sector of the invisible frame (R103, R112). -/
def Tile.hiddenMark (t : Tile) (pb pa : Nat) : Nat := if t.gen then pa / 16 else shadowMark (t.frameByte pb (pa / 16 * 16))

/-- Such a write at the home, of at most one sector: held while the tile is in-forward (R100) or in the wait after a split
(R56); a part of a poisoned sector fails, a whole one clears its mark (R112); a watched line sends its kills (R107), and an armed entry on it triggers (R324). -/
def State.shadowStore (s : State) (src : Source) (pb : Nat) (t : Tile) (pa n v : Nat) : Served Unit × State :=
  if s.lostAt pa then (.fail 0x13, s)
  else if s.heldBySplit pa then (.wait .split, s)
  else if t.tstate = .inForward then (.wait (.tile pb), s.holdEntry (src.core, src.tid) (homeOf pb) .tile (.tile pb))
  else if n < 16 && s.psect.contains (t.hiddenMark pb pa) then (.fail 0x0D, s)
  else
    let s := (s.shadowWrite pb t pa n v).setMark (t.hiddenMark pb pa) false
    (.done (), (s.sendKills (lineOf pa) src.core src.tid).trigger (lineOf pa))

/-- R100: held while the tile is in-forward; a write to no such tile is none of this event's. -/
def execShadowFrameWrite (pa n : Nat) (data : BitVec 128) (s : State) : Host.Outcome State Fault Refusal :=
  .next (match s.tileOver pa with
    | some (pb, t) =>
      if !t.shad then s
      else
        match s.shadowStore (deviceSource s.loc t.ctx) pb t pa n data.toNat with
        | (.wait _, s) => s.hold (.shadowFrameWrite pa n data)
        | (_, s) => s
    | none => s)

/-- The swap of R104: replicas dropped, GEN toggled, the new halo sectors pushed to the neighbours' dies. -/
def State.publish (s : State) (pb : Nat) (t : Tile) : State :=
  let t := { t with gen := !t.gen, tstate := .home }
  let s := { (s.tileLeaves pb t) with
    replicas := s.replicas.filter fun r => r.pbase != pb
    tiles := mapSet s.tiles pb t
    declRecs := mapSet s.declRecs pb t }
  s.pushHalo pb (homeOf pb) t

/-- R104; the waiting PUBL completes with the last acknowledgement of the pushes. -/
def execPublGenToggle (pbase : Nat) (s : State) : Host.Outcome State Fault Refusal :=
  .next (
    let toggled := fun (s : State) => s.mapThreads fun _ _ t =>
      if t.status = .parked (.publ pbase false) then { t with status := .parked (.publ pbase true) } else t
    let s := match mapGet s.tiles pbase with
      | some t => if t.tstate = .shadowed then s.publish pbase t else s
      | none => s
    let s := toggled s
    if s.haloOut pbase then s else s.depart (waitsPubl pbase))

/-- R102: a push or a drop is acknowledged. -/
def execHaloPushAck (pbase : Nat) (die : Fin 16) (s : State) : Host.Outcome State Fault Refusal :=
  .next (
    let gone := (mapGet s.tiles pbase).isNone
    let s := { s with replicas := s.replicas.filterMap fun (r : Replica) =>
      if r.pbase == pbase && r.die == die.val then (if gone then none else some { r with pushed := false }) else some r }
    if s.haloOut pbase then s
    else
      let s := (s.depart (waitsTdrop pbase)).depart (waitsPubl pbase)
      (s.serveHeld (waitsTile pbase)).requeueHeld)

end Sys2Proof.Machine
end

