-- ==== Sys2Proof/Machine/VecMem.lean ====
section
/-! DEFINITION. The vector loads and stores (R342 to R345) and the string forms (R353), which travel the load path element
by element. -/

namespace Sys2Proof.Machine

/-! Element accesses. -/

/-- What an element's access finds. -/
inductive Loaded (α : Type) where
  | value (v : α)
  | fail (f : XFault) (va : Word) (pa : Nat)
  | wait (w : Wait)
  deriving DecidableEq, Repr

/-- `n` bytes at an address, as one relaxed load; a thread with registers allotted never migrates (R145). -/
def State.loadAt (s : State) (va : Word) (n : Nat) : Loaded Nat × State :=
  match s.loadVa va n with
  | (.value v, s) => (.value v, s)
  | (.fault f pa, s) => (.fail f va pa, s)
  | (.wait w, s) => (.wait w, s)
  | (.travel _, s) => (.wait .travel, s)

/-- `n` bytes in ascending order. -/
def State.bytesFrom (s : State) (va : Word) : Nat → Loaded (List Byte) × State
  | 0 => (.value [], s)
  | n + 1 =>
    match s.loadAt va 1 with
    | (.fail f a p, s) => (.fail f a p, s)
    | (.wait w, s) => (.wait w, s)
    | (.value v, s) =>
      match s.bytesFrom (va + 1) n with
      | (.value l, s) => (.value (BitVec.ofNat 8 v :: l), s)
      | x => x

/-- Pairs of bytes up to and including the first unequal pair, at most `n` (R353): how the first unequal pair compares. -/
def State.pairsFrom (s : State) (x y : Word) : Nat → Loaded Ordering × State
  | 0 => (.value .eq, s)
  | n + 1 =>
    match s.loadAt x 1 with
    | (.fail f a p, s) => (.fail f a p, s)
    | (.wait w, s) => (.wait w, s)
    | (.value u, s) =>
      match s.loadAt y 1 with
      | (.fail f a p, s) => (.fail f a p, s)
      | (.wait w, s) => (.wait w, s)
      | (.value v, s) => if u = v then s.pairsFrom (x + 1) (y + 1) n else (.value (compare u v), s)

/-- Bytes up to and including the first one equal to `c`, at most `n`: its index, counted from `i`, or all ones. -/
def State.findFrom (s : State) (va : Word) (c i : Nat) : Nat → Loaded Nat × State
  | 0 => (.value (2 ^ 64 - 1), s)
  | n + 1 =>
    match s.loadAt va 1 with
    | (.fail f a p, s) => (.fail f a p, s)
    | (.wait w, s) => (.wait w, s)
    | (.value v, s) => if v = c then (.value i, s) else s.findFrom (va + 1) c (i + 1) n

/-- A result computed from what was loaded. -/
def Loaded.map {α β : Type} (f : α → β) (x : Loaded α × State) : Loaded β × State :=
  match x with
  | (.value v, s) => (.value (f v), s)
  | (.fail c a p, s) => (.fail c a p, s)
  | (.wait w, s) => (.wait w, s)

/-- VSCMP of two strings (R353): unsigned bytewise, a proper prefix is smaller. -/
def orderValue : Ordering → Nat
  | .lt => 2 ^ 64 - 1
  | .eq => 0
  | .gt => 1

/-- The element of a load form (R342, R353), before its poison. -/
def State.vloadElem (s : State) (r : Regs) (f : VloadFn) (a b : Fin 32) (t : ElTy) (i : Nat) : Loaded Nat × State :=
  let w := t.width
  let x := (r.elem a w i).val
  let y := (r.elem b w i).val
  match f with
  | .vld => s.loadAt (VAddr.unit.addr r a w i) w
  | .vlds => s.loadAt ((VAddr.stride b).addr r a w i) w
  | .vldx => s.loadAt ((VAddr.index b).addr r a w i) w
  | .vldb => s.loadAt (VAddr.broadcast.addr r a w i) w
  | .vldp => (.value (s.poolRead (VAddr.unit.poolOff r a w i) w), s)
  | .vldpx => (.value (s.poolRead ((VAddr.index b).poolOff r a w i) w), s)
  | .vspfx =>
    if x = nullDesc then (.value 0, s)
    else
      let n := min 8 (descLen x)
      Loaded.map (fun l => ofBytes (l ++ List.replicate (8 - n) 0).reverse) (s.bytesFrom (descAddr x) n)
  | .vscmp =>
    if x = nullDesc ∨ y = nullDesc then (.value 2, s)
    else
      Loaded.map (fun o => orderValue (o.then (compare (descLen x) (descLen y))))
        (s.pairsFrom (descAddr x) (descAddr y) (min (descLen x) (descLen y)))
  | .vsfind =>
    if x = nullDesc then (.value (2 ^ 64 - 1), s) else s.findFrom (descAddr x) ((r.rx b).toNat % 256) 0 (descLen x)
  | .vseq =>
    if x = nullDesc ∨ y = nullDesc ∨ descLen x ≠ descLen y then (.value 0, s)
    else Loaded.map (fun o => if o = Ordering.eq then 1 else 0) (s.pairsFrom (descAddr x) (descAddr y) (descLen x))
  | .vshash =>
    if x = nullDesc then (.value nullDesc, s)
    else Loaded.map (fun l => (crcBytes (BitVec.ofNat 32 y) l).toNat) (s.bytesFrom (descAddr x) (descLen x))

/-- An element as loaded: its value, or how it failed. -/
inductive ElemGot where
  | good (v : Nat)
  | bad (f : XFault) (va : Word) (pa : Nat)
  deriving DecidableEq, Repr

/-- Elements in ascending order; none is kept when one waits for a response. -/
def State.vloadList (s : State) (r : Regs) (f : VloadFn) (a b : Fin 32) (t : ElTy) :
    List Nat → Except Wait (List (Nat × ElemGot)) × State
  | [] => (.ok [], s)
  | i :: is =>
    match s.vloadElem r f a b t i with
    | (.wait w, s) => (.error w, s)
    | (.value v, s) =>
      match s.vloadList r f a b t is with
      | (.ok l, s) => (.ok ((i, .good v) :: l), s)
      | x => x
    | (.fail c va pa, s) =>
      match s.vloadList r f a b t is with
      | (.ok l, s) => (.ok ((i, .bad c va pa) :: l), s)
      | x => x

/-- All elements; VLDB reads once (R342). -/
def State.vloadAll (s : State) (r : Regs) (f : VloadFn) (a b : Fin 32) (t : ElTy) (es : List Nat) :
    Except Wait (List (Nat × ElemGot)) × State :=
  match f, es with
  | .vldb, i :: is =>
    match s.vloadList r f a b t [i] with
    | (.ok [(_, g)], s) => (.ok ((i :: is).map fun j => (j, g)), s)
    | x => x
  | _, _ => s.vloadList r f a b t es

/-! Loads. -/

/-- The poisoned operands that a load form consumes (R343, R353). -/
def VloadFn.consumes (f : VloadFn) (r : Regs) (a b : Fin 32) (k : KReg) (w : Nat) (es : List Nat) : List (Option Payload) :=
  let va := es.map fun i => (r.elem a w i).pay
  let vb := es.map fun i => (r.elem b w i).pay
  r.rkp k ::
    match f with
    | .vld | .vldb | .vldp => [r.rxp a]
    | .vlds => [r.rxp a, r.rxp b]
    | .vldx | .vldpx => r.rxp a :: vb
    | .vspfx | .vshash => va
    | .vscmp | .vseq => va ++ vb
    | .vsfind => r.rxp b :: va

/-- Whole vector registers that a form's log entry records as sources. -/
def VloadFn.vecs : VloadFn → Nat
  | .vld | .vlds | .vldb | .vldp => 0
  | .vldx | .vldpx | .vspfx | .vsfind => 1
  | .vscmp | .vseq | .vshash => 2

/-- What a load form writes: the registers with its elements, the failing ones whose lanes take the payload of its own entry,
whether a log entry is needed and the registers it records (R330, R343, R353). -/
structure VloadOut where
  regs : Regs
  bad : List Nat
  log : Bool
  vecs : Nat
  deriving DecidableEq, Repr

/-- The elements of a load form, to be written with its log entry at `pos`. An element that fails and propagates poison too keeps
the propagated payload, whose replay loads it again (R330, R343, log 28). -/
def Regs.vloadWrite (r : Regs) (f : VloadFn) (d b : Fin 32) (t : ElTy) (pos : Nat) (gs : List (Nat × ElemGot)) : VloadOut :=
  let w := t.width
  match f with
  | .vseq =>
    let yes := gs.filterMap fun g => match g.2 with
      | .good v => if v = 1 then some g.1 else none
      | .bad .. => none
    ⟨r.wk (Fin.ofNat 8 d.val) (maskOf w yes), gs.filterMap fun g => match g.2 with
      | .good _ => none
      | .bad .. => some g.1, false, 2⟩
  | _ =>
    let all : List Elem := gs.map fun g => ⟨g.1, 0, none⟩
    -- the payload that an element propagates: a poisoned remainder, or the poison of a lane it covers only in part
    let pay : Nat → Option Payload := fun i =>
      if f = .vshash then (r.elem b w i).pay
      else (lanesOf w i).findSome? fun j =>
        if (laneAfter r.vp[d] w pos all j).isSome then mapGet r.vp[d] j else none
    let es := gs.map fun g =>
      match pay g.1, g.2 with
      | some p, .good v => (if f = .vshash then ⟨g.1, 0, some p⟩ else ⟨g.1, v, none⟩ : Elem)
      | some p, .bad .. => ⟨g.1, 0, some p⟩
      | none, .good v => ⟨g.1, v, none⟩
      | none, .bad .. => ⟨g.1, 0, none⟩
    let bad := gs.filterMap fun g => match g.2, pay g.1 with
      | .bad .., none => some g.1
      | _, _ => none
    let o := r.writeElems d w pos f.vecs es
    ⟨o.regs, bad, gs.any fun g => (pay g.1).isSome, o.vecs⟩

/-- The failing element that a latent entry names: the lowest-indexed (R343). -/
def firstBad : List (Nat × ElemGot) → Option (XFault × Word × Nat)
  | [] => none
  | (_, .bad f va pa) :: _ => some (f, va, pa)
  | _ :: r => firstBad r

/-- A form of VMEM with active q8 elements decodes FMTC, and faults before it accesses anything (R241, R250). -/
def guardQ8 (t : ElTy) (es : List Nat) (k : State → State) (s : State) : State :=
  if t == .q8 && !es.isEmpty && (recQ8 s.th.regs.fmtc).isNone then s.parkFault 0x15 0 false 0 0 else k s

/-- The log entry of a load form that leaves poison: a pool load records what it read (R129, R330). -/
def loadEntry (op : LoadOp) (f : VloadFn) (d : Fin 32) (t : ElTy) (gs : List (Nat × ElemGot)) : PropOp :=
  if f = .vldp ∨ f = .vldpx then
    .poolLoad d t (gs.filterMap fun g => match g.2 with
      | .good v => some (g.1, v)
      | .bad .. => none)
  else .reload op

/-- A load form (R343, R353): the poisoned operands and the full log park (R130), then its value checks, then the format record of
active q8 elements, the accesses, and the poison path element by element. -/
def runVloadOf (checks : (State → State) → State → State) (f : VloadFn) (d a b : Fin 32) (k : KReg) (t : ElTy) (s : State) :
    State :=
  let r := s.th.regs
  let w := t.width
  let es := activeOf (r.rk k) w (r.body w)
  guardClean (f.consumes r a b k w es) (fun s =>
    let plan := r.vloadWrite f d b t (s.th.log.length + 1) (es.map fun i => (i, .good 0))
    if plan.log && logFull s.th.log plan.vecs then s.parkConsumer
    else
      checks (guardQ8 t es fun s =>
        match s.vloadAll r f a b t es with
        | (.error w, s) => s.park w
        | (.ok gs, s) =>
          let s := s.useUp
          let o := r.vloadWrite f d b t (s.th.log.length + 1) gs
          let op : LoadOp := .vector f d a b k t
          let s := if o.log then s.onTh fun th => th.logged (loadEntry op f d t gs) o.vecs else s
          match firstBad gs with
          | some (x, va, pa) => s.poisonPath op (s.entryOf x.cause va 0 false pa x.detail) o.regs o.bad
          | none => (s.onRegs fun _ => o.regs).adv) s) s

/-- A load form without value checks. -/
def runVload (f : VloadFn) (d a b : Fin 32) (k : KReg) (t : ElTy) (s : State) : State := runVloadOf (fun k => k) f d a b k t s

/-! Pool forms. -/

/-- Every active element's pool offset is in range, and then every one aligned, before any is accessed (R269, R342). -/
def guardPoolElems (n : Nat) (k : State → State) (os : List Nat) (s : State) : State :=
  match os.find? (fun o => decide (s.spBytes < o + n)), os.find? (fun o => o % n != 0) with
  | some o, _ => s.trap 0x04 (w64 (max o s.spBytes))
  | none, some o => s.trap 0x05 (w64 o)
  | none, none => k s

/-- A pool load (R342). -/
def runVpool (f : VloadFn) (m : VAddr) (d a b : Fin 32) (k : KReg) (t : ElTy) (s : State) : State :=
  let r := s.th.regs
  let w := t.width
  runVloadOf (fun k' s => guardPoolElems w k' ((activeOf (r.rk k) w (r.body w)).map (m.poolOff r a w)) s) f d a b k t s

/-! Stores. -/

/-- The poisoned operands that a store consumes (R344). -/
def VAddr.storeConsumes (m : VAddr) (r : Regs) (d a : Fin 32) (k : KReg) (w : Nat) (es : List Nat) : List (Option Payload) :=
  [r.rkp k, r.rxp a] ++
    (match m with
     | .unit | .broadcast => []
     | .stride b => [r.rxp b]
     | .index b => es.map fun i => (r.elem b w i).pay) ++
    es.map fun i => (r.elem d w i).pay

/-- Every active element translated before any is written (R344): the first that fails, with its address. -/
def State.xlateElems (s : State) (w : Nat) : List Word → Except (XFault × Word) (List (List (Phys × Nat))) × State
  | [] => (.ok [], s)
  | va :: r =>
    match s.xlateSpan s.asid va w .store with
    | (.error f, s) => (.error (f, va), s)
    | (.ok ps, s) =>
      match s.xlateElems w r with
      | (.ok l, s) => (.ok (ps :: l), s)
      | x => x

/-- A global store (R344); elements leave in ascending order, so that the highest-indexed value of a byte remains (R345). -/
def runVstore (m : VAddr) (d a : Fin 32) (k : KReg) (t : ElTy) (s : State) : State :=
  let r := s.th.regs
  let w := t.width
  let es := activeOf (r.rk k) w (r.body w)
  guardClean (m.storeConsumes r d a k w es) (guardQ8 t es fun s =>
    match s.xlateElems w (es.map (m.addr r a w)) with
    | (.error (f, va), s) => s.failX va true f
    | (.ok pss, s) =>
      ((es.zip pss).foldl (fun s p => s.storePieces (m.addr r a w p.1) (r.elem d w p.1).val p.2) s).adv) s

/-- A pool store (R342, R345). -/
def runVpstore (m : VAddr) (d a : Fin 32) (k : KReg) (t : ElTy) (s : State) : State :=
  let r := s.th.regs
  let w := t.width
  let es := activeOf (r.rk k) w (r.body w)
  guardClean (m.storeConsumes r d a k w es)
    (guardPoolElems w
      (guardQ8 t es fun s => (es.foldl (fun s i => s.poolWrite (m.poolOff r a w i) w (r.elem d w i).val) s).adv)
      (es.map (m.poolOff r a w))) s

/-! The instructions. -/

/-- R342. -/
def execVld (d a : Reg) (k : KReg) (t : ElTy) (s : State) : Host.Outcome State Fault Refusal :=
  .next (runVec (fmtV 40 d.val a.val 0 k.val t.code 0) [d] (runVload .vld d a 0 k t) s)

/-- R342. -/
def execVlds (d a b : Reg) (k : KReg) (t : ElTy) (s : State) : Host.Outcome State Fault Refusal :=
  .next (runVec (fmtV 40 d.val a.val b.val k.val t.code 1) [d] (runVload .vlds d a b k t) s)

/-- R342. -/
def execVldx (d a b : Reg) (k : KReg) (t : ElTy) (s : State) : Host.Outcome State Fault Refusal :=
  .next (runVec (fmtV 40 d.val a.val b.val k.val t.code 2) [d, b] (runVload .vldx d a b k t) s)

/-- R342. -/
def execVldb (d a : Reg) (k : KReg) (t : ElTy) (s : State) : Host.Outcome State Fault Refusal :=
  .next (runVec (fmtV 40 d.val a.val 0 k.val t.code 10) [d] (runVload .vldb d a 0 k t) s)

/-- R342. -/
def execVldp (d a : Reg) (k : KReg) (t : ElTy) (s : State) : Host.Outcome State Fault Refusal :=
  .next (runVec (fmtV 40 d.val a.val 0 k.val t.code 6) [d] (runVpool .vldp .unit d a 0 k t) s)

/-- R342. -/
def execVldpx (d a b : Reg) (k : KReg) (t : ElTy) (s : State) : Host.Outcome State Fault Refusal :=
  .next (runVec (fmtV 40 d.val a.val b.val k.val t.code 8) [d, b] (runVpool .vldpx (.index b) d a b k t) s)

/-- R344. -/
def execVst (d a : Reg) (k : KReg) (t : ElTy) (s : State) : Host.Outcome State Fault Refusal :=
  .next (runVec (fmtV 40 d.val a.val 0 k.val t.code 3) [d] (runVstore .unit d a k t) s)

/-- R344. -/
def execVsts (d a b : Reg) (k : KReg) (t : ElTy) (s : State) : Host.Outcome State Fault Refusal :=
  .next (runVec (fmtV 40 d.val a.val b.val k.val t.code 4) [d] (runVstore (.stride b) d a k t) s)

/-- R344. -/
def execVstx (d a b : Reg) (k : KReg) (t : ElTy) (s : State) : Host.Outcome State Fault Refusal :=
  .next (runVec (fmtV 40 d.val a.val b.val k.val t.code 5) [d, b] (runVstore (.index b) d a k t) s)

/-- R342. -/
def execVstp (d a : Reg) (k : KReg) (t : ElTy) (s : State) : Host.Outcome State Fault Refusal :=
  .next (runVec (fmtV 40 d.val a.val 0 k.val t.code 7) [d] (runVpstore .unit d a k t) s)

/-- R342. -/
def execVstpx (d a b : Reg) (k : KReg) (t : ElTy) (s : State) : Host.Outcome State Fault Refusal :=
  .next (runVec (fmtV 40 d.val a.val b.val k.val t.code 9) [d, b] (runVpstore (.index b) d a k t) s)

/-- R353. -/
def execVspfx (d a : Reg) (k : KReg) (s : State) : Host.Outcome State Fault Refusal :=
  .next (runVec (fmtV 42 d.val a.val 0 k.val 3 6) [d, a] (runVload .vspfx d a 0 k .i64) s)

/-- R353. -/
def execVscmp (d a b : Reg) (k : KReg) (s : State) : Host.Outcome State Fault Refusal :=
  .next (runVec (fmtV 42 d.val a.val b.val k.val 3 7) [d, a, b] (runVload .vscmp d a b k .i64) s)

/-- R353. -/
def execVsfind (d a b : Reg) (k : KReg) (s : State) : Host.Outcome State Fault Refusal :=
  .next (runVec (fmtV 42 d.val a.val b.val k.val 3 8) [d, a] (runVload .vsfind d a b k .i64) s)

/-- R353. -/
def execVseq (d : KReg) (a b : Reg) (k : KReg) (s : State) : Host.Outcome State Fault Refusal :=
  .next (runVec (fmtV 42 d.val a.val b.val k.val 3 9) [a, b] (runVload .vseq (Fin.ofNat 32 d.val) a b k .i64) s)

/-- R353. -/
def execVshash (d a b : Reg) (k : KReg) (s : State) : Host.Outcome State Fault Refusal :=
  .next (runVec (fmtV 42 d.val a.val b.val k.val 3 10) [d, a, b] (runVload .vshash d a b k .i64) s)

end Sys2Proof.Machine
end

