-- ==== Sys2Proof/Machine/Matrix.lean ====
section
/-! DEFINITION. The matrix engine (R221 to R223, R251 to R255, R357 to R359) and the rings it reads (R220, R360 to R362). -/

namespace Sys2Proof.Machine

/-! Block arithmetic (R252, R253). -/

/-- The exact sum of the products of a K block. -/
def blockSum (ps : List FVal) : FVal := ps.foldl FVal.add (FVal.zero false)

/-- One block added into an FP32 accumulator element; an exact zero sum changes nothing (R252, R254). -/
def accBlock (acc : Nat) (s : FVal) : Nat :=
  if s.isZero then acc else fp32.rne ((fp32.decode acc).add (fp32.decode (fp32.rne s)))

/-- K indices per step by element width (R221). -/
def stepK (w : Nat) : Nat := 64 / w

/-- An operand of a step: its format, its unit's bytes, and its scale by row or column and K index. -/
structure StepSide where
  fmt : Fmt
  unit : Array Byte
  scale : Nat → Nat → Int

/-- The `w` bytes at an index of a unit. -/
def unitAt (u : Array Byte) (w i : Nat) : Nat := ofBytes ((List.range w).map fun j => (u[i * w + j]?).getD 0)

/-- The scaled value of an element (R251). -/
def StepSide.get (x : StepSide) (ix row k : Nat) : FVal :=
  (x.fmt.decode (unitAt x.unit x.fmt.bytes ix)).scale (x.scale row k)

/-- Element (i, j) after one step: its K blocks in ascending order, those that the zero maps mark skipped (R222, R357). -/
def stepElem (a b : StepSide) (amap bmap i j acc : Nat) : Nat :=
  let kk := stepK a.fmt.bytes
  (List.range (kk / 8)).foldl (fun acc k =>
    if amap / 2 ^ (8 * (i / 8) + k) % 2 = 1 ∨ bmap / 2 ^ (8 * k + j / 8) % 2 = 1 then acc
    else
      accBlock acc (blockSum ((List.range 8).map fun m =>
        let ki := 8 * k + m
        (a.get (kk * i + ki) i ki).mul (b.get (64 * ki + j) j ki)))) acc

/-! Accumulator tiles (R213, R255). -/

/-- A byte range of a memory replaced, in canonical form. -/
def memFill (m : Memory) (a : Nat) (bs : List Byte) : Memory :=
  (m.filter fun p => decide (p.1 < a)) ++
    (bs.mapIdx fun i b => (a + i, b)).filter (fun p => p.2 != Memory.unlisted) ++
    m.filter fun p => decide (a + bs.length ≤ p.1)

/-- The bytes of tile `n`. -/
def Team.tileBytes (t : Team) (n : Nat) : Memory :=
  t.acc.filter fun p => decide (16384 * n ≤ p.1 ∧ p.1 < 16384 * (n + 1))

/-- FP32 element `e` of tile `n`, its bits. -/
def Team.accElem (t : Team) (n e : Nat) : Nat := memRead t.acc (16384 * n + 4 * e) 4

/-- A tile written whole, its old contents kept while the checkpoint is open (R142). -/
def Team.accWrite (t : Team) (n : Nat) (es : List Nat) : Team :=
  let ck := if t.ckpt.isOpen && !(t.ckpt.undoAcc.any fun u => u.1 == n) then
      { t.ckpt with undoAcc := t.ckpt.undoAcc ++ [(n, t.tileBytes n)] }
    else t.ckpt
  { t with acc := memFill t.acc (16384 * n) (es.flatMap (toBytes 4)), ckpt := ck }

/-- A tile of a team written; a full undo log seals first (R143). -/
def State.accWriteOf (s : State) (core : CoreId) (team n : Nat) (es : List Nat) : State :=
  let full := (s.getCore core).teams.any fun t =>
    t.id == team && t.ckpt.isOpen && !(t.ckpt.undoAcc.any fun u => u.1 == n) &&
      decide (Config.undoBytes < t.ckpt.undoBytes + 16384)
  let s := if full then s.sealOf core team else s
  s.onCore core fun k => k.onTeam team fun t => t.accWrite n es

/-! Rings (R220). -/

/-- Bytes of a ring. -/
def Ring.size (r : Ring) : Nat := 2 ^ r.log2

/-- Bytes that a ring holds. -/
def Ring.holds (r : Ring) : Nat := r.written - r.taken

/-- `n` bytes of a ring from its taken position, wrapping at its end. -/
def State.ringBytes (s : State) (core : CoreId) (r : Ring) (n : Nat) : List Byte :=
  (List.range n).map fun i => BitVec.ofNat 8 (s.poolReadOf core r.team (r.base + (r.taken + i) % r.size) 1)

/-- A ring of a core changed. -/
def State.setRing (s : State) (core : CoreId) (n : Fin 8) (r : Option Ring) : State :=
  s.onCore core fun k => { k with rings := k.rings.set n r }

/-- Whether a copy waits to fire into a ring. -/
def Core.waitsToFire (k : Core) : Bool := k.copies.any fun c =>
  match c.kind with
  | .cpyr _ => c.fired.isNone
  | _ => false

/-- The taken counter of a ring advances; an owner ring tells its producer (R232, R361). -/
def State.takeRing (s : State) (core : CoreId) (n : Fin 8) (b : Nat) : State :=
  match s.ringAt core n with
  | none => s
  | some r =>
    let s := s.setRing core n (some { r with taken := r.taken + b })
    let s := match r.producer with
      | some (c, tm, fbo) => s.later (.stageFreeNotice c tm fbo b)
      | none => s
    if (s.getCore core).waitsToFire then s.later (.cpyrFire core) else s

/-! The matrix queue (R204, R223). -/

/-- The scale ring of an operand, if its record has a scale mode (R243). -/
def scaleRing (rec' scale : Word) : Option (Fin 8) := if recSmode rec' = 0 then none else some (Fin.ofNat 8 (bits scale 2 0))

/-- The rings that an operation names. -/
def MatOp.rings (o : MatOp) : List (Fin 8) :=
  match o.kind with
  | .mma => [Fin.ofNat 8 o.aring, Fin.ofNat 8 o.bring] ++ (scaleRing o.fmta o.scalea).toList ++ (scaleRing o.fmtb o.scaleb).toList
  | .mmas =>
    [Fin.ofNat 8 o.aring, Fin.ofNat 8 o.bring, Fin.ofNat 8 o.zring] ++ (scaleRing o.fmta o.scalea).toList ++
      (scaleRing o.fmtb o.scaleb).toList
  | .mzero | .mload _ | .mdrain _ => []

/-- Whether an operation runs in K-steps. -/
def MatOp.isMma (o : MatOp) : Bool :=
  match o.kind with
  | .mma | .mmas => true
  | .mzero | .mload _ | .mdrain _ => false

/-- Width of an operation's operands. -/
def MatOp.width (o : MatOp) : Nat := ((recAB o.fmta).map (·.bytes)).getD 4

/-- Whether a scale mode takes a unit at the next step (R244): `whole` is the mode whose unit serves the whole operation. -/
def takesUnit (mode whole fired kk : Nat) : Bool :=
  if mode = 0 then false
  else if mode = whole then fired == 0
  else if mode = 3 then kk * fired % 64 == 0
  else true

/-- Whether operand A, or B, takes a scale unit at the next step. -/
def MatOp.takesA (o : MatOp) : Bool := takesUnit (recSmode o.fmta) 1 o.fired (stepK o.width)
def MatOp.takesB (o : MatOp) : Bool := takesUnit (recSmode o.fmtb) 2 o.fired (stepK o.width)

/-- What the next step takes from each ring (R221, R222, R244). -/
def MatOp.takes (o : MatOp) : List (Fin 8 × Nat) :=
  [(Fin.ofNat 8 o.aring, 4096), (Fin.ofNat 8 o.bring, 4096)] ++
    (if o.kind = .mmas then [(Fin.ofNat 8 o.zring, 256)] else []) ++
    (if o.takesA then (scaleRing o.fmta o.scalea).toList.map (·, 256) else []) ++
    (if o.takesB then (scaleRing o.fmtb o.scaleb).toList.map (·, 256) else [])

/-- Whether two operations name one tile, or one ring (R204). -/
def MatOp.sameTile (a b : MatOp) : Bool := a.team == b.team && a.tile == b.tile
def MatOp.shares (a b : MatOp) : Bool := a.sameTile b || a.rings.any fun r => b.rings.contains r

/-- The oldest operation that can fire a step (R204): no earlier one shares a resource, and its rings hold the step. -/
def State.canFire (s : State) (core : CoreId) : List MatOp → List MatOp → Option MatOp
  | _, [] => none
  | before, o :: r =>
    if o.isMma && decide (o.fired < o.steps) && !(before.any fun p => p.shares o) &&
        o.takes.all fun t => ((s.ringAt core t.1).map fun g => decide (t.2 ≤ g.holds)).getD false then some o
    else s.canFire core (before ++ [o]) r

/-- A step that can fire is due. -/
def State.pokeMatrix (s : State) (core : CoreId) : State :=
  if (s.canFire core [] (s.getCore core).matq).isSome then s.later (.matrixStepFire core) else s

/-- The scale of an element (R244): mode, the unit in use, the mode that indexes by row or column. -/
def scaleOf (mode byRow : Nat) (unit : List Byte) (row k : Nat) : Int :=
  if mode = 0 then 0
  else
    let ix := if mode = byRow ∨ mode = 3 then row else k
    ((unit[ix]?).getD 0).toInt

/-- One K-step fires (R221, R251 to R254). -/
def State.fireStep (s : State) (core : CoreId) (o : MatOp) : State :=
  let get := fun (n : Nat) (b : Nat) => match s.ringAt core (Fin.ofNat 8 n) with
    | some r => s.ringBytes core r b
    | none => []
  let o := { o with
    scA := if o.takesA then get (bits o.scalea 2 0) 256 else o.scA
    scB := if o.takesB then get (bits o.scaleb 2 0) 256 else o.scB }
  let z := if o.kind = .mmas then ofBytes (get o.zring 16) else 0
  match recAB o.fmta, recAB o.fmtb, s.teamAt core o.team with
  | some fa, some fb, some tm =>
    let a : StepSide := ⟨fa, (get o.aring 4096).toArray, scaleOf (recSmode o.fmta) 1 o.scA⟩
    let b : StepSide := ⟨fb, (get o.bring 4096).toArray, scaleOf (recSmode o.fmtb) 2 o.scB⟩
    let es := (List.range 4096).map fun e =>
      stepElem a b (z % 2 ^ 64) (z / 2 ^ 64) (e / 64) (e % 64) (tm.accElem o.tile e)
    let s := s.accWriteOf core o.team o.tile es
    let s := o.takes.foldl (fun s t => s.takeRing core t.1 t.2) s
    let o := { o with fired := o.fired + 1 }
    let s := s.onCore core fun k => { k with matq := k.matq.map fun p => if p.id = o.id then o else p }
    if o.fired = o.steps then s.later (.matrixOpComplete core o.id) else s
  | _, _, _ => s

/-- The release at `.gang` of an engine that serves a team (R161, R232): the team's staging drains, and its stores reach the end
of their near counts; false while one is held up. -/
def State.engineRelease (s : State) (core : CoreId) (team : Nat) : Bool × State :=
  let s := s.sealOf core team
  let tids := (s.getCore core).tidsOf team
  match s.nearAll core ((s.getCore core).inflight.filter fun p => tids.contains p.tid) with
  | (.done _, s) => (true, s)
  | (_, s) => (false, s)

/-- R221: the oldest operation that can fire fires one step; a step that frees a stage of another core releases first (R232,
R361). -/
def execMatrixStepFire (core : CoreId) (s : State) : Host.Outcome State Fault Refusal :=
  .next (match s.canFire core [] (s.getCore core).matq with
    | some o =>
      if o.takes.any fun t => ((s.ringAt core t.1).bind (·.producer)).isSome then
        match s.engineRelease core o.team with
        | (true, s) => (s.fireStep core o).pokeMatrix core
        | (false, s) => s.hold (.matrixStepFire core)
      else (s.fireStep core o).pokeMatrix core
    | none => s)

/-- The effect of MZERO, MLOAD and MDRAIN (R255, R358). -/
def State.tileOp (s : State) (core : CoreId) (o : MatOp) : State :=
  match o.kind, recC o.fmtc with
  | .mzero, _ => s.accWriteOf core o.team o.tile (List.replicate 4096 0)
  | .mload off, some (f, _, _) =>
    let w := f.bytes
    s.accWriteOf core o.team o.tile ((List.range 4096).map fun e =>
      let v := s.poolReadOf core o.team (off + e * w) w
      if f = fp32 then v else fp32.rne (f.decode v))
  | .mdrain off, some (f, rnd, sat) =>
    match s.teamAt core o.team with
    | none => s
    | some tm =>
      let w := f.bytes
      let bs := (List.range 4096).flatMap fun e =>
        let v := tm.accElem o.tile e
        toBytes w (if f = fp32 then v else f.deliver rnd sat (fp32.decode v))
      s.poolWriteOf core o.team off (4096 * w) (ofBytes bs)
  | _, _ => s

/-- Whether a wait is for a matrix operation. -/
def waitsMatrix (id : Nat) : Wait → Bool
  | .matrix n => n == id
  | _ => false

/-- Whether a wait is for room in the matrix queue. -/
def waitsMatq : Wait → Bool
  | .matqFull => true
  | _ => false

/-- The operations behind a finished one that act on the same tile are due (R223). -/
def State.nextOnTile (s : State) (core : CoreId) (o : MatOp) : State :=
  match (s.getCore core).matq.find? fun p => p.sameTile o with
  | some p => if p.isMma then s else s.later (.matrixOpComplete core p.id)
  | none => s

/-- R223: the first operation on its tile is done: its effect, its slot, and what waited for it. -/
def execMatrixOpComplete (core : CoreId) (id : Nat) (s : State) : Host.Outcome State Fault Refusal :=
  .next (match (s.getCore core).matq.find? fun p => p.id == id with
    | none => s
    | some o =>
      let first := ((s.getCore core).matq.find? fun p => p.sameTile o).map (·.id)
      if first ≠ some id ∨ (o.isMma && decide (o.fired < o.steps)) then s
      else
        let s := s.tileOp core o
        let s := s.onCore core fun k => { k with matq := k.matq.filter fun p => p.id != id }
        let s := s.onCore core fun k => k.onMembers o.team (Thread.departIf (waitsMatrix id))
        let s := s.onCore core fun k => { k with slots := k.slots.map fun t => t.retryIf waitsMatq }
        ((s.nextOnTile core o).pokeMatrix core).requeueHeld)

/-! Issue. -/

/-- A tile at or above ACB / 2 takes the allotment trap (R215). -/
def guardTile (n : Fin 32) (k : State → State) (s : State) : State :=
  if n.val < ((s.team.map fun t => acbOf t.poolpart / 2)).getD 0 then k s else s.trap 0x03 (w64 n.val)

/-- An operation of the current thread, with the records and scales as they stand (R242). -/
def State.matOp (s : State) (kind : MatKind) (n : Fin 32) : MatOp where
  id := s.core.nextId
  kind := kind
  slot := s.slot.val
  team := s.th.team
  tile := n.val
  aring := 0
  bring := 0
  zring := 0
  steps := 0
  fmta := s.th.regs.fmta
  fmtb := s.th.regs.fmtb
  fmtc := s.th.regs.fmtc
  scalea := s.th.regs.scalea
  scaleb := s.th.regs.scaleb
  fired := 0
  scA := []
  scB := []

/-- An operation enters the matrix queue, and its slot parks until it completes (R202, R204, R223). -/
def State.enqueueMat (s : State) (o : MatOp) : State :=
  if Config.matqMax ≤ s.core.matq.length then s.park .matqFull
  else
    let free := !(s.core.matq.any fun p => p.sameTile o)
    let s := s.onHere fun k => { k with matq := k.matq ++ [o], nextId := k.nextId + 1 }
    let s := s.park (.matrix o.id)
    if o.isMma then s.pokeMatrix s.loc
    else if free then s.later (.matrixOpComplete s.loc o.id)
    else s

/-- Whether the issuing team has configured a ring, as its own and not as a remote handle (R220, R360). -/
def State.ownsRing (s : State) (n : Fin 8) : Bool :=
  match s.core.rings[n] with
  | some r => r.team == s.th.team && r.remote.isNone
  | none => false

/-- The named rings are configured by the team, or the pool-range trap (R220). -/
def guardRings (ns : List (Fin 8)) (k : State → State) (s : State) : State :=
  match ns.find? fun n => !s.ownsRing n with
  | some n => s.trap 0x04 (w64 n.val)
  | none => k s

/-- Whether FMTA, FMTB and the scale rings decode (R241, R243). -/
def MatOp.formatsOk (o : MatOp) : Bool :=
  (recAB o.fmta).isSome && (recAB o.fmtb).isSome && fmtClass (recCode o.fmta) == fmtClass (recCode o.fmtb) &&
    (let ops := if o.kind = .mmas then [o.aring, o.bring, o.zring] else [o.aring, o.bring]
     let sa := scaleRing o.fmta o.scalea
     let sb := scaleRing o.fmtb o.scaleb
     !((sa.toList ++ sb.toList).any fun r => ops.contains r.val) && !(sa.isSome && sa == sb))

/-- MMA and MMAS (R357). -/
def runMma (sparse : Bool) (a : Reg) (n : Fin 32) (s : State) : State :=
  let x := s.x a
  let ar := bits x 2 0
  let br := bits x 5 3
  let zr := bits x 8 6
  if bits x 15 9 ≠ 0 ∨ bits x 63 32 ≠ 0 ∨ (!sparse && zr != 0) ∨ ar = br ∨ (sparse && (zr == ar || zr == br)) then
    s.trap 0x06 x
  else
    guardRings ([Fin.ofNat 8 ar, Fin.ofNat 8 br] ++ if sparse then [Fin.ofNat 8 zr] else []) (fun s =>
      let o := { s.matOp (if sparse then .mmas else .mma) n with
        aring := ar, bring := br, zring := zr, steps := bits x 31 16 + 1 }
      if !o.formatsOk then s.parkFault 0x15 0 false 0 0
      else
        guardRings ((scaleRing o.fmta o.scalea).toList ++ (scaleRing o.fmtb o.scaleb).toList)
          (fun s => s.enqueueMat o) s) s

/-- MLOAD and MDRAIN (R358): the record first, then range, then alignment. -/
def runTileMove (kind : Nat → MatKind) (a : Reg) (n : Fin 32) (s : State) : State :=
  match recC s.th.regs.fmtc with
  | none => s.parkFault 0x15 0 false 0 0
  | some (f, _, _) =>
    let o := (s.x a).toNat
    guardPool o (4096 * f.bytes) (guardAlign o f.bytes fun s => s.enqueueMat (s.matOp (kind o) n)) s

/-- R357. -/
def execMma (a : Reg) (n : Fin 32) (s : State) : Host.Outcome State Fault Refusal :=
  .next (guardCmd (fmtC 44 0 a.val 0 0 n.val) (guardTile n (consumeX [a] (runMma false a n))) s)

/-- R357. -/
def execMmas (a : Reg) (n : Fin 32) (s : State) : Host.Outcome State Fault Refusal :=
  .next (guardCmd (fmtC 44 0 a.val 0 1 n.val) (guardTile n (consumeX [a] (runMma true a n))) s)

/-- R358. -/
def execMzero (n : Fin 32) (s : State) : Host.Outcome State Fault Refusal :=
  .next (guardCmd (fmtC 44 0 0 0 2 n.val) (guardTile n fun s => s.enqueueMat (s.matOp .mzero n)) s)

/-- R358. -/
def execMload (a : Reg) (n : Fin 32) (s : State) : Host.Outcome State Fault Refusal :=
  .next (guardCmd (fmtC 44 0 a.val 0 3 n.val) (guardTile n (consumeX [a] (runTileMove .mload a n))) s)

/-- R358. -/
def execMdrain (a : Reg) (n : Fin 32) (s : State) : Host.Outcome State Fault Refusal :=
  .next (guardCmd (fmtC 44 0 a.val 0 4 n.val) (guardTile n (consumeX [a] (runTileMove .mdrain a n))) s)

/-- R359. -/
def execMstat (d : Reg) (n : Fin 32) (s : State) : Host.Outcome State Fault Refusal :=
  .next (guardCmd (fmtC 44 d.val 0 0 5 n.val) (guardTile n fun s =>
    let busy := s.core.matq.any fun p => p.team == s.th.team && p.tile == n.val
    (s.setX d (w64 (busy.toNat + 256 * s.core.matq.length))).adv) s)

/-! Ring instructions (R360 to R362). -/

/-- Whether a queued operation of a core names a ring: a matrix operation, or a copy into it. -/
def State.ringNamed (s : State) (core : CoreId) (n : Fin 8) : Bool :=
  let k := s.getCore core
  (k.matq.any fun o => o.rings.contains n) || k.copies.any fun c =>
    match c.kind with
    | .cpyr r => r == n.val
    | _ => false

/-- The core and team of gang rank `g` (R193, R231): rank 0 alone, this core, in a thread task and on a command core. -/
def State.gangMember (s : State) (g : Nat) : Option (CoreId × Nat) :=
  match s.team with
  | none => if g = 0 then some (s.loc, s.th.team) else none
  | some tm =>
    if tm.kind = .gang then
      (tm.gang[g]?).bind fun c =>
        ((s.getCore c).teams.find? fun t => t.lh == tm.lh && t.task == tm.task && t.kind == .gang).map fun t => (c, t.id)
    else if g = 0 then some (s.loc, tm.id) else none

/-- The configuration word's fields (R360). -/
def cfgLog2 (w : Word) : Nat := bits w 4 0
def cfgRem (w : Word) : Bool := w.getLsbD 5
def cfgRank (w : Word) : Nat := bits w 7 6
def cfgFbo (w : Word) : Nat := bits w 53 32

/-- RGCFG (R360). -/
def runRgcfg (n : Fin 8) (base cfg : Word) (s : State) : State :=
  let size := 2 ^ cfgLog2 cfg
  let rem := cfgRem cfg
  let own := s.core.rings[n]
  let peer := if rem then s.gangMember (cfgRank cfg) else some (s.loc, s.th.team)
  let badWord := bits cfg 31 8 ≠ 0 ∨ bits cfg 63 54 ≠ 0 ∨ cfgLog2 cfg < 12 ∨ 20 < cfgLog2 cfg ∨ (rem && cfgFbo cfg % 16 != 0)
  let badRank := rem && (decide (s.th.gangw ≤ cfgRank cfg) || (peer.map (·.1)) == some s.loc || peer.isNone)
  let taken := match own with
    | none => false
    | some r => r.team != s.th.team || decide (0 < r.holds) || s.ringNamed s.loc n
  let peerTaken := rem && match peer with
    | some p => (s.ringAt p.1 n).isSome
    | none => true
  if badWord ∨ badRank || taken || peerTaken then s.trap 0x06 cfg
  else if base.toNat % size ≠ 0 then s.trap 0x04 base
  else
    guardPool base.toNat size (fun s =>
      let ring : Ring :=
        { team := s.th.team, base := base.toNat, log2 := cfgLog2 cfg, written := 0, taken := 0, reserved := 0,
          remote := none, producer := none, ovr := false }
      if rem then
        guardPool (cfgFbo cfg) 16 (fun s =>
          match peer with
          | none => s
          | some (c, tm) =>
            let s := s.setRing c n (some { ring with team := tm, producer := some (s.loc, s.th.team, cfgFbo cfg) })
            (s.setRing s.loc n (some { ring with remote := some (c, tm) })).adv) s
      else (s.setRing s.loc n (some ring)).adv) s

/-- A ring that the issuing team has configured, or the pool-range trap (R220). -/
def guardMine (n : Fin 8) (k : Ring → State → State) (s : State) : State :=
  match s.core.rings[n] with
  | some r => if r.team = s.th.team then k r s else s.trap 0x04 (w64 n.val)
  | none => s.trap 0x04 (w64 n.val)

/-- RGADV (R361). -/
def runRgadv (n : Fin 8) (b : Nat) (s : State) : State :=
  guardMine n (fun r s =>
    if r.remote.isSome ∨ b % 256 ≠ 0 ∨ r.size < b ∨ r.size - b < r.holds then s.trap 0x06 (w64 b)
    else ((s.setRing s.loc n (some { r with written := r.written + b })).pokeMatrix s.loc).adv) s

/-- RGTAKE (R361): on an owner ring the notice is a release at `.gang` of the thread (R232). -/
def runRgtake (n : Fin 8) (b : Nat) (s : State) : State :=
  guardMine n (fun r s =>
    if r.remote.isSome ∨ b % 256 ≠ 0 ∨ r.size < b ∨ r.holds < b then s.trap 0x06 (w64 b)
    else
      let take := fun (s : State) => (s.takeRing s.loc n b).adv
      if r.producer.isSome then releaseAt 2 take s else take s) s

/-- The word of RGSTAT (R362). -/
def State.ringStat (s : State) (n : Fin 8) : Word :=
  match s.core.rings[n] with
  | some r =>
    if r.team = s.th.team then
      w64 ((if r.remote.isSome then 0 else r.holds % 2 ^ 32) + 2 ^ 32 + 2 ^ 33 * r.remote.isSome.toNat +
        2 ^ 34 * r.ovr.toNat + 2 ^ 35 * r.log2)
    else 0
  | none => 0

/-- RGRESET (R362). -/
def runRgreset (n : Fin 8) (s : State) : State :=
  guardMine n (fun r s =>
    let far := r.remote.bind fun p => (s.ringAt p.1 n).map fun q => (p.1, q)
    let holds := match far with
      | some (_, q) => q.holds
      | none => r.holds
    let named := s.ringNamed s.loc n || match far with
      | some (c, _) => s.ringNamed c n
      | none => false
    if 0 < holds ∨ named ∨ r.producer.isSome then s.trap 0x06 (w64 holds)
    else
      let s := s.setRing s.loc n none
      (match far with
       | some (c, _) => s.setRing c n none
       | none => s).adv) s

/-- R360. -/
def execRgcfg (a b : Reg) (n : Fin 8) (s : State) : Host.Outcome State Fault Refusal :=
  .next (guardCmd (fmtC 45 0 a.val b.val 0 n.val) (consumeX [a, b] (runRgcfg n (s.x a) (s.x b))) s)

/-- R361. -/
def execRgadv (a : Reg) (n : Fin 8) (s : State) : Host.Outcome State Fault Refusal :=
  .next (guardCmd (fmtC 45 0 a.val 0 1 n.val) (consumeX [a] (runRgadv n (s.x a).toNat)) s)

/-- R361. -/
def execRgtake (a : Reg) (n : Fin 8) (s : State) : Host.Outcome State Fault Refusal :=
  .next (guardCmd (fmtC 45 0 a.val 0 2 n.val) (consumeX [a] (runRgtake n (s.x a).toNat)) s)

/-- R362. -/
def execRgstat (d : Reg) (n : Fin 8) (s : State) : Host.Outcome State Fault Refusal :=
  .next (guardCmd (fmtC 45 d.val 0 0 3 n.val) (fun s => (s.setX d (s.ringStat n)).adv) s)

/-- R362. -/
def execRgreset (n : Fin 8) (s : State) : Host.Outcome State Fault Refusal :=
  .next (guardCmd (fmtC 45 0 0 0 4 n.val) (runRgreset n) s)

/-- R232: bytes freed in a pipeline stage are an arrival at the producer's object. -/
def execStageFreeNotice (core : CoreId) (team fbo bytes : Nat) (s : State) : Host.Outcome State Fault Refusal :=
  .next (s.barUpdate core team fbo (-(bytes : Int)) 0)

end Sys2Proof.Machine
end

