-- ==== Sys2Proof/Machine/Copy.lean ====
section
/-! DEFINITION. The engine registers (R355, R356), what an engine reads and writes in memory (R126), and the copy engine
(R226 to R231, R363 to R367). -/

namespace Sys2Proof.Machine

/-! Engine registers. -/

/-- The number of an engine register (R355). -/
def engNo : EngReg → Fin 15
  | .cbase => 0 | .cctl => 1 | .cpool => 2 | .cext => 3 | .cstr01 => 4 | .cstr23 => 5 | .ccrd01 => 6 | .ccrd23 => 7
  | .clo01 => 8 | .clo23 => 9 | .chi01 => 10 | .chi23 => 11 | .cfill0 => 12 | .cfill1 => 13 | .caux => 14

/-- The bits that a register keeps (R5, R355). -/
def engKeeps : EngReg → Word
  | .cctl => 0xFFFF000F
  | .cpool | .caux => 0x3FFFFF
  | _ => BitVec.allOnes 64

/-- R356: reserved bits are discarded; a poisoned value is consumed. -/
def execEset (a : Reg) (e : EngReg) (s : State) : Host.Outcome State Fault Refusal :=
  .next (consumeX [a] (fun s => (s.onTh fun t => { t with eng := t.eng.set (engNo e) (s.x a &&& engKeeps e) }).adv) s)

/-- R356. -/
def execEget (d : Reg) (e : EngReg) (s : State) : Host.Outcome State Fault Refusal :=
  .next (s.setX d s.th.eng[engNo e]).adv

/-! What an engine reads and writes. -/

/-- A response that has arrived for an engine of a core. -/
def State.engGot (s : State) (core : CoreId) (id pa n : Nat) : Option Got :=
  (s.getCore core).got.find? fun g => g.engine == some id && g.pa == pa && g.n == n

/-- A read of an engine leaves for the host window or another package (R13, R66): the tag of its request, or none while there
is no response slot for it (R35, R67). -/
def State.engAsk (s : State) (core : CoreId) (id : Nat) (p : Phys) (n : Nat) : Option Nat × State :=
  let tag := s.freeTag core
  let o : Outstanding :=
    { core := core, tag := tag, tid := 0, pa := p.pa, n := n, pkg := pkgOf p.pa, plane := none, write := none, fill := false,
      engine := some id, nearDone := true, devDone := true
      msgs := [[(s.reqHead core tag 0 (pkgOf p.pa) .read n p.pa).slot]] }
  if !s.canSend core p.pa then (none, s)
  else (some tag,
    if s.isLocal p.pa then s.hostRequest o .rdCurr n none
    else (s.enterGateway o).out (.request (pkgOf p.pa) 0 tag p.pa n))

/-- Data of the host window or of another package, for an engine: a response that has arrived, or a request. -/
def State.engAway (s : State) (core : CoreId) (id : Nat) (p : Phys) (va : Word) (n : Nat) : Loaded Nat × State :=
  match s.engGot core id p.pa n with
  | some g =>
    let s := s.onCore core fun k => { k with got := k.got.erase g }
    match g.fail with
    | some c => (.fail (xfail c 0) va p.pa, s)
    | none => (.value (g.data.toNat % 256 ^ n), s)
  | none =>
    match s.outstanding.find? fun o =>
      o.core == core && o.engine == some id && o.pa == p.pa && o.n == n && o.write.isNone with
    | some o => (.wait (.response o.tag), s)
    | none =>
      match s.engAsk core id p n with
      | (some tag, s) => (.wait (.response tag), s)
      | (none, s) => (.wait .slot, s)

/-- A host line under HC = 1 obtained for an engine's access by the line's home (R66), or the failure of a request for it
(R13). -/
def State.engObtain (s : State) (core : CoreId) (id : Nat) (pa n : Nat) (own : Bool) : Served Unit × State :=
  match (s.getCore core).got.find? fun g => g.engine == some id && g.failsAt pa n with
  | some g => (.fail (g.fail.getD 0), s.onCore core fun k => { k with got := k.got.erase g })
  | none =>
    match s.obtain core 0 (some id) pa n own with
    | (some w, s) => (.wait w, s)
    | (none, s) => (.done (), s)

/-- An engine's read of such a line, behind the writes of the socket that have entered its egress (R161). -/
def State.engHostRead (s : State) (core : CoreId) (id : Nat) (pa n : Nat) : Served Nat × State :=
  match s.settle core pa with
  | (.wait w, s) => (.wait w, s)
  | (_, s) =>
    match s.engObtain core id pa n false with
    | (.done _, s) => (.done (leRead s.physByte pa n), s)
    | (.wait w, s) => (.wait w, s)
    | (.fail c, s) => (.fail c, s)

/-- What an engine reads, as the outcome of its read at an address. -/
def Served.loaded {α : Type} (x : Served α × State) (va : Word) (pa : Nat) : Loaded α × State :=
  match x with
  | (.done v, s) => (.value v, s)
  | (.wait w, s) => (.wait w, s)
  | (.fail c, s) => (.fail (xfail c 0) va pa, s)

/-- One piece of an engine's read; an engine never becomes a holder (R90). -/
def State.engPiece (s : State) (core : CoreId) (id : Nat) (va : Word) (p : Phys) (n : Nat) : Loaded Nat × State :=
  if !s.isLocal p.pa then s.engAway core id p va n
  else
    match regionOf p.pa with
    | .unassigned => (.fail (xfail 0x13 0) va p.pa, s)
    | .sysreg =>
      match s.reach p.pa n, mregAt (p.pa % 0x100000000000) n with
      | .wait w, _ => (.wait w, s)
      | .done _, some r => (.value (s.readMReg r).toNat, s)
      | _, _ => (.fail (xfail 0x13 0) va p.pa, s)
    | .host =>
      match s.reach p.pa n with
      | .wait w => (.wait w, s)
      | .fail c => (.fail (xfail c 0) va p.pa, s)
      | .done _ => if p.hc then Served.loaded (s.engHostRead core id p.pa n) va p.pa else s.engAway core id p va n
    | .lpddr | .near => Served.loaded (s.serveRead core p.pa n false id) va p.pa

/-- The pieces of an engine's read, lowest first. -/
def State.engPieces (s : State) (core : CoreId) (id : Nat) (va : Word) : List (Phys × Nat) → Loaded Nat × State
  | [] => (.value 0, s)
  | (p, n) :: r =>
    match s.engPiece core id va p n with
    | (.value v, s) =>
      match s.engPieces core id (va + w64 n) r with
      | (.value u, s) => (.value (v + 256 ^ n * u), s)
      | x => x
    | x => x

/-- A translation of an engine that gives no address. -/
def engFault {α : Type} (f : XFault) (va : Word) : Loaded α :=
  match f.wait with
  | some w => .wait w
  | none => .fail f va 0

/-- An engine's read of `n` bytes, with its context's translations (R126). -/
def State.engLoad (s : State) (a : Asid) (id : Nat) (va : Word) (n : Nat) : Loaded Nat × State :=
  match s.xlateSpan a va n .load with
  | (.error f, s) => (engFault f va, s)
  | (.ok ps, s) => s.engPieces a.core id va ps

/-- A write of an engine as a message. -/
def engMsg (a : Asid) (pc va : Word) (p : Phys) (n v : Nat) : WriteMsg where
  va := va
  pa := p.pa
  n := n
  data := BitVec.ofNat 128 v
  leaf := p.leaf
  amo := none
  pc := pc
  ctx := a.ctx
  courier := none

/-- A write of an engine leaves for the host window or another package (R66), once there is a response slot for it: the
engine's operation counts it. Its near count ends in the same step, since it then stands in the egress of the die (R161). -/
def State.engSend (s : State) (core : CoreId) (id tid : Nat) (w : WriteMsg) : Loaded Unit × State :=
  if !s.canSend core w.pa then (.wait .slot, s)
  else
    let tag := s.freeTag core
    let pkg := pkgOf w.pa
    let o : Outstanding :=
      { core := core, tag := tag, tid := tid, pa := w.pa, n := w.n, pkg := pkg, plane := none, write := some w, fill := false,
        engine := some id, nearDone := true, devDone := false
        msgs := [] }
    let o := { o with msgs := [(s.reqHead core tag o.vn pkg .write w.n w.pa).slot :: dataSlots w.data.toNat w.n] }
    let s := s.onCore core fun k => { k with
      copies := k.copies.map fun c => if c.id = id then { c with dev := c.dev + 1, hst := c.hst + 1 } else c
      colq := k.colq.map fun c => if c.id = id then { c with dev := c.dev + 1, hst := c.hst + 1 } else c }
    (.value (),
      if s.isLocal w.pa then s.hostRequest o .wrCur w.n (some (w.data.setWidth 512))
      else (s.enterGateway o).out (.write pkg w.pa w.n w.data))

/-- The number by which the kills that an engine's write sends are counted: no thread's dispatch number (R161, R168). -/
def engTid (id : Nat) : Nat := 2 ^ 80 + id

/-- A write of at most one sector of device memory by an engine: into the invisible frame of a tile with SHAD = 1, else
where R90 and R100 send it, with no claim and no holder (R100, R103); held in the wait after a split (R56). -/
def State.engSector (s : State) (core : CoreId) (id : Nat) (ctx : BitVec 16) (pa n v : Nat) : Served Unit × State :=
  let src : Source := ⟨core, engTid id, ctx, false⟩
  match s.tileOver pa with
  | some (pb, t) => if t.shad then s.shadowStore src pb t pa n v else s.serialise src pa n v
  | none => s.serialise src pa n v

/-- A write of device memory by an engine, sector by sector. -/
def State.engSectors (s : State) (core : CoreId) (id : Nat) (ctx : BitVec 16) (pa n v : Nat) : Nat → Served Unit × State
  | 0 => (.done (), s)
  | fuel + 1 =>
    if n = 0 then (.done (), s)
    else
      let m := min n (16 - pa % 16)
      match s.engSector core id ctx pa m (v % 256 ^ m) with
      | (.done _, s) => s.engSectors core id ctx (pa + m) (n - m) (v / 256 ^ m) fuel
      | x => x

/-- An engine's write or atomic in the host window under HC = 1: performed once the home owns its lines (R66); a request for one
that fails fails the write (R13). -/
def State.engHost (s : State) (core : CoreId) (id : Nat) (w : WriteMsg) : Loaded Unit × State :=
  match s.engObtain core id w.pa w.n true with
  | (.done _, s) => Served.loaded (s.performMsg core (engTid id) w) w.va w.pa
  | x => Served.loaded x w.va w.pa

/-- The pieces of an engine's write, lowest first. -/
def State.engStorePieces (s : State) (a : Asid) (id tid : Nat) (pc va : Word) (v : Nat) :
    List (Phys × Nat) → Loaded Unit × State
  | [] => (.value (), s)
  | (p, n) :: r =>
    let w := engMsg a pc va p n (v % 256 ^ n)
    let x : Loaded Unit × State :=
      if !s.isLocal p.pa || (regionOf p.pa == .host && !p.hc) then s.engSend a.core id tid w
      else if s.isDevMem p.pa then
        Served.loaded (s.engSectors a.core id a.ctx p.pa n (v % 256 ^ n) 8) va p.pa
      else if regionOf p.pa == .host then
        match s.reach p.pa n with
        | .done _ => s.engHost a.core id w
        | x => Served.loaded (x, s) va p.pa
      else Served.loaded (s.performMsg a.core (engTid id) w) va p.pa
    match x with
    | (.value _, s) => s.engStorePieces a id tid pc (va + w64 n) (v / 256 ^ n) r
    | x => x

/-- An engine's write of `n` bytes. -/
def State.engStore (s : State) (a : Asid) (id tid : Nat) (pc va : Word) (n v : Nat) : Loaded Unit × State :=
  match s.xlateSpan a va n .store with
  | (.error f, s) => (engFault f va, s)
  | (.ok ps, s) => s.engStorePieces a id tid pc va v ps

/-! Geometry (R227 to R229). -/

/-- The value of dimension `d` in a pair of registers from `i` (R355). -/
def pairOf (e : Vector Word 15) (i : Fin 15) (j : Fin 15) (d : Nat) : Int :=
  sint (bits (if d < 2 then e[i] else e[j]) (32 * (d % 2) + 31) (32 * (d % 2))) 32

/-- Whether a copy is allowed LOGE (R355). -/
def logeOk (e : Vector Word 15) : Bool := decide (bits e[1] 2 0 ≤ 4)

/-- The geometry in the engine registers (R227, R355). -/
def geomOf (e : Vector Word 15) : CopyGeom where
  base := e[0]
  loge := bits e[1] 2 0
  dir := e[1].getLsbD 3
  pool := bits e[2] 21 0
  n := Vector.ofFn fun d => bits e[3] (16 * d.val + 15) (16 * d.val) + 1
  s := Vector.ofFn fun d => pairOf e 4 5 d.val
  c := Vector.ofFn fun d => pairOf e 6 7 d.val
  lo := Vector.ofFn fun d => pairOf e 8 9 d.val
  hi := Vector.ofFn fun d => pairOf e 10 11 d.val
  fill := BitVec.ofNat 128 (e[12].toNat + 2 ^ 64 * e[13].toNat)

/-- CPYT's geometry (R363): the tile, every sector in bounds. -/
def tileGeom (e : Vector Word 15) (va : Word) (t : Tile) : CopyGeom :=
  { geomOf e with
    base := va, loge := 4, n := #v[t.rowq, t.rows, 1, 1], s := #v[16, t.pitch, 0, 0], c := #v[0, 0, 0, 0],
    lo := #v[0, 0, 0, 0], hi := #v[t.rowq, t.rows, 1, 1] }

/-- Element bytes. -/
def CopyGeom.e (g : CopyGeom) : Nat := 2 ^ g.loge

/-- Elements of a box. -/
def CopyGeom.count (g : CopyGeom) : Nat := g.n[0] * g.n[1] * g.n[2] * g.n[3]

/-- The indices of element `i`, dimension 0 fastest (R229). -/
def CopyGeom.index (g : CopyGeom) (i : Nat) : Vector Nat 4 :=
  #v[i % g.n[0], i / g.n[0] % g.n[1], i / (g.n[0] * g.n[1]) % g.n[2], i / (g.n[0] * g.n[1] * g.n[2])]

/-- The coordinate of index `i` in dimension `d`; `list` replaces those of dimension 1 (R363, CPYG). -/
def CopyGeom.coord (g : CopyGeom) (list : Option (List Int)) (d : Fin 4) (i : Nat) : Int :=
  match list with
  | some l => if d = 1 then (l[i]?).getD 0 else g.c[d] + i
  | none => g.c[d] + i

/-- Whether a coordinate is in bound. -/
def CopyGeom.inBound (g : CopyGeom) (d : Fin 4) (c : Int) : Bool := decide (g.lo[d] ≤ c ∧ c < g.hi[d])

/-- The address of an element at coordinates, exactly (R228). -/
def CopyGeom.address (g : CopyGeom) (cs : Vector Int 4) : Int :=
  sint g.base.toNat 64 + cs[0] * g.s[0] + cs[1] * g.s[1] + cs[2] * g.s[2] + cs[3] * g.s[3]

/-- The first and the last in-bound coordinate of a dimension, if any. -/
def CopyGeom.edge (g : CopyGeom) (d : Fin 4) : Option (Int × Int) :=
  let lo := max g.c[d] g.lo[d]
  let hi := min (g.c[d] + g.n[d] - 1) (g.hi[d] - 1)
  if lo ≤ hi then some (lo, hi) else none

/-- Whether a corner fails R228: a partial sum leaves 65 bits, or the address leaves the canonical range. -/
def CopyGeom.cornerBad (g : CopyGeom) (cs : Vector Int 4) : Bool :=
  let ok := fun (a : Int) => decide (-(2 ^ 64) ≤ a ∧ a < 2 ^ 64)
  let a0 := sint g.base.toNat 64 + cs[0] * g.s[0]
  let a1 := a0 + cs[1] * g.s[1]
  let a2 := a1 + cs[2] * g.s[2]
  let a3 := a2 + cs[3] * g.s[3]
  !(ok a0 && ok a1 && ok a2 && ok a3) || !decide (-(2 ^ 53) ≤ a3 ∧ a3 < 2 ^ 53)

/-- The corners of a box given by its edges. -/
def cornersOf (e0 e1 e2 e3 : Int × Int) : List (Vector Int 4) :=
  [e0.1, e0.2].flatMap fun a => [e1.1, e1.2].flatMap fun b => [e2.1, e2.2].flatMap fun c => [e3.1, e3.2].map fun d => #v[a, b, c, d]

/-- The first corner of a copy's in-bound box that fails R228, as an address; every row's for CPYG (R364). -/
def CopyGeom.badCorner (g : CopyGeom) (list : Option (List Int)) : Option Word :=
  match g.edge 0, g.edge 2, g.edge 3 with
  | some e0, some e2, some e3 =>
    let rows := match list with
      | some l => (l.filter (g.inBound 1)).map fun c => (c, c)
      | none => (g.edge 1).toList
    ((rows.flatMap fun e1 => cornersOf e0 e1 e2 e3).find? g.cornerBad).map fun cs => w64i (g.address cs)
  | _, _, _ => none

/-! A copy's run. -/

/-- On whose behalf a copy translates (R126). -/
def Copy.asid (core : CoreId) (c : Copy) : Asid := ⟨core, 0, c.ctx, c.mode, false⟩

/-- The global address of element `i`; none when it is out of bound or has no destination. -/
def Copy.target (c : Copy) (i : Nat) : Option Word :=
  let g := c.geom
  let ix := g.index i
  match c.kind with
  | .cpyp dest => ((dest[ix[1]]?).getD none).map fun a => a + w64 (g.e * ix[0])
  | .cpyg l =>
    let cs : Vector Int 4 := Vector.ofFn fun d => g.coord (some l) d ix[d]
    if (List.finRange 4).all fun d => g.inBound d cs[d] then some (w64i (g.address cs)) else none
  | _ =>
    let cs : Vector Int 4 := Vector.ofFn fun d => g.coord none d ix[d]
    if (List.finRange 4).all fun d => g.inBound d cs[d] then some (w64i (g.address cs)) else none

/-- The ring that a copy writes into: its core, number and state (R365). -/
def State.targetRing (s : State) (core : CoreId) (r : Nat) : Option (CoreId × Fin 8 × Ring) :=
  let n : Fin 8 := Fin.ofNat 8 r
  (s.ringAt core n).bind fun g =>
    match g.remote with
    | some p => (s.ringAt p.1 n).map fun q => (p.1, n, q)
    | none => some (core, n, g)

/-- The pool offset of element `i` (R229, R365). -/
def State.poolOffset (s : State) (core : CoreId) (c : Copy) (i : Nat) : Nat :=
  match c.kind, c.fired with
  | .cpyr r, some pos =>
    match s.targetRing core r with
    | some (_, _, g) => g.base + (pos + c.geom.e * i) % g.size
    | none => 0
  | _, _ => c.geom.pool + c.geom.e * i

/-- Whether the strides keep element `i` clear of the elements before it, its row's coordinate not repeated in a list. -/
def Copy.apart (c : Copy) (i : Nat) : Bool :=
  let g := c.geom
  let spread := (List.finRange 4).foldl (fun (x : Nat × Bool) d =>
    if g.n[d] ≤ 1 then x
    else (x.1 + g.s[d].natAbs * (g.n[d] - 1), x.2 && decide (x.1 + g.e ≤ g.s[d].natAbs))) (0, true)
  spread.2 &&
    (match c.kind with
     | .cpyg l => !(l.take (i / g.n[0])).contains ((l[i / g.n[0]]?).getD 0)
     | _ => true)

/-- Whether element `i`, written at `a`, shares a byte with an element before it: R229 fixes no order between the two. -/
def Copy.clash (c : Copy) (i : Nat) (a : Word) : Bool :=
  let e := c.geom.e
  let meets := fun (n : Nat) (d : Option Word) =>
    match d with
    | some b => decide ((a - b).toNat < n) || decide ((b - a).toNat < e)
    | none => false
  match c.kind with
  | .cpyp dest => (dest.take (i / c.geom.n[0])).any (meets (e * c.geom.n[0]))
  | _ => !c.apart i && (List.range i).any fun j => meets e (c.target j)

/-- Whether a receiver that a multicast names is not on its core, which has been saved (R207, R398). -/
def State.missing (s : State) (core : CoreId) (c : Copy) : Bool :=
  match c.kind, s.teamAt core c.team with
  | .cpym mask, some tm =>
    tm.kind == .gang && decide ((s.receivers core c).length < ((List.range 4).filter fun g => mask / 2 ^ g % 2 == 1).length)
  | _, _ => false

/-- Element `i` of a copy moves (R229); where two elements share a byte, a free value says which of them stays (log 18). -/
def State.moveElem (s : State) (core : CoreId) (c : Copy) (i : Nat) : Loaded Unit × State :=
  let e := c.geom.e
  let o := s.poolOffset core c i
  if c.geom.dir then
    match c.target i with
    | none => (.value (), s)
    | some a =>
      let put := fun (s : State) => s.engStore (c.asid core) c.id c.tid c.pc a e (s.poolReadOf core c.team o e)
      if !c.clash i a then put s
      else
        match s.freeBit with
        | (true, s) => put s
        | (false, s) =>
          match s.xlateSpan (c.asid core) a e .store with
          | (.error _, s) => put s
          | (.ok _, s) => (.value (), s)
  else if s.missing core c then (.wait .saving, s)
  else
    let put := fun (v : Nat) (s : State) => (s.receivers core c).foldl (fun s p => s.poolWriteOf p.1 p.2 o e v) s
    match c.target i with
    | none => (.value (), put (c.geom.fill.toNat % 256 ^ e) s)
    | some a =>
      match s.engLoad (c.asid core) c.id a e with
      | (.value v, s) => (.value (), put v s)
      | (.fail f va pa, s) => (.fail f va pa, s)
      | (.wait w, s) => (.wait w, s)

/-- The page of an element, if it reaches memory. -/
def Copy.page (c : Copy) (i : Nat) : Option Nat := (c.target i).map fun a => a.toNat / 65536

/-- Whether a copy has a byte of its source or destination in `n` bytes from a virtual address (R160). -/
def Copy.touches (c : Copy) (lo n : Nat) : Bool :=
  (List.range c.geom.count).any fun i => match c.target i with
    | some a => decide (lo < a.toNat + 2 ^ c.geom.loge ∧ a.toNat < lo + n)
    | none => false

/-- Whether a copy of the current thread that has not arrived lies inside a range (R160). -/
def State.copiesIn (s : State) (lo n : Nat) : Bool := s.core.copies.any fun c => c.tid == s.th.order && c.touches lo n

/-- How a run of elements ended. -/
inductive CopyEnd where
  | page | failed (f : XFault) (va : Word) (pa : Nat) | wait
  deriving DecidableEq, Repr

/-- Elements from `i` while they lie in one page, at most `fuel`: the next element and how the run ended (R126). -/
def State.moveRun (s : State) (core : CoreId) (c : Copy) (page : Option Nat) (i : Nat) : Nat → Nat × CopyEnd × State
  | 0 => (i, .page, s)
  | fuel + 1 =>
    if c.geom.count ≤ i then (i, .page, s)
    else
      match page, c.page i with
      | some p, some q =>
        if p ≠ q then (i, .page, s)
        else
          match s.moveElem core c i with
          | (.value _, s) => s.moveRun core c page (i + 1) fuel
          | (.fail f va pa, s) => (i, .failed f va pa, s)
          | (.wait _, s) => (i, .wait, s)
      | _, q =>
        match s.moveElem core c i with
        | (.value _, s) => s.moveRun core c (page.or q) (i + 1) fuel
        | (.fail f va pa, s) => (i, .failed f va pa, s)
        | (.wait _, s) => (i, .wait, s)

/-- A copy of a core. -/
def State.copyAt (s : State) (core : CoreId) (id : Nat) : Option Copy := (s.getCore core).copies.find? fun c => c.id == id

/-- A copy changed. -/
def State.onCopy (s : State) (core : CoreId) (id : Nat) (f : Copy → Copy) : State :=
  s.onCore core fun k => { k with copies := k.copies.map fun c => if c.id = id then f c else c }

/-- The latent entry of a stopped copy (R230), which names the copy's PC. -/
def State.copyEntry (s : State) (core : CoreId) (c : Copy) (f : XFault) (va : Word) (pa : Nat) : FaultEntry :=
  let slot := (s.getCore core).slotOfTid c.tid
  let t := s.threadOf core c.tid
  { cause := f.cause, stat := 0, remote := false, write := c.geom.dir, notask := false, ctx := c.ctx, fva := va,
    fpc := c.pc, rpc := c.pc, pkg := s.pkgid, sock := BitVec.ofNat 5 (sockOf core), core := BitVec.ofNat 6 (siteOf core),
    slot := BitVec.ofNat 3 slot, pa := pa, detail := f.detail, task := if t.kind = .strand then 0 else t.task,
    sup := s.supFor core t }

/-- The thread of a stopped copy holds its entry; one that already waits where the entry is raised runs that instruction
again (R230); `own` tells whether the copy's object `bo` is one of the thread's core. -/
def Thread.copyHeld (own : Bool) (bo id : Nat) (h : HeldEntry) (t : Thread) : Thread :=
  let t := { t with held := t.held ++ [{ h with copy := some id }] }
  match t.status with
  | .parked (.bowait o _) => if own && o == bo then { t with status := .ready } else t
  | .parked .copies => { t with status := .ready }
  | _ => t

/-- A copy fails: it stops at its page with a latent entry, or its entry waits for space (R132, R230). -/
def State.stopCopy (s : State) (core : CoreId) (c : Copy) (f : XFault) (va : Word) (pa : Nat) : State :=
  let s := s.onCopy core c.id fun c => { c with stopped := true }
  let e := s.copyEntry core c f va pa
  match s.fqTake e with
  | (some ix, s) =>
    let h : HeldEntry :=
      { ctx := e.ctx, index := ix, pc := c.pc, load := none, regs := Regs.zero, copy := some c.id, raised := false,
        acked := false }
    s.onTid core c.tid (Thread.copyHeld (s.copyOwn core c) c.bo c.id h)
  | (none, s) =>
    { s with fqWait := s.fqWait ++
      [{ core := core, slot := Fin.ofNat 8 ((s.getCore core).slotOfTid c.tid), entry := e, load := none, after := none,
         lanes := [], copy := some c.id }] }

/-- R126, R229, R230: a copy reaches a page, and moves its elements there after the thread's earlier stores, those that left the
package once they are acknowledged (R168). -/
def execCopyPageTranslate (core : CoreId) (id : Nat) (s : State) : Host.Outcome State Fault Refusal :=
  .next (match s.copyAt core id with
    | none => s
    | some c =>
      let waitsToFire := match c.kind with
        | .cpyr _ => c.fired.isNone
        | _ => false
      if c.stopped || waitsToFire then s
      else
        let again := fun (s : State) => { s with hostHeld := s.hostHeld ++ [.copyPageTranslate core id] }
        if s.outstanding.any fun o => o.core == core && o.tid == c.tid && o.engine.isNone && o.write.isSome then again s
        else match s.performAll core ((s.getCore core).inflight.filter fun p => p.tid == c.tid) with
        | (.wait _, s) => again s
        | (_, s) =>
          match s.moveRun core c none c.next 65536 with
          | (i, x, s) =>
            let s := s.onCopy core id fun c => { c with next := i }
            match x with
            | .page => if c.geom.count ≤ i then s.later (.copyArrival core id) else s.later (.copyPageTranslate core id)
            | .failed f va pa => s.stopCopy core c f va pa
            | .wait => again s)

/-- Whether every write of a copy has reached the level of its scope (R161, R168). -/
def Copy.reached (c : Copy) : Bool :=
  match c.level with
  | .near => true
  | .device => c.dev == 0
  | .host => c.dev == 0 && c.hst == 0

/-- Whether a copy into a ring has an earlier one into it ahead (R365). -/
def Core.ringAhead (k : Core) (c : Copy) : Bool :=
  match c.kind with
  | .cpyr r => (k.copies.takeWhile fun p => p.id != c.id).any fun p => p.kind == .cpyr r
  | _ => false

/-- The written counter of a copy's ring advances by its bytes (R365); a remote write that finds too little room sets OVR. -/
def State.ringWritten (s : State) (core : CoreId) (c : Copy) : State :=
  match c.kind with
  | .cpyr r =>
    match s.targetRing core r with
    | none => s
    | some (d, n, g) =>
      let b := c.geom.e * c.geom.count
      let tight := d != core && decide (g.size < g.holds + b)
      (s.setRing d n (some { g with written := g.written + b, reserved := g.reserved - b, ovr := g.ovr || tight })).pokeMatrix d
  | _ => s

/-- Waits for the copies of a thread, and for room in the copy queue. -/
def waitsCopies : Wait → Bool
  | .copies => true
  | _ => false
def waitsCopyq : Wait → Bool
  | .copyFull => true
  | _ => false

/-- The next copy into the same ring may arrive. -/
def State.nextIntoRing (s : State) (core : CoreId) (c : Copy) : State :=
  match c.kind with
  | .cpyr r =>
    match (s.getCore core).copies.find? fun p => p.kind == .cpyr r with
    | some p => if p.geom.count ≤ p.next then s.later (.copyArrival core p.id) else s
    | none => s
  | _ => s

/-- R168, R225, R231: the copy arrives at the barrier object of each receiver; at a wider level than near, once the kills
that its writes sent are acknowledged (R125, R161). -/
def execCopyArrival (core : CoreId) (id : Nat) (s : State) : Host.Outcome State Fault Refusal :=
  .next (match s.copyAt core id with
    | none => s
    | some c =>
      let s := if c.level = .near then s else s.finishKills core (engTid id)
      if c.stopped || decide (c.next < c.geom.count) || !c.reached || (s.getCore core).ringAhead c then s
      else
        let b := c.geom.e * c.geom.count
        let rs := s.receivers core c
        let s := s.ringWritten core c
        let s := rs.foldl (fun s p => s.barUpdate p.1 p.2 c.bo (-(b : Int)) 0) s
        let s := s.onCore core fun k => { k with copies := k.copies.filter fun p => p.id != id }
        let s := s.onTid core c.tid (Thread.retryIf waitsCopies)
        let s := s.onCore core fun k => { k with slots := k.slots.map fun t => t.retryIf waitsCopyq }
        (((s.nextIntoRing core c).retry fun w => w == .saving).requeueHeld))

/-- The oldest copy into a ring that can fire (R365): none into the same ring is unfired before it. -/
def State.firable (s : State) (core : CoreId) : List Copy → List Copy → Option Copy
  | _, [] => none
  | before, c :: r =>
    let ok := match c.kind with
      | .cpyr n =>
        c.fired.isNone && !(before.any fun p => p.kind == c.kind && p.fired.isNone) &&
          (match s.targetRing core n with
           | some (d, _, g) => d != core || decide (g.holds + g.reserved + c.geom.e * c.geom.count ≤ g.size)
           | none => false)
      | _ => false
    if ok then some c else s.firable core (before ++ [c]) r

/-- R365: a copy fires, and its bytes of the ring are reserved. -/
def execCpyrFire (core : CoreId) (s : State) : Host.Outcome State Fault Refusal :=
  .next (match s.firable core [] (s.getCore core).copies with
    | none => s
    | some c =>
      match c.kind with
      | .cpyr r =>
        match s.targetRing core r with
        | none => s
        | some (d, n, g) =>
          let b := c.geom.e * c.geom.count
          let s := s.setRing d n (some { g with reserved := g.reserved + b })
          let s := s.onCopy core c.id fun c => { c with fired := some (g.written + g.reserved) }
          (s.later (.copyPageTranslate core c.id)).later (.cpyrFire core)
      | _ => s)

/-! Issue (R364). -/

/-- The checks of the barrier object's offset (R364, step 2). -/
def guardBo (o : Word) (k : State → State) (s : State) : State := guardPool o.toNat 16 (guardAlign o.toNat 16 k) s

/-- The pool side's range and alignment (R364, step 4): each part as offset and bytes, then each as offset and alignment. -/
def guardParts (parts : List (Nat × Nat)) (aligns : List (Nat × Nat)) (k : State → State) (s : State) : State :=
  match parts.find? fun p => decide (s.spBytes < p.1 + p.2) with
  | some p => s.trap 0x04 (w64 (max p.1 s.spBytes))
  | none =>
    match aligns.find? fun p => p.1 % p.2 != 0 with
    | some p => s.trap 0x05 (w64 p.1)
    | none => k s

/-- The copy enters the queue and the thread goes on (R143, R168, R204); `before` is done with it, at issue. -/
def issueCopy (kind : CopyKind) (g : CopyGeom) (bo : Nat) (sc : ScopeIx) (before : State → State) (s : State) : State :=
  if Config.copyMax (isCmd s.loc) ≤ s.core.copies.length then s.park .copyFull
  else
    let s := (before s).seal.closeMsg s.loc s.th.order
    let c : Copy :=
      { id := s.core.nextId, tid := s.th.order, team := s.th.team, ctx := s.th.ctx, mode := s.th.mode, pc := s.th.pc,
        kind := kind, geom := g, bo := bo, level := (s.levelOf sc).getD .near, next := 0, fired := none,
        stopped := false, dev := 0, hst := 0 }
    let s := s.onHere fun k => { k with copies := k.copies ++ [c], nextId := k.nextId + 1 }
    let s := s.adv
    match kind with
    | .cpyr _ => s.later (.cpyrFire s.loc)
    | _ => s.later (.copyPageTranslate s.loc c.id)

/-- Step 5 of R364 for a box, then the issue. -/
def issueBox (kind : CopyKind) (list : Option (List Int)) (g : CopyGeom) (bo : Nat) (sc : ScopeIx) (s : State) : State :=
  match g.badCorner list with
  | some a => s.parkFault 0x09 a g.dir 0 0
  | none => issueCopy kind g bo sc id s

/-- LOGE 5 to 7 traps (R355). -/
def guardLoge (k : CopyGeom → State → State) (s : State) : State :=
  if logeOk s.th.eng then k (geomOf s.th.eng) s else s.trap 0x06 s.th.eng[1]

/-- CPY (R363, R364). -/
def runCpy (a : Reg) (sc : ScopeIx) (s : State) : State :=
  let bo := s.x a
  consumeX [a] (guardBo bo (guardLoge fun g =>
    guardParts [(g.pool, g.e * g.count)] [(g.pool, g.e)] (issueBox .cpy none g bo.toNat sc))) s

/-- R363. -/
def execCpy (a : Reg) (sc : ScopeIx) (s : State) : Host.Outcome State Fault Refusal := .next (runCpy a sc s)

/-- CPYT (R363, R364): an address that translates to no declared tile's PBASE faults with cause 0x0C. -/
def runCpyt (a b : Reg) (sc : ScopeIx) (s : State) : State :=
  let bo := s.x a
  let va := s.x b
  consumeX [a, b] (guardBo bo fun s =>
    match s.xlate s.asid va 1 .load with
    | (.error f, s) => s.failX va false f
    | (.ok p, s) =>
      match mapGet s.tiles p.pa with
      | none => s.parkFault 0x0C va false p.pa 0
      | some t =>
        let g := tileGeom s.th.eng va t
        guardParts [(g.pool, g.e * g.count)] [(g.pool, g.e)] (issueBox .cpy none g bo.toNat sc) s) s

/-- R363. -/
def execCpyt (a b : Reg) (sc : ScopeIx) (s : State) : Host.Outcome State Fault Refusal := .next (runCpyt a b sc s)

/-- CPYM (R231, R364). -/
def runCpym (a b : Reg) (sc : ScopeIx) (s : State) : State :=
  let bo := s.x a
  let mask := (s.x b).toNat
  consumeX [a, b] (guardBo bo (guardLoge fun g s =>
    if g.dir then s.trap 0x06 s.th.eng[1]
    else if mask = 0 ∨ 2 ^ (min s.th.gangw 4) ≤ mask then s.trap 0x06 (w64 mask)
    else guardParts [(g.pool, g.e * g.count)] [(g.pool, g.e)] (issueBox (.cpym mask) none g bo.toNat sc) s)) s

/-- R231. -/
def execCpym (a b : Reg) (sc : ScopeIx) (s : State) : Host.Outcome State Fault Refusal := .next (runCpym a b sc s)

/-- CPYR (R364, R365). -/
def runCpyr (a b : Reg) (sc : ScopeIx) (s : State) : State :=
  let bo := s.x a
  let r := (s.x b).toNat
  consumeX [a, b] (guardBo bo (guardLoge fun g s =>
    let bytes := g.e * g.count
    if g.dir then s.trap 0x06 s.th.eng[1]
    else if 8 ≤ r then s.trap 0x06 (w64 r)
    else
      match s.core.rings[Fin.ofNat 8 r] with
      | none => s.trap 0x04 (w64 r)
      | some q =>
        if isCmd s.loc || q.team != s.th.team then s.trap 0x04 (w64 r)
        else if bytes % 256 ≠ 0 ∨ q.size < bytes then s.trap 0x06 (w64 bytes)
        else issueBox (.cpyr r) none g bo.toNat sc s)) s

/-- R365. -/
def execCpyr (a b : Reg) (sc : ScopeIx) (s : State) : Host.Outcome State Fault Refusal := .next (runCpyr a b sc s)

/-- CPYG (R363, R364): the list is read at issue. -/
def runCpyg (a b : Reg) (sc : ScopeIx) (s : State) : State :=
  let bo := s.x a
  let lo := (s.x b).toNat
  consumeX [a, b] (guardBo bo (guardLoge fun g s =>
    if g.n[2] ≠ 1 ∨ g.n[3] ≠ 1 then s.trap 0x06 s.th.eng[3]
    else
      guardParts [(g.pool, g.e * g.count), (lo, 4 * g.n[1])] [(g.pool, g.e), (lo, 4)] (fun s =>
        let l := (List.range g.n[1]).map fun i => sint (s.poolRead (lo + 4 * i) 4) 32
        issueBox (.cpyg l) (some l) g bo.toNat sc s) s)) s

/-- R363. -/
def execCpyg (a b : Reg) (sc : ScopeIx) (s : State) : Host.Outcome State Fault Refusal := .next (runCpyg a b sc s)

/-- The destination of each row, and the cursors as they advance (R366), `row` bytes a row. -/
def cursorRun (row : Nat) : List (Option Nat) → (Nat → Word) → List (Option Word) × (Nat → Word)
  | [], cur => ([], cur)
  | none :: r, cur => let x := cursorRun row r cur; (none :: x.1, x.2)
  | some p :: r, cur =>
    let a := cur p
    let x := cursorRun row r fun q => if q = p then a + w64 row else cur q
    (some a :: x.1, x.2)

/-- Pool bytes that hold the old or the new value (R366): a free value says which (log 18). -/
def State.openBytes (old : State) (qs : List Nat) (s : State) : State :=
  qs.foldl (fun s q =>
    match s.freeBit with
    | (true, s) => s
    | (false, s) => s.poolWrite q 1 (old.poolRead q 1)) s

/-- CPYP (R364, R366): the cursors are written once every row has passed. -/
def runCpyp (a b : Reg) (sc : ScopeIx) (s : State) : State :=
  let bo := s.x a
  let lo := (s.x b).toNat
  consumeX [a, b] (guardBo bo (guardLoge fun g s =>
    let pcnt := bits s.th.eng[1] 31 16
    let aux := bits s.th.eng[14] 21 0
    if !g.dir then s.trap 0x06 s.th.eng[1]
    else if g.n[2] ≠ 1 ∨ g.n[3] ≠ 1 then s.trap 0x06 s.th.eng[3]
    else
      guardParts [(g.pool, g.e * g.count), (aux, 8 * (pcnt + 1)), (lo, 4 * g.n[1])]
        [(g.pool, g.e), (aux, g.e), (lo, 4)] (fun s =>
          let ps := (List.range g.n[1]).map fun i =>
            let p := s.poolRead (lo + 4 * i) 4
            if p ≤ pcnt then some p else none
          let x := cursorRun (g.e * g.n[0]) ps fun p => w64 (s.poolRead (aux + 8 * p) 8)
          let bad := x.1.findSome? fun d => match d with
            | some v =>
              let last : Int := sint v.toNat 64 + (g.e * (g.n[0] - 1) : Nat)
              if canonical v && decide (last < 2 ^ 53) then none else some v
            | none => none
          match bad with
          | some v => s.parkFault 0x09 v true 0 0
          | none =>
            let used := (ps.filterMap id).eraseDups
            let within := fun (q : Nat) => decide (g.pool ≤ q ∧ q < g.pool + g.e * g.count) ||
              decide (lo ≤ q ∧ q < lo + 4 * g.n[1]) || decide (bo.toNat ≤ q ∧ q < bo.toNat + 16)
            let shared := (used.flatMap fun p => (List.range 8).map fun k => aux + 8 * p + k).filter within
            issueCopy (.cpyp x.1) g bo.toNat sc
              (fun old => old.openBytes shared (used.foldl (fun s p => s.poolWrite (aux + 8 * p) 8 (x.2 p).toNat) old)) s) s)) s

/-- R366. -/
def execCpyp (a b : Reg) (sc : ScopeIx) (s : State) : Host.Outcome State Fault Refusal := .next (runCpyp a b sc s)

/-- R367. -/
def execCpyq (d : Reg) (s : State) : Host.Outcome State Fault Refusal :=
  .next (
    let mine := s.core.copies.filter fun c => c.tid == s.th.order
    (s.setX d (w64 (mine.length % 1024 + 65536 * (mine.any (·.stopped)).toNat))).adv)

/-! The range fence, which orders copies too (R160). -/

/-- FENCERG (R160): a length of 0 orders nothing; any other range orders as a release at the scope does (log 22), after the
thread's copies inside the range. -/
def runFencerg (a b : Reg) (sc : ScopeIx) (s : State) : State :=
  consumeX [a, b] (guardLatent fun s =>
    if s.x b = 0 then s.adv
    else if s.copiesIn (s.x a).toNat (s.x b).toNat then s.park .copies
    else releaseAt sc State.adv s) s

/-- R160. -/
def execFencerg (a b : Reg) (sc : ScopeIx) (s : State) : Host.Outcome State Fault Refusal := .next (runFencerg a b sc s)

end Sys2Proof.Machine
end

