-- ==== Sys2Proof/Machine/Coll.lean ====
section
/-! DEFINITION. The collective engine (R368 to R376): descriptors, trees, chunks, recomputing and status, the forms of
COLL, and the events of the engine. -/

namespace Sys2Proof.Machine

/-! Descriptors (R368). -/

/-- A bit field of a descriptor's 1,024 bits. -/
def fieldAt (v lo n : Nat) : Nat := v / 2 ^ lo % 2 ^ n

/-- The operation that a descriptor describes, queued (R369). -/
def State.colOf (s : State) (desc : Word) (v : Nat) : ColOp where
  id := s.core.nextId
  desc := desc
  ctx := s.th.ctx
  mode := s.th.mode
  pc := s.th.pc
  sup := s.supOf
  kind := fieldAt v 0 4
  rop := fieldAt v 4 4
  fmt := fieldAt v 8 8
  ntree := fieldAt v 16 4
  pub := fieldAt v 20 1 == 1
  tag := BitVec.ofNat 32 (fieldAt v 32 32)
  count := fieldAt v 64 40
  src := w64 (fieldAt v 128 64)
  dst := w64 (fieldAt v 192 64)
  chunk := fieldAt v 256 32
  root := fieldAt v 288 8
  prog := w64 (fieldAt v 320 64)
  pkgs := BitVec.ofNat 256 (fieldAt v 384 256)
  state := 1
  detail := 0
  nt := 0
  gen := 0
  recomp := 0
  planes := []
  marks := []
  dev := 0
  hst := 0
  stat := true

/-- Element width (R368). -/
def ColOp.w (o : ColOp) : Nat := if o.fmt = 4 then 8 else if o.fmt = 6 then 2 else 4

/-- Bytes of the source. -/
def ColOp.total (o : ColOp) : Nat := o.count * o.w

/-- The number of chunks. -/
def ColOp.chunks (o : ColOp) : Nat := if o.chunk = 0 then 0 else (o.total + o.chunk - 1) / o.chunk

/-- The members in ascending package number (R370). -/
def ColOp.members (o : ColOp) : List Nat := (List.range 256).filter fun n => o.pkgs.getLsbD n

/-- Whether a descriptor is invalid (R368), its reserved fields included; bits [63:40] of the COUNT doubleword, which the table
does not list, count as reserved (log 90). -/
def State.colInvalid (s : State) (o : ColOp) (v : Nat) : Bool :=
  let reserved := fieldAt v 21 11 != 0 || fieldAt v 104 24 != 0 || fieldAt v 296 24 != 0 || fieldAt v 704 320 != 0
  let values := decide (o.kind ≤ 1) && (o.kind == 1 || decide (o.rop ≤ 2)) &&
    [3, 4, 6, 7].contains o.fmt && decide (1 ≤ o.ntree ∧ o.ntree ≤ 8) && decide (1 ≤ o.count) &&
    decide (o.src.toNat % o.w = 0 ∧ o.dst.toNat % o.w = 0) &&
    decide (o.chunk % 16 = 0 ∧ o.chunk % o.w = 0 ∧ 16 ≤ o.chunk ∧ o.chunk ≤ 0x100000) &&
    decide (o.prog.toNat % 8 = 0)
  let overlap := decide (o.src.toNat < o.dst.toNat + o.total ∧ o.dst.toNat < o.src.toNat + o.total)
  reserved || !values || decide (2 ^ 20 < o.chunks) || overlap || !o.pkgs.getLsbD s.pkgid.toNat ||
    (o.kind == 1 && !o.pkgs.getLsbD o.root)

/-- The fields that every participant must supply alike (R368). -/
def ColOp.shared (o : ColOp) : List Nat :=
  [o.kind, o.rop, o.fmt, o.ntree, o.pub.toNat, o.tag.toNat, o.count, o.chunk, o.root, o.pkgs.toNat]

/-- Those fields of a descriptor's bits. -/
def sharedFields (v : Nat) : List Nat :=
  [fieldAt v 0 4, fieldAt v 4 4, fieldAt v 8 8, fieldAt v 16 4, fieldAt v 20 1, fieldAt v 32 32, fieldAt v 64 40,
    fieldAt v 256 32, fieldAt v 288 8, fieldAt v 384 256]

/-- STATUS (R376). -/
def ColOp.status (o : ColOp) : Nat :=
  o.state + 8 * o.detail + 256 * o.nt + 4096 * o.gen.toNat + 2 ^ 44 * o.recomp

/-! Trees (R370). -/

/-- Whether an edge is live (R42). -/
def State.edgeLive (s : State) (a b p : Nat) : Bool :=
  let ea := (s.linkTable[a]?).getD 0
  let eb := (s.linkTable[b]?).getD 0
  ea.getLsbD 36 && eb.getLsbD 36 && ea.getLsbD p && eb.getLsbD p && a != b

/-- The usable planes of a set of members, ascending. -/
def State.usablePlanes (s : State) (ms : List Nat) : List Nat :=
  (List.range 36).filter fun p => ms.all fun a => ms.all fun b => a == b || s.edgeLive a b p

/-- The planes of the trees: NT of them. -/
def State.treePlanes (s : State) (o : ColOp) : List Nat := (s.usablePlanes o.members).take o.ntree

/-- The position of a package among the members. -/
def ColOp.position (o : ColOp) (pkg : Nat) : Nat := (o.members.idxOf? pkg).getD 0

/-- The position of the root of tree `t`. -/
def ColOp.rootAt (o : ColOp) (t : Nat) : Nat := if o.kind = 1 then o.position o.root else t % o.members.length

/-- The relative rank of a package in tree `t`. -/
def ColOp.rank (o : ColOp) (t pkg : Nat) : Nat :=
  let m := o.members.length
  (o.position pkg + m - o.rootAt t) % m

/-- The package of a relative rank in tree `t`, if it exists. -/
def ColOp.atRank (o : ColOp) (t r : Nat) : Option Nat :=
  let m := o.members.length
  if r < m then o.members[(r + o.rootAt t) % m]? else none

/-- The children of a rank. -/
def ColOp.children (o : ColOp) (t r : Nat) : List Nat := [2 * r + 1, 2 * r + 2].filterMap fun c => o.atRank t c

/-- Whether every edge of every current tree is live. -/
def State.treesLive (s : State) (o : ColOp) : Bool :=
  (List.range o.planes.length).all fun t =>
    (List.range o.members.length).all fun r =>
      (o.children t r).all fun c => s.edgeLive ((o.atRank t r).getD 0) c ((o.planes[t]?).getD 0)

/-- The tree of a chunk (R371). -/
def ColOp.treeOf (o : ColOp) (c : Nat) : Nat := if o.nt = 0 then 0 else c % o.nt

/-- First byte and bytes of a chunk. -/
def ColOp.chunkAt (o : ColOp) (c : Nat) : Nat × Nat := (c * o.chunk, min o.chunk (o.total - c * o.chunk))

/-! Reduction (R371). -/

/-- a ⊕ b on one element. -/
def reduceElem (rop fmt a b : Nat) : Nat :=
  if fmt = 3 ∨ fmt = 4 then
    let n := if fmt = 3 then 32 else 64
    let lt := decide (sint a n < sint b n)
    if rop = 0 then (a + b) % 2 ^ n else if rop = 1 then (if lt then b else a) else if lt then a else b
  else
    let f := if fmt = 6 then bf16 else fp32
    let x := f.decode a
    let y := f.decode b
    f.rne (if rop = 0 then x.add y else if rop = 1 then x.max y else x.min y)

/-- Elements of `w` bytes in a list, `n` of them. -/
def elemsOf (w : Nat) (bs : List Byte) : Nat → List Nat
  | 0 => []
  | n + 1 => ofBytes (bs.take w) :: elemsOf w (bs.drop w) n

/-- a ⊕ b on a chunk; an empty list is a missing child. -/
def ColOp.reduce (o : ColOp) (a b : List Byte) : List Byte :=
  if b.isEmpty then a
  else
    let n := a.length / o.w
    ((elemsOf o.w a n).zipWith (reduceElem o.rop o.fmt) (elemsOf o.w b n)).flatMap (toBytes o.w)

/-! The engine's accesses (R369). -/

/-- On whose behalf the engine translates. -/
def ColOp.asid (core : CoreId) (o : ColOp) : Asid := ⟨core, 0, o.ctx, o.mode, false⟩

/-- `n` elements read from an address. -/
def State.colRead (s : State) (core : CoreId) (o : ColOp) (va : Word) : Nat → Loaded (List Byte) × State
  | 0 => (.value [], s)
  | n + 1 =>
    match s.engLoad (o.asid core) o.id va o.w with
    | (.value v, s) =>
      match s.colRead core o (va + w64 o.w) n with
      | (.value r, s) => (.value (toBytes o.w v ++ r), s)
      | x => x
    | (.fail f va pa, s) => (.fail f va pa, s)
    | (.wait w, s) => (.wait w, s)

/-- Elements written from an address. -/
def State.colWrite (s : State) (core : CoreId) (o : ColOp) (va : Word) : List Nat → Loaded Unit × State
  | [] => (.value (), s)
  | v :: r =>
    match s.engStore (o.asid core) o.id 0 o.pc va o.w v with
    | (.value _, s) => s.colWrite core o (va + w64 o.w) r
    | x => x

/-- The chunk's own source elements. -/
def State.colOwn (s : State) (core : CoreId) (o : ColOp) (c : Nat) : Loaded (List Byte) × State :=
  s.colRead core o (o.src + w64 (o.chunkAt c).1) ((o.chunkAt c).2 / o.w)

/-- Final values written into DST. -/
def State.colFinal (s : State) (core : CoreId) (o : ColOp) (c : Nat) (bs : List Byte) : Loaded Unit × State :=
  s.colWrite core o (o.dst + w64 (o.chunkAt c).1) (elemsOf o.w bs ((o.chunkAt c).2 / o.w))

/-- An operation of a core. -/
def State.colAt (s : State) (core : CoreId) (id : Nat) : Option ColOp := (s.getCore core).colq.find? fun o => o.id == id

/-- An operation changed. -/
def State.onCol (s : State) (core : CoreId) (id : Nat) (f : ColOp → ColOp) : State :=
  s.onCore core fun k => { k with colq := k.colq.map fun o => if o.id = id then f o else o }

/-- A new state of an operation, whose STATUS is then to be written (R376). -/
def State.colState (s : State) (core : CoreId) (id state detail : Nat) : State :=
  s.onCol core id fun o => { o with state := state, detail := detail, stat := true }

/-- The word of a progress mark (R372). -/
def markWord (state tree : Nat) (gen : BitVec 32) : Nat := state + 256 * tree + 65536 * gen.toNat

/-- A mark written to PROG, and then kept by the engine. -/
def State.colMark (s : State) (core : CoreId) (o : ColOp) (c state : Nat) : Loaded Unit × State :=
  let v := if state = 0 then 0 else markWord state (o.treeOf c) o.gen
  match s.engStore (o.asid core) o.id 0 o.pc (o.prog + w64 (8 * c)) 8 v with
  | (.value _, s) =>
    (.value (), s.onCol core o.id fun o => { o with
      marks := if state = 0 then mapErase o.marks c else mapSet o.marks c (state, o.treeOf c, o.gen) })
  | x => x

/-- The state of a chunk's mark: pending when none is kept. -/
def ColOp.markOf (o : ColOp) (c : Nat) : Nat := ((mapGet o.marks c).map (·.1)).getD 0

/-- Whether every chunk is done. -/
def ColOp.allDone (o : ColOp) : Bool := (List.range o.chunks).all fun c => o.markOf c == 2

/-- Whether the engine writes an address: it only reads SRC (R369). -/
def ColOp.writesAt (o : ColOp) (va : Word) : Bool := !decide ((va - o.src).toNat < o.total)

/-- A memory failure suspends the operation with detail 5 and a notice, whose WRITE bit tells a failed write (R134, R369). -/
def State.colFault (s : State) (core : CoreId) (o : ColOp) (f : XFault) (va : Word) (pa : Nat) : State :=
  let e := { noticeEntry s (sockOf core) f.cause o.ctx va o.pc pa o.sup with
    core := BitVec.ofNat 6 (siteOf core), detail := f.detail, write := o.writesAt va }
  (s.notice (sockOf core) e).colState core o.id 4 5

/-- The port of a tree's plane (R370). -/
def ColOp.portOf (o : ColOp) (t : Nat) : Fin 36 := Fin.ofNat 36 ((o.planes[t]?).getD 0)

/-- Whether `n` transfers of a chunk can leave: the core has response slots for them, and the port of the chunk's tree can send
bulk data (R35, R41). -/
def State.colRoom (s : State) (core : CoreId) (o : ColOp) (c n : Nat) : Bool :=
  decide ((s.outstanding.filter fun x => x.core == core).length + n ≤ Config.respCore) &&
    (n == 0 || s.fports[o.portOf (o.treeOf c)].ready 3 n)

/-- A chunk's values leave for a peer on the tree's plane, as bulk data of network 3 (R33, R370). The rules give a chunk's
message no form: one flit with its header stands for it, and its response ends the transfer (R31, R35, R49; log 80). -/
def State.colSendTo (s : State) (core : CoreId) (o : ColOp) (c pkg : Nat) : State :=
  let p := o.portOf (o.treeOf c)
  let tag := s.freeTag core
  let x : Outstanding :=
    { core := core, tag := tag, tid := 0, pa := 0, n := 0, pkg := pkg, plane := o.planes[o.treeOf c]?,
      write := none, fill := false, engine := some o.id, nearDone := true, devDone := true
      msgs := [[(s.reqHead core tag 3 pkg .chunk 0 (o.tag.toNat + 2 ^ 32 * c)).slot]] }
  let s := x.msgs.foldl (fun s m => s.upSend p 0 false (upPayload pkg s.pkgid.toNat 3 m)) s
  { s with outstanding := s.outstanding ++ [{ x with flit := some s.fports[p].txSeq }] }

/-- A chunk's values leave upward or downward. -/
def State.colSend (s : State) (core : CoreId) (o : ColOp) (c : Nat) (up : Bool) (bs : List Byte) (dests : List Nat) : State :=
  if dests.isEmpty then s
  else (dests.foldl (fun s d => s.colSendTo core o c d) s).out (.collective o.tag c up bs)

/-! Chunks. -/

/-- A final value at this member: DST, the mark, and the way down (R371, R372). -/
def State.colDeliver (s : State) (core : CoreId) (o : ColOp) (c : Nat) (bs : List Byte) : Loaded Unit × State :=
  let t := o.treeOf c
  let kids := o.children t (o.rank t s.pkgid.toNat)
  if !s.colRoom core o c kids.length then (.wait (.response 0), s)
  else
    match s.colFinal core o c bs with
    | (.value _, s) =>
      match s.colMark core o c 2 with
      | (.value _, s) => (.value (), s.colSend core o c false bs kids)
      | x => x
    | x => x

/-- A member's reduced value of a chunk from its own and its children's: the root delivers it, any other sends it up. -/
def State.colReduce (s : State) (core : CoreId) (o : ColOp) (c : Nat) (left right : List Byte) : Loaded Unit × State :=
  let t := o.treeOf c
  let r := o.rank t s.pkgid.toNat
  if !s.colRoom core o c (if r = 0 then 0 else 1) then (.wait (.response 0), s)
  else
    match s.colOwn core o c with
    | (.value own, s) =>
      let v := o.reduce (o.reduce own left) right
      if r = 0 then s.colDeliver core o c v
      else
        match s.colMark core o c 1 with
        | (.value _, s) => (.value (), s.colSend core o c true v (o.atRank t ((r - 1) / 2)).toList)
        | x => x
    | (.fail f va pa, s) => (.fail f va pa, s)
    | (.wait w, s) => (.wait w, s)

/-- What the engine does of itself with a pending chunk: a lone member copies it, a leaf contributes it, the root of a
broadcast sends it. -/
def State.colChunk (s : State) (core : CoreId) (o : ColOp) (c : Nat) : Loaded Unit × State :=
  let t := o.treeOf c
  let r := o.rank t s.pkgid.toNat
  if o.markOf c ≠ 0 then (.value (), s)
  else if o.members.length = 1 ∨ (o.kind = 1 ∧ r = 0) then
    match s.colOwn core o c with
    | (.value own, s) => s.colDeliver core o c own
    | (.fail f va pa, s) => (.fail f va pa, s)
    | (.wait w, s) => (.wait w, s)
  else if o.kind = 0 ∧ (o.children t r).isEmpty then s.colReduce core o c [] []
  else (.value (), s)

/-- Every pending chunk in turn, up to one that fails or waits. -/
def State.colChunks (s : State) (core : CoreId) (id : Nat) : List Nat → Loaded Unit × State
  | [] => (.value (), s)
  | c :: r =>
    match s.colAt core id with
    | none => (.value (), s)
    | some o =>
      match s.colChunk core o c with
      | (.value _, s) => s.colChunks core id r
      | x => x

/-- Marks that a recompute set to 0 and that PROG still shows (R373). -/
def State.colClear (s : State) (core : CoreId) (id : Nat) : List Nat → Loaded Unit × State
  | [] => (.value (), s)
  | c :: r =>
    match s.colAt core id with
    | none => (.value (), s)
    | some o =>
      match s.colMark core o c 0 with
      | (.value _, s) => s.colClear core id r
      | x => x

/-- The chunks whose kept mark is 0. -/
def ColOp.cleared (o : ColOp) : List Nat := (o.marks.filter fun p => p.2.1 == 0).map (·.1)

/-! Running. -/

/-- The end of an operation whose chunks are all done (R374): its writes are performed with their kills, PUB with the
acknowledgements of its halo pushes (R104), then state 5. -/
def State.colFinish (s : State) (core : CoreId) (o : ColOp) : Loaded Unit × State :=
  let s := s.finishKills core (engTid o.id)
  let pushed := fun (s : State) (pb : Nat) =>
    if s.haloOut pb then (.wait (.tile pb), s) else (.value (), s.colState core o.id 5 0)
  if 0 < o.hst then (.wait (.counters .host), s)
  else if !o.pub then (.value (), s.colState core o.id 5 0)
  else
    match s.xlate (o.asid core) o.dst 1 .load with
    | (.error f, s) => (engFault f o.dst, s)
    | (.ok p, s) =>
      match mapGet s.tiles p.pa with
      | some t =>
        if o.pubd then pushed s p.pa
        else if !t.shad || t.tstate == .lost || t.ctx != o.ctx then (.value (), s.colState core o.id 7 5)
        else if s.heldBySplit p.pa then (.wait .split, s)
        else if t.tstate = .inForward then (.wait (.tile p.pa), s)
        else pushed ((if t.tstate = .shadowed then s.publish p.pa t else s).onCol core o.id fun o => { o with pubd := true }) p.pa
      | none => if o.pubd then (.value (), s.colState core o.id 5 0) else (.value (), s.colState core o.id 7 5)

/-- An operation starts (R369, R370): its engine sends its descriptor along tree 0 (R376). -/
def State.colBegin (s : State) (core : CoreId) (o : ColOp) : Loaded Unit × State :=
  if o.members.length = 1 then (.value (), s.colState core o.id 2 0)
  else if s.ltStale then (.wait (.response 0), s)
  else
    let ps := s.treePlanes o
    if ps.isEmpty then (.value (), s.colState core o.id 4 4)
    else
      (.value (), (s.onCol core o.id fun o => { o with
        state := 2, detail := 0, stat := true, planes := ps, nt := ps.length, gen := s.ltGen }).out (.descriptor o.tag o.shared))

/-- One operation carried as far as it goes without its peers. -/
def State.colRun (s : State) (core : CoreId) (id : Nat) : Loaded Unit × State :=
  match s.colAt core id with
  | none => (.value (), s)
  | some o =>
    let x : Loaded Unit × State := if o.state = 1 then s.colBegin core o else (.value (), s)
    match x with
    | (.value _, s) =>
      match s.colAt core id with
      | none => (.value (), s)
      | some o =>
        match s.colClear core id o.cleared with
        | (.value _, s) =>
          if o.state ≠ 2 then (.value (), s)
          else
            match s.colChunks core id (List.range o.chunks) with
            | (.value _, s) =>
              match s.colAt core id with
              | none => (.value (), s)
              | some o => if o.allDone then s.colFinish core o else (.value (), s)
            | x => x
        | x => x
    | x => x

/-- A write of STATUS fails (R369): the operation that has completed is suspended, with every chunk done. While chunks are
undone the write is tried again with the next event, and an operation that has ended otherwise stays as it is. -/
def State.statusFails (s : State) (core : CoreId) (o : ColOp) (f : XFault) (va : Word) (pa : Nat) : State :=
  if o.state < 4 then s
  else
    let s := s.colFault core o f va pa
    s.onCol core o.id fun x => { x with
      state := if 6 ≤ o.state then o.state else 4, detail := if 6 ≤ o.state then o.detail else 5, stat := false }

/-- The STATUS words that are still to be written (R376). -/
def State.colStatus (s : State) (core : CoreId) : List Nat → Loaded Unit × State
  | [] => (.value (), s)
  | id :: r =>
    match s.colAt core id with
    | none => s.colStatus core r
    | some o =>
      if !o.stat then s.colStatus core r
      else
        match s.engStore (o.asid core) o.id 0 o.pc (o.desc + 0x50) 8 o.status with
        | (.value _, s) => (s.onCol core id fun o => { o with stat := false }).colStatus core r
        | (.wait w, s) => (.wait w, s)
        | (.fail f va pa, s) => (s.statusFails core o f va pa).colStatus core r

/-- Whether an operation has ended. -/
def ColOp.ended (o : ColOp) : Bool := decide (5 ≤ o.state)

/-- The operation that the engine works on: the oldest that has not ended (R369; log 30). -/
def Core.colCurrent (k : Core) : Option ColOp := k.colq.find? fun o => !o.ended

/-- Waits for room in the collective queue. -/
def waitsColq : Wait → Bool
  | .colqFull => true
  | _ => false

/-- What the engine has is settled: a failure suspends, a wait runs the event again with the responses that have arrived
kept, and STATUS is written. -/
def State.colSettle (old : State) (core : CoreId) (id : Nat) (again : Instr) (x : Loaded Unit × State) : State :=
  let s := match x with
    | (.value _, s) => s
    | (.fail f va pa, s) =>
      match s.colAt core id with
      | some o => s.colFault core o f va pa
      | none => s
    | (.wait _, s) =>
      let got := (old.getCore core).got
      { (s.onCore core fun k => { k with got := got }) with hostHeld := s.hostHeld ++ [again] }
  match s.colStatus core ((s.getCore core).colq.map (·.id)) with
  | (.wait _, s) => { s with hostHeld := s.hostHeld ++ [.collectiveStart core] }
  | (_, s) =>
    if (s.getCore core).colq.any fun o => o.ended && !o.stat then
      s.onCore core fun k => { k with slots := k.slots.map (Thread.retryIf waitsColq) }
    else s

/-- After an event of the engine: an operation that has ended lets the next one start. -/
def State.colNext (s : State) (core : CoreId) (id : Nat) : State :=
  match s.colAt core id with
  | some o =>
    if o.ended && (s.getCore core).colq.any (fun p => p.state == 1) then s.later (.collectiveStart core) else s
  | none => s

/-- R369, R370, R374: the engine starts its next operation, and carries it as far as it goes without its peers. An engine on a
fenced die stops (R375). -/
def execCollectiveStart (core : CoreId) (s : State) : Host.Outcome State Fault Refusal :=
  .next (if s.fenced.getLsbD (sockOf core) then s else match (s.getCore core).colCurrent with
    | none => s.colSettle core 0 (.collectiveStart core) (.value (), s)
    | some o =>
      (s.colSettle core o.id (.collectiveStart core) (s.colRun core o.id)).colNext core o.id)

/-- A chunk that arrives, at the operation that is running. -/
def State.colArrive (s : State) (core : CoreId) (o : ColOp) (c : Nat) (left right : List Byte) (down : Option (List Byte)) :
    Loaded Unit × State :=
  let t := o.treeOf c
  let r := o.rank t s.pkgid.toNat
  let bytes := (o.chunkAt c).2
  let came := ([left, right].filter fun b => b.length == bytes).length == (o.children t r).length
  let up : Loaded Unit × State :=
    if o.kind = 0 ∧ o.markOf c = 0 ∧ came ∧ !(o.children t r).isEmpty then s.colReduce core o c left right else (.value (), s)
  match up with
  | (.value _, s) =>
    match s.colAt core o.id, down with
    | some o, some bs =>
      if r ≠ 0 ∧ bs.length = bytes ∧ o.markOf c = (if o.kind = 0 then 1 else 0) then s.colDeliver core o c bs
      else (.value (), s)
    | _, _ => (.value (), s)
  | x => x

/-- R371, R372, R376: values of a chunk arrive on its tree. With the first the engines exchange their descriptors: one that
differs fails the operation. -/
def execCollectiveChunkReceive (core : CoreId) (peer : BitVec 1024) (chunk : Nat) (left right : List Byte)
    (down : Option (List Byte)) (s : State) : Host.Outcome State Fault Refusal :=
  .next (if s.fenced.getLsbD (sockOf core) then s else match (s.getCore core).colCurrent with
    | none => s
    | some o =>
      let again : Instr := .collectiveChunkReceive core peer chunk left right down
      if o.state ≠ 2 ∨ o.chunks ≤ chunk then s
      else if !o.met && o.shared != sharedFields peer.toNat then
        let s := s.colState core o.id 7 2
        (s.colSettle core o.id again (.value (), s)).colNext core o.id
      else
        let s := s.onCol core o.id fun o => { o with met := true }
        let x := s.colArrive core { o with met := true } chunk left right down
        let x := match x with
          | (.value _, s) =>
            match s.colAt core o.id with
            | some o => if o.allDone then (.value (), s.later (.collectiveStart core)) else (.value (), s)
            | none => (.value (), s)
          | x => x
        (s.colSettle core o.id again x).colNext core o.id)

/-! Recomputing (R373). -/

/-- The marks with every chunk that is not kept set to 0 (R373). -/
def ColOp.keepMarks (o : ColOp) (kept : Nat → Bool) : Map (Nat × Nat × BitVec 32) :=
  (List.range o.chunks).map fun c =>
    match mapGet o.marks c with
    | some m => if m.1 = 2 ∧ kept c then (c, m) else (c, 0, m.2)
    | none => (c, 0, 0, 0)

/-- The engine enters recomputing: undone chunks are abandoned with their marks set to 0, and the generation is announced. -/
def State.colRecompute (s : State) (core : CoreId) (o : ColOp) : State :=
  let s := s.onCol core o.id fun o => { o with
    state := 3, detail := 0, stat := true
    marks := o.keepMarks fun _ => true }
  (s.out (.announce o.tag s.ltGen)).later (.collectiveStart core)

/-- Every running operation with a dead edge in a current tree recomputes (R373). -/
def State.colEdges (s : State) : State :=
  s.coreList.foldl (fun s c =>
    match (s.getCore c).colCurrent with
    | some o => if o.state = 2 ∧ 1 < o.members.length ∧ !s.treesLive o then s.colRecompute c o else s
    | none => s) s

/-- R373: the participants have announced their generations; this engine's done set goes up tree 0, and `done` is the
intersection that comes down it. -/
def execCollectiveAnnounce (core : CoreId) (gen : BitVec 32) (done : List Nat) (s : State) : Host.Outcome State Fault Refusal :=
  .next (if s.fenced.getLsbD (sockOf core) then s else match (s.getCore core).colCurrent with
    | none => s
    | some o =>
      let again : Instr := .collectiveAnnounce core gen done
      if o.state ≠ 3 then s
      else if s.ltStale ∨ s.ltGen < gen then { s with hostHeld := s.hostHeld ++ [again] }
      else if gen < s.ltGen then s.out (.announce o.tag s.ltGen)
      else
        let ps := s.treePlanes o
        let present := o.members.all fun m => ((s.linkTable[m]?).getD 0).getLsbD 36
        let s :=
          if ps.isEmpty || !present then s.colState core o.id 4 4
          else
            (s.onCol core o.id fun o => { o with
              state := 2, detail := 0, stat := true, planes := ps, nt := ps.length, gen := s.ltGen
              recomp := min (o.recomp + 1) 65535
              marks := o.marks.map fun p => if p.2.1 = 2 ∧ done.contains p.1 then p else (p.1, (0, p.2.2)) }).out
                (.doneSet o.tag s.ltGen ((o.marks.filter fun p => p.2.1 == 2).map (·.1)))
        s.colSettle core o.id again (.value (), s.later (.collectiveStart core)))

/-- R375: a peer's abort. -/
def execCollectivePeerAbort (core : CoreId) (tag : BitVec 32) (s : State) : Host.Outcome State Fault Refusal :=
  .next (if s.fenced.getLsbD (sockOf core) then s else match (s.getCore core).colq.find? fun o => o.tag == tag && !o.ended with
    | none => s
    | some o =>
      let s := s.colState core o.id 6 6
      (s.colSettle core o.id (.collectiveStart core) (.value (), s)).colNext core o.id)

/-! The forms (R369, R375). -/

/-- A TAG that runs or is queued in this package (R369). -/
def State.tagInUse (s : State) (tag : BitVec 32) : Bool :=
  s.coreList.any fun c => (s.getCore c).colq.any fun o => !o.ended && o.tag == tag

/-- Entry into the collective queue: operations that have finished leave it. -/
def colEnter (desc : Word) (v : Nat) (s : State) : State :=
  let s := s.onHere fun k => { k with colq := k.colq.filter fun o => !o.ended || o.stat }
  if Config.colqMax ≤ s.core.colq.length then s.park .colqFull
  else
    let o := s.colOf desc v
    let o :=
      if s.colInvalid o v then { o with state := 7, detail := 1 }
      else if s.tagInUse o.tag then { o with state := 7, detail := 3 }
      else o
    ((s.onHere fun k => { k with colq := k.colq ++ [o], nextId := k.nextId + 1 }).adv).later (.collectiveStart s.loc)

/-- COLRUN (R369). -/
def runColrun (a : Reg) (s : State) : State :=
  let va := s.x a
  consumeX [a] (guardLatent (guardAlign va.toNat 64
    (withRelease (some .device) (loadThen va 128 fun v s => colEnter va v s)))) s

/-- R369. -/
def execColrun (a : Reg) (s : State) : Host.Outcome State Fault Refusal :=
  .next (guardCmd (fmtC 47 0 a.val 0 0 0) (runColrun a) s)

/-- The operation of the core's queue that a descriptor address names: the latest. -/
def Core.colNamed (k : Core) (desc : Word) : Option ColOp := (k.colq.filter fun o => o.desc == desc).getLast?

/-- R375: state 5 makes it an acquire. -/
def execColstat (d a : Reg) (s : State) : Host.Outcome State Fault Refusal :=
  .next (guardCmd (fmtC 47 d.val a.val 0 1 0) (consumeX [a] fun s =>
    match s.core.colNamed (s.x a) with
    | none => (s.setX d 0).adv
    | some o =>
      let go : State → State := fun s => (s.setX d (w64 o.status)).adv
      if o.state = 5 then guardLoads (fun _ => false) go s else go s) s)

/-- R375: a suspended operation recomputes. -/
def execColresume (a : Reg) (s : State) : Host.Outcome State Fault Refusal :=
  .next (guardCmd (fmtC 47 0 a.val 0 2 0) (consumeX [a] fun s =>
    match s.core.colNamed (s.x a) with
    | some o =>
      if o.state = 4 then
        (if o.members.length = 1 then (s.colState s.loc o.id 2 0).later (.collectiveStart s.loc)
         else s.colRecompute s.loc o).adv
      else s.adv
    | none => s.adv) s)

/-- R375: the operation ends here, and every reachable participant is told. -/
def execColabort (a : Reg) (s : State) : Host.Outcome State Fault Refusal :=
  .next (guardCmd (fmtC 47 0 a.val 0 3 0) (consumeX [a] fun s =>
    match s.core.colNamed (s.x a) with
    | some o =>
      if o.ended then s.adv
      else (((s.colState s.loc o.id 6 0).out (.abort o.tag)).later (.collectiveStart s.loc)).adv
    | none => s.adv) s)

end Sys2Proof.Machine
end

