-- ==== Sys2Proof/Machine/System.lean ====
section
/-! DEFINITION. The SYS forms (R377 to R397): traps and returns, system registers, HALT, IFENCE, SEAL, ALERT, LAUNCH and
FAULTACK, and the events of a fetch that fails or a word that is illegal (R138, R268). -/

namespace Sys2Proof.Machine

/-! Traps (R383, R384). -/

/-- R383. -/
def execTrap (c : BitVec 10) (s : State) : Host.Outcome State Fault Refusal := .next (s.trap 0x08 (c.setWidth 64))

/-- R384: privileged. -/
def execEret (s : State) : Host.Outcome State Fault Refusal := .next (guardPriv (fmtQ 49 0 0 0 1) State.trapReturn s)

/-- R268: a word that is no instruction. -/
def execIllegalInstruction (w : IWord) (s : State) : Host.Outcome State Fault Refusal := .next (s.trap 0x01 (w.setWidth 64))

/-- The line of the instruction at pc leaves the instruction cache: it is fetched again when it is needed (R138). -/
def State.dropFetched (s : State) : State :=
  match s.xlate s.asid s.th.pc 4 .fetch with
  | (.ok p, _) => s.onHere fun k => { k with icache := mapErase k.icache (lineOf p.pa) }
  | (.error _, _) => s

/-- R138: a failed fetch is a parking fault of the instruction that would issue; its FVA is the pc. -/
def execFetchFault (cause : Byte) (detail : Word) (s : State) : Host.Outcome State Fault Refusal :=
  .next ((if cause = 0x17 then s.dropFetched else s).parkFault cause s.th.pc false 0 detail)

/-! System registers (R259, R260, R386). -/

/-- What a system register reads as; POOLPART of a command core, which has no team, reads as 0 (log 87). -/
def State.readSys (s : State) (n : SysReg) : Word :=
  match n with
  | .slotid => w64 s.slot.val
  | .coreid => w64 (s.logicalNo s.loc)
  | .pcoreid => w64 (siteOf s.loc)
  | .socket => w64 (sockOf s.loc)
  | .pkgid => s.pkgid.setWidth 64
  | .ctxid => s.th.ctx.setWidth 64
  | .poolpart => (s.team.map (·.poolpart)).getD 0
  | .faultq => s.faultqOf s.th.ctx
  | .xpc => s.th.xpc
  | .xcause => s.th.xcause
  | .xval => s.th.xval
  | .xvec => s.th.xvec
  | .fmta => s.th.regs.fmta
  | .fmtb => s.th.regs.fmtb
  | .fmtc => s.th.regs.fmtc
  | .scalea => s.th.regs.scalea
  | .scaleb => s.th.regs.scaleb
  | .harvest d => s.harvest[d]

/-- A system register written, reserved bits discarded (R5); a register that is read only keeps its value. -/
def State.writeSys (s : State) (n : SysReg) (v : Word) : State :=
  match n with
  | .xpc => s.onTh fun t => { t with xpc := v }
  | .xcause => s.onTh fun t => { t with xcause := v &&& 0x3FF }
  | .xval => s.onTh fun t => { t with xval := v }
  | .xvec => s.onTh fun t => { t with xvec := v &&& ~~~3#64 }
  | .fmta => s.onRegs fun r => { r with fmta := v &&& 0x3FFF }
  | .fmtb => s.onRegs fun r => { r with fmtb := v &&& 0x3FFF }
  | .fmtc => s.onRegs fun r => { r with fmtc := v &&& 0x3FFF }
  | .scalea => s.onRegs fun r => { r with scalea := v &&& 7 }
  | .scaleb => s.onRegs fun r => { r with scaleb := v &&& 7 }
  | .slotid | .coreid | .pcoreid | .socket | .pkgid | .ctxid | .poolpart | .faultq | .harvest _ => s

/-- The registers that only supervisor mode reaches (R259). -/
def sysSupervisor : SysReg → Bool
  | .xpc | .xcause | .xval | .xvec => true
  | _ => false

/-- The registers that some mode writes (R259). -/
def sysWritable : SysReg → Bool
  | .xpc | .xcause | .xval | .xvec | .fmta | .fmtb | .fmtc | .scalea | .scaleb => true
  | _ => false

/-- A register that user mode does not reach at all is privileged there (R260). -/
def guardSys (n : SysReg) (w : IWord) (k : State → State) (s : State) : State :=
  if sysSupervisor n then guardPriv w k s else k s

/-- A write to a register that the mode may only read is illegal (R260). -/
def guardSysWrite (n : SysReg) (w : IWord) (k : State → State) (s : State) : State :=
  if sysWritable n then guardSys n w k s else s.trap 0x01 (w.setWidth 64)

/-- An instruction that reads a context's table entry waits for what holds the read up (R62, R90, R117). -/
def withCtx (ctx : BitVec 16) (k : State → State) (s : State) : State :=
  match s.ctxReady ctx with
  | (some w, s) => s.park w
  | (none, s) => k s

/-- R386; FAULTQ reads the thread's context entry (R117). -/
def execSysr (d : Reg) (n : SysReg) (s : State) : Host.Outcome State Fault Refusal :=
  let go : State → State := fun s => (s.setX d (s.readSys n)).adv
  .next (guardSys n (fmtQ 49 d.val 0 (n.code / 32) (n.code % 32 * 64 + 2))
    (if n = .faultq then (fun s => withCtx s.th.ctx go s) else go) s)

/-- A write form: the new value from the old one and x[ra]. -/
def runSysw (a : Reg) (n : SysReg) (f : Word → Word → Word) (s : State) : State :=
  consumeX [a] (fun s => (s.writeSys n (f (s.readSys n) (s.x a))).adv) s

/-- R386. -/
def execSysw (a : Reg) (n : SysReg) (s : State) : Host.Outcome State Fault Refusal :=
  .next (guardSysWrite n (fmtQ 49 0 a.val (n.code / 32) (n.code % 32 * 64 + 3)) (runSysw a n fun _ v => v) s)

/-- R386: privileged. -/
def execSysset (a : Reg) (n : SysReg) (s : State) : Host.Outcome State Fault Refusal :=
  let w := fmtQ 49 0 a.val (n.code / 32) (n.code % 32 * 64 + 4)
  .next (guardSysWrite n w (guardPriv w (runSysw a n fun r v => r ||| v)) s)

/-- R386: privileged. -/
def execSysclr (a : Reg) (n : SysReg) (s : State) : Host.Outcome State Fault Refusal :=
  let w := fmtQ 49 0 a.val (n.code / 32) (n.code % 32 * 64 + 5)
  .next (guardSysWrite n w (guardPriv w (runSysw a n fun r v => r &&& ~~~v)) s)

/-! HALT, IFENCE, SEAL and ALERT. -/

/-- HALT (R387): steps 1 to 3 of STOP, then the slot halts or its launch is aborted. -/
def runHalt (s : State) : State :=
  guardPending (fun s =>
    if s.copiesOut then s.park .copies
    else withRelease (some .host) State.endThread s) s

/-- R387: privileged. -/
def execHalt (s : State) : Host.Outcome State Fault Refusal := .next (guardPriv (fmtQ 49 0 0 0 6) runHalt s)

/-- IFENCE (R388): no release; the near and device counters are waited for, and the instruction cache is emptied. -/
def runIfence (s : State) : State :=
  guardLatent (fun s =>
    match s.drain (some .device) with
    | (.wait w, s) => s.park w
    | (_, s) => (s.onHere fun k => { k with icache := [] }).adv) s

/-- R388. -/
def execIfence (s : State) : Host.Outcome State Fault Refusal := .next (runIfence s)

/-- R389. -/
def execSeal (s : State) : Host.Outcome State Fault Refusal := .next s.seal.adv

/-- R394: the four registers from ra, modulo 32. -/
def execAlert (a : Reg) (s : State) : Host.Outcome State Fault Refusal :=
  let rs : List Reg := [a, a + 1, a + 2, a + 3]
  .next (consumeX rs (fun s => (s.alert 0x09 (sockOf s.loc) s.th.ctx (rs.map s.x)).adv) s)

/-! LAUNCH (R77, R78, R392). -/

/-- Whether a pool partition word is valid (R213). -/
def poolpartOk (w : Word) : Bool :=
  decide (rfbOf w % 8 = 0 ∧ acbOf w % 8 = 0 ∧ spbOf w % 8 = 0 ∧ rfbOf w ≤ 32 ∧ acbOf w ≤ 64 ∧
    rfbOf w + acbOf w + spbOf w ≤ 384) && bits w 63 27 == 0

/-- Word `i` of a launch record. -/
def recWord (v i : Nat) : Word := w64 (fieldAt v (64 * i) 64)

/-- The status of a launch record (R392): the first failing field in the order of R77. -/
def State.launchStatus (s : State) (v : Nat) : Nat :=
  let c := recWord v 1
  let ctl := fun (hi lo : Nat) => bits c (hi + 32) (lo + 32)
  if (recWord v 0).toNat % 4 ≠ 0 ∨ !canonical (recWord v 0) then 0x01
  else if ctl 2 0 = 0 ∨ 4 < ctl 2 0 then 0x02
  else if ctl 6 3 = 0 ∨ 8 < ctl 6 3 then 0x03
  else if ctl 7 7 ≠ 0 then 0x04
  else if ctl 11 10 = 3 then 0x05
  else if 576 < ctl 25 16 ∨ 576 < ctl 25 16 * ctl 2 0 then 0x06
  else if ctl 31 26 ≠ 0 then 0x07
  else if !poolpartOk (recWord v 2) then 0x08
  else if (recWord v 3).toNat % 64 ≠ 0 ∨ !canonical (recWord v 3) then 0x09
  else if (recWord v 4).toNat % 64 ≠ 0 ∨ !canonical (recWord v 4) then 0x0A
  else if !canonical (recWord v 5) then 0x0B
  else if (recWord v 6).toNat % 16 ≠ 0 ∨ !canonical (recWord v 6) then 0x0C
  else if (s.ctxEntry (BitVec.ofNat 16 (bits (recWord v 7) 15 0))).isNone then 0x0D
  else if fieldAt v (64 * 7 + 16) (1024 - 64 * 7 - 16) ≠ 0 then 0x0E
  else 0

/-- The launch of an accepted record. -/
def launchOf (v sup : Nat) : Launch where
  ntask := bits (recWord v 1) 31 0
  gangw := bits (recWord v 1) 34 32
  team := bits (recWord v 1) 38 35
  prio := bits (recWord v 1) 41 40
  fpol := bits (recWord v 1) 43 42
  partn := bits (recWord v 1) 47 44
  bandg := bits (recWord v 1) 57 48
  poolpart := recWord v 2
  fmtctx := recWord v 3
  scopet := recWord v 4
  args := recWord v 5
  done := recWord v 6
  ctx := BitVec.ofNat 16 (bits (recWord v 7) 15 0)
  entry := recWord v 0
  sup := sup
  next := 0
  live := 0
  status := 0
  aborted := false
  told := 0

/-- The lowest free handle of a command core's host die (R186). -/
def State.freeHandle (s : State) (sup : Nat) : Option Nat :=
  let base := 2048 * (sup / 4)
  ((List.range Config.launchMax).find? fun i => (s.launchAt (base + i)).isNone).map fun i => base + i

/-- Entry into the launch table (R186, R392): dealing follows; a launch without tasks completes at once (R78). -/
def enterLaunch (d : Reg) (v sup : Nat) (s : State) : State :=
  match s.launchStatus v with
  | 0 =>
    match s.freeHandle sup with
    | none => s.park .launchFull
    | some h =>
      let l := launchOf v sup
      let s := { s with launches := mapSet s.launches h l }
      let s := (s.setX d (w64 (256 * h))).adv
      if l.ntask = 0 then s.later (.launchComplete h)
      else if l.bandg = 0 then s.later (.dealTask h)
      else s.later (.bandAdmit h)
  | e => (s.setX d (w64 e)).adv

/-- LAUNCH (R392). -/
def runLaunch (d a : Reg) (n : Fin 8) (s : State) : State :=
  let sup := if isCmd s.loc then cmdNo s.loc else n.val
  let va := s.x a
  consumeX [a] (guardLatent (guardAlign va.toNat 128
    (withRelease (some .host) (loadThen va 128 fun v =>
      withCtx (BitVec.ofNat 16 (bits (recWord v 7) 15 0)) (enterLaunch d v sup))))) s

/-- R392: privileged; a command core that names another command core is illegal there. -/
def execLaunch (d a : Reg) (n : Fin 8) (s : State) : Host.Outcome State Fault Refusal :=
  let w := fmtQ 49 d.val a.val 0 (n.val * 64 + 12)
  .next (if isCmd s.loc ∧ n ≠ 0 then s.trap 0x01 (w.setWidth 64) else guardPriv w (runLaunch d a n) s)

/-! FAULTACK (R136, R393). -/

/-- A held entry that is named is acknowledged. -/
def Thread.ackEntry (ctx : BitVec 16) (ix : Word) (t : Thread) : Thread :=
  { t with held := t.held.map fun h => if h.ctx == ctx && h.index == ix then { h with acked := true } else h }

/-- Whether a thread holds the named entry, raised. -/
def Thread.holdsEntry (ctx : BitVec 16) (ix : Word) (t : Thread) : Bool :=
  t.status != .empty && t.held.any fun h => h.ctx == ctx && h.index == ix && h.raised

/-- Whether every entry raised for a thread has been acknowledged. -/
def Thread.allAcked (t : Thread) : Bool := t.held.all fun h => !h.raised || h.acked

/-- The cores with a slot whose thread holds the entry. -/
def State.entryHolders (s : State) (ctx : BitVec 16) (ix : Word) : List (CoreId × Fin 8) :=
  s.coreList.flatMap fun c => ((List.finRange 8).filter fun sl => (s.getThread c sl).holdsEntry ctx ix).map fun sl => (c, sl)

/-- Every thread of a core, in a slot or in a save area (R205). -/
def Core.allThreads (k : Core) : List Thread := k.slots.toList ++ k.saves.map (·.thread)

/-- The threads that hold the entry and stand in no slot: in save areas, in context areas, or swapped out with their
partition (R148). -/
def State.entrySaves (s : State) (ctx : BitVec 16) (ix : Word) : List Thread :=
  ((s.coreList.flatMap fun c => (s.getCore c).saves.map (·.thread)) ++ (s.areas.flatMap fun a => a.2.allThreads) ++
    (s.parts.toList.flatMap fun p => p.saved.flatMap fun q => q.2.allThreads)).filter (Thread.holdsEntry ctx ix)

/-- Every thread of a core changed, in its slot or save area. -/
def Core.onThreads (f : Thread → Thread) (k : Core) : Core :=
  { k with
    slots := k.slots.map f
    saves := k.saves.map fun v => { v with thread := f v.thread } }

/-- Every thread changed, those that are out with a saved context included (R148). -/
def State.onThreads (s : State) (f : Thread → Thread) : State :=
  let s := s.mapCores fun _ k => k.onThreads f
  { s with
    areas := s.areas.map fun (a : Nat × Core) => (a.1, a.2.onThreads f)
    parts := s.parts.map fun (p : Part) => { p with saved := p.saved.map fun (q : CoreId × Core) => (q.1, q.2.onThreads f) } }

/-- The threads of a core whose raised entries are all acknowledged go on: their faulted loads and logs are replayed
(R136). -/
def State.replayDue (s : State) (c : CoreId) : State :=
  (List.finRange 8).foldl (fun s sl =>
    let t := s.getThread c sl
    if t.status == .parked .fault && t.held.any (·.raised) && t.allAcked then s.later (.taskReplay c sl) else s) s

/-- The abandoned thread's launch ends with status 2; a strand's slot halts (R136). -/
def State.abandonThread (s : State) (c : CoreId) (sl : Fin 8) : State :=
  let t := s.getThread c sl
  if t.kind = .strand then s.asThread c sl State.haltSlot
  else s.abortLaunch t.lh 2

/-- The disposition of an acknowledgement (R136). -/
def State.dispose (s : State) (ctx : BitVec 16) (ix : Word) (abandon : Bool) : State :=
  if abandon then
    let s := (s.entryHolders ctx ix).foldl (fun s p => s.abandonThread p.1 p.2) s
    (s.entrySaves ctx ix).foldl (fun s t => s.abortLaunch t.lh 2) s
  else
    let hs := s.entryHolders ctx ix
    let s := s.onThreads (Thread.ackEntry ctx ix)
    hs.foldl (fun s p =>
      if (s.getThread p.1 p.2).allAcked then s.later (.taskReplay p.1 p.2) else s) s

/-- The entry's acknowledgement at its serialisation point (R393). -/
def ackEntry (abandon : Bool) (d : Reg) (ctx : BitVec 16) (ix : Word) (c : CtxEntry) (s : State) : State :=
  let a := c.fqbase + 64 * (ix.toNat % c.n)
  match s.blocked (s.loc, s.th.order) a 64 false with
  | (some w, s) => s.park w
  | (none, s) =>
    let b := s.physRead (a + 1) 1
    if b % 4 ≠ 1 then (s.setX d 1).adv
    else
      let s := (s.statTry { ctx := ctx, index := ix, stat := 3, rpc := none, sup := none }).2
      let s := (s.setX d 0).adv
      if b / 16 % 2 = 1 then s else s.dispose ctx ix abandon

/-- FAULTACK (R393). -/
def runFaultack (abandon : Bool) (d a b : Reg) (s : State) : State :=
  let ctx : BitVec 16 := (s.x a).setWidth 16
  let ix := s.x b
  consumeX [a, b] (withRelease (some .host) (withCtx ctx fun s =>
    match s.ctxEntry ctx with
    | none => (s.setX d 2).adv
    | some c =>
      let head := w64 (s.physRead (c.addr + 0x18) 8)
      let tail := w64 (s.physRead (c.addr + 0x10) 8)
      if (tail - head).toNat ≤ (ix - head).toNat then (s.setX d 3).adv
      else ackEntry abandon d ctx ix c s)) s

/-- R393: privileged. -/
def execFaultackResume (d a b : Reg) (s : State) : Host.Outcome State Fault Refusal :=
  .next (guardPriv (fmtQ 49 d.val a.val b.val 13) (runFaultack false d a b) s)

/-- R393: privileged. -/
def execFaultackAbandon (d a b : Reg) (s : State) : Host.Outcome State Fault Refusal :=
  .next (guardPriv (fmtQ 49 d.val a.val b.val 77) (runFaultack true d a b) s)

end Sys2Proof.Machine
end

