-- ==== Sys2Proof/Machine/Courier.lean ====
section
/-! DEFINITION. Courier messages (R147, R233, R395 to R397): CSEND, the message engine, and remote stores at their
destination and back at their origin (R140). -/

namespace Sys2Proof.Machine

/-! Delivery. -/

/-- The core whose message engine serves an address (R147): the enabled one with the lowest number on its home die. -/
def State.engineFor (s : State) (pa : Nat) : CoreId :=
  let die := homeOf pa
  coreOf die (((List.range 36).find? fun k => s.siteOn die k).getD 0)

/-- Whether a full context save of a core waits until its queue is empty (R233). -/
def State.saveWaits (s : State) (c : CoreId) : Bool :=
  (s.getCore c).saving &&
    ((s.coreList.any fun d => (s.getCore d).slots.toList.any fun t => t.status == .parked .saving) ||
      s.parts.toList.any fun x => x.busy && x.req == 2)

/-- The messages that have not ended. -/
def State.messages (s : State) : List MsgEntry := s.coreList.flatMap fun c => (s.getCore c).msgq ++ (s.getCore c).msgHeld

/-- A message reaches the message engine of its home die; while the queue is full, or a context save waits for it to become
empty, it waits in a holding entry (R36, R233). -/
def State.courierArrive (s : State) (msg : Courier) (tag tid : Nat) (away : Option (Nat × BitVec 128)) : State :=
  let c := s.engineFor msg.page
  let e : MsgEntry :=
    { msg := msg, tag := tag, pos := 0, m := #v[0, w64 msg.page, 0, 0, msg.m4, msg.m5, msg.m6, msg.m7], away := away, tid := tid,
      place := (s.messages.map (·.place)).foldl max 0 + 1 }
  let k := s.getCore c
  if s.saveWaits c || !k.msgHeld.isEmpty || decide (Config.msgqMax ≤ k.msgq.length) then
    s.onCore c fun k => { k with msgHeld := k.msgHeld ++ [e] }
  else (s.onCore c fun k => { k with msgq := k.msgq ++ [e] }).later (.messageEngineExecute c)

/-- Messages that wait in holding entries enter the queue as far as it has room, and the engine goes on (R36, R233). -/
def State.enterQueue (s : State) (c : CoreId) : State :=
  let k := s.getCore c
  let home := sockOf c
  let s :=
    if k.msgHeld.isEmpty || s.saveWaits c then s
    else
      let n := Config.msgqMax - k.msgq.length
      let s := s.onCore c fun k => { k with msgq := k.msgq ++ k.msgHeld.take n, msgHeld := k.msgHeld.drop n }
      if s.homeFull home then s else s.drainSkid (Fin.ofNat 24 home)
  if (s.getCore c).msgq.isEmpty then s else s.later (.messageEngineExecute c)

/-- A message leaves its origin: to this package's engine, or through the gateway on network 0. -/
def State.courierSend (s : State) (o : Outstanding) (msg : Courier) : State :=
  if s.isLocal msg.page then ({ s with outstanding := s.outstanding ++ [o] }).courierArrive msg o.tag o.tid none
  else
    let head := s.reqHead o.core o.tag 0 (pkgOf msg.page) .courier 64 msg.page
    (s.out (.courier (pkgOf msg.page) 0 msg)).enterGateway { o with msgs := [head.slot :: courierSlots msg] }

/-! CSEND (R397). -/

/-- The message of an image, its header filled. -/
def State.courierOf (s : State) (v page : Nat) : Courier where
  spkg := s.pkgid
  ssock := BitVec.ofNat 5 (sockOf s.loc)
  score := BitVec.ofNat 6 (siteOf s.loc)
  slot := BitVec.ofNat 3 s.slot.val
  ctx := s.th.ctx
  ni := BitVec.ofNat 2 (fieldAt v 64 2)
  ret := fieldAt v 66 1 == 1
  rsel := BitVec.ofNat 3 (fieldAt v 67 3)
  auto := false
  page := page
  words := BitVec.ofNat 128 (fieldAt v 128 128)
  m4 := w64 (fieldAt v 256 64)
  m5 := w64 (fieldAt v 320 64)
  m6 := w64 (fieldAt v 384 64)
  m7 := w64 (fieldAt v 448 64)

/-- A message that returns nothing, as its origin keeps it for a record (R140). -/
def State.courierWrite (s : State) (base : Word) (p : Phys) (msg : Courier) : WriteMsg where
  va := base
  pa := p.pa
  n := 8
  data := 0
  leaf := p.leaf
  amo := none
  pc := s.th.pc
  ctx := s.th.ctx
  courier := some msg

/-- The request of a message of the current thread. -/
def State.courierOut (s : State) (p : Phys) (w : Option WriteMsg) : Outstanding where
  core := s.loc
  tag := s.freeTag s.loc
  tid := s.th.order
  pa := p.pa
  n := 8
  pkg := pkgOf p.pa
  plane := none
  write := w
  fill := false
  engine := none
  nearDone := w.isNone
  devDone := w.isNone

/-- The message of a good image, at a translated base: it follows the thread's earlier messages to that package, and waits for
a response slot (R35, R41). -/
def sendMessage (base : Word) (v : Nat) (p : Phys) (s : State) : State :=
  let msg := s.courierOf v (p.pa / 65536 * 65536)
  let s := s.seal
  if s.mustQueue s.loc (s.courierWrite base p msg) then s.park .slot
  else if msg.ret then
    let o := s.courierOut p none
    ((s.courierSend o msg).onTh fun t => { t with sent := some (base, p.pa) }).park (.response o.tag)
  else
    let w := { s.courierWrite base p msg with seq := s.issued }
    (s.countWrite.courierSend (s.courierOut p (some w)) msg).adv

/-- The message of the image at an offset of the scratchpad. -/
def sendImage (o : Nat) (s : State) : State :=
  guardPool o 64 (guardAlign o 16 fun s =>
    let v := s.poolRead o 64
    let base := w64 (fieldAt v 0 64)
    if fieldAt v 70 58 ≠ 0 ∨ (fieldAt v 66 1 = 1 ∧ fieldAt v 67 3 = 0) then s.trap 0x06 (w64 (fieldAt v 64 64))
    else
      match s.xlate s.asid base 1 .atomic with
      | (.error f, s) => s.failX base true f
      | (.ok p, s) => sendMessage base v p s) s

/-- CSEND (R397): a message that has been sent is not sent again; its value, or its failure at the translated base, ends the
wait for it (R141). -/
def runCsend (d a : Reg) (s : State) : State :=
  consumeX [a] (fun s =>
    match s.th.sent with
    | none => sendImage (s.x a).toNat s
    | some (base, pa) =>
      let ended := fun (s : State) => (s.useUp).onTh fun t => { t with sent := none }
      match s.gotFor pa 8, s.outstanding.find? fun o => o.core == s.loc && o.tid == s.th.order && o.pa == pa && o.write.isNone with
      | some g, _ =>
        match g.fail with
        | some c => (ended s).parkFault c base true pa 0
        | none => ((ended s).setX d (g.data.setWidth 64)).adv
      | none, some o => s.park (.response o.tag)
      | none, none => sendImage (s.x a).toNat (ended s)) s

/-- R397. -/
def execCsend (d a : Reg) (s : State) : Host.Outcome State Fault Refusal := .next (runCsend d a s)

/-! The message engine (R233, R396). -/

/-- How an instruction of a message ended. -/
inductive MsgStep where
  | done (m : Vector Word 8)
  | wait
  | fail (cause : Byte)
  deriving DecidableEq, Repr

/-- A message register; m0 reads 0. -/
def msgReg (m : Vector Word 8) (i : Nat) : Word := if i = 0 then 0 else (m[i]?).getD 0

/-- A message register written; m0 discards. -/
def msgSet (m : Vector Word 8) (i : Nat) (v : Word) : Vector Word 8 := if i = 0 then m else m.setIfInBounds i v

/-- The ALU operations of the restricted set by fn. -/
def msgAlu (fn : Nat) : Option AluFn :=
  match fn with
  | 0 => some .add
  | 1 => some .sub
  | 2 => some .and
  | 3 => some .or
  | 4 => some .xor
  | 5 => some .andn
  | 6 => some .orn
  | 15 => some .min
  | 16 => some .max
  | 17 => some .minn
  | 18 => some .maxn
  | _ => none

/-- The immediate operations of the restricted set by major. -/
def msgImm (major : Nat) : Option ImmFn :=
  match major with
  | 2 => some .addi
  | 3 => some .andi
  | 4 => some .ori
  | 5 => some .xori
  | 8 => some .lih
  | _ => none

/-- Whether `n` bytes at an address lie in the message's page. -/
def inPage (page a n : Nat) : Bool := decide (page ≤ a ∧ a + n ≤ page + 65536)

/-- What an access of the engine found. -/
def msgServed {α : Type} (x : Served α × State) (k : α → Vector Word 8) : MsgStep × State :=
  match x with
  | (.done v, s) => (.done (k v), s)
  | (.wait _, s) => (.wait, s)
  | (.fail c, s) => (.fail c, s)

/-- An access of a message. -/
inductive MsgAccess where
  | load
  | store (v : Nat)
  /-- minor code, operand, expected value -/
  | atomic (op b exp : Nat)
  deriving DecidableEq, Repr

/-- The number by which the requests of a core's message engine are known among an engine's. -/
def msgId : Nat := 2 ^ 64 + 64

/-- A write of a message engine that its message keeps no record of. -/
def MsgAccess.write (ctx : BitVec 16) (pa n data : Nat) (amo : Option (Nat × Word)) : WriteMsg where
  va := 0
  pa := pa
  n := n
  data := BitVec.ofNat 128 data
  leaf := 0
  amo := amo
  pc := 0
  ctx := ctx
  courier := none

/-- An access of a message engine to the host window, which names no page: uncached, as under HC = 0 (R66, R313, log 25). It is over
when its response has arrived. -/
def State.msgHost (s : State) (core : CoreId) (ctx : BitVec 16) (pa n : Nat) (x : MsgAccess) : Served Nat × State :=
  match s.reach pa n, s.engGot core msgId pa n, s.outstanding.find? fun o => o.core == core && o.engine == some msgId with
  | .fail c, _, _ => (.fail c, s)
  | .wait w, _, _ => (.wait w, s)
  | .done _, some g, _ =>
    let s := s.onCore core fun k => { k with got := k.got.erase g }
    (match g.fail with
     | some c => .fail c
     | none => .done (g.data.toNat % 256 ^ n), s)
  | .done _, none, some o => (.wait (.response o.tag), s)
  | .done _, none, none =>
    if !s.canSend core pa then (.wait .slot, s)
    else
      let o : Outstanding :=
        { core := core, tag := s.freeTag core, tid := 0, pa := pa, n := n, pkg := pkgOf pa, plane := none, write := none,
          fill := false, engine := some msgId, nearDone := true, devDone := true }
      (.wait (.response o.tag),
        match x with
        | .load => s.hostRequest o .rdCurr n none
        | .store v => s.hostRequest o .wrCur n (some (BitVec.ofNat 512 v))
        | .atomic op b exp =>
          s.hostRequest { o with amo := some (MsgAccess.write ctx pa n b (some (op, w64 exp))) } .rdOwn 64 none)

/-- An access of a message engine, an ordinary device access of its core (R233). -/
def State.msgAccess (s : State) (core : CoreId) (ctx : BitVec 16) (pa n : Nat) (x : MsgAccess) : Served Nat × State :=
  let src : Source := ⟨core, 0, ctx, true⟩
  match regionOf pa with
  | .unassigned => (.fail 0x13, s)
  | .host => s.msgHost core ctx pa n x
  | .sysreg =>
    match s.reach pa n, mregAt (pa % 0x100000000000) n, x with
    | .wait w, _, _ => (.wait w, s)
    | .done _, some r, .load => (.done (s.readMReg r).toNat, s)
    | .done _, some r, .store v => (.done 0, s.writeMReg false r (w64 v))
    | _, _, _ => (.fail 0x13, s)
  | .lpddr | .near =>
    match x with
    | .load => s.serveRead core pa n true
    | .store v =>
      match s.serialise src pa n v with
      | (.done _, s) => (.done 0, s)
      | (.wait w, s) => (.wait w, s)
      | (.fail c, s) => (.fail c, s)
    | .atomic op b exp => s.atomicDev src pa op b exp

/-- One instruction of the restricted set (R396); anything else fails with cause 0x14. -/
def State.msgInstr (s : State) (core : CoreId) (msg : Courier) (m : Vector Word 8) (w : Nat) : MsgStep × State :=
  let major := w / 2 ^ 26
  let rd := w / 2 ^ 21 % 32
  let ra := w / 2 ^ 16 % 32
  let rb := w / 2 ^ 11 % 32
  let scope := w / 64 % 32
  let imm : BitVec 16 := BitVec.ofNat 16 w
  let ka := (msgReg m ra + immS imm).toNat
  let bad : MsgStep × State := (.fail 0x14, s)
  if 7 < rd ∨ 7 < ra then bad
  else if major = 1 then
    match msgAlu (w % 2048) with
    | some f => if 7 < rb then bad else (.done (msgSet m rd (f.eval (msgReg m ra) (msgReg m rb))), s)
    | none => bad
  else if 0x16 ≤ major ∧ major ≤ 0x1C then
    let n := ([1, 2, 4, 8, 1, 2, 4][major - 0x16]?).getD 1
    if !inPage msg.page ka n then bad
    else msgServed (s.msgAccess core msg.ctx ka n .load) fun v => msgSet m rd (loadValue n (decide (major ≤ 0x19)) v)
  else if 0x1D ≤ major ∧ major ≤ 0x20 then
    let n := 2 ^ (major - 0x1D)
    if !inPage msg.page ka n then bad
    else msgServed (s.msgAccess core msg.ctx ka n (.store ((msgReg m rd).toNat % 256 ^ n))) fun _ => m
  else if major = 0x24 then
    let op := w % 16
    let a := (msgReg m ra).toNat
    let n := amoWidth op
    if 7 < rb ∨ 12 < op ∨ (scope ≠ 4 ∧ scope ≠ 5) ∨ !inPage msg.page a n ∨ a % n ≠ 0 then bad
    else
      msgServed (s.msgAccess core msg.ctx a n (.atomic op (msgReg m rb).toNat (msgReg m rd).toNat)) fun old =>
        msgSet m rd (amoOld op old)
  else if major = 0x25 then
    if rd = 0 ∧ ra = 0 ∧ rb = 0 ∧ w % 64 = 0 ∧ (scope = 4 ∨ scope = 5) then (.done m, s) else bad
  else
    match msgImm major with
    | some f => (.done (msgSet m rd (f.eval (msgReg m ra) imm)), s)
    | none => bad

/-- The rest of a message's instructions, in order: what it ended with, and how far it came. -/
def State.msgRun (s : State) (core : CoreId) (e : MsgEntry) : Nat → Option MsgStep × MsgEntry × State
  | 0 => (none, e, s)
  | fuel + 1 =>
    if e.msg.ni.toNat < e.pos then (none, e, s)
    else
      match s.msgInstr core e.msg e.m (e.msg.words.toNat / 2 ^ (32 * e.pos) % 2 ^ 32) with
      | (.done m, s) => s.msgRun core { e with m := m, pos := e.pos + 1 } fuel
      | (x, s) => (some x, e, s)

/-- The core of this package that sent a message, if one did. -/
def State.originOf (s : State) (msg : Courier) : Option CoreId :=
  if msg.spkg = s.pkgid then some (coreOf msg.ssock.toNat msg.score.toNat) else none

/-- Waits for a full context save or a restore. -/
def waitsSaving : Wait → Bool
  | .saving => true
  | _ => false

/-! Remote stores (R140). -/

/-- The request that a failed or performed remote write belongs to. -/
def State.remoteOut (s : State) (core : CoreId) (w : WriteMsg) : Option Outstanding :=
  s.outstanding.find? fun o => o.core == core && o.write == some w

/-- The destination's entry of a write that fails there, and the record that returns to the origin (R140). -/
def State.remoteFails (s : State) (core : CoreId) (slot : Fin 8) (die : Nat) (cause : Byte) (w : WriteMsg) : State :=
  let tid := ((s.remoteOut core w).map (·.tid)).getD (s.getThread core slot).order
  let t := s.threadOf core tid
  let e := s.remoteEntry core ((s.getCore core).slotOfTid tid) (if t.kind = .strand then 0 else t.task) (s.supFor core t) cause w
  match s.noticeIx die e with
  | (ix, s) => s.later (.remoteFaultRecord core slot
      { cause := cause, write := w, index := ix, onDie := die == sockOf core, tid := some tid })

/-- A message of this package ends in a failure: the record returns to the origin, or the answer of one that waits for a value
is an error (R140, R141). -/
def State.courierFails (s : State) (core origin : CoreId) (tag : BitVec 10) (cause : Byte) : State :=
  match s.requestOf origin tag with
  | none => s
  | some o =>
    match o.write with
    | some w => s.remoteFails origin (Fin.ofNat 8 ((s.getCore origin).slotOfTid o.tid)) (sockOf core) cause w
    | none => s.later (.errorResponseArrival origin tag cause)

/-- A message of another package ends in a failure: the record returns, or an error response does (R140, R141). Its context is
one of the other package, whose fault queue lies there: the origin writes the entry when the record arrives (log 75). -/
def State.awayFails (s : State) (core : CoreId) (msg : Courier) (pkg : Nat) (head : MsgHead) (cause : Byte) : State :=
  s.respondAway core pkg head (if msg.ret then .error else .record) cause.toNat 0 []

/-- How a message that has been performed is answered: with the value of m[RSEL], or an acknowledgement, once the kills that its
writes sent have been acknowledged (R125). -/
def State.courierDone (s : State) (core : CoreId) (e : MsgEntry) : State :=
  let s := s.finishKills core 0
  let v : Word := if e.msg.ret then msgReg e.m e.msg.rsel.toNat else 0
  match e.away with
  | some (pkg, h) =>
    if e.msg.ret then s.respondAway core pkg (headOf h) .data 8 e.msg.page (dataSlots v.toNat 8)
    else s.respondAway core pkg (headOf h) .ack 0 e.msg.page []
  | none =>
    match s.originOf e.msg with
    | some o => s.later (.responseArrival o (BitVec.ofNat 10 e.tag) (v.setWidth 1024))
    | none => s

/-- How a message that failed is answered. -/
def State.courierFailed (s : State) (core : CoreId) (e : MsgEntry) (cause : Byte) : State :=
  match e.away with
  | some (pkg, h) => s.awayFails core e.msg pkg (headOf h) cause
  | none =>
    match s.originOf e.msg with
    | some o => s.courierFails core o (BitVec.ofNat 10 e.tag) cause
    | none => s

/-- The thread that sent a message, as far as its messages keep their order (R147). -/
def MsgEntry.sender (e : MsgEntry) : Option Nat × BitVec 5 × BitVec 6 × Nat :=
  (e.away.map (·.1), e.msg.ssock, e.msg.score, if e.away.isSome then e.msg.slot.toNat else e.tid)

/-- Whether an earlier message of the same thread has not ended: messages of one thread are executed in issue order (R147, R397). -/
def State.outOfTurn (s : State) (e : MsgEntry) : Bool :=
  s.messages.any fun x => x.sender == e.sender && decide (x.place < e.place)

/-- R233: the head message's instructions are performed in order; its origin gets the value, the acknowledgement or the
failure (R140, R141). -/
def execMessageEngineExecute (core : CoreId) (s : State) : Host.Outcome State Fault Refusal :=
  .next (match (s.getCore core).msgq with
    | [] => s
    | e :: _ =>
      let done := fun (s : State) =>
        (((s.onCore core fun k => { k with msgq := k.msgq.drop 1 }).enterQueue core).retry waitsSaving).requeueHeld
      if s.outOfTurn e then s.hold (.messageEngineExecute core)
      else
        match s.msgRun core e 5 with
        | (some .wait, e, s) =>
          (s.onCore core fun k => { k with msgq := e :: k.msgq.drop 1 }).hold (.messageEngineExecute core)
        | (some (.fail c), e, s) => (done s).courierFailed core e c
        | (_, e, s) => (done s).courierDone core e)

/-- R140: a remote store or atomic at its destination die; a fenced die answers nothing (R55). -/
def execRemoteStoreArrival (core : CoreId) (slot : Fin 8) (w : WriteMsg) (permitted : Bool) (s : State) :
    Host.Outcome State Fault Refusal :=
  .next (
    if s.fenced.getLsbD (homeOf w.pa) then s
    else if !permitted then s.remoteFails core slot (homeOf w.pa) 0x14 w
    else
      match s.performMsg core (((s.remoteOut core w).map (·.tid)).getD (s.getThread core slot).order) w with
      | (.done _, s) =>
        match s.remoteOut core w with
        | some o => s.later (.responseArrival core (BitVec.ofNat 10 o.tag) 0)
        | none => s
      | (.wait _, s) => s.hold (.remoteStoreArrival core slot w permitted)
      | (.fail c, s) => s.remoteFails core slot (homeOf w.pa) c w)

/-- R140: the origin keeps a returned record with the store's thread, and the write is no longer counted (R161). -/
def execRemoteFaultRecord (core : CoreId) (slot : Fin 8) (r : FaultRec) (s : State) : Host.Outcome State Fault Refusal :=
  .next (
    let tid := r.tid.getD (s.getThread core slot).order
    let s := match s.remoteOut core r.write with
      | some o =>
        ({ s with outstanding := s.outstanding.erase o }).onTid core o.tid (Thread.endWrite o.nearDone o.devDone false)
      | none => s
    (s.onTid core tid fun t => { t with records := t.records ++ [{ r with tid := some tid }] }).retry fun w => match w with
      | .counters _ | .form _ | .slot => true
      | _ => false)

end Sys2Proof.Machine
end

