-- ==== Sys2Proof/Machine/Context.lean ====
section
/-! DEFINITION. Full context save and restore (R207, R390, R391): SPILL, RESTORE, and the partition events that use them
(R182 to R185). -/

namespace Sys2Proof.Machine

/-! Areas (R391). -/

/-- Bytes of a context area. -/
def areaBytes : Nat := 0x442000

/-- Sectors written to device memory by the device, in order, up to one that waits or fails. -/
def State.areaWrite (s : State) (src : Source) : List (Nat × Nat) → Served Unit × State
  | [] => (.done (), s)
  | (pa, v) :: r =>
    match s.serialise src pa 16 v with
    | (.done _, s) => s.areaWrite src r
    | x => x

/-- The status byte of a slot in the header (R210, R391): its state, and owed re-admission in bit 7. -/
def slotByte (t : Thread) : Nat :=
  (match t.status with
   | .empty => 0
   | .ready => 1
   | .parked .stopped => 3
   | .parked _ => 2) + 128 * t.owed.toNat

/-- The slot mask of a team. -/
def Core.teamMask (k : Core) (id : Nat) : Nat :=
  ((List.range 8).filter fun i => match k.slots[i]? with
    | some t => t.status != .empty && t.team == id
    | none => false).foldl (fun m i => m + 2 ^ i) 0

/-- The banks that the teams of a core reserve, as a map. -/
def Core.bankMap (k : Core) : Nat :=
  k.teams.foldl (fun m t => m ||| ((2 ^ (rfbOf t.poolpart + acbOf t.poolpart + spbOf t.poolpart) - 1) * 2 ^ t.firstBank)) 0

/-- The rank of the core on which a ring lies, in the gang of its team (R220, R360). -/
def Core.ownerRank (k : Core) (r : Ring) : Nat :=
  match k.teams.find? fun t => t.id == r.team, r.remote with
  | some t, some p => t.gang.idxOf p.1
  | some t, none => t.rank
  | none, _ => 0

/-- The doublewords of a core's header (R391). -/
def Core.header (k : Core) (c : CoreId) : List Nat :=
  [Config.contextVer.toNat + 256 * sockOf c + 4096 * siteOf c, k.deque.length] ++
    ((List.range 6).map fun i => k.bankMap / 2 ^ (64 * i)) ++
    ((List.range 8).flatMap fun i => match k.teams[i]? with
      | some t => [t.poolpart.toNat, k.teamMask t.id, t.lh, t.firstBank]
      | none => [0, 0, 0, 0]) ++
    ((List.range 8).flatMap fun i => match (k.rings[i]?).bind id with
      | some r => [r.base + 2 ^ 32 * r.size, r.written, r.taken,
          k.ownerRank r + 2 ^ 32 * ((r.producer.map (·.2.2)).getD 0)]
      | none => [0, 0, 0, 0]) ++
    [(List.range 8).foldl (fun m i => m + 256 ^ i * (((k.slots[i]?).map slotByte).getD 0)) 0]

/-- A mask register as doublewords. -/
def kWords (k : KWord) : List Nat := (List.range 4).map fun i => k.toNat / 2 ^ (64 * i)

/-- The doublewords at the start of a slot record (R391): their order is the model's choice (log 31). -/
def Thread.recordWords (t : Thread) : List Nat :=
  [t.pc.toNat, if t.mode = .supervisor then 1 else 0] ++ (t.regs.x.toList.drop 1).map (·.toNat) ++ t.regs.b.toList.map (·.toNat) ++
    t.regs.k.toList.flatMap kWords ++
    [t.xpc, t.xcause, t.xval, t.xvec, t.regs.fmta, t.regs.fmtb, t.regs.fmtc, t.regs.scalea, t.regs.scaleb].map (·.toNat) ++
    [t.ctx.toNat, t.regs.vl, t.allot] ++ t.eng.toList.map (·.toNat) ++ [t.near, t.dev, t.hst] ++
    (t.watch.toList.map fun e => e.line * 8 + e.armed.toNat + 2 * e.triggered.toNat + 4 * e.polled.toNat) ++
    [t.task.toNat, t.lh, t.joinp.toNat, t.fmtp.toNat, t.scopet.toNat, t.rank, t.member, t.gangw, t.teamw, t.prio, t.team, t.order,
      (match t.kind with
       | .gang => 0
       | .thread => 1
       | .strand => 2) + 4 * ((t.band.map (· + 1)).getD 0)]

/-- A watch entry from its doubleword in a slot record. -/
def watchOf (w : Nat) : WatchEntry where
  line := w / 8
  armed := w % 2 == 1
  triggered := w / 2 % 2 == 1
  polled := w / 4 % 2 == 1
  since := 0

/-- A thread with what its slot record gives (R391): the parts at the record's start, in the order above. -/
def Thread.ofRecord (rd : Nat → Byte) (at' : Nat) (t : Thread) : Thread :=
  let n := fun i => leRead rd (at' + 8 * i) 8
  let w := fun i => w64 (n i)
  { t with
    pc := w 0
    mode := if n 1 = 1 then .supervisor else .user
    regs := { t.regs with
      x := Vector.ofFn fun i => if i.val = 0 then 0 else w (1 + i.val)
      b := Vector.ofFn fun i => w (33 + i.val)
      k := Vector.ofFn fun i => BitVec.ofNat 256 (leRead rd (at' + 8 * (37 + 4 * i.val)) 32)
      vl := n 79
      fmta := w 73
      fmtb := w 74
      fmtc := w 75
      scalea := w 76
      scaleb := w 77 }
    xpc := w 69
    xcause := w 70
    xval := w 71
    xvec := w 72
    ctx := BitVec.ofNat 16 (n 78)
    allot := n 80
    eng := Vector.ofFn fun i => w (81 + i.val)
    near := n 96
    dev := n 97
    hst := n 98
    watch := Vector.ofFn fun i => { watchOf (n (99 + i.val)) with since := t.watch[i].since }
    task := BitVec.ofNat 32 (n 103)
    lh := n 104
    joinp := w 105
    fmtp := w 106
    scopet := w 107
    rank := n 108
    member := n 109
    gangw := n 110
    teamw := n 111
    prio := n 112
    team := n 113
    order := n 114
    kind := if n 115 % 4 = 0 then .gang else if n 115 % 4 = 1 then .thread else .strand
    band := if n 115 / 4 = 0 then none else some (n 115 / 4 - 1) }

/-- The payloads of a thread's poison, by register and lane. -/
def Regs.payloads (r : Regs) : List Nat :=
  let one := fun (i : Nat) (p : Option Payload) => (p.map fun p => 2 ^ 32 * i + p.toNat).toList
  ((List.range 32).flatMap fun i => one i ((r.xp[i]?).getD none)) ++
    ((List.range 8).flatMap fun i => one (64 + i) ((r.kp[i]?).getD none)) ++
    (List.range 32).flatMap fun d => ((r.vp[d]?).getD []).map fun e => 2 ^ 32 * (128 + 256 * d + e.1) + e.2.toNat

/-- The fault state of a slot, and its replay log, in this part's form (R148, R391; log 31): the number of the save, by which the
rest of them is found again, the entries and records that the thread holds, the instructions of its log, and its payloads. -/
def Thread.faultWords (serial : Nat) (t : Thread) : List Nat :=
  [serial, t.held.length, t.records.length, t.log.length] ++ (t.held.map fun h => h.index.toNat) ++
    (t.records.map fun r => r.write.pc.toNat) ++ (t.log.map fun e => e.pc.toNat) ++ t.regs.payloads

/-- The vector registers of a thread, 1 KiB each, from an offset: those below its allotment (R391). -/
def Thread.vectorSectors (t : Thread) (at' : Nat) : List (Nat × Nat) :=
  (List.range t.allot).flatMap fun j =>
    let v := ((t.regs.v[j]?).getD 0).toNat
    (List.range 64).map fun i => (at' + 1024 * j + 16 * i, v / 2 ^ (128 * i) % 2 ^ 128)

/-- A slot record (R391); that of slot 0 always has its fault state, for the number of the save. -/
def Thread.slotRecord (t : Thread) (serial i : Nat) : List (Nat × Nat) :=
  if t.status = .empty then (if i = 0 then [(0x3000, serial % 2 ^ 64)] else [])
  else
    sectorsAt (0x2000 + 0x10000 * i) t.recordWords ++ sectorsAt (0x3000 + 0x10000 * i) ((t.faultWords serial).take 3584) ++
      t.vectorSectors (0x2000 + 0x10000 * i + 0x8000)

/-- A spill save area (R205, R391): the vector registers, and after the 8 KiB of the replay log's sources the rest. -/
def Saved.areaRecord (v : Saved) (i : Nat) : List (Nat × Nat) :=
  v.thread.vectorSectors (0x82000 + 0xC000 * i) ++ sectorsAt (0x82000 + 0xC000 * i + 0xA000) v.thread.recordWords

/-- Where a byte of a team's accumulators or scratchpad lies in the pool image: after its register banks. -/
def Team.imageBase (t : Team) (acc : Bool) : Nat :=
  0x142000 + 8192 * (t.firstBank + rfbOf t.poolpart + (if acc then 0 else acbOf t.poolpart))

/-- The register banks of a team in the pool image: the frames of its threads, one after the other (R216; log 31). -/
def Core.frameImage (k : Core) (t : Team) : List (Nat × Nat) :=
  let fs := (k.slots.toList.filter fun q => q.status != .empty && q.team == t.id).flatMap fun q =>
    (List.range q.allot).map fun j => ((q.regs.v[j]?).getD 0).toNat
  (List.range (512 * rfbOf t.poolpart)).map fun i =>
    (0x142000 + 8192 * t.firstBank + 16 * i, (fs[i / 64]?).getD 0 / 2 ^ (128 * (i % 64)) % 2 ^ 128)

/-- The accumulator and scratchpad banks of a team in the pool image. -/
def Team.image (t : Team) : List (Nat × Nat) :=
  ((List.range (512 * acbOf t.poolpart)).map fun i => (t.imageBase true + 16 * i, memRead t.acc (16 * i) 16)) ++
    (List.range (512 * spbOf t.poolpart)).map fun i => (t.imageBase false + 16 * i, memRead t.pool (16 * i) 16)

/-- A core's context area by offset (R391): the header, the first 64 deque records, the slot records, the save areas and the
pool image. -/
def Core.areaSectors (k : Core) (c : CoreId) (serial : Nat) : List (Nat × Nat) :=
  sectorsAt 0 (k.header c) ++ sectorsAt 0x1000 ((k.deque.take 64).flatMap TaskRec.words) ++
    (k.slots.toList.mapIdx fun i t => t.slotRecord serial i).flatten ++
    (k.saves.mapIdx fun i v => v.areaRecord i).flatten ++ k.teams.flatMap k.frameImage ++ k.teams.flatMap Team.image

/-- A team's accumulators and scratchpad taken from the pool image. -/
def Team.ofImage (rd : Nat → Byte) (t : Team) : Team :=
  { t with
    acc := memFill [] 0 ((List.range (8192 * acbOf t.poolpart)).map fun i => rd (t.imageBase true + i))
    pool := memFill [] 0 ((List.range (8192 * spbOf t.poolpart)).map fun i => rd (t.imageBase false + i)) }

/-- A thread with the vector registers below its allotment taken from an area. -/
def Thread.ofArea (rd : Nat → Byte) (at' : Nat) (t : Thread) : Thread :=
  { t with regs := { t.regs with
      v := Vector.ofFn fun j =>
        if j.val < t.allot then BitVec.ofNat 8192 (leRead rd (at' + 1024 * j.val) 1024) else t.regs.v[j] } }

/-- A slot with what its record gives. -/
def Thread.ofSlot (rd : Nat → Byte) (i : Nat) (t : Thread) : Thread :=
  if t.status = .empty then t
  else (t.ofRecord rd (0x2000 + 0x10000 * i)).ofArea rd (0x2000 + 0x10000 * i + 0x8000)

/-- A spilled thread with what its save area gives. -/
def Saved.ofArea (rd : Nat → Byte) (i : Nat) (v : Saved) : Saved :=
  { v with thread := (v.thread.ofRecord rd (0x82000 + 0xC000 * i + 0xA000)).ofArea rd (0x82000 + 0xC000 * i) }

/-- A task record from its doublewords (R187). -/
def recOf (rd : Nat → Byte) (at' : Nat) : TaskRec :=
  let n := fun i => leRead rd (at' + 8 * i) 8
  { pc := w64 (n 0), a0 := w64 (n 1), a1 := w64 (n 2), sp := w64 (n 3), fmtp := w64 (n 4), rngp := w64 (n 5), joinp := w64 (n 6)
    task := BitVec.ofNat 32 (n 7), lh := n 7 / 2 ^ 32 % 2 ^ 12, thread := n 7 / 2 ^ 44 % 2 == 1, nrng := n 7 / 2 ^ 46 % 16 }

/-- The deque records of an area, those past the 64th from the spill area of the core it names (R190, R391). -/
def dequeOf (rd spill : Nat → Byte) : List TaskRec :=
  (List.range (min Config.dequeMax (leRead rd 8 8))).map fun i =>
    if i < 64 then recOf rd (0x1000 + 64 * i) else recOf spill (64 * (i - 64))

/-- A ring with what its entry in the header gives. -/
def Ring.ofArea (rd : Nat → Byte) (i : Nat) (r : Ring) : Ring :=
  { r with written := leRead rd (0x148 + 32 * i) 8, taken := leRead rd (0x150 + 32 * i) 8 }

/-- A saved context with what its area holds: the deque, the slots, the save areas, the rings' counts and the pool image. -/
def Core.ofArea (rd spill : Nat → Byte) (k : Core) : Core :=
  { k with
    deque := dequeOf rd spill
    slots := Vector.ofFn fun i => k.slots[i].ofSlot rd i.val
    saves := k.saves.mapIdx fun i v => v.ofArea rd i
    rings := Vector.ofFn fun i => (k.rings[i]).map (Ring.ofArea rd i.val)
    teams := k.teams.map (Team.ofImage rd) }

/-- The POOLPART of team entry `i` of an area's header. -/
def areaPart (rd : Nat → Byte) (i : Nat) : Word := w64 (leRead rd (0x40 + 32 * i) 8)

/-- Banks that the teams of an area reserve (R214, R391). -/
def areaBanks (rd : Nat → Byte) : Nat := ((List.range 8).map fun i => banksOf (areaPart rd i)).sum

/-- A team of an area that no save of this part has written, from its entry in the header and its threads. -/
def areaTeam (rd : Nat → Byte) (ts : List Thread) (i : Nat) : Option Team :=
  let mask := leRead rd (0x48 + 32 * i) 8
  (ts.zipIdx.find? fun p => mask / 2 ^ p.2 % 2 == 1).map fun p =>
    let t := p.1
    ({ id := t.team, poolpart := areaPart rd i, firstBank := leRead rd (0x58 + 32 * i) 8, lh := leRead rd (0x50 + 32 * i) 8,
       ctx := t.ctx, task := t.task, prio := t.prio, kind := t.kind, members := t.teamw, stopped := 0, gang := [], rank := t.rank,
       frames := (ts.map fun q => if q.team = t.team then q.allot else 0).sum, pool := [], acc := [], ckpt := ⟨[], false, [], []⟩,
       bartCount := 0, bartDone := 0, bargCount := 0, bargDone := 0, barbCount := 0, barbPhase := false, band := t.band } : Team).ofImage rd

/-- A thread of such an area, by its slot's state in the header: one that was parked runs its instruction again. -/
def areaThread (rd : Nat → Byte) (i : Nat) : Thread :=
  let b := (rd (0x240 + i)).toNat
  if b % 128 = 0 then Thread.empty
  else
    { ({ Thread.empty with status := .ready }).ofSlot rd i with
      status := if b % 128 = 3 then .parked .stopped else .ready
      owed := b / 128 == 1 }

/-- The context that the documented parts of an area describe (R391): slots, teams and deque. -/
def areaCore (rd spill : Nat → Byte) : Core :=
  let ts := (List.range 8).map (areaThread rd)
  { Core.idle with
    slots := Vector.ofFn fun i => (ts[i.val]?).getD Thread.empty
    teams := (List.range 8).filterMap (areaTeam rd ts)
    deque := dequeOf rd spill
    nextTeam := (ts.map (·.team)).foldl max 0
    nextOrder := (ts.map (·.order)).foldl max 0 }

/-! Saving a core (R207). -/

/-- Whether a core can be saved: its loads, matrix operations, copies, messages and writes are done, no entry of it waits for
its queue, and no collective runs (R132, R207, R233, R375). -/
def State.saveReady (s : State) (c : CoreId) : Bool :=
  let k := s.getCore c
  !(s.coreList.any fun d => (s.getCore d).copies.any fun x => !x.stopped && (s.receivers d x).any fun q => q.1 == c) &&
  k.matq.isEmpty && k.copies.all (·.stopped) && k.msgq.isEmpty && k.inflight.isEmpty &&
    !(k.colq.any fun o => o.state == 2 || o.state == 3) && !(s.outstanding.any fun o => o.core == c || (o.fill && o.asker == c)) &&
    !(s.fqWait.any fun q => q.core == c)

/-- What a core saved leaves behind; after a swap the core is free for another partition (R184). The messages that waited for the
end of the save enter its queue (R233). -/
def Core.left (stopped : Bool) (k : Core) : Core :=
  { Core.idle with
    cycle := k.cycle, nextTeam := k.nextTeam, nextOrder := k.nextOrder, nextId := k.nextId, stopped := stopped
    msgHeld := k.msgHeld }

/-- The barrier at which a member of a thread's team, gang or band waits and the thread has not arrived (R208). -/
def waitsFor (core : CoreId) (t : Thread) (c : CoreId) (o : Thread) : Option (Fin 3) :=
  let when' := fun (b : Bool) (i : Fin 3) => if o.lh == t.lh && b && decide (t.arrivals[i] < o.arrivals[i]) then some i else none
  match o.status with
  | .parked (.bart _) => when' (c == core && o.team == t.team) 0
  | .parked (.barg _) => when' (o.task == t.task && o.kind == t.kind && t.kind == .gang) 1
  | .parked (.barb i _) => when' (t.band == some i && o.band == some i) 2
  | _ => none

/-- Every thread of a core, in a slot or in a save area. -/
def Core.threads (k : Core) : List Thread := (k.slots.toList.filter (·.status != .empty)) ++ k.saves.map (·.thread)

/-- The barriers for which a spilled thread is owed re-admission (R208). -/
def State.owedAt (s : State) (core : CoreId) (t : Thread) : List (Fin 3) :=
  (s.coreList.flatMap fun c => (s.getCore c).threads.filterMap (waitsFor core t c)).eraseDups

/-- A spilled thread that is owed re-admission (R208). -/
def State.isOwed (s : State) (core : CoreId) (t : Thread) : Bool := t.owed || !(s.owedAt core t).isEmpty

/-- What is saved of a core: its caches and translations are not (R148). -/
def Core.saved (k : Core) : Core :=
  { k with
    tlb := [], icache := [], ccache := [], claims := []
    slots := k.slots.map fun t => { t with extents := [] } }

/-- What a swap saves of a core, its spilled threads marked that are owed re-admission (R208). -/
def State.savedCore (s : State) (c : CoreId) : Core :=
  let k := (s.getCore c).saved
  { k with
    saves := k.saves.map fun (v : Saved) => { v with thread := { v.thread with owed := s.isOwed c v.thread } } }

/-- Staging of every team of a core drains, and its writes on their way are performed. -/
def State.settleCore (s : State) (c : CoreId) : State :=
  let s := if isCmd c then s else ((s.getCore c).teams.map (·.id)).foldl (fun s t => s.sealOf c t) s
  (s.performAll c (s.getCore c).inflight).2

/-- A thread comes back to a slot (R324): every armed entry is registered again and triggered, and an instruction that waits
for room, for counters or for a join counter runs again. -/
def Thread.resumed (t : Thread) : Thread :=
  let t := { t with watch := t.watch.map fun (e : WatchEntry) => if e.armed then { e with triggered := true } else e }
  (t.retryIf fun w => match w with
    | .counters _ | .form _ | .slot | .join .. | .matqFull | .copyFull | .colqFull | .launchFull | .copies => true
    | _ => false).checkWaitev

/-- A restored core takes the place of an idle one, whose message engine goes on (R233); its numbers go on from the higher of the
two. -/
def Core.onto (k idle : Core) : Core :=
  { k with
    slots := k.slots.map Thread.resumed
    cycle := idle.cycle
    nextTeam := max k.nextTeam idle.nextTeam
    nextOrder := max k.nextOrder idle.nextOrder
    nextId := max k.nextId idle.nextId
    got := k.got ++ idle.got
    msgq := idle.msgq
    msgHeld := idle.msgHeld
    saving := false
    stopped := idle.stopped }

/-- Every mention of a core in a launch's gangs and rings follows its context to another core. -/
def Core.rename (a b : CoreId) (k : Core) : Core :=
  let f : CoreId → CoreId := fun c => if c = a then b else c
  { k with
    teams := k.teams.map fun t => { t with gang := t.gang.map f }
    rings := k.rings.map fun r => r.map fun r => { r with
      remote := r.remote.map fun p => (f p.1, p.2)
      producer := r.producer.map fun p => (f p.1, p.2) } }

/-- What was left to do on a core whose context was out: its tasks that have ended retire after RESUME (R209), and the records
of aborted launches are gone (R197). -/
def State.sweepAborted (s : State) (c : CoreId) : State :=
  let k := s.getCore c
  let gone := k.deque.filter fun r => s.isAborted r.lh
  let s := k.teams.foldl (fun s t => s.later (.taskRetire c t.id)) s
  let s := s.onCore c fun k => { k with deque := k.deque.filter fun r => !gone.contains r }
  gone.foldl (fun s r => match s.launchAt r.lh with
    | some l =>
      let s := { s with launches := mapSet s.launches r.lh { l with live := l.live - 1 } }
      if l.live = 1 then s.later (.launchComplete r.lh) else s
    | none => s) s

/-- A core's context restored, wherever it came from; what has been acknowledged meanwhile is replayed (R148). -/
def State.restoreCore (s : State) (src c : CoreId) (k : Core) : State :=
  let s := s.onCore c fun idle => { k.onto idle with stopped := idle.stopped || s.haltedAt c }
  let s := (((s.sweepAborted c).replayDue c).keepSpilled c).later (.taskDispatch c)
  if src = c then s
  else
    let s := s.mapCores fun _ k => k.rename src c
    { s with areas := s.areas.map fun (a : Nat × Core) => (a.1, a.2.rename src c) }

/-! SPILL and RESTORE (R390). -/

/-- Whether a core holds a thread, a spilled slot or a deque record. -/
def Core.holdsWork (k : Core) : Bool := k.occupied || !k.saves.isEmpty || !k.deque.isEmpty

/-- Whether an area is placed as R390 asks. -/
def State.areaOk (s : State) (pa : Nat) : Bool :=
  decide (pa < 2 ^ 52) && pa % 4096 == 0 && s.isDevMem pa && s.isDevMem (pa + areaBytes - 1) && regionOf pa == regionOf (pa + areaBytes - 1)

/-- The core of an area's header. -/
def headerCore (w : Nat) : CoreId := coreOf (w / 256 % 16) (w / 4096 % 64)

/-- The checks of R390: the status of the first that fails. -/
def State.saveStatus (s : State) (restore : Bool) (pa n : Nat) : Nat :=
  match s.logical n with
  | none => 1
  | some c =>
    if c = s.loc then 1
    else if !s.haltedAt c then 2
    else if !s.areaOk pa then 3
    else if restore && (s.getCore c).holdsWork then 4
    else if restore && (s.physRead pa 1 != Config.contextVer.toNat ||
        decide (Config.banks false < areaBanks fun o => s.physByte (pa + o))) then 5
    else 0

/-- SPILL of a core into an area: the caller goes on once every part is written. -/
def spillTo (d : Reg) (pa : Nat) (c : CoreId) (s : State) : State :=
  let s := s.settleCore c
  if !s.saveReady c then (s.onCore c fun k => { k with saving := true }).park .saving
  else
    let k := s.getCore c
    let serial := s.areas.length
    match s.areaWrite (deviceSource s.loc s.th.ctx) ((k.areaSectors c serial).map fun p => (pa + p.1, p.2)) with
    | (.wait w, s) => s.park w
    | (.fail f, s) => s.parkFault f 0 true pa 0
    | (.done _, s) =>
      let s := { s with areas := s.areas ++ [(serial, k.saved)] }
      (((s.onCore c fun k => k.left k.stopped).enterQueue c).setX d 0).adv

/-- A half of an area that the host owns: its data is asked for before the area is read (R62). -/
def State.areaHalf (s : State) (pa : Nat) : Option Nat :=
  (s.lines.find? fun p => decide (pa ≤ 128 * p.1 ∧ 128 * p.1 < pa + areaBytes) && (p.2.hlo == 2 || p.2.hhi == 2)).map fun p =>
    if p.2.hlo == 2 then 2 * p.1 else 2 * p.1 + 1

/-- Why an area cannot be read: lost memory, or a poisoned sector (R56, R112). -/
def State.areaBad (s : State) (pa : Nat) : Option Byte :=
  if s.lostDies != 0 && (List.range (areaBytes / 128)).any (fun i => s.lostAt (pa + 128 * i)) then some 0x13
  else if s.psect.any fun m => decide (pa / 16 ≤ m ∧ m < (pa + areaBytes) / 16) then some 0x0D
  else none

/-- Whether an area lies behind dies that do not answer (R55, R56). -/
def State.areaHeld (s : State) (pa : Nat) : Bool :=
  (s.fenced != 0 || s.splitWait.isSome) && (List.range (areaBytes / 128)).any fun i => s.heldBySplit (pa + 128 * i)

/-- The context that an area holds: that of the save whose number it has, with the parts that the area itself holds; else the
one that its documented parts describe (log 31). -/
def State.areaContext (s : State) (pa : Nat) : Option Core :=
  let rd := fun o => s.physByte (pa + o)
  let spill := fun o => s.physByte (s.spillArea (headerCore (s.physRead pa 8)) + o)
  some (match s.areas.find? fun a => a.1 == s.physRead (pa + 0x3000) 8 with
    | some a => a.2.ofArea rd spill
    | none => areaCore rd spill)

/-- RESTORE of an area into a core. -/
def restoreFrom (d : Reg) (pa : Nat) (c : CoreId) (s : State) : State :=
  match s.areaBad pa, s.areaHalf pa with
  | some f, _ => s.parkFault f 0 false pa 0
  | none, some h => (s.sendBisnp (s.loc, s.th.order) h true).park (.bisnp h)
  | none, none =>
    if s.areaHeld pa then s.park .split
    else
      let src := headerCore (s.physRead pa 8)
      let s := match s.areaContext pa with
        | none => s
        | some k => s.restoreCore src c k
      (s.setX d 0).adv

/-- SPILL and RESTORE. -/
def runSave (restore : Bool) (d a b : Reg) (s : State) : State :=
  let pa := (s.x a).toNat
  let n := (s.x b).toNat
  consumeX [a, b] (fun s =>
    match s.saveStatus restore pa n, s.logical n with
    | 0, some c => if restore then restoreFrom d pa c s else spillTo d pa c s
    | e, _ => (s.setX d (w64 e)).adv) s

/-- R390: privileged. -/
def execSpill (d a b : Reg) (s : State) : Host.Outcome State Fault Refusal :=
  .next (guardPriv (fmtQ 49 d.val a.val b.val 8) (runSave false d a b) s)

/-- R390: privileged. -/
def execRestore (d a b : Reg) (s : State) : Host.Outcome State Fault Refusal :=
  .next (guardPriv (fmtQ 49 d.val a.val b.val 9) (runSave true d a b) s)

/-! Partition events (R182 to R185): each request is a write of PART that carries it. -/

/-- R183. -/
def execPartDiesWrite (p : Fin 16) (dies : BitVec 16) (s : State) : Host.Outcome State Fault Refusal :=
  .next (s.writePart p (dies.setWidth 64))

/-- A write of PART that keeps DIES and sets one request bit. -/
def State.partRequest (s : State) (p : Fin 16) (bit : Nat) : State :=
  s.writePart p (w64 (s.parts[p].dies.toNat + 2 ^ bit))

/-- R184. -/
def execPartHaltreq (p : Fin 16) (s : State) : Host.Outcome State Fault Refusal := .next (s.partRequest p 18)

/-- R183. -/
def execPartResume (p : Fin 16) (s : State) : Host.Outcome State Fault Refusal := .next (s.partRequest p 19)

/-- R184. -/
def execPartSwapout (p : Fin 16) (s : State) : Host.Outcome State Fault Refusal := .next (s.partRequest p 20)

/-- R184. -/
def execPartSwapin (p : Fin 16) (s : State) : Host.Outcome State Fault Refusal := .next (s.partRequest p 21)

/-- R182. -/
def execPartErrClear (p : Fin 16) (s : State) : Host.Outcome State Fault Refusal := .next (s.partRequest p 23)

/-- The cores of a partition that hold state. -/
def State.partCores (s : State) (p : Fin 16) : List CoreId := s.coreList.filter fun c => s.inPart p c

/-- Whether a slot stands at an instruction boundary with nothing of its own outstanding (R184); a tile form in progress
completes first (R319). -/
def slotSettled (t : Thread) : Bool :=
  match t.status with
  | .parked (.response _) | .parked .walk | .parked .travel | .parked (.bisnp _) | .parked .split | .parked (.tile _)
  | .parked (.tfwd ..) | .parked (.tdrop _) | .parked (.publ ..) | .parked (.form _) | .parked (.fqSpace _)
  | .parked .saving | .parked .slot => false
  | _ => t.owes.isNone

/-- R184: every slot has stopped once its loads and matrix operations are complete. -/
def execPartitionHalted (p : Fin 16) (s : State) : Host.Outcome State Fault Refusal :=
  .next (
    if !(s.parts[p].busy && s.parts[p].req == 1) then s
    else
      let s := s.mapCores fun c k => if s.inPart p c then { k with stopped := true } else k
      let settled := (s.partCores p).all fun c =>
        let k := s.getCore c
        k.matq.isEmpty && k.slots.toList.all slotSettled
      if settled then { s with parts := s.parts.set p { s.parts[p] with state := 2, busy := false, req := 0 } }
      else { s with hostHeld := s.hostHeld ++ [.partitionHalted p] })

/-- Shadow storage of a die in use: the frames of its tiles (R89). -/
def State.framesUsed (s : State) (die : Nat) : Nat :=
  ((s.tiles.filter fun q => q.2.shad && homeOf q.1 == die).map fun q => 4096 * q.2.units).sum

/-- Whether the contexts of a partition fit the shadow storage of their dies, beside tile frames, other contexts and the
checkpoint banks of other cores (R89, R184). -/
def State.swapFitsShadow (s : State) (p : Fin 16) : Bool :=
  (List.range 16).all fun d =>
    let own := (s.partCores p).filter fun c => sockOf c == d
    let need := (own.map fun c => (s.getCore c).savedBytes).sum
    let banks := if own.isEmpty then s.banksUsed d else 0
    decide (need = 0) || decide (need + banks + s.framesUsed d + s.contextsUsed d ≤ s.sramShadow * 0x8000000)

/-- The area of a core in a swap area (R185): its die's block, then its site. -/
def swapAt (base : Nat) (dies : BitVec 16) (c : CoreId) : Nat :=
  base + swapBlock * ((List.range (sockOf c)).filter fun d => dies.getLsbD d).length + areaBytes * siteOf c

/-- The end of a swap, refused or done. -/
def State.endSwap (s : State) (p : Fin 16) (f : Part → Part) : State :=
  { s with parts := s.parts.set p { (f s.parts[p]) with busy := false, req := 0 } }

/-- A request to move a partition's contexts out is refused; the messages that waited for it enter their queues (R184, R233). -/
def State.refuseSwap (s : State) (p : Fin 16) : State :=
  (s.partCores p).foldl State.enterQueue (s.endSwap p fun x => { x with err := true })

/-- The contexts of a partition have moved out, and its cores are free. -/
def State.swapOut (s : State) (p : Fin 16) (viaMem : Bool) : State :=
  let saved := (s.partCores p).map fun c => (c, s.savedCore c)
  let cores := s.partCores p
  let s := cores.foldl (fun s c => s.onCore c (Core.left false)) s
  let s := s.endSwap p fun x => { x with state := 3, saved := saved, viaMem := viaMem }
  cores.foldl State.enterQueue s

/-- The cores of a die that are not fused off. -/
def State.dieCores (s : State) (die : Nat) : List CoreId := ((List.range 36).filter fun k => s.siteOn die k).map (coreOf die)

/-- The sectors of a swap area (R185): a context area for each core of DIES that is not fused off. -/
def State.swapSectors (s : State) (p : Fin 16) : List (Nat × Nat) :=
  let x := s.parts[p]
  ((List.range 16).filter fun d => x.dies.getLsbD d).flatMap fun d => (s.dieCores d).flatMap fun c =>
    ((s.getCore c).areaSectors c 0).map fun q => (swapAt x.mem.toNat x.dies c + q.1, q.2)

/-- A swap through PARTMEM (R185): a write that is held up runs the event again, and one that fails refuses the request. -/
def State.swapToMemory (s : State) (p : Fin 16) : State :=
  match s.areaWrite (deviceSource s.loc 0) (s.swapSectors p) with
  | (.done _, s) => s.swapOut p true
  | (.wait _, s) => s.hold (.swapoutComplete p)
  | (.fail _, s) => s.refuseSwap p

/-- R184, R185: the contexts have moved out, or the request is refused for want of room. -/
def execSwapoutComplete (p : Fin 16) (s : State) : Host.Outcome State Fault Refusal :=
  .next (
    if !(s.parts[p].busy && s.parts[p].req == 2) then s
    else
      let s := (s.partCores p).foldl State.settleCore s
      if !((s.partCores p).all fun c => s.saveReady c) then
        ((s.partCores p).foldl (fun s c => s.onCore c fun k => { k with saving := true }) s).hold (.swapoutComplete p)
      else
        let x := s.parts[p]
        if s.swapFitsShadow p then s.swapOut p false
        else if x.mem = 0 ∨ !swapFits x.mem x.dies then s.refuseSwap p
        else s.swapToMemory p)

/-- R184, R185: the contexts are back on the cores that were saved, halted; a version that differs in any context area of DIES
refuses the request. Where DIES or BASE has been written since, the areas are found by what they are now (log 86). -/
def execSwapinComplete (p : Fin 16) (s : State) : Host.Outcome State Fault Refusal :=
  .next (
    if !(s.parts[p].busy && s.parts[p].req == 3) then s
    else
      let x := s.parts[p]
      let at' := fun c => swapAt x.mem.toNat x.dies c
      let areas := ((List.range 16).filter fun d => x.dies.getLsbD d).flatMap s.dieCores
      if x.viaMem && areas.any fun c => s.physRead (at' c) 1 != Config.contextVer.toNat then
        s.endSwap p fun x => { x with err := true }
      else
        let s := x.saved.foldl (fun s q =>
          let k := if x.viaMem then
              q.2.ofArea (fun o => s.physByte (at' q.1 + o)) fun o => s.physByte (s.spillArea q.1 + o)
            else q.2
          (((s.onCore q.1 fun idle => { k.onto idle with stopped := true }).sweepAborted q.1).replayDue q.1).later
            (.taskDispatch q.1)) s
        s.endSwap p fun x => { x with state := 2, saved := [], viaMem := false })

end Sys2Proof.Machine
end

