-- ==== Sys2Proof/Machine/Package.lean ====
section
/-! DEFINITION. The package's own events: reset, power and heat (R21, R22), boot (R22, R23, R70), FREEZE (R25 to R28), alerts
and registers (R4, R80), and the causeway (R17 to R19). -/

namespace Sys2Proof.Machine

/-! Reset and power. -/

/-- Package reset (R21, R22, R28): every field at its reset value; the fuses, the package number and the FREEZE pin stay, and
what is due on the pins and the management port. -/
def State.packageReset (s : State) : State :=
  { State.reset with
    debugFuse := s.debugFuse
    fuseKeyHash := s.fuseKeyHash
    fuseMinSec := s.fuseMinSec
    harvest := s.harvest
    pkgid := s.pkgid
    freezePin := s.freezePin
    frozen := s.freezePin
    resetHeld := s.freezePin
    agenda := s.agenda.filter runsFrozen }

/-- R22. -/
def execPackageReset (s : State) : Host.Outcome State Fault Refusal := .next s.packageReset

/-- R21: all state is lost. -/
def execPowerOff (s : State) : Host.Outcome State Fault Refusal := .next { s.packageReset with powered := false }

/-- Core cycles in 1 ms at 1.8 GHz (R20, R21). -/
def thermalWait : Nat := 1800000

/-- R21: an alert, and a reset 1 ms later. -/
def execThermalTrip (sock : Fin 24) (s : State) : Host.Outcome State Fault Refusal :=
  .next (
    let s := s.alert 0x01 sock.val 0 [w64 sock.val]
    { s with thermal := match s.thermal with
      | some l => some l
      | none => some (s.cycles + thermalWait) })

/-- R21: the wait has passed. -/
def execThermalReset (s : State) : Host.Outcome State Fault Refusal :=
  .next (if s.thermal.isSome then s.packageReset else s)

/-! Boot (R22, R23, R70). -/

/-- A supervisor strand starts in a slot of a command core (R70, R377): every register 0, the trap registers 0 (R381). -/
def State.startStrand (s : State) (n slot : Fin 8) (entry : Word) (ctx : BitVec 16) : State :=
  let c := cmdCore n.val
  let k := s.getCore c
  let s := s.onCore c fun k => { k with nextOrder := k.nextOrder + 1 }
  s.putThread c slot { Thread.empty with
    status := .ready, pc := entry, mode := .supervisor, kind := .strand, ctx := ctx, order := k.nextOrder + 1 }

/-- R70: firmware starts a slot, once the package has booted; the slot must be empty. -/
def execCommandCoreStart (n slot : Fin 8) (entry : Word) (ctx : BitVec 16) (s : State) : Host.Outcome State Fault Refusal :=
  .next (
    if s.bootState = 1 ∧ (s.getThread (cmdCore n.val) slot).status = .empty then s.startStrand n slot entry ctx else s)

/-- The cause for which an image fails (R22, R83): 0 when it passes. Which cause is recorded when several checks fail, here the
first of 3, 4, 1 and 2, and that a key whose hash is not the fused one counts as an invalid signature, are the model's choice
(log 66). -/
def State.imageCause (s : State) (img : BootImage) : Nat :=
  let digest := Config.sm3 img.bytes
  if !img.readable then 3
  else if !img.manifestOk then 4
  else if Config.sm3 img.key != s.fuseKeyHash || !Config.sm2Verify img.key digest img.sigR img.sigS then 1
  else if img.secVersion < s.fuseMinSec then 2
  else 0

/-- An image is loaded into device memory (R22); where it goes is the image's (log 77). -/
def State.loadImage (s : State) (img : BootImage) : State :=
  if s.isDevMem img.load then { s with mem := memWrite s.mem img.load img.bytes.length (ofBytes img.bytes) } else s

/-- Boot is complete: the boot firmware has divided the SRAM stacks, in a way that the manual leaves to it within 1 to 4 units
of shadow storage (R14, log 72). -/
def State.booted (s : State) : State := { s with bootState := 1, sramShadow := 1 + Config.sramDivision % 4 }

/-- R22, R23, R70: one image; a failure ends the boot for good, the last image starts command core 0. -/
def execBootImageVerify (img : BootImage) (s : State) : Host.Outcome State Fault Refusal :=
  .next (
    if s.bootState ≠ 0 then s
    else
      match s.imageCause img with
      | 0 =>
        let entry := if s.bootNext = 0 then img.entry else s.bootEntry
        let s := { (s.loadImage img) with
          bootDigests := s.bootDigests ++ [Config.sm3 img.bytes], bootNext := s.bootNext + 1, bootEntry := entry }
        if img.last then s.booted.startStrand 0 0 entry 0 else s
      | c => { s with bootState := 2, bootImage := BitVec.ofNat 8 s.bootNext, bootCause := BitVec.ofNat 4 c })

/-! FREEZE (R25 to R28). -/

/-- R25: every clock stops, and state stays where it is. -/
def execFreezeAssert (s : State) : Host.Outcome State Fault Refusal := .next { s with freezePin := true, frozen := true }

/-- R28: the clocks start again; a reset that the pin held ends. -/
def execFreezeDeassert (s : State) : Host.Outcome State Fault Refusal :=
  .next { s with freezePin := false, frozen := false, resetHeld := false }

/-- R27: a signed token that names this device authorises readout until package reset. -/
def execDebugToken (token : List Byte) (s : State) : Host.Outcome State Fault Refusal :=
  .next { s with debugToken := s.debugToken || Config.tokenValid token }

/-- BOOTST (R83). -/
def State.bootst (s : State) : Word := w64 (s.bootState.toNat + 256 * s.bootImage.toNat + 65536 * s.bootCause.toNat)

/-- Doublewords of a wide value. -/
def dwords (n v : Nat) : List Word := (List.range n).map fun i => w64 (v / 2 ^ (64 * i) % 2 ^ 64)

/-- A home line entry as it is stored (R92). -/
def LineEntry.words (e : LineEntry) (line : Nat) : List Word :=
  dwords 2 (line % 2 ^ 45 + 2 ^ 45 * e.state.toNat + 2 ^ 48 * e.holder.toNat + 2 ^ 52 * e.hlo.toNat + 2 ^ 54 * e.hhi.toNat
    + 2 ^ 56 * e.tov.toNat + 2 ^ 57 * e.wat.toNat + 2 ^ 58 * e.wset.toNat)

/-- The code of a tile state (R98). -/
def TileState.code : TileState → Nat
  | .home => 0 | .owned => 1 | .inForward => 2 | .shadowed => 3 | .lost => 4

/-- A core in 10 bits: die and site (R98). -/
def coreCode (c : CoreId) : Nat := sockOf c % 16 * 64 + siteOf c

/-- A tile entry as it is stored (R98). -/
def Tile.words (t : Tile) (pb : Nat) : List Word :=
  dwords 8 (pb % 2 ^ 52 + 2 ^ 52 * t.tstate.code + 2 ^ 55 * t.gen.toNat + 2 ^ 56 * t.shad.toNat
    + 2 ^ 64 * (t.rows + 2 ^ 16 * t.rowq + 2 ^ 32 * t.pitch)
    + 2 ^ 128 * (coreCode t.owner + 2 ^ 10 * coreCode t.ftgt + 2 ^ 20 * coreCode t.dcore + 2 ^ 30 * t.ctx.toNat + 2 ^ 46 * t.sfrm)
    + 2 ^ 192 * (t.ht + 2 ^ 8 * t.hb + 2 ^ 16 * t.hl + 2 ^ 24 * t.hr + 2 ^ 32 * t.fmt.toNat + 2 ^ 40 * t.neighbours.length)
    + 2 ^ 256 * (t.neighbours.mapIdx fun i c => 2 ^ (10 * i) * coreCode c).sum)

/-- What one instrument of R26 reads; key values are never part of it (R27). The rule names the instruments and gives no layout:
which doublewords one returns, and where a field lies in them, is the model's choice (log 83). -/
def State.instrument (s : State) : Instrument → List Word
  | .harvest d => [s.harvest[d]]
  | .bootst => [s.bootst]
  | .scalar c sl r => [(s.getThread c sl).regs.rx r]
  | .branch c sl r => [(s.getThread c sl).regs.b[r]]
  | .mask c sl r i => [w64 (((s.getThread c sl).regs.rk r).toNat / 2 ^ (64 * i.val) % 2 ^ 64)]
  | .vector c sl r i => [w64 ((s.getThread c sl).regs.v[r].toNat / 2 ^ (64 * i.val) % 2 ^ 64)]
  | .pc c sl => [(s.getThread c sl).pc]
  | .sys c sl r => [(s.focus c sl).readSys r]
  | .engine c sl r => [(s.getThread c sl).eng[engNo r]]
  | .pool c tm off => [w64 (s.poolReadOf c tm off 8)]
  | .ring c n =>
    match s.ringAt c n with
    | some r => [w64 r.base, w64 r.size, w64 r.written, w64 r.taken]
    | none => [0]
  | .icacheLine c pa => dwords 16 (((mapGet (s.getCore c).icache (lineOf pa)).map (·.toNat)).getD 0)
  | .tlb c n =>
    match (s.getCore c).tlb[n]? with
    | some e => [w64 e.vbase, w64 (e.pbase + e.leaf.toNat), w64 (e.log2 + 256 * e.slot + 65536 * e.ctx.toNat)]
    | none => [0]
  | .deque c n =>
    match (s.getCore c).deque[n]? with
    | some r => r.words.map w64
    | none => [0]
  | .lineEntry pa => (s.lineAt (lineOf pa)).words (lineOf pa)
  | .tileEntry pb =>
    match mapGet s.tiles pb with
    | some t => t.words pb
    | none => [0]
  | .stack pa => [w64 (memRead s.mem (pa / 8 * 8) 8)]
  | .channel ch => (((s.channels[ch]?).map (·.buffer)).getD []).map fun q => w64 (q.1 + q.2.toNat)
  | .mailbox n w => [s.readMReg (.mailbox n w.val)]
  | .cxlPort n =>
    let p := s.cxl[n]
    [w64 (p.up.toNat + 2 * p.committed.toNat), w64 p.hostBase, w64 p.dpaBase, w64 p.size, w64 p.ways, w64 p.gran]
  | .linkTable n => [(s.linkTable[n]?).getD 0, w64 s.ltGen.toNat]
  | .fport n => [s.fports[n].read, s.fports[n].readCtl]
  | .replay n => s.fports[n].replay.flatMap fun f => w64 f.1.toNat :: dwords 32 f.2.toNat
  | .keySlots n => [w64 (s.fports[n].ktx.toNat + 2 * s.fports[n].krx.toNat)]
  | .router k =>
    let l := s.links[k]
    l.skid.toList.map w64 ++ l.stop.toList.map fun b => w64 b.toNat
  | .causeway n =>
    let c := s.causeway[n]
    [w64 (c.expected + 65536 * c.count + 2 ^ 32 * c.phase.toNat + 2 ^ 33 * c.broken.toNat)]
  | .slotStatus c sl =>
    let t := s.getThread c sl
    [w64 (slotByte t), w64 t.task.toNat, w64 t.lh, w64 (t.near + 2 ^ 16 * t.dev + 2 ^ 32 * t.hst), w64 t.held.length,
      w64 t.records.length]
  | .acc c tm off => [w64 (((s.teamAt c tm).map fun t => memRead t.acc off 8).getD 0)]
  | .save c n =>
    match (s.getCore c).saves[n]? with
    | some v => v.thread.recordWords.map w64
    | none => [0]
  | .coreCache c n =>
    match (s.getCore c).ccache[n]? with
    | some l =>
      let e := s.lineAt l.line
      [w64 (128 * l.line), w64 (l.valid.toNat + if e.excl = some c then 256 * e.unsaved.toNat + 65536 else 0)]
    | none => [0]
  | .extent c sl n =>
    match (s.getThread c sl).extents[n]? with
    | some x => [w64 x.vbase, w64 x.len, w64 x.pbase, w64 x.leaf.toNat]
    | none => [0]
  | .dieTag pa =>
    let e := s.lineAt (lineOf pa)
    match s.tileOver pa with
    | some (pb, t) => [w64 pb, w64 (((mapGet t.tags (lineOf pa)).map (·.toNat + 65536)).getD 0)]
    | none => [w64 (128 * lineOf pa), w64 (e.valid.toNat + 256 * e.dirty.toNat + 65536 * e.tag.toNat)]
  | .dieData pa => dwords 16 (s.physRead (pa / 128 * 128) 128)
  | .shadow die off => [w64 (leRead (fun a => (mapGet s.shadow a).getD 0) (die.val * 0x40000000 + off / 8 * 8) 8)]
  | .notices die n =>
    match (s.noticesOf die.val).entries[n]? with
    | some e => e.words.map w64
    | none => [0]
  | .faultWait n =>
    match s.fqWait[n]? with
    | some q => q.entry.words.map w64
    | none => [0]
  | .gateway n =>
    match s.outstanding[n]? with
    | some o => [w64 o.core, w64 o.tag, w64 o.pkg, w64 o.pa, w64 ((o.plane.map (· + 1)).getD 0)] ++
        o.msgs.flatten.flatMap fun v => dwords 2 v.toNat
    | none => [0]
  | .gatewayFlow n =>
    match s.flows[n]? with
    | some f => [w64 f.core, w64 f.pkg, w64 f.vn, w64 f.plane, w64 f.holding.toNat]
    | none => [0]
  | .linkReplay k => s.links[k].replay.flatMap fun f => w64 f.1.toNat :: dwords 32 f.2.toNat
  | .linkQueue k => s.links[k].queue.flatMap fun m => w64 m.1 :: m.2.1.flatMap fun v => dwords 2 v.toNat
  | .dram ch => [w64 ((((s.channels[ch]?).bind (·.openPage)).map (· + 1)).getD 0)]
  | .register off => [((mregAt (0xF0000000000 + off) 8).map s.readMReg).getD 0]
  | .upSkid n => s.fports[n].skid.flatMap fun f => dwords 32 f.toNat
  | .awayReq n =>
    match s.awayReqs[n]? with
    | some r => w64 r.pkg :: r.slots.flatMap fun v => dwords 2 v.toNat
    | none => [0]
  | .awayResp n =>
    match s.responses[n]? with
    | some r => [w64 r.core, w64 r.pkg, w64 ((r.sent.map fun q => q.1 + 1).getD 0)] ++ r.slots.flatMap fun v => dwords 2 v.toNat
    | none => [0]
  | .replica pb die =>
    match s.replicas.find? fun r => r.pbase == pb && r.die == die.val with
    | some r => r.sectors.flatMap fun q => w64 (16 * q.1) :: dwords 2 q.2.toNat
    | none => [0]

/-- Whether an instrument is readable without authorisation (R27). -/
def readableAlways : Instrument → Bool
  | .harvest _ | .bootst => true
  | _ => false

/-- R26, R27: a readout while the package is frozen; it changes no state but what leaves through the port. -/
def execFreezeReadout (sel : Instrument) (s : State) : Host.Outcome State Fault Refusal :=
  .next (
    if !s.frozen then s
    else if readableAlways sel || s.debugFuse || s.debugToken then s.out (.readout (s.instrument sel))
    else s.out (.readout [0]))

/-! Alerts and registers. -/

/-- R80: a record's write has completed; ALRTTAIL advances and MSI-X vector 8 is sent. -/
def execAlertWriteComplete (s : State) : Host.Outcome State Fault Refusal :=
  .next (match s.alrtFlight with
    | [] => s
    | _ :: r => ({ s with alrtFlight := r, alrtTail := s.alrtTail + 1 }).msix 8)

/-- R80; after a failed boot it is not answered (R23). -/
def execAlrtctlWrite (v : Word) (s : State) : Host.Outcome State Fault Refusal :=
  .next (if s.bootState = 2 then s else s.writeAlrtctl v)

/-- R4, R60: `off` is a physical offset of the package's map; after a failed boot the host's write is not answered (R23). -/
def execRegisterWrite (host : Bool) (off : Nat) (v : Word) (s : State) : Host.Outcome State Fault Refusal :=
  .next (if host && s.bootState == 2 then s else s.writeReg host off v)

/-! The causeway. -/

/-- The episode of an identifier completes when its count is the expected one and no release of it is on its way: the count
is reset to what has arrived for the next phase, the phase toggles, the release starts. -/
def State.causewayFire (s : State) (id : Fin 64) : State :=
  let c := s.causeway[id]
  if !c.broken && !c.releasing && decide (0 < c.expected ∧ c.count = c.expected) then
    ({ s with causeway := s.causeway.set id { c with
        count := min c.next c.expected, next := c.next - c.expected, phase := !c.phase, releasing := true } }).later
      (.causewayRelease id)
  else s

/-- R17, R18: an arrival of the phase that is not current, or beyond the expected count, counts toward the next phase. -/
def execCausewayArrival (id : Fin 64) (phase : Bool) (s : State) : Host.Outcome State Fault Refusal :=
  .next (
    let c := s.causeway[id]
    if c.broken then s
    else
      let c := if phase != c.phase || decide (c.expected ≤ c.count) then { c with next := c.next + 1 }
        else { c with count := c.count + 1 }
      ({ s with causeway := s.causeway.set id c }).causewayFire id)

/-- Every core of the package, those saved elsewhere included (R209), changed. -/
def State.mapAllCores (s : State) (f : Core → Core) : State :=
  let s := s.mapCores fun _ k => f k
  { s with
    areas := s.areas.map fun (a : Nat × Core) => (a.1, f a.2)
    parts := s.parts.map fun x => { x with saved := x.saved.map fun (q : CoreId × Core) => (q.1, f q.2) } }

/-- A release of a phase reaches a core: the waiting threads of the band depart. -/
def Core.bandRelease (id : Nat) (phase : Bool) (k : Core) : Core :=
  (k.teams.filter fun t => t.band == some id).foldl (fun k t =>
    let k := k.onMembers t.id (Thread.departIf fun w => match w with
      | .barb i p => i == id && p == phase
      | _ => false)
    k.onTeam t.id fun t => { t with barbPhase := !phase }) k

/-- R17: the release reaches every enabled core. -/
def execCausewayRelease (id : Fin 64) (s : State) : Host.Outcome State Fault Refusal :=
  .next (
    let c := s.causeway[id]
    if !c.releasing then s
    else
      let s := s.mapAllCores (Core.bandRelease id.val !c.phase)
      ({ s with causeway := s.causeway.set id { c with releasing := false } }).causewayFire id)

/-- Whether a thread waits at an identifier. -/
def waitsBarb (id : Nat) : Wait → Bool
  | .barb i _ => i == id
  | _ => false

/-- R19: the identifier is broken, its arrivals are discarded, and every thread that waits at it traps; a thread out of its
slot runs its BARB again, which traps. -/
def execCausewayMismatch (id : Fin 64) (s : State) : Host.Outcome State Fault Refusal :=
  .next (
    let c := s.causeway[id]
    let s := { s with causeway := s.causeway.set id { c with broken := true, count := 0, next := 0, releasing := false } }
    let s := s.alert 0x02 20 0 [w64 id.val]
    let s := s.coreList.foldl (fun s c => (List.finRange 8).foldl (fun s sl =>
      match (s.getThread c sl).status with
      | .parked (.barb i _) => if i = id.val then s.asThread c sl (fun s => s.wake.trap 0x07 (w64 id.val)) else s
      | _ => s) s) s
    s.mapAllCores fun (k : Core) =>
      let k := { k with saves := k.saves.map fun (v : Saved) => { v with thread := v.thread.retryIf (waitsBarb id.val) } }
      let k := { k with slots := k.slots.map (Thread.retryIf (waitsBarb id.val)) }
      { k with teams := k.teams.map fun (t : Team) => if t.band = some id.val then { t with barbCount := 0 } else t })

end Sys2Proof.Machine
end

