-- ==== Sys2Proof/Machine/Links.lean ====
section
/-! DEFINITION. In-package links (R31 to R36), scale-up ports and their keys (R40 to R52), requests from other packages and
the gateway (R41, R140, R146), the link table (R42, R43), and the package split (R53 to R57). -/

namespace Sys2Proof.Machine

/-! Messages in the slots of a flit (R31). -/

/-- The data slots of a message. -/
def MsgHead.slots (h : MsgHead) : Nat :=
  match h.kind with
  | .data | .write => (h.n + 15) / 16
  | .courier => 4
  | .travel => if h.part = 3 then 9 else 13
  | .read | .ack | .error | .record | .back | .chunk => 0

/-- The messages of a flit, each header with its data; slots of zeros at the end are unused (log 61). -/
def messagesIn : Nat → List (BitVec 128) → List (BitVec 128 × List (BitVec 128))
  | 0, _ => []
  | _, [] => []
  | fuel + 1, q :: r =>
    if r.all (· == 0) && q == 0 then []
    else (q, r.take (headOf q).slots) :: messagesIn fuel (r.drop (headOf q).slots)

/-- A response at its requester (R31): matched by source package, source socket, source agent and tag. -/
def State.takeResponse (s : State) (pkg : Nat) (m : BitVec 128 × List (BitVec 128)) : State :=
  let h := headOf m.1
  let core := coreOf h.src h.agent
  let tag : BitVec 10 := BitVec.ofNat 10 h.tag
  match s.requestOf core tag with
  | none => s
  | some o =>
    if o.pkg ≠ pkg then s
    else
      match h.kind with
      | .data => s.later (.responseArrival core tag (BitVec.ofNat 1024 (slotsValue m.2)))
      | .ack => s.later (.responseArrival core tag 0)
      | .back => s.later (.travelPacketReturn core (Fin.ofNat 8 ((s.getCore core).slotOfTid o.tid)))
      -- a returned record too: the origin then writes the entry of its own context (R140, log 75)
      | _ => s.later (.errorResponseArrival core tag (BitVec.ofNat 8 h.n))

/-! In-package links (R31, R32, R35). -/

/-- Held requests of a home may go on (R36): the oldest of each class is served. -/
def State.serveHoldings (s : State) (k : Fin 24) : State :=
  ([HoldClass.line, .tile, .translation].filter fun c => s.holdings.any fun h => h.home == k.val && h.cls == c).foldl
    (fun s c => s.later (.holdingEntryServe k c)) s

/-- The header fields of a link's flit act (R31, R32, R35): its sequence number, acknowledgement and STOP bits. -/
def Link.accept (f : BitVec 2048) (l : Link) : Link :=
  let l := { l with
    rxSeq := BitVec.ofNat 10 (flitField f 17 8)
    fails := 0
    stop := Vector.ofFn fun i => f.getLsbD (30 + i.val) }
  if f.getLsbD 28 then
    let a : BitVec 10 := BitVec.ofNat 10 (flitField f 27 18)
    { l with ack := a, replay := unacked a l.replay }
  else l

/-- A flit accepted in order: its header acts, messages that waited may leave, responses in it reach their requesters, and a
flit of network 0 for a full home stays in the skid buffer (R31 to R36). -/
def State.acceptFlit (s : State) (k : Fin 24) (f : BitVec 2048) : State :=
  let stays := flitField f 2 0 = 0 ∧ s.homeFull k.val
  let opened := s.links[k].stop[1] && !f.getLsbD 31
  let s := s.onLink k fun l =>
    let l := l.accept f
    (if stays then { l with skid := l.skid.set 0 (l.skid[0] + 1) } else l).decideStop
  let s := if f.getLsbD 29 then s.later (.flitNakReceive k (BitVec.ofNat 10 (flitField f 27 18))) else s
  let s := if flitField f 2 0 = 2 then (messagesIn 15 (flitSlots f)).foldl (fun s m => s.takeResponse s.pkgid.toNat m) s else s
  let s := s.linkPump k
  let s := if opened then s.serveHoldings k else s
  if flitField f 2 0 = 4 && flitField f 6 3 == 0 then s else s.linkAnswer k false

/-- R36: the oldest held request of a class is served; its entry is free, and a skid buffer that was full of network 0
drains. -/
def execHoldingEntryServe (home : Fin 24) (cls : HoldClass) (s : State) : Host.Outcome State Fault Refusal :=
  .next (match s.holdings.find? fun h => h.home == home.val && h.cls == cls with
    | none => s
    | some h =>
      ((s.serveHeld fun w => w == h.wait).requeueHeld).drainSkid home)

/-! Scale-up ports (R40, R44 to R49). -/

/-- The planes on which every edge of the package's flows still runs: a flow on another plane holds its new flits (R41). -/
def State.holdFlows (s : State) : State :=
  { s with flows := s.flows.map fun (f : Flow) =>
      if (s.livePlanes f.pkg).contains f.plane then f else { f with holding := true } }

/-- Whether a request belongs to a flow (R41). -/
def Flow.has (f : Flow) (o : Outstanding) : Bool := o.core == f.core && o.pkg == f.pkg && o.vn == f.vn

/-- Flows that hold and have no earlier request outstanding are mapped anew. -/
def State.remapFlows (s : State) : State :=
  (s.flows.filter fun f => f.holding && !(s.outstanding.any fun o => f.has o && o.plane == some f.plane)).foldl
    (fun s f => s.later (.gatewayFlowRemap f.core (BitVec.ofNat 8 f.pkg) (Fin.ofNat 4 f.vn))) s

/-- Requests that the gateway still holds for a package without a live edge are answered with cause 0x10 (R50, R52). -/
def State.answerHeld (s : State) : State :=
  (s.outstanding.filter fun o => o.plane.isNone && o.pkg != s.pkgid.toNat && (s.livePlanes o.pkg).isEmpty).foldl
    (fun s o => s.later (.errorResponseArrival o.core (BitVec.ofNat 10 o.tag) 0x10)) s

/-- A port can send again: what is due on it and what waits for it goes on (R41, R46, R47). -/
def State.portOpens (s : State) (p : Fin 36) : State :=
  let s := if s.fports[p].keyDue then s.sendKeyFlit p else s
  let s := if s.fports[p].markerDue then s.later (.keyMarkerSend p) else s
  s.sendResponses.requeueHeld

/-- Whether a response has been sent on a port in a flit that is not acknowledged. -/
def AwayResp.lostOn (p : Nat) (replay : List (BitVec 12 × BitVec 2048)) (r : AwayResp) : Bool :=
  match r.sent with
  | some (q, n) => q == p && replay.any fun x => x.1 == n
  | none => false

/-- A port goes down (R44, R49): requests that its switch has not acknowledged get cause 0x11, responses that it has not
acknowledged are sent again on another plane, the flows of its plane hold, and the sequencer is told. KTX, KRX and TXCTR keep
what they were until the port trains again (log 63). -/
def State.portDown (s : State) (p : Fin 36) : State :=
  let f := s.fports[p]
  if f.state = 0 then s
  else
    let lost := s.outstanding.filter fun o =>
      o.plane == some p.val && (match o.flit with
        | some q => f.replay.any fun r => r.1 == q
        | none => true)
    let s := s.onPort p fun f => { f with
      state := 0, downs := min (f.downs + 1) 255, afail := 0, exchanging := false, marker := none, rekey := false
      replay := [], keyDue := false, markerDue := false }
    let s := { s with
      responses := s.responses.map fun (r : AwayResp) =>
        if r.lostOn p.val f.replay then { r with sent := none : AwayResp } else r }
    let s := lost.foldl (fun s o => s.later (.errorResponseArrival o.core (BitVec.ofNat 10 o.tag) 0x11)) s
    let s := (s.holdFlows.alert 0x05 (portSock p).val 0 [1, w64 p.val]).out (.portReport p)
    s.remapFlows.answerHeld.sendResponses

/-- R49. -/
def execScaleupPortDown (port : Fin 36) (s : State) : Host.Outcome State Fault Refusal := .next (s.portDown port)

/-- R48: the third failure in a row. -/
def execAuthFailPortDown (port : Fin 36) (s : State) : Host.Outcome State Fault Refusal := .next (s.portDown port)

/-- R46: the counter is used up before a new key is installed. -/
def execTxctrExhausted (port : Fin 36) (s : State) : Host.Outcome State Fault Refusal :=
  .next (if s.fports[port].txctr = 0xFFFFFFFF then s.portDown port else s)

/-- R50: the switch has isolated its port toward this package. It answers the requests that it had forwarded toward that port;
those are other packages' requests, and this package's own on the plane are answered by their destination or end under R51
(log 73). New flits take other planes. -/
def execPortIsolate (port : Fin 36) (s : State) : Host.Outcome State Fault Refusal :=
  .next ((s.onPort port fun f => { f with state := 4 }).holdFlows.remapFlows.answerHeld.sendResponses)

/-- The package asks the sequencer for the full table (R43). -/
def State.askTable (s : State) : State := if s.ltPending then s else ({ s with ltPending := true }).out .tableRequest

/-- R45: the link has trained and its keys are agreed: slot 0 is live in both directions. A fenced fabric die trains none
(R55), and a package whose boot has failed brings none up (R23). -/
def execLinkTrain (port : Fin 36) (s : State) : Host.Outcome State Fault Refusal :=
  .next (
    let f := s.fports[port]
    if s.bootState == 2 || f.off || f.state == 3 || s.fenced.getLsbD (portSock port).val then s
    else
      let s := s.onPort port fun f => { f with
        state := 3, ktx := false, krx := false, afail := 0, txctr := 0, rxctr := 0, rxSeq := 0, txSeq := 0, ack := 0
        txGen := f.txGen + 1, rxGen := f.rxGen + 1, exchanging := false, marker := none, replay := []
        keyDue := false, markerDue := false, rxNew := false, stop := Vector.replicate 4 false }
      (if s.ltStale then s.askTable else s).sendResponses.requeueHeld)

/-- R44. -/
def execFpctlOff (port : Fin 36) (off : Bool) (s : State) : Host.Outcome State Fault Refusal := .next (s.writeOff port off)

/-- R44, R46. -/
def execFpctlRekey (port : Fin 36) (s : State) : Host.Outcome State Fault Refusal := .next (s.startRekey port)

/-- R46: a key exchange starts at the threshold. -/
def execTxctrRekeyThreshold (port : Fin 36) (s : State) : Host.Outcome State Fault Refusal := .next (s.startExchange port)

/-- R47: the peer has installed the new key; the marker goes under the old slot, and every later flit uses the other. A port
that cannot send it now sends it later, and goes on under the old key until then. -/
def execKeyMarkerSend (port : Fin 36) (s : State) : Host.Outcome State Fault Refusal :=
  .next (
    let f := s.fports[port]
    if f.state ≠ 3 ∨ !f.exchanging then s
    else if f.ready noVn then
      (s.upSend port 2 false 0).onPort port fun f => { f with
        ktx := !f.ktx, txGen := f.txGen + 1, txctr := 0, exchanging := false, marker := some f.txSeq, markerDue := false }
    else s.onPort port fun f => { f with markerDue := true })

/-- Whether a received flit authenticates (R40, R48). -/
def upGood (p : Fin 36) (f : Fport) (flit : BitVec 2048) : Bool :=
  decide (flitField flit 28 26 ≤ 4) && Config.gcmOk p.val f.krx f.rxGen f.rxctr flit

/-! Data flits from other packages (R40, R41). -/

/-- A field of the first payload doubleword of a flit in clear form: DPKG, SPKG and VN (R40). -/
def payloadField (clear : BitVec 2048) (lo w : Nat) : Nat := clear.toNat / 2 ^ (64 + lo) % 2 ^ w

/-- The slots of a payload. -/
def payloadSlots (clear : BitVec 2048) : List (BitVec 128) :=
  (List.range 14).map fun i => BitVec.ofNat 128 (clear.toNat / 2 ^ (128 + 128 * i))

/-- A request of another package has arrived (R41, R146): it waits for its service, a travel packet for its four parts. -/
def State.takeRequest (s : State) (pkg : Nat) (vn : Nat) (m : BitVec 128 × List (BitVec 128)) : State :=
  let h := headOf m.1
  let due : Instr := .gatewayRequest (coreOf h.src h.agent) (BitVec.ofNat 10 h.tag) s.pkgid (Fin.ofNat 4 vn)
  if h.kind = .travel then
    let part := fun (r : AwayReq) => r.pkg == pkg && (match r.slots with
      | [] => false
      | q :: _ => ({ headOf q with part := 0 } : MsgHead) == ({ h with part := 0 } : MsgHead))
    let old := s.awayReqs.find? part
    let slots := match old with
      | some r => r.slots ++ m.2
      | none => m.1 :: m.2
    let s := { s with
      awayReqs := s.awayReqs.filter (!part ·) ++ [{ pkg := pkg, slots := slots, since := s.cycles : AwayReq }] }
    if h.part = 3 then s.later due else s
  else
    let r : AwayReq := { pkg := pkg, slots := m.1 :: m.2, since := s.cycles }
    ({ s with awayReqs := s.awayReqs ++ [r] }).later due

/-- A data flit enters the package (R41). -/
def State.takeData (s : State) (clear : BitVec 2048) : State :=
  let pkg := payloadField clear 8 8
  let vn := payloadField clear 16 3
  (messagesIn 14 (payloadSlots clear)).foldl
    (fun s m => if vn = 2 then s.takeResponse pkg m else s.takeRequest pkg vn m) s

/-- STOP bits of a port from its skid buffers (R35). -/
def Fport.decideStop (f : Fport) : Fport :=
  { f with mine := Vector.ofFn fun i =>
      let n := (f.skid.filter fun q => payloadField q 16 3 == i.val).length
      if 128 ≤ n then true else if n ≤ 64 then false else f.mine[i] }

/-- Whether the gateway can pass a data flit on: its network is not stopped inside the package (R35, R41). -/
def State.passes (s : State) (p : Fin 36) (clear : BitVec 2048) : Bool :=
  !((s.links[portSock p].stop[payloadField clear 16 3]?).getD false)

/-- A data flit passes the gateway, or waits in the port's skid buffer behind those that wait there (R35, R41). -/
def State.passData (s : State) (p : Fin 36) (clear : BitVec 2048) : State :=
  let behind := s.fports[p].skid.any fun q => payloadField q 16 3 == payloadField clear 16 3
  if s.passes p clear && !behind then s.takeData clear
  else s.onPort p fun f => { f with skid := f.skid ++ [clear] : Fport }.decideStop

/-- The skid buffers of the ports of a fabric die drain (R35). -/
def State.drainSkids (s : State) (k : Fin 24) : State :=
  ((List.finRange 36).filter fun p => portSock p == k).foldl (fun s p =>
    let out := s.fports[p].skid.filter (s.passes p)
    let s := s.onPort p fun f => { f with skid := f.skid.filter (!s.passes p ·) : Fport }.decideStop
    out.foldl State.takeData s) s

/-- R32: the check, the sequence, and the sixteenth failure in a row; at a fabric die, flits that waited for a network go on
(R41). -/
def execFlitReceive (sock : Fin 24) (flit : BitVec 2048) (s : State) : Host.Outcome State Fault Refusal :=
  .next (
    let l := s.links[sock]
    if !l.up then s
    else if !flitGood flit then
      let s := (s.onLink sock fun l => { l with fails := l.fails + 1 }).linkAnswer sock true
      if 16 ≤ l.fails + 1 then s.later (.portCrcDown sock) else s
    else if BitVec.ofNat 10 (flitField flit 17 8) ≠ l.rxSeq + 1 then s
    else (s.acceptFlit sock flit).drainSkids sock)

/-- R32. -/
def execFlitNakReceive (sock : Fin 24) (ack : BitVec 10) (s : State) : Host.Outcome State Fault Refusal :=
  .next (if s.links[sock].up then s.linkReplay sock ack else s)

/-- R32, R53: the port goes down, and its socket leaves the live mask. -/
def execPortCrcDown (sock : Fin 24) (s : State) : Host.Outcome State Fault Refusal :=
  .next (
    if !s.links[sock].up then s
    else
      let s := s.onLink sock fun l => { l with up := false, replay := [], skid := Vector.replicate 4 0, queue := [] }
      s.later (.splitDetect (s.liveMask &&& ~~~(BitVec.ofNat 24 (2 ^ sock.val)))))

/-- The header of an accepted flit acts on its port (R40, R47, R48): sequence and counter, the marker's change of slot, the
acknowledgement and the STOP bits. -/
def Fport.accept (flit : BitVec 2048) (f : Fport) : Fport :=
  let a : BitVec 12 := BitVec.ofNat 12 (flitField flit 23 12)
  let f := { f with
    rxSeq := BitVec.ofNat 12 (flitField flit 11 0)
    rxctr := f.rxctr + 1
    afail := 0
    stop := Vector.ofFn fun i => flit.getLsbD (29 + i.val) }
  let f := if flitField flit 28 26 = 2 then { f with krx := !f.krx, rxGen := f.rxGen + 1, rxctr := 0, rxNew := false } else f
  if flit.getLsbD 24 then
    let done := match f.marker with
      | some m => !seqAfter m a
      | none => false
    { f with
      ack := a, replay := unacked a f.replay
      marker := if done then none else f.marker
      rekey := f.rekey && !done }
  else f

/-- A key-exchange flit (R46): it confirms the exchange that this end has started; else the peer starts one, its new key is
installed in the idle receive slot, and the answer confirms that. -/
def State.takeKey (s : State) (p : Fin 36) : State :=
  if s.fports[p].exchanging then (s.onPort p fun f => { f with rxNew := true }).later (.keyMarkerSend p)
  else (s.onPort p fun f => { f with rxNew := true }).sendKeyFlit p

/-- An acknowledgement goes out in an idle flit, unless the port cannot send it now: later flits carry it (R40). -/
def State.upAnswer (s : State) (p : Fin 36) : State :=
  let s := s.out (.upAck p s.fports[p].rxSeq false)
  if s.fports[p].ready noVn then s.upSend p 1 false 0 else s

/-- A flit accepted in sequence (R40, R46 to R48): its header acts, a NAK has the replay buffer sent again byte for byte, its
payload is taken by its type, and what waited for the port goes on. An idle flit is not answered. -/
def State.acceptUp (s : State) (p : Fin 36) (flit : BitVec 2048) : State :=
  let f := s.fports[p]
  let type := flitField flit 28 26
  let clear := Config.gcmOpen p.val f.krx f.rxGen f.rxctr flit
  let s := s.onPort p (Fport.accept flit)
  let s := { s with
    responses := s.responses.filter fun (r : AwayResp) => r.sent.all fun (q : Nat × BitVec 12) =>
      q.1 != p.val || s.fports[p].replay.any fun (x : BitVec 12 × BitVec 2048) => x.1 == q.2 }
  let s := if flit.getLsbD 25 then s.fports[p].replay.foldl (fun s r => s.out (.upFlit p r.1 0 r.2)) s else s
  let s := if type = 0 then s.passData p clear else if type = 3 then s.takeKey p else s
  let s := s.portOpens p
  if type = 1 then s else s.upAnswer p

/-- R48: out of sequence, a failed tag, or accepted. -/
def execScaleupFlitReceive (port : Fin 36) (flit : BitVec 2048) (s : State) : Host.Outcome State Fault Refusal :=
  .next (
    let f := s.fports[port]
    if f.state ≠ 3 then s
    else if BitVec.ofNat 12 (flitField flit 11 0) ≠ f.rxSeq + 1 then s
    else if upGood port f flit then s.acceptUp port flit
    else
      let s := (s.out (.upAck port f.rxSeq true)).upSend port 1 true 0
      if 2 ≤ f.afail then s.later (.authFailPortDown port)
      else s.onPort port fun f => { f with afail := f.afail + 1 })

/-! The gateway (R41, R50, R51). -/

/-- The agent that serves the requests of other packages. -/
def gatewayAgent : CoreId := coreOf 22 36

/-- The packet that a request of another package carries (R31, R146). -/
def AwayReq.packet (r : AwayReq) : BitVec 6144 := BitVec.ofNat 6144 (slotsValue (r.slots.drop 1))

/-- A travel packet of another package is answered, and is then no longer waiting (R146). -/
def State.answerTravel (s : State) (r : AwayReq) (kind : MsgKind) : State :=
  let h := headOf (r.slots.headD 0)
  let s := { s with
    awayReqs := s.awayReqs.erase r
    agenda := s.agenda.filter (!isArrival r.packet ·)
    hostHeld := s.hostHeld.filter (!isArrival r.packet ·) }
  s.respondAway (coreOf (homeOf h.addr) 36) r.pkg h kind 0 h.addr []

/-- A travel packet of another package at this one (R145, R146): it goes to the home die of its address; it returns when its
context is not valid here, or when no slot has become free within 4,096 cycles. -/
def State.serveTravel (s : State) (r : AwayReq) (again : Instr) : State :=
  let p := r.packet
  match s.ctxReady (BitVec.ofNat 16 (p.toNat / 2 ^ (64 * 36))) with
  | (some _, s) => s.hold again
  | (none, s) =>
    if (s.ctxEntry (BitVec.ofNat 16 (p.toNat / 2 ^ (64 * 36)))).isNone || decide (r.since + 4096 ≤ s.cycles) then
      s.answerTravel r .back
    else if s.agenda.any (isArrival p) || s.hostHeld.any (isArrival p) then s
    else s.later (.travelPacketArrival (Fin.ofNat 16 (homeOf (headOf (r.slots.headD 0)).addr)) p awayLaunch)

/-- A request of another package is served at its home, and its response leaves (R41, R55, R147); after a failed boot it gets no
answer (R23). -/
def State.serveAway (s : State) (r : AwayReq) (again : Instr) : State :=
  let h := headOf (r.slots.headD 0)
  let data := r.slots.drop 1
  let me := coreOf (homeOf h.addr) 36
  let gone := fun (s : State) => { s with awayReqs := s.awayReqs.erase r }
  if s.fenced.getLsbD (homeOf h.addr) ∨ s.bootState = 2 then gone s
  else
    match h.kind with
    | .courier => (gone s).courierArrive (courierIn data) h.tag 0 (some (r.pkg, r.slots.headD 0))
    | .travel => s.serveTravel r again
    | .read =>
      if !s.isDevMem h.addr then (gone s).respondAway me r.pkg h .error 0x13 h.addr []
      else
        match s.serveRead gatewayAgent h.addr h.n false with
        | (.done v, s) => (gone s).respondAway me r.pkg h .data h.n h.addr (dataSlots v h.n)
        | (.wait _, s) => s.hold again
        | (.fail c, s) => (gone s).respondAway me r.pkg h .error c.toNat h.addr []
    | .write =>
      if !s.isDevMem h.addr then (gone s).respondAway me r.pkg h .error 0x13 h.addr []
      else
        match s.serialise ⟨gatewayAgent, 0, 0, false⟩ h.addr h.n (slotsValue data % 256 ^ h.n) with
        | (.done _, s) => ((gone s).finishKills gatewayAgent 0).respondAway me r.pkg h .ack 0 h.addr []
        | (.wait _, s) => s.hold again
        | (.fail c, s) => (gone s).respondAway me r.pkg h .error c.toNat h.addr []
    | .chunk => (gone s).respondAway me r.pkg h .ack 0 h.addr []
    | .data | .ack | .error | .record | .back => gone s

/-- The first request of a core and tag from another package. -/
def State.awayReq (s : State) (core : CoreId) (tag : BitVec 10) : Option AwayReq :=
  s.awayReqs.find? fun r => match r.slots with
    | [] => false
    | q :: _ => coreOf (headOf q).src (headOf q).agent == core && (headOf q).tag == tag.toNat

/-- Whether an earlier request of a request's flow has not left the gateway yet (R41). -/
def State.flowWaits (s : State) (o : Outstanding) : Bool :=
  match s.outstanding.find? fun x => x.core == o.core && x.pkg == o.pkg && x.vn == o.vn && x.plane.isNone with
  | some x => x.tag != o.tag
  | none => false

/-- The messages of a request leave on a port, and each request of its message knows its flit (R41, R49). -/
def State.sendOn (s : State) (p : Fin 36) (o : Outstanding) : State :=
  let s := o.msgs.foldl (fun s m => s.upSend p 0 false (upPayload o.pkg s.pkgid.toNat o.vn m)) s
  let seq := s.fports[p].txSeq
  { s with outstanding := s.outstanding.map fun (x : Outstanding) =>
      if x.core == o.core && x.tag == o.tag && x.pkg == o.pkg then { x with plane := some p.val, flit := some seq } else x }

/-- R41, R50: a request leaves on its flow's plane, waits while the flow holds or the port cannot send it, or is answered at
once; a request of another package is served. -/
def execGatewayRequest (core : CoreId) (tag : BitVec 10) (pkg : BitVec 8) (vn : Fin 4) (s : State) :
    Host.Outcome State Fault Refusal :=
  .next (
    let again : Instr := .gatewayRequest core tag pkg vn
    if pkg = s.pkgid then
      match s.awayReq core tag with
      | none => s
      | some r => s.serveAway r again
    else
      match s.outstanding.find? fun o => o.core == core && o.tag == tag.toNat && o.pkg == pkg.toNat with
      | none => s
      | some o =>
        if o.plane.isSome then s
        else if (s.livePlanes pkg.toNat).isEmpty then s.later (.errorResponseArrival core tag 0x10)
        else if s.flowWaits o then s.hold again
        else
          match s.holdFlows.planeOf core pkg.toNat vn.val with
          | (none, s) => s
          | (some p, s) =>
            if h : p < 36 then
              if s.fports[p].ready vn.val (max o.msgs.length 1) then (s.sendOn ⟨p, h⟩ o).requeueHeld else s.hold again
            else s)

/-- R41: the flow takes a new plane once each of its earlier requests has its response. -/
def execGatewayFlowRemap (core : CoreId) (pkg : BitVec 8) (vn : Fin 4) (s : State) : Host.Outcome State Fault Refusal :=
  .next (match s.flows.find? fun f => f.core == core && f.pkg == pkg.toNat && f.vn == vn.val with
    | none => s
    | some f =>
      let mine := s.outstanding.filter f.has
      if !f.holding || mine.any (fun o => o.plane == some f.plane) then s
      else
        let s := { s with flows := s.flows.erase f }
        ((mine.filter fun o => o.plane.isNone).foldl
          (fun s o => s.later (.gatewayRequest core (BitVec.ofNat 10 o.tag) pkg vn)) s).sendResponses)

/-- R51: an alert, and the outcome is unknown (R52). -/
def execFabricTimeout (core : CoreId) (tag : BitVec 10) (s : State) : Host.Outcome State Fault Refusal :=
  .next (match s.outstanding.find? fun o => o.core == core && o.tag == tag.toNat && o.plane.isSome with
    | none => s
    | some o =>
      let sock := match o.plane with
        | some p => if p < 18 then 22 else 23
        | none => 22
      (s.alert 0x03 sock 0 [w64 o.pkg, w64 o.tag]).later (.errorResponseArrival core tag 0x11))

/-! The link table (R42, R43). -/

/-- Entries put into the table; reserved bits read 0. -/
def tablePut (t : Vector Word 256) (es : List (BitVec 8 × Word)) : Vector Word 256 :=
  es.foldl (fun t e => t.setIfInBounds e.1.toNat (e.2 &&& 0x1FFFFFFFFF)) t

/-- What a new table does: flows and held requests follow it, collectives recompute or go on. -/
def State.tableApplied (s : State) : State := s.holdFlows.remapFlows.answerHeld.colEdges.sendResponses.requeueHeld

/-- R43: the next generation is applied; a later one makes the table stale. While the table is stale a generation is
ignored, even the next one, since the full table comes (log 67). -/
def execLinkTableGeneration (gen : BitVec 32) (changes : List (BitVec 8 × Word)) (s : State) :
    Host.Outcome State Fault Refusal :=
  .next (
    if s.ltStale then s
    else if gen = s.ltGen + 1 then
      ({ s with ltGen := gen, linkTable := tablePut s.linkTable changes }).tableApplied
    else if s.ltGen < gen then ({ s with ltStale := true }).askTable
    else s)

/-- R43: the full table that was asked for. -/
def execFullTableInstall (gen : BitVec 32) (entries : List (BitVec 8 × Word)) (s : State) :
    Host.Outcome State Fault Refusal :=
  .next (
    if s.ltPending then
      ({ s with
        ltGen := gen, ltStale := false, ltPending := false
        linkTable := tablePut (Vector.replicate 256 0) entries }).tableApplied
    else s)

/-! The package split (R53 to R57). -/

/-- The core dies of a mask. -/
def coreDies (m : BitVec 24) : Nat := ((List.range 16).filter fun d => m.getLsbD d).length

/-- Whether a group continues (R54). -/
def groupContinues (r l : BitVec 24) : Bool :=
  let rest := l &&& ~~~r
  (r.getLsbD 20 || r.getLsbD 21) &&
    (decide (coreDies rest < coreDies r) || (coreDies r == coreDies rest && r.getLsbD 20))

/-- The host die of a CXL port (R58). -/
def cxlSock (p : Nat) : Nat := if p < 2 then 20 else 21

/-- The dies of a mask are fenced (R55): their cores halt with their copies and save nothing, their homes stop answering, and
their ports go down. -/
def State.fence (s : State) (r : BitVec 24) : State :=
  let s := s.mapCores fun c k =>
    if r.getLsbD (sockOf c) then { k with
      stopped := true, copies := k.copies.map fun (x : Copy) => { x with stopped := true } } else k
  { s with fenced := s.fenced ||| r }

/-- The ports of the dies of a mask go down: what their loss means for the others follows (R49, R68). -/
def State.portsDown (s : State) (r : BitVec 24) : State :=
  let s := (List.finRange 4).foldl (fun s p =>
    if r.getLsbD (cxlSock p.val) && s.cxl[p].up then s.later (.cxlPortDown p) else s) s
  (List.finRange 36).foldl (fun s p => if r.getLsbD (portSock p).val then s.later (.scaleupPortDown p) else s) s

/-- A group fences itself (R54, R55). When every live socket is fenced the package stops serving: nothing that is due
happens. -/
def State.fenceGroup (s : State) (r : BitVec 24) : State :=
  let s := s.fence r
  if s.liveMask &&& ~~~s.fenced = 0 then
    { s with
      agenda := []
      cxl := s.cxl.map fun p => { p with up := false }
      fports := s.fports.map fun f => { f with state := 0 } }
  else s.portsDown r

/-- An uncorrectable internal error on every port of the group that is up (R57, R82). -/
def State.splitErrors (s : State) (r : BitVec 24) : State :=
  (List.range 4).foldl (fun s p =>
    if r.getLsbD (cxlSock p) && ((s.cxl[p]?).map (·.up)).getD false then s.out (.aer true p) else s) s

/-- The continuing group (R54, R56, R57): the mask shrinks, the wait begins, cores and ports of the fenced dies are gone, and
the host is told by a host die of the group (log 44). -/
def State.continueWithout (s : State) (gone : BitVec 24) : State :=
  let live := s.liveMask &&& ~~~gone
  let old := match s.splitWait with
    | some w => w.1
    | none => 0
  let s := { s with preSplit := s.liveMask, liveMask := live, splitWait := some (gone ||| old, s.cycles) }
  let src := if live.getLsbD 20 then 20 else 21
  (((s.fence gone).splitErrors live).alert 0x04 src 0 [gone.setWidth 64, live.setWidth 64]).portsDown gone

/-- R53, R54: a host die's group is smaller than the live mask. A group decides from the live mask as it stood before the
split, also when another group has already decided. -/
def execSplitDetect (group : BitVec 24) (s : State) : Host.Outcome State Fault Refusal :=
  .next (
    let l := if group &&& s.liveMask = 0 then s.preSplit else s.liveMask
    let r := group &&& l
    if r = 0 ∨ l &&& ~~~r = 0 then s
    else if l = s.liveMask ∧ groupContinues r l then s.continueWithout (l &&& ~~~r)
    else s.fenceGroup r)

/-- Dirty data of the fenced dies' caches is lost (R56): lines and tiles of live homes show their memory again. -/
def State.loseDirty (s : State) (gone : BitVec 24) : State :=
  let s := s.lines.foldl (fun s p =>
    match p.2.held with
    | some h =>
      if gone.getLsbD h then
        let s := (List.range 8).foldl (fun s j =>
          let pa := 128 * p.1 + 16 * j
          if (s.tileOver pa).isNone then s.dropDirty pa 16 else s) s
        (s.setLine p.1 (s.lineAt p.1).freed).uncache p.1
      else s
    | none => s) s
  s.tiles.foldl (fun s p =>
    let t := p.2
    if t.tstate = .owned ∧ gone.getLsbD (sockOf t.owner) then
      let s := (t.sectors p.1).foldl (fun s pa => s.dropDirty pa 16) s
      { s with tiles := mapSet s.tiles p.1 { t.clean with tstate := .home } }
    else if t.tstate = .inForward ∧ gone.getLsbD (sockOf t.ftgt) then s.later (.tilePushError p.1 0x13)
    else s) s

/-- R56: the wait is over; memory behind the fenced dies is lost, with the host lines that they held, and held accesses and
fault-queue writes run again. -/
def execSplitWaitExpire (s : State) : Host.Outcome State Fault Refusal :=
  .next (match s.splitWait with
    | none => s
    | some (gone, _) =>
      let s := { s with splitWait := none }
      let s := s.loseDirty gone
      let s := (s.hostLines.filter fun q => gone.getLsbD (homeOf (64 * q.1))).foldl (fun (s : State) q => { s with
        hostLines := mapErase s.hostLines q.1, mem := memWrite s.mem (64 * q.1) 64 0 }) s
      let s := { s with
        lostDies := s.lostDies ||| gone
        tiles := s.tiles.map fun (p : Nat × Tile) =>
          if gone.getLsbD (homeOf p.1) then (p.1, { p.2 with tstate := .lost }) else p
        replicas := s.replicas.filter fun r => !gone.getLsbD r.die }
      (s.serveHeld fun w => w == .split).retryQueues.requeueHeld)

/-! The alleys (R38). -/

/-- R38: no more steals cross the link. -/
def execAlleyLinkDown (a b : Fin 16) (s : State) : Host.Outcome State Fault Refusal :=
  .next { s with alleysDown := s.alleysDown ++ [(a.val, b.val)] }

end Sys2Proof.Machine
end

