-- ==== Sys2Proof/Machine/HostIf.lean ====
section
/-! DEFINITION. The host (R58 to R68): decoders, host reads and writes of device memory, back-invalidation, CXL ports, host
lines and snoops; the mailboxes and the firmware behind them (R71 to R75); responses, error responses and acknowledgements
(R13, R31, R52, R161). -/

namespace Sys2Proof.Machine

/-! Decoders (R59). -/

/-- The settings of a decoder. -/
def CxlPort.settings (p : CxlPort) : HdmDecoder := ⟨p.hostBase, p.dpaBase, p.size, p.ways, p.gran⟩

/-- Ways and granularity that a decoder allows. -/
def decoderOk (d : HdmDecoder) : Bool :=
  (d.ways == 1 || d.ways == 2 || d.ways == 4) && [256, 512, 1024, 2048, 4096, 8192, 16384].contains d.gran

/-- Whether the device answers the host on CXL.mem and BAR0: not after a failed boot (R23). -/
def State.answersHost (s : State) : Bool := s.bootState != 2

/-- R59: the settings must equal those of every decoder that is committed; else the commit fails with the error-not-committed
status, and the port maps nothing. -/
def execHdmDecoderCommit (port : Fin 4) (dec : HdmDecoder) (s : State) : Host.Outcome State Fault Refusal :=
  .next (
    let same := (List.finRange 4).all fun q => q == port || !s.cxl[q].committed || s.cxl[q].settings == dec
    let ok := decoderOk dec && same
    if !s.answersHost then s
    else { s with cxl := s.cxl.set port { s.cxl[port] with
        committed := ok, failed := !ok
        hostBase := dec.hostBase, dpaBase := dec.dpaBase, size := dec.size, ways := dec.ways, gran := dec.gran } })

/-- What a host read of BAR0 returns at an offset (R60): a mailbox or alert register, or zero; nothing answers it after a failed
boot (R23). -/
def State.barRead (s : State) (off : Nat) : Option Word :=
  if s.answersHost then
    some (match mregAt (0xF0014000000 + off) 8 with
      | some r => if off < 0x2000000 && r.hostSees then s.readMReg r else 0
      | none => 0)
  else none

/-- What a configuration read of the designated vendor-specific capability of a port function returns (R83): BOOTST at offset
0x10, also after a failed boot (R23); the manual gives the capability no other register. -/
def State.configRead (s : State) (off : Nat) : Option (BitVec 32) :=
  if off = 0x10 then some (s.bootst.setWidth 32) else none

/-- Whether a CXL.mem request for an address is accepted (R23, R59). -/
def State.hostReaches (s : State) (pa : Nat) : Bool :=
  s.answersHost && s.isDevMem pa && (List.finRange 4).any fun p => s.cxl[p].up && s.portMaps p (halfOf pa)

/-! Host requests (R61 to R64). -/

/-- Whether a host request for a half waits: for the end of the line's transaction, for the access that the BISnp was sent for,
for a forward, for the end of the wait after a split, or for the recovery of a broken entry (R56, R62, R90, R92, R100). -/
def State.hostWaits (s : State) (half : Nat) : Bool :=
  (s.busyHalf (half / 2)).isSome ||
    (s.coreList.any fun c => (s.getCore c).slots.toList.any fun t => t.owes == some half) ||
    (s.forwarding (64 * half) 64).isSome || s.heldBySplit (64 * half) || (s.lineAt (half / 2)).broken

/-- A host request waits; a broken entry is recovered first (R110). -/
def State.hostHold (s : State) (half : Nat) (again : Instr) : State :=
  (if (s.lineAt (half / 2)).broken then s.recover (half / 2) else s).hold again

/-- Whether a half holds a covered sector of a declared tile. -/
def State.halfCovered (s : State) (half : Nat) : Bool :=
  (List.range 4).any fun j => (s.tileOver (64 * half + 16 * j)).isSome

/-- The current value of a half. -/
def State.halfData (s : State) (half : Nat) : BitVec 512 := BitVec.ofNat 512 (s.physRead (64 * half) 64)

/-- A holder's copy is made clean (R61). -/
def State.makeClean (s : State) (line : Nat) : State :=
  let e := s.lineAt line
  if e.state = 2 then
    let s := s.lineWriteBack line
    s.setLine line { (s.lineAt line) with state := 1, dirty := 0, tag := 0 }
  else s

/-- The host as the writer of a line: no core of the package. -/
def hostSource : Source := ⟨coreOf 20 63, 0, 0, false⟩

/-! Room in a home's directory (R93). -/

/-- Whether a transaction that the spec lets wait runs on a line: a kill or a back-invalidation that is not answered. -/
def State.inTransaction (s : State) (line : Nat) : Bool :=
  (s.kills.any fun k => k.line == line) || s.bisnps.any fun p => p.1 / 2 == line

/-- The entry that makes room for a line (R93): one whose eviction is going on, else the least recently used that has no
transaction in progress; never one with TOV = 1. -/
def State.victim (s : State) (line : Nat) : Option Nat :=
  let inSet := s.lines.filter fun p => sameSet line p.1 && p.1 != line && !p.2.tov
  match inSet.find? fun p => s.evicting.contains p.1 with
  | some p => some p.1
  | none => (inSet.reverse.find? fun p => !s.inTransaction p.1).map (·.1)

/-- Armed watch entries on a line may trigger when its entry is evicted (R324). -/
def State.mayTrigger (s : State) (line : Nat) : State :=
  let hit := s.freeBit.1
  s.freeBit.2.mapThreads fun _ _ t => if hit then t.trigger line else t

/-- R93: an eviction goes on by one step: the kills, then the back-invalidations, then the recall; the answer says whether the
entry is free. -/
def State.evictEntry (s : State) (line : Nat) : Bool × State :=
  let e := s.lineAt line
  let going := { s with
    evicting := if s.evicting.contains line then s.evicting else s.evicting ++ [line] }
  if s.kills.any fun k => k.line == line then (false, going)
  else if e.wat && e.wset != 0 then (false, going.sendKills line hostSource.core hostSource.tid)
  else
    match [2 * line, 2 * line + 1].filter fun h => s.hostState h != 0 with
    | h :: r => (false, (h :: r).foldl (fun s h => s.sendBisnp (homeAgent (128 * line), 0) h false) going)
    | [] =>
      let s := ((s.recall line).uncache line).mayTrigger line
      (true, { s with
        lines := mapErase s.lines line
        evicting := s.evicting.filter (· != line) })

/-- R93: room made for a line's entry; false while the evictions that it takes go on, or when no entry can be evicted. -/
def State.makeRoom (line : Nat) : Nat → State → Bool × State
  | 0, s => (s.roomFor line, s)
  | n + 1, s =>
    if s.roomFor line then (true, s)
    else
      match s.victim line with
      | none => (false, s)
      | some v =>
        match s.evictEntry v with
        | (true, s) => State.makeRoom line n s
        | r => r

/-! Host reads and writes (R61, R63). -/

/-- A host request for a line comes between the requests of the dies: none of them is consecutive with an earlier one
(R91). -/
def State.hostAsked (s : State) (line : Nat) : State :=
  match (s.lineAt line).held with
  | some _ => s.setLine line { s.lineAt line with away := 0, awayDie := 0 }
  | none => s

/-- A host read of data that stands in memory enters the channel's sort buffer (R114). -/
def State.hostTake (s : State) (pa : Nat) : State :=
  if (s.lineAt (lineOf pa)).held.isNone && (sectorsOf pa 64).any fun q => (s.tileOver (16 * q)).isNone then s.channelTake pa false
  else s.frameTake pa 64 false

/-- A host read served (R61, R63, R64): data marked poisoned, current data with state I, or S or A granted. -/
def State.hostRead (s : State) (half : Nat) (wantA : Bool) : State :=
  let pa := 64 * half
  let s := (s.hostAsked (half / 2)).hostTake pa
  if s.lostAt pa || s.poisonedIn pa 64 then s.out (.hostData pa (s.halfData half) true 0)
  else if s.halfCovered half then s.out (.hostData pa (s.halfData half) false 0)
  else if wantA then
    let s := ((s.recall (half / 2)).invalidateOthers (half / 2) hostSource.core).setHostState half 2
    s.out (.hostData pa (s.halfData half) false 2)
  else
    let s := (s.makeClean (half / 2)).setHostState half 1
    s.out (.hostData pa (s.halfData half) false 1)

/-- R61. A line that needs an entry finds room in its set first (R93). -/
def execHostMemRead (pa : Nat) (wantA : Bool) (s : State) : Host.Outcome State Fault Refusal :=
  .next (
    if !s.hostReaches pa then s
    else if s.hostWaits (halfOf pa) then s.hostHold (halfOf pa) (.hostMemRead pa wantA)
    else
      match State.makeRoom (lineOf pa) s.lines.length s with
      | (false, s) => s.hold (.hostMemRead pa wantA)
      | (true, s) => s.hostRead (halfOf pa) wantA)

/-- A host write serialised at the home (R63): the holder is recalled and the write performed, in the tile's owner where it
lands in a tile. The rule names no new host state of the half, which stays as it was (log 82). -/
def State.hostWrite (s : State) (pa n v : Nat) : State :=
  let s := (((s.recall (lineOf pa)).channelTake pa true).storeBytes hostSource pa n v).clearMarks pa n
  s.lineWritten hostSource (lineOf pa)

/-- R63, R112. A write of part of a poisoned sector cannot be performed; it is completed normally and nothing reports it
(log 68). The alert of a write to lost memory names the home of the address (log 82). -/
def execHostMemWrite (pa n : Nat) (data : BitVec 512) (s : State) : Host.Outcome State Fault Refusal :=
  .next (
    if n = 0 ∨ 64 < pa % 64 + n ∨ !s.hostReaches pa then s
    else if s.lostAt pa then (s.alert 0x06 (homeOf pa) 0 [w64 pa, 0x13]).out (.hostDone pa)
    else if s.hostWaits (halfOf pa) then s.hostHold (halfOf pa) (.hostMemWrite pa n data)
    else if s.partPoisoned pa n then s.out (.hostDone pa)
    else (s.hostWrite pa n (data.toNat % 256 ^ n)).out (.hostDone pa))

/-! Back-invalidation (R62, R65). -/

/-- Data that the host returns for a half becomes the device's value, also where a DISC has sent the BISnp: it is then the value
after the DISC (log 71). -/
def State.hostReturns (s : State) (half : Nat) (d : BitVec 512) : State :=
  let pa := 64 * half
  (((s.dropDirty pa 64).channelTake pa true).storeBytes hostSource pa 64 d.toNat |>.clearMarks pa 64).lineWritten hostSource
    (half / 2)

/-- Host requests for the half wait for the access of a thread that has waited for it (R62). -/
def Thread.birsp (half : Nat) (t : Thread) : Thread :=
  if t.status = .parked (.bisnp half) then { t with owes := some half } else t

/-- Whether a wait is for a BISnp on a port. -/
def State.waitsPort (s : State) (port : Nat) : Wait → Bool
  | .bisnp h => s.bisnpPort h == port
  | _ => false

/-- The oldest request in a holding entry for a BISnp on a port is served (R36, R65). -/
def State.bisnpRoom (s : State) (port : Nat) : State :=
  match s.holdings.find? fun h => h.cls != .tile && s.waitsPort port h.wait with
  | some h => s.later (.holdingEntryServe (Fin.ofNat 24 h.home) h.cls)
  | none => s

/-- R62: the accesses that wait perform, in order of arrival, then held host requests are served. -/
def execBirspReceive (half : Nat) (data : Option (BitVec 512)) (s : State) : Host.Outcome State Fault Refusal :=
  .next (match s.bisnps.find? fun b => b.1 == half with
    | none => s
    | some b =>
      let s := { s with bisnps := s.bisnps.filter fun b => b.1 != half }
      let s := match data with
        | some d => s.hostReturns half d
        | none => s
      let s := s.setHostState half (if b.2.2 then 1 else 0)
      let s := (s.mapThreads fun _ _ t => t.birsp half).serveHeld fun w => w == .bisnp half
      s.retryQueues.requeueHeld.bisnpRoom b.2.1)

/-- R65: after 10 ms without a BIRsp the port goes down. -/
def execBisnpTimeout (half : Nat) (s : State) : Host.Outcome State Fault Refusal :=
  .next (match s.bisnps.find? fun b => b.1 == half with
    | some b => s.later (.cxlPortDown (Fin.ofNat 4 b.2.1))
    | none => s)

/-! CXL ports and host lines (R66 to R68). -/

/-- The halves of a line entry that a port's decoder maps lose their host state (R68). -/
def State.forgetHost (s : State) (p : Fin 4) : State :=
  s.lines.foldl (fun s l =>
    [2 * l.1, 2 * l.1 + 1].foldl (fun s h => if s.portMaps p h then s.setHostState h 0 else s) s) s

/-- A half of a host line is dropped; a dirty one is lost, and its loss is charged to its dirty tag (R68). -/
def State.dropHostHalf (s : State) (half : Nat) (v : HostLine) : State :=
  let pa := 64 * half
  let s := { s with hostLines := mapErase s.hostLines half, mem := memWrite s.mem pa 64 0 }
  if 3 ≤ v.st then
    s.notice (homeOf pa) (noticeEntry s (homeOf pa) 0x12 (BitVec.ofNat 16 (v.st - 3)) 0 0 pa 0)
  else s

/-- R68: the lines that were obtained through the port are dropped, the requests on it fail, and the waits for its BIRsps end;
requests that would use it take the next port that is up. -/
def execCxlPortDown (port : Fin 4) (s : State) : Host.Outcome State Fault Refusal :=
  .next (
    if !s.cxl[port].up then s
    else
      let lines := s.hostLines.filter fun q => q.2.port == port.val
      let reqs := s.outstanding.filter fun o => o.port == some port.val
      let s := s.forgetHost port
      let ended := s.waitsPort port.val
      let s := { s with
        cxl := s.cxl.set port { s.cxl[port] with up := false }
        bisnps := s.bisnps.filter fun b => b.2.1 != port.val }
      let s := lines.foldl (fun s q => s.dropHostHalf q.1 q.2) s
      let s := reqs.foldl (fun s o => s.later (.errorResponseArrival o.core (BitVec.ofNat 10 o.tag) 0x12)) s
      let s := s.alert 0x05 (cxlSock port.val) 0 [0, w64 port.val]
      (s.serveHeld fun w => ended w || w == .slot).retryQueues.requeueHeld)

/-- R58: a port's link is up again; its decoder maps nothing until the host commits it. A fenced host die brings none up
(R55). -/
def execCxlPortUp (port : Fin 4) (s : State) : Host.Outcome State Fault Refusal :=
  .next (
    if s.cxl[port].up || s.fenced.getLsbD (cxlSock port.val) then s
    else
      let s := { s with cxl := s.cxl.set port { s.cxl[port] with up := true, committed := false, failed := false } }
      s.serveHeld fun w => w == .slot)

/-- The data that a snoop returns of a half. -/
def State.snooped (s : State) (half : Nat) (dirty : Bool) : State :=
  s.out (.snoopData half (BitVec.ofNat 512 (memRead s.mem (64 * half) 64)) dirty)

/-- R66: the holder is recalled, dirty data goes back; a watch of the line triggers (R324). A line that the host die has taken
for one atomic is served after it (R313). -/
def execSnpinv (half : Nat) (s : State) : Host.Outcome State Fault Refusal :=
  .next (
    if s.hostTaken (64 * half) then s.hold (.snpinv half)
    else match mapGet s.hostLines half with
      | none => s
      | some v =>
        let s := s.snooped half (decide (3 ≤ v.st))
        ({ s with hostLines := mapErase s.hostLines half, mem := memWrite s.mem (64 * half) 64 0 }).trigger (half / 2))

/-- R66: write ownership is recalled; a clean copy stays. -/
def execSnpdata (half : Nat) (s : State) : Host.Outcome State Fault Refusal :=
  .next (
    if s.hostTaken (64 * half) then s.hold (.snpdata half)
    else match mapGet s.hostLines half with
      | none => s
      | some v =>
        ({ (s.snooped half (decide (3 ≤ v.st))) with
          hostLines := mapSet s.hostLines half { v with st := 1 } }).trigger (half / 2))

/-- R66: the current data, and no state changes. -/
def execSnpcur (half : Nat) (s : State) : Host.Outcome State Fault Refusal :=
  .next (
    if s.hostTaken (64 * half) then s.hold (.snpcur half)
    else match mapGet s.hostLines half with
      | none => s
      | some _ => (s.snooped half false).trigger (half / 2))

/-! Mailboxes (R72). -/

/-- R72: by the host; after a failed boot it is not answered (R23). -/
def execMbinWrite (n : Fin 8) (v : Word) (s : State) : Host.Outcome State Fault Refusal :=
  .next (if s.answersHost then s.writeMbin true n v else s)

/-- R72: by the command core. -/
def execMboutWrite (n : Fin 8) (v : Word) (s : State) : Host.Outcome State Fault Refusal := .next (s.writeMbout false n v)

/-- A field of MBSTAT cleared by a write of 1 that keeps IEN. -/
def State.clearStat (s : State) (host : Bool) (n : Fin 8) (bit : Nat) : State :=
  s.writeMbstat host n (w64 (2 ^ bit + 256 * s.mailboxes[n].ien.toNat))

/-- R72. -/
def execMbstatClearInv (n : Fin 8) (s : State) : Host.Outcome State Fault Refusal := .next (s.clearStat false n 0)

/-- R72: by the host (R23). -/
def execMbstatClearOutv (n : Fin 8) (s : State) : Host.Outcome State Fault Refusal :=
  .next (if s.answersHost then s.clearStat true n 1 else s)

/-- R72: by either writer; after a failed boot no core runs and the host is not answered (R23). -/
def execMbstatClearOvf (n : Fin 8) (inovf : Bool) (s : State) : Host.Outcome State Fault Refusal :=
  .next (if s.answersHost then s.clearStat true n (if inovf then 2 else 3) else s)

/-! Firmware (R73 to R75). -/

/-- The answer to the message in MBIN: INV is cleared and MBOUT carries OP, STATUS and the result (R73). -/
def State.answerHost (s : State) (n : Fin 8) (status result : Nat) : State :=
  let op := bits s.mailboxes[n].mbin 7 0
  (s.clearStat false n 0).writeMbout false n (w64 (op + 256 * status + 65536 * result))

/-- Whether firmware has a message with an operation to answer, and room for the answer; firmware runs once the boot has
succeeded (R22, R23). -/
def State.hostAsks (s : State) (n : Fin 8) (op : Nat → Bool) : Bool :=
  s.bootState == 1 && s.mailboxes[n].inv && !s.mailboxes[n].outv && op (bits s.mailboxes[n].mbin 7 0)

/-- The attestation report before its signature (R74). -/
def State.reportBody (s : State) (nonce : BitVec 256) : List Byte :=
  toBytes 8 s.bootDigests.length ++ s.bootDigests.flatMap (fun d => toBytes 32 d.toNat) ++ toBytes 8 s.fuseMinSec.toNat ++
    s.harvest.toList.flatMap (fun h => toBytes 8 h.toNat) ++ toBytes 32 nonce.toNat

/-- The host address that the argument of the message in MBIN names (R73). -/
def State.hostArg (s : State) (n : Fin 8) : Nat := bits s.mailboxes[n].mbin 63 8 * 256

/-- R73, R74: firmware reads the nonce at the start of the host's buffer, which the event carries, and the report is written
after it. -/
def execMbAttestationReport (n : Fin 8) (nonce : BitVec 256) (s : State) : Host.Outcome State Fault Refusal :=
  .next (
    if s.hostAsks n fun op => op == 1 then
      let a := s.hostArg n
      let body := s.reportBody nonce
      let s := match s.hostPort a with
        | some p => s.out (.cxlRead .rdCurr p a 32)
        | none => s
      (s.out (.report (s.hostPort (a + 32)) (a + 32) (body ++ toBytes 64 (Config.sm2Sign body).toNat))).answerHost n 0
        (240 + 32 * s.bootDigests.length)
    else s)

/-- R73, R75: the queue takes the lowest free number; a control block whose j is out of range is a bad argument. Firmware is
busy when all 256 numbers are taken (log 69). -/
def execMbAttachLaunchQueue (n : Fin 8) (j : BitVec 6) (s : State) : Host.Outcome State Fault Refusal :=
  .next (
    if s.hostAsks n fun op => op == 2 then
      let addr := bits s.mailboxes[n].mbin 63 8 * 256
      if j.toNat < 3 ∨ 16 < j.toNat then s.answerHost n 2 0
      else
        match (List.range 256).find? fun i => !(s.queues.any fun q => q.num == i) with
        | none => s.answerHost n 3 0
        | some i => ({ s with queues := s.queues ++ [(⟨i, addr, n.val⟩ : LaunchQueue)] }).answerHost n 0 i
    else s)

/-- R73: a number that no queue has is a bad argument (log 69). -/
def execMbDetachLaunchQueue (n : Fin 8) (s : State) : Host.Outcome State Fault Refusal :=
  .next (
    if s.hostAsks n fun op => op == 3 then
      let i := bits s.mailboxes[n].mbin 15 8
      if s.queues.any fun q => q.num == i then
        ({ s with queues := s.queues.filter fun q => q.num != i }).answerHost n 0 0
      else s.answerHost n 2 0
    else s)

/-- R73. -/
def execMbUnknownOp (n : Fin 8) (s : State) : Host.Outcome State Fault Refusal :=
  .next (if s.hostAsks n fun op => op == 0 || decide (3 < op) then s.answerHost n 1 0 else s)

/-! Responses (R13, R31, R35). -/

/-- Waits for a response by its tag, and for counters. -/
def waitsTag (tag : Nat) : Wait → Bool
  | .response t => t == tag
  | _ => false
def waitsCounters : Wait → Bool
  | .counters _ | .form _ => true
  | _ => false

/-- The threads of a core whose wait satisfies a test run again. -/
def State.retryOn (s : State) (core : CoreId) (p : Wait → Bool) : State :=
  s.onCore core fun k => { k with slots := k.slots.map (Thread.retryIf p) }

/-- What follows the end of a request: its response slot is free, so that requests that wait for one go on (R35); flows, held
events and saves may go on. -/
def State.requestEnded (s : State) : State := ((s.remapFlows.retry waitsSaving).serveHeld fun w => w == .slot).requeueHeld

/-- A line of host memory arrives (R66): the device shares it, or owns it after RdOwn; a half that it already owns stays as it
is. -/
def State.fillLine (s : State) (o : Outstanding) (data : BitVec 1024) : State :=
  let line := lineOf o.pa
  let s := [2 * line, 2 * line + 1].foldl (fun s h =>
    if s.ownsHost (64 * h) then s
    else
      { s with
        hostLines := mapSet s.hostLines h ⟨if o.owns then 2 else 1, o.port.getD 0⟩
        mem := memWrite s.mem (64 * h) 64 (data.toNat / 2 ^ (512 * (h % 2)) % 2 ^ 512) }) s
  s.dieCrowd (homeOf o.pa) line

/-- A write of an engine has ended: its copy or its operation counts it no more. -/
def State.engEnded (s : State) (o : Outstanding) (id : Nat) : State :=
  let d := if o.devDone then 0 else 1
  let s := s.onCore o.core fun k => { k with
    copies := k.copies.map fun c => if c.id = id then { c with dev := c.dev - d, hst := c.hst - 1 } else c
    colq := k.colq.map fun c => if c.id = id then { c with dev := c.dev - d, hst := c.hst - 1 } else c }
  if (s.colAt o.core id).isSome then s.later (.collectiveStart o.core) else s.later (.copyArrival o.core id)

/-- A read's result with the bytes of the thread's own earlier stores in place (R157). -/
def withOwn (own : List WriteMsg) (pa n : Nat) (data : BitVec 1024) : BitVec 1024 :=
  if own.isEmpty then data
  else BitVec.ofNat 1024 (leRead (fun a => (ownByte own a).getD (BitVec.ofNat 8 (data.toNat / 256 ^ (a - pa)))) pa n)

/-- The host die performs an atomic on the half that it has taken by RdOwn, and returns the line: by DirtyEvict, or by CleanEvict
when nothing has changed (R313). The answer is the old value. -/
def State.hostAtomic (s : State) (w : WriteMsg) (data : BitVec 1024) : Nat × State :=
  match w.amo with
  | none => (0, s)
  | some (op, exp) =>
    let at' := 8 * (w.pa % 64)
    let half := data.toNat % 2 ^ 512
    let old := half / 2 ^ at' % 256 ^ amoWidth op
    let new := amoNew op old w.data.toNat exp.toNat % 256 ^ amoWidth op
    let a := 64 * halfOf w.pa
    (old, if new = old then s.toHost a .cleanEvict none
      else s.toHost a .dirtyEvict (some (BitVec.ofNat 512 (half - old * 2 ^ at' + new * 2 ^ at'))))

/-- A response for an engine is kept while what asked for it goes on: a copy, a collective, or the dispatch and completion
units, which take it up. -/
def State.keepFor (s : State) (core : CoreId) (id : Nat) (g : Got) : State :=
  if decide (dispatchId ≤ id) || (s.copyAt core id).isSome || (s.colAt core id).isSome then
    s.onCore core fun k => { k with got := k.got ++ [{ g with engine := some id }] }
  else s

/-- A response at its requester: that of a host line at its home, which serves what waits for the line; any other at a core. -/
def State.deliver (s : State) (o : Outstanding) (data : BitVec 1024) : State :=
  let (data, s) := match o.amo with
    | some w =>
      let (old, s) := s.hostAtomic w data
      (BitVec.ofNat 1024 old, s)
    | none => (withOwn o.own o.pa o.n data, s)
  let g : Got := ⟨o.pa, o.n, none, data, none⟩
  if o.fill then (if o.evict then s else s.fillLine o data).serveHeld fun x => x == .hostLine (lineOf o.pa)
  else
    match o.engine, o.write with
    | some id, some _ => s.engEnded o id
    | some id, none => if o.n = 0 then s else s.keepFor o.core id g
    | none, some _ =>
      (s.onTid o.core o.tid (Thread.endWrite o.nearDone o.devDone false)).retryOn o.core waitsCounters
    | none, none =>
      let slot : Fin 8 := Fin.ofNat 8 ((s.getCore o.core).slotOfTid o.tid)
      let t := s.getThread o.core slot
      if t.order = o.tid ∧ t.status = .parked .travel then s.departed o.core slot
      else (s.onTid o.core o.tid fun t => { t with got := t.got ++ [g] }).retryOn o.core (waitsTag o.tag)

/-- The requests that one response answers (R31, R147): those of a message, which have its tag. -/
def State.answered (s : State) (core : CoreId) (tag : BitVec 10) : List Outstanding :=
  s.outstanding.filter fun o => o.core == core && o.tag == tag.toNat

/-- Requests answered: they are outstanding no more, and each is ended by a function. -/
def State.endRequests (s : State) (os : List Outstanding) (f : State → Outstanding → State) : State :=
  if os.isEmpty then s
  else (os.foldl f { s with outstanding := s.outstanding.filter (!os.contains ·) }).requestEnded

/-- R31, R35. -/
def execResponseArrival (core : CoreId) (tag : BitVec 10) (data : BitVec 1024) (s : State) :
    Host.Outcome State Fault Refusal :=
  .next (s.endRequests (s.answered core tag) fun s o => s.deliver o data)

/-! Error responses (R13, R52, R140, R230). -/

/-- A write of a copy fails: a copy that has not arrived stops at the failing page; after its arrival the thread keeps a
record (R230). -/
def State.copyWriteFails (s : State) (core : CoreId) (id : Nat) (o : Outstanding) (cause : Byte) (w : WriteMsg) : State :=
  match s.copyAt core id with
  | some c =>
    let back := ((List.range c.next).find? fun i => c.page i == some (w.va.toNat / 65536)).getD c.next
    let s := s.onCopy core id fun c => { c with
      next := back, dev := if o.devDone then c.dev else c.dev - 1, hst := c.hst - 1 }
    if c.stopped then s else s.stopCopy core c (xfail cause 0) w.va w.pa
  | none => s.writeFailedOn core o.tid (sockOf core) false cause w

/-- A collective's access fails: the operation is suspended with detail 5 (R369). -/
def State.colWriteFails (s : State) (o : Outstanding) (c : ColOp) (cause : Byte) (w : WriteMsg) : State :=
  let s := s.onCol o.core c.id fun c => { c with dev := if o.devDone then c.dev else c.dev - 1, hst := c.hst - 1 }
  (s.colFault o.core c (xfail cause 0) w.va w.pa).later (.collectiveStart o.core)

/-- A transfer of a collective is lost: a running operation recomputes (R373). -/
def State.colTransferLost (s : State) (core : CoreId) (id : Nat) : State :=
  match s.colAt core id with
  | some c => if c.state = 2 then s.colRecompute core c else s
  | none => s

/-- Writes that wait for a host line fail with it. -/
def State.failFills (s : State) (line : Nat) (cause : Byte) : State :=
  s.coreList.foldl (fun s c =>
    ((s.getCore c).inflight.filter fun p => regionOf p.msg.pa == .host && (linesOf p.msg.pa p.msg.n).contains line).foldl
      (fun s p =>
        let s := s.onCore c fun k => { k with inflight := k.inflight.erase p }
        (s.onTid c p.tid (Thread.endWrite p.near false false)).writeFailedOn c p.tid (sockOf c) (!p.near) cause p.msg) s) s

/-- The number by which the completion writes of a launch are known, by its supervising command core (R79). -/
def doneId (sup : Nat) : Nat := 2 ^ 64 + 1 + sup

/-- A completion write of a launch fails: a raised notice in its context (R79). -/
def State.doneFails (s : State) (core : CoreId) (sup : Nat) (cause : Byte) (ctx : BitVec 16) (va : Word) (pa : Nat) : State :=
  s.notice (sockOf core) (noticeEntry s (sockOf core) cause ctx va 0 pa sup)

/-- A home does not get a host line (R66): the writes that wait for it fail, who asked keeps the failure, and what waits for the
line runs again. -/
def State.fillFails (s : State) (o : Outstanding) (cause : Byte) : State :=
  let g : Got := ⟨o.pa, o.n, some cause, 0, none⟩
  let s := if o.evict then s
    else
      let s := s.failFills (lineOf o.pa) cause
      match o.engine with
      | some id => s.keepFor o.asker id g
      | none => if o.tid = 0 then s else s.onTid o.asker o.tid fun t => { t with got := t.got ++ [g] }
  s.serveHeld fun x => x == .hostLine (lineOf o.pa)

/-- An error response at its requester. -/
def State.deliverError (s : State) (o : Outstanding) (cause : Byte) : State :=
  let g : Got := ⟨o.pa, o.n, some cause, 0, none⟩
  if o.fill then s.fillFails o cause
  else
  match o.engine, o.write with
  | some id, some w =>
    match s.colAt o.core id with
    | some c => s.colWriteFails o c cause w
    | none =>
      if doneId 0 ≤ id then s.doneFails o.core (id - doneId 0) cause w.ctx w.va w.pa
      else s.copyWriteFails o.core id o cause w
  | some id, none =>
    if o.n = 0 then s.colTransferLost o.core id else s.keepFor o.core id g
  | none, some w =>
    let s := s.onTid o.core o.tid (Thread.endWrite o.nearDone o.devDone false)
    (s.writeFailedOn o.core o.tid (sockOf o.core) (!o.nearDone) cause w).retryOn o.core waitsCounters
  | none, none =>
    (s.onTid o.core o.tid fun t =>
      if t.status = .parked .travel then t.stayHere else { t with got := t.got ++ [g] }).retryOn o.core (waitsTag o.tag)

/-- R13, R52. -/
def execErrorResponseArrival (core : CoreId) (tag : BitVec 10) (cause : Byte) (s : State) :
    Host.Outcome State Fault Refusal :=
  .next (s.endRequests (s.answered core tag) fun s o => s.deliverError o cause)

/-! Acknowledgements of writes (R161). -/

/-- The counts of a write's operation that end at a level: those of its copy or collective, else of its thread (R161). -/
def State.countsEnd (s : State) (o : Outstanding) (near dev hst : Bool) : State :=
  match o.engine with
  | none => s.onTid o.core o.tid (Thread.endWrite (!near) (!dev) (!hst))
  | some id =>
    let f := fun (d h : Nat) => ((if dev then d - 1 else d), if hst then h - 1 else h)
    s.onCore o.core fun k => { k with
      copies := k.copies.map fun (c : Copy) => if c.id = id then { c with dev := (f c.dev c.hst).1, hst := (f c.dev c.hst).2 } else c
      colq := k.colq.map fun (c : ColOp) => if c.id = id then { c with dev := (f c.dev c.hst).1, hst := (f c.dev c.hst).2 } else c }

/-- What an engine does when a count of its writes has ended. -/
def State.engineOn (s : State) (o : Outstanding) : State :=
  match o.engine with
  | some id => if (s.colAt o.core id).isSome then s.later (.collectiveStart o.core) else s.later (.copyArrival o.core id)
  | none => s

/-- One count of a write outside the package ends; the last one ends the request. -/
def State.ackOut (s : State) (o : Outstanding) (level : Level) : State :=
  let ends := level == .host || (level == .device && !s.isLocal o.pa)
  let o' : Outstanding := { o with nearDone := true, devDone := o.devDone || level != .near }
  let s := (s.countsEnd o (!o.nearDone) (!o.devDone && level != .near) ends).engineOn o
  if ends then ({ s with outstanding := s.outstanding.erase o }).requestEnded
  else { s with outstanding := s.outstanding.map fun x => if x = o then o' else x }

/-- R161: the oldest write of the thread, or of an engine for it, that is still counted at the level. -/
def execWriteAck (core : CoreId) (slot : Fin 8) (level : Level) (s : State) : Host.Outcome State Fault Refusal :=
  .next (
    let tid := (s.getThread core slot).order
    let out := s.outstanding.find? fun o => o.core == core && o.tid == tid && o.write.isSome && o.amo.isNone &&
      (match level with
       | .near => !o.nearDone
       | .device => !o.devDone
       | .host => true)
    let s := match level, (s.getCore core).inflight.find? fun p => p.tid == tid && !p.near, out with
      | .near, some p, _ =>
        let s := s.onCore core fun k => { k with inflight := k.inflight.map fun q => if q = p then { q with near := true } else q }
        s.onTid core tid fun t => { t with near := t.near - 1 }
      | _, _, some o => s.ackOut o level
      | _, _, none => s
    s.retryOn core waitsCounters)

end Sys2Proof.Machine
end

