-- ==== Sys2Proof/Machine/Directory.lean ====
section
/-! DEFINITION. The events of homes, die caches and memory channels (R90, R91, R100, R107, R109 to R115), and the end of a page
walk (R123, R124). -/

namespace Sys2Proof.Machine

/-! Requests at a home. -/

/-- Room made for the lines that a core's request needs an entry for; a command core's request needs none (R90). -/
def State.roomForAll (s : State) (core : CoreId) (ls : List Nat) : Bool × State :=
  if isCmd core then (true, s)
  else ls.foldl (fun r l => if r.1 then State.makeRoom l r.2.lines.length r.2 else r) (true, s)

/-- R90, R93: a read by a core arrives at the home of its line. The home itself, as agent 36 (R31), reads nothing: it makes room
in a set that a new entry has filled beyond its ways. -/
def execHomeLineRead (core : CoreId) (pa : Nat) (s : State) : Host.Outcome State Fault Refusal :=
  .next (
    if !s.isDevMem pa then s
    else
      match s.roomForAll core [lineOf pa] with
      | (false, s) => s.hold (.homeLineRead core pa)
      | (true, s) =>
        if siteOf core = homeSite then s
        else
          match s.serveRead core pa 1 (!isCmd core) with
          | (.wait _, s) => s.hold (.homeLineRead core pa)
          | (_, s) => s)

/-- The writes on their way that arrived earlier at the home of a line that a write touches (R90). -/
def State.olderAtHome (s : State) (p : Pending) : List (CoreId × Pending) :=
  sortBy (fun q => q.2.msg.seq) (s.coreList.flatMap fun c => ((s.getCore c).inflight.filter fun q =>
    decide (q.msg.seq < p.msg.seq) && s.isDevMem q.msg.pa &&
      (linesOf q.msg.pa q.msg.n).any (linesOf p.msg.pa p.msg.n).contains).map fun q => (c, q))

/-- One write on its way is serialised in its order of arrival: behind the earlier writes of its lines, and behind the requests
that were held before it came (R90). A held one waits with its event. -/
def State.serialiseNext (s : State) (core : CoreId) (p : Option Pending) (again : Instr) : State :=
  match p with
  | none => s
  | some p =>
    if s.rerun.any fun q => decide ((s.getThread q.1 q.2).came ≤ p.msg.seq) then s.hold again
    else
      match s.performSeq (s.olderAtHome p) with
      | (.done _, s) =>
        match s.perform core p with
        | (.wait _, s) => s.hold again
        | (_, s) => s.retryOn core waitsCounters
      | (_, s) => s.hold again

/-- R90, R93: write number `ix` of those a core has on their way. -/
def execHomeLineStore (core : CoreId) (ix : Nat) (s : State) : Host.Outcome State Fault Refusal :=
  .next (
    let p := (s.getCore core).inflight[ix]?
    let ls := match p with
      | some p => if s.isDevMem p.msg.pa then linesOf p.msg.pa p.msg.n else []
      | none => []
    match s.roomForAll core ls with
    | (false, s) => s.hold (.homeLineStore core ix)
    | (true, s) => s.serialiseNext core p (.homeLineStore core ix))

/-- R100: an access to a covered sector arrives at the home: a read, or the core's oldest write on its way to it. -/
def execHomeTileAccess (core : CoreId) (pa : Nat) (store : Bool) (s : State) : Host.Outcome State Fault Refusal :=
  .next (
    if (s.tileOver pa).isNone then s
    else if store then
      s.serialiseNext core
        ((s.getCore core).inflight.find? fun p => decide (p.msg.pa ≤ pa ∧ pa < p.msg.pa + p.msg.n))
        (.homeTileAccess core pa store)
    else
      match s.serveRead core pa 1 (!isCmd core) with
      | (.wait _, s) => s.hold (.homeTileAccess core pa store)
      | (_, s) => s)

/-- R109. -/
def execHomeDiscard (line : Nat) (s : State) : Host.Outcome State Fault Refusal :=
  .next (
    if !s.isDevMem (128 * line) then s
    else
      match s.discard hostSource line with
      | (.wait _, s) => s.hold (.homeDiscard line)
      | (_, s) => s)

/-! Holders (R90, R91, R113, R115). -/

/-- R90: the holder evicts a line. -/
def execLineWriteBack (line : Nat) (s : State) : Host.Outcome State Fault Refusal :=
  .next ((s.recall line).uncache line)

/-- R91: only after 16 consecutive requests from one die other than the holder. -/
def execLineMigration (line : Nat) (die : Fin 16) (s : State) : Host.Outcome State Fault Refusal :=
  .next (
    let e := s.lineAt line
    match e.held with
    | none => s
    | some h =>
      if h = die.val ∨ e.away < 16 ∨ e.awayDie ≠ die.val then s
      else
        let s := (s.recall line).uncache line
        (s.setLine line { (s.lineAt line) with
          state := 1, holder := BitVec.ofNat 4 die.val, valid := s.openMask line }).dieCrowd die.val line)

/-- The uncovered sectors of a line in a set of sectors. -/
def State.freeSectors (s : State) (line : Nat) (m : BitVec 8) : List Nat :=
  (List.range 8).filter fun j => m.getLsbD j && (s.tileOver (128 * line + 16 * j)).isNone

/-- Sectors written to memory as poisoned (R112). -/
def State.poisonSectors (s : State) (qs : List Nat) : State := { s with psect := s.psect ++ qs.filter (!s.psect.contains ·) }

/-- Data lost (R110, R113): an alert of class 0x06 and an entry for the context charged. -/
def State.dataLost (s : State) (pa : Nat) (ctx : BitVec 16) : State :=
  let s := s.alert 0x06 (homeOf pa) ctx [w64 pa, 0x0E]
  s.notice (homeOf pa) (noticeEntry s (homeOf pa) 0x0E ctx 0 0 pa 0)

/-- A line's eviction that finds bad dirty sectors (R113). -/
def State.evictLine (s : State) (line : Nat) (bad : BitVec 8) : State :=
  let e := s.lineAt line
  let lost := if e.state = 2 then s.freeSectors line (bad &&& e.dirty) else []
  let s := ((s.recall line).uncache line).poisonSectors (lost.map fun j => 8 * line + j)
  if lost.isEmpty then s else s.dataLost (128 * line) e.tag

/-- A whole owned tile is evicted (R100): it is written back and its state is declared-home; bad dirty sectors are lost to the
context in the dirty tag of their entry (R113). -/
def State.evictTile (s : State) (line : Nat) (bad : BitVec 8) (pb : Nat) (t : Tile) : State :=
  let dirtyAt := fun (pa : Nat) => (List.range 16).any fun i => (mapGet s.dirty (pa + i)).isSome
  let lost := (List.range 8).filter fun j =>
    let pa := 128 * line + 16 * j
    bad.getLsbD j && t.covers pb pa && dirtyAt pa
  let s := (s.tileWriteBack pb t).tileLeaves pb t
  let s := { s with tiles := mapSet s.tiles pb { t.clean with tstate := .home } }
  let s := s.poisonSectors (lost.map fun j => s.markOf (8 * line + j))
  if lost.isEmpty then s else s.dataLost (128 * line) ((mapGet t.tags line).getD t.ctx)

/-- The owned tiles with a sector in a line. -/
def State.ownedOver (s : State) (line : Nat) : Map Tile :=
  s.tiles.filter fun p => p.2.tstate == .owned && (List.range 8).any fun j => p.2.covers p.1 (128 * line + 16 * j)

/-- The replicas of a line's sectors are evicted (R102). -/
def State.evictReplicas (s : State) (line : Nat) : State :=
  { s with
    replicas := s.replicas.map fun (r : Replica) =>
      if r.pushed then r else { r with sectors := r.sectors.filter fun q => q.1 / 8 != line } }

/-- A half of a host line leaves the die cache once its port takes the request (R67): false while it does not. Bad sectors of a
dirty one leave as poisoned data, lost to the context in its dirty tag (R113). -/
def State.evictHalf (bad : BitVec 8) (r : Bool × State) (half : Nat) : Bool × State :=
  match mapGet r.2.hostLines half with
  | none => r
  | some v =>
    if !r.2.portRoom (64 * half) then (false, r.2)
    else
      let lost := decide (3 ≤ v.st) && (List.range 4).any fun j => bad.getLsbD (4 * (half % 2) + j)
      let s := r.2.evictHostHalf half lost
      (r.1, if lost then s.dataLost (64 * half) (BitVec.ofNat 16 (v.st - 3)) else s)

/-- A host line leaves the die cache of its home, by CleanEvict or DirtyEvict (R66), and the core caches (R87); armed watch
entries on it may trigger (R324). A half whose port is full waits (R67). -/
def State.evictHostLine (s : State) (line : Nat) (bad : BitVec 8) : State :=
  match [2 * line, 2 * line + 1].foldl (State.evictHalf bad) (true, s) with
  | (true, s) => (s.uncache line).mayTrigger line
  | (false, s) => s.hold (.dieCacheEviction line bad)

/-- R113: an entry of a die cache is evicted: a line, and every owned tile and replica that it is a part of (R102); or a host
line (R66). -/
def execDieCacheEviction (line : Nat) (bad : BitVec 8) (s : State) : Host.Outcome State Fault Refusal :=
  .next (
    if regionOf (128 * line) = .host then s.evictHostLine line bad
    else
      let ts := s.ownedOver line
      let s := (s.evictLine line bad).evictReplicas line
      ts.foldl (fun s p => s.evictTile line bad p.1 p.2) s)

/-- R115: a prefetch fills a line that has no holder; it recalls nothing and becomes no watcher. It is dropped where its home
would hold it or has no entry free (R90, R93, R110). -/
def execDieCachePrefetch (die : Fin 16) (line : Nat) (s : State) : Host.Outcome State Fault Refusal :=
  .next (
    let pa := 128 * line
    if !s.isDevMem pa || s.lostAt pa || s.covered line || s.poisonedIn pa 128 || s.heldBySplit pa ||
        (s.lineAt line).broken || (s.busyHalf line).isSome || !s.roomFor line then s
    else
      match (s.lineAt line).held with
      | some _ => s
      | none => s.lineForRead (coreOf die.val 0) line true)

/-! Walks and kills (R107, R123, R124). -/

/-- R107: a walk read of a die; the die's map names all its cores. -/
def execWalkRead (die : Fin 24) (pa : Nat) (s : State) : Host.Outcome State Fault Refusal :=
  .next (
    if !s.tableReadable pa || (16 ≤ die.val && die.val ≠ 20 && die.val ≠ 21) then s
    else
      match State.makeRoom (lineOf pa) s.lines.length s with
      | (false, s) => s.hold (.walkRead die pa)
      | (true, s) => s.watchFor (lineOf pa) die.val ((List.range (if die.val < 16 then 36 else 4)).map (coreOf die.val)))

/-- R107: the kill reaches the die, whose cores drop what they derived; then it acknowledges. -/
def execTranslationKill (die : Fin 24) (line : Nat) (s : State) : Host.Outcome State Fault Refusal :=
  .next ((s.killReaches die.val line).later (.killAck die line))

/-- R107; an eviction that waits for the line's kills goes on (R93). -/
def execKillAck (die : Fin 24) (line : Nat) (s : State) : Host.Outcome State Fault Refusal :=
  .next (
    if s.kills.any fun k => k.die == die.val && k.line == line && k.reached then
      ((s.killAcked die.val line).retry waitsCounters).requeueHeld
    else s)

/-- A slot whose walk has ended runs its instruction again, and so do the slots of its core that wait for a walker (R123). -/
def Core.walkerFree (slot : Fin 8) (k : Core) : Core :=
  { k with slots := Vector.ofFn fun i =>
      if i = slot || !k.walks.contains i.val then k.slots[i].retryIf fun w => w == .walk else k.slots[i] }

/-- What a walk has found reaches its slot (R123): its leaf is installed, or its failure is known to the instruction at pc. -/
def State.walkFound (s : State) (core : CoreId) (slot : Fin 8) (va : Word) : Except XFault Leaf → State
  | .ok l =>
    let ctx := (s.getThread core slot).ctx
    let e : TlbEntry := ⟨slot.val, ctx, va.toNat / 2 ^ l.log2 * 2 ^ l.log2, l.log2, l.pbase, l.bits, l.lines⟩
    s.onCore core fun k => { k with tlb := k.tlb.filter fun x => !x.hits slot.val ctx va }.tlbInsert e
  | .error f =>
    s.onSlot core slot fun t => { t with walked := t.walked ++ [(va.toNat / 65536, f.cause, f.detail)], rewalk := true }

/-- R123, R124: a walk ends, and its walker is free. Its result takes effect when a walk from the top level gives it still, and
the slot runs its instruction again, which finds the translation or fails with the walk's cause; else it walks anew. -/
def execWalkComplete (core : CoreId) (slot : Fin 8) (va : Word) (res : WalkResult) (s : State) :
    Host.Outcome State Fault Refusal :=
  .next (
    let s := s.onCore core fun k => { k with walks := k.walks.erase slot.val }
    let t := s.getThread core slot
    if t.status = .empty then s
    else
      let s := match s.walk core t.ctx va with
        | (r, s) => if walkResult r = res then s.walkFound core slot va r else s
      (s.onCore core (Core.walkerFree slot)).requeueHeld)

/-! Errors (R110, R111). -/

/-- R110: an uncorrectable line entry is rebuilt from what the core dies and the host answer; until then its home holds every
request for the line. -/
def execLineEntryUncorrectable (line : Nat) (dirtyTags : List (BitVec 16)) (s : State) : Host.Outcome State Fault Refusal :=
  .next (
    match [2 * line, 2 * line + 1].filter fun h => s.hostState h != 0 with
    | h :: r =>
      let s := s.setLine line { s.lineAt line with state := 3 }
      ((h :: r).foldl (fun s h => s.sendBisnp (homeAgent (128 * line), 0) h false) s).hold (.lineEntryUncorrectable line dirtyTags)
    | [] =>
      let free := s.freeSectors line (BitVec.allOnes 8)
      let s := match dirtyTags with
        | [] => free.foldl (fun (s : State) j => s.dropDirty (128 * line + 16 * j) 16) s
        | [_] => s.lineWriteBack line
        | _ =>
          let s := free.foldl (fun (s : State) j => s.dropDirty (128 * line + 16 * j) 16) s
          let s := s.poisonSectors ((List.range 8).map fun j => 8 * line + j)
          let s := s.alert 0x06 (homeOf (128 * line)) 0 [w64 (128 * line), 0x0E]
          dirtyTags.eraseDups.foldl (fun s c =>
            s.notice (homeOf (128 * line)) (noticeEntry s (homeOf (128 * line)) 0x0E c 0 0 (128 * line) 0)) s
      let s := (s.uncache line).setLine line { LineEntry.none with wat := true, wset := BitVec.allOnes 18 }
      ((s.markLines [line]).serveHeld fun w => w == .bisnp (2 * line) || w == .bisnp (2 * line + 1)).requeueHeld)

/-- A tile is lost (R111): its covered sectors read from its own memory. -/
def State.tileLost (s : State) (pb : Nat) (r : Tile) : State :=
  let s := (r.sectors pb).foldl (fun s pa => s.dropDirty pa 16) s
  let s := if r.gen then s.frameToMemory pb r else s
  let s := { s with tiles := mapSet s.tiles pb { r.clean with tstate := .lost } }
  let s := s.alert 0x07 (homeOf pb) r.ctx [w64 pb]
  s.notice (homeOf pb) (noticeEntry s (homeOf pb) 0x0F r.ctx 0 0 pb 0)

/-- R111: a tile entry is rebuilt from the declaration record and the owner, or the tile is lost, or its entry is freed. -/
def execTileEntryUncorrectable (pbase : Nat) (record owner : Bool) (s : State) : Host.Outcome State Fault Refusal :=
  .next (match mapGet s.tiles pbase, mapGet s.declRecs pbase with
    | some t, some r =>
      if record && owner then
        { s with tiles := mapSet s.tiles pbase { r with tstate := .owned, owner := t.owner, sfrm := t.sfrm, tags := t.tags } }
      else if record then s.tileLost pbase { r with sfrm := t.sfrm }
      else if owner then s
      else
        let s := (t.sectors pbase).foldl (fun s pa => s.dropDirty pa 16) s
        let s := { s with
          tiles := mapErase s.tiles pbase
          declRecs := mapErase s.declRecs pbase
          replicas := s.replicas.filter fun q => q.pbase != pbase }
        (s.markLines (t.lines pbase)).alert 0x07 (homeOf pbase) 0 [w64 pbase]
    | _, _ => s)

/-- R110, R82: corrected in place, and reported by AER. -/
def execCorrectableError (sock : Fin 24) (s : State) : Host.Outcome State Fault Refusal :=
  .next (if s.liveMask.getLsbD sock.val then s.correctedError else s)

/-- R114: no order between accesses to one line changes. -/
def execMemoryChannelServe (ch : Fin 64) (s : State) : Host.Outcome State Fault Refusal :=
  .next { s with channels := s.channels.set ch s.channels[ch].serve }

end Sys2Proof.Machine
end

