-- ==== Sys2Proof/Machine/FaultEv.lean ====
section
/-! DEFINITION. What follows a fault: space in a fault queue (R132), the notice stores (R133), replay (R136, R140, R195, R230),
the staging timeout (R143) and errors in a team's state (R144). -/

namespace Sys2Proof.Machine

/-! Fault queues. -/

/-- A thread has no more entries waiting for space: it waits for their acknowledgement (R132). -/
def State.fqSettled (s : State) (core : CoreId) (slot : Fin 8) : State :=
  if (s.fqWait.any fun q => q.core == core && q.slot == slot && q.copy.isNone) ||
      (s.getThread core slot).records.any (·.reported) then s
  else s.onSlot core slot fun t => match t.status with
    | .parked (.fqSpace _) => { t with status := .parked .fault }
    | _ => t

/-- An entry that waited has its index (R132): a load then writes its poison and goes on, a copy's thread holds it, any other
entry is raised. -/
def State.fqGot (s : State) (q : FqItem) (ix : Word) : State :=
  let e := q.entry
  let h : HeldEntry :=
    { ctx := e.ctx, index := ix, pc := e.fpc, load := q.load, regs := Regs.zero, copy := none, raised := e.stat == 1,
      acked := false, write := q.write }
  if e.stat = 2 then s
  else
    match q.copy, q.load, q.after with
    | some id, _, _ =>
      match s.copyAt q.core id with
      | some c => s.onTid q.core c.tid (Thread.copyHeld (s.copyOwn q.core c) c.bo id h)
      | none => s
    | none, some op, some after =>
      let p : Payload := BitVec.ofNat 21 (ix.toNat % 65536)
      s.onSlot q.core q.slot fun t => { t with
        status := .ready, held := t.held ++ [{ h with regs := t.regs }], regs := after.poisonLoad op q.lanes p, pc := t.pc + 4 }
    | none, _, _ =>
      let s := s.onSlot q.core q.slot fun t => { t with held := t.held ++ [h] }
      (s.asThread q.core q.slot fun s => s.faultPolicy ix).fqSettled q.core q.slot

/-- The entries of a context that wait, written in their original order until the queue is full. -/
def State.fqServe (s : State) (ctx : BitVec 16) : List FqItem → State
  | [] => s
  | q :: r =>
    if q.entry.ctx ≠ ctx then s.fqServe ctx r
    else
      match s.fqPut q.entry with
      | (none, s) => s
      | (some ix, s) => ({ s with fqWait := s.fqWait.erase q }.fqGot q ix).fqServe ctx r

/-- The new STATs of a context that wait, written in order until one cannot be (R132, R136, R137). -/
def State.statServe (s : State) (ctx : BitVec 16) : List StatWrite → State
  | [] => s
  | x :: r =>
    if x.ctx ≠ ctx then s.statServe ctx r
    else
      match s.statTry x with
      | (false, s) => s
      | (true, s) => ({ s with statWait := s.statWait.erase x }).statServe ctx r

/-- R132: the queue of a context has space, its entry has become valid, or its lines can be written. -/
def execFaultQueueSpace (ctx : BitVec 16) (s : State) : Host.Outcome State Fault Refusal :=
  .next (
    let s := s.statServe ctx s.statWait
    (s.fqServe ctx s.fqWait).requeueHeld)

/-- Whether a record is of an entry that had no index yet. -/
def recordOf (r : FaultRec) (e : FaultEntry) : Bool :=
  r.index.isNone && r.write.seq == e.seq && r.write.pc == e.fpc && r.write.va == e.fva

/-- An entry has taken its index: a record of it names the index, and one that has been reported becomes a raised entry of the
thread (R133, R140). -/
def Thread.indexed (e : FaultEntry) (ix : Word) (t : Thread) : Thread :=
  let told := t.records.filter fun r => recordOf r e && r.reported
  { t with
    records := (t.records.filter fun r => !(recordOf r e && r.reported)).map fun (r : FaultRec) =>
      if recordOf r e then { r with index := some ix } else r
    held := t.held ++ told.map fun r =>
      { ctx := r.write.ctx, index := ix, pc := r.write.pc, load := none, regs := Regs.zero, copy := none, raised := true,
        acked := false, write := some r.write } }

/-- A held remote-fault entry has taken its index (R133, R140); a thread that has reported it waits for its acknowledgement. -/
def State.recordIndex (s : State) (e : FaultEntry) (ix : Word) : State :=
  if !e.remote then s
  else
    let told := s.coreList.flatMap fun c => ((List.finRange 8).filter fun sl =>
      (s.getThread c sl).records.any fun r => recordOf r e && r.reported).map fun sl => (c, sl)
    let s := s.onThreads (Thread.indexed e ix)
    told.foldl (fun s q => (s.asThread q.1 q.2 fun s => s.faultPolicy ix).fqSettled q.1 q.2) s

/-- The entries of a context that a die holds, written in order until the queue is full (R133). -/
def State.drainNotices (s : State) (die : Nat) (ctx : BitVec 16) : List FaultEntry → State
  | [] => s
  | e :: r =>
    if e.ctx ≠ ctx then s.drainNotices die ctx r
    else
      match s.fqPut e with
      | (none, s) => s
      | (some ix, s) =>
        let ns := s.noticesOf die
        let s := { s with notices := mapSet s.notices die { ns with entries := ns.entries.erase e } }
        (s.recordIndex e ix).drainNotices die ctx r

/-- R133. -/
def execNoticeStoreDrain (die : Fin 24) (ctx : BitVec 16) (s : State) : Host.Outcome State Fault Refusal :=
  .next (s.drainNotices die.val ctx (s.noticesOf die.val).entries)

/-- R133: a period in which notices were dropped. -/
def execNoticeDropAlert (die : Fin 24) (s : State) : Host.Outcome State Fault Refusal :=
  .next (
    let ns := s.noticesOf die.val
    if ns.dropped = 0 then s
    else
      let s := s.alert 0x0A die.val ns.dropCtx [ns.dropCtx.setWidth 64, w64 ns.dropped, ns.dropCause.setWidth 64]
      { s with notices := mapSet s.notices die.val { ns with dropped := 0, dropCtx := 0, dropCause := 0 } })

/-! What a replay produces (R136). -/

/-- The register that an instruction writes. -/
inductive Dest where
  | x (d : Reg)
  | v (d : VReg)
  | k (d : KReg)
  deriving DecidableEq, Repr

/-- The destination of a load. -/
def LoadOp.dest : LoadOp → Dest
  | .scalar d .. => .x d
  | .vector f d .. => if f = .vseq then .k (Fin.ofNat 8 d.val) else .v d

/-- The destination of a propagating instruction. -/
def PropOp.dest : PropOp → Dest
  | .alu _ d .. | .cmov d .. | .imm _ d .. | .vmovx d .. | .kpop d .. | .kfirst d .. => .x d
  | .vint _ d .. | .vsel d .. | .vsplat d .. | .viota d .. | .vimm _ d .. | .vflt _ d .. | .vcvtf d .. | .vcvt _ d ..
  | .vfsplat d .. | .vfdot2 d .. | .vmsk _ d .. | .vdb _ d .. | .vmv d .. | .poolLoad d .. => .v d
  | .vcmp _ d .. | .klog _ d .. | .knot d .. | .kset d .. => .k d
  | .reload op => op.dest

/-- What a payload names: a load's entry by its index, or a log entry by its position; and the registers with its result. -/
structure Producer where
  pos : Nat
  index : Nat
  dest : Dest
  regs : Regs
  deriving DecidableEq, Repr

/-- The producer that a payload names (R128). -/
def producerOf (ps : List Producer) (p : Payload) : Option Producer :=
  let pos := p.toNat / 65536
  ps.find? fun q => q.pos == pos && (pos != 0 || q.index == p.toNat % 65536)

/-- A produced scalar, lane or mask. -/
def Producer.scalar (q : Producer) : Option Word := match q.dest with
  | .x d => some (q.regs.rx d)
  | _ => none
def Producer.lane (q : Producer) (j : Nat) : Option Nat := match q.dest with
  | .v d => some (q.regs.v[d].toNat / 2 ^ (32 * j) % 2 ^ 32)
  | _ => none
def Producer.mask (q : Producer) : Option KWord := match q.dest with
  | .k d => some (q.regs.rk d)
  | _ => none

/-- The lanes of one register written with what their payloads name. -/
def Regs.resolveLanes (ps : List Producer) (d : VReg) (r : Regs) : Regs :=
  r.vp[d].foldl (fun r e =>
    match (producerOf ps e.2).bind fun q => q.lane e.1 with
    | some v => r.wv d (putBytes r.v[d] (4 * e.1) 4 v) (mapErase r.vp[d] e.1)
    | none => r) r

/-- Every register or lane that holds poison written with what its payload names (R136). -/
def Regs.resolve (r : Regs) (ps : List Producer) : Regs :=
  let r := (List.finRange 32).foldl (fun r i =>
    match ((r.rxp i).bind (producerOf ps)).bind Producer.scalar with
    | some v => r.wx i v
    | none => r) r
  let r := (List.finRange 8).foldl (fun r i =>
    match ((r.rkp i).bind (producerOf ps)).bind Producer.mask with
    | some v => r.wk i v
    | none => r) r
  (List.finRange 32).foldl (fun r d => r.resolveLanes ps d) r

/-- Good elements written into a destination whose poison is set aside. -/
def Regs.putElems (r : Regs) (d : VReg) (w : Nat) : List (Nat × ElemGot) → Regs
  | [] => r.wv d r.v[d] []
  | (i, .good v) :: gs => (r.wv d (putBytes r.v[d] (w * i) w v) []).putElems d w gs
  | (_, .bad ..) :: gs => r.putElems d w gs

/-- A load performed again on the registers it read, as a new relaxed access (R136). -/
def State.replayLoad (s : State) (op : LoadOp) (r : Regs) : Loaded Regs × State :=
  match op with
  | .scalar d va n signed =>
    match s.loadVa va n with
    | (.value v, s) => (.value (r.wx d (loadValue n signed v)), s)
    | (.fault f pa, s) => (.fail f va pa, s)
    | (.wait w, s) => (.wait w, s)
    | (.travel _, s) => (.wait .travel, s)
  | .vector f d a b k t =>
    let w := t.width
    match s.vloadAll r f a b t (activeOf (r.rk k) w (r.body w)) with
    | (.error w, s) => (.wait w, s)
    | (.ok gs, s) =>
      match firstBad gs with
      | some (f, va, pa) => (.fail f va pa, s)
      | none =>
        if f = .vseq then
          let yes := gs.filterMap fun g => match g.2 with
            | .good v => if v = 1 then some g.1 else none
            | .bad .. => none
          (.value (r.wk (Fin.ofNat 8 d.val) (maskOf w yes)), s)
        else (.value (r.putElems d w gs), s)

/-- The producers that the replayed loads of a thread are. -/
def Thread.loadProducers (t : Thread) : List Producer :=
  t.held.filterMap fun h => match h.load, h.value with
    | some op, some r => some ⟨0, (h.orig.getD h.index).toNat % 65536, op.dest, r⟩
    | _, _ => none

/-- How a part of a replay ended: it goes on, or the thread stays parked for a new entry or for an event that is held. -/
inductive Replay where
  | go (s : State)
  | stay (s : State)

/-- A load that faults again takes a new entry, raised at once (R136). -/
def State.replayFault (s : State) (h : HeldEntry) (f : XFault) (va : Word) (pa : Nat) (again : Instr) : State :=
  let e := { s.entryOf f.cause va 1 false pa f.detail with fpc := h.pc }
  match s.fqTake e with
  | (none, s) => s.hold again
  | (some ix, s) =>
    let s := (s.fqCount e.sup e.ctx).onTh fun t => { t with held := t.held.map fun (x : HeldEntry) =>
      if x = h then { h with index := ix, orig := some (h.orig.getD h.index), acked := false, raised := true } else x }
    s.faultPolicy ix

/-- The faulted loads of the current thread, in original issue order (R136, step 1). -/
def State.replayLoads (s : State) (again : Instr) : List HeldEntry → Replay
  | [] => .go s
  | h :: hs =>
    match h.load, h.value, h.raised with
    | some op, none, true =>
      match s.replayLoad op h.regs with
      | (.value r, s) =>
        (s.onTh fun t => { t with held := t.held.map fun (x : HeldEntry) => if x = h then { h with value := some r } else x }).replayLoads
          again hs
      | (.wait _, s) => .stay (s.hold again)
      | (.fail f va pa, s) => .stay (s.replayFault h f va pa again)
    | _, _, _ => s.replayLoads again hs

/-- The replay-log entries, in order, with the replayed values in place of the poisoned ones (R136, step 2). -/
def State.replayLog (s : State) (again : Instr) (ps : List Producer) (pos : Nat) : List LogEntry → Replay × List Producer
  | [] => (.go s, ps)
  | e :: es =>
    let r := e.regs.resolve ps
    match e.op with
    | .reload op =>
      match s.replayLoad op r with
      | (.value r, s) => s.replayLog again (ps ++ [⟨pos, 0, op.dest, r⟩]) (pos + 1) es
      | (.wait _, s) => (.stay (s.hold again), ps)
      | (.fail f va pa, s) => (.stay (s.raiseNew { s.entryOf f.cause va 1 false pa f.detail with fpc := e.pc } none), ps)
    | op => s.replayLog again (ps ++ [⟨pos, 0, op.dest, (op.eff 1 r).regs⟩]) (pos + 1) es

/-- A kept write is sent again, unchanged (R140). -/
def State.resend (s : State) (w : WriteMsg) : Served Unit × State :=
  match w.courier with
  | some msg =>
    if s.mustQueue s.loc w then (.wait .slot, s)
    else
      let s := s.countWrite
      (.done (), s.courierSend (s.courierOut ⟨w.pa, w.leaf⟩ (some w)) msg)
  | none =>
    match w.amo with
    | some (op, exp) =>
      if s.isDevMem w.pa then
        match s.atomicDev ⟨s.loc, s.th.order, w.ctx, !isCmd s.loc && !w.leaf.getLsbD 8⟩ w.pa op w.data.toNat exp.toNat w.wide with
        | (.done _, s) => (.done (), s)
        | (.wait x, s) => (.wait x, s)
        | (.fail c, s) => (.done (), s.writeFailed s.loc s.th.order (s.findsOut w.pa) c w)
      else (.done (), s.postAtomic w)
    | none => (.done (), s.countWrite.issueWrite s.loc s.slot.val ⟨s.th.order, w, false⟩)

/-- The kept writes of the current thread, in issue order; each that is sent leaves the thread's entries. -/
def State.resendAll (s : State) (again : Instr) : List HeldEntry → Replay
  | [] => .go s
  | h :: hs =>
    match h.write, h.raised with
    | some w, true =>
      match s.resend w with
      | (.wait _, s) => .stay (s.hold again)
      | (_, s) =>
        (s.onTh fun t => { t with held := t.held.map fun (x : HeldEntry) => if x = h then { h with write := none } else x }).resendAll
          again hs
    | _, _ => s.resendAll again hs

/-- The stopped copies of the thread's entries go on (R230). -/
def State.resumeCopies (s : State) : State :=
  (s.th.held.filter (·.raised)).foldl (fun s h => match h.copy with
    | some id =>
      (s.onCopy s.loc id fun c => { c with stopped := false }).later (.copyPageTranslate s.loc id)
    | none => s) s

/-- The end of a replay (R136, steps 3 and 4): poison is written with the produced values, the log is empty, and the
reporting instruction runs. -/
def State.replayEnd (s : State) (ps : List Producer) : State :=
  s.resumeCopies.onTh fun t => { t with
    status := .ready, regs := t.regs.resolve ps, log := [], held := t.held.filter (!·.raised), got := [] }

/-- The whole replay of the current thread. -/
def State.replay (s : State) (again : Instr) : State :=
  match s.replayLoads again s.th.held with
  | .stay s => s
  | .go s =>
    match s.replayLog again s.th.loadProducers 1 s.th.log with
    | (.stay s, _) => s
    | (.go s, ps) =>
      match s.resendAll again s.th.held with
      | .stay s => s
      | .go s => s.replayEnd ps

/-! Reads of the dispatch unit (R154, R194, R195). -/

/-- On whose behalf the dispatch unit reads: the task's context, in user mode. -/
def State.dispatchAsid (s : State) : Asid := ⟨s.loc, s.slot.val, s.th.ctx, .user, false⟩

/-- The format registers from the 64 bytes at FMTP (R194). -/
def Regs.setFormats (r : Regs) (v : Nat) : Regs :=
  { r with
    fmta := w64 (v % 2 ^ 14)
    fmtb := w64 (v / 2 ^ 64 % 2 ^ 14)
    fmtc := w64 (v / 2 ^ 128 % 2 ^ 14)
    scalea := w64 (v / 2 ^ 192 % 8)
    scaleb := w64 (v / 2 ^ 256 % 8) }

/-- `n` lines of 128 bytes of a scope table. -/
def State.scopeLines (s : State) (va : Word) : Nat → Loaded (List Byte) × State
  | 0 => (.value [], s)
  | n + 1 =>
    match s.engLoad s.dispatchAsid dispatchId va 128 with
    | (.value v, s) =>
      match s.scopeLines (va + 128) n with
      | (.value l, s) => (.value (toBytes 128 v ++ l), s)
      | x => x
    | (.fail f a p, s) => (.fail f a p, s)
    | (.wait w, s) => (.wait w, s)

/-- The format context read for the current thread, if it has one. -/
def State.readFormats (s : State) : Loaded Unit × State :=
  if s.th.fmtp = 0 then (.value (), s)
  else
    match s.engLoad s.dispatchAsid dispatchId s.th.fmtp 64 with
    | (.value v, s) => (.value (), s.onRegs fun r => r.setFormats v)
    | (.fail f a p, s) => (.fail f a p, s)
    | (.wait w, s) => (.wait w, s)

/-- The launch's scope table read for the current core, unless it holds a copy (R154). -/
def State.readScopes (s : State) : Loaded Unit × State :=
  if (mapGet s.core.scopes s.th.scopeKey).isSome then (.value (), s)
  else
    match s.scopeLines s.th.scopet 24 with
    | (.value l, s) => (.value (), s.onHere fun k => { k with scopes := mapSet k.scopes s.th.scopeKey l })
    | (.fail f a p, s) => (.fail f a p, s)
    | (.wait w, s) => (.wait w, s)

/-- Responses that a group of reads has used stay for its next try, while one of them waits. -/
def State.keepGot (s old : State) (core : CoreId) : State := s.onCore core fun k => { k with got := (old.getCore core).got }

/-- The current thread's registers and pc are those of its team's open checkpoint (R142): it has not started yet. -/
def State.recheckpoint (s : State) : State :=
  let t := s.th
  s.onTeam fun tm => { tm with ckpt := { tm.ckpt with members := tm.ckpt.members.map fun m =>
    if m.1 = t.order then (t.order, t.regs, t.pc) else m } }

/-- The dispatch unit's reads for the current thread, which then runs, or takes a parking fault at its first instruction
(R195); `formats` when the format context is still to be read. The address that is still to be read stays with the thread,
with cause 0 while its data is on its way. -/
def State.dispatchReads (s : State) (formats : Bool) (again : Instr) : State :=
  let waits := fun (s : State) (va : Word) =>
    (s.onTh fun t => { t with status := .parked .fault, dispatchFault := some (0, va) }).hold again
  let fails := fun (s : State) (f : XFault) (va : Word) (pa : Nat) =>
    (s.onTh fun t => { t with dispatchFault := some (f.cause, va) }).parkFault f.cause va false pa f.detail
  match (if formats then s.readFormats else (.value (), s)) with
  | (.fail f va pa, s) => fails s f va pa
  | (.wait _, s') => waits (s'.keepGot s s.loc) s.th.fmtp
  | (.value _, s) =>
    match s.recheckpoint.readScopes with
    | (.fail f va pa, s) => fails s f va pa
    | (.wait _, s') => waits (s'.keepGot s s.loc) s.th.scopet
    | (.value _, s) => s.onTh fun t => { t with status := .ready, dispatchFault := none }

/-- A thread whose dispatch reads are not done: they are made again. -/
def State.redispatch (s : State) (va : Word) (again : Instr) : State :=
  let s := s.onTh fun t => { t with held := t.held.filter (!·.raised) }
  s.dispatchReads (s.th.fmtp != 0 && decide ((va - s.th.fmtp).toNat < 64)) again

/-- R136: a thread whose every raised entry has been acknowledged with resume. -/
def execTaskReplay (core : CoreId) (slot : Fin 8) (s : State) : Host.Outcome State Fault Refusal :=
  .next (
    let t := s.getThread core slot
    let again : Instr := .taskReplay core slot
    if t.status ≠ .parked .fault ∨ !t.allAcked then s
    else
      s.asThread core slot fun s =>
        -- what an earlier walk found does not outlast its run (R123, R136)
        let s := s.onTh fun t => { t with walked := if t.rewalk then t.walked else [], rewalk := false }
        match s.th.dispatchFault with
        | some (_, va) => s.redispatch va again
        | none => s.replay again)

/-! Staging and checkpoints (R143, R144). -/

/-- R143: 2,048 cycles after a team's first held store, its stores drain and its checkpoint is sealed; a message that has been
open as long is closed (R147, log 21). -/
def execStagingTimeout (core : CoreId) (s : State) : Host.Outcome State Fault Refusal :=
  .next (
    let k := s.getCore core
    k.overdue.foldl (fun s tid => s.closeMsg core tid)
      ((k.stagedAt.filter fun p => decide (p.2 + 2048 ≤ k.cycle)).foldl (fun s p => s.sealOf core p.1) s))

/-- The registers that a checkpoint bank holds (R142), put back: scalar, branch-target, mask and vector registers. -/
def Regs.restore (r old : Regs) : Regs :=
  { r with x := old.x, xp := old.xp, b := old.b, v := old.v, vp := old.vp, k := old.k, kp := old.kp }

/-- A member goes back to the checkpoint: its registers and pc; `n` of its staged stores are discarded, and what the
instruction that it ran held is given up. -/
def Thread.rollBack (n : Nat) (r : Regs) (pc : Word) (t : Thread) : Thread :=
  { t with
    status := .ready, regs := t.regs.restore r, pc := pc, log := [], got := [], reserved := false, scopeTab := none
    walked := [], rewalk := false, near := t.near - n, dev := t.dev - n, hst := t.hst - n }

/-- The pool share and the accumulators of a team go back to the checkpoint, which stays open. -/
def Team.rollBack (t : Team) : Team :=
  { t with
    pool := t.ckpt.undo.foldl (fun m u => memWrite m (16 * u.1) 16 u.2.toNat) t.pool
    acc := t.ckpt.undoAcc.foldl (fun m u =>
      memFill m (16384 * u.1) ((List.range 16384).map fun i => memByte u.2 (16384 * u.1 + i))) t.acc
    ckpt := { t.ckpt with undo := [], undoAcc := [] } }

/-- The rollback of a team (R144). -/
def Core.rollBack (k : Core) (tm : Team) : Core :=
  let tids := k.tidsOf tm.id
  let staged := k.staging
  let back := fun (t : Thread) =>
    match tm.ckpt.members.find? fun m => m.1 == t.order with
    | some m => t.rollBack (staged.filter fun p => p.tid == t.order).length m.2.1 m.2.2
    | none => t
  let k := { k with
    staging := staged.filter fun p => !tids.contains p.tid
    stagedAt := mapErase k.stagedAt tm.id
    matq := k.matq.filter fun o => o.team != tm.id }
  (k.onMembers tm.id back).onTeam tm.id Team.rollBack

/-- An entry of cause 0x16 for a member of a team that escalates. -/
def State.escalation (s : State) (core : CoreId) (slot : Nat) (sup : Nat) (t : Thread) : FaultEntry :=
  { noticeEntry s (sockOf core) 0x16 t.ctx 0 t.pc 0 sup with
    core := BitVec.ofNat 6 (siteOf core), slot := BitVec.ofNat 3 slot, task := t.task }

/-- R144: an open checkpoint is rolled back to; a sealed one escalates. -/
def execUncorrectableTeamError (core : CoreId) (team : Nat) (s : State) : Host.Outcome State Fault Refusal :=
  .next (match s.teamAt core team with
    | none => s
    | some tm =>
      if tm.ckpt.isOpen then (s.onCore core fun k => k.rollBack tm).correctedError
      else
        let k := s.getCore core
        let sup := ((s.launchAt tm.lh).map (·.sup)).getD 0
        let here := (List.range 8).filterMap fun i => (k.slots[i]?).bind fun t =>
          if t.status != .empty && t.team == team then some (i, t) else none
        let away := (k.saves.filter fun v => v.thread.team == team).map fun v => (0, v.thread)
        let s := (here ++ away).foldl (fun s p => s.notice (sockOf core) (s.escalation core p.1 sup p.2)) s
        s.abortLaunch tm.lh 1)

end Sys2Proof.Machine
end

