-- ==== Sys2Proof/Machine/Scalar.lean ====
section
/-! DEFINITION. The scalar operations (R276 to R288): each one is a propagating instruction (R129, R276). -/

namespace Sys2Proof.Machine

/-- R277. -/
def execAdd (d a b : Reg) (s : State) : Host.Outcome State Fault Refusal := .next (runProp (.alu .add d a b) s)

/-- R277. -/
def execSub (d a b : Reg) (s : State) : Host.Outcome State Fault Refusal := .next (runProp (.alu .sub d a b) s)

/-- R277. -/
def execAnd (d a b : Reg) (s : State) : Host.Outcome State Fault Refusal := .next (runProp (.alu .and d a b) s)

/-- R277. -/
def execOr (d a b : Reg) (s : State) : Host.Outcome State Fault Refusal := .next (runProp (.alu .or d a b) s)

/-- R277. -/
def execXor (d a b : Reg) (s : State) : Host.Outcome State Fault Refusal := .next (runProp (.alu .xor d a b) s)

/-- R277. -/
def execAndn (d a b : Reg) (s : State) : Host.Outcome State Fault Refusal := .next (runProp (.alu .andn d a b) s)

/-- R277. -/
def execOrn (d a b : Reg) (s : State) : Host.Outcome State Fault Refusal := .next (runProp (.alu .orn d a b) s)

/-- R277. -/
def execSll (d a b : Reg) (s : State) : Host.Outcome State Fault Refusal := .next (runProp (.alu .sll d a b) s)

/-- R277. -/
def execSrl (d a b : Reg) (s : State) : Host.Outcome State Fault Refusal := .next (runProp (.alu .srl d a b) s)

/-- R277. -/
def execSra (d a b : Reg) (s : State) : Host.Outcome State Fault Refusal := .next (runProp (.alu .sra d a b) s)

/-- R277. -/
def execRol (d a b : Reg) (s : State) : Host.Outcome State Fault Refusal := .next (runProp (.alu .rol d a b) s)

/-- R277. -/
def execRor (d a b : Reg) (s : State) : Host.Outcome State Fault Refusal := .next (runProp (.alu .ror d a b) s)

/-- R277. -/
def execSlt (d a b : Reg) (s : State) : Host.Outcome State Fault Refusal := .next (runProp (.alu .slt d a b) s)

/-- R277. -/
def execSltn (d a b : Reg) (s : State) : Host.Outcome State Fault Refusal := .next (runProp (.alu .sltn d a b) s)

/-- R277. -/
def execSeq (d a b : Reg) (s : State) : Host.Outcome State Fault Refusal := .next (runProp (.alu .seq d a b) s)

/-- R277. -/
def execMin (d a b : Reg) (s : State) : Host.Outcome State Fault Refusal := .next (runProp (.alu .min d a b) s)

/-- R277. -/
def execMax (d a b : Reg) (s : State) : Host.Outcome State Fault Refusal := .next (runProp (.alu .max d a b) s)

/-- R277. -/
def execMinn (d a b : Reg) (s : State) : Host.Outcome State Fault Refusal := .next (runProp (.alu .minn d a b) s)

/-- R277. -/
def execMaxn (d a b : Reg) (s : State) : Host.Outcome State Fault Refusal := .next (runProp (.alu .maxn d a b) s)

/-- R277. -/
def execMul (d a b : Reg) (s : State) : Host.Outcome State Fault Refusal := .next (runProp (.alu .mul d a b) s)

/-- R277. -/
def execMulh (d a b : Reg) (s : State) : Host.Outcome State Fault Refusal := .next (runProp (.alu .mulh d a b) s)

/-- R277. -/
def execMulhn (d a b : Reg) (s : State) : Host.Outcome State Fault Refusal := .next (runProp (.alu .mulhn d a b) s)

/-- R278. -/
def execDiv (d a b : Reg) (s : State) : Host.Outcome State Fault Refusal := .next (runProp (.alu .div d a b) s)

/-- R278. -/
def execDivn (d a b : Reg) (s : State) : Host.Outcome State Fault Refusal := .next (runProp (.alu .divn d a b) s)

/-- R278. -/
def execRem (d a b : Reg) (s : State) : Host.Outcome State Fault Refusal := .next (runProp (.alu .rem d a b) s)

/-- R278. -/
def execRemn (d a b : Reg) (s : State) : Host.Outcome State Fault Refusal := .next (runProp (.alu .remn d a b) s)

/-- R279. -/
def execClz (d a : Reg) (s : State) : Host.Outcome State Fault Refusal := .next (runProp (.alu .clz d a 0) s)

/-- R279. -/
def execCtz (d a : Reg) (s : State) : Host.Outcome State Fault Refusal := .next (runProp (.alu .ctz d a 0) s)

/-- R279. -/
def execPopc (d a : Reg) (s : State) : Host.Outcome State Fault Refusal := .next (runProp (.alu .popc d a 0) s)

/-- R279. -/
def execBswap (d a : Reg) (s : State) : Host.Outcome State Fault Refusal := .next (runProp (.alu .bswap d a 0) s)

/-- R280. -/
def execCmov (d a b : Reg) (s : State) : Host.Outcome State Fault Refusal := .next (runProp (.cmov d a b) s)

/-- R277. -/
def execShadd1 (d a b : Reg) (s : State) : Host.Outcome State Fault Refusal := .next (runProp (.alu .shadd1 d a b) s)

/-- R277. -/
def execShadd2 (d a b : Reg) (s : State) : Host.Outcome State Fault Refusal := .next (runProp (.alu .shadd2 d a b) s)

/-- R277. -/
def execShadd3 (d a b : Reg) (s : State) : Host.Outcome State Fault Refusal := .next (runProp (.alu .shadd3 d a b) s)

/-- R281. -/
def execCrcb (d a b : Reg) (s : State) : Host.Outcome State Fault Refusal := .next (runProp (.alu .crcb d a b) s)

/-- R281. -/
def execCrcd (d a b : Reg) (s : State) : Host.Outcome State Fault Refusal := .next (runProp (.alu .crcd d a b) s)

/-- R282. -/
def execMix64 (d a b : Reg) (s : State) : Host.Outcome State Fault Refusal := .next (runProp (.alu .mix64 d a b) s)

/-- R283. -/
def execAddi (d a : Reg) (i : BitVec 16) (s : State) : Host.Outcome State Fault Refusal := .next (runProp (.imm .addi d a i) s)

/-- R283. -/
def execAndi (d a : Reg) (i : BitVec 16) (s : State) : Host.Outcome State Fault Refusal := .next (runProp (.imm .andi d a i) s)

/-- R283. -/
def execOri (d a : Reg) (i : BitVec 16) (s : State) : Host.Outcome State Fault Refusal := .next (runProp (.imm .ori d a i) s)

/-- R283. -/
def execXori (d a : Reg) (i : BitVec 16) (s : State) : Host.Outcome State Fault Refusal := .next (runProp (.imm .xori d a i) s)

/-- R283. -/
def execSlti (d a : Reg) (i : BitVec 16) (s : State) : Host.Outcome State Fault Refusal := .next (runProp (.imm .slti d a i) s)

/-- R283. -/
def execSltin (d a : Reg) (i : BitVec 16) (s : State) : Host.Outcome State Fault Refusal := .next (runProp (.imm .sltin d a i) s)

/-- R284. -/
def execLih (d a : Reg) (i : BitVec 16) (s : State) : Host.Outcome State Fault Refusal := .next (runProp (.imm .lih d a i) s)

/-- R285: the pc plus the immediate times 2^16; no register is read. -/
def execAddpc (d : Reg) (i : BitVec 16) (s : State) : Host.Outcome State Fault Refusal :=
  .next (s.setX d (s.th.pc + immS i * 65536)).adv

/-- R286. -/
def execSlli (d a : Reg) (n : Fin 64) (s : State) : Host.Outcome State Fault Refusal :=
  .next (runProp (.imm .slli d a (BitVec.ofNat 16 n.val)) s)

/-- R286. -/
def execSrli (d a : Reg) (n : Fin 64) (s : State) : Host.Outcome State Fault Refusal :=
  .next (runProp (.imm .srli d a (BitVec.ofNat 16 n.val)) s)

/-- R286. -/
def execSrai (d a : Reg) (n : Fin 64) (s : State) : Host.Outcome State Fault Refusal :=
  .next (runProp (.imm .srai d a (BitVec.ofNat 16 n.val)) s)

/-- R286. -/
def execRori (d a : Reg) (n : Fin 64) (s : State) : Host.Outcome State Fault Refusal :=
  .next (runProp (.imm .rori d a (BitVec.ofNat 16 n.val)) s)

/-- R287: `l` is the length less one, `o` the lowest bit. -/
def execBfx (d a : Reg) (l o : Fin 64) (s : State) : Host.Outcome State Fault Refusal :=
  .next (runProp (.imm .bfx d a (BitVec.ofNat 16 (l.val * 64 + o.val))) s)

/-- R287: `l` is the length less one, `o` the lowest bit. -/
def execBfxs (d a : Reg) (l o : Fin 64) (s : State) : Host.Outcome State Fault Refusal :=
  .next (runProp (.imm .bfxs d a (BitVec.ofNat 16 (l.val * 64 + o.val))) s)

end Sys2Proof.Machine
end

