-- ==== Sys2Proof/Machine/Sched.lean ====
section
/-! DEFINITION. The scheduler (R178 to R200): gang positions, dealing, dispatch, bands, retirement, and the completion of a
launch (R79). -/

namespace Sys2Proof.Machine

/-! Gang positions (R181). -/

/-- A gang position: its lead, and its cores in rank order (R193: by logical number). -/
structure Position where
  lead : CoreId
  cores : List CoreId
  deriving DecidableEq, Repr

/-- Groups of `w` cores, first come first; a shorter rest is no position. -/
def groupsOf (w : Nat) : Nat → List CoreId → List (List CoreId)
  | 0, _ => []
  | n + 1, cs => if cs.length < w ∨ w = 0 then [] else cs.take w :: groupsOf w n (cs.drop w)

/-- Whether a core die of the package still answers (R55). -/
def State.dieLive (s : State) (die : Nat) : Bool := s.liveMask.getLsbD die && !s.fenced.getLsbD die

/-- Whether a core takes no work: it is stopped, its partition is halted (R184), or its die is fenced (R55). -/
def State.coreOff (s : State) (core : CoreId) : Bool :=
  (s.getCore core).stopped || s.haltedAt core || s.fenced.getLsbD (sockOf core)

/-- The positions of width `w` on a die, cluster by cluster. -/
def State.diePositions (s : State) (w die : Nat) : List Position :=
  ((List.range 9).flatMap fun c =>
    groupsOf w 4 (((List.range 4).filter fun i => s.siteOn die (4 * c + i)).map fun i => coreOf die (4 * c + i))).map fun g =>
      ⟨g.headD 0, sortBy s.logicalNo g⟩

/-- The gang positions of width `w` of a partition, in ascending logical number of their leads. -/
def State.positions (s : State) (partn w : Nat) : List Position :=
  let dies := ((s.parts[partn]?).map (·.dies)).getD 0
  sortBy (fun p => s.logicalNo p.lead)
    (((List.range 16).filter fun d => dies.getLsbD d && s.dieLive d).flatMap (s.diePositions w))

/-- Whether a partition runs: its STATE is 1 and no halt has been asked of it (R183, R184). -/
def Part.runs (x : Part) : Bool := x.state == 1 && !(x.busy && x.req == 1)

/-- Whether a partition's tasks are dealt and dispatched: the table is locked (R180) and the partition runs. -/
def State.partRuns (s : State) (partn : Nat) : Bool := s.lctLock && ((s.parts[partn]?).any Part.runs)

/-! Admission (R192). -/

/-- Banks of a core's pool that its teams reserve. -/
def Core.banksUsed (k : Core) : Nat := (k.teams.map fun t => banksOf t.poolpart).sum

/-- The empty slots of a core, lowest first. -/
def Core.freeSlots (k : Core) : List (Fin 8) := (List.finRange 8).filter fun i => k.slots[i].status == .empty

/-- The spilled thread of a core that is owed re-admission, the oldest spill first (R206, R208). -/
def State.owedSave (s : State) (core : CoreId) : Option Saved := (s.getCore core).saves.find? fun v => s.isOwed core v.thread

/-- Slots of a core that a record may take: none while a thread is owed re-admission, since it takes the next one (R208). -/
def State.openSlots (s : State) (core : CoreId) : Nat :=
  if (s.owedSave core).isSome then 0 else (s.getCore core).freeSlots.length

/-- Whether a core has the free banks of a task. -/
def State.banksFree (s : State) (core : CoreId) (w : Word) : Bool :=
  !s.coreOff core && decide ((s.getCore core).banksUsed + banksOf w ≤ Config.banks false)

/-- Whether a core can take a team of `n` threads at once. -/
def State.admits (s : State) (core : CoreId) (n : Nat) (w : Word) : Bool :=
  s.banksFree core w && decide (n ≤ s.openSlots core)

/-- The cores on which a record would run if this core dispatched it: the position it leads, or itself. -/
def State.coresFor (s : State) (core : CoreId) (r : TaskRec) (l : Launch) : Option (List CoreId) :=
  if r.thread then some [core] else ((s.positions l.partn l.gangw).find? fun p => p.lead == core).map (·.cores)

/-- The members of each of its teams. -/
def teamSize (r : TaskRec) (l : Launch) : Nat := if r.thread then 1 else l.team

/-- Whether a core can run a record at once, and the cores that it takes, in rank order (R192): not while the context table
is out of use (R117). -/
def State.hosts (s : State) (core : CoreId) (r : TaskRec) : Option (List CoreId) :=
  match s.launchAt r.lh with
  | none => none
  | some l =>
    if l.aborted || !s.ctxtEn || !s.partRuns l.partn || !(((s.parts[l.partn]?).map Part.dies).getD 0).getLsbD (sockOf core) then none
    else
      match s.coresFor core r l with
      | none => none
      | some cs => if cs.all fun c => s.admits c (teamSize r l) l.poolpart then some cs else none

/-- The priority of a record (R200). -/
def State.prioOf (s : State) (r : TaskRec) : Nat := ((s.launchAt r.lh).map (·.prio)).getD 0

/-- The first record of the highest priority in a list that a core can run. -/
def State.pickRec (s : State) (core : CoreId) (rs : List TaskRec) : Option (TaskRec × List CoreId) :=
  [3, 2, 1, 0].findSome? fun p => rs.findSome? fun r => if s.prioOf r = p then (s.hosts core r).map fun cs => (r, cs) else none

/-! Restores (R206, R208, R298): the choice. -/

/-- Whether a spilled thread's registers fit its team's share again (R216). -/
def Core.framesFit (k : Core) (v : Saved) : Bool :=
  k.teams.any fun t => t.id == v.thread.team && decide (t.frames + v.thread.allot ≤ 8 * rfbOf t.poolpart)

/-- On whose behalf a spilled joiner's counter is read. -/
def joinAsid (core : CoreId) (v : Saved) : Asid := ⟨core, 0, v.thread.ctx, v.thread.mode, false⟩

/-- The counter of a spilled joiner read (R298): it comes back once it reads 0, or so that its JOIN takes the fault. -/
def State.readJoin (s : State) (core : CoreId) (v : Saved) : State :=
  match v.joins with
  | none => s
  | some va =>
    let put := fun (s : State) => s.onCore core fun k => { k with saves := k.saves.map fun (x : Saved) =>
      if x.thread.order = v.thread.order then { x with due := true } else x }
    match s.engLoad (joinAsid core v) dispatchId va 8 with
    | (.value x, s) => if x = 0 then put s else s
    | (.fail .., s) => put s
    | (.wait _, s) => s

/-- The spilled thread that a core restores next: an owed one, which no other overtakes while it waits for frames (R208,
R218); then joiners whose counter reads 0; then the highest priority. -/
def State.restoreNext (s : State) (core : CoreId) : Option Saved :=
  let k := s.getCore core
  match s.owedSave core with
  | some v => if k.framesFit v then some v else none
  | none =>
    let vs := k.saves.filter k.framesFit
    (vs.find? fun v => v.due) <|> [3, 2, 1, 0].findSome? fun p => vs.find? fun v => v.joins.isNone && v.thread.prio == p

/-- Whether a restore comes before the dispatch of a record of a priority (R206). -/
def State.restoreFirst (s : State) (core : CoreId) (prio : Nat) : Bool :=
  let k := s.getCore core
  !k.freeSlots.isEmpty &&
    (match s.restoreNext core with
     | some v => s.isOwed core v.thread || v.joins.isSome || decide (prio ≤ v.thread.prio)
     | none => false)

/-! Starting a task (R122, R193 to R195, R381). -/

/-- XVEC of a context from the trap vector table (R381), wherever it lies: 0 when the table is not in use or the read fails. -/
def State.trapVector (s : State) (core : CoreId) (ctx : BitVec 16) : Loaded Word × State :=
  let a := s.tvBase + 8 * ctx.toNat
  if !s.tvEn then (.value 0, s)
  else if !s.isDevMem a then
    match s.engPiece core dispatchId 0 ⟨a, 0⟩ 8 with
    | (.value v, s) => (.value (w64 v &&& ~~~3#64), s)
    | (.wait w, s) => (.wait w, s)
    | (.fail .., s) => (.value 0, s)
  else
    match s.serveRead core a 8 false with
    | (.done v, s) => (.value (w64 v &&& ~~~3#64), s)
    | (.wait w, s) => (.wait w, s)
    | (.fail _, s) => (.value 0, s)

/-- A declared range (R188): base, length and step. -/
structure RangeDesc where
  base : Word
  len : Nat
  step : Int
  deriving DecidableEq, Repr

/-- The range of a task, if it is in use and canonical: its first byte and its length. -/
def RangeDesc.at (d : RangeDesc) (task : Nat) : Option (Nat × Nat) :=
  let lo := d.base + w64i (Int.ofNat task * d.step)
  let hi := lo + w64 (d.len - 1)
  if 0 < d.len ∧ canonical lo ∧ canonical hi ∧ lo.toNat ≤ hi.toNat then some (lo.toNat, d.len) else none

/-- `n` range descriptors read from an address; one that cannot be read gives none. -/
def State.readRanges (s : State) (a : Asid) (va : Word) : Nat → Loaded (List RangeDesc) × State
  | 0 => (.value [], s)
  | n + 1 =>
    match s.engLoad a dispatchId va 16 with
    | (.wait w, s) => (.wait w, s)
    | (x, s) =>
      match s.readRanges a (va + 16) n with
      | (.value l, s) =>
        match x with
        | .value v => (.value (⟨w64 v, v / 2 ^ 64 % 2 ^ 32, sint (v / 2 ^ 96) 32⟩ :: l), s)
        | _ => (.value l, s)
      | y => y

/-- One more piece of an extent table: it extends the last extent, or is a new one while there is room. -/
def addExtent (xs : List Extent) (x : Extent) : Option (List Extent) :=
  match xs.getLast? with
  | some y =>
    if y.leaf = x.leaf ∧ y.vbase + y.len = x.vbase ∧ y.pbase + y.len = x.pbase then
      some (xs.dropLast ++ [{ y with len := y.len + x.len, lines := (y.lines ++ x.lines).eraseDups }])
    else if xs.length < Config.extentMax then some (xs ++ [x]) else none
  | none => some [x]

/-- The extents of one range, page by page: `fuel` pages at most; a full table ends the work (R122). -/
def State.rangeExtents (s : State) (core : CoreId) (ctx : BitVec 16) (va last : Nat) (xs : List Extent) :
    Nat → Loaded (List Extent × Bool) × State
  | 0 => (.value (xs, true), s)
  | fuel + 1 =>
    if last < va then (.value (xs, true), s)
    else
      match s.walk core ctx (w64 va) with
      | (.error e, s) =>
        match e.wait with
        | some w => (.wait w, s)
        | none => s.rangeExtents core ctx ((va / 65536 + 1) * 65536) last xs fuel
      | (.ok l, s) =>
        let size := 2 ^ l.log2
        let stop := min last ((va / size + 1) * size - 1)
        let x : Extent := ⟨va, stop + 1 - va, l.pbase + va % size, l.bits, l.lines⟩
        match addExtent xs x with
        | some xs => s.rangeExtents core ctx (stop + 1) last xs fuel
        | none => (.value (xs, false), s)

/-- The extent table of a task (R122), from its ranges in declaration order. -/
def State.buildExtents (s : State) (core : CoreId) (ctx : BitVec 16) (xs : List Extent) :
    List (Nat × Nat) → Loaded (List Extent) × State
  | [] => (.value xs, s)
  | (lo, n) :: r =>
    match s.rangeExtents core ctx lo (lo + n - 1) xs (n / 65536 + 2) with
    | (.value (xs, true), s) => s.buildExtents core ctx xs r
    | (.value (xs, false), s) => (.value xs, s)
    | (.wait w, s) => (.wait w, s)
    | (.fail f va pa, s) => (.fail f va pa, s)

/-- The registers of a thread at its start (R193). -/
def startRegs (r : TaskRec) (x12 : Nat) : Regs := (((Regs.zero.wx 2 r.sp).wx 10 r.a0).wx 11 r.a1).wx 12 (w64 x12)

/-- What every member of a task starts with: its record, launch, gang, band, trap vector and extents. -/
structure Start where
  task : TaskRec
  l : Launch
  cores : List CoreId
  band : Option Nat
  xvec : Word
  ranges : List (Nat × Nat)
  deriving DecidableEq, Repr

/-- A thread at its start (R193). -/
def Start.thread (b : Start) (rank member team tid : Nat) (xs : List Extent) : Thread :=
  let r := b.task
  { Thread.empty with
    status := .ready
    regs := startRegs r (if r.thread then 0 else rank * b.l.team + member)
    pc := r.pc
    xvec := b.xvec
    kind := if r.thread then .thread else .gang
    task := r.task
    lh := r.lh
    ctx := b.l.ctx
    joinp := r.joinp
    fmtp := r.fmtp
    scopet := b.l.scopet
    rank := rank
    member := member
    gangw := b.cores.length
    teamw := teamSize r b.l
    prio := b.l.prio
    team := team
    band := b.band
    order := tid
    extents := xs }

/-- The teams of a core with their banks in one run from the lowest bank. -/
def packTeams (at' : Nat) : List Team → List Team
  | [] => []
  | t :: r => { t with firstBank := at' } :: packTeams (at' + banksOf t.poolpart) r

/-- Free banks for a team, in one run: the other teams' shares move together when no run is long enough (R214: a share may
lie in any banks). -/
def Core.placeBanks (k : Core) (need : Nat) : Nat × Core :=
  let used := (k.teams.filter fun t => 0 < banksOf t.poolpart).map fun t => (t.firstBank, banksOf t.poolpart)
  let at' := firstRoom need 0 (sortBy (·.1) used)
  if at' + need ≤ Config.banks false then (at', k) else (k.banksUsed, { k with teams := packTeams 0 k.teams })

/-- A team at its start. -/
def Start.team (b : Start) (rank id firstBank : Nat) : Team where
  id := id
  poolpart := b.l.poolpart
  firstBank := firstBank
  lh := b.task.lh
  ctx := b.l.ctx
  task := b.task.task
  prio := b.l.prio
  kind := if b.task.thread then .thread else .gang
  members := teamSize b.task b.l
  stopped := 0
  gang := b.cores
  rank := rank
  frames := 0
  pool := []
  acc := []
  ckpt := ⟨[], false, [], []⟩
  bartCount := 0
  bartDone := 0
  bargCount := 0
  bargDone := 0
  barbCount := 0
  barbPhase := false
  band := b.band

/-- A thread placed in an empty slot: the slot's translations of another context are dropped (R123). -/
def Core.place (k : Core) (slot : Fin 8) (t : Thread) : Core :=
  { k with
    slots := k.slots.set slot t
    tlb := k.tlb.filter fun e => e.slot != slot.val || e.leaf.getLsbD 5 || e.ctx == t.ctx }

/-- A team starts on one core (R193): its banks, its members in the lowest free slots, the dispatch unit's reads (R194,
R195), and its checkpoint (R142). -/
def State.startTeam (s : State) (b : Start) (rank : Nat) (core : CoreId) : State :=
  match s.buildExtents core b.l.ctx [] b.ranges with
  | (x, s) =>
    let xs := match x with
      | .value xs => xs
      | _ => []
    let k := s.getCore core
    let slots := k.freeSlots.take (teamSize b.task b.l)
    let (bank, k) := k.placeBanks (banksOf b.l.poolpart)
    let id := k.nextTeam + 1
    let tid := k.nextOrder + 1
    let k := { k with
      teams := k.teams ++ [b.team rank id bank], nextTeam := id, nextOrder := k.nextOrder + slots.length, stealNext := 0 }
    let k := slots.zipIdx.foldl (fun k p => k.place p.1 (b.thread rank p.2 id (tid + p.2) xs)) k
    let s := s.putCore core k
    let s := slots.foldl (fun s sl => s.asThread core sl fun s => s.dispatchReads true (.taskReplay core sl)) s
    s.onCore core fun k => k.openCheckpoint id

/-- The ranges of a task that are in use and canonical (R188). -/
def taskRanges (r : TaskRec) (ds : List RangeDesc) : List (Nat × Nat) := ds.filterMap fun d => d.at r.task.toNat

/-- What the dispatch unit reads before a task starts: the trap vector, the range descriptors, and every page-table entry of
the ranges, so that each core of the task then builds its extents without a wait. -/
def State.readStart (s : State) (lead : CoreId) (l : Launch) (r : TaskRec) : Option (Word × List RangeDesc) × State :=
  match s.trapVector lead l.ctx with
  | (.value xvec, s) =>
    match s.readRanges ⟨lead, 0, l.ctx, .user, false⟩ r.rngp r.nrng with
    | (.value ds, s) =>
      match s.buildExtents lead l.ctx [] (taskRanges r ds) with
      | (.value _, s) => (some (xvec, ds), s)
      | (_, s') => (none, s'.keepGot s lead)
    | (_, s') => (none, s'.keepGot s lead)
  | (_, s') => (none, s'.keepGot s lead)

/-- The start of a task on its cores (R192: on one cycle), after those reads. -/
def State.startTask (s : State) (r : TaskRec) (l : Launch) (cores : List CoreId) (band : Option Nat)
    (x : Word × List RangeDesc) : State :=
  let b : Start :=
    { task := r, l := l, cores := cores, band := band, xvec := x.1, ranges := taskRanges r x.2 }
  cores.zipIdx.foldl (fun s p => s.startTeam b p.2 p.1) s

/-! Dealing (R187, R189). -/

/-- NRNG of a launch (R187): bits [3:0] of the doubleword at ARGS, at most 8; 0 when it cannot be read. -/
def State.readNrng (s : State) (core : CoreId) (l : Launch) : Loaded Nat × State :=
  match s.engLoad ⟨core, 0, l.ctx, .user, false⟩ dispatchId l.args 8 with
  | (.value v, s) => (.value (min 8 (v % 16)), s)
  | (.fail .., s) => (.value 0, s)
  | (.wait w, s) => (.wait w, s)

/-- The record of a launch's task (R187). -/
def dealtRec (h : Nat) (l : Launch) (task nrng : Nat) : TaskRec where
  pc := l.entry
  a0 := l.args
  a1 := w64 task
  sp := 0
  fmtp := l.fmtctx
  rngp := l.args + 8
  joinp := 0
  task := BitVec.ofNat 32 task
  lh := h
  thread := false
  nrng := nrng

/-- A record pushed at the top of a deque (R191); a push ends the core's wait before stealing (R199). -/
def State.pushTop (s : State) (core : CoreId) (r : TaskRec) : State :=
  (s.onCore core fun k => { k with deque := k.deque ++ [r], stealWait := none, stealNext := 0 }).keepSpilled core

/-- The next task of a launch on its position (R189); false while the dealer waits. -/
def State.deal (s : State) (h : Nat) (l : Launch) : Bool × State :=
  let ps := s.positions l.partn l.gangw
  match ps[l.next % ps.length]? with
  | none => (false, s)
  | some p =>
    if !s.partRuns l.partn || 32 ≤ (s.getCore p.lead).deque.length then (false, s)
    else
      match s.readNrng p.lead l with
      | (.value n, s) =>
        let s := s.pushTop p.lead (dealtRec h l l.next n)
        let s := { s with launches := mapSet s.launches h { l with next := l.next + 1, live := l.live + 1 } }
        (true, s.later (.taskDispatch p.lead))
      | (_, s) => (false, s)

/-- R189: the dealer deals the next task of a launch, or waits. -/
def execDealTask (h : Nat) (s : State) : Host.Outcome State Fault Refusal :=
  .next (match s.launchAt h with
    | none => s
    | some l =>
      if l.aborted || decide (l.ntask ≤ l.next) || decide (0 < l.bandg) then s
      else
        match s.deal h l with
        | (true, s) => if l.next + 1 < l.ntask then s.later (.dealTask h) else s
        | (false, s) => s.hold (.dealTask h))

/-! Bands (R196). -/

/-- An identifier of the causeway that no band holds. -/
def State.freeCauseway (s : State) : Option (Fin 64) := (List.finRange 64).find? fun i => !s.causeway[i].used

/-- A band is admitted: every gang of it can start at once (R196); false while the dealer waits. The root of the causeway is
programmed with the count of its cores; no arrival stands, and its phase is 0 again, which the rules leave open (log 65). -/
def State.admitBand (s : State) (h : Nat) (l : Launch) : Bool × State :=
  let n := min l.bandg (l.ntask - l.next)
  let ps := ((s.positions l.partn l.gangw).filter fun p => p.cores.all fun c => s.admits c l.team l.poolpart).take n
  match s.freeCauseway with
  | none => (false, s)
  | some id =>
    if !s.partRuns l.partn || !s.ctxtEn || ps.length < n then (false, s)
    else
      let lead := (ps.head?.map (·.lead)).getD 0
      match s.readNrng lead l with
      | (.value nrng, s) =>
        match s.readStart lead l (dealtRec h l l.next nrng) with
        | (none, s) => (false, s)
        | (some x, s) =>
          let cores := ps.flatMap (·.cores)
          let c : Causeway := ⟨true, cores.length, 0, 0, false, false, false⟩
          let s := { s with
            causeway := s.causeway.set id c
            bands := s.bands ++ [(id.val, h, cores, n)]
            launches := mapSet s.launches h { l with next := l.next + n, live := l.live + n } }
          (true, ps.zipIdx.foldl (fun s p => s.startTask (dealtRec h l (l.next + p.2) nrng) l p.1.cores (some id.val) x) s)
      | (_, s) => (false, s)

/-- R196: the next band of a launch is admitted, or waits. -/
def execBandAdmit (h : Nat) (s : State) : Host.Outcome State Fault Refusal :=
  .next (match s.launchAt h with
    | none => s
    | some l =>
      if l.aborted || decide (l.ntask ≤ l.next) || l.bandg == 0 then s
      else
        match s.admitBand h l with
        | (true, s) => if l.next + l.bandg < l.ntask then s.later (.bandAdmit h) else s
        | (false, s) => s.hold (.bandAdmit h))

/-! Spills (R206, R298): which slots a waiting record needs. -/

/-- Whether a thread may be spilled for a record of a priority: its task has a lower one, and R208 does not protect it. -/
def Thread.spillable (p : Nat) (t : Thread) : Bool :=
  t.status != .empty && t.status != .parked .stopped && t.status != .parked .halted && t.protect.isEmpty && decide (t.prio < p)

/-- The slots of a core that may be spilled for a priority. -/
def Core.victims (k : Core) (p : Nat) : List (Fin 8) := (List.finRange 8).filter fun i => k.slots[i].spillable p

/-- Slots that a core lacks for a record, if spills can provide them; none when they cannot, or when the next slot is owed to
a spilled thread (R208). -/
def State.lacks (s : State) (core : CoreId) (n p : Nat) : Option Nat :=
  let k := s.getCore core
  let miss := n - s.openSlots core
  if (s.owedSave core).isNone ∧ miss ≤ (k.victims p).length ∧ miss + k.saves.length ≤ Config.saveAreas then some miss else none

/-- The cores of a record that lack slots only, when spills can provide them on all of them (R206). -/
def State.spillsFor (s : State) (core : CoreId) (r : TaskRec) : List CoreId :=
  match s.launchAt r.lh with
  | none => []
  | some l =>
    if l.aborted || !s.ctxtEn || !s.partRuns l.partn then []
    else
      match s.coresFor core r l with
      | none => []
      | some cs =>
        if cs.all fun c => s.banksFree c l.poolpart && (s.lacks c (teamSize r l) l.prio).isSome then
          cs.filter fun c => s.lacks c (teamSize r l) l.prio != some 0
        else []

/-- The record of the highest priority for which a core could spill: its priority and the cores that lack slots. -/
def State.spillRec (s : State) (core : CoreId) : Option (Nat × List CoreId) :=
  [3, 2, 1].findSome? fun p => (s.getCore core).deque.findSome? fun r =>
    if s.prioOf r = p then (match s.spillsFor core r with
      | [] => none
      | cs => some (p, cs)) else none

/-- The priority of the records for which a core must spill, from the deques of its cluster's cores. -/
def State.spillNeed (s : State) (core : CoreId) : Option Nat :=
  let base := siteOf core / 4 * 4
  ((List.range 4).filterMap fun i =>
    match s.spillRec (coreOf (sockOf core) (base + i)) with
    | some (p, cs) => if cs.contains core then some p else none
    | none => none).max?

/-- The joiner that a core spills for a child of the same launch (R298): no free slot, a free save area, and a thread task of
the launch whose banks are free. Of several slots in JOIN it is the lowest, which the rule leaves open (log 88). -/
def State.joinerToSpill (s : State) (core : CoreId) : Option (Fin 8) :=
  let k := s.getCore core
  if !k.freeSlots.isEmpty || decide (Config.saveAreas ≤ k.saves.length) || !s.ctxtEn then none
  else
    (List.finRange 8).find? fun i =>
      (match k.slots[i].status with
       | .parked (.join ..) => true
       | _ => false) &&
      k.deque.any fun r => r.thread && r.lh == k.slots[i].lh &&
        (match s.launchAt r.lh with
         | some l => !l.aborted && s.partRuns l.partn && s.banksFree core l.poolpart
         | none => false)

/-! Stealing (R198, R199): who steals. -/

/-- Whether a core is idle (R198): a free slot, and no record in its deque that it can run. -/
def State.idleCore (s : State) (core : CoreId) : Bool :=
  let k := s.getCore core
  !s.coreOff core && !k.freeSlots.isEmpty && (s.pickRec core k.deque).isNone

/-- The dies of the partition that runs on a die. -/
def State.partDies (s : State) (die : Nat) : BitVec 16 :=
  ((s.parts.toList.find? fun x => x.runs && x.dies.getLsbD die).map (·.dies)).getD 0

/-- A core starts to steal when it is idle (R198), unless it waits after a full sequence or has a request outstanding. -/
def State.trySteal (s : State) (core : CoreId) : State :=
  let k := s.getCore core
  if isCmd core || !s.lctLock || !s.ctxtEn || s.partDies (sockOf core) == 0 || !s.siteOn (sockOf core) (siteOf core) ||
      k.stealOut || k.stealWait.isSome || !s.idleCore core then s
  else (s.onCore core fun k => { k with stealOut := true }).later (.stealRequest core)

/-- A core whose deque keeps a record that another idle core of the partition can run: that core steals. -/
def State.offerSteal (s : State) (core : CoreId) : State :=
  let dies := s.partDies (sockOf core)
  let thief := s.enabledSites.find? fun c =>
    c != core && dies.getLsbD (sockOf c) && s.dieLive (sockOf c) &&
      (let k := s.getCore c
       !k.stealOut && k.stealWait.isNone && !s.coreOff c && !k.freeSlots.isEmpty) &&
      (s.pickRec c (s.getCore core).deque).isSome
  match thief with
  | some c => s.trySteal c
  | none => s

/-! Dispatch. -/

/-- The cores of a cluster whose deque holds a record dispatch again, after slots or banks have become free. -/
def State.wakeCluster (s : State) (core : CoreId) : State :=
  let base := siteOf core / 4 * 4
  ((List.range 4).map fun i => coreOf (sockOf core) (base + i)).foldl
    (fun s c => if (s.getCore c).deque.isEmpty then s else s.later (.taskDispatch c)) s

/-- What a core does that can dispatch nothing: spills (R206, R298), a steal of its own, an offer to an idle core. -/
def State.cannotDispatch (s : State) (core : CoreId) : State :=
  match s.spillRec core with
  | some (_, cs) => cs.foldl (fun s c => s.later (.slotSpill c)) s
  | none =>
    match s.joinerToSpill core with
    | some sl => s.later (.joinSpill core sl)
    | none => (s.trySteal core).offerSteal core

/-- A record that its owner dispatches leaves the deque: the one nearest the bottom (R191). -/
def State.popRec (s : State) (core : CoreId) (r : TaskRec) : State :=
  (s.onCore core fun k => { k with deque := k.deque.erase r, child := none }).keepSpilled core

/-- A record that a thief takes leaves the deque: the one nearest the top (R191, R198). -/
def State.popTop (s : State) (core : CoreId) (r : TaskRec) : State :=
  (s.onCore core fun k => { k with deque := (k.deque.reverse.erase r).reverse }).keepSpilled core

/-- The record for which a joiner has made room, if the core can run it now (R298). -/
def State.pickChild (s : State) (core : CoreId) : Option (TaskRec × List CoreId) :=
  (s.getCore core).child.bind fun r =>
    if (s.getCore core).deque.contains r then (s.hosts core r).map fun cs => (r, cs) else none

/-- A record's task starts on some cores, once the dispatch unit has what it reads first. -/
def State.dispatchRec (s : State) (core : CoreId) (r : TaskRec) (cs : List CoreId) : State :=
  match s.launchAt r.lh with
  | none => s
  | some l =>
    match s.readStart (cs.headD core) l r with
    | (some x, s) => (((s.popRec core r).startTask r l cs none x).requeueHeld).later (.taskDispatch core)
    | (none, s) => s.hold (.taskDispatch core)

/-- One dispatch of a core (R192), the restores that come first on a core it takes (R206), or what it does instead; on a core
that is off it waits. -/
def State.dispatch (s : State) (core : CoreId) : State :=
  let k := s.getCore core
  if s.coreOff core then (if k.deque.isEmpty then s else s.hold (.taskDispatch core))
  else if k.deque.isEmpty then s.trySteal core
  else if !s.ctxtEn then s.hold (.taskDispatch core)
  else
    match s.pickChild core, s.pickRec core k.deque with
    | some (r, cs), _ => s.dispatchRec core r cs
    | none, none => s.cannotDispatch core
    | none, some (r, cs) =>
      let first := cs.filter fun c => s.restoreFirst c (s.prioOf r)
      if !first.isEmpty then (first.foldl (fun s c => s.later (.slotRestore c)) s).later (.taskDispatch core)
      else s.dispatchRec core r cs

/-- R192. -/
def execTaskDispatch (core : CoreId) (s : State) : Host.Outcome State Fault Refusal :=
  .next (if isCmd core then s else s.dispatch core)

/-- R180: a LOCK write; dealing that waited for it goes on. -/
def execLctctlLock (s : State) : Host.Outcome State Fault Refusal := .next s.lockLct

/-! Retirement (R137, R197). -/

/-- The teams of a task: those of its gang, or one. -/
def State.taskTeams (s : State) (core : CoreId) (tm : Team) : List (CoreId × Nat) :=
  if tm.kind = .gang then
    tm.gang.flatMap fun c =>
      ((s.getCore c).teams.filter fun t => t.lh == tm.lh && t.task == tm.task && t.kind == .gang).map fun t => (c, t.id)
  else [(core, tm.id)]

/-- Whether every member of a task has stopped. -/
def State.allStopped (s : State) (ts : List (CoreId × Nat)) : Bool :=
  ts.all fun p => match s.teamAt p.1 p.2 with
    | some t => decide (t.members ≤ t.stopped)
    | none => true

/-- The members of a killed team stop at their instruction boundary. -/
def Core.stopMembers (k : Core) (team : Nat) : Core :=
  k.onMembers team fun t => { t with status := .parked .stopped, watch := Vector.replicate 4 WatchEntry.clear }

/-- The copies of a team. -/
def Core.copiesOf (k : Core) (team : Nat) : List Copy := k.copies.filter fun c => (k.tidsOf team).contains c.tid

/-- The stores of a killed team leave staging, are performed, and their kills are acknowledged; false while one waits. -/
def State.settleTeam (s : State) (core : CoreId) (team : Nat) : Bool × State :=
  let ids := ((s.getCore core).copiesOf team).map (·.id)
  let tids := (s.getCore core).tidsOf team
  let s := (s.onCore core fun k => k.stopMembers team).sealOf core team
  match s.performAll core ((s.getCore core).inflight.filter fun p => tids.contains p.tid) with
  | (.done _, s) =>
    let s := tids.foldl (fun s t => s.finishKills core t) s
    (!(s.outstanding.any fun o => o.core == core && o.write.isSome &&
        (match o.engine with
         | none => tids.contains o.tid
         | some id => ids.contains id)), s)
  | (_, s) => (false, s)

/-- Every team of a killed task. -/
def State.settleAll (s : State) : List (CoreId × Nat) → Bool × State
  | [] => (true, s)
  | p :: r =>
    match s.settleTeam p.1 p.2 with
    | (a, s) =>
      match s.settleAll r with
      | (b, s) => (a && b, s)

/-- Entries of a core's team that still wait for space are written as dropped (R137). -/
def State.dropWaiting (s : State) (core : CoreId) (slots : List Nat) : State :=
  { s with fqWait := s.fqWait.map fun (q : FqItem) =>
    if q.core == core && slots.contains q.slot.val then { q with entry := { q.entry with stat := 2 } } else q }

/-- The slots of a team. -/
def Core.slotsOf (k : Core) (team : Nat) : List Nat :=
  (List.range 8).filter fun i => match k.slots[i]? with
    | some t => t.status != .empty && t.team == team
    | none => false

/-- A core without a team: its slots, save areas, rings, matrix operations and copies are free. -/
def Core.dropTeam (k : Core) (team : Nat) : Core :=
  let ids := (k.copiesOf team).map (·.id)
  let tids := k.tidsOf team
  { k with
    slots := k.slots.map fun t => if t.status != .empty && t.team == team then
        { t with
          status := .empty
          allot := 0
          log := []
          held := []
          records := []
          extents := []
          got := []
          near := 0
          dev := 0
          hst := 0
          reserved := false
          packing := []
          sent := none
          scopeTab := none
          walked := []
          owes := none }
      else t
    saves := k.saves.filter fun v => v.thread.team != team
    teams := k.teams.filter fun t => t.id != team
    rings := k.rings.map fun r => match r with
      | some g => if g.team = team then none else some g
      | none => none
    matq := k.matq.filter fun o => o.team != team
    copies := k.copies.filter fun c => !ids.contains c.id
    staging := k.staging.filter fun p => !tids.contains p.tid
    stagedAt := mapErase k.stagedAt team }

/-- Waits for room in the engine queues of a core. -/
def waitsRoom : Wait → Bool
  | .matqFull | .copyFull => true
  | _ => false

/-- One team of a retired task leaves its core. -/
def State.retireTeam (s : State) (core : CoreId) (team : Nat) : State :=
  let k := s.getCore core
  let s := (k.threads.filter (·.team == team)).foldl State.dropEntries s
  let s := s.dropWaiting core (k.slotsOf team)
  let s := (s.onCore core fun k => k.dropTeam team).retryOn core waitsRoom
  (s.later (.slotRestore core)).wakeCluster core

/-- A task of a band has retired (R196): the last one frees the identifier. -/
def State.endBandTask (s : State) (id : Nat) : State :=
  match s.bands.find? fun b => b.1 == id with
  | none => s
  | some b =>
    if b.2.2.2 ≤ 1 then
      { s with
        bands := s.bands.filter fun x => x.1 != id
        causeway := s.causeway.setIfInBounds id ⟨false, 0, 0, 0, false, false, false⟩ }
    else { s with bands := s.bands.map fun (x : Nat × Nat × List CoreId × Nat) => if x.1 = id then (x.1, x.2.1, x.2.2.1, x.2.2.2 - 1) else x }

/-- A launch with one running task less: with none left, and none to deal, it completes (R79). -/
def State.endTask (s : State) (h : Nat) : State :=
  match s.launchAt h with
  | none => s
  | some l =>
    let l := { l with live := l.live - 1 }
    let s := { s with launches := mapSet s.launches h l }
    if l.live = 0 ∧ (l.aborted ∨ l.next = l.ntask) then s.later (.launchComplete h) else s

/-- The retirement of a task. -/
def State.retire (s : State) (tm : Team) (ts : List (CoreId × Nat)) : State :=
  let s := ts.foldl (fun s p => s.retireTeam p.1 p.2) s
  let s := match tm.band with
    | some id => s.endBandTask id
    | none => s
  (s.endTask tm.lh).requestEnded

/-- The forked thread of a team that has not made its join step (R197). -/
def Core.joiner (k : Core) (tm : Team) : Option Thread :=
  if tm.kind = .thread ∧ tm.stopped = 0 then k.threads.find? fun t => t.team == tm.id && t.joinp != 0 else none

/-- The join step at the retirement of a forked task whose launch is aborted (R197): 1 less in its counter, as a write of the
thread; true once it is on its way. A counter that cannot be reached stays as it is, since the task takes no fault any more. -/
def State.abortJoin (s : State) (core : CoreId) (tm : Team) : Loaded Bool × State :=
  match (s.getCore core).joiner tm with
  | none => (.value false, s)
  | some t =>
    let made := fun (s : State) => s.onTid core t.order fun t => { t with joinp := 0 }
    let a : Asid := ⟨core, 0, t.ctx, t.mode, false⟩
    if t.joinp.toNat % 8 ≠ 0 then (.value false, made s)
    else
      match s.xlate a t.joinp 8 .atomic with
      | (.error f, s) =>
        match f.wait with
        | some w => (.wait w, s)
        | none => (.value false, made s)
      | (.ok p, s) =>
        let w : WriteMsg := { engMsg a t.pc t.joinp p 8 (2 ^ 64 - 1) with amo := some (0, 0), seq := s.issued }
        let s := { s with issued := s.issued + 1 }
        let s := (made s).onTid core t.order fun t => { t with near := t.near + 1, dev := t.dev + 1, hst := t.hst + 1 }
        (.value true, s.enqueueWrite core ⟨t.order, w, false⟩)

/-- A task whose launch is aborted retires once its writes, and its join step, are acknowledged (R197). -/
def State.retireAborted (s : State) (core : CoreId) (tm : Team) (ts : List (CoreId × Nat)) : State :=
  let again : Instr := .taskRetire core tm.id
  match s.settleAll ts with
  | (false, s) => s.hold again
  | (true, s) =>
    match s.abortJoin core tm with
    | (.value false, s) => s.retire tm ts
    | (.value true, s) => s.later again
    | (_, s) => s.hold again

/-- Whether a launch's partition is halted or swapped out: its tasks retire after RESUME (R209). -/
def State.launchHalted (s : State) (h : Nat) : Bool :=
  match s.launchAt h with
  | some l => (s.parts[l.partn]?).any fun x => x.state == 2 || x.state == 3
  | none => false

/-- R197: a task retires when all its members have stopped, or when its launch is aborted; while its partition is halted, not
before RESUME (R209). -/
def execTaskRetire (core : CoreId) (team : Nat) (s : State) : Host.Outcome State Fault Refusal :=
  .next (match s.teamAt core team with
    | none => s
    | some tm =>
      let ts := s.taskTeams core tm
      if s.launchHalted tm.lh then s.hold (.taskRetire core team)
      else if s.allStopped ts then s.retire tm ts
      else if s.isAborted tm.lh then s.retireAborted core tm ts
      else s)

/-! The completion of a launch (R79). -/

/-- On whose behalf the completion writes are made: the launch's context, in supervisor mode, by the host die of its
supervising command core. -/
def doneAsid (l : Launch) : Asid := ⟨cmdCore l.sup, 0, l.ctx, .supervisor, false⟩

/-- The write that adds 1 to the counter. -/
def doneAdd (a : Asid) (va : Word) (p : Phys) : WriteMsg := { engMsg a 0 va p 8 1 with amo := some (0, 0) }

/-- 1 added to the counter in the host window: on the line once the device owns it, or by the host die, which takes the line
by RdOwn for this one atomic (R66, R313). -/
def State.doneHost (s : State) (a : Asid) (l : Launch) (va : Word) (p : Phys) : Loaded Unit × State :=
  let id := doneId l.sup
  let w := doneAdd a va p
  if p.hc then s.engHost a.core id w
  else
    match s.engGot a.core id p.pa 8 with
    | some g =>
      let s := s.onCore a.core fun k => { k with got := k.got.erase g }
      (match g.fail with
       | some c => .fail (xfail c 0) va p.pa
       | none => .value (), s)
    | none =>
      match s.outstanding.find? fun o => o.core == a.core && o.engine == some id && o.amo.isSome with
      | some o => (.wait (.response o.tag), s)
      | none =>
        if !s.canSend a.core p.pa then (.wait .slot, s)
        else
          let tag := s.freeTag a.core
          let o : Outstanding :=
            { core := a.core, tag := tag, tid := 0, pa := p.pa, n := 8, pkg := pkgOf p.pa, plane := none, write := none,
              fill := false, engine := some id, nearDone := true, devDone := true, amo := some w }
          (.wait (.response tag), s.hostRequest o .rdOwn 64 none)

/-- 1 added to the counter in another package: a courier message of one atomic (R147), once there is a response slot. -/
def State.doneAway (s : State) (a : Asid) (l : Launch) (va : Word) (p : Phys) : Loaded Unit × State :=
  if !s.canSend a.core p.pa then (.wait .slot, s)
  else
    let w := doneAdd a va p
    let c := s.courierAmo a.core 0 false w 0 0
    let tag := s.freeTag a.core
    let pkg := pkgOf p.pa
    let o : Outstanding :=
      { core := a.core, tag := tag, tid := 0, pa := p.pa, n := 8, pkg := pkg, plane := none, write := some w, fill := false,
        engine := some (doneId l.sup), nearDone := true, devDone := false
        msgs := [(s.reqHead a.core tag 0 pkg .courier 64 p.pa).slot :: courierSlots c] }
    (.value (), (s.enterGateway o).out (.courier pkg 0 c))

/-- One of the two writes of R79, which needs RD and WR: the status, or the count. -/
def State.doneWrite (s : State) (l : Launch) (count : Bool) : Loaded Unit × State :=
  let a := doneAsid l
  let va := if count then l.done else l.done + 8
  match s.xlate a va 8 .atomic with
  | (.error f, s) => (engFault f va, s)
  | (.ok p, s) =>
    if !count then s.engStorePieces a (doneId l.sup) 0 0 va l.status [(p, 8)]
    else if !s.isLocal p.pa then s.doneAway a l va p
    else if regionOf p.pa == .host then s.doneHost a l va p
    else if !s.isDevMem p.pa then (.fail (xfail 0x13 0) va p.pa, s)
    else
      match s.atomicDev ⟨a.core, 0, a.ctx, false⟩ p.pa 0 1 0 with
      | (.done _, s) => (.value (), s)
      | (.wait w, s) => (.wait w, s)
      | (.fail c, s) => (.fail (xfail c 0) va p.pa, s)

/-- Whether a completion write of a command core is not acknowledged yet. -/
def State.doneOut (s : State) (sup : Nat) : Bool :=
  s.outstanding.any fun o => o.core == cmdCore sup && o.engine == some (doneId sup) && o.write.isSome

/-- A launch's table entry frees (R186), with every core's copy of its scope table. -/
def State.freeLaunch (s : State) (h : Nat) : State :=
  let s := { s with launches := mapErase s.launches h }
  let s := s.mapCores fun _ k => { k with scopes := mapErase k.scopes h }
  (s.retry fun w => match w with
    | .launchFull => true
    | _ => false).requeueHeld

/-- The next part of R79 for a launch: the status, then the count, then the table entry; each waits for the one before. -/
def State.complete (s : State) (h : Nat) (l : Launch) : State :=
  let again : Instr := .launchComplete h
  if s.doneOut l.sup then s.hold again
  else if 1 < l.told then s.freeLaunch h
  else
    -- the count follows the kills that the status write sent (R125)
    let s := s.finishKills (cmdCore l.sup) (engTid (doneId l.sup))
    match s.doneWrite l (l.told == 1) with
    | (.wait _, s) => s.hold again
    | (x, s) =>
      let s := match x with
        | .fail f va pa => s.doneFails (cmdCore l.sup) l.sup f.cause l.ctx va pa
        | _ => s
      ({ s with launches := mapSet s.launches h { l with told := l.told + 1 } }).later again

/-- R79: the last task has retired, or the launch was aborted and none is left; a halted partition keeps the table entries of
its launches (R209). -/
def execLaunchComplete (h : Nat) (s : State) : Host.Outcome State Fault Refusal :=
  .next (match s.launchAt h with
    | none => s
    | some l =>
      if s.launchHalted h then s.hold (.launchComplete h)
      else if l.live = 0 ∧ (l.aborted ∨ l.next = l.ntask) then s.complete h l
      else s)

end Sys2Proof.Machine
end

