-- ==== Sys2Proof/Machine/Spill.lean ====
section
/-! DEFINITION. The spill engine (R205 to R208, R298), stealing (R198, R199), the arrival of a migrating thread (R146), and
the timers of parked slots (R297, R324, R325). -/

namespace Sys2Proof.Machine

/-- An event that comes before those that are due. -/
def State.first (s : State) (i : Instr) : State := { s with agenda := i :: s.agenda }

/-! Spills (R205, R206, R298). -/

/-- The youngest-dispatched of some slots (R206). -/
def Core.youngest (k : Core) (is : List (Fin 8)) : Option (Fin 8) :=
  is.foldl (fun (m : Option (Fin 8)) i => match m with
    | none => some i
    | some j => if k.slots[j].order < k.slots[i].order then some i else m) none

/-- R206: the youngest slot whose task has a lower priority is saved for the waiting record. -/
def execSlotSpill (core : CoreId) (s : State) : Host.Outcome State Fault Refusal :=
  .next (match s.spillNeed core with
    | none => s
    | some p =>
      let k := s.getCore core
      match k.youngest (k.victims p) with
      | none => s
      | some sl => s.first (.spillComplete core sl))

/-- R298: the joining slot is saved for its child. -/
def execJoinSpill (core : CoreId) (slot : Fin 8) (s : State) : Host.Outcome State Fault Refusal :=
  .next (if s.joinerToSpill core = some slot then s.first (.spillComplete core slot) else s)

/-- A thread moves to a save area: its slot and its frames are free, its translations are dropped (R148, R205). The record for
which a joiner makes room is dispatched next (R298). -/
def State.spillAway (s : State) (core : CoreId) (slot : Fin 8) (joins : Option Word) : State :=
  let t := s.getThread core slot
  let s := s.onCore core fun k =>
    let k := k.onTeam t.team fun m => { m with frames := m.frames - t.allot }
    { k with
      child := if joins.isSome then k.deque.find? fun r => r.thread && r.lh == t.lh else k.child
      slots := k.slots.set slot Thread.empty
      saves := k.saves ++ [{ thread := { t with extents := [] }, joins := joins, due := false : Saved }]
      tlb := k.tlb.filter fun e => e.slot != slot.val }
  if joins.isSome then s.first (.taskDispatch core) else s.wakeCluster core

/-- Whether a thread of a core may be saved now: nothing of its own is outstanding (R205). -/
def State.spillReady (s : State) (core : CoreId) (slot : Fin 8) : Bool :=
  slotSettled (s.getThread core slot) && !((s.getCore core).matq.any fun o => o.slot == slot.val)

/-- What a spill of a slot is for: a record of higher priority (none), or the joiner's child (its counter). -/
def State.spillFor (s : State) (core : CoreId) (slot : Fin 8) : Option (Option Word) :=
  let t := s.getThread core slot
  if (match s.spillNeed core with
      | some p => t.spillable p
      | none => false) then some none
  else if s.joinerToSpill core = some slot then
    match t.status with
    | .parked (.join _ va) => some (some va)
    | _ => none
  else none

/-- R205: the save of a slot ends. -/
def execSpillComplete (core : CoreId) (slot : Fin 8) (s : State) : Host.Outcome State Fault Refusal :=
  .next (match s.spillFor core slot with
    | none => s
    | some joins => if s.spillReady core slot then s.spillAway core slot joins else s.hold (.spillComplete core slot))

/-! Restores (R205, R206, R208). -/

/-- Whether a record goes before the thread that would be restored (R206): one of the core's own deque, or one of the gang
that takes the core. -/
def State.recordFirst (s : State) (core : CoreId) (v : Saved) : Bool :=
  !(s.isOwed core v.thread) && v.joins.isNone &&
    (List.range 4).any fun i =>
      let c := coreOf (sockOf core) (siteOf core / 4 * 4 + i)
      match s.pickRec c (s.getCore c).deque with
      | some (r, cs) => cs.contains core && decide (v.thread.prio < s.prioOf r)
      | none => false

/-- No restore is due on a core: its cluster dispatches, it may steal, and a joiner that is out is looked at again. -/
def State.noRestore (s : State) (core : CoreId) : State :=
  let s := (s.wakeCluster core).trySteal core
  let again : Instr := .slotRestore core
  if ((s.getCore core).saves.any fun v => v.joins.isSome && !v.due) && !s.hostHeld.contains again then s.hold again else s

/-- R206: a free slot takes a spilled thread, owed ones first. -/
def execSlotRestore (core : CoreId) (s : State) : Host.Outcome State Fault Refusal :=
  .next (
    if isCmd core then s
    else
      let s := ((s.getCore core).saves.filter fun v => !v.due).foldl (fun s v => s.readJoin core v) s
      let k := s.getCore core
      match (if s.coreOff core then none else k.freeSlots.head?), s.restoreNext core with
      | some sl, some v => if s.recordFirst core v then s.wakeCluster core else s.first (.slotRestoreComplete core sl)
      | _, _ => s.noRestore core)

/-- A spilled thread in a slot again: one that was owed is protected until it arrives at its barrier (R208). -/
def State.restoreInto (s : State) (core : CoreId) (slot : Fin 8) (v : Saved) : State :=
  let t := { v.thread with owed := false, protect := (v.thread.protect ++ s.owedAt core v.thread).eraseDups }.resumed
  let s := s.onCore core fun k =>
    let k := k.onTeam t.team fun m => { m with frames := m.frames + t.allot }
    { k with
      slots := k.slots.set slot t
      saves := k.saves.erase v
      tlb := k.tlb.filter fun e => e.slot != slot.val || e.leaf.getLsbD 5 || e.ctx == t.ctx }
  let s := if t.status = .parked .fault ∧ t.allAcked then s.later (.taskReplay core slot) else s
  s.later (.slotRestore core)

/-- R205: the restore of a slot ends. -/
def execSlotRestoreComplete (core : CoreId) (slot : Fin 8) (s : State) : Host.Outcome State Fault Refusal :=
  .next (match s.restoreNext core with
    | some v => if (s.getThread core slot).status = .empty then s.restoreInto core slot v else s
    | none => s)

/-! Stealing (R198, R199). -/

/-- `n` numbers from `a`, wrapping at `m`. -/
def wrapFrom (a n m : Nat) : List Nat := (List.range n).map fun i => (a + i) % m

/-- The victims of a core, in the order of R199. -/
def State.stealVictims (s : State) (core : CoreId) : List CoreId :=
  let d := sockOf core
  let k := siteOf core
  let base := k / 4 * 4
  let dies := s.partDies d
  let near := (wrapFrom (k + 1 - base) 4 4).map fun i => coreOf d (base + i)
  let die := ((wrapFrom (k + 1) 36 36).filter fun i => i / 4 != k / 4).map fun i => coreOf d i
  let far := ((wrapFrom (d + 1) 15 16).filter fun e => dies.getLsbD e && s.dieLive e).flatMap fun e =>
    (wrapFrom k 36 36).map fun i => coreOf e i
  (near ++ die ++ far).filter fun c => c != core && s.siteOn (sockOf c) (siteOf c)

/-- Whether the alley between two dies is down (R38). -/
def State.alleyDown (s : State) (a b : Nat) : Bool := s.alleysDown.any fun p => p == (a, b) || p == (b, a)

/-- R198: the request of an idle core goes to its next victim. -/
def execStealRequest (thief : CoreId) (s : State) : Host.Outcome State Fault Refusal :=
  .next (
    let ready := !isCmd thief && s.lctLock && s.ctxtEn && s.partDies (sockOf thief) != 0 && s.siteOn (sockOf thief) (siteOf thief) &&
      s.idleCore thief
    if ready then (s.onCore thief fun k => { k with stealOut := true }).later (.stealReply thief)
    else
      match mapGet s.cores thief with
      | none => s
      | some _ => s.onCore thief fun k => { k with stealOut := false, stealNext := 0 })

/-- The record that a victim gives to a thief (R198): the highest priority, nearest the top, that the thief can run. -/
def State.stolen (s : State) (thief victim : CoreId) : Option TaskRec :=
  if s.alleyDown (sockOf thief) (sockOf victim) then none
  else (s.pickRec thief (s.getCore victim).deque.reverse).map (·.1)

/-- A refusal: the next victim, or after the last one a wait of 1,024 cycles. -/
def State.stealRefused (s : State) (thief : CoreId) : State :=
  let n := (s.getCore thief).stealNext + 1
  if n < (s.stealVictims thief).length then
    (s.onCore thief fun k => { k with stealNext := n }).later (.stealRequest thief)
  else s.onCore thief fun k => { k with stealNext := 0, stealOut := false, stealWait := some (s.cycles + 1024) }

/-- R38, R198: the answer reaches the thief: a record as if its own deque had held it, or a refusal. -/
def execStealReply (thief : CoreId) (s : State) : Host.Outcome State Fault Refusal :=
  .next (
    let k := s.getCore thief
    if !k.stealOut then s
    else
      match (s.stealVictims thief)[k.stealNext]? with
      | none => s.stealRefused thief
      | some v =>
        match s.stolen thief v with
        | none => s.stealRefused thief
        | some r =>
          let s := (s.popTop v r).onCore thief fun k => { k with deque := r :: k.deque, stealOut := false, stealNext := 0 }
          (s.keepSpilled thief).requeueHeld.later (.taskDispatch thief))

/-- R199: 1,024 cycles after a failed sequence it starts again. -/
def execStealRetryTimer (core : CoreId) (s : State) : Host.Outcome State Fault Refusal :=
  .next (match (s.getCore core).stealWait with
    | none => s
    | some l =>
      if l ≤ s.cycles then (s.onCore core fun k => { k with stealWait := none, stealNext := 0 }).trySteal core else s)

/-! Migration (R146). -/

/-- Doubleword `i` of a travel packet. -/
def packetWord (p : BitVec 6144) (i : Nat) : Word := w64 (p.toNat / 2 ^ (64 * i) % 2 ^ 64)

/-- The registers of a travel packet: vector length 0, no poison. -/
def packetRegs (p : BitVec 6144) : Regs :=
  { Regs.zero with
    x := Vector.ofFn fun i => if i.val = 0 then 0 else packetWord p (i.val - 1)
    b := Vector.ofFn fun i => packetWord p (31 + i.val)
    fmta := packetWord p 40
    fmtb := packetWord p 41
    fmtc := packetWord p 42
    scalea := packetWord p 43
    scaleb := packetWord p 44
    k := Vector.ofFn fun i => if i.val = 0 then 0 else
      BitVec.ofNat 256 (p.toNat / 2 ^ (64 * (63 + 4 * (i.val - 1))) % 2 ^ 256) }

/-- The thread of a travel packet, in user mode. -/
def packetThread (p : BitVec 6144) (lh prio team tid : Nat) (xvec : Word) : Thread :=
  { Thread.empty with
    status := .ready
    regs := packetRegs p
    pc := packetWord p 35
    ctx := (packetWord p 36).setWidth 16
    task := BitVec.ofNat 32 ((packetWord p 36).toNat / 2 ^ 32)
    joinp := packetWord p 37
    fmtp := packetWord p 38
    scopet := packetWord p 39
    xpc := packetWord p 45
    xcause := packetWord p 46
    xval := packetWord p 47
    xvec := xvec
    eng := Vector.ofFn fun i => packetWord p (48 + i.val)
    kind := .thread
    lh := lh
    prio := prio
    team := team
    order := tid }

/-- The free slot of a die with the lowest number; no thread runs on a core die before the lock (R180). -/
def State.freeOnDie (s : State) (die : Nat) : Option (CoreId × Fin 8) :=
  if !s.lctLock then none
  else
    (List.range 36).findSome? fun i =>
      let c := coreOf die i
      if s.siteOn die i && !s.coreOff c && decide (0 < s.openSlots c) then (s.getCore c).freeSlots.head?.map fun sl => (c, sl)
      else none

/-- The team of one of a migrated thread: the launch's shares where the pool has room for them, else none. -/
def State.travelTeam (s : State) (core : CoreId) (t : Thread) : Team × Core :=
  let k := s.getCore core
  let w := ((s.launchAt t.lh).map (·.poolpart)).getD 0
  let w := if s.banksFree core w then w else 0
  let (bank, k) := k.placeBanks (banksOf w)
  ({ id := t.team, poolpart := w, firstBank := bank, lh := t.lh, ctx := t.ctx, task := t.task, prio := t.prio, kind := .thread,
     members := 1, stopped := 0, gang := [core], rank := 0, frames := 0, pool := [], acc := [],
     ckpt := ⟨[], false, [], []⟩, bartCount := 0, bartDone := 0, bargCount := 0, bargDone := 0, barbCount := 0,
     barbPhase := false, band := none }, k)

/-- The slot that a travel packet came from, while its thread still waits there. -/
def State.travelOrigin (s : State) (p : BitVec 6144) : Option (CoreId × Fin 8) :=
  s.coreList.findSome? fun c => (List.finRange 8).findSome? fun sl =>
    let t := s.getThread c sl
    if t.status = .parked .travel && packBits t.packet == p then some (c, sl) else none

/-- The package that sent a packet learns that it has been accepted (R146). -/
def State.acceptAway (s : State) (p : BitVec 6144) : State :=
  match s.awayReqs.find? fun r => (headOf (r.slots.headD 0)).kind == .travel && r.packet == p with
  | some r => s.answerTravel r .ack
  | none => s

/-- A core's copies of the scope tables of other packages' launches that none of its threads uses any more are gone: a thread that
comes later reads its own (R154). -/
def Core.sweepScopes (k : Core) : Core :=
  { k with scopes := k.scopes.filter fun p => decide (p.1 < awayLaunch) || k.threads.any fun t => t.scopeKey == p.1 }

/-- The thread of a packet starts in a slot; a thread that came from another package counts as a task of its launch here. -/
def State.arrive1 (s : State) (p : BitVec 6144) (lh : Nat) (core : CoreId) (slot : Fin 8) (xvec : Word) : State :=
  let s := s.onCore core Core.sweepScopes
  let k := s.getCore core
  let t := packetThread p lh (((s.launchAt lh).map (·.prio)).getD 0) (k.nextTeam + 1) (k.nextOrder + 1) xvec
  let origin := s.travelOrigin p
  let (tm, k) := s.travelTeam core t
  let k := { k with teams := k.teams ++ [tm], nextTeam := k.nextTeam + 1, nextOrder := k.nextOrder + 1 }
  let s := s.putCore core (k.place slot t)
  let s := match origin with
    | some (c, sl) => s.departed c sl
    | none => (s.acceptAway p).countTask lh
  s.asThread core slot fun s => s.dispatchReads false (.taskReplay core slot)

/-- R146: a travel packet at its die: the thread starts in the lowest free slot, or the packet waits for one. -/
def execTravelPacketArrival (die : Fin 16) (packet : BitVec 6144) (lh : Nat) (s : State) : Host.Outcome State Fault Refusal :=
  .next (
    let again : Instr := .travelPacketArrival die packet lh
    match s.freeOnDie die.val with
    | none => s.hold again
    | some (core, slot) =>
      match s.trapVector core ((packetWord packet 36).setWidth 16) with
      | (.value xvec, s) => s.arrive1 packet lh core slot xvec
      | (_, s) => s.hold again)

/-- R146: no slot became free in time: the packet returns, and the access is performed remotely. -/
def execTravelPacketReturn (core : CoreId) (slot : Fin 8) (s : State) : Host.Outcome State Fault Refusal :=
  .next (
    let t := s.getThread core slot
    if t.status ≠ .parked .travel then s
    else
      let p := packBits t.packet
      let s := { s with
        agenda := s.agenda.filter (!isArrival p ·)
        hostHeld := s.hostHeld.filter (!isArrival p ·)
        outstanding := s.outstanding.filter fun o => !(o.core == core && o.tid == t.order && o.n == 768) }
      s.onSlot core slot Thread.stayHere)

/-! Timers of parked slots. -/

/-- R324: the polled entries of a slot trigger. -/
def execWatchPoll (core : CoreId) (slot : Fin 8) (s : State) : Host.Outcome State Fault Refusal :=
  .next (s.onSlot core slot fun t =>
    ({ t with watch := t.watch.map fun (e : WatchEntry) => if e.armed && e.polled then { e with triggered := true } else e }).checkWaitev)

/-- R325: the cycle limit of a WAITEV has passed. -/
def execWaitevTimeout (core : CoreId) (slot : Fin 8) (s : State) : Host.Outcome State Fault Refusal :=
  .next (
    match (s.getThread core slot).status with
    | .parked (.waitev d (some l)) => if l ≤ (s.getCore core).cycle then s.onSlot core slot fun t => t.endWaitev d else s
    | _ => s)

/-- Waits of JOIN. -/
def waitsJoin : Wait → Bool
  | .join .. => true
  | _ => false

/-- R297: a parked JOIN reads its counter again. -/
def execJoinPoll (core : CoreId) (slot : Fin 8) (s : State) : Host.Outcome State Fault Refusal :=
  .next (s.onSlot core slot (Thread.retryIf waitsJoin))

end Sys2Proof.Machine
end

