-- ==== Sys2Proof/Machine/VecCfg.lean ====
section
/-! DEFINITION. Vector length and allotment (R332 to R334). -/

namespace Sys2Proof.Machine

/-- Register frames of a team (R216). -/
def State.framesFree (s : State) : Nat := ((s.team.map fun t => 8 * rfbOf t.poolpart - t.frames)).getD 0

/-- The registers from `lo` up to `hi` read as zero with no poison (R216). -/
def Regs.fresh (r : Regs) (lo hi : Nat) : Regs :=
  { r with
    v := Vector.ofFn fun i => if lo ≤ i.val ∧ i.val < hi then 0 else r.v[i]
    vp := Vector.ofFn fun i => if lo ≤ i.val ∧ i.val < hi then [] else r.vp[i] }

/-- VSETVL (R332). -/
def runVsetvl (d a : Reg) (t : ElTy) (s : State) : State :=
  let n := min (s.x a).toNat (1024 / t.width)
  ((s.onRegs fun r => { r with vl := n }).setX d (w64 n)).adv

/-- VALLOC (R333). -/
def runValloc (d a : Reg) (s : State) : State :=
  let n := s.th.allot
  let m := (s.x a).toNat
  if 32 < m then (s.setX d 2).adv
  else if m ≤ n then (s.setX d 0).adv
  else if s.framesFree < m - n then (s.setX d 1).adv
  else
    let s := s.onTeam fun t => { t with frames := t.frames + (m - n) }
    let s := s.onTh fun t => { t with allot := m, regs := t.regs.fresh n m }
    (s.setX d 0).adv

/-- VSHRINK (R333): the released registers' contents are gone, and a spilled thread that waits for frames may come back (R218). -/
def runVshrink (a : Reg) (s : State) : State :=
  let n := s.th.allot
  let m := (s.x a).toNat
  if m < n then
    let s := s.onTeam fun t => { t with frames := t.frames - (n - m) }
    ((s.onTh fun t => { t with allot := m, regs := t.regs.fresh m n }).later (.slotRestore s.loc)).adv
  else s.adv

/-- R332. -/
def execVsetvl (d a : Reg) (t : ElTy) (s : State) : Host.Outcome State Fault Refusal :=
  .next (runVec (fmtV 43 d.val a.val 0 0 t.code 0) [] (consumeX [a] (runVsetvl d a t)) s)

/-- R333. -/
def execValloc (d a : Reg) (s : State) : Host.Outcome State Fault Refusal :=
  .next (runVec (fmtV 43 d.val a.val 0 0 0 1) [] (consumeX [a] (runValloc d a)) s)

/-- R333. -/
def execVshrink (a : Reg) (s : State) : Host.Outcome State Fault Refusal :=
  .next (runVec (fmtV 43 0 a.val 0 0 0 2) [] (consumeX [a] (runVshrink a)) s)

/-- R333. -/
def execVallot (d : Reg) (s : State) : Host.Outcome State Fault Refusal :=
  .next (runVec (fmtV 43 d.val 0 0 0 0 3) [] (fun s => (s.setX d (w64 (s.th.allot + 256 * s.framesFree))).adv) s)

/-- R334. -/
def execVmv (d a : Reg) (s : State) : Host.Outcome State Fault Refusal :=
  .next (runVec (fmtV 43 d.val a.val 0 0 0 4) [d, a] (runProp (.vmv d a)) s)

end Sys2Proof.Machine
end

