-- ==== Sys2Proof/Machine/VecDb.lean ====
section
/-! DEFINITION. The database forms that read registers only (R349 to R352). -/

namespace Sys2Proof.Machine

/-- R349. -/
def execVhashc (d a b : Reg) (k : KReg) (t : ElTy) (s : State) : Host.Outcome State Fault Refusal :=
  .next (runVec (fmtV 42 d.val a.val b.val k.val t.code 0) [d, a, b] (runProp (.vdb .vhashc d a b k t)) s)

/-- R349. -/
def execVhashm (d a b : Reg) (k : KReg) (s : State) : Host.Outcome State Fault Refusal :=
  .next (runVec (fmtV 42 d.val a.val b.val k.val 3 1) [d, a, b] (runProp (.vdb .vhashm d a b k .i64)) s)

/-- R352. -/
def execVdesc (d a b : Reg) (k : KReg) (s : State) : Host.Outcome State Fault Refusal :=
  .next (runVec (fmtV 42 d.val a.val b.val k.val 3 4) [d, a, b] (runProp (.vdb .vdesc d a b k .i64)) s)

/-- R349. -/
def execVpart (d a b : Reg) (k : KReg) (t : ElTy) (s : State) : Host.Outcome State Fault Refusal :=
  .next (runVec (fmtV 42 d.val a.val b.val k.val t.code 2) [d, a] (runProp (.vdb .vpart d a b k t)) s)

/-- R350. -/
def execVhist (d a : Reg) (k : KReg) (s : State) : Host.Outcome State Fault Refusal :=
  .next (runVec (fmtV 42 d.val a.val 0 k.val 2 3) [d, a] (runProp (.vdb .vhist d a 0 k .i32)) s)

/-- R352. -/
def execVslen (d a : Reg) (k : KReg) (s : State) : Host.Outcome State Fault Refusal :=
  .next (runVec (fmtV 42 d.val a.val 0 k.val 3 5) [d, a] (runProp (.vdb .vslen d a 0 k .i64)) s)

end Sys2Proof.Machine
end

