-- ==== Sys2Proof/Machine/VecFlt.lean ====
section
/-! DEFINITION. The floating-point vector forms (R338 to R341), each one a propagating instruction (R129). -/

namespace Sys2Proof.Machine

/-- R338. -/
def execVfadd (d a b : Reg) (k : KReg) (t : ElTy) (s : State) : Host.Outcome State Fault Refusal :=
  .next (runVec (fmtV 39 d.val a.val b.val k.val t.code 0) [d, a, b] (runProp (.vflt .vfadd d a b k t)) s)

/-- R338. -/
def execVfsub (d a b : Reg) (k : KReg) (t : ElTy) (s : State) : Host.Outcome State Fault Refusal :=
  .next (runVec (fmtV 39 d.val a.val b.val k.val t.code 1) [d, a, b] (runProp (.vflt .vfsub d a b k t)) s)

/-- R338. -/
def execVfmul (d a b : Reg) (k : KReg) (t : ElTy) (s : State) : Host.Outcome State Fault Refusal :=
  .next (runVec (fmtV 39 d.val a.val b.val k.val t.code 2) [d, a, b] (runProp (.vflt .vfmul d a b k t)) s)

/-- R338. -/
def execVffma (d a b : Reg) (k : KReg) (t : ElTy) (s : State) : Host.Outcome State Fault Refusal :=
  .next (runVec (fmtV 39 d.val a.val b.val k.val t.code 3) [d, a, b] (runProp (.vflt .vffma d a b k t)) s)

/-- R338. -/
def execVffms (d a b : Reg) (k : KReg) (t : ElTy) (s : State) : Host.Outcome State Fault Refusal :=
  .next (runVec (fmtV 39 d.val a.val b.val k.val t.code 4) [d, a, b] (runProp (.vflt .vffms d a b k t)) s)

/-- R338. -/
def execVfdiv (d a b : Reg) (k : KReg) (t : ElTy) (s : State) : Host.Outcome State Fault Refusal :=
  .next (runVec (fmtV 39 d.val a.val b.val k.val t.code 5) [d, a, b] (runProp (.vflt .vfdiv d a b k t)) s)

/-- R338. -/
def execVfmin (d a b : Reg) (k : KReg) (t : ElTy) (s : State) : Host.Outcome State Fault Refusal :=
  .next (runVec (fmtV 39 d.val a.val b.val k.val t.code 7) [d, a, b] (runProp (.vflt .vfmin d a b k t)) s)

/-- R338. -/
def execVfmax (d a b : Reg) (k : KReg) (t : ElTy) (s : State) : Host.Outcome State Fault Refusal :=
  .next (runVec (fmtV 39 d.val a.val b.val k.val t.code 8) [d, a, b] (runProp (.vflt .vfmax d a b k t)) s)

/-- R338. -/
def execVfscale (d a b : Reg) (k : KReg) (t : ElTy) (s : State) : Host.Outcome State Fault Refusal :=
  .next (runVec (fmtV 39 d.val a.val b.val k.val t.code 21) [d, a, b] (runProp (.vflt .vfscale d a b k t)) s)

/-- R338. -/
def execVfsqrt (d a : Reg) (k : KReg) (t : ElTy) (s : State) : Host.Outcome State Fault Refusal :=
  .next (runVec (fmtV 39 d.val a.val 0 k.val t.code 6) [d, a] (runProp (.vflt .vfsqrt d a 0 k t)) s)

/-- R338. -/
def execVfabs (d a : Reg) (k : KReg) (t : ElTy) (s : State) : Host.Outcome State Fault Refusal :=
  .next (runVec (fmtV 39 d.val a.val 0 k.val t.code 9) [d, a] (runProp (.vflt .vfabs d a 0 k t)) s)

/-- R338. -/
def execVfneg (d a : Reg) (k : KReg) (t : ElTy) (s : State) : Host.Outcome State Fault Refusal :=
  .next (runVec (fmtV 39 d.val a.val 0 k.val t.code 10) [d, a] (runProp (.vflt .vfneg d a 0 k t)) s)

/-- R339. -/
def execVfclass (d a : Reg) (k : KReg) (t : ElTy) (s : State) : Host.Outcome State Fault Refusal :=
  .next (runVec (fmtV 39 d.val a.val 0 k.val t.code 14) [d, a] (runProp (.vflt .vfclass d a 0 k t)) s)

/-- R338. -/
def execVfrecip (d a : Reg) (k : KReg) (t : ElTy) (s : State) : Host.Outcome State Fault Refusal :=
  .next (runVec (fmtV 39 d.val a.val 0 k.val t.code 19) [d, a] (runProp (.vflt .vfrecip d a 0 k t)) s)

/-- R338. -/
def execVfrsqrt (d a : Reg) (k : KReg) (t : ElTy) (s : State) : Host.Outcome State Fault Refusal :=
  .next (runVec (fmtV 39 d.val a.val 0 k.val t.code 20) [d, a] (runProp (.vflt .vfrsqrt d a 0 k t)) s)

/-- R339. -/
def execVfcmpeq (d : KReg) (a b : Reg) (k : KReg) (t : ElTy) (s : State) : Host.Outcome State Fault Refusal :=
  .next (runVec (fmtV 39 d.val a.val b.val k.val t.code 11) [a, b] (runProp (.vcmp .feq d a b k t)) s)

/-- R339. -/
def execVfcmplt (d : KReg) (a b : Reg) (k : KReg) (t : ElTy) (s : State) : Host.Outcome State Fault Refusal :=
  .next (runVec (fmtV 39 d.val a.val b.val k.val t.code 12) [a, b] (runProp (.vcmp .flt d a b k t)) s)

/-- R339. -/
def execVfcmple (d : KReg) (a b : Reg) (k : KReg) (t : ElTy) (s : State) : Host.Outcome State Fault Refusal :=
  .next (runVec (fmtV 39 d.val a.val b.val k.val t.code 13) [a, b] (runProp (.vcmp .fle d a b k t)) s)

/-- R340. -/
def execVcvtf (d a : Reg) (c : ElTy) (k : KReg) (t : ElTy) (s : State) : Host.Outcome State Fault Refusal :=
  .next (runVec (fmtV 39 d.val a.val c.code k.val t.code 15) [d, a] (runProp (.vcvtf d a c k t)) s)

/-- R340: `c` selects the unsigned form. -/
def execVcvtfi (d a : Reg) (c : Bool) (k : KReg) (t : ElTy) (s : State) : Host.Outcome State Fault Refusal :=
  .next (runVec (fmtV 39 d.val a.val c.toNat k.val t.code 16) [d, a] (runProp (.vcvt (if c then .fin else .fi) d a k t)) s)

/-- R340: `c` selects the unsigned form. -/
def execVcvtif (d a : Reg) (c : Bool) (k : KReg) (t : ElTy) (s : State) : Host.Outcome State Fault Refusal :=
  .next (runVec (fmtV 39 d.val a.val c.toNat k.val t.code 17) [d, a] (runProp (.vcvt (if c then .intnf else .intf) d a k t)) s)

/-- R341. -/
def execVfsplat (d a : Reg) (k : KReg) (t : ElTy) (s : State) : Host.Outcome State Fault Refusal :=
  .next (runVec (fmtV 39 d.val a.val 0 k.val t.code 18) [d] (runProp (.vfsplat d a k t)) s)

/-- R341. -/
def execVfdot2 (d a b : Reg) (k : KReg) (t : ElTy) (s : State) : Host.Outcome State Fault Refusal :=
  .next (runVec (fmtV 39 d.val a.val b.val k.val t.code 22) [d, a, b] (runProp (.vfdot2 d a b k t)) s)

end Sys2Proof.Machine
end

