-- ==== Sys2Proof/Machine/VecInt.lean ====
section
/-! DEFINITION. The integer vector forms (R335 to R337), each one a propagating instruction (R129). -/

namespace Sys2Proof.Machine

/-- R335. -/
def execVadd (d a b : Reg) (k : KReg) (t : ElTy) (s : State) : Host.Outcome State Fault Refusal :=
  .next (runVec (fmtV 38 d.val a.val b.val k.val t.code 0) [d, a, b] (runProp (.vint .vadd d a b k t)) s)

/-- R335. -/
def execVsub (d a b : Reg) (k : KReg) (t : ElTy) (s : State) : Host.Outcome State Fault Refusal :=
  .next (runVec (fmtV 38 d.val a.val b.val k.val t.code 1) [d, a, b] (runProp (.vint .vsub d a b k t)) s)

/-- R335. -/
def execVmul (d a b : Reg) (k : KReg) (t : ElTy) (s : State) : Host.Outcome State Fault Refusal :=
  .next (runVec (fmtV 38 d.val a.val b.val k.val t.code 2) [d, a, b] (runProp (.vint .vmul d a b k t)) s)

/-- R335. -/
def execVmulh (d a b : Reg) (k : KReg) (t : ElTy) (s : State) : Host.Outcome State Fault Refusal :=
  .next (runVec (fmtV 38 d.val a.val b.val k.val t.code 3) [d, a, b] (runProp (.vint .vmulh d a b k t)) s)

/-- R335. -/
def execVand (d a b : Reg) (k : KReg) (t : ElTy) (s : State) : Host.Outcome State Fault Refusal :=
  .next (runVec (fmtV 38 d.val a.val b.val k.val t.code 4) [d, a, b] (runProp (.vint .vand d a b k t)) s)

/-- R335. -/
def execVor (d a b : Reg) (k : KReg) (t : ElTy) (s : State) : Host.Outcome State Fault Refusal :=
  .next (runVec (fmtV 38 d.val a.val b.val k.val t.code 5) [d, a, b] (runProp (.vint .vor d a b k t)) s)

/-- R335. -/
def execVxor (d a b : Reg) (k : KReg) (t : ElTy) (s : State) : Host.Outcome State Fault Refusal :=
  .next (runVec (fmtV 38 d.val a.val b.val k.val t.code 6) [d, a, b] (runProp (.vint .vxor d a b k t)) s)

/-- R335. -/
def execVandn (d a b : Reg) (k : KReg) (t : ElTy) (s : State) : Host.Outcome State Fault Refusal :=
  .next (runVec (fmtV 38 d.val a.val b.val k.val t.code 7) [d, a, b] (runProp (.vint .vandn d a b k t)) s)

/-- R335. -/
def execVsll (d a b : Reg) (k : KReg) (t : ElTy) (s : State) : Host.Outcome State Fault Refusal :=
  .next (runVec (fmtV 38 d.val a.val b.val k.val t.code 8) [d, a, b] (runProp (.vint .vsll d a b k t)) s)

/-- R335. -/
def execVsrl (d a b : Reg) (k : KReg) (t : ElTy) (s : State) : Host.Outcome State Fault Refusal :=
  .next (runVec (fmtV 38 d.val a.val b.val k.val t.code 9) [d, a, b] (runProp (.vint .vsrl d a b k t)) s)

/-- R335. -/
def execVsra (d a b : Reg) (k : KReg) (t : ElTy) (s : State) : Host.Outcome State Fault Refusal :=
  .next (runVec (fmtV 38 d.val a.val b.val k.val t.code 10) [d, a, b] (runProp (.vint .vsra d a b k t)) s)

/-- R335. -/
def execVmin (d a b : Reg) (k : KReg) (t : ElTy) (s : State) : Host.Outcome State Fault Refusal :=
  .next (runVec (fmtV 38 d.val a.val b.val k.val t.code 11) [d, a, b] (runProp (.vint .vmin d a b k t)) s)

/-- R335. -/
def execVmax (d a b : Reg) (k : KReg) (t : ElTy) (s : State) : Host.Outcome State Fault Refusal :=
  .next (runVec (fmtV 38 d.val a.val b.val k.val t.code 12) [d, a, b] (runProp (.vint .vmax d a b k t)) s)

/-- R335. -/
def execVminn (d a b : Reg) (k : KReg) (t : ElTy) (s : State) : Host.Outcome State Fault Refusal :=
  .next (runVec (fmtV 38 d.val a.val b.val k.val t.code 13) [d, a, b] (runProp (.vint .vminn d a b k t)) s)

/-- R335. -/
def execVmaxn (d a b : Reg) (k : KReg) (t : ElTy) (s : State) : Host.Outcome State Fault Refusal :=
  .next (runVec (fmtV 38 d.val a.val b.val k.val t.code 14) [d, a, b] (runProp (.vint .vmaxn d a b k t)) s)

/-- R335. -/
def execVadds (d a b : Reg) (k : KReg) (t : ElTy) (s : State) : Host.Outcome State Fault Refusal :=
  .next (runVec (fmtV 38 d.val a.val b.val k.val t.code 15) [d, a, b] (runProp (.vint .vadds d a b k t)) s)

/-- R335. -/
def execVsubs (d a b : Reg) (k : KReg) (t : ElTy) (s : State) : Host.Outcome State Fault Refusal :=
  .next (runVec (fmtV 38 d.val a.val b.val k.val t.code 16) [d, a, b] (runProp (.vint .vsubs d a b k t)) s)

/-- R335. -/
def execVaddsn (d a b : Reg) (k : KReg) (t : ElTy) (s : State) : Host.Outcome State Fault Refusal :=
  .next (runVec (fmtV 38 d.val a.val b.val k.val t.code 17) [d, a, b] (runProp (.vint .vaddsn d a b k t)) s)

/-- R335. -/
def execVsubsn (d a b : Reg) (k : KReg) (t : ElTy) (s : State) : Host.Outcome State Fault Refusal :=
  .next (runVec (fmtV 38 d.val a.val b.val k.val t.code 18) [d, a, b] (runProp (.vint .vsubsn d a b k t)) s)

/-- R335. -/
def execVabsd (d a b : Reg) (k : KReg) (t : ElTy) (s : State) : Host.Outcome State Fault Refusal :=
  .next (runVec (fmtV 38 d.val a.val b.val k.val t.code 19) [d, a, b] (runProp (.vint .vabsd d a b k t)) s)

/-- R336. -/
def execVcmpeq (d : KReg) (a b : Reg) (k : KReg) (t : ElTy) (s : State) : Host.Outcome State Fault Refusal :=
  .next (runVec (fmtV 38 d.val a.val b.val k.val t.code 20) [a, b] (runProp (.vcmp .eq d a b k t)) s)

/-- R336. -/
def execVcmplt (d : KReg) (a b : Reg) (k : KReg) (t : ElTy) (s : State) : Host.Outcome State Fault Refusal :=
  .next (runVec (fmtV 38 d.val a.val b.val k.val t.code 21) [a, b] (runProp (.vcmp .lt d a b k t)) s)

/-- R336. -/
def execVcmpltn (d : KReg) (a b : Reg) (k : KReg) (t : ElTy) (s : State) : Host.Outcome State Fault Refusal :=
  .next (runVec (fmtV 38 d.val a.val b.val k.val t.code 22) [a, b] (runProp (.vcmp .ltn d a b k t)) s)

/-- R336. -/
def execVcmple (d : KReg) (a b : Reg) (k : KReg) (t : ElTy) (s : State) : Host.Outcome State Fault Refusal :=
  .next (runVec (fmtV 38 d.val a.val b.val k.val t.code 23) [a, b] (runProp (.vcmp .le d a b k t)) s)

/-- R337. -/
def execVsel (d a b : Reg) (k : KReg) (t : ElTy) (s : State) : Host.Outcome State Fault Refusal :=
  .next (runVec (fmtV 38 d.val a.val b.val k.val t.code 24) [d, a, b] (runProp (.vsel d a b k t)) s)

/-- R337. -/
def execVsplat (d a : Reg) (k : KReg) (t : ElTy) (s : State) : Host.Outcome State Fault Refusal :=
  .next (runVec (fmtV 38 d.val a.val 0 k.val t.code 25) [d] (runProp (.vsplat d a k t)) s)

/-- R337. -/
def execViota (d : Reg) (k : KReg) (t : ElTy) (s : State) : Host.Outcome State Fault Refusal :=
  .next (runVec (fmtV 38 d.val 0 0 k.val t.code 26) [d] (runProp (.viota d k t)) s)

/-- R337. -/
def execVmovx (d a b : Reg) (t : ElTy) (s : State) : Host.Outcome State Fault Refusal :=
  .next (runVec (fmtV 38 d.val a.val b.val 0 t.code 27) [a] (runProp (.vmovx d a b t)) s)

/-- R335. -/
def execVaddi (d a : Reg) (i : BitVec 5) (k : KReg) (t : ElTy) (s : State) : Host.Outcome State Fault Refusal :=
  .next (runVec (fmtV 38 d.val a.val i.toNat k.val t.code 28) [d, a] (runProp (.vimm .vaddi d a i k t)) s)

/-- R335. -/
def execVslli (d a : Reg) (i : BitVec 5) (k : KReg) (t : ElTy) (s : State) : Host.Outcome State Fault Refusal :=
  .next (runVec (fmtV 38 d.val a.val i.toNat k.val t.code 29) [d, a] (runProp (.vimm .vslli d a i k t)) s)

/-- R335. -/
def execVsrli (d a : Reg) (i : BitVec 5) (k : KReg) (t : ElTy) (s : State) : Host.Outcome State Fault Refusal :=
  .next (runVec (fmtV 38 d.val a.val i.toNat k.val t.code 30) [d, a] (runProp (.vimm .vsrli d a i k t)) s)

/-- R335. -/
def execVsrai (d a : Reg) (i : BitVec 5) (k : KReg) (t : ElTy) (s : State) : Host.Outcome State Fault Refusal :=
  .next (runVec (fmtV 38 d.val a.val i.toNat k.val t.code 31) [d, a] (runProp (.vimm .vsrai d a i k t)) s)

end Sys2Proof.Machine
end

