-- ==== Sys2Proof/Machine/VecMask.lean ====
section
/-! DEFINITION. The mask, permute and reduction forms (R346 to R348); a poisoned slide amount is consumed (R130). -/

namespace Sys2Proof.Machine

/-- R346. -/
def execKand (d a b : KReg) (s : State) : Host.Outcome State Fault Refusal :=
  .next (runVec (fmtV 41 d.val a.val b.val 0 0 0) [] (runProp (.klog .kand d a b)) s)

/-- R346. -/
def execKor (d a b : KReg) (s : State) : Host.Outcome State Fault Refusal :=
  .next (runVec (fmtV 41 d.val a.val b.val 0 0 1) [] (runProp (.klog .kor d a b)) s)

/-- R346. -/
def execKxor (d a b : KReg) (s : State) : Host.Outcome State Fault Refusal :=
  .next (runVec (fmtV 41 d.val a.val b.val 0 0 2) [] (runProp (.klog .kxor d a b)) s)

/-- R346. -/
def execKnot (d a : KReg) (s : State) : Host.Outcome State Fault Refusal :=
  .next (runVec (fmtV 41 d.val a.val 0 0 0 3) [] (runProp (.knot d a)) s)

/-- R346. -/
def execKpop (d : Reg) (a : KReg) (t : ElTy) (s : State) : Host.Outcome State Fault Refusal :=
  .next (runVec (fmtV 41 d.val a.val 0 0 t.code 4) [] (runProp (.kpop d a t)) s)

/-- R346. -/
def execKfirst (d : Reg) (a : KReg) (t : ElTy) (s : State) : Host.Outcome State Fault Refusal :=
  .next (runVec (fmtV 41 d.val a.val 0 0 t.code 5) [] (runProp (.kfirst d a t)) s)

/-- R346. -/
def execKset (d : KReg) (a : Reg) (t : ElTy) (s : State) : Host.Outcome State Fault Refusal :=
  .next (runVec (fmtV 41 d.val a.val 0 0 t.code 6) [] (runProp (.kset d a t)) s)

/-- R347. -/
def execVcompress (d a : Reg) (k : KReg) (t : ElTy) (s : State) : Host.Outcome State Fault Refusal :=
  .next (runVec (fmtV 41 d.val a.val 0 k.val t.code 7) [d, a] (runProp (.vmsk .vcompress d a 0 k t)) s)

/-- R347. -/
def execVexpand (d a : Reg) (k : KReg) (t : ElTy) (s : State) : Host.Outcome State Fault Refusal :=
  .next (runVec (fmtV 41 d.val a.val 0 k.val t.code 8) [d, a] (runProp (.vmsk .vexpand d a 0 k t)) s)

/-- R348. -/
def execVscanadd (d a : Reg) (k : KReg) (t : ElTy) (s : State) : Host.Outcome State Fault Refusal :=
  .next (runVec (fmtV 41 d.val a.val 0 k.val t.code 17) [d, a] (runProp (.vmsk .vscanadd d a 0 k t)) s)

/-- R347. -/
def execVperm (d a b : Reg) (k : KReg) (t : ElTy) (s : State) : Host.Outcome State Fault Refusal :=
  .next (runVec (fmtV 41 d.val a.val b.val k.val t.code 9) [d, a, b] (runProp (.vmsk .vperm d a b k t)) s)

/-- R348. -/
def execVredadd (d a b : Reg) (k : KReg) (t : ElTy) (s : State) : Host.Outcome State Fault Refusal :=
  .next (runVec (fmtV 41 d.val a.val b.val k.val t.code 12) [d, a, b] (runProp (.vmsk .vredadd d a b k t)) s)

/-- R348. -/
def execVredmin (d a b : Reg) (k : KReg) (t : ElTy) (s : State) : Host.Outcome State Fault Refusal :=
  .next (runVec (fmtV 41 d.val a.val b.val k.val t.code 13) [d, a, b] (runProp (.vmsk .vredmin d a b k t)) s)

/-- R348. -/
def execVredmax (d a b : Reg) (k : KReg) (t : ElTy) (s : State) : Host.Outcome State Fault Refusal :=
  .next (runVec (fmtV 41 d.val a.val b.val k.val t.code 14) [d, a, b] (runProp (.vmsk .vredmax d a b k t)) s)

/-- R348. -/
def execVfredadd (d a b : Reg) (k : KReg) (t : ElTy) (s : State) : Host.Outcome State Fault Refusal :=
  .next (runVec (fmtV 41 d.val a.val b.val k.val t.code 15) [d, a, b] (runProp (.vmsk .vfredadd d a b k t)) s)

/-- R348. -/
def execVfredmax (d a b : Reg) (k : KReg) (t : ElTy) (s : State) : Host.Outcome State Fault Refusal :=
  .next (runVec (fmtV 41 d.val a.val b.val k.val t.code 16) [d, a, b] (runProp (.vmsk .vfredmax d a b k t)) s)

/-- R347. -/
def execVzip (d a b : Reg) (k : KReg) (t : ElTy) (s : State) : Host.Outcome State Fault Refusal :=
  .next (runVec (fmtV 41 d.val a.val b.val k.val t.code 18) [d, a, b] (runProp (.vmsk .vzip d a b k t)) s)

/-- R347. -/
def execVunzip (d a b : Reg) (k : KReg) (t : ElTy) (s : State) : Host.Outcome State Fault Refusal :=
  .next (runVec (fmtV 41 d.val a.val b.val k.val t.code 19) [d, a, b] (runProp (.vmsk .vunzip d a b k t)) s)

/-- R347. -/
def execVslideup (d a b : Reg) (k : KReg) (t : ElTy) (s : State) : Host.Outcome State Fault Refusal :=
  .next (runVec (fmtV 41 d.val a.val b.val k.val t.code 10) [d, a] (consumeX [b] (runProp (.vmsk .vslideup d a b k t))) s)

/-- R347. -/
def execVslidedn (d a b : Reg) (k : KReg) (t : ElTy) (s : State) : Host.Outcome State Fault Refusal :=
  .next (runVec (fmtV 41 d.val a.val b.val k.val t.code 11) [d, a] (consumeX [b] (runProp (.vmsk .vslidedn d a b k t))) s)

end Sys2Proof.Machine
end

