-- ==== Sys2Proof/Machine/Dispatch.lean ====
section
/-! DEFINITION. What each instruction does: one arm per constructor of `Instr`. -/

namespace Sys2Proof.Machine

/-- The meaning of an instruction in a state. -/
def exec (i : Instr) (s : State) : Host.Outcome State Fault Refusal :=
  match i with
  | .packageReset => Sys2Proof.Machine.execPackageReset s
  | .powerOff => Sys2Proof.Machine.execPowerOff s
  | .bootImageVerify img => Sys2Proof.Machine.execBootImageVerify img s
  | .freezeAssert => Sys2Proof.Machine.execFreezeAssert s
  | .freezeDeassert => Sys2Proof.Machine.execFreezeDeassert s
  | .freezeReadout sel => Sys2Proof.Machine.execFreezeReadout sel s
  | .debugToken token => Sys2Proof.Machine.execDebugToken token s
  | .thermalTrip sock => Sys2Proof.Machine.execThermalTrip sock s
  | .thermalReset => Sys2Proof.Machine.execThermalReset s
  | .alertWriteComplete => Sys2Proof.Machine.execAlertWriteComplete s
  | .alrtctlWrite v => Sys2Proof.Machine.execAlrtctlWrite v s
  | .registerWrite host off v => Sys2Proof.Machine.execRegisterWrite host off v s
  | .causewayArrival id phase => Sys2Proof.Machine.execCausewayArrival id phase s
  | .causewayRelease id => Sys2Proof.Machine.execCausewayRelease id s
  | .causewayMismatch id => Sys2Proof.Machine.execCausewayMismatch id s
  | .flitReceive sock flit => Sys2Proof.Machine.execFlitReceive sock flit s
  | .flitNakReceive sock ack => Sys2Proof.Machine.execFlitNakReceive sock ack s
  | .portCrcDown sock => Sys2Proof.Machine.execPortCrcDown sock s
  | .holdingEntryServe home cls => Sys2Proof.Machine.execHoldingEntryServe home cls s
  | .responseArrival core tag data => Sys2Proof.Machine.execResponseArrival core tag data s
  | .errorResponseArrival core tag cause => Sys2Proof.Machine.execErrorResponseArrival core tag cause s
  | .writeAck core slot level => Sys2Proof.Machine.execWriteAck core slot level s
  | .stealRequest thief => Sys2Proof.Machine.execStealRequest thief s
  | .stealReply thief => Sys2Proof.Machine.execStealReply thief s
  | .stealRetryTimer core => Sys2Proof.Machine.execStealRetryTimer core s
  | .scaleupFlitReceive port flit => Sys2Proof.Machine.execScaleupFlitReceive port flit s
  | .authFailPortDown port => Sys2Proof.Machine.execAuthFailPortDown port s
  | .linkTrain port => Sys2Proof.Machine.execLinkTrain port s
  | .fpctlOff port off => Sys2Proof.Machine.execFpctlOff port off s
  | .fpctlRekey port => Sys2Proof.Machine.execFpctlRekey port s
  | .txctrRekeyThreshold port => Sys2Proof.Machine.execTxctrRekeyThreshold port s
  | .txctrExhausted port => Sys2Proof.Machine.execTxctrExhausted port s
  | .keyMarkerSend port => Sys2Proof.Machine.execKeyMarkerSend port s
  | .scaleupPortDown port => Sys2Proof.Machine.execScaleupPortDown port s
  | .portIsolate port => Sys2Proof.Machine.execPortIsolate port s
  | .gatewayRequest core tag pkg vn => Sys2Proof.Machine.execGatewayRequest core tag pkg vn s
  | .gatewayFlowRemap core pkg vn => Sys2Proof.Machine.execGatewayFlowRemap core pkg vn s
  | .fabricTimeout core tag => Sys2Proof.Machine.execFabricTimeout core tag s
  | .linkTableGeneration gen changes => Sys2Proof.Machine.execLinkTableGeneration gen changes s
  | .fullTableInstall gen entries => Sys2Proof.Machine.execFullTableInstall gen entries s
  | .splitDetect group => Sys2Proof.Machine.execSplitDetect group s
  | .splitWaitExpire => Sys2Proof.Machine.execSplitWaitExpire s
  | .hdmDecoderCommit port dec => Sys2Proof.Machine.execHdmDecoderCommit port dec s
  | .hostMemRead pa wantA => Sys2Proof.Machine.execHostMemRead pa wantA s
  | .hostMemWrite pa n data => Sys2Proof.Machine.execHostMemWrite pa n data s
  | .birspReceive half data => Sys2Proof.Machine.execBirspReceive half data s
  | .bisnpTimeout half => Sys2Proof.Machine.execBisnpTimeout half s
  | .cxlPortDown port => Sys2Proof.Machine.execCxlPortDown port s
  | .snpinv half => Sys2Proof.Machine.execSnpinv half s
  | .snpdata half => Sys2Proof.Machine.execSnpdata half s
  | .snpcur half => Sys2Proof.Machine.execSnpcur half s
  | .mbinWrite n v => Sys2Proof.Machine.execMbinWrite n v s
  | .mboutWrite n v => Sys2Proof.Machine.execMboutWrite n v s
  | .mbstatClearInv n => Sys2Proof.Machine.execMbstatClearInv n s
  | .mbstatClearOutv n => Sys2Proof.Machine.execMbstatClearOutv n s
  | .mbstatClearOvf n inovf => Sys2Proof.Machine.execMbstatClearOvf n inovf s
  | .mbAttestationReport n nonce => Sys2Proof.Machine.execMbAttestationReport n nonce s
  | .mbAttachLaunchQueue n j => Sys2Proof.Machine.execMbAttachLaunchQueue n j s
  | .mbDetachLaunchQueue n => Sys2Proof.Machine.execMbDetachLaunchQueue n s
  | .mbUnknownOp n => Sys2Proof.Machine.execMbUnknownOp n s
  | .launchComplete h => Sys2Proof.Machine.execLaunchComplete h s
  | .homeLineRead core pa => Sys2Proof.Machine.execHomeLineRead core pa s
  | .homeLineStore core ix => Sys2Proof.Machine.execHomeLineStore core ix s
  | .lineWriteBack line => Sys2Proof.Machine.execLineWriteBack line s
  | .lineMigration line die => Sys2Proof.Machine.execLineMigration line die s
  | .homeTileAccess core pa store => Sys2Proof.Machine.execHomeTileAccess core pa store s
  | .dieCacheEviction line bad => Sys2Proof.Machine.execDieCacheEviction line bad s
  | .tilePushAck pbase => Sys2Proof.Machine.execTilePushAck pbase s
  | .tilePushError pbase cause => Sys2Proof.Machine.execTilePushError pbase cause s
  | .shadowFrameWrite pa n data => Sys2Proof.Machine.execShadowFrameWrite pa n data s
  | .publGenToggle pbase => Sys2Proof.Machine.execPublGenToggle pbase s
  | .haloPushAck pbase die => Sys2Proof.Machine.execHaloPushAck pbase die s
  | .walkRead die pa => Sys2Proof.Machine.execWalkRead die pa s
  | .translationKill die line => Sys2Proof.Machine.execTranslationKill die line s
  | .killAck die line => Sys2Proof.Machine.execKillAck die line s
  | .walkComplete core slot va res => Sys2Proof.Machine.execWalkComplete core slot va res s
  | .homeDiscard line => Sys2Proof.Machine.execHomeDiscard line s
  | .lineEntryUncorrectable line dirtyTags => Sys2Proof.Machine.execLineEntryUncorrectable line dirtyTags s
  | .tileEntryUncorrectable pbase record owner => Sys2Proof.Machine.execTileEntryUncorrectable pbase record owner s
  | .correctableError sock => Sys2Proof.Machine.execCorrectableError sock s
  | .memoryChannelServe ch => Sys2Proof.Machine.execMemoryChannelServe ch s
  | .dieCachePrefetch die line => Sys2Proof.Machine.execDieCachePrefetch die line s
  | .faultQueueSpace ctx => Sys2Proof.Machine.execFaultQueueSpace ctx s
  | .noticeStoreDrain die ctx => Sys2Proof.Machine.execNoticeStoreDrain die ctx s
  | .noticeDropAlert die => Sys2Proof.Machine.execNoticeDropAlert die s
  | .taskReplay core slot => Sys2Proof.Machine.execTaskReplay core slot s
  | .remoteStoreArrival core slot w permitted => Sys2Proof.Machine.execRemoteStoreArrival core slot w permitted s
  | .remoteFaultRecord core slot r => Sys2Proof.Machine.execRemoteFaultRecord core slot r s
  | .stagingTimeout core => Sys2Proof.Machine.execStagingTimeout core s
  | .uncorrectableTeamError core team => Sys2Proof.Machine.execUncorrectableTeamError core team s
  | .travelPacketArrival die packet lh => Sys2Proof.Machine.execTravelPacketArrival die packet lh s
  | .travelPacketReturn core slot => Sys2Proof.Machine.execTravelPacketReturn core slot s
  | .messageEngineExecute core => Sys2Proof.Machine.execMessageEngineExecute core s
  | .copyPageTranslate core id => Sys2Proof.Machine.execCopyPageTranslate core id s
  | .copyArrival core id => Sys2Proof.Machine.execCopyArrival core id s
  | .stageFreeNotice core team fbo bytes => Sys2Proof.Machine.execStageFreeNotice core team fbo bytes s
  | .cpyrFire core => Sys2Proof.Machine.execCpyrFire core s
  | .matrixStepFire core => Sys2Proof.Machine.execMatrixStepFire core s
  | .matrixOpComplete core id => Sys2Proof.Machine.execMatrixOpComplete core id s
  | .lctctlLock => Sys2Proof.Machine.execLctctlLock s
  | .partDiesWrite p dies => Sys2Proof.Machine.execPartDiesWrite p dies s
  | .partHaltreq p => Sys2Proof.Machine.execPartHaltreq p s
  | .partitionHalted p => Sys2Proof.Machine.execPartitionHalted p s
  | .partResume p => Sys2Proof.Machine.execPartResume p s
  | .partSwapout p => Sys2Proof.Machine.execPartSwapout p s
  | .swapoutComplete p => Sys2Proof.Machine.execSwapoutComplete p s
  | .partSwapin p => Sys2Proof.Machine.execPartSwapin p s
  | .swapinComplete p => Sys2Proof.Machine.execSwapinComplete p s
  | .partErrClear p => Sys2Proof.Machine.execPartErrClear p s
  | .dealTask h => Sys2Proof.Machine.execDealTask h s
  | .bandAdmit h => Sys2Proof.Machine.execBandAdmit h s
  | .taskDispatch core => Sys2Proof.Machine.execTaskDispatch core s
  | .taskRetire core team => Sys2Proof.Machine.execTaskRetire core team s
  | .slotSpill core => Sys2Proof.Machine.execSlotSpill core s
  | .spillComplete core slot => Sys2Proof.Machine.execSpillComplete core slot s
  | .slotRestore core => Sys2Proof.Machine.execSlotRestore core s
  | .joinSpill core slot => Sys2Proof.Machine.execJoinSpill core slot s
  | .watchPoll core slot => Sys2Proof.Machine.execWatchPoll core slot s
  | .waitevTimeout core slot => Sys2Proof.Machine.execWaitevTimeout core slot s
  | .joinPoll core slot => Sys2Proof.Machine.execJoinPoll core slot s
  | .fetchFault cause detail => Sys2Proof.Machine.execFetchFault cause detail s
  | .illegalInstruction w => Sys2Proof.Machine.execIllegalInstruction w s
  | .collectiveStart core => Sys2Proof.Machine.execCollectiveStart core s
  | .collectiveChunkReceive core peer chunk left right down => Sys2Proof.Machine.execCollectiveChunkReceive core peer chunk left right down s
  | .collectiveAnnounce core gen done => Sys2Proof.Machine.execCollectiveAnnounce core gen done s
  | .collectivePeerAbort core tag => Sys2Proof.Machine.execCollectivePeerAbort core tag s
  | .alleyLinkDown a b => Sys2Proof.Machine.execAlleyLinkDown a b s
  | .commandCoreStart n slot entry ctx => Sys2Proof.Machine.execCommandCoreStart n slot entry ctx s
  | .cxlPortUp port => Sys2Proof.Machine.execCxlPortUp port s
  | .slotRestoreComplete core slot => Sys2Proof.Machine.execSlotRestoreComplete core slot s
  | .add d a b => Sys2Proof.Machine.execAdd d a b s
  | .sub d a b => Sys2Proof.Machine.execSub d a b s
  | .and d a b => Sys2Proof.Machine.execAnd d a b s
  | .or d a b => Sys2Proof.Machine.execOr d a b s
  | .xor d a b => Sys2Proof.Machine.execXor d a b s
  | .andn d a b => Sys2Proof.Machine.execAndn d a b s
  | .orn d a b => Sys2Proof.Machine.execOrn d a b s
  | .sll d a b => Sys2Proof.Machine.execSll d a b s
  | .srl d a b => Sys2Proof.Machine.execSrl d a b s
  | .sra d a b => Sys2Proof.Machine.execSra d a b s
  | .rol d a b => Sys2Proof.Machine.execRol d a b s
  | .ror d a b => Sys2Proof.Machine.execRor d a b s
  | .slt d a b => Sys2Proof.Machine.execSlt d a b s
  | .sltn d a b => Sys2Proof.Machine.execSltn d a b s
  | .seq d a b => Sys2Proof.Machine.execSeq d a b s
  | .min d a b => Sys2Proof.Machine.execMin d a b s
  | .max d a b => Sys2Proof.Machine.execMax d a b s
  | .minn d a b => Sys2Proof.Machine.execMinn d a b s
  | .maxn d a b => Sys2Proof.Machine.execMaxn d a b s
  | .mul d a b => Sys2Proof.Machine.execMul d a b s
  | .mulh d a b => Sys2Proof.Machine.execMulh d a b s
  | .mulhn d a b => Sys2Proof.Machine.execMulhn d a b s
  | .div d a b => Sys2Proof.Machine.execDiv d a b s
  | .divn d a b => Sys2Proof.Machine.execDivn d a b s
  | .rem d a b => Sys2Proof.Machine.execRem d a b s
  | .remn d a b => Sys2Proof.Machine.execRemn d a b s
  | .clz d a => Sys2Proof.Machine.execClz d a s
  | .ctz d a => Sys2Proof.Machine.execCtz d a s
  | .popc d a => Sys2Proof.Machine.execPopc d a s
  | .bswap d a => Sys2Proof.Machine.execBswap d a s
  | .cmov d a b => Sys2Proof.Machine.execCmov d a b s
  | .shadd1 d a b => Sys2Proof.Machine.execShadd1 d a b s
  | .shadd2 d a b => Sys2Proof.Machine.execShadd2 d a b s
  | .shadd3 d a b => Sys2Proof.Machine.execShadd3 d a b s
  | .crcb d a b => Sys2Proof.Machine.execCrcb d a b s
  | .crcd d a b => Sys2Proof.Machine.execCrcd d a b s
  | .mix64 d a b => Sys2Proof.Machine.execMix64 d a b s
  | .addi d a imm => Sys2Proof.Machine.execAddi d a imm s
  | .andi d a imm => Sys2Proof.Machine.execAndi d a imm s
  | .ori d a imm => Sys2Proof.Machine.execOri d a imm s
  | .xori d a imm => Sys2Proof.Machine.execXori d a imm s
  | .slti d a imm => Sys2Proof.Machine.execSlti d a imm s
  | .sltin d a imm => Sys2Proof.Machine.execSltin d a imm s
  | .lih d a imm => Sys2Proof.Machine.execLih d a imm s
  | .addpc d imm => Sys2Proof.Machine.execAddpc d imm s
  | .slli d a n => Sys2Proof.Machine.execSlli d a n s
  | .srli d a n => Sys2Proof.Machine.execSrli d a n s
  | .srai d a n => Sys2Proof.Machine.execSrai d a n s
  | .rori d a n => Sys2Proof.Machine.execRori d a n s
  | .bfx d a l o => Sys2Proof.Machine.execBfx d a l o s
  | .bfxs d a l o => Sys2Proof.Machine.execBfxs d a l o s
  | .beq a b p => Sys2Proof.Machine.execBeq a b p s
  | .bne a b p => Sys2Proof.Machine.execBne a b p s
  | .blt a b p => Sys2Proof.Machine.execBlt a b p s
  | .bge a b p => Sys2Proof.Machine.execBge a b p s
  | .bltn a b p => Sys2Proof.Machine.execBltn a b p s
  | .bgen a b p => Sys2Proof.Machine.execBgen a b p s
  | .jmp p => Sys2Proof.Machine.execJmp p s
  | .jal p => Sys2Proof.Machine.execJal p s
  | .prep n p => Sys2Proof.Machine.execPrep n p s
  | .jr a => Sys2Proof.Machine.execJr a s
  | .jalr d a => Sys2Proof.Machine.execJalr d a s
  | .btr d n => Sys2Proof.Machine.execBtr d n s
  | .btrz a n => Sys2Proof.Machine.execBtrz a n s
  | .btrnz a n => Sys2Proof.Machine.execBtrnz a n s
  | .fork d a b => Sys2Proof.Machine.execFork d a b s
  | .join a => Sys2Proof.Machine.execJoin a s
  | .yield => Sys2Proof.Machine.execYield s
  | .stop => Sys2Proof.Machine.execStop s
  | .taskid d => Sys2Proof.Machine.execTaskid d s
  | .ldb d a imm => Sys2Proof.Machine.execLdb d a imm s
  | .ldh d a imm => Sys2Proof.Machine.execLdh d a imm s
  | .ldw d a imm => Sys2Proof.Machine.execLdw d a imm s
  | .ldd d a imm => Sys2Proof.Machine.execLdd d a imm s
  | .ldbn d a imm => Sys2Proof.Machine.execLdbn d a imm s
  | .ldhn d a imm => Sys2Proof.Machine.execLdhn d a imm s
  | .ldwn d a imm => Sys2Proof.Machine.execLdwn d a imm s
  | .stb d a imm => Sys2Proof.Machine.execStb d a imm s
  | .sth d a imm => Sys2Proof.Machine.execSth d a imm s
  | .stw d a imm => Sys2Proof.Machine.execStw d a imm s
  | .std d a imm => Sys2Proof.Machine.execStd d a imm s
  | .ldp d a imm => Sys2Proof.Machine.execLdp d a imm s
  | .stp d a imm => Sys2Proof.Machine.execStp d a imm s
  | .ldxb d a b => Sys2Proof.Machine.execLdxb d a b s
  | .ldxh d a b => Sys2Proof.Machine.execLdxh d a b s
  | .ldxw d a b => Sys2Proof.Machine.execLdxw d a b s
  | .ldxd d a b => Sys2Proof.Machine.execLdxd d a b s
  | .ldxbn d a b => Sys2Proof.Machine.execLdxbn d a b s
  | .ldxhn d a b => Sys2Proof.Machine.execLdxhn d a b s
  | .ldxwn d a b => Sys2Proof.Machine.execLdxwn d a b s
  | .stxb d a b => Sys2Proof.Machine.execStxb d a b s
  | .stxh d a b => Sys2Proof.Machine.execStxh d a b s
  | .stxw d a b => Sys2Proof.Machine.execStxw d a b s
  | .stxd d a b => Sys2Proof.Machine.execStxd d a b s
  | .ldaqB d a b sc => Sys2Proof.Machine.execLdaqB d a b sc s
  | .ldaqH d a b sc => Sys2Proof.Machine.execLdaqH d a b sc s
  | .ldaqW d a b sc => Sys2Proof.Machine.execLdaqW d a b sc s
  | .ldaqD d a b sc => Sys2Proof.Machine.execLdaqD d a b sc s
  | .strlB d a b sc => Sys2Proof.Machine.execStrlB d a b sc s
  | .strlH d a b sc => Sys2Proof.Machine.execStrlH d a b sc s
  | .strlW d a b sc => Sys2Proof.Machine.execStrlW d a b sc s
  | .strlD d a b sc => Sys2Proof.Machine.execStrlD d a b sc s
  | .ldpb d a b => Sys2Proof.Machine.execLdpb d a b s
  | .ldph d a b => Sys2Proof.Machine.execLdph d a b s
  | .ldpw d a b => Sys2Proof.Machine.execLdpw d a b s
  | .ldpbn d a b => Sys2Proof.Machine.execLdpbn d a b s
  | .ldphn d a b => Sys2Proof.Machine.execLdphn d a b s
  | .ldpwn d a b => Sys2Proof.Machine.execLdpwn d a b s
  | .stpb d a b => Sys2Proof.Machine.execStpb d a b s
  | .stph d a b => Sys2Proof.Machine.execStph d a b s
  | .stpw d a b => Sys2Proof.Machine.execStpw d a b s
  | .pfh a b => Sys2Proof.Machine.execPfh a b s
  | .pfd a b => Sys2Proof.Machine.execPfd a b s
  | .disc a b => Sys2Proof.Machine.execDisc a b s
  | .amoaddd d a b sc o => Sys2Proof.Machine.execAmoaddd d a b sc o s
  | .amoaddw d a b sc o => Sys2Proof.Machine.execAmoaddw d a b sc o s
  | .amoand d a b sc o => Sys2Proof.Machine.execAmoand d a b sc o s
  | .amoor d a b sc o => Sys2Proof.Machine.execAmoor d a b sc o s
  | .amoxor d a b sc o => Sys2Proof.Machine.execAmoxor d a b sc o s
  | .amomin d a b sc o => Sys2Proof.Machine.execAmomin d a b sc o s
  | .amomax d a b sc o => Sys2Proof.Machine.execAmomax d a b sc o s
  | .amominn d a b sc o => Sys2Proof.Machine.execAmominn d a b sc o s
  | .amomaxn d a b sc o => Sys2Proof.Machine.execAmomaxn d a b sc o s
  | .amoswap d a b sc o => Sys2Proof.Machine.execAmoswap d a b sc o s
  | .amocas d a b sc o => Sys2Proof.Machine.execAmocas d a b sc o s
  | .amofadd32 d a b sc o => Sys2Proof.Machine.execAmofadd32 d a b sc o s
  | .amofmax32 d a b sc o => Sys2Proof.Machine.execAmofmax32 d a b sc o s
  | .fence sc => Sys2Proof.Machine.execFence sc s
  | .fencerl sc => Sys2Proof.Machine.execFencerl sc s
  | .fenceaq sc => Sys2Proof.Machine.execFenceaq sc s
  | .fencerg a b sc => Sys2Proof.Machine.execFencerg a b sc s
  | .bart sc => Sys2Proof.Machine.execBart sc s
  | .barg sc => Sys2Proof.Machine.execBarg sc s
  | .barb sc => Sys2Proof.Machine.execBarb sc s
  | .boinit a b => Sys2Proof.Machine.execBoinit a b s
  | .boexp a b => Sys2Proof.Machine.execBoexp a b s
  | .boarr a sc => Sys2Proof.Machine.execBoarr a sc s
  | .bowait a b sc => Sys2Proof.Machine.execBowait a b sc s
  | .botest d a b sc => Sys2Proof.Machine.execBotest d a b sc s
  | .scopeset n => Sys2Proof.Machine.execScopeset n s
  | .tdecl d a => Sys2Proof.Machine.execTdecl d a s
  | .tdrop a => Sys2Proof.Machine.execTdrop a s
  | .tfwd a b => Sys2Proof.Machine.execTfwd a b s
  | .publ a => Sys2Proof.Machine.execPubl a s
  | .watch d a => Sys2Proof.Machine.execWatch d a s
  | .waitev d a => Sys2Proof.Machine.execWaitev d a s
  | .xfence sc => Sys2Proof.Machine.execXfence sc s
  | .vadd d a b k t => Sys2Proof.Machine.execVadd d a b k t s
  | .vsub d a b k t => Sys2Proof.Machine.execVsub d a b k t s
  | .vmul d a b k t => Sys2Proof.Machine.execVmul d a b k t s
  | .vmulh d a b k t => Sys2Proof.Machine.execVmulh d a b k t s
  | .vand d a b k t => Sys2Proof.Machine.execVand d a b k t s
  | .vor d a b k t => Sys2Proof.Machine.execVor d a b k t s
  | .vxor d a b k t => Sys2Proof.Machine.execVxor d a b k t s
  | .vandn d a b k t => Sys2Proof.Machine.execVandn d a b k t s
  | .vsll d a b k t => Sys2Proof.Machine.execVsll d a b k t s
  | .vsrl d a b k t => Sys2Proof.Machine.execVsrl d a b k t s
  | .vsra d a b k t => Sys2Proof.Machine.execVsra d a b k t s
  | .vmin d a b k t => Sys2Proof.Machine.execVmin d a b k t s
  | .vmax d a b k t => Sys2Proof.Machine.execVmax d a b k t s
  | .vminn d a b k t => Sys2Proof.Machine.execVminn d a b k t s
  | .vmaxn d a b k t => Sys2Proof.Machine.execVmaxn d a b k t s
  | .vadds d a b k t => Sys2Proof.Machine.execVadds d a b k t s
  | .vsubs d a b k t => Sys2Proof.Machine.execVsubs d a b k t s
  | .vaddsn d a b k t => Sys2Proof.Machine.execVaddsn d a b k t s
  | .vsubsn d a b k t => Sys2Proof.Machine.execVsubsn d a b k t s
  | .vabsd d a b k t => Sys2Proof.Machine.execVabsd d a b k t s
  | .vcmpeq d a b k t => Sys2Proof.Machine.execVcmpeq d a b k t s
  | .vcmplt d a b k t => Sys2Proof.Machine.execVcmplt d a b k t s
  | .vcmpltn d a b k t => Sys2Proof.Machine.execVcmpltn d a b k t s
  | .vcmple d a b k t => Sys2Proof.Machine.execVcmple d a b k t s
  | .vsel d a b k t => Sys2Proof.Machine.execVsel d a b k t s
  | .vsplat d a k t => Sys2Proof.Machine.execVsplat d a k t s
  | .viota d k t => Sys2Proof.Machine.execViota d k t s
  | .vmovx d a b t => Sys2Proof.Machine.execVmovx d a b t s
  | .vaddi d a imm k t => Sys2Proof.Machine.execVaddi d a imm k t s
  | .vslli d a imm k t => Sys2Proof.Machine.execVslli d a imm k t s
  | .vsrli d a imm k t => Sys2Proof.Machine.execVsrli d a imm k t s
  | .vsrai d a imm k t => Sys2Proof.Machine.execVsrai d a imm k t s
  | .vfadd d a b k t => Sys2Proof.Machine.execVfadd d a b k t s
  | .vfsub d a b k t => Sys2Proof.Machine.execVfsub d a b k t s
  | .vfmul d a b k t => Sys2Proof.Machine.execVfmul d a b k t s
  | .vffma d a b k t => Sys2Proof.Machine.execVffma d a b k t s
  | .vffms d a b k t => Sys2Proof.Machine.execVffms d a b k t s
  | .vfdiv d a b k t => Sys2Proof.Machine.execVfdiv d a b k t s
  | .vfsqrt d a k t => Sys2Proof.Machine.execVfsqrt d a k t s
  | .vfmin d a b k t => Sys2Proof.Machine.execVfmin d a b k t s
  | .vfmax d a b k t => Sys2Proof.Machine.execVfmax d a b k t s
  | .vfabs d a k t => Sys2Proof.Machine.execVfabs d a k t s
  | .vfneg d a k t => Sys2Proof.Machine.execVfneg d a k t s
  | .vfcmpeq d a b k t => Sys2Proof.Machine.execVfcmpeq d a b k t s
  | .vfcmplt d a b k t => Sys2Proof.Machine.execVfcmplt d a b k t s
  | .vfcmple d a b k t => Sys2Proof.Machine.execVfcmple d a b k t s
  | .vfclass d a k t => Sys2Proof.Machine.execVfclass d a k t s
  | .vcvtf d a c k t => Sys2Proof.Machine.execVcvtf d a c k t s
  | .vcvtfi d a c k t => Sys2Proof.Machine.execVcvtfi d a c k t s
  | .vcvtif d a c k t => Sys2Proof.Machine.execVcvtif d a c k t s
  | .vfsplat d a k t => Sys2Proof.Machine.execVfsplat d a k t s
  | .vfrecip d a k t => Sys2Proof.Machine.execVfrecip d a k t s
  | .vfrsqrt d a k t => Sys2Proof.Machine.execVfrsqrt d a k t s
  | .vfscale d a b k t => Sys2Proof.Machine.execVfscale d a b k t s
  | .vfdot2 d a b k t => Sys2Proof.Machine.execVfdot2 d a b k t s
  | .vld d a k t => Sys2Proof.Machine.execVld d a k t s
  | .vlds d a b k t => Sys2Proof.Machine.execVlds d a b k t s
  | .vldx d a b k t => Sys2Proof.Machine.execVldx d a b k t s
  | .vst d a k t => Sys2Proof.Machine.execVst d a k t s
  | .vsts d a b k t => Sys2Proof.Machine.execVsts d a b k t s
  | .vstx d a b k t => Sys2Proof.Machine.execVstx d a b k t s
  | .vldp d a k t => Sys2Proof.Machine.execVldp d a k t s
  | .vstp d a k t => Sys2Proof.Machine.execVstp d a k t s
  | .vldpx d a b k t => Sys2Proof.Machine.execVldpx d a b k t s
  | .vstpx d a b k t => Sys2Proof.Machine.execVstpx d a b k t s
  | .vldb d a k t => Sys2Proof.Machine.execVldb d a k t s
  | .kand d a b => Sys2Proof.Machine.execKand d a b s
  | .kor d a b => Sys2Proof.Machine.execKor d a b s
  | .kxor d a b => Sys2Proof.Machine.execKxor d a b s
  | .knot d a => Sys2Proof.Machine.execKnot d a s
  | .kpop d a t => Sys2Proof.Machine.execKpop d a t s
  | .kfirst d a t => Sys2Proof.Machine.execKfirst d a t s
  | .kset d a t => Sys2Proof.Machine.execKset d a t s
  | .vcompress d a k t => Sys2Proof.Machine.execVcompress d a k t s
  | .vexpand d a k t => Sys2Proof.Machine.execVexpand d a k t s
  | .vperm d a b k t => Sys2Proof.Machine.execVperm d a b k t s
  | .vslideup d a b k t => Sys2Proof.Machine.execVslideup d a b k t s
  | .vslidedn d a b k t => Sys2Proof.Machine.execVslidedn d a b k t s
  | .vredadd d a b k t => Sys2Proof.Machine.execVredadd d a b k t s
  | .vredmin d a b k t => Sys2Proof.Machine.execVredmin d a b k t s
  | .vredmax d a b k t => Sys2Proof.Machine.execVredmax d a b k t s
  | .vfredadd d a b k t => Sys2Proof.Machine.execVfredadd d a b k t s
  | .vfredmax d a b k t => Sys2Proof.Machine.execVfredmax d a b k t s
  | .vscanadd d a k t => Sys2Proof.Machine.execVscanadd d a k t s
  | .vzip d a b k t => Sys2Proof.Machine.execVzip d a b k t s
  | .vunzip d a b k t => Sys2Proof.Machine.execVunzip d a b k t s
  | .vhashc d a b k t => Sys2Proof.Machine.execVhashc d a b k t s
  | .vhashm d a b k => Sys2Proof.Machine.execVhashm d a b k s
  | .vpart d a b k t => Sys2Proof.Machine.execVpart d a b k t s
  | .vhist d a k => Sys2Proof.Machine.execVhist d a k s
  | .vdesc d a b k => Sys2Proof.Machine.execVdesc d a b k s
  | .vslen d a k => Sys2Proof.Machine.execVslen d a k s
  | .vspfx d a k => Sys2Proof.Machine.execVspfx d a k s
  | .vscmp d a b k => Sys2Proof.Machine.execVscmp d a b k s
  | .vsfind d a b k => Sys2Proof.Machine.execVsfind d a b k s
  | .vseq d a b k => Sys2Proof.Machine.execVseq d a b k s
  | .vshash d a b k => Sys2Proof.Machine.execVshash d a b k s
  | .vsetvl d a t => Sys2Proof.Machine.execVsetvl d a t s
  | .valloc d a => Sys2Proof.Machine.execValloc d a s
  | .vshrink a => Sys2Proof.Machine.execVshrink a s
  | .vallot d => Sys2Proof.Machine.execVallot d s
  | .vmv d a => Sys2Proof.Machine.execVmv d a s
  | .mma a n => Sys2Proof.Machine.execMma a n s
  | .mmas a n => Sys2Proof.Machine.execMmas a n s
  | .mzero n => Sys2Proof.Machine.execMzero n s
  | .mload a n => Sys2Proof.Machine.execMload a n s
  | .mdrain a n => Sys2Proof.Machine.execMdrain a n s
  | .mstat d n => Sys2Proof.Machine.execMstat d n s
  | .rgcfg a b n => Sys2Proof.Machine.execRgcfg a b n s
  | .rgadv a n => Sys2Proof.Machine.execRgadv a n s
  | .rgtake a n => Sys2Proof.Machine.execRgtake a n s
  | .rgstat d n => Sys2Proof.Machine.execRgstat d n s
  | .rgreset n => Sys2Proof.Machine.execRgreset n s
  | .cpy a sc => Sys2Proof.Machine.execCpy a sc s
  | .cpyt a b sc => Sys2Proof.Machine.execCpyt a b sc s
  | .cpym a b sc => Sys2Proof.Machine.execCpym a b sc s
  | .cpyr a b sc => Sys2Proof.Machine.execCpyr a b sc s
  | .cpyg a b sc => Sys2Proof.Machine.execCpyg a b sc s
  | .cpyp a b sc => Sys2Proof.Machine.execCpyp a b sc s
  | .cpyq d => Sys2Proof.Machine.execCpyq d s
  | .colrun a => Sys2Proof.Machine.execColrun a s
  | .colstat d a => Sys2Proof.Machine.execColstat d a s
  | .colresume a => Sys2Proof.Machine.execColresume a s
  | .colabort a => Sys2Proof.Machine.execColabort a s
  | .eset a e => Sys2Proof.Machine.execEset a e s
  | .eget d e => Sys2Proof.Machine.execEget d e s
  | .trap c => Sys2Proof.Machine.execTrap c s
  | .eret => Sys2Proof.Machine.execEret s
  | .sysr d n => Sys2Proof.Machine.execSysr d n s
  | .sysw a n => Sys2Proof.Machine.execSysw a n s
  | .sysset a n => Sys2Proof.Machine.execSysset a n s
  | .sysclr a n => Sys2Proof.Machine.execSysclr a n s
  | .halt => Sys2Proof.Machine.execHalt s
  | .ifence => Sys2Proof.Machine.execIfence s
  | .spill d a b => Sys2Proof.Machine.execSpill d a b s
  | .restore d a b => Sys2Proof.Machine.execRestore d a b s
  | .csend d a => Sys2Proof.Machine.execCsend d a s
  | .alert a => Sys2Proof.Machine.execAlert a s
  | .launch d a n => Sys2Proof.Machine.execLaunch d a n s
  | .faultackResume d a b => Sys2Proof.Machine.execFaultackResume d a b s
  | .faultackAbandon d a b => Sys2Proof.Machine.execFaultackAbandon d a b s
  | .seal => Sys2Proof.Machine.execSeal s

end Sys2Proof.Machine
end

