-- ==== Sys2Proof/Machine/Fetch.lean ====
section
/-! DEFINITION. Issue (R201 to R203, R219) and fetch (R138, R212, R293): which slot issues in a core cycle, and the word it
issues. -/

namespace Sys2Proof.Machine

/-! Fetch. -/

/-- What a fetch finds. -/
inductive Fetched where
  | word (w : IWord)
  | fault (cause : Byte) (detail : Word)
  /-- the slot parked for it -/
  | wait
  deriving DecidableEq, Repr

/-- The word at a byte offset of a line. -/
def wordIn (line : BitVec 1024) (off : Nat) : IWord := BitVec.ofNat 32 (line.toNat / 2 ^ (8 * off))

/-- The instruction cache takes a line (R212): four ways of 128 sets; the line filled earliest leaves a full set, a choice
that the rule leaves open (log 12). -/
def Core.icachePut (line : Nat) (v : BitVec 1024) (k : Core) : Core :=
  let rest := mapErase k.icache line
  let same := rest.filter fun p => p.1 % Config.coreSets == line % Config.coreSets
  let rest := match same.head? with
    | some p => if same.length < Config.coreWays then rest else mapErase rest p.1
    | none => rest
  { k with icache := rest ++ [(line, v)] }

/-- An instruction-cache miss (R212): the line is read through the die cache; a line with a poisoned sector, or one whose
other half the host owns, is not kept. -/
def State.fetchMiss (s : State) (p : Phys) : Fetched × State :=
  let line := lineOf p.pa
  if !s.isLocal p.pa || regionOf p.pa == .host then
    match s.loadHere { p with pa := 128 * line } 128 with
    | (.value v, s) =>
      let l : BitVec 1024 := BitVec.ofNat 1024 v
      (.word (wordIn l (p.pa % 128)), s.useUp.onHere (Core.icachePut line l))
    | (.wait w, s) => (.wait, s.park w)
    | (.fault f _, s) => (.fault f.cause 0, s.useUp)
    | (.travel _, s) => (.wait, s)
  else if !s.isDevMem p.pa then (.fault 0x13 0, s)
  else
    match s.serveRead s.loc p.pa 4 (!isCmd s.loc) s.th.order with
    | (.fail c, s) => (.fault c 0, s)
    | (.wait w, s) => (.wait, s.park w)
    | (.done _, s) =>
      let l : BitVec 1024 := BitVec.ofNat 1024 (s.physRead (128 * line) 128)
      let keep := !s.poisonedIn (128 * line) 128 && (s.hostHalf (128 * line) 128 true).isNone
      (.word (wordIn l (p.pa % 128)),
        if keep then s.onHere (Core.icachePut line l) else s)

/-- A word of a line that the instruction cache holds; where stores have changed it in device memory since, the old or the new
word (R212), as a free value says (log 18); a word in a poisoned sector is never the one (R138). -/
def State.fetchHit (s : State) (p : Phys) (line : BitVec 1024) : Fetched × State :=
  let old := wordIn line (p.pa % 128)
  let new : IWord := BitVec.ofNat 32 (s.physRead p.pa 4)
  if !s.isDevMem p.pa || new == old || s.poisonedIn p.pa 4 then (.word old, s)
  else
    match s.freeBit with
    | (true, s) => (.word new, s)
    | (false, s) => (.word old, s)

/-- The current thread's next instruction is fetched for issue (R138): an unaligned or non-canonical pc fails with cause
0x09 (R293). -/
def State.fetch (s : State) : Fetched × State :=
  if s.th.pc.toNat % 4 ≠ 0 then (.fault 0x09 0, s)
  else
    match s.xlate s.asid s.th.pc 4 .fetch with
    | (.error f, s) =>
      match f.wait with
      | some w => (.wait, s.park w)
      | none => (.fault f.cause f.detail, s)
    | (.ok p, s) =>
      match mapGet s.core.icache (lineOf p.pa) with
      | some l => s.fetchHit p l
      | none => s.fetchMiss p

/-! The vector datapath (R219). -/

/-- The width of a type code. -/
def codeWidth (t : Nat) : Nat := ([1, 2, 4, 8, 1, 2, 2, 4][t]?).getD 1

/-- Cycles for which an instruction occupies the datapath; none for one that does not use it (R219). -/
def dpCycles (w : IWord) (r : Regs) : Option Nat :=
  let n := w.toNat
  let fn := n % 32
  let wd := codeWidth (n / 32 % 8)
  let body := fun (x : Nat) => max 1 ((x * r.body x + 255) / 256)
  match n / 67108864 with
  | 38 => some (if fn = 27 then 4 else body wd)
  | 39 => some (if fn = 15 then body (max wd (codeWidth (n / 2048 % 8))) else if fn = 22 then body 4 else body wd)
  | 41 => some (if fn ≤ 6 then 1 else body wd)
  | 42 => if fn ≤ 5 then some (body wd) else none
  | 43 => if fn = 4 then some 4 else none
  | _ => none

/-- Whether the datapath is closed to the current slot in this cycle: occupied, or reserved for another claim (R219). -/
def State.dpBlocked (s : State) : Bool :=
  decide (s.core.cycle < s.core.dpFree) ||
    (match s.core.claims with
     | [] => false
     | c :: _ => c != s.slot.val)

/-! Offers (R201, R202). -/

/-- What a slot issues. -/
inductive Issue where
  | word (w : IWord)
  | fault (cause : Byte) (detail : Word)
  deriving DecidableEq, Repr

/-- Whether the current slot is eligible: ready, and not issued in the three cycles before (R201). -/
def State.eligible (s : State) : Bool :=
  s.th.status == .ready &&
    (match s.th.lastIssue with
     | some l => decide (l + 3 < s.core.cycle)
     | none => true)

/-- The current slot gives up an offer it would accept (R202). -/
def State.giveUp (s : State) : State := s.onTh fun t => { t with skip := t.skip - 1 }

/-- The current slot claims the datapath (R219). -/
def State.claimDp (s : State) : State :=
  s.onHere fun k => { k with claims := if k.claims.contains s.slot.val then k.claims else k.claims ++ [s.slot.val] }

/-- The current slot issues in this cycle, and occupies the datapath for some cycles. -/
def State.issueNow (s : State) (dp : Option Nat) : State :=
  let s := if s.th.owes.isSome then s.requeueHeld else s
  let s := s.onTh fun t => { t with
    lastIssue := some s.core.cycle, since := s.cycles, came := s.issued
    stay := if t.stay = some t.pc then t.stay else none, owes := none
    walked := if t.rewalk then t.walked else [], rewalk := false }
  s.onHere fun k => { k with
    claims := k.claims.filter (· != s.slot.val)
    dpFree := match dp with
      | some n => k.cycle + n
      | none => k.dpFree }

/-- The ordering instructions of R147: acquire loads and release stores, atomics with an order, fences, barriers and barrier
objects. -/
def isOrderWord (w : IWord) : Bool :=
  let n := w.toNat
  match n / 67108864 with
  | 35 => decide (11 ≤ n % 64 ∧ n % 64 ≤ 18)
  | 36 => decide (n / 16 % 4 ≠ 0)
  | 37 => true
  | _ => false

/-- An ordering instruction closes the thread's open message first (R147, log 21). -/
def State.closeFor (s : State) (w : IWord) : State := if isOrderWord w then s.closeMsg s.loc s.th.order else s

/-- The offers of a cycle, in order: the first slot that accepts (R201). `legal` tells the words that name an instruction. -/
def State.offers (legal : IWord → Bool) (s : State) : List Nat → Option Issue × State
  | [] => (none, s)
  | i :: r =>
    let s := s.focus s.loc (Fin.ofNat 8 i)
    if !s.eligible then s.offers legal r
    else
      match s.fetch with
      | (.wait, s) => s.offers legal r
      | (.fault c d, s) =>
        if 0 < s.th.skip then s.giveUp.offers legal r else (some (.fault c d), s.issueNow none)
      | (.word w, s) =>
        let dp := if legal w && !isCmd s.loc then dpCycles w s.th.regs else none
        if dp.isSome && s.dpBlocked then s.claimDp.offers legal r
        else if 0 < s.th.skip then s.giveUp.offers legal r
        else (some (.word w), (s.closeFor w).issueNow dp)

/-- The order of a cycle's offers: its position's owner first (R201). -/
def offerOrder (cycle : Nat) : List Nat := (List.range 8).map fun i => (cycle + i) % 8

/-! Time. -/

/-- The core whose cycle comes next (log 7): the schedule's first, or the next occupied core in ascending order. -/
def State.nextCore (s : State) : State :=
  match s.schedule with
  | c :: r => ({ s with schedule := r }).focus c 0
  | [] =>
    let cs := s.coreList.filter fun c => (s.getCore c).occupied
    match (cs.filter fun c => decide (s.loc < c)).min?, cs.min? with
    | some c, _ => s.focus c 0
    | none, some c => s.focus c 0
    | none, none => s

/-- Whether a thread's packet has waited 4,096 cycles for a free slot on its die (R146). -/
def State.packetLate (s : State) (t : Thread) : Bool :=
  decide (t.since + 4096 ≤ s.cycles) && s.hostHeld.any (isArrival (packBits t.packet))

/-- The timers of the current core that are due (R143, R146, R297, R298, R324, R325). -/
def State.dueTimers (s : State) : List Instr :=
  let k := s.here
  let poll := k.cycle % 1024 == 0
  (List.finRange 8).flatMap (fun i =>
    let t := k.slots[i]
    (match t.status with
     | .parked (.waitev _ (some l)) => if l ≤ k.cycle then [Instr.waitevTimeout s.loc i] else []
     | .parked (.join ..) => if poll then [Instr.joinPoll s.loc i] else []
     | .parked .travel => if s.packetLate t then [Instr.travelPacketReturn s.loc i] else []
     | _ => []) ++
    (if poll && t.watch.any (fun e => e.armed && e.polled) then [Instr.watchPoll s.loc i] else [])) ++
  (if poll && k.saves.any (fun v => v.joins.isSome) then [Instr.slotRestore s.loc] else []) ++
  (if (k.stagedAt.any fun p => decide (p.2 + 2048 ≤ k.cycle)) || !k.overdue.isEmpty then [Instr.stagingTimeout s.loc] else [])

/-- The cores whose wait between two sequences of steals is over (R199). -/
def State.dueSteals (s : State) : List Instr :=
  (s.coreList.filter fun c => match (s.getCore c).stealWait with
    | some l => decide (l ≤ s.cycles)
    | none => false).map Instr.stealRetryTimer

/-- The requests with travel packets of other packages that have waited 4,096 cycles for a free slot (R146). -/
def State.latePackets (s : State) : List Instr :=
  (s.awayReqs.filter fun r => decide (r.since + 4096 ≤ s.cycles)).filterMap fun r =>
    let h := headOf (r.slots.headD 0)
    if h.kind = .travel then some (.gatewayRequest (coreOf h.src h.agent) (BitVec.ofNat 10 h.tag) s.pkgid 0) else none

/-- The package's own timers that are due: the reset after heat (R21), the end of the wait after a split (R56), late packets of
other packages (R146), and the alerts of notice stores that have dropped notices (R133). -/
def State.duePackage (s : State) : List Instr :=
  (match s.thermal with
   | some l => if l ≤ s.cycles then [Instr.thermalReset] else []
   | none => []) ++
  (match s.splitWait with
   | some w => if w.2 + 8192 ≤ s.cycles then [Instr.splitWaitExpire] else []
   | none => []) ++
  s.latePackets ++
  (if s.cycles % 4096 == 0 then
    (s.notices.filter fun p => decide (0 < p.2.dropped)).map fun p => Instr.noticeDropAlert (Fin.ofNat 24 p.1)
  else [])

/-- One core cycle has passed (log 8). -/
def State.tick (s : State) : State :=
  let s := { (s.onHere fun k => { k with cycle := k.cycle + 1 }) with cycles := s.cycles + 1 }
  { s with agenda := s.agenda ++ s.dueTimers ++ s.dueSteals ++ s.duePackage }

/-- Claims of slots that are no longer ready are dropped. -/
def State.dropClaims (s : State) : State :=
  let k := s.here
  s.onHere fun c => { c with claims := c.claims.filter fun i =>
    match k.slots[i]? with
    | some t => t.status == .ready
    | none => false }

/-- A request that was held runs again, in the place of the instruction that made it. -/
def State.reissue (s : State) : State :=
  let s := if s.th.owes.isSome then s.requeueHeld else s
  s.onTh fun t => { t with owes := none, rewalk := false }

/-- The slot whose held request is served next runs its instruction again; no cycle of its core passes (R36, R90, R100). -/
def State.serve (s : State) (q : CoreId × Fin 8) : Option Issue × State :=
  let s := s.focus q.1 q.2
  if s.th.status != .ready || s.core.stopped then (none, s)
  else
    match s.fetch with
    | (.wait, s) => (none, s)
    | (.fault c d, s) => (some (.fault c d), s.reissue)
    | (.word w, s) => (some (.word w), s.reissue)

/-- The issue of one core cycle: the core's slot that issues, if any, with the cycle already passed. -/
def State.pickCycle (legal : IWord → Bool) (s : State) : Option Issue × State :=
  let s := s.nextCore.dropClaims
  if s.core.stopped then (none, s.tick)
  else
    match s.offers legal (offerOrder s.core.cycle) with
    | (x, s) => (x, s.tick)

/-- What issues next: a request that was held (R36), after which the events that came behind it run, else the slot that issues in
one core cycle, if any, with the cycle already passed. -/
def State.pick (legal : IWord → Bool) (s : State) : Option Issue × State :=
  match s.rerun with
  | q :: r => ({ s with rerun := r }).requeueHeld.serve q
  | [] => s.pickCycle legal

/-! Freeze (R25 to R28). -/

/-- The event that comes next, with the rest. -/
def State.nextEvent (s : State) : Option (Instr × State) :=
  if s.frozen then
    (s.agenda.find? runsFrozen).map fun i => (i, { s with agenda := s.agenda.erase i })
  else
    match s.agenda with
    | i :: r => some (i, { s with agenda := r })
    | [] => none

/-! Placing an instruction where the next step fetches it. -/

/-- The word's four bytes stored at a physical address, as `physByte` reads them. -/
def State.placeWord (s : State) (pa : Nat) (w : IWord) : State :=
  (List.range 4).foldl (fun s i =>
    (s.dropDirty (pa + i) 1).putBacking (pa + i) (BitVec.ofNat 8 (w.toNat / 256 ^ i))) s

end Sys2Proof.Machine
end

