-- ==== Sys2Proof/Machine/Step.lean ====
section
/-! DEFINITION. One step of the machine: an event that is due, or one core cycle (log 8). -/

namespace Sys2Proof.Machine

/-- Whether a word names an instruction (R268). -/
noncomputable def legalWord (w : IWord) : Bool :=
  match decode w with
  | .ok _ => true
  | .error _ => false

/-- What an issued word does: its instruction, or the illegal-instruction trap (R268, R269). -/
noncomputable def runWord (w : IWord) (s : State) : Host.Outcome State Fault Refusal :=
  match decode w with
  | .ok i => exec i s
  | .error _ => exec (.illegalInstruction w) s

/-- One core cycle (R201). -/
noncomputable def State.coreCycle (s : State) : Host.Outcome State Fault Refusal :=
  match s.pick legalWord with
  | (none, s) => .next s
  | (some (.fault c d), s) => exec (.fetchFault c d) s
  | (some (.word w), s) => runWord w s

/-- One step (log 7, log 8): an event that is due comes before the next core cycle; a frozen package does nothing else. -/
noncomputable def step (s : State) : Host.Outcome State Fault Refusal :=
  if !s.powered then .fault .poweredOff
  else
    match s.nextEvent with
    | some (i, s) => exec i s
    | none => if s.frozen then .next s else s.coreCycle

/-- The virtual and physical page of `withFetchWord` (log 9): page 0 of the package's LPDDR-6. -/
def fetchLeaf : BitVec 16 := 0x00CF

/-- The state with one instruction placed where `step` fetches its next one (log 9): slot 0 of site 0 of core die 0 holds a
ready supervisor thread at pc 0, whose page a TLB entry maps. -/
def State.withFetchWord (s : State) (_nbits w : Nat) : State :=
  let s := { s with
    powered := true, frozen := false, agenda := [], schedule := [0], rerun := [], lostDies := 0, fenced := 0, splitWait := none,
    psect := s.psect.filter fun q => decide (8 ≤ q) }
  let s := s.focus 0 0
  let pa := s.localPa 0
  let e : TlbEntry := ⟨0, s.th.ctx, 0, 16, pa, fetchLeaf, []⟩
  let s := s.onTh fun t => { t with
    status := .ready, pc := 0, mode := .supervisor, skip := 0, lastIssue := none, extents := [] }
  let s := s.onHere fun k => { k with
    cycle := 0, dpFree := 0, claims := [], tlb := [e], icache := [], stopped := false }
  s.placeWord pa (BitVec.ofNat 32 w)

end Sys2Proof.Machine
end

