-- ==== Sys2Proof/Safety.lean ====
section
/-! DEFINITION. What a safe run is: memory keeps its canonical form, and no step stops the machine; and the terms in which the
claims about instructions are stated. -/

namespace Sys2Proof.Safety

open Sys2Proof.Machine

/-- Every memory of a team is canonical. -/
def teamWf (t : Team) : Bool := t.pool.wf && t.acc.wf

/-- Every memory of a core is canonical. -/
def coreWf (k : Core) : Bool := k.pool.wf && k.teams.all teamWf

/-- Every memory of the package is canonical: what equal contents need in order to be equal data. -/
def memoryWf (s : State) : Bool := s.mem.wf && coreWf s.core && s.cores.all fun p => coreWf p.2

/-- A step that goes on. -/
def goesOn (o : Host.Outcome State Fault Refusal) : Bool :=
  match o with
  | .next _ => true
  | .fault _ => false
  | .refused _ => false

end Sys2Proof.Safety

namespace Sys2Proof.Claims

open Sys2Proof.Machine

/-- What an instruction of the current thread leaves alone: which thread is the current one, every byte of memory, every
other thread's registers and status, and every accumulator tile. -/
def Others (s t : State) : Prop :=
  t.loc = s.loc ∧ t.slot = s.slot ∧ (∀ a, t.physByte a = s.physByte a) ∧
    (∀ c sl, ¬(c = s.loc ∧ sl = s.slot) → t.getThread c sl = s.getThread c sl) ∧
    ∀ c, ((t.getCore c).teams.map fun x => (x.id, x.acc)) = (s.getCore c).teams.map fun x => (x.id, x.acc)

/-- What an instruction leaves alone that writes no scratchpad either. -/
def Keeps (s t : State) : Prop :=
  Others s t ∧ ∀ c, (t.getCore c).pool = (s.getCore c).pool ∧
    ((t.getCore c).teams.map fun x => (x.id, x.pool)) = (s.getCore c).teams.map fun x => (x.id, x.pool)

/-- No register is poisoned. -/
def Clean (r : Regs) : Prop := (∀ i, r.rxp i = none) ∧ (∀ i : Fin 32, r.vp[i] = []) ∧ ∀ i, r.rkp i = none

/-- No thread of the core has an open message (R147). -/
abbrev Closed (s : State) : Prop := ∀ t ∈ s.here.slots.toList ++ s.core.saves.map (·.thread), t.packing = []

/-- Nothing that a release, a fence or STOP waits for: no latent entry, no record, no store on its way or in an open message,
no request outside, no kill, and no halo to push. -/
def Quiet (s : State) : Prop :=
  s.th.held = [] ∧ s.th.records = [] ∧ s.core.staging = [] ∧ s.core.inflight = [] ∧ s.outstanding = [] ∧ s.kills = [] ∧
    Closed s ∧
    (∀ p ∈ s.tiles, p.2.tstate = .owned → p.2.owner = s.loc → p.2.neighbours = [] ∧ s.haloOut p.1 = false) ∧
    s.th.dev = 0 ∧ s.th.hst = 0

/-- Device memory whose homes serve every request at once: no die lost or fenced, no split decided, no declared tile, no
poisoned sector, no half held by the host or asked of it, and no line entry that is never stored. -/
def OpenMemory (s : State) : Prop :=
  s.lostDies = 0 ∧ s.fenced = 0 ∧ s.splitWait = none ∧ s.tiles = [] ∧ s.psect = [] ∧ s.bisnps = [] ∧ (∀ h, s.hostState h = 0) ∧
    ∀ l, (s.lineAt l).state ≠ 3

/-- Device memory to which every access is served at once: its homes serve it, and no core's write waits in the egress of its
die or is an atomic. -/
def Calm (s : State) : Prop :=
  OpenMemory s ∧ ∀ c, ∀ p ∈ (s.getCore c).inflight, p.near = false ∧ p.msg.amo = none

/-- The value of an access that touches one page or two, lowest bytes first: the thread's own stores ahead of memory (R150,
R157). -/
def spanRead (s : State) : List (Phys × Nat) → Nat
  | [] => 0
  | (p, n) :: r => leRead (s.loadByte s.ownStores) p.pa n + 256 ^ n * spanRead s r

/-- An access of `n` bytes whose pages translate and lie in device memory, and for which the thread does not migrate. -/
def Reaches (s : State) (va : Word) (n : Nat) (k : Access) (ps : List (Phys × Nat)) : Prop :=
  (s.xlateSpan s.asid va n k).1 = .ok ps ∧ (∀ q ∈ ps, s.isDevMem q.1.pa = true) ∧ s.travelsTo ps = none

/-- A load's value: zero- or sign-extended from `n` bytes (R305). -/
def extended (n : Nat) (signed : Bool) (v : Nat) : Word := if signed then BitVec.ofInt 64 (sint v (8 * n)) else BitVec.ofNat 64 v

/-- The checkpoint of the current thread's team is not open (R142). -/
def Sealed (s : State) : Prop := ∀ tm ∈ s.core.teams, tm.id = s.th.team → tm.ckpt.isOpen = false

/-- The messages of a store's pieces, lowest first, with their places in the order of issue (R34). -/
def storeMsgs (s : State) (va : Word) (v seq : Nat) : List (Phys × Nat) → List Pending
  | [] => []
  | (p, n) :: r =>
    { tid := s.th.order, near := false,
      msg := { va := va, pa := p.pa, n := n, data := BitVec.ofNat 128 (v % 256 ^ n), leaf := p.leaf, amo := none, pc := s.th.pc,
               ctx := s.th.ctx, courier := none, seq := seq } } :: storeMsgs s va (v / 256 ^ n) (seq + 1) r

/-- No line entry gains a value that is never stored (R92). -/
def Whole (s t : State) : Prop := (∀ l, (s.lineAt l).state ≠ 3) → ∀ l, (t.lineAt l).state ≠ 3

/-- A state that differs at most in what caches, translation buffers, line records and channels hold, and in the evictions
that are due. -/
def CachesOnly (s t : State) : Prop :=
  t = { s with core := t.core, lines := t.lines, coreMaps := t.coreMaps, channels := t.channels, agenda := t.agenda } ∧
    t.core = { s.core with slots := t.core.slots, tlb := t.core.tlb, ccache := t.core.ccache } ∧
    (∀ j : Fin 8, j ≠ s.slot → t.core.slots[j] = s.core.slots[j]) ∧ (∀ h, t.hostState h = s.hostState h) ∧ Whole s t

/-- An access that reaches device memory whatever the caches and translation buffers hold. -/
def Steady (s : State) (va : Word) (n : Nat) (k : Access) (ps : List (Phys × Nat)) : Prop :=
  ∀ u, CachesOnly s u → Reaches u va n k ps

/-- A state that differs at most in its cores, threads and caches, and in what is still to be done or sent. -/
def EngineAside (s u : State) : Prop :=
  u = { s with
    core := u.core, th := u.th, cores := u.cores, lines := u.lines, coreMaps := u.coreMaps, channels := u.channels,
    agenda := u.agenda, outbox := u.outbox, hostHeld := u.hostHeld } ∧
    (∀ h, u.hostState h = s.hostState h) ∧ Whole s u

/-- A state that differs at most in its cores, threads and caches, in what is to be done or sent, and in the bytes of memory that
`q` selects. -/
def EngineWrites (s u : State) (q : Nat → Prop) : Prop :=
  EngineAside { s with mem := u.mem, dirty := u.dirty, kills := u.kills } u ∧ ∀ a, ¬q a → u.physByte a = s.physByte a

/-- Nothing that runs differs: no thread, no core and no byte of memory. -/
def Undisturbed (s t : State) : Prop :=
  t.loc = s.loc ∧ t.slot = s.slot ∧ t.th = s.th ∧ t.core = s.core ∧ t.cores = s.cores ∧ ∀ a, t.physByte a = s.physByte a

/-! Vector forms. -/

/-- A vector form with clean registers, on a core die, whose vector registers lie below the allotment (R217, R265). -/
def VecOk (s : State) (rs : List VReg) : Prop := Clean s.th.regs ∧ isCmd s.loc = false ∧ ∀ r ∈ rs, r.val < s.th.allot

/-- FMTC is well formed where an element type needs it (R241). -/
def FmtOk (s : State) (t : ElTy) : Prop := t = .q8 → (recQ8 s.th.regs.fmtc).isSome = true

/-- Element `j` of width `w` of vector register `a`, as an unsigned number (R258). -/
def el (s : State) (a : VReg) (w j : Nat) : Nat := s.th.regs.v[a].toNat / 2 ^ (8 * w * j) % 2 ^ (8 * w)

/-- Whether element `j` is active under mask `k` (R328). -/
def active (s : State) (k : KReg) (w j : Nat) : Bool :=
  decide (j < min s.th.regs.vl (1024 / w)) && (s.th.regs.rk k).getLsbD (w * j / 4)

/-- The active elements, ascending. -/
def actives (s : State) (k : KReg) (w : Nat) : List Nat := (List.range (1024 / w)).filter (active s k w)

/-- Whether an element has a byte in a 4-byte lane (R328). -/
def inLane (w j l : Nat) : Prop := w * j < 4 * (l + 1) ∧ 4 * l < w * (j + 1)

/-- The instruction goes on having written vector register `d` alone, whose elements of width `w` are given by `f`. -/
def SetsElems (i : Instr) (s : State) (d : VReg) (w : Nat) (f : Nat → Nat) : Prop :=
  ∃ v : VWord, exec i s = .next (s.onRegs fun r => r.wv d v []).adv ∧ ∀ j < 1024 / w, v.toNat / 2 ^ (8 * w * j) % 2 ^ (8 * w) = f j

/-- The instruction goes on having written mask register `d` alone, whose true lanes are given by `f`; a write to `k0` is
discarded (R257). -/
def SetsMask (i : Instr) (s : State) (d : KReg) (f : Nat → Prop) : Prop :=
  ∃ m : KWord, exec i s = .next (s.onRegs fun r => r.wk d m).adv ∧ ∀ l < 256, (m.getLsbD l = true ↔ f l)

/-- The bytes of the string that a descriptor names can be read, and are `l` (R351). -/
def HasString (s : State) (x : Nat) (l : List Byte) : Prop :=
  x ≠ 2 ^ 64 - 1 → l.length = x / 2 ^ 54 ∧
    ∀ m, (h : m < l.length) → ∃ ps, Steady s (BitVec.ofInt 64 (sint x 54 + m)) 1 .load ps ∧ spanRead s ps = l[m].toNat

end Sys2Proof.Claims
end

