-- ==== Sys2Proof/Certificates/Slice0/Obligations.lean ====
section
/-! DEFINITION. The statements for the provers, with the vocabulary they share. -/

namespace Sys2Proof.Claims

open Sys2Proof.Machine

/-! Vocabulary. -/

/-- The instruction of an operation of major 0x01 (R266); the single-source forms have no rb. -/
def aluInstr (f : AluFn) (d a b : Reg) : Instr :=
  match f with
  | .add => .add d a b | .sub => .sub d a b | .and => .and d a b | .or => .or d a b | .xor => .xor d a b
  | .andn => .andn d a b | .orn => .orn d a b | .sll => .sll d a b | .srl => .srl d a b | .sra => .sra d a b
  | .rol => .rol d a b | .ror => .ror d a b | .slt => .slt d a b | .sltn => .sltn d a b | .seq => .seq d a b
  | .min => .min d a b | .max => .max d a b | .minn => .minn d a b | .maxn => .maxn d a b
  | .mul => .mul d a b | .mulh => .mulh d a b | .mulhn => .mulhn d a b
  | .div => .div d a b | .divn => .divn d a b | .rem => .rem d a b | .remn => .remn d a b
  | .clz => .clz d a | .ctz => .ctz d a | .popc => .popc d a | .bswap => .bswap d a
  | .shadd1 => .shadd1 d a b | .shadd2 => .shadd2 d a b | .shadd3 => .shadd3 d a b
  | .crcb => .crcb d a b | .crcd => .crcd d a b | .mix64 => .mix64 d a b

/-- Whether an operation reads x[rb]. -/
def aluReadsB (f : AluFn) : Bool :=
  match f with
  | .clz | .ctz | .popc | .bswap => false
  | _ => true

end Sys2Proof.Claims

open Sys2Proof Sys2Proof.Machine Sys2Proof.Claims

/-! Scalar operations. -/

/-- R277: the value of every two-source operation on clean operands; nothing else of the state changes but the pc. -/
def Obligations.AluResults : Prop :=
  ∀ (d a b : Reg) (s : State), s.th.regs.rxp a = none → s.th.regs.rxp b = none →
    let x := s.x a
    let y := s.x b
    let n := y.toNat % 64
    let gives := fun (i : Instr) (v : Word) => exec i s = .next (s.setX d v).adv
    gives (.add d a b) (x + y) ∧ gives (.sub d a b) (x - y) ∧
    gives (.and d a b) (x &&& y) ∧ gives (.or d a b) (x ||| y) ∧ gives (.xor d a b) (x ^^^ y) ∧
    gives (.andn d a b) (x &&& ~~~y) ∧ gives (.orn d a b) (x ||| ~~~y) ∧
    gives (.sll d a b) (BitVec.ofNat 64 (x.toNat * 2 ^ n)) ∧ gives (.srl d a b) (BitVec.ofNat 64 (x.toNat / 2 ^ n)) ∧
    gives (.sra d a b) (BitVec.ofInt 64 (x.toInt / 2 ^ n)) ∧
    gives (.rol d a b) (x.rotateLeft n) ∧ gives (.ror d a b) (x.rotateRight n) ∧
    gives (.slt d a b) (if x.toInt < y.toInt then 1 else 0) ∧ gives (.sltn d a b) (if x.toNat < y.toNat then 1 else 0) ∧
    gives (.seq d a b) (if x = y then 1 else 0) ∧
    gives (.min d a b) (BitVec.ofInt 64 (min x.toInt y.toInt)) ∧ gives (.max d a b) (BitVec.ofInt 64 (max x.toInt y.toInt)) ∧
    gives (.minn d a b) (BitVec.ofNat 64 (min x.toNat y.toNat)) ∧
    gives (.maxn d a b) (BitVec.ofNat 64 (max x.toNat y.toNat)) ∧
    gives (.mul d a b) (BitVec.ofInt 64 (x.toInt * y.toInt)) ∧
    gives (.mulh d a b) (BitVec.ofInt 64 (x.toInt * y.toInt / 2 ^ 64)) ∧
    gives (.mulhn d a b) (BitVec.ofNat 64 (x.toNat * y.toNat / 2 ^ 64)) ∧
    gives (.shadd1 d a b) (BitVec.ofNat 64 (x.toNat * 2) + y) ∧ gives (.shadd2 d a b) (BitVec.ofNat 64 (x.toNat * 4) + y) ∧
    gives (.shadd3 d a b) (BitVec.ofNat 64 (x.toNat * 8) + y)

/-- R278: division truncates toward zero and never traps. -/
def Obligations.DivisionResults : Prop :=
  ∀ (d a b : Reg) (s : State), s.th.regs.rxp a = none → s.th.regs.rxp b = none →
    let x := s.x a
    let y := s.x b
    let gives := fun (i : Instr) (v : Word) => exec i s = .next (s.setX d v).adv
    (y ≠ 0 →
      gives (.div d a b) (BitVec.ofInt 64 (x.toInt.tdiv y.toInt)) ∧ gives (.divn d a b) (BitVec.ofNat 64 (x.toNat / y.toNat)) ∧
      gives (.rem d a b) (BitVec.ofInt 64 (x.toInt - y.toInt * x.toInt.tdiv y.toInt)) ∧
      gives (.remn d a b) (BitVec.ofNat 64 (x.toNat % y.toNat))) ∧
    (y = 0 →
      gives (.div d a b) 0xFFFFFFFFFFFFFFFF ∧ gives (.divn d a b) 0xFFFFFFFFFFFFFFFF ∧
      gives (.rem d a b) x ∧ gives (.remn d a b) x) ∧
    (x = 0x8000000000000000 → y = 0xFFFFFFFFFFFFFFFF →
      gives (.div d a b) 0x8000000000000000 ∧ gives (.rem d a b) 0)

/-- R279 to R282: counts, byte reversal, the conditional move on clean registers, and the hash steps. R283 to R287: the
immediate forms on a clean operand; ADDPC reads no register. -/
def Obligations.CountHashImmediateResults : Prop :=
  (∀ (d a b : Reg) (s : State), s.th.regs.rxp a = none → s.th.regs.rxp b = none →
    let x := s.x a
    let y := s.x b
    let gives := fun (i : Instr) (v : Word) => exec i s = .next (s.setX d v).adv
    (∃ n ≤ 64, gives (.clz d a) (BitVec.ofNat 64 n) ∧ x.toNat < 2 ^ (64 - n) ∧ (n < 64 → 2 ^ (63 - n) ≤ x.toNat)) ∧
    (∃ n ≤ 64, gives (.ctz d a) (BitVec.ofNat 64 n) ∧ x.toNat % 2 ^ n = 0 ∧ (n < 64 → x.getLsbD n = true)) ∧
    gives (.popc d a) (BitVec.ofNat 64 ((List.range 64).countP fun i => x.getLsbD i)) ∧
    gives (.bswap d a) (x.extractLsb' 0 8 ++ x.extractLsb' 8 8 ++ x.extractLsb' 16 8 ++ x.extractLsb' 24 8 ++
      x.extractLsb' 32 8 ++ x.extractLsb' 40 8 ++ x.extractLsb' 48 8 ++ x.extractLsb' 56 8) ∧
    exec (.cmov d a b) s = .next (if y = 0 then s else s.setX d x).adv ∧
    gives (.crcb d a b) ((crcByte (x.setWidth 32) (y.setWidth 8)).setWidth 64) ∧
    gives (.crcd d a b) (((List.range 8).foldl (fun c i => crcByte c (y.extractLsb' (8 * i) 8)) (x.setWidth 32)).setWidth 64) ∧
    gives (.mix64 d a b) (mixWords x y)) ∧
  (∀ (d a : Reg) (i : BitVec 16) (n l o : Fin 64) (s : State), s.th.regs.rxp a = none →
    let x := s.x a
    let gives := fun (j : Instr) (v : Word) => exec j s = .next (s.setX d v).adv
    gives (.addi d a i) (x + i.signExtend 64) ∧ gives (.andi d a i) (x &&& i.setWidth 64) ∧
    gives (.ori d a i) (x ||| i.setWidth 64) ∧ gives (.xori d a i) (x ^^^ i.setWidth 64) ∧
    gives (.slti d a i) (if x.toInt < i.toInt then 1 else 0) ∧
    gives (.sltin d a i) (if x.toNat < (i.signExtend 64).toNat then 1 else 0) ∧
    gives (.lih d a i) (BitVec.ofNat 64 (x.toNat * 2 ^ 16) ||| i.setWidth 64) ∧
    gives (.addpc d i) (BitVec.ofInt 64 (s.th.pc.toInt + i.toInt * 2 ^ 16)) ∧
    gives (.slli d a n) (BitVec.ofNat 64 (x.toNat * 2 ^ n.val)) ∧ gives (.srli d a n) (BitVec.ofNat 64 (x.toNat / 2 ^ n.val)) ∧
    gives (.srai d a n) (BitVec.ofInt 64 (x.toInt / 2 ^ n.val)) ∧ gives (.rori d a n) (x.rotateRight n.val) ∧
    (o.val + (l.val + 1) ≤ 64 →
      gives (.bfx d a l o) (BitVec.ofNat 64 (x.toNat / 2 ^ o.val % 2 ^ (l.val + 1))) ∧
      gives (.bfxs d a l o) (BitVec.ofInt 64 (sint (x.toNat / 2 ^ o.val) (l.val + 1)))))


/-- R129, R130: an operation of major 0x01, or an immediate form, that reads a poisoned operand writes its destination
poisoned, with the payload of the first poisoned source in the order ra, rb and the number of its new log entry;
without room in the log it is a consumer. R280: CMOV does so only on a poisoned condition; on a clean one that is not
zero it copies x[ra] with its poison and makes no entry, and on a clean zero it changes nothing; to `x0` it has no
effect. The model's choices in it: log 28. -/
def Obligations.AluPoison : Prop :=
  ∀ (s : State),
    let propagates := fun (i : Instr) (op : PropOp) (d : Reg) (p : Payload) =>
      (s.th.log.length < 16 → loggedVecs s.th.log ≤ 8 →
        exec i s = .next { s with th := { s.th with
          log := s.th.log ++ [⟨s.th.pc, op, s.th.regs, 0⟩]
          regs := s.th.regs.wxp d (BitVec.ofNat 21 (p.toNat % 65536 + 65536 * (s.th.log.length + 1)))
          pc := s.th.pc + 4 } }) ∧
      (16 ≤ s.th.log.length → exec i s = .next s.parkConsumer)
    (∀ (f : AluFn) (d a b : Reg) (p : Payload),
      (s.th.regs.rxp a = some p ∨ (s.th.regs.rxp a = none ∧ aluReadsB f = true ∧ s.th.regs.rxp b = some p)) →
      propagates (aluInstr f d a b) (.alu f d a (if aluReadsB f then b else 0)) d p) ∧
    (∀ (d a : Reg) (i : BitVec 16) (n l o : Fin 64) (p : Payload), s.th.regs.rxp a = some p →
      propagates (.addi d a i) (.imm .addi d a i) d p ∧ propagates (.andi d a i) (.imm .andi d a i) d p ∧
      propagates (.ori d a i) (.imm .ori d a i) d p ∧ propagates (.xori d a i) (.imm .xori d a i) d p ∧
      propagates (.slti d a i) (.imm .slti d a i) d p ∧ propagates (.sltin d a i) (.imm .sltin d a i) d p ∧
      propagates (.lih d a i) (.imm .lih d a i) d p ∧
      propagates (.slli d a n) (.imm .slli d a (BitVec.ofNat 16 n.val)) d p ∧
      propagates (.srli d a n) (.imm .srli d a (BitVec.ofNat 16 n.val)) d p ∧
      propagates (.srai d a n) (.imm .srai d a (BitVec.ofNat 16 n.val)) d p ∧
      propagates (.rori d a n) (.imm .rori d a (BitVec.ofNat 16 n.val)) d p ∧
      propagates (.bfx d a l o) (.imm .bfx d a (BitVec.ofNat 16 (l.val * 64 + o.val))) d p ∧
      propagates (.bfxs d a l o) (.imm .bfxs d a (BitVec.ofNat 16 (l.val * 64 + o.val))) d p) ∧
    (∀ (d a b : Reg) (p : Payload), d ≠ 0 →
      ((s.th.regs.rxp a = some p ∨ s.th.regs.rxp a = none ∧ s.th.regs.rxp b = some p) → s.th.regs.rxp b ≠ none →
        propagates (.cmov d a b) (.cmov d a b) d p) ∧
      (s.th.regs.rxp b = none → s.x b ≠ 0 → s.th.regs.rxp a = some p →
        exec (.cmov d a b) s = .next { s with th := { s.th with regs := s.th.regs.wxp d p, pc := s.th.pc + 4 } }) ∧
      (s.th.regs.rxp b = none → s.x b = 0 → exec (.cmov d a b) s = .next s.adv)) ∧
    ∀ (a b : Reg), exec (.cmov 0 a b) s = .next s.adv

/-- R289: a conditional branch on clean operands goes to its target, giving up the next offer (R294), or goes on; it writes no
register and no memory. R290 to R294: jumps, links, prepared targets and prepared branches. -/
def Obligations.BranchJumpResults : Prop :=
  (∀ (a b : Reg) (p : BitVec 16) (s : State), s.th.regs.rxp a = none → s.th.regs.rxp b = none →
    let x := s.x a
    let y := s.x b
    let target := BitVec.ofInt 64 (s.th.pc.toNat + 4 * p.toInt)
    let goes := fun (i : Instr) (c : Prop) =>
      (c → exec i s = .next { s with th := { s.th with pc := target, skip := s.th.skip + 1 } }) ∧
      (¬c → exec i s = .next { s with th := { s.th with pc := s.th.pc + 4 } })
    goes (.beq a b p) (x = y) ∧ goes (.bne a b p) (x ≠ y) ∧ goes (.blt a b p) (x.toInt < y.toInt) ∧
    goes (.bge a b p) (y.toInt ≤ x.toInt) ∧ goes (.bltn a b p) (x.toNat < y.toNat) ∧ goes (.bgen a b p) (y.toNat ≤ x.toNat)) ∧
  (∀ (d a : Reg) (n : BReg) (p26 : BitVec 26) (p24 : BitVec 24) (s : State), s.th.regs.rxp a = none →
    let x := s.x a
    let goTo := fun (t : State) (pc : Word) (cost : Nat) =>
      (.next { t with th := { t.th with pc := pc, skip := t.th.skip + cost } } : Host.Outcome State Fault Refusal)
    let rel := fun (disp : Int) => BitVec.ofInt 64 (s.th.pc.toNat + 4 * disp)
    let cleared := BitVec.ofNat 64 (x.toNat / 4 * 4)
    exec (.jmp p26) s = goTo s (rel p26.toInt) 1 ∧
    exec (.jal p26) s = goTo (s.setX 1 (s.th.pc + 4)) (rel p26.toInt) 1 ∧
    exec (.jr a) s = goTo s cleared 1 ∧
    exec (.jalr d a) s = goTo (s.setX d (s.th.pc + 4)) cleared 1 ∧
    exec (.prep n p24) s = .next (s.onRegs fun r => { r with b := r.b.set n (rel p24.toInt) }).adv ∧
    exec (.btr d n) s = goTo (s.setX d (s.th.pc + 4)) s.th.regs.b[n] 0 ∧
    (x = 0 → exec (.btrz a n) s = goTo s s.th.regs.b[n] 0 ∧ exec (.btrnz a n) s = .next s.adv) ∧
    (x ≠ 0 → exec (.btrnz a n) s = goTo s s.th.regs.b[n] 0 ∧ exec (.btrz a n) s = .next s.adv))

/-! Task instructions. -/

/-- R299, R301, and the ends of R295 that push nothing: YIELD gives up two offers, TASKID reads the task number, FORK
reports 2 on a command core and 1 when neither the deque nor its reserved places leave room. The model's choices in
it: log 56. -/
def Obligations.TaskSimple : Prop :=
  ∀ (d a b : Reg) (s : State),
    exec .yield s = .next { s with th := { s.th with pc := s.th.pc + 4, skip := s.th.skip + 2 } } ∧
    exec (.taskid d) s = .next (s.setX d (if s.th.kind = .strand then 0 else BitVec.ofNat 64 s.th.task.toNat)).adv ∧
    ((∀ r ∈ [a, b, 10, 11, 13], s.th.regs.rxp r = none) →
      (isCmd s.loc = true → exec (.fork d a b) s = .next (s.setX d 2).adv) ∧
      (isCmd s.loc = false → s.th.reserved = false → 1088 ≤ s.core.deque.length + s.here.reserved →
        exec (.fork d a b) s = .next (s.setX d 1).adv))

/-- R190, R295 to R297, R300 for a thread that has nothing to wait for: FORK pushes its record at the bottom of the deque,
and adds 1 to the join counter where it names one; JOIN completes at a read of 0, else the slot parks on the counter's
line; STOP takes 1 off the join counter of a forked thread, empties the slot and returns the thread's frames to its
team, whose task retires if it was the last. The model's choices in it: log 10, 37. -/
def Obligations.ForkJoinStop : Prop :=
  ∀ (d a b : Reg) (s : State), Quiet s →
    let counts := fun (j : Word) (p : Phys) => s.th.status = .ready ∧ s.mem.wf = true ∧ Calm s ∧ j ≠ 0 ∧
      (s.xlate s.asid j 8 .atomic).1 = .ok p ∧ s.travelsTo [(p, 8)] = none ∧ s.isDevMem p.pa = true
    let added := fun (t : State) (p : Phys) (n q : Nat) => t.physByte q =
      if p.pa ≤ q ∧ q < p.pa + 8 then BitVec.ofNat 8 ((s.physRead p.pa 8 + n) % 2 ^ 64 / 256 ^ (q - p.pa)) else s.physByte q
    ((∀ r ∈ [a, b, 10, 11, 13], s.th.regs.rxp r = none) → isCmd s.loc = false →
        (s.th.reserved = true ∨ s.core.deque.length + s.here.reserved < 1088) →
      let j := BitVec.ofNat 64 ((s.x b).toNat / 8 * 8)
      let pushed := fun (t : State) => t.core.deque =
          { pc := BitVec.ofNat 64 ((s.x a).toNat / 4 * 4), a0 := s.x 10, a1 := s.x 11, sp := s.x 13,
            fmtp := ((s.launchAt s.th.lh).map (·.fmtctx)).getD s.th.fmtp, rngp := 0, joinp := j, task := s.th.task, lh := s.th.lh,
            thread := true, nrng := 0 } :: s.core.deque ∧
        t.th.regs = s.th.regs.wx d 0 ∧ t.th.pc = s.th.pc + 4 ∧ t.th.reserved = false ∧
        ∀ l, s.launchAt s.th.lh = some l → ∃ u, t.launchAt s.th.lh = some u ∧ u.live = l.live + 1
      -- the records past the 64th stand in memory (R190)
      let spilled := fun (q : Nat) => s.spillArea s.loc ≤ q ∧ q < s.spillArea s.loc + 64 * (s.core.deque.length + 1 - 64)
      (j = 0 → ∃ t, exec (.fork d a b) s = .next t ∧ pushed t ∧ (∀ q, ¬spilled q → t.physByte q = s.physByte q) ∧
        t.th = { s.th with regs := s.th.regs.wx d 0, pc := s.th.pc + 4, scopeTab := none, reserved := false } ∧
        (s.core.deque.length < 64 → Keeps s t)) ∧
      (∀ p, counts j p → ∃ t, exec (.fork d a b) s = .next t ∧ pushed t ∧ ∀ q, ¬spilled q → added t p 1 q)) ∧
    (s.th.regs.rxp a = none → Calm s → s.th.got = [] →
      let va := BitVec.ofNat 64 ((s.x a).toNat / 8 * 8)
      ∀ p, (∀ u, CachesOnly s u → (u.xlate u.asid va 8 .load).1 = .ok p) → s.travelsTo [(p, 8)] = none → s.isDevMem p.pa = true →
        (leRead (s.loadByte s.ownStores) p.pa 8 = 0 →
          ∃ t, exec (.join a) s = .next t ∧ t.th = { s.th with pc := s.th.pc + 4, got := [] } ∧ Keeps s t) ∧
        (leRead (s.loadByte s.ownStores) p.pa 8 ≠ 0 →
          ∃ t, exec (.join a) s = .next t ∧ t.th.status = .parked (.join (p.pa / 128) va) ∧ t.th.regs = s.th.regs ∧
            t.th.pc = s.th.pc ∧ Keeps s t)) ∧
    (s.core.copies = [] →
      let j := s.th.joinp
      let ended := fun (t : State) => t.th.status = .empty ∧ t.th.allot = 0 ∧ t.th.regs = s.th.regs ∧
        (∀ i : Fin 4, t.th.watch[i].armed = false) ∧
        (∀ tm, s.team = some tm → ∃ u, t.team = some u ∧ u.frames = tm.frames - s.th.allot ∧ u.stopped = tm.stopped + 1 ∧
          u.poolpart = tm.poolpart ∧ u.pool = tm.pool ∧ u.acc = tm.acc) ∧
        (isCmd s.loc = false → ∃ e, t.agenda = e ++ [.taskRetire s.loc s.th.team, .slotRestore s.loc])
      ((s.th.kind ≠ .thread ∨ j = 0) → ∃ t, exec .stop s = .next t ∧ ended t ∧ Keeps s t) ∧
      (s.th.kind = .thread → ∀ p, counts j p → ∃ t, exec .stop s = .next t ∧ ended t ∧ ∀ q, added t p (2 ^ 64 - 1) q))

/-! Memory. -/

/-- R305, R306: every relaxed scalar load of open device memory writes its extended value and nothing else. The model's
choices in it: log 10. -/
def Obligations.LoadResults : Prop :=
  ∀ (d a b : Reg) (i : BitVec 16) (s : State), Calm s → s.th.regs.rxp a = none →
    let gives := fun (j : Instr) (va : Word) (n : Nat) (signed : Bool) => ∀ ps, Reaches s va n .load ps →
      ∃ t, exec j s = .next t ∧
        t.th = { s.th with regs := s.th.regs.wx d (extended n signed (spanRead s ps)), pc := s.th.pc + 4, got := [] } ∧ Keeps s t
    let k := s.x a + i.signExtend 64
    let m := s.x a + s.x b
    gives (.ldb d a i) k 1 true ∧ gives (.ldh d a i) k 2 true ∧ gives (.ldw d a i) k 4 true ∧ gives (.ldd d a i) k 8 false ∧
    gives (.ldbn d a i) k 1 false ∧ gives (.ldhn d a i) k 2 false ∧ gives (.ldwn d a i) k 4 false ∧
    (s.th.regs.rxp b = none →
      gives (.ldxb d a b) m 1 true ∧ gives (.ldxh d a b) m 2 true ∧ gives (.ldxw d a b) m 4 true ∧ gives (.ldxd d a b) m 8 false ∧
      gives (.ldxbn d a b) m 1 false ∧ gives (.ldxhn d a b) m 2 false ∧ gives (.ldxwn d a b) m 4 false)

/-- R305, R306, R161: every relaxed scalar store counts on the three counters and leaves on its way, or is held in staging
while the checkpoint is open (R142); no byte of memory changes before the write is serialised. The model's choices in
it: log 11. -/
def Obligations.StoreResults : Prop :=
  ∀ (d a b : Reg) (i : BitVec 16) (s : State), s.th.regs.rxp a = none → s.th.regs.rxp d = none →
    let gives := fun (j : Instr) (va : Word) (n : Nat) => ∀ ps, Reaches s va n .store ps →
      let ms := storeMsgs s va ((s.x d).toNat % 256 ^ n) s.issued ps
      ∃ t, exec j s = .next t ∧
        t.th = { s.th with near := s.th.near + ps.length, dev := s.th.dev + ps.length, hst := s.th.hst + ps.length,
                           pc := s.th.pc + 4 } ∧ Keeps s t ∧
        (s.ckptOpen = false → t.core.inflight = s.core.inflight ++ ms ∧ t.core.staging = s.core.staging ∧
          t.agenda = (s.xlateSpan s.asid va n .store).2.agenda ++ ps.map fun _ => .homeLineStore s.loc 0) ∧
        (s.ckptOpen = true → (s.core.staging.map fun p => p.msg.n).sum + n ≤ 32768 →
          t.core.staging = s.core.staging ++ ms ∧ t.core.inflight = s.core.inflight ∧
          t.agenda = (s.xlateSpan s.asid va n .store).2.agenda)
    let k := s.x a + i.signExtend 64
    let m := s.x a + s.x b
    gives (.stb d a i) k 1 ∧ gives (.sth d a i) k 2 ∧ gives (.stw d a i) k 4 ∧ gives (.std d a i) k 8 ∧
    (s.th.regs.rxp b = none →
      gives (.stxb d a b) m 1 ∧ gives (.stxh d a b) m 2 ∧ gives (.stxw d a b) m 4 ∧ gives (.stxd d a b) m 8)

/-- R304, R307: aligned acquire loads and release stores of a thread that has nothing to wait for. The model's choices in
it: log 10, 11. -/
def Obligations.OrderedAccessResults : Prop :=
  ∀ (d a b : Reg) (sc : ScopeIx) (s : State), Calm s → Quiet s → s.th.regs.rxp a = none → s.th.regs.rxp b = none →
    let va := s.x a + s.x b
    let loads := fun (j : Instr) (n : Nat) => va.toNat % n = 0 → ∀ ps, Reaches s va n .load ps →
      ∃ t, exec j s = .next t ∧
        t.th = { s.th with regs := s.th.regs.wx d (BitVec.ofNat 64 (spanRead s ps)), pc := s.th.pc + 4, got := [] } ∧ Keeps s t
    let stores := fun (j : Instr) (n : Nat) => va.toNat % n = 0 → ∀ p, Reaches s va n .store [(p, n)] →
      ∃ t, exec j s = .next t ∧
        t.th = { s.th with near := s.th.near + 1, dev := s.th.dev + 1, hst := s.th.hst + 1, pc := s.th.pc + 4, scopeTab := none } ∧
        Keeps s t ∧ t.core.inflight = storeMsgs s va ((s.x d).toNat % 256 ^ n) s.issued [(p, n)] ∧ t.core.staging = [] ∧
        ∃ e, t.agenda = e ++ [.homeLineStore s.loc 0]
    loads (.ldaqB d a b sc) 1 ∧ loads (.ldaqH d a b sc) 2 ∧ loads (.ldaqW d a b sc) 4 ∧ loads (.ldaqD d a b sc) 8 ∧
    (s.th.regs.rxp d = none →
      stores (.strlB d a b sc) 1 ∧ stores (.strlH d a b sc) 2 ∧ stores (.strlW d a b sc) 4 ∧ stores (.strlD d a b sc) 8)

/-- R215, R304, R306, R308: pool loads and stores that are in range and aligned. R309, R310: a prefetch changes no
register and no byte; DISC makes every uncovered sector of the line read as memory again. The model's choices in it:
log 2, 47. -/
def Obligations.PoolAndHintResults : Prop :=
  (∀ (d a b : Reg) (i : BitVec 16) (s : State), s.th.regs.rxp a = none →
    let loads := fun (j : Instr) (o : Word) (n : Nat) (signed : Bool) => o.toNat + n ≤ s.spBytes → o.toNat % n = 0 →
      exec j s = .next (s.setX d (extended n signed (memRead s.pool o.toNat n))).adv
    let stores := fun (j : Instr) (o : Word) (n : Nat) => o.toNat + n ≤ s.spBytes → o.toNat % n = 0 →
      Sealed s → s.pool.wf = true →
      ∃ t, exec j s = .next t ∧ t.th = { s.th with pc := s.th.pc + 4 } ∧ Others s t ∧
        ∀ q, memByte t.pool q =
          if o.toNat ≤ q ∧ q < o.toNat + n then BitVec.ofNat 8 ((s.x d).toNat / 256 ^ (q - o.toNat)) else memByte s.pool q
    let k := s.x a + i.signExtend 64
    let m := s.x a + s.x b
    loads (.ldp d a i) k 8 false ∧ (s.th.regs.rxp d = none → stores (.stp d a i) k 8) ∧
    (s.th.regs.rxp b = none →
      loads (.ldpb d a b) m 1 true ∧ loads (.ldph d a b) m 2 true ∧ loads (.ldpw d a b) m 4 true ∧
      loads (.ldpbn d a b) m 1 false ∧ loads (.ldphn d a b) m 2 false ∧ loads (.ldpwn d a b) m 4 false ∧
      (s.th.regs.rxp d = none → stores (.stpb d a b) m 1 ∧ stores (.stph d a b) m 2 ∧ stores (.stpw d a b) m 4))) ∧
  (∀ (a b : Reg) (s : State),
    (∀ j ∈ [Instr.pfh a b, Instr.pfd a b], ∃ t, exec j s = .next t ∧ t.th = { s.th with pc := s.th.pc + 4 } ∧ Keeps s t) ∧
    (s.th.regs.rxp a = none → s.th.regs.rxp b = none → Calm s → Quiet s → s.th.status = .ready →
      ∀ p, (s.xlate s.asid (s.x a + s.x b) 1 .store).1 = .ok p → s.isDevMem p.pa = true →
        ∃ t, exec (.disc a b) s = .next t ∧ t.th.pc = s.th.pc + 4 ∧ t.th.regs = s.th.regs ∧
          ∀ q, t.physByte q = if q / 128 = p.pa / 128 then memByte s.mem q else s.physByte q))


namespace Sys2Proof.Claims

/-- The atomics by minor code (R311). -/
noncomputable def amoInstr (op : Fin 13) (d a b : Reg) (sc : ScopeIx) (o : Ord) : Instr :=
  match op with
  | 0 => .amoaddd d a b sc o | 1 => .amoaddw d a b sc o | 2 => .amoand d a b sc o | 3 => .amoor d a b sc o
  | 4 => .amoxor d a b sc o | 5 => .amomin d a b sc o | 6 => .amomax d a b sc o | 7 => .amominn d a b sc o
  | 8 => .amomaxn d a b sc o | 9 => .amoswap d a b sc o | 10 => .amocas d a b sc o | 11 => .amofadd32 d a b sc o
  | 12 => .amofmax32 d a b sc o

/-- The value that an atomic leaves in memory, from the old value, b and the expected value (R311). -/
def amoValue (op : Fin 13) (old b exp : Nat) : Nat :=
  match op with
  | 0 => (old + b) % 2 ^ 64
  | 1 => (old + b) % 2 ^ 32
  | 2 => old &&& b
  | 3 => old ||| b
  | 4 => old ^^^ b
  | 5 => if sint old 64 < sint b 64 then old else b
  | 6 => if sint old 64 < sint b 64 then b else old
  | 7 => min old b
  | 8 => max old b
  | 9 => b
  | 10 => if old = exp then b else old
  | 11 => fp32.rne ((fp32.decode old).add (fp32.decode (b % 2 ^ 32)))
  | 12 => fp32.rne ((fp32.decode old).max (fp32.decode (b % 2 ^ 32)))

end Sys2Proof.Claims

/-- R311, R312: an aligned atomic on open device memory returns the old value and leaves the new one; no other byte
changes. The model's choices in it: log 10. -/
def Obligations.AtomicResults : Prop :=
  ∀ (op : Fin 13) (d a b : Reg) (sc : ScopeIx) (o : Ord) (s : State), Calm s → Quiet s → s.th.status = .ready →
    s.mem.wf = true → (∀ r ∈ [a, b, d], s.th.regs.rxp r = none) →
    let n := if op = 1 ∨ op = 11 ∨ op = 12 then 4 else 8
    (s.x a).toNat % n = 0 →
    ∀ p, (s.xlate s.asid (s.x a) n .atomic).1 = .ok p → s.travelsTo [(p, n)] = none → s.isDevMem p.pa = true →
      let old := s.physRead p.pa n
      ∃ t, exec (amoInstr op d a b sc o) s = .next t ∧ t.th.pc = s.th.pc + 4 ∧
        t.th.regs = s.th.regs.wx d (if op = 1 then BitVec.ofInt 64 (sint old 32) else BitVec.ofNat 64 old) ∧
        ∀ q, t.physByte q =
          if p.pa ≤ q ∧ q < p.pa + n then BitVec.ofNat 8 (amoValue op old (s.x b).toNat (s.x d).toNat / 256 ^ (q - p.pa))
          else s.physByte q

/-- R160, R314: the fences of a thread that has nothing to wait for go on, and change no register and no byte. The model's
choices in it: log 10, 22. -/
def Obligations.FenceResults : Prop :=
  ∀ (a b : Reg) (sc : ScopeIx) (s : State), Quiet s →
    exec (.fenceaq sc) s = .next s.adv ∧
    (s.x b = 0 → s.th.regs.rxp a = none → s.th.regs.rxp b = none → exec (.fencerg a b sc) s = .next s.adv) ∧
    ∀ j, (j = .fence sc ∨ j = .fencerl sc ∨ j = .xfence sc ∨
        (j = .fencerg a b sc ∧ s.x b ≠ 0 ∧ s.copiesIn (s.x a).toNat (s.x b).toNat = false ∧ s.th.regs.rxp a = none ∧
          s.th.regs.rxp b = none)) →
      ∃ t, exec j s = .next t ∧ t.th = { s.th with pc := s.th.pc + 4, scopeTab := none } ∧ Keeps s t

/-- R315, R316: the last arrival of a BART or BARG episode completes it: every thread that waits for it on the team, or on
any core of the gang, goes on after its barrier, the episode is counted, and a checkpoint opens; an earlier arrival
parks. The last thread of a core sends the core's BARB arrival to the causeway and waits; a barrier on a command core
is a barrier error. The model's choices in it: log 59. -/
def Obligations.BarrierResults : Prop :=
  ∀ (sc : ScopeIx) (s : State),
    (isCmd s.loc = true → s.th.held = [] → ∀ j ∈ [Instr.bart sc, Instr.barg sc, Instr.barb sc], exec j s = .next (s.trap 0x07 0)) ∧
    (∀ tm, s.team = some tm → Quiet s →
      let went := fun (c : CoreId) (sl : Fin 8) (t : State) => (t.getThread c sl).status = .ready ∧
        (t.getThread c sl).pc = (s.getThread c sl).pc + 4 ∧ (t.getThread c sl).regs = (s.getThread c sl).regs ∧
        (t.getThread c sl).arrivals = (s.getThread c sl).arrivals
      let mine := fun (t : State) (i : Fin 3) => t.th.pc = s.th.pc + 4 ∧ t.th.status = .ready ∧ t.th.regs = s.th.regs ∧
        t.th.arrivals = s.th.arrivals.set i (s.th.arrivals[i] + 1) ∧ ∀ q, t.physByte q = s.physByte q
      let waits := fun (t : State) (i : Fin 3) (w : Wait) => t.th.pc = s.th.pc ∧ t.th.status = .parked w ∧
        t.th.regs = s.th.regs ∧ t.th.arrivals = s.th.arrivals.set i (s.th.arrivals[i] + 1) ∧ Keeps s t
      let count := fun (p : CoreId × Nat) => ((s.teamAt p.1 p.2).map (·.bargCount)).getD 0
      (tm.bartCount + 1 = s.th.teamw →
        ∃ t u, exec (.bart sc) s = .next t ∧ mine t 0 ∧
          t.team = some u ∧ u.bartCount = 0 ∧ u.bartDone = tm.bartDone + 1 ∧ u.ckpt.isOpen = true ∧
          (∀ sl e, sl ≠ s.slot → (s.getThread s.loc sl).status = .parked (.bart e) → (s.getThread s.loc sl).team = tm.id →
            went s.loc sl t) ∧
          ∀ (i : Nat) (v : Saved) (e : Nat), s.core.saves[i]? = some v → v.thread.team = tm.id → v.thread.status = .parked (.bart e) →
            ∃ x, t.core.saves[i]? = some x ∧ x.thread.status = .ready ∧ x.thread.pc = v.thread.pc + 4) ∧
      (tm.bartCount + 1 ≠ s.th.teamw →
        ∃ t u, exec (.bart sc) s = .next t ∧ waits t 0 (.bart tm.bartDone) ∧ t.team = some u ∧ u.bartCount = tm.bartCount + 1) ∧
      ((s.gangTeams tm).Nodup → (s.loc, tm.id) ∈ s.gangTeams tm →
        (((s.gangTeams tm).map count).sum + 1 = s.th.gangw * s.th.teamw →
          ∃ t, exec (.barg sc) s = .next t ∧ mine t 1 ∧
            (∀ p ∈ s.gangTeams tm, ∀ q, s.teamAt p.1 p.2 = some q →
              ∃ u, t.teamAt p.1 p.2 = some u ∧ u.bargCount = 0 ∧ u.bargDone = q.bargDone + 1 ∧ u.ckpt.isOpen = true) ∧
            ∀ p ∈ s.gangTeams tm, ∀ sl e, ¬(p.1 = s.loc ∧ sl = s.slot) →
              (s.getThread p.1 sl).status = .parked (.barg e) → (s.getThread p.1 sl).team = p.2 → went p.1 sl t) ∧
        (((s.gangTeams tm).map count).sum + 1 ≠ s.th.gangw * s.th.teamw →
          ∃ t u, exec (.barg sc) s = .next t ∧ waits t 1 (.barg tm.bargDone) ∧ t.team = some u ∧
            u.bargCount = tm.bargCount + 1)) ∧
      (∀ id : Fin 64, tm.band = some id.val → s.causeway[id].broken = false → tm.barbCount + 1 = s.th.teamw →
        ∃ t, exec (.barb sc) s = .next t ∧ t.th.status = .parked (.barb id.val tm.barbPhase) ∧ t.th.regs = s.th.regs ∧
          t.agenda = s.agenda ++ [.causewayArrival id tm.barbPhase] ∧ ∀ q, t.physByte q = s.physByte q))

/-- R224, R225, R317: the barrier-object forms on an object that is in range and aligned; `BarObj` reads the 128 bits of the
object. -/
def Obligations.BarrierObjectResults : Prop :=
  ∀ (d a b : Reg) (sc : ScopeIx) (s : State), (∀ r ∈ [a, b], s.th.regs.rxp r = none) →
    (s.x a).toNat + 16 ≤ s.spBytes → (s.x a).toNat % 16 = 0 → Sealed s → s.pool.wf = true →
    let o := (s.x a).toNat
    let obj := BarObj.ofBits (memRead s.pool o 16)
    let p := (s.x b).getLsbD 0
    let leaves := fun (t : State) (z : BarObj) => BarObj.ofBits (memRead t.pool o 16) = z
    (1 ≤ (s.x b).toNat → (s.x b).toNat ≤ 65535 →
      ∃ t, exec (.boinit a b) s = .next t ∧ t.th = { s.th with pc := s.th.pc + 4 } ∧ Others s t ∧
        leaves t ⟨0, (s.x b).toNat, false, true, false, (s.x b).toNat⟩) ∧
    ((s.x b).toNat = 0 ∨ 65535 < (s.x b).toNat → exec (.boinit a b) s = .next (s.trap 0x07 (s.x a))) ∧
    (obj.bytes + (s.x b).toNat < 2 ^ 31 → (obj.bytes + (s.x b).toNat ≠ 0 ∨ obj.thr ≠ 0) →
      ∃ t, exec (.boexp a b) s = .next t ∧ t.th = { s.th with pc := s.th.pc + 4 } ∧ Others s t ∧
        leaves t { obj with bytes := obj.bytes + (s.x b).toNat }) ∧
    (Quiet s → 1 ≤ obj.thr → (obj.bytes ≠ 0 ∨ obj.thr ≠ 1) →
      ∃ t, exec (.boarr a sc) s = .next t ∧ t.th = { s.th with pc := s.th.pc + 4, scopeTab := none } ∧ Others s t ∧
        leaves t { obj with thr := obj.thr - 1 }) ∧
    (Quiet s → s.th.status = .ready → obj.thr = 1 → obj.bytes = 0 →
      ∃ t, exec (.boarr a sc) s = .next t ∧ t.th = { s.th with pc := s.th.pc + 4, scopeTab := none } ∧
        (∀ q, t.physByte q = s.physByte q) ∧ leaves t { obj with thr := obj.thrn, phase := !obj.phase }) ∧
    (obj.err = true → s.th.held = [] → exec (.bowait a b sc) s = .next (s.trap 0x07 (BitVec.ofNat 64 o)) ∧
      exec (.botest d a b sc) s = .next (s.trap 0x07 (BitVec.ofNat 64 o))) ∧
    (obj.err = false → s.th.held = [] → obj.phase ≠ p →
      exec (.bowait a b sc) s = .next s.adv ∧ exec (.botest d a b sc) s = .next (s.setX d 1).adv) ∧
    (obj.err = false → s.th.held = [] → obj.phase = p →
      exec (.bowait a b sc) s = .next (s.park (.bowait o p)) ∧ exec (.botest d a b sc) s = .next (s.setX d 0).adv)

/-- R318, R323, R325: SCOPESET takes one entry of the launch's table; WATCH arms an entry and returns its number; WAITEV
returns the triggered entries, and 0x20 when none is armed. The entry that WATCH takes is one that holds the line,
else the lowest unarmed one, else the one armed longest ago. The model's choices in it: log 10, 41, 89. -/
def Obligations.ScopeWatchResults : Prop :=
  ∀ (d a : Reg) (n : ScopeIx) (s : State), s.th.regs.rxp a = none →
    (s.th.kind = .strand → exec (.scopeset n) s = .next s.adv) ∧
    (s.th.kind ≠ .strand → 8 ≤ n.val → Calm s →
      ∀ ps, Reaches s (s.th.scopet + BitVec.ofNat 64 (128 * (n.val - 8))) 128 .load ps →
        ∃ t tab, exec (.scopeset n) s = .next t ∧ t.th = { s.th with pc := s.th.pc + 4, got := [] } ∧ Keeps s t ∧
          mapGet t.core.scopes s.th.scopeKey = some tab ∧
          (mapGet s.core.scopes s.th.scopeKey = none ∨ (∃ old, mapGet s.core.scopes s.th.scopeKey = some old ∧ old.length = 3072) →
            (tab.drop (128 * (n.val - 8))).take 128 = toBytes 128 (spanRead s ps))) ∧
    (∀ p, (s.xlate s.asid (s.x a) 1 .load).1 = .ok p → s.isDevMem p.pa = true →
      ∃ t, ∃ i : Fin 4, exec (.watch d a) s = .next t ∧ t.th.pc = s.th.pc + 4 ∧
        t.th.regs = s.th.regs.wx d (BitVec.ofNat 64 i.val) ∧
        t.th.watch[i].line = p.pa / 128 ∧ t.th.watch[i].armed = true ∧ t.th.watch[i].triggered = false ∧
        (∀ j : Fin 4, j ≠ i → t.th.watch[j] = s.th.watch[j]) ∧ Keeps s t ∧
        let holds := fun (j : Fin 4) => s.th.watch[j].armed = true ∧ s.th.watch[j].line = p.pa / 128
        ((∃ j, holds j) → holds i) ∧
        (¬(∃ j, holds j) → (∃ j : Fin 4, s.th.watch[j].armed = false) →
          s.th.watch[i].armed = false ∧ ∀ j < i, s.th.watch[j].armed = true) ∧
        ((∀ j, ¬holds j) → (∀ j : Fin 4, s.th.watch[j].armed = true) → ∀ j : Fin 4, s.th.watch[i].since ≤ s.th.watch[j].since)) ∧
    ((∀ i : Fin 4, s.th.watch[i].armed = false) → exec (.waitev d a) s = .next (s.setX d 0x20).adv) ∧
    ((∃ i : Fin 4, s.th.watch[i].armed = true ∧ s.th.watch[i].triggered = true) →
      ∃ t, exec (.waitev d a) s = .next t ∧ t.th.pc = s.th.pc + 4 ∧ t.th.status = .ready ∧
        t.th.regs = s.th.regs.wx d (BitVec.ofNat 64 ((List.finRange 4).foldl (fun m i =>
          if s.th.watch[i].armed && s.th.watch[i].triggered then m + 2 ^ i.val else m) 0)) ∧
        (∀ i : Fin 4, t.th.watch[i].triggered = false ∧ t.th.watch[i].armed = s.th.watch[i].armed) ∧ Keeps s t)

/-! Vectors. -/

/-- R335: the integer forms, element by element; a and b are unsigned, `sint` reads them signed. -/
def Obligations.VectorIntegerResults : Prop :=
  ∀ (d a b : VReg) (i : BitVec 5) (k : KReg) (t : ElTy) (s : State), VecOk s [d, a] →
    let w := t.width
    let n := 8 * w
    let top : Int := 2 ^ (n - 1)
    let gives := fun (j : Instr) (f : Nat → Nat → Nat) =>
      b.val < s.th.allot → SetsElems j s d w fun m => if active s k w m then f (el s a w m) (el s b w m) else el s d w m
    let gives1 := fun (j : Instr) (f : Nat → Nat) =>
      SetsElems j s d w fun m => if active s k w m then f (el s a w m) else el s d w m
    let c := i.toNat % n
    gives (.vadd d a b k t) (fun x y => (x + y) % 2 ^ n) ∧ gives (.vsub d a b k t) (fun x y => (x + 2 ^ n - y) % 2 ^ n) ∧
    gives (.vmul d a b k t) (fun x y => x * y % 2 ^ n) ∧
    gives (.vmulh d a b k t) (fun x y => uint (sint x n * sint y n / 2 ^ n) n) ∧
    gives (.vand d a b k t) (fun x y => x &&& y) ∧ gives (.vor d a b k t) (fun x y => x ||| y) ∧
    gives (.vxor d a b k t) (fun x y => x ^^^ y) ∧ gives (.vandn d a b k t) (fun x y => x &&& (2 ^ n - 1 - y)) ∧
    gives (.vsll d a b k t) (fun x y => x * 2 ^ (y % n) % 2 ^ n) ∧ gives (.vsrl d a b k t) (fun x y => x / 2 ^ (y % n)) ∧
    gives (.vsra d a b k t) (fun x y => uint (sint x n / 2 ^ (y % n)) n) ∧
    gives (.vmin d a b k t) (fun x y => uint (min (sint x n) (sint y n)) n) ∧
    gives (.vmax d a b k t) (fun x y => uint (max (sint x n) (sint y n)) n) ∧
    gives (.vminn d a b k t) (fun x y => min x y) ∧ gives (.vmaxn d a b k t) (fun x y => max x y) ∧
    gives (.vadds d a b k t) (fun x y => uint (max (-top) (min (sint x n + sint y n) (top - 1))) n) ∧
    gives (.vsubs d a b k t) (fun x y => uint (max (-top) (min (sint x n - sint y n) (top - 1))) n) ∧
    gives (.vaddsn d a b k t) (fun x y => min (x + y) (2 ^ n - 1)) ∧ gives (.vsubsn d a b k t) (fun x y => x - y) ∧
    gives (.vabsd d a b k t) (fun x y => (sint x n - sint y n).natAbs % 2 ^ n) ∧
    gives1 (.vaddi d a i k t) (fun x => uint (x + i.toInt) n) ∧ gives1 (.vslli d a i k t) (fun x => x * 2 ^ c % 2 ^ n) ∧
    gives1 (.vsrli d a i k t) (fun x => x / 2 ^ c) ∧ gives1 (.vsrai d a i k t) (fun x => uint (sint x n / 2 ^ c) n)

/-- R329, R336, R339, R346: the comparisons and the mask forms; a lane is true when an active element with a byte in it is. -/
def Obligations.MaskResults : Prop :=
  ∀ (a b : VReg) (d p q k : KReg) (e : Reg) (t : ElTy) (s : State), VecOk s [] → FmtOk s t →
    let w := t.width
    let n := 8 * w
    let tests := fun (j : Instr) (f : Nat → Nat → Prop) => a.val < s.th.allot → b.val < s.th.allot →
      SetsMask j s d fun l => ∃ m, active s k w m = true ∧ inLane w m l ∧ f (el s a w m) (el s b w m)
    let P := s.th.regs.rk p
    let Q := s.th.regs.rk q
    tests (.vcmpeq d a b k t) (fun x y => x = y) ∧ tests (.vcmplt d a b k t) (fun x y => sint x n < sint y n) ∧
    tests (.vcmpltn d a b k t) (fun x y => x < y) ∧ tests (.vcmple d a b k t) (fun x y => sint x n ≤ sint y n) ∧
    (∀ c, fltOf s.th.regs t = some c →
      tests (.vfcmpeq d a b k t) (fun x y => (c.get x).eq (c.get y) = true) ∧
      tests (.vfcmplt d a b k t) (fun x y => (c.get x).lt (c.get y) = true) ∧
      tests (.vfcmple d a b k t) (fun x y => (c.get x).lt (c.get y) = true ∨ (c.get x).eq (c.get y) = true)) ∧
    exec (.kand d p q) s = .next (s.onRegs fun r => r.wk d (P &&& Q)).adv ∧
    exec (.kor d p q) s = .next (s.onRegs fun r => r.wk d (P ||| Q)).adv ∧
    exec (.kxor d p q) s = .next (s.onRegs fun r => r.wk d (P ^^^ Q)).adv ∧
    exec (.knot d p) s = .next (s.onRegs fun r => r.wk d (~~~P)).adv ∧
    exec (.kpop e p t) s = .next (s.setX e (BitVec.ofNat 64 (actives s p w).length)).adv ∧
    exec (.kfirst e p t) s = .next (s.setX e (match actives s p w with
      | [] => 0xFFFFFFFFFFFFFFFF
      | j :: _ => BitVec.ofNat 64 j)).adv ∧
    SetsMask (.kset d e t) s d fun l => ∃ j, j < min (s.x e).toNat (min s.th.regs.vl (1024 / w)) ∧ inLane w j l

/-- R332 to R334, R337: selection, splat, index, element read, register copy, vector length and allotment; a q8 form faults
on an ill-formed FMTC (R241). -/
def Obligations.VectorMoveResults : Prop :=
  ∀ (d a b : VReg) (x : Reg) (k : KReg) (t : ElTy) (s : State), VecOk s [] →
    let w := t.width
    let m := (s.x x).toNat
    let n := s.th.allot
    (FmtOk s t → d.val < n → a.val < n → b.val < n →
      SetsElems (.vsel d a b k t) s d w fun j =>
        if j < min s.th.regs.vl (1024 / w) then (if (s.th.regs.rk k).getLsbD (w * j / 4) then el s a w j else el s b w j)
        else el s d w j) ∧
    (d.val < n →
      (FmtOk s t → SetsElems (.vsplat d x k t) s d w (fun j => if active s k w j then m % 2 ^ (8 * w) else el s d w j)) ∧
      (t = .q8 → recQ8 s.th.regs.fmtc = none → exec (.vsplat d x k t) s = .next (s.parkFault 0x15 0 false 0 0)) ∧
      SetsElems (.viota d k t) s d w (fun j => if active s k w j then j % 2 ^ (8 * w) else el s d w j)) ∧
    (FmtOk s t → a.val < n → exec (.vmovx d a x t) s = .next (s.setX d
      (let v := el s a w (m % (1024 / w)); if t.isInt then BitVec.ofInt 64 (sint v (8 * w)) else BitVec.ofNat 64 v)).adv) ∧
    (d.val < n → a.val < n → exec (.vmv d a) s = .next (s.onRegs fun r => r.wv d s.th.regs.v[a] []).adv) ∧
    exec (.vsetvl d x t) s =
      .next ((s.onRegs fun r => { r with vl := min m (1024 / w) }).setX d (BitVec.ofNat 64 (min m (1024 / w)))).adv ∧
    (32 < m → exec (.valloc d x) s = .next (s.setX d 2).adv) ∧
    (m ≤ 32 → m ≤ n → exec (.valloc d x) s = .next (s.setX d 0).adv) ∧
    (n ≤ m → exec (.vshrink x) s = .next s.adv) ∧
    ∀ tm, s.team = some tm →
      let free := 8 * (tm.poolpart.toNat % 512) - tm.frames
      exec (.vallot d) s = .next (s.setX d (BitVec.ofNat 64 (n + 256 * free))).adv ∧
      (n < m → m ≤ 32 → free < m - n → exec (.valloc d x) s = .next (s.setX d 1).adv) ∧
      (n < m → m ≤ 32 → m - n ≤ free →
        ∃ t, exec (.valloc d x) s = .next t ∧ Keeps s t ∧ t.th.pc = s.th.pc + 4 ∧ t.th.allot = m ∧
          t.team = some { tm with frames := tm.frames + (m - n) } ∧ t.x d = 0 ∧ (∀ r : Reg, r ≠ d → t.x r = s.x r) ∧
          Clean t.th.regs ∧
          ∀ r : VReg, t.th.regs.v[r] = if n ≤ r.val ∧ r.val < m then 0 else s.th.regs.v[r]) ∧
      (m < n →
        ∃ t, exec (.vshrink x) s = .next t ∧ Keeps s t ∧ t.th.pc = s.th.pc + 4 ∧ t.th.allot = m ∧
          t.team = some { tm with frames := tm.frames - (n - m) } ∧ (∀ r : Reg, t.x r = s.x r) ∧
          ∀ r : VReg, r.val < m → t.th.regs.v[r] = s.th.regs.v[r])

/-- R338 to R341: the floating-point forms, element by element: the exact result, delivered once (`put`) in the type's
format. The model's choices in it: log 28, 49. -/
def Obligations.VectorFloatResults : Prop :=
  ∀ (d a b : VReg) (x : Reg) (k : KReg) (t : ElTy) (c : Flt) (s : State), VecOk s [d] → fltOf s.th.regs t = some c →
    let w := t.width
    let n := 8 * c.fmt.bytes
    let puts := fun (j : Instr) (f : Nat → Nat) =>
      a.val < s.th.allot → SetsElems j s d w fun m => if active s k w m then f m else el s d w m
    let A := fun m => c.get (el s a w m)
    let B := fun m => c.get (el s b w m)
    let D := fun m => c.get (el s d w m)
    (b.val < s.th.allot →
      puts (.vfadd d a b k t) (fun m => c.put ((A m).add (B m))) ∧
      puts (.vfsub d a b k t) (fun m => c.put ((A m).add (B m).flip)) ∧
      puts (.vfmul d a b k t) (fun m => c.put ((A m).mul (B m))) ∧
      puts (.vffma d a b k t) (fun m => c.put (((A m).mul (B m)).add (D m))) ∧
      puts (.vffms d a b k t) (fun m => c.put (((A m).mul (B m)).add (D m).flip)) ∧
      puts (.vfdiv d a b k t) (fun m => c.put ((A m).div (B m))) ∧
      puts (.vfmin d a b k t) (fun m => c.put ((A m).min (B m))) ∧
      puts (.vfmax d a b k t) (fun m => c.put ((A m).max (B m))) ∧
      puts (.vfscale d a b k t) (fun m => c.put ((A m).scale (sint (el s b w m) n))) ∧
      (a.val < s.th.allot → SetsElems (.vfdot2 d a b k t) s d 4 fun m =>
        if active s k 4 m then
          let p := fun i => (c.get (el s a 4 m / 65536 ^ i % 65536)).mul (c.get (el s b 4 m / 65536 ^ i % 65536))
          fp32.rne (((fp32.decode (el s d 4 m)).add (p 0)).add (p 1))
        else el s d 4 m)) ∧
    puts (.vfsqrt d a k t) (fun m => c.put (A m).sqrt) ∧ puts (.vfabs d a k t) (fun m => c.put (A m).abs) ∧
    puts (.vfneg d a k t) (fun m => c.put (A m).flip) ∧ puts (.vfclass d a k t) (fun m => c.fmt.classOf (el s a w m)) ∧
    puts (.vfrecip d a k t) (fun m => c.put ((FVal.ofInt 1).div (A m))) ∧
    puts (.vfrsqrt d a k t) (fun m => c.put (A m).rsqrt) ∧
    puts (.vcvtfi d a false k t) (fun m => uint ((A m).toIntSat (-(2 ^ (n - 1))) (2 ^ (n - 1) - 1)) n) ∧
    puts (.vcvtfi d a true k t) (fun m => uint ((A m).toIntSat 0 (2 ^ n - 1)) n) ∧
    puts (.vcvtif d a false k t) (fun m => c.put (FVal.ofInt (sint (el s a w m) n))) ∧
    puts (.vcvtif d a true k t) (fun m => c.put (FVal.ofInt (el s a w m))) ∧
    (SetsElems (.vfsplat d x k t) s d w fun m =>
      if active s k w m then (if t = .f64 then (s.x x).toNat else c.put (fp64.decode (s.x x).toNat)) else el s d w m) ∧
    ∀ (u : ElTy) (z : Flt), fltOf s.th.regs u = some z → a.val < s.th.allot →
      SetsElems (.vcvtf d a u k t) s d u.width fun m =>
        if active s k (max w u.width) m then z.put (c.get (el s a w m)) else el s d u.width m

/-- R347, R348: permutes, reductions and the prefix sum. -/
def Obligations.VectorPermuteResults : Prop :=
  ∀ (d a b : VReg) (k : KReg) (t : ElTy) (s : State), VecOk s [d, a] → FmtOk s t →
    let w := t.width
    let n := 8 * w
    let e := min s.th.regs.vl (1024 / w)
    let A := el s a w
    let B := el s b w
    let D := el s d w
    let act := actives s k w
    let moves := fun (i : Instr) (f : Nat → Nat) => SetsElems i s d w fun j => if active s k w j then f j else D j
    let folds := fun (i : Instr) (v : Nat) => b.val < s.th.allot → SetsElems i s d w fun j => if j = 0 then v else D j
    let sh := (s.x b).toNat
    SetsElems (.vcompress d a k t) s d w (fun j => ((act[j]?).map A).getD (D j)) ∧
    moves (.vexpand d a k t) (fun j => A ((List.range j).countP (active s k w))) ∧
    moves (.vslideup d a b k t) (fun j => if sh ≤ j then A (j - sh) else D j) ∧
    moves (.vslidedn d a b k t) (fun j => if j + sh < e then A (j + sh) else 0) ∧
    moves (.vscanadd d a k t) (fun j => ((act.filter (· ≤ j)).map A).sum % 2 ^ n) ∧
    (b.val < s.th.allot →
      moves (.vperm d a b k t) (fun j => A (B j % (1024 / w))) ∧
      moves (.vzip d a b k t) (fun j => if j % 2 = 0 then A (j / 2) else B ((j - 1) / 2)) ∧
      moves (.vunzip d a b k t) (fun j => if 2 * j < e then A (2 * j) else B (2 * j - e))) ∧
    folds (.vredadd d a b k t) ((B 0 + (act.map A).sum) % 2 ^ n) ∧
    folds (.vredmin d a b k t) (uint ((act.map fun j => sint (A j) n).foldl min (sint (B 0) n)) n) ∧
    folds (.vredmax d a b k t) (uint ((act.map fun j => sint (A j) n).foldl max (sint (B 0) n)) n) ∧
    ∀ c, fltOf s.th.regs t = some c →
      folds (.vfredadd d a b k t) (act.foldl (fun r j => c.put ((c.get r).add (c.get (A j)))) (B 0)) ∧
      folds (.vfredmax d a b k t) (act.foldl (fun r j => c.put ((c.get r).max (c.get (A j)))) (B 0))

/-- R349, R350, R352: the database forms that read registers only. The model's choices in it: log 53. -/
def Obligations.VectorDatabaseResults : Prop :=
  ∀ (d a b : VReg) (k : KReg) (t : ElTy) (s : State), VecOk s [d, a] →
    let w := t.width
    let puts := fun (i : Instr) (w : Nat) (f : Nat → Nat) =>
      SetsElems i s d w fun j => if active s k w j then f j else el s d w j
    (b.val < s.th.allot →
      (t.isKey = true → puts (.vhashc d a b k t) w (fun j =>
        ((toBytes w (el s b w j)).foldl crcByte (BitVec.ofNat 32 (el s a w j))).toNat)) ∧
      puts (.vhashm d a b k) 8 (fun j => (mixWords (BitVec.ofNat 64 (el s a 8 j)) (BitVec.ofNat 64 (el s b 8 j))).toNat) ∧
      puts (.vdesc d a b k) 8 (fun j =>
        let x := el s a 8 j
        let y := el s b 8 j
        let z := (y + 2 ^ 64 - x) % 2 ^ 64
        if 1023 < z ∨ (2 ^ 53 ≤ x ∧ x < 2 ^ 64 - 2 ^ 53) ∨ (x = 2 ^ 64 - 1 ∧ z = 1023) then 2 ^ 64 - 1
        else z * 2 ^ 54 + x % 2 ^ 54)) ∧
    (t.isKey = true → puts (.vpart d a b k t) w (fun j => el s a w j % 2 ^ 32 * max 1 (min (s.x b).toNat 65536) / 2 ^ 32)) ∧
    puts (.vslen d a k) 8 (fun j => if el s a 8 j = 2 ^ 64 - 1 then 2 ^ 64 - 1 else el s a 8 j / 2 ^ 54) ∧
    SetsElems (.vhist d a k) s d 4 fun j =>
      if j < min s.th.regs.vl 256 then
        (el s d 4 j + (actives s k 4).countP fun i => el s a 4 i == j) % 2 ^ 32
      else el s d 4 j

/-! Vector memory. -/

/-- R342, R343: every vector load whose active elements reach device memory, or lie in the scratchpad, aligned, writes
those elements and changes no memory. The model's choices in it: log 10. -/
def Obligations.VectorLoadResults : Prop :=
  ∀ (d a b : Reg) (k : KReg) (t : ElTy) (s : State), VecOk s [d] → FmtOk s t → Calm s →
    let w := t.width
    let x := s.x a
    let loads := fun (i : Instr) (f : Nat → Nat) => ∃ (v : VWord) (u : State),
      exec i s = .next u ∧ Keeps s u ∧ u.th = { s.th with regs := s.th.regs.wv d v [], pc := s.th.pc + 4, got := [] } ∧
        ∀ j < 1024 / w, v.toNat / 2 ^ (8 * w * j) % 2 ^ (8 * w) = if active s k w j then f j else el s d w j
    let far := fun (i : Instr) (va : Nat → Word) => ∀ ps : Nat → List (Phys × Nat),
      (∀ j ∈ actives s k w, Steady s (va j) w .load (ps j)) → loads i fun j => spanRead s (ps j)
    let pool := fun (i : Instr) (off : Nat → Word) =>
      (∀ j ∈ actives s k w, (off j).toNat + w ≤ s.spBytes ∧ (off j).toNat % w = 0) →
        loads i fun j => memRead s.pool (off j).toNat w
    far (.vld d a k t) (fun j => x + BitVec.ofNat 64 (w * j)) ∧
    far (.vlds d a b k t) (fun j => BitVec.ofInt 64 (x.toNat + j * (s.x b).toInt)) ∧
    far (.vldb d a k t) (fun _ => x) ∧ pool (.vldp d a k t) (fun j => x + BitVec.ofNat 64 (w * j)) ∧
    (b.val < s.th.allot →
      far (.vldx d a b k t) (fun j => BitVec.ofInt 64 (x.toNat + sint (el s b w j) (8 * w))) ∧
      pool (.vldpx d a b k t) (fun j => x + BitVec.ofNat 64 (el s b w j)))

/-- R353: the string forms on strings whose bytes can be read. The model's choices in it: log 10. -/
def Obligations.StringResults : Prop :=
  ∀ (d a b : Reg) (e k : KReg) (s : State), VecOk s [a] → Calm s →
    ∀ A B : Nat → List Byte,
    (∀ j ∈ actives s k 8, HasString s (el s a 8 j) (A j)) →
    let null := 2 ^ 64 - 1
    let x := el s a 8
    let y := el s b 8
    let str := fun (l : List Byte) => l.map (·.toNat)
    let gives := fun (i : Instr) (f : Nat → Nat) => d.val < s.th.allot → ∃ (v : VWord) (u : State),
      exec i s = .next u ∧ Keeps s u ∧ u.th = { s.th with regs := s.th.regs.wv d v [], pc := s.th.pc + 4, got := [] } ∧
        ∀ j < 128, v.toNat / 2 ^ (64 * j) % 2 ^ 64 = if active s k 8 j then f j else el s d 8 j
    gives (.vspfx d a k) (fun j => if x j = null then 0 else
      ((List.range 8).map fun m => (((A j)[m]?).getD 0).toNat * 256 ^ (7 - m)).sum) ∧
    gives (.vsfind d a b k) (fun j => if x j = null then null else
      match (str (A j)).findIdx? (· == (s.x b).toNat % 256) with
      | some m => m
      | none => null) ∧
    (b.val < s.th.allot →
      gives (.vshash d a b k) (fun j => if x j = null then null else ((A j).foldl crcByte (BitVec.ofNat 32 (y j))).toNat) ∧
      ((∀ j ∈ actives s k 8, HasString s (y j) (B j)) →
        gives (.vscmp d a b k) (fun j => if x j = null ∨ y j = null then 2
          else if str (A j) = str (B j) then 0 else if str (A j) < str (B j) then null else 1) ∧
        ∃ (m : KWord) (u : State), exec (.vseq e a b k) s = .next u ∧ Keeps s u ∧
          u.th = { s.th with regs := s.th.regs.wk e m, pc := s.th.pc + 4, got := [] } ∧
          ∀ l < 256, (m.getLsbD l = true ↔
            ∃ j, active s k 8 j = true ∧ inLane 8 j l ∧ x j ≠ null ∧ y j ≠ null ∧ str (A j) = str (B j))))

/-- R342, R344, R345: every vector store with a sealed checkpoint sends its active elements in ascending order, or writes
them into the scratchpad, where the highest element's value of a byte remains. The model's choices in it: log 11. -/
def Obligations.VectorStoreResults : Prop :=
  ∀ (d a b : Reg) (k : KReg) (t : ElTy) (s : State), VecOk s [d] → FmtOk s t → Sealed s →
    let w := t.width
    let x := s.x a
    let js := actives s k w
    let far := fun (i : Instr) (va : Nat → Word) => ∀ ps : Nat → List (Phys × Nat),
      (∀ j ∈ js, Steady s (va j) w .store (ps j)) →
      let n := (js.map fun j => (ps j).length).sum
      ∃ u, exec i s = .next u ∧ Keeps s u ∧
        u.th = { s.th with near := s.th.near + n, dev := s.th.dev + n, hst := s.th.hst + n, pc := s.th.pc + 4 } ∧
        u.core.inflight = s.core.inflight ++ (js.foldl (fun (q : List Pending × Nat) j =>
          (q.1 ++ storeMsgs s (va j) (el s d w j) q.2 (ps j), q.2 + (ps j).length)) ([], s.issued)).1 ∧
        u.core.staging = s.core.staging ∧
        u.agenda = (s.xlateElems w (js.map va)).2.agenda ++ List.replicate n (.homeLineStore s.loc 0)
    let pool := fun (i : Instr) (off : Nat → Word) => s.pool.wf = true →
      let o := fun j => (off j).toNat
      (∀ j ∈ js, o j + w ≤ s.spBytes ∧ o j % w = 0) →
      ∃ u, exec i s = .next u ∧ Others s u ∧ u.th = { s.th with pc := s.th.pc + 4 } ∧
        (∀ j ∈ js, ∀ m < w, (∀ j' ∈ js, j < j' → ¬(o j' ≤ o j + m ∧ o j + m < o j' + w)) →
          memByte u.pool (o j + m) = BitVec.ofNat 8 (el s d w j / 256 ^ m)) ∧
        ∀ q, (∀ j ∈ js, ¬(o j ≤ q ∧ q < o j + w)) → memByte u.pool q = memByte s.pool q
    far (.vst d a k t) (fun j => x + BitVec.ofNat 64 (w * j)) ∧
    far (.vsts d a b k t) (fun j => BitVec.ofInt 64 (x.toNat + j * (s.x b).toInt)) ∧
    pool (.vstp d a k t) (fun j => x + BitVec.ofNat 64 (w * j)) ∧
    (b.val < s.th.allot →
      far (.vstx d a b k t) (fun j => BitVec.ofInt 64 (x.toNat + sint (el s b w j) (8 * w))) ∧
      pool (.vstpx d a b k t) (fun j => x + BitVec.ofNat 64 (el s b w j)))

/-! Tiles. -/

/-- R64, R98, R100, R101, R104, R319 to R321: TDECL asks the host for every half that the tile covers, and then declares
the tile that a sound descriptor names; TDROP ends one, its bytes staying; TFWD to the owner's core is a release, to
another core it starts a push; PUBL of a tile that is not shadowed is a release. The model's choices in it: log 10,
39, 40. -/
def Obligations.TileResults : Prop :=
  ∀ (d a b : Reg) (s : State), Quiet s → s.mem.wf = true → (∀ r ∈ [a, b], s.th.regs.rxp r = none) → s.replicas = [] → s.splitWait = none →
    s.fenced = 0 → s.th.status = .ready →
    (isCmd s.loc = false → Calm s → (s.x a).toNat % 64 = 0 → ∀ ps, Reaches s (s.x a) 64 .load ps →
      let z := TileDesc.ofBits (spanRead s ps)
      ∀ p ns, (∀ u, CachesOnly s u → (u.xlate u.asid z.base 1 .tdecl).1 = .ok p) → z.ok = true → s.resolveNeigh z.neigh = some ns →
        s.isDevMem p.pa = true → p.pa / 65536 = (p.pa + z.span - 1) / 65536 → (z.shad = true → (s.allocFrame p.pa (s.tileOf z ns)).isSome = true) →
        let hs := (s.tileOf z ns).halves p.pa
        -- every half that contains a covered sector is asked for first, and TDECL waits for each BIRsp
        (s.th.snooped = [] → ∃ t h, exec (.tdecl d a) s = .next t ∧ t.th.status = .parked (.bisnp h) ∧ h ∈ hs ∧
          t.th.regs = s.th.regs ∧ t.th.pc = s.th.pc ∧ t.tiles = [] ∧ (∀ m, t.physByte m = s.physByte m) ∧
          (s.forwardStopped (homeOf (h * 64)) = false → ∃ e ∈ t.bisnps, e.1 = h ∧ e.2.2 = false)) ∧
        ((∀ h ∈ hs, h ∈ s.th.snooped) →
        ∃ t q, exec (.tdecl d a) s = .next t ∧ t.th.pc = s.th.pc + 4 ∧ t.th.regs = s.th.regs.wx d 0 ∧
          t.tiles = [(p.pa, q)] ∧ q.tstate = .owned ∧ q.gen = false ∧ q.owner = s.loc ∧ q.ctx = s.th.ctx ∧ q.shad = z.shad ∧
          q.rows = z.rows ∧ q.rowq = z.rowq ∧ q.pitch = z.pitch ∧ q.neighbours = ns ∧ ∀ m, t.physByte m = s.physByte m)) ∧
    ∀ p q, (s.xlate s.asid (s.x a) 1 .load).1 = .ok p → s.tiles = [(p.pa, q)] → q.ctx = s.th.ctx → q.tstate ≠ .inForward →
      (∃ t, exec (.tdrop a) s = .next t ∧ t.th.pc = s.th.pc + 4 ∧ t.th.regs = s.th.regs ∧ t.tiles = [] ∧
        (q.tstate ≠ .lost → (q.rows = 1 ∨ 16 * q.rowq ≤ q.pitch) → ∀ m, t.physByte m = s.physByte m)) ∧
      (∀ c, s.logical (s.x b).toNat = some c → (q.tstate = .home ∨ (q.tstate = .owned ∧ q.owner = s.loc)) →
        ((q.tstate = .owned ∧ c = s.loc) →
          ∃ t, exec (.tfwd a b) s = .next t ∧ t.th = { s.th with pc := s.th.pc + 4, scopeTab := none } ∧ Keeps s t ∧
            t.tiles = s.tiles) ∧
        (¬(q.tstate = .owned ∧ c = s.loc) →
          ∃ t, exec (.tfwd a b) s = .next t ∧ t.th = { s.th with status := .parked (.tfwd p.pa (s.x a)), scopeTab := none } ∧
            Keeps s t ∧ t.agenda = (s.xlate s.asid (s.x a) 1 .load).2.agenda ++ [.tilePushAck p.pa] ∧
            t.tiles = [(p.pa, { q with tstate := .inForward, ftgt := c, prev := q.tstate, prevOwner := q.owner })])) ∧
      (q.shad = true → (q.tstate = .owned ∨ q.tstate = .home) →
        ∃ t, exec (.publ a) s = .next t ∧ t.th = { s.th with pc := s.th.pc + 4, scopeTab := none } ∧ Keeps s t ∧
          t.tiles = s.tiles) ∧
      (q.shad = true → q.tstate = .shadowed →
        ∃ t, exec (.publ a) s = .next t ∧ t.th = { s.th with status := .parked (.publ p.pa false), scopeTab := none } ∧ Keeps s t ∧
          t.agenda = (s.xlate s.asid (s.x a) 1 .load).2.agenda ++ [.publGenToggle p.pa])

/-! Engines. -/

namespace Sys2Proof.Claims

/-- The current thread's team has the accumulator tile (R213, R215), on a core die. -/
def TileOk (s : State) (n : Fin 32) : Prop :=
  isCmd s.loc = false ∧ ∃ tm, s.team = some tm ∧ n.val < tm.poolpart.toNat / 512 % 512 / 2

/-- A ring that the current thread's team configured, in its own scratchpad (R220). -/
def OwnRing (s : State) (n : Nat) : Prop :=
  ∃ i : Fin 8, i.val = n ∧ ∃ r, s.core.rings[i] = some r ∧ r.team = s.th.team ∧ r.remote = none

/-- Signed 32-bit half `d` of a pair of engine registers (R355). -/
def half (w : Word) (d : Nat) : Int := sint (w.toNat / 2 ^ (32 * d) % 2 ^ 32) 32

/-- The geometry that a copy reads from the engine registers at issue (R227, R355). -/
def GeomOf (s : State) (g : CopyGeom) : Prop :=
  let e := s.th.eng
  g.base = e[0] ∧ g.loge = e[1].toNat % 8 ∧ g.dir = e[1].getLsbD 3 ∧ g.pool = e[2].toNat % 2 ^ 22 ∧
    (∀ d : Fin 4, g.n[d] = e[3].toNat / 65536 ^ d.val % 65536 + 1) ∧
    (∀ d : Fin 4, g.s[d] = half (if d.val < 2 then e[4] else e[5]) (d.val % 2)) ∧
    (∀ d : Fin 4, g.c[d] = half (if d.val < 2 then e[6] else e[7]) (d.val % 2)) ∧
    (∀ d : Fin 4, g.lo[d] = half (if d.val < 2 then e[8] else e[9]) (d.val % 2)) ∧
    (∀ d : Fin 4, g.hi[d] = half (if d.val < 2 then e[10] else e[11]) (d.val % 2)) ∧
    g.fill = BitVec.ofNat 128 (e[12].toNat + 2 ^ 64 * e[13].toNat)

/-- No queued operation of the current core names a ring (R360, R362). -/
def RingFree (s : State) (n : Fin 8) : Prop :=
  (∀ o ∈ s.core.matq, n ∉ o.rings) ∧ ∀ c ∈ s.core.copies, c.kind ≠ .cpyr n.val

end Sys2Proof.Claims

/-- R204, R223, R357 to R359: a matrix operation enters the queue with its control word's fields, and its slot parks until
it completes; MSTAT reports the queue. The model's choices in it: log 24. -/
def Obligations.MatrixIssue : Prop :=
  ∀ (d a : Reg) (n : Fin 32) (s : State), TileOk s n → s.th.regs.rxp a = none →
    let x := (s.x a).toNat
    let r := s.th.regs
    let enters := fun (i : Instr) (P : MatOp → Prop) => s.core.matq.length < 16 →
      ∃ t o, exec i s = .next t ∧ t.th = { s.th with status := .parked (.matrix o.id) } ∧ Keeps s t ∧
        t.core.matq = s.core.matq ++ [o] ∧ o.tile = n.val ∧ o.team = s.th.team ∧ o.fired = 0 ∧ o.fmta = r.fmta ∧ o.fmtb = r.fmtb ∧
        o.fmtc = r.fmtc ∧ o.scalea = r.scalea ∧ o.scaleb = r.scaleb ∧ P o
    let mult := fun (i : Instr) (sparse : Bool) =>
      let ar := x % 8
      let br := x / 8 % 8
      let zr := x / 64 % 8
      let scales := (if r.fmta.toNat / 256 % 4 = 0 then [] else [r.scalea.toNat % 8]) ++
        (if r.fmtb.toNat / 256 % 4 = 0 then [] else [r.scaleb.toNat % 8])
      x / 2 ^ 9 % 2 ^ 7 = 0 → x / 2 ^ 32 = 0 → (sparse = false → zr = 0) →
      ([ar, br] ++ (if sparse then [zr] else []) ++ scales).Nodup →
      (∀ g ∈ [ar, br] ++ (if sparse then [zr] else []) ++ scales, OwnRing s g) →
      (∃ f g, recAB r.fmta = some f ∧ recAB r.fmtb = some g ∧
        fmtClass (r.fmta.toNat % 256) = fmtClass (r.fmtb.toNat % 256)) →
      enters i fun o => o.kind = (if sparse then .mmas else .mma) ∧ o.aring = ar ∧ o.bring = br ∧ o.zring = zr ∧
        o.steps = x / 2 ^ 16 % 2 ^ 16 + 1
    mult (.mma a n) false ∧ mult (.mmas a n) true ∧ enters (.mzero n) (fun o => o.kind = .mzero) ∧
    (∀ f rnd sat, recC r.fmtc = some (f, rnd, sat) → x + 4096 * f.bytes ≤ s.spBytes → x % f.bytes = 0 →
      enters (.mload a n) (fun o => o.kind = .mload x) ∧ enters (.mdrain a n) (fun o => o.kind = .mdrain x)) ∧
    exec (.mstat d n) s = .next (s.setX d (BitVec.ofNat 64
      ((if (∃ o ∈ s.core.matq, o.team = s.th.team ∧ o.tile = n.val) then 1 else 0) + 256 * s.core.matq.length))).adv

/-- R360 to R362: rings configured, advanced, taken from, read and reset; on a ring with a producer RGTAKE is a release
that sends the notice (R232). The model's choices in it: log 24. -/
def Obligations.RingResults : Prop :=
  ∀ (d a b : Reg) (n : Fin 8) (s : State), isCmd s.loc = false → (∀ r ∈ [a, b], s.th.regs.rxp r = none) →
    let x := (s.x a).toNat
    let w := (s.x b).toNat
    let size := 2 ^ (w % 32)
    let gives := fun (i : Instr) (r : Option Ring) => ∃ t, exec i s = .next t ∧ t.th = { s.th with pc := s.th.pc + 4 } ∧
      Keeps s t ∧ t.core.rings = s.core.rings.set n r
    let fresh : Ring := ⟨s.th.team, x, w % 32, 0, 0, 0, none, none, false⟩
    let free := s.core.rings[n] = none ∨
      ∃ r, s.core.rings[n] = some r ∧ r.team = s.th.team ∧ r.written ≤ r.taken ∧ RingFree s n
    (free → 12 ≤ w % 32 → w % 32 ≤ 20 → w / 2 ^ 8 % 2 ^ 24 = 0 → w / 2 ^ 54 = 0 → x % size = 0 → x + size ≤ s.spBytes →
      (w / 32 % 2 = 0 → gives (.rgcfg a b n) (some fresh)) ∧
      (w / 32 % 2 = 1 → w / 2 ^ 32 % 16 = 0 → w / 2 ^ 32 % 2 ^ 22 + 16 ≤ s.spBytes → w / 64 % 4 < s.th.gangw →
        ∀ c tm, s.gangMember (w / 64 % 4) = some (c, tm) → c ≠ s.loc → (s.getCore c).rings[n] = none →
          ∃ t, exec (.rgcfg a b n) s = .next t ∧ t.th = { s.th with pc := s.th.pc + 4 } ∧
            t.core.rings = s.core.rings.set n (some { fresh with remote := some (c, tm) }) ∧
            (t.getCore c).rings = (s.getCore c).rings.set n
              (some { fresh with team := tm, producer := some (s.loc, s.th.team, w / 2 ^ 32 % 2 ^ 22) }))) ∧
    (∀ r, s.core.rings[n] = some r → r.team = s.th.team →
      (r.remote = none → x % 256 = 0 → x ≤ 2 ^ r.log2 →
        ((r.written - r.taken) + x ≤ 2 ^ r.log2 → gives (.rgadv a n) (some { r with written := r.written + x })) ∧
        (x ≤ r.written - r.taken →
          (r.producer = none → gives (.rgtake a n) (some { r with taken := r.taken + x })) ∧
          ∀ c tm fbo, r.producer = some (c, tm, fbo) → Quiet s →
            ∃ t e, exec (.rgtake a n) s = .next t ∧ t.th = { s.th with pc := s.th.pc + 4, scopeTab := none } ∧ Keeps s t ∧
              t.core.rings = s.core.rings.set n (some { r with taken := r.taken + x }) ∧
              t.agenda = s.agenda ++ .stageFreeNotice c tm fbo x :: e)) ∧
      (r.remote = none → r.producer = none → r.written ≤ r.taken → RingFree s n → gives (.rgreset n) none) ∧
      exec (.rgstat d n) s = .next (s.setX d (BitVec.ofNat 64
        ((if r.remote.isSome then 0 else (r.written - r.taken) % 2 ^ 32) + 2 ^ 32 + (if r.remote.isSome then 2 ^ 33 else 0) +
          (if r.ovr then 2 ^ 34 else 0) + 2 ^ 35 * r.log2))).adv) ∧
    ((∀ r, s.core.rings[n] = some r → r.team ≠ s.th.team) → exec (.rgstat d n) s = .next (s.setX d 0).adv)

/-- R226, R363 to R367: a copy that passes its checks enters the copy queue with the geometry of the engine registers, and
the thread goes on; CPYQ reads the number of the thread's copies. ESET and EGET (R355, R356). The model's choices in
it: log 24. -/
def Obligations.CopyIssueResults : Prop :=
  ∀ (d a b : Reg) (e : EngReg) (sc : ScopeIx) (s : State) (g : CopyGeom), (∀ r ∈ [a, b], s.th.regs.rxp r = none) → GeomOf s g →
    let y := (s.x b).toNat
    let w := 2 ^ g.loge
    let cells := g.n[0] * g.n[1] * g.n[2] * g.n[3]
    let dense := g.loge ≤ 4 ∧ g.pool + w * cells ≤ s.spBytes ∧ g.pool % w = 0
    let ready := s.core.staging = [] ∧ Closed s ∧ s.core.copies.length < (if isCmd s.loc then 64 else 512) ∧
      (s.x a).toNat + 16 ≤ s.spBytes ∧ (s.x a).toNat % 16 = 0
    let enters := fun (i : Instr) (k : CopyKind) (q : CopyGeom) (due : List Instr) (ev : Nat → Instr) =>
      ∃ t c, exec i s = .next t ∧ t.th = { s.th with pc := s.th.pc + 4 } ∧ Keeps s t ∧ t.core.copies = s.core.copies ++ [c] ∧
        c.kind = k ∧ c.geom = q ∧ c.bo = (s.x a).toNat ∧ c.tid = s.th.order ∧ c.team = s.th.team ∧ c.ctx = s.th.ctx ∧
        c.pc = s.th.pc ∧ c.next = 0 ∧ c.stopped = false ∧ c.fired = none ∧ t.agenda = due ++ [ev c.id]
    let runs := fun (i : Instr) (k : CopyKind) (q : CopyGeom) => enters i k q s.agenda fun id => .copyPageTranslate s.loc id
    (ready → dense → g.badCorner none = none →
      runs (.cpy a sc) .cpy g ∧
      (g.dir = false → 0 < y → y < 2 ^ min s.th.gangw 4 → runs (.cpym a b sc) (.cpym y) g)) ∧
    (ready → ∀ p q, (s.xlate s.asid (s.x b) 1 .load).1 = .ok p → mapGet s.tiles p.pa = some q →
      let z : CopyGeom := { g with base := s.x b, loge := 4, n := #v[q.rowq, q.rows, 1, 1], s := #v[16, q.pitch, 0, 0],
                                   c := #v[0, 0, 0, 0], lo := #v[0, 0, 0, 0], hi := #v[q.rowq, q.rows, 1, 1] }
      g.pool + 16 * (q.rowq * q.rows) ≤ s.spBytes → g.pool % 16 = 0 → z.badCorner none = none →
        enters (.cpyt a b sc) .cpy z (s.xlate s.asid (s.x b) 1 .load).2.agenda fun id => .copyPageTranslate s.loc id) ∧
    (ready → g.loge ≤ 4 → g.dir = false → isCmd s.loc = false → y < 8 → (w * cells) % 256 = 0 → g.badCorner none = none →
      (∃ i : Fin 8, i.val = y ∧ ∃ r, s.core.rings[i] = some r ∧ r.team = s.th.team ∧ w * cells ≤ 2 ^ r.log2) →
        enters (.cpyr a b sc) (.cpyr y) g s.agenda fun _ => .cpyrFire s.loc) ∧
    (ready → dense → g.n[2] = 1 → g.n[3] = 1 → y + 4 * g.n[1] ≤ s.spBytes → y % 4 = 0 →
      let l := (List.range g.n[1]).map fun i => sint (memRead s.pool (y + 4 * i) 4) 32
      g.badCorner (some l) = none → runs (.cpyg a b sc) (.cpyg l) g) ∧
    exec (.cpyq d) s = .next (s.setX d (BitVec.ofNat 64 ((s.core.copies.countP fun c => c.tid == s.th.order) % 1024 +
      (if (∃ c ∈ s.core.copies, c.tid = s.th.order ∧ c.stopped = true) then 65536 else 0)))).adv ∧
    (let no : Fin 15 := match e with
      | .cbase => 0 | .cctl => 1 | .cpool => 2 | .cext => 3 | .cstr01 => 4 | .cstr23 => 5 | .ccrd01 => 6 | .ccrd23 => 7
      | .clo01 => 8 | .clo23 => 9 | .chi01 => 10 | .chi23 => 11 | .cfill0 => 12 | .cfill1 => 13 | .caux => 14
     let keeps : Word := if no = 1 then 0xFFFF000F else if no = 2 ∨ no = 14 then 0x3FFFFF else 0xFFFFFFFFFFFFFFFF
     exec (.eset a e) s = .next { s with th := { s.th with eng := s.th.eng.set no (s.x a &&& keeps), pc := s.th.pc + 4 } } ∧
     exec (.eget d e) s = .next (s.setX d s.th.eng[no]).adv)

/-- R364, R366: CPYP sends each row to its partition's cursor, in row order, and leaves the cursors advanced in the table.
The model's choices in it: log 55. -/
def Obligations.PartitionCopyIssue : Prop :=
  ∀ (a b : Reg) (sc : ScopeIx) (s : State) (g : CopyGeom), (∀ r ∈ [a, b], s.th.regs.rxp r = none) → GeomOf s g → g.dir = true →
    g.loge ≤ 4 → g.n[2] = 1 → g.n[3] = 1 → s.core.staging = [] → Closed s → Sealed s → s.pool.wf = true →
    s.core.copies.length < (if isCmd s.loc then 64 else 512) →
    let w := 2 ^ g.loge
    let row := w * g.n[0]
    let bo := (s.x a).toNat
    let y := (s.x b).toNat
    let aux := s.th.eng[14].toNat % 2 ^ 22
    let parts := s.th.eng[1].toNat / 65536 % 65536 + 1
    let part := fun (i : Nat) => memRead s.pool (y + 4 * i) 4
    let cur := fun (p : Nat) => memRead s.pool (aux + 8 * p) 8
    let before := fun (i : Nat) => (List.range i).countP fun j => part j == part i
    let dest := fun (i : Nat) => if part i < parts then some (BitVec.ofNat 64 (cur (part i) + row * before i)) else none
    bo + 16 ≤ s.spBytes → bo % 16 = 0 → g.pool + row * g.n[1] ≤ s.spBytes → aux + 8 * parts ≤ s.spBytes →
    y + 4 * g.n[1] ≤ s.spBytes → g.pool % w = 0 → aux % w = 0 → y % 4 = 0 →
    (∀ q, aux ≤ q → q < aux + 8 * parts → ¬(g.pool ≤ q ∧ q < g.pool + row * g.n[1]) ∧ ¬(y ≤ q ∧ q < y + 4 * g.n[1]) ∧
      ¬(bo ≤ q ∧ q < bo + 16)) →
    (∀ i < g.n[1], ∀ v, dest i = some v → canonical v = true ∧ sint v.toNat 64 + (w * (g.n[0] - 1) : Nat) < 2 ^ 53) →
      ∃ t c, exec (.cpyp a b sc) s = .next t ∧ t.th = { s.th with pc := s.th.pc + 4 } ∧ Others s t ∧
        t.core.copies = s.core.copies ++ [c] ∧ c.kind = .cpyp ((List.range g.n[1]).map dest) ∧ c.geom = g ∧ c.bo = bo ∧
        t.agenda = s.agenda ++ [.copyPageTranslate s.loc c.id] ∧
        (∀ p < parts, (∃ i < g.n[1], part i = p) →
          memRead t.pool (aux + 8 * p) 8 = (cur p + row * ((List.range g.n[1]).countP fun i => part i == p)) % 2 ^ 64) ∧
        ∀ q, (∀ p < parts, (∃ i < g.n[1], part i = p) → ¬(aux + 8 * p ≤ q ∧ q < aux + 8 * p + 8)) →
          memByte t.pool q = memByte s.pool q

/-! Collectives and system instructions. -/

/-- R368, R369, R375, R376: COLRUN queues the operation of its descriptor; COLSTAT, COLRESUME and COLABORT act on the
latest operation of the core's queue that has the descriptor's address. The model's choices in it: log 10, 25, 30, 90. -/
def Obligations.CollectiveForms : Prop :=
  ∀ (d a : Reg) (s : State), isCmd s.loc = false → s.th.regs.rxp a = none → s.th.held = [] →
    let named := (s.core.colq.filter fun o => o.desc == s.x a).getLast?
    let next := fun (i : Instr) (P : State → Prop) =>
      ∃ t, exec i s = .next t ∧ t.th = { s.th with pc := s.th.pc + 4 } ∧ Keeps s t ∧ P t
    (named = none → exec (.colstat d a) s = .next (s.setX d 0).adv ∧ exec (.colresume a) s = .next s.adv ∧
      exec (.colabort a) s = .next s.adv) ∧
    (∀ o, named = some o →
      exec (.colstat d a) s = .next (s.setX d (BitVec.ofNat 64
        (o.state + 8 * o.detail + 256 * o.nt + 4096 * o.gen.toNat + 2 ^ 44 * o.recomp))).adv ∧
      (o.state ≠ 4 → exec (.colresume a) s = .next s.adv) ∧
      (o.state = 4 → o.members.length = 1 → next (.colresume a) fun t =>
        (∀ p ∈ t.core.colq, p.id = o.id → p.state = 2) ∧ t.outbox = s.outbox ∧ t.agenda = s.agenda ++ [.collectiveStart s.loc]) ∧
      (o.state = 4 → 1 < o.members.length → next (.colresume a) fun t =>
        (∀ p ∈ t.core.colq, p.id = o.id → p.state = 3) ∧ t.outbox = s.outbox ++ [.announce o.tag s.ltGen] ∧
          t.agenda = s.agenda ++ [.collectiveStart s.loc]) ∧
      (5 ≤ o.state → exec (.colabort a) s = .next s.adv) ∧
      (o.state < 5 → next (.colabort a) fun t =>
        (∀ p ∈ t.core.colq, p.id = o.id → p.state = 6) ∧ t.outbox = s.outbox ++ [.abort o.tag] ∧
          t.agenda = s.agenda ++ [.collectiveStart s.loc])) ∧
    (Quiet s → Calm s → (s.x a).toNat % 64 = 0 → ∀ ps, Reaches s (s.x a) 128 .load ps →
      let v := spanRead s ps
      let kept := s.core.colq.filter fun o => decide (o.state < 5) || o.stat
      kept.length < 8 →
      ∃ t o, exec (.colrun a) s = .next t ∧ t.th = { s.th with pc := s.th.pc + 4, got := [], scopeTab := none } ∧ Keeps s t ∧
        t.core.colq = kept ++ [o] ∧ (∃ e, t.agenda = e ++ [.collectiveStart s.loc]) ∧ o.desc = s.x a ∧ o.ctx = s.th.ctx ∧
        o.kind = v % 16 ∧ o.rop = v / 16 % 16 ∧ o.fmt = v / 2 ^ 8 % 2 ^ 8 ∧ o.ntree = v / 2 ^ 16 % 16 ∧
        o.tag = BitVec.ofNat 32 (v / 2 ^ 32) ∧ o.count = v / 2 ^ 64 % 2 ^ 40 ∧ o.src = BitVec.ofNat 64 (v / 2 ^ 128) ∧
        o.dst = BitVec.ofNat 64 (v / 2 ^ 192) ∧ o.chunk = v / 2 ^ 256 % 2 ^ 32 ∧ o.root = v / 2 ^ 288 % 2 ^ 8 ∧
        o.prog = BitVec.ofNat 64 (v / 2 ^ 320) ∧ o.pkgs = BitVec.ofNat 256 (v / 2 ^ 384) ∧ o.marks = [] ∧
        (s.colInvalid o v = true → o.state = 7 ∧ o.detail = 1) ∧
        (s.colInvalid o v = false → (∀ c ∈ s.coreList, ∀ p ∈ (s.getCore c).colq, p.state < 5 → p.tag ≠ o.tag) →
          o.state = 1 ∧ o.detail = 0))

namespace Sys2Proof.Claims

/-- The thread after a write of a system register, reserved bits discarded (R5, R259, R381); none for a read-only one. -/
def sysWrite (t : Thread) (n : SysReg) (v : Word) : Option Thread :=
  match n with
  | .xpc => some { t with xpc := v }
  | .xcause => some { t with xcause := v &&& 0x3FF }
  | .xval => some { t with xval := v }
  | .xvec => some { t with xvec := v &&& 0xFFFFFFFFFFFFFFFC }
  | .fmta => some { t with regs := { t.regs with fmta := v &&& 0x3FFF } }
  | .fmtb => some { t with regs := { t.regs with fmtb := v &&& 0x3FFF } }
  | .fmtc => some { t with regs := { t.regs with fmtc := v &&& 0x3FFF } }
  | .scalea => some { t with regs := { t.regs with scalea := v &&& 7 } }
  | .scaleb => some { t with regs := { t.regs with scaleb := v &&& 7 } }
  | .slotid | .coreid | .pcoreid | .socket | .pkgid | .ctxid | .poolpart | .faultq | .harvest _ => none

/-- The registers of which user mode has no access (R259). -/
def sysPriv (n : SysReg) : Prop := n = .xpc ∨ n = .xcause ∨ n = .xval ∨ n = .xvec

/-- What a system register reads as (R259); FAULTQ is the word at 0x08 of the context's table entry, 0 while EN or V is 0
(R117); the logical core number is the machine's own. -/
def sysRead (s : State) (n : SysReg) : Word :=
  match n with
  | .slotid => BitVec.ofNat 64 s.slot.val
  | .coreid => BitVec.ofNat 64 (s.logicalNo s.loc)
  | .pcoreid => BitVec.ofNat 64 (s.loc % 64)
  | .socket => BitVec.ofNat 64 (s.loc / 64)
  | .pkgid => BitVec.ofNat 64 s.pkgid.toNat
  | .ctxid => BitVec.ofNat 64 s.th.ctx.toNat
  | .poolpart => (s.team.map (·.poolpart)).getD 0
  | .faultq =>
    let e := s.ctxtBase + 64 * s.th.ctx.toNat
    if s.ctxtEn = true ∧ s.physRead e 8 % 2 = 1 then BitVec.ofNat 64 (s.physRead (e + 8) 8) else 0
  | .xpc => s.th.xpc
  | .xcause => s.th.xcause
  | .xval => s.th.xval
  | .xvec => s.th.xvec
  | .fmta => s.th.regs.fmta
  | .fmtb => s.th.regs.fmtb
  | .fmtc => s.th.regs.fmtc
  | .scalea => s.th.regs.scalea
  | .scaleb => s.th.regs.scaleb
  | .harvest d => s.harvest[d]

end Sys2Proof.Claims

/-- R260, R386: the register-access forms; SYSSET and SYSCLR in supervisor mode; FAULTQ waits while the host holds the
table entry. The model's choices in it: log 87. -/
def Obligations.SystemRegisterResults : Prop :=
  ∀ (d a : Reg) (n : SysReg) (s : State), (sysPriv n → s.th.mode = .supervisor) → s.th.regs.rxp a = none →
    let old := sysRead s n
    let gives := fun (i : Instr) (v : Word) => ∀ t, sysWrite s.th n v = some t →
      exec i s = .next { s with th := { t with pc := s.th.pc + 4 } }
    ((n = .faultq → (s.ctxReady s.th.ctx).1 = none) → exec (.sysr d n) s = .next (s.setX d old).adv) ∧ gives (.sysw a n) (s.x a) ∧
    (s.th.mode = .supervisor → gives (.sysset a n) (old ||| s.x a) ∧ gives (.sysclr a n) (old &&& ~~~(s.x a)))

/-- R387, R388, R389, R394: HALT, IFENCE, SEAL and ALERT. The model's choices in it: log 12. -/
def Obligations.SystemMiscResults : Prop :=
  ∀ (a : Reg) (s : State),
    (s.th.mode = .supervisor → Quiet s → (∀ c ∈ s.core.copies, c.tid ≠ s.th.order) →
      (isCmd s.loc = true →
        ∃ t, exec .halt s = .next t ∧ t.th.status = .parked .halted ∧ (∀ i : Fin 4, t.th.watch[i].armed = false) ∧
          t.th.regs = s.th.regs ∧ Keeps s t) ∧
      (isCmd s.loc = false → ∀ l, mapGet s.launches s.th.lh = some l → l.aborted = false →
        ∃ t z, exec .halt s = .next t ∧ t.th.status = .parked .stopped ∧ Keeps s t ∧
          mapGet t.launches s.th.lh = some z ∧ z.aborted = true ∧ z.status = 1)) ∧
    (Quiet s → ∃ t, exec .ifence s = .next t ∧ t.th = { s.th with pc := s.th.pc + 4 } ∧ Keeps s t ∧ t.core.icache = []) ∧
    (s.core.staging = [] → Closed s → ∃ t, exec .seal s = .next t ∧ t.th = { s.th with pc := s.th.pc + 4 } ∧ Keeps s t ∧
      (isCmd s.loc = false → Sealed t)) ∧
    ((∀ i ∈ [a, a + 1, a + 2, a + 3], s.th.regs.rxp i = none) →
      let r : Alert := ⟨0x09, BitVec.ofNat 5 (s.loc / 64), s.th.ctx, s.alrtSeq + 1, BitVec.ofNat 64 s.cycles,
        [s.x a, s.x (a + 1), s.x (a + 2), s.x (a + 3)]⟩
      ∃ t, exec (.alert a) s = .next t ∧ t.th = { s.th with pc := s.th.pc + 4 } ∧ Keeps s t ∧ t.alrtSeq = s.alrtSeq + 1 ∧
        (s.alrtEn = true → 6 ≤ s.alrtLog2n → s.alrtLog2n ≤ 16 →
          (s.alrtTail.toNat + s.alrtFlight.length + 2 ^ 64 - s.alrtHead.toNat) % 2 ^ 64 < 2 ^ s.alrtLog2n →
          let place := s.alrtBase.toNat + 64 * ((s.alrtTail.toNat + s.alrtFlight.length) % 2 ^ s.alrtLog2n)
          t.alrtFlight = s.alrtFlight ++ [r] ∧ t.outbox = s.outbox ++ [.alert (s.hostPort place) place r.bytes]) ∧
        (s.alrtEn = false → s.alrtHeld.length < 16 → t.alrtHeld = s.alrtHeld ++ [r]))

/-- R77, R78, R186, R392: LAUNCH, in supervisor mode, reads the record and writes the status; an accepted launch enters
the table under the handle it returns. The model's choices in it: log 10, 54. -/
def Obligations.LaunchResults : Prop :=
  ∀ (d a : Reg) (n : Fin 8) (s : State), s.th.mode = .supervisor → (isCmd s.loc = true → n = 0) → s.th.regs.rxp a = none →
    Quiet s → Calm s → (s.x a).toNat % 128 = 0 → ∀ ps, Reaches s (s.x a) 128 .load ps →
    let v := spanRead s ps
    let word := fun (i : Nat) => v / 2 ^ (64 * i) % 2 ^ 64
    let ctl := word 1
    (s.launchStatus v ≠ 0 → ∃ t, exec (.launch d a n) s = .next t ∧
      t.th = { s.th with regs := s.th.regs.wx d (BitVec.ofNat 64 (s.launchStatus v)), pc := s.th.pc + 4, got := [],
                         scopeTab := none } ∧ Keeps s t ∧ t.launches = s.launches) ∧
    (∀ h, s.launchStatus v = 0 →
      s.freeHandle (if isCmd s.loc then (s.loc / 64 - 20) * 4 + s.loc % 64 else n.val) = some h →
      ∃ t l, exec (.launch d a n) s = .next t ∧
        t.th = { s.th with regs := s.th.regs.wx d (BitVec.ofNat 64 (256 * h)), pc := s.th.pc + 4, got := [], scopeTab := none } ∧
        Keeps s t ∧ mapGet t.launches h = some l ∧ (∀ k, k ≠ h → mapGet t.launches k = mapGet s.launches k) ∧
        l.entry.toNat = word 0 ∧ l.ntask = ctl % 2 ^ 32 ∧ l.gangw = ctl / 2 ^ 32 % 8 ∧ l.team = ctl / 2 ^ 35 % 16 ∧
        l.prio = ctl / 2 ^ 40 % 4 ∧ l.fpol = ctl / 2 ^ 42 % 4 ∧ l.partn = ctl / 2 ^ 44 % 16 ∧ l.bandg = ctl / 2 ^ 48 % 2 ^ 10 ∧
        l.poolpart.toNat = word 2 ∧ l.fmtctx.toNat = word 3 ∧ l.scopet.toNat = word 4 ∧ l.args.toNat = word 5 ∧
        l.done.toNat = word 6 ∧ l.ctx.toNat = word 7 % 2 ^ 16 ∧ l.aborted = false ∧ l.next = 0 ∧ l.live = 0 ∧
        ∃ e, t.agenda = e ++ [if ctl % 2 ^ 32 = 0 then .launchComplete h else if ctl / 2 ^ 48 % 2 ^ 10 = 0 then .dealTask h
          else .bandAdmit h])

/-- R136, R393: FAULTACK in supervisor mode: the statuses, the acknowledged entry, and its disposition. The model's
choices in it: log 59. -/
def Obligations.FaultackResults : Prop :=
  ∀ (d a b : Reg) (s : State), s.th.mode = .supervisor → (∀ r ∈ [a, b], s.th.regs.rxp r = none) → Quiet s → Calm s →
    s.mem.wf = true →
    let ctx : BitVec 16 := (s.x a).setWidth 16
    let ix := s.x b
    ∀ i, (i = .faultackResume d a b ∨ i = .faultackAbandon d a b) →
      let gives := fun (v : Word) => ∃ t, exec i s = .next t ∧ Keeps s t ∧
        t.th = { s.th with regs := s.th.regs.wx d v, pc := s.th.pc + 4, scopeTab := none }
      (s.ctxEntry ctx = none → gives 2) ∧
      ∀ c, s.ctxEntry ctx = some c →
        let head := s.physRead (c.addr + 0x18) 8
        let tail := s.physRead (c.addr + 0x10) 8
        let e := c.fqbase + 64 * (ix.toNat % c.n)
        let stat := s.physRead (e + 1) 1
        ((tail + 2 ^ 64 - head) % 2 ^ 64 ≤ (ix.toNat + 2 ^ 64 - head) % 2 ^ 64 → gives 3) ∧
        ((ix.toNat + 2 ^ 64 - head) % 2 ^ 64 < (tail + 2 ^ 64 - head) % 2 ^ 64 →
          (stat % 4 ≠ 1 → gives 1) ∧
          (stat % 4 = 1 →
            ∃ t, exec i s = .next t ∧ t.th.regs = s.th.regs.wx d 0 ∧ t.th.pc = s.th.pc + 4 ∧
              (∀ q, t.physByte q = if q = e + 1 then BitVec.ofNat 8 (stat / 4 * 4 + 3) else s.physByte q) ∧
              (i = .faultackResume d a b → stat / 16 % 2 = 0 → ∀ k sl, (t.getThread k sl).held =
                (s.getThread k sl).held.map fun h => if h.ctx = ctx ∧ h.index = ix then { h with acked := true } else h) ∧
              (i = .faultackAbandon d a b → stat / 16 % 2 = 0 → ∀ k ∈ s.coreList, ∀ sl l, (s.getThread k sl).status ≠ .empty →
                (∃ h ∈ (s.getThread k sl).held, h.ctx = ctx ∧ h.index = ix ∧ h.raised = true) →
                (s.getThread k sl).kind ≠ .strand → mapGet s.launches (s.getThread k sl).lh = some l → l.aborted = false →
                ∃ z, mapGet t.launches (s.getThread k sl).lh = some z ∧ z.aborted = true ∧ z.status = 2)))

/-- R395, R397: CSEND sends the message of its image; without RET it counts as a store and the thread goes on, with RET it
waits for its response, which it writes when it has come, whatever the image or the page is by then. The model's
choices in it: log 21, 42, 50. -/
def Obligations.CourierSendResults : Prop :=
  ∀ (d a : Reg) (s : State), s.th.regs.rxp a = none →
    (s.th.sent = none → s.core.staging = [] → Closed s →
      let o := (s.x a).toNat
      o + 64 ≤ s.spBytes → o % 16 = 0 →
      let v := memRead s.pool o 64
      let word := fun (i : Nat) => BitVec.ofNat 64 (v / 2 ^ (64 * i))
      let ret := (word 1).getLsbD 2
      (word 1).toNat / 64 = 0 → (ret = true → (word 1).toNat / 8 % 8 ≠ 0) →
      ∀ p, (s.xlate s.asid (word 0) 1 .atomic).1 = .ok p →
        let msg : Courier :=
          { spkg := s.pkgid, ssock := BitVec.ofNat 5 (s.loc / 64), score := BitVec.ofNat 6 (s.loc % 64),
            slot := BitVec.ofNat 3 s.slot.val, ctx := s.th.ctx, ni := BitVec.ofNat 2 (word 1).toNat, ret := ret,
            rsel := BitVec.ofNat 3 ((word 1).toNat / 8), auto := false, page := p.pa / 65536 * 65536,
            words := BitVec.ofNat 128 (v / 2 ^ 128), m4 := word 4, m5 := word 5, m6 := word 6, m7 := word 7 }
        s.mustQueue s.loc (s.courierWrite (word 0) p msg) = false →
        (ret = false →
          ∃ t q, exec (.csend d a) s = .next t ∧ Keeps s t ∧ t.outstanding = s.outstanding ++ [q] ∧
            t.th = { s.th with near := s.th.near + 1, dev := s.th.dev + 1, hst := s.th.hst + 1, pc := s.th.pc + 4 } ∧
            q.core = s.loc ∧ q.tid = s.th.order ∧ q.pa = p.pa ∧
            (s.isLocal msg.page = true →
              (∀ c, (s.getCore c).msgq.length < 32 ∧ (s.getCore c).msgHeld = [] ∧ (s.getCore c).saving = false) →
              ∃ c z, (t.getCore c).msgq = (s.getCore c).msgq ++ [z] ∧ z.msg = msg ∧ z.tag = q.tag ∧
                t.agenda = (s.xlate s.asid (word 0) 1 .atomic).2.agenda ++ [.messageEngineExecute c]) ∧
            (s.isLocal msg.page = false → ∃ l, t.outbox = s.outbox ++ .courier (p.pa / 2 ^ 44 % 256) 0 msg :: l)) ∧
        (ret = true →
          ∃ t tag, exec (.csend d a) s = .next t ∧ Keeps s t ∧
            t.th = { s.th with status := .parked (.response tag), sent := some (word 0, p.pa) } ∧
            (s.isLocal msg.page = false → ∃ l, t.outbox = s.outbox ++ .courier (p.pa / 2 ^ 44 % 256) 0 msg :: l))) ∧
    ∀ base pa, s.th.sent = some (base, pa) →
      (∀ g, s.th.got.find? (fun g => g.pa == pa && g.n == 8) = some g → g.fail = none →
        exec (.csend d a) s = .next { s with th := { s.th with
          regs := s.th.regs.wx d (g.data.setWidth 64), pc := s.th.pc + 4, got := [], sent := none } }) ∧
      (s.th.got.find? (fun g => g.pa == pa && g.n == 8) = none →
        ∀ q, s.outstanding.find? (fun q => q.core == s.loc && q.tid == s.th.order && q.pa == pa && q.write.isNone) = some q →
          exec (.csend d a) s = .next { s with th := { s.th with status := .parked (.response q.tag) } })

/-- R207, R390: SPILL and RESTORE of another core, in supervisor mode: the statuses, a core saved and left empty, and a
core restored. The model's choices in it: log 19, 31. -/
def Obligations.ContextSaveResults : Prop :=
  ∀ (d a b : Reg) (s : State), s.th.mode = .supervisor → (∀ r ∈ [a, b], s.th.regs.rxp r = none) →
    let pa := (s.x a).toNat
    let n := (s.x b).toNat
    let done := fun (t : State) => t.th.regs = s.th.regs.wx d 0 ∧ t.th.pc = s.th.pc + 4
    (s.saveStatus false pa n ≠ 0 → exec (.spill d a b) s = .next (s.setX d (BitVec.ofNat 64 (s.saveStatus false pa n))).adv) ∧
    (s.saveStatus true pa n ≠ 0 → exec (.restore d a b) s = .next (s.setX d (BitVec.ofNat 64 (s.saveStatus true pa n))).adv) ∧
    ∀ c, s.logical n = some c →
      (s.saveStatus false pa n = 0 → Calm s → s.th.status = .ready →
        let k := s.getCore c
        k.matq = [] → k.copies = [] → k.msgq = [] → k.inflight = [] → k.staging = [] → k.colq = [] → s.outstanding = [] →
        (∀ q ∈ k.slots.toList ++ k.saves.map (·.thread), q.packing = []) → (∀ e ∈ s.coreList, (s.getCore e).copies = []) →
        (∀ q ∈ s.fqWait, q.core ≠ c) →
          ∃ t z, exec (.spill d a b) s = .next t ∧ done t ∧ (s.areas.length, z) ∈ t.areas ∧ z.deque = k.deque ∧
            (∀ sl : Fin 8, z.slots[sl].regs = k.slots[sl].regs ∧ z.slots[sl].pc = k.slots[sl].pc) ∧
            (t.getCore c).occupied = false ∧ (t.getCore c).deque = [] ∧ (t.getCore c).saves = [] ∧ (t.getCore c).teams = []) ∧
      (s.saveStatus true pa n = 0 → s.areaBad pa = none → s.areaHalf pa = none → s.areaHeld pa = false →
        ∀ z, s.areaContext pa = some z → (∀ l ∈ s.launches, l.2.aborted = false) →
          ∃ t, exec (.restore d a b) s = .next t ∧ done t ∧ (t.getCore c).deque = z.deque ∧
            ∀ sl : Fin 8, (∀ w, z.slots[sl].status ≠ .parked w) →
              (t.getCore c).slots[sl].regs = z.slots[sl].regs ∧ (t.getCore c).slots[sl].pc = z.slots[sl].pc)

/-! Events of the package. -/

/-- R21, R22: package reset, power loss and heat; every field is at its reset value but the fuses, the package number, the
FREEZE pin, and what is due on the pins and the management port. R22, R23, R25 to R28, R70: boot, supervisor strands,
FREEZE and its readout. The model's choices in it: log 3, 4, 6, 14, 66, 72, 77, 83. -/
def Obligations.ResetAndBootEvents : Prop :=
  (∀ (s : State) (sock : Fin 24),
    let fresh : State := { State.reset with
      debugFuse := s.debugFuse, fuseKeyHash := s.fuseKeyHash, fuseMinSec := s.fuseMinSec, harvest := s.harvest,
      pkgid := s.pkgid, freezePin := s.freezePin, frozen := s.freezePin, resetHeld := s.freezePin,
      agenda := s.agenda.filter fun i => match i with
        | .freezeDeassert | .freezeReadout .. | .debugToken .. | .powerOff | .freezeAssert | .packageReset => true
        | _ => false }
    exec .packageReset s = .next fresh ∧ exec .powerOff s = .next { fresh with powered := false } ∧
    (s.thermal ≠ none → exec .thermalReset s = .next fresh) ∧
    (∃ t, exec (.thermalTrip sock) s = .next t ∧ t.alrtSeq = s.alrtSeq + 1 ∧
      t.thermal = some (s.thermal.getD (s.cycles + 1800000)) ∧ Others s t ∧ t.th = s.th)) ∧
  (∀ (s : State) (img : BootImage) (n slot : Fin 8) (entry : Word) (ctx : BitVec 16) (token : List Byte) (sel : Instrument),
    let digest := Config.sm3 img.bytes
    let signed := img.readable = true ∧ img.manifestOk = true ∧ Config.sm3 img.key = s.fuseKeyHash ∧
      Config.sm2Verify img.key digest img.sigR img.sigS = true
    let begins := fun (t : State) (c : CoreId) (sl : Fin 8) (pc : Word) (x : BitVec 16) =>
      let h := t.getThread c sl
      h.status = .ready ∧ h.pc = pc ∧ h.mode = .supervisor ∧ h.kind = .strand ∧ h.ctx = x ∧ h.regs = Regs.zero ∧
        h.xpc = 0 ∧ h.xcause = 0 ∧ h.xval = 0 ∧ h.xvec = 0
    let c := (20 + n.val / 4) * 64 + n.val % 4
    (s.bootState = 0 →
      (signed → s.fuseMinSec ≤ img.secVersion →
        ∃ t, exec (.bootImageVerify img) s = .next t ∧ t.bootDigests = s.bootDigests ++ [digest] ∧
          t.bootNext = s.bootNext + 1 ∧ t.bootEntry = (if s.bootNext = 0 then img.entry else s.bootEntry) ∧
          (s.isDevMem img.load = true → s.mem.wf = true → ∀ i < img.bytes.length,
            memByte t.mem (img.load + i) = img.bytes.getD i 0) ∧
          (img.last = false → t.bootState = 0) ∧
          (img.last = true → t.bootState = 1 ∧ begins t (20 * 64) 0 t.bootEntry 0)) ∧
      (¬(signed ∧ s.fuseMinSec ≤ img.secVersion) →
        ∃ t, exec (.bootImageVerify img) s = .next t ∧ t.bootState = 2 ∧ t.bootImage = BitVec.ofNat 8 s.bootNext ∧
          t.bootCause = (if img.readable = false then 3 else if img.manifestOk = false then 4
            else if ¬(Config.sm3 img.key = s.fuseKeyHash ∧ Config.sm2Verify img.key digest img.sigR img.sigS = true) then 1 else 2))) ∧
    (s.bootState = 1 → (s.getThread c slot).status = .empty →
      ∃ t, exec (.commandCoreStart n slot entry ctx) s = .next t ∧ begins t c slot entry ctx) ∧
    exec .freezeAssert s = .next { s with freezePin := true, frozen := true } ∧
    exec .freezeDeassert s = .next { s with freezePin := false, frozen := false, resetHeld := false } ∧
    exec (.debugToken token) s = .next { s with debugToken := s.debugToken || Config.tokenValid token } ∧
    (s.frozen = true → ∃ ws, exec (.freezeReadout sel) s = .next { s with outbox := s.outbox ++ [.readout ws] } ∧
      (∀ d, sel = .harvest d → ws = [s.harvest[d]]) ∧
      (sel = .bootst → ws = [BitVec.ofNat 64 (s.bootState.toNat + 256 * s.bootImage.toNat + 65536 * s.bootCause.toNat)]) ∧
      ((∀ d, sel ≠ .harvest d) → sel ≠ .bootst → s.debugFuse = false → s.debugToken = false → ws = [0]) ∧
      (∀ k sl r, sel = .scalar k sl r → (s.debugFuse = true ∨ s.debugToken = true) → ws = [(s.getThread k sl).regs.rx r])))


/-- R80: a record's write completes, and ALRTTAIL advances; a write of ALRTCTL opens the ring. R4, R23, R60: a write of
the host window reaches only mailboxes and alert registers, and nothing, ALRTCTL included, is answered after a failed
boot. R17 to R19: an arrival counts; a full episode toggles the phase and its release frees the waiting threads; a
mismatch breaks the identifier. The model's choices in it: log 17, 44, 65, 70. -/
def Obligations.AlertAndCausewayEvents : Prop :=
  (∀ (s : State) (v : Word) (off : Nat),
    (∀ r q, s.alrtFlight = r :: q → ∃ t, exec .alertWriteComplete s = .next t ∧ t.alrtFlight = q ∧ t.alrtTail = s.alrtTail + 1 ∧
      (s.cxl[0].up = true → t.outbox = s.outbox ++ [.msix 0 8])) ∧
    (s.bootState = 2 → exec (.alrtctlWrite v) s = .next s) ∧
    (s.bootState ≠ 2 → s.alrtHeld = [] →
      exec (.alrtctlWrite v) s = .next { s with alrtLog2n := v.toNat % 32, alrtEn := v.getLsbD 8 }) ∧
    (s.bootState ≠ 2 → s.alrtHeld ≠ [] → ¬(v.getLsbD 8 = true ∧ 6 ≤ v.toNat % 32 ∧ v.toNat % 32 ≤ 16) →
      exec (.alrtctlWrite v) s = .next { s with alrtLog2n := v.toNat % 32, alrtEn := v.getLsbD 8 }) ∧
    (s.bootState = 2 → exec (.registerWrite true off v) s = .next s) ∧
    (s.bootState ≠ 2 → off = 0xF0014030000 → ∀ h, exec (.registerWrite h off v) s =
      .next { s with alrtBase := BitVec.ofNat 64 (v.toNat / 64 % 2 ^ 46 * 64) }) ∧
    (s.bootState ≠ 2 → off = 0xF0014030010 → ∀ h, exec (.registerWrite h off v) s = .next { s with alrtHead := v }) ∧
    (off = 0xF0014050088 → exec (.registerWrite true off v) s = .next s ∧
      exec (.registerWrite false off v) s =
        .next { s with tvEn := v.getLsbD 0, tvBase := v.toNat / 4096 % 2 ^ 40 * 4096 })) ∧
  (∀ (s : State) (id : Fin 64) (phase : Bool),
    let c := s.causeway[id]
    (c.broken = false → c.releasing = false → phase = c.phase → c.count + 1 < c.expected →
      exec (.causewayArrival id phase) s =
        .next { s with causeway := s.causeway.set id { c with count := c.count + 1 } }) ∧
    (c.broken = false → c.releasing = false → phase = c.phase → c.count + 1 = c.expected → c.next = 0 →
      exec (.causewayArrival id phase) s =
        .next { s with causeway := s.causeway.set id { c with count := 0, phase := !c.phase, releasing := true },
                       agenda := s.agenda ++ [.causewayRelease id] }) ∧
    (c.broken = true → exec (.causewayArrival id phase) s = .next s) ∧
    (c.releasing = true →
      ∃ t, exec (.causewayRelease id) s = .next t ∧ (∀ a, t.physByte a = s.physByte a) ∧
        ∀ k ∈ s.coreList, ∀ (sl : Fin 8) (tm : Team), tm ∈ (s.getCore k).teams → tm.band = some id.val →
          (s.getThread k sl).team = tm.id → (s.getThread k sl).status = .parked (.barb id.val (!c.phase)) →
          (t.getThread k sl).status = .ready ∧ (t.getThread k sl).pc = (s.getThread k sl).pc + 4) ∧
    (∃ t, exec (.causewayMismatch id) s = .next t ∧ t.causeway[id].broken = true ∧ t.causeway[id].count = 0 ∧
      t.alrtSeq = s.alrtSeq + 1 ∧ (∀ j, j ≠ id → t.causeway[j] = s.causeway[j]) ∧
      ∀ (p : Bool), s.th.status = .parked (.barb id.val p) → s.th.inh = false → s.th.xvec ≠ 0 →
        t.th.pc = s.th.xvec &&& 0xFFFFFFFFFFFFFFFC ∧ t.th.xpc = s.th.pc ∧ t.th.xval = BitVec.ofNat 64 id.val ∧
          t.th.xcause.toNat % 256 = 0x07))

/-! Events of links, of the fabric and of the package split. -/

/-- R31, R32, R36, R38, R53: in-package links, holding entries and alleys. The model's choices in it: log 15, 16, 44, 61,
80. -/
def Obligations.LinkEvents : Prop :=
  ∀ (s : State) (k : Fin 24) (f : BitVec 2048) (ack : BitVec 10) (cls : HoldClass) (a b : Fin 16),
    let l := s.links[k]
    let seq : BitVec 10 := BitVec.ofNat 10 (f.toNat / 2 ^ 8 % 2 ^ 10)
    let upTo : BitVec 10 := BitVec.ofNat 10 (f.toNat / 2 ^ 18 % 2 ^ 10)
    let good := crc64 ((toBytes 256 f.toNat).take 248) = BitVec.ofNat 64 (f.toNat / 2 ^ 1984) ∧ f.toNat % 8 ≤ 4
    let newer := fun (x y : BitVec 10) => x ≠ y ∧ (x - y).toNat < 512
    let oldest := fun (h : Holding) => h.home == k.val && h.cls == cls
    (l.up = true →
      (¬good → ∃ t, exec (.flitReceive k f) s = .next t ∧ Undisturbed s t ∧ t.links[k].fails = l.fails + 1 ∧
        t.links[k].rxSeq = l.rxSeq ∧ t.outbox = s.outbox ++ [.flitAck k l.rxSeq true] ∧
        t.agenda = s.agenda ++ (if 15 ≤ l.fails then [.portCrcDown k] else [])) ∧
      (good → seq ≠ l.rxSeq + 1 → exec (.flitReceive k f) s = .next s) ∧
      (good → seq = l.rxSeq + 1 → ∃ t, exec (.flitReceive k f) s = .next t ∧ Undisturbed s t ∧ t.links[k].rxSeq = seq ∧
        t.links[k].fails = 0 ∧ (∀ i : Fin 4, t.links[k].stop[i] = f.getLsbD (30 + i.val)) ∧
        (l.queue = [] →
          ∀ p ∈ t.links[k].replay, p.1 = l.txSeq + 1 ∨ (p ∈ l.replay ∧ (f.getLsbD 28 = true → newer p.1 upTo))) ∧
        (f.getLsbD 29 = true → .flitNakReceive k upTo ∈ t.agenda)) ∧
      (∃ t, exec (.flitNakReceive k ack) s = .next t ∧ Undisturbed s t ∧ t.agenda = s.agenda ∧
        (∀ p ∈ l.replay, newer p.1 ack → p ∈ t.links[k].replay ∧ .flit k p.1 ∈ t.outbox) ∧
        ∀ p ∈ t.links[k].replay, p ∈ l.replay ∧ newer p.1 ack) ∧
      exec (.portCrcDown k) s = .next { s with
        links := s.links.set k { l with up := false, replay := [], skid := Vector.replicate 4 0, queue := [] },
        agenda := s.agenda ++ [.splitDetect (s.liveMask &&& ~~~(BitVec.ofNat 24 (2 ^ k.val)))] }) ∧
    (s.holdings.find? oldest = none → exec (.holdingEntryServe k cls) s = .next s) ∧
    (∀ h, s.holdings.find? oldest = some h →
      ∃ t, exec (.holdingEntryServe k cls) s = .next t ∧ (∀ x, x ∈ t.holdings ↔ x ∈ s.holdings ∧ x.wait ≠ h.wait) ∧
        t.links[k].skid[0] = 0 ∧ t.links[k].mine[0] = false ∧ t.agenda = s.agenda ++ s.hostHeld ∧ t.hostHeld = [] ∧
        (∀ p, t.physByte p = s.physByte p) ∧
        ∀ c sl, (s.getThread c sl).status = .parked h.wait → (t.getThread c sl).status = .ready) ∧
    exec (.alleyLinkDown a b) s = .next { s with alleysDown := s.alleysDown ++ [(a.val, b.val)] }

/-- R40, R44 to R50: scale-up ports, their flits and their keys. The model's choices in it: log 14, 16, 44, 63, 73. -/
def Obligations.ScaleUpEvents : Prop :=
  ∀ (s : State) (p : Fin 36) (f : BitVec 2048),
    let o := s.fports[p]
    let seq : BitVec 12 := BitVec.ofNat 12 (f.toNat % 2 ^ 12)
    let kind := f.toNat / 2 ^ 26 % 8
    let good := kind ≤ 4 ∧ Config.gcmOk p.val o.krx o.rxGen o.rxctr f = true
    let rest := fun (t : State) => Undisturbed s t ∧ (s.responses = [] → ∀ q : Fin 36, q ≠ p → t.fports[q] = s.fports[q])
    let fails := fun (t : State) (c : Byte) (x : Outstanding) => .errorResponseArrival x.core (BitVec.ofNat 10 x.tag) c ∈ t.agenda
    let down := fun (t : State) => rest t ∧ t.fports[p].state = 0 ∧ t.fports[p].downs = min (o.downs + 1) 255 ∧
      t.fports[p].replay = [] ∧ .portReport p ∈ t.outbox ∧ t.alrtSeq = s.alrtSeq + 1 ∧
      ∀ x ∈ s.outstanding, x.plane = some p.val → (∀ q, x.flit = some q → ∃ r ∈ o.replay, r.1 = q) → fails t 0x11 x
    (o.state = 3 →
      (seq ≠ o.rxSeq + 1 → exec (.scaleupFlitReceive p f) s = .next s) ∧
      (seq = o.rxSeq + 1 → ¬good → ∃ t, exec (.scaleupFlitReceive p f) s = .next t ∧ rest t ∧ t.fports[p].rxSeq = o.rxSeq ∧
        .upAck p o.rxSeq true ∈ t.outbox ∧ (o.afail < 2 → t.fports[p].afail = o.afail + 1) ∧
        (2 ≤ o.afail → .authFailPortDown p ∈ t.agenda)) ∧
      (seq = o.rxSeq + 1 → good → ∃ t, exec (.scaleupFlitReceive p f) s = .next t ∧ rest t ∧ t.fports[p].rxSeq = seq ∧
        t.fports[p].afail = 0 ∧ (kind ≠ 1 → .upAck p seq false ∈ t.outbox) ∧
        (kind = 2 → t.fports[p].krx = !o.krx ∧ t.fports[p].rxctr = 0) ∧
        (kind ≠ 2 → t.fports[p].krx = o.krx ∧ t.fports[p].rxctr = o.rxctr + 1) ∧
        (kind = 3 → o.exchanging = true → .keyMarkerSend p ∈ t.agenda)) ∧
      (o.exchanging = false → ∀ j, (j = .txctrRekeyThreshold p ∨ j = .fpctlRekey p) →
        ∃ t, exec j s = .next t ∧ rest t ∧ t.fports[p].exchanging = true ∧
          t.fports[p].rekey = (if j = .fpctlRekey p then true else o.rekey) ∧ .keyExchange p ∈ t.outbox ∧
          (o.replay.length + 1 < 1024 → o.txctr ≠ 0xFFFFFFFF → ∃ flit, .upFlit p (o.txSeq + 1) 3 flit ∈ t.outbox)) ∧
      (o.exchanging = true → (1024 ≤ o.replay.length + 1 ∨ o.txctr = 0xFFFFFFFF) →
        exec (.keyMarkerSend p) s = .next { s with fports := s.fports.set p { o with markerDue := true } }) ∧
      (o.exchanging = true → o.replay.length + 1 < 1024 → o.txctr ≠ 0xFFFFFFFF → ∃ t clear,
        exec (.keyMarkerSend p) s = .next t ∧ rest t ∧ clear.toNat % 2 ^ 12 = (o.txSeq + 1).toNat ∧
        clear.toNat / 2 ^ 26 % 8 = 2 ∧ t.outbox = s.outbox ++ [.upFlit p (o.txSeq + 1) 2 (Config.gcmSeal p.val o.ktx o.txGen o.txctr clear)] ∧
        t.fports[p].ktx = (!o.ktx) ∧ t.fports[p].txctr = 0 ∧ t.fports[p].txSeq = o.txSeq + 1 ∧
        t.fports[p].marker = some (o.txSeq + 1))) ∧
    (o.state ≠ 0 →
      (∃ t, exec (.scaleupPortDown p) s = .next t ∧ down t) ∧ (∃ t, exec (.authFailPortDown p) s = .next t ∧ down t) ∧
      (o.txctr = 0xFFFFFFFF → ∃ t, exec (.txctrExhausted p) s = .next t ∧ down t)) ∧
    (∃ t, exec (.portIsolate p) s = .next t ∧ rest t ∧ t.fports[p] = { o with state := 4 } ∧
      ∀ g ∈ t.flows, g.plane = p.val → g.holding = true) ∧
    (o.off = false → o.state ≠ 3 → s.bootState ≠ 2 → s.fenced.getLsbD (22 + p.val / 18) = false → s.responses = [] → ∃ t,
      exec (.linkTrain p) s = .next t ∧ rest t ∧ t.fports[p].state = 3 ∧
      t.fports[p].ktx = false ∧ t.fports[p].krx = false ∧ t.fports[p].txctr = 0 ∧ t.fports[p].afail = 0 ∧
      (s.ltStale = true → s.ltPending = false → t.ltPending = true ∧ t.outbox = s.outbox ++ [.tableRequest])) ∧
    (s.bootState = 2 → exec (.linkTrain p) s = .next s) ∧
    (o.off = false → o.state ≠ 0 → exec (.fpctlOff p true) s = .next { s with
      fports := s.fports.set p { o with off := true }, agenda := s.agenda ++ [.scaleupPortDown p] }) ∧
    (o.off = true → exec (.fpctlOff p true) s = .next s) ∧
    (o.off = true → o.state = 0 ∨ o.state = 4 → exec (.fpctlOff p false) s = .next { s with
      fports := s.fports.set p { o with off := false, state := 1 } })

/-- R41 to R43, R49 to R57, R161: requests and their responses, the link table, and the package split. The model's choices
in it: log 16, 44, 64, 67. -/
def Obligations.FabricEvents : Prop :=
  ∀ (s : State) (c : CoreId) (tag : BitVec 10) (pkg : BitVec 8) (vn : Fin 4) (cause : Byte) (data : BitVec 1024) (o : Outstanding)
    (gen : BitVec 32) (es : List (BitVec 8 × Word)) (group : BitVec 24),
    let named := fun (f : Flow) => f.core == c && f.pkg == pkg.toNat && f.vn == vn.val
    let r := group &&& s.liveMask
    let gone := s.liveMask &&& ~~~r
    let dies := fun (m : BitVec 24) => ((List.range 16).filter fun d => m.getLsbD d).length
    let before := group &&& s.preSplit
    let goesOn := (r.getLsbD 20 = true ∨ r.getLsbD 21 = true) ∧
      (dies gone < dies r ∨ (dies r = dies gone ∧ r.getLsbD 20 = true))
    (s.outstanding.find? (fun x => x.core == c && x.tag == tag.toNat && x.pkg == pkg.toNat) = some o → o.plane = none → pkg ≠ s.pkgid →
      (s.livePlanes pkg.toNat = [] → exec (.gatewayRequest c tag pkg vn) s = .next { s with
        agenda := s.agenda ++ [.errorResponseArrival c tag 0x10] }) ∧
      (∀ f (p : Fin 36), s.flows.find? named = some f → f.holding = false → f.plane = p.val → p.val ∈ s.livePlanes pkg.toNat →
        s.flowWaits o = false → s.fports[p].ready vn.val (max o.msgs.length 1) = true →
        s.fports[p].txctr.toNat + o.msgs.length ≤ 0xFFFFFFFF →
        let seq := s.fports[p].txSeq
        ∃ (t : State) (flits : List (BitVec 2048)), exec (.gatewayRequest c tag pkg vn) s = .next t ∧ Undisturbed s t ∧ flits.length = o.msgs.length ∧
          t.outbox = s.outbox ++ flits.mapIdx (fun i x => .upFlit p (seq + BitVec.ofNat 12 (i + 1)) 0 x) ∧
          { o with plane := some p.val, flit := some (seq + BitVec.ofNat 12 o.msgs.length) } ∈ t.outstanding)) ∧
    (∀ f, s.flows.find? named = some f → f.holding = true → s.responses = [] →
      ((∃ x ∈ s.outstanding, x.core = c ∧ x.pkg = pkg.toNat ∧ x.vn = vn.val ∧ x.plane = some f.plane) →
        exec (.gatewayFlowRemap c pkg vn) s = .next s) ∧
      ((∀ x ∈ s.outstanding, x.core = c → x.pkg = pkg.toNat → x.vn = vn.val → x.plane ≠ some f.plane) →
        ∃ t, exec (.gatewayFlowRemap c pkg vn) s = .next t ∧ Undisturbed s t ∧ t.flows = s.flows.erase f ∧
          ∀ x ∈ s.outstanding, x.core = c → x.pkg = pkg.toNat → x.vn = vn.val → x.plane = none →
            .gatewayRequest c (BitVec.ofNat 10 x.tag) pkg vn ∈ t.agenda)) ∧
    (s.outstanding.find? (fun x => x.core == c && x.tag == tag.toNat && x.plane.isSome) = some o →
      ∃ t, exec (.fabricTimeout c tag) s = .next t ∧ Undisturbed s t ∧ t.alrtSeq = s.alrtSeq + 1 ∧
        t.agenda = s.agenda ++ [.errorResponseArrival c tag 0x11]) ∧
    (s.answered c tag = [o] → o.engine = none → o.write = none → o.fill = false → o.amo = none →
      (∀ sl, (s.getThread c sl).order = o.tid → (s.getThread c sl).status ≠ .parked .travel) →
      let gets := fun (t : State) (fail : Option Byte) (d : BitVec 1024) =>
        t.outstanding = s.outstanding.erase o ∧ (∀ a, t.physByte a = s.physByte a) ∧
        ∀ sl, (s.getThread c sl).order = o.tid → (s.getThread c sl).status = .parked (.response o.tag) →
          (t.getThread c sl).status = .ready ∧ (t.getThread c sl).pc = (s.getThread c sl).pc ∧
            (t.getThread c sl).got = (s.getThread c sl).got ++ [⟨o.pa, o.n, fail, d, none⟩]
      (∃ t, exec (.responseArrival c tag data) s = .next t ∧ gets t none (withOwn o.own o.pa o.n data)) ∧
      (∃ t, exec (.errorResponseArrival c tag cause) s = .next t ∧ gets t (some cause) 0)) ∧
    (∀ (sl : Fin 8) (p : Pending), (s.getThread c sl).status = .ready →
      (s.getCore c).inflight.find? (fun p => p.tid == (s.getThread c sl).order && !p.near) = some p →
      ∃ t, exec (.writeAck c sl .near) s = .next t ∧ (t.getThread c sl).near = (s.getThread c sl).near - 1 ∧
        (t.getThread c sl).regs = (s.getThread c sl).regs ∧ t.outstanding = s.outstanding ∧ ∀ a, t.physByte a = s.physByte a) ∧
    (s.ltStale = false → gen = s.ltGen + 1 → (es.map (·.1)).Nodup →
      ∃ t, exec (.linkTableGeneration gen es) s = .next t ∧ t.ltGen = gen ∧ t.ltStale = false ∧ (∀ a, t.physByte a = s.physByte a) ∧
        (∀ e ∈ es, t.linkTable[e.1.toNat]? = some (e.2 &&& 0x1FFFFFFFFF)) ∧
        ∀ n : Fin 256, (∀ e ∈ es, e.1.toNat ≠ n.val) → t.linkTable[n] = s.linkTable[n]) ∧
    (s.ltStale = false → s.ltGen < gen → gen ≠ s.ltGen + 1 → s.ltPending = false → exec (.linkTableGeneration gen es) s = .next { s with
      ltStale := true, ltPending := true, outbox := s.outbox ++ [.tableRequest] }) ∧
    (s.ltPending = true → (es.map (·.1)).Nodup →
      ∃ t, exec (.fullTableInstall gen es) s = .next t ∧ t.ltGen = gen ∧ t.ltStale = false ∧ t.ltPending = false ∧
        (∀ a, t.physByte a = s.physByte a) ∧ (∀ e ∈ es, t.linkTable[e.1.toNat]? = some (e.2 &&& 0x1FFFFFFFFF)) ∧
        ∀ n : Fin 256, (∀ e ∈ es, e.1.toNat ≠ n.val) → t.linkTable[n] = 0) ∧
    (gone ≠ 0 → goesOn → ∃ t, exec (.splitDetect group) s = .next t ∧ t.liveMask = r ∧
      t.preSplit = s.liveMask ∧ t.splitWait = some (gone ||| (s.splitWait.map (·.1)).getD 0, s.cycles) ∧
      t.fenced = s.fenced ||| gone ∧ t.alrtSeq = s.alrtSeq + 1 ∧
      ∀ d ∈ s.coreList, gone.getLsbD (d / 64) = true → (t.getCore d).stopped = true) ∧
    (r ≠ 0 → gone ≠ 0 → ¬goesOn → ∃ t, exec (.splitDetect group) s = .next t ∧ t.fenced = s.fenced ||| r ∧
      t.liveMask = s.liveMask ∧ (∀ d ∈ s.coreList, r.getLsbD (d / 64) = true → (t.getCore d).stopped = true) ∧
      (∀ a, t.physByte a = s.physByte a) ∧
      (s.liveMask &&& ~~~(s.fenced ||| r) = 0 →
        t.agenda = [] ∧ (∀ q : Fin 4, t.cxl[q].up = false) ∧ ∀ q : Fin 36, t.fports[q].state = 0) ∧
      (s.liveMask &&& ~~~(s.fenced ||| r) ≠ 0 →
        (∀ q : Fin 4, r.getLsbD (20 + q.val / 2) = true → s.cxl[q].up = true → .cxlPortDown q ∈ t.agenda) ∧
        ∀ q : Fin 36, r.getLsbD (22 + q.val / 18) = true → .scaleupPortDown q ∈ t.agenda)) ∧
    (r = 0 → before ≠ 0 → s.preSplit &&& ~~~before ≠ 0 →
      ∃ t, exec (.splitDetect group) s = .next t ∧ t.fenced = s.fenced ||| before ∧ t.liveMask = s.liveMask ∧
        ∀ a, t.physByte a = s.physByte a) ∧
    (∀ m when', s.splitWait = some (m, when') → ∃ t, exec .splitWaitExpire s = .next t ∧ t.splitWait = none ∧
      t.lostDies = s.lostDies ||| m ∧
      t.hostHeld = [] ∧ (∀ p ∈ t.tiles, m.getLsbD (homeOf p.1) = true → p.2.tstate = .lost) ∧
      ∀ d sl, (s.getThread d sl).status = .parked .split → (t.getThread d sl).status = .ready)

/-! Events of the host and of launches. -/

/-- R59, R61 to R68, R112: decoders, host reads and writes, back-invalidation, CXL ports and snoops. The model's choices
in it: log 16, 43, 68, 74, 82. -/
def Obligations.HostEvents : Prop :=
  ∀ (s : State) (port : Fin 4) (dec : HdmDecoder) (pa n half : Nat) (wantA : Bool) (d : BitVec 512),
    let legal := (dec.ways = 1 ∨ dec.ways = 2 ∨ dec.ways = 4) ∧ dec.gran ∈ [256, 512, 1024, 2048, 4096, 8192, 16384]
    let same := ∀ q : Fin 4, q ≠ port → s.cxl[q].committed = true →
      (⟨s.cxl[q].hostBase, s.cxl[q].dpaBase, s.cxl[q].size, s.cxl[q].ways, s.cxl[q].gran⟩ : HdmDecoder) = dec
    let plain := s.mem.wf = true ∧ s.tiles = [] ∧ s.lostDies = 0 ∧ s.psect = [] ∧
      ((s.lineAt (pa / 128)).state = 2 ∨ ∀ a, a / 128 = pa / 128 → mapGet s.dirty a = none)
    let bytes := fun (x : BitVec 512) (h : Nat) => ∀ i < 64, x.toNat / 256 ^ i % 256 = (s.physByte (64 * h + i)).toNat
    (s.bootState = 2 → exec (.hdmDecoderCommit port dec) s = .next s ∧ exec (.hostMemRead pa wantA) s = .next s ∧
      exec (.hostMemWrite pa n d) s = .next s) ∧
    (s.bootState ≠ 2 → ∃ t, exec (.hdmDecoderCommit port dec) s = .next t ∧ Undisturbed s t ∧
      (t.cxl[port].committed = true ↔ legal ∧ same) ∧ t.cxl[port].failed = (!t.cxl[port].committed) ∧
      t.cxl[port].up = s.cxl[port].up ∧ t.cxl[port].hostBase = dec.hostBase ∧ t.cxl[port].dpaBase = dec.dpaBase ∧
      t.cxl[port].size = dec.size ∧ t.cxl[port].ways = dec.ways ∧ t.cxl[port].gran = dec.gran ∧
      ∀ q : Fin 4, q ≠ port → t.cxl[q] = s.cxl[q]) ∧
    (s.hostReaches pa = true → s.hostWaits (pa / 64) = true → (s.lineAt (pa / 128)).broken = false →
      exec (.hostMemRead pa wantA) s = .next { s with hostHeld := s.hostHeld ++ [.hostMemRead pa wantA] }) ∧
    (s.hostReaches pa = true → s.hostWaits (pa / 64) = false → s.roomFor (pa / 128) = true → plain →
      ∃ t x, exec (.hostMemRead pa wantA) s = .next t ∧ t.hostState (pa / 64) = (if wantA then 2 else 1) ∧ bytes x (pa / 64) ∧
        t.outbox = s.outbox ++ [.hostData (64 * (pa / 64)) x false (if wantA then 2 else 1)] ∧
        (∀ a, t.physByte a = s.physByte a) ∧ (wantA = true → (t.lineAt (pa / 128)).held = none)) ∧
    (0 < n → pa % 64 + n ≤ 64 → s.hostReaches pa = true → s.hostWaits (pa / 64) = false → plain →
      ∃ t, exec (.hostMemWrite pa n d) s = .next t ∧ t.outbox = s.outbox ++ [.hostDone pa] ∧
        (∀ i < n, (t.physByte (pa + i)).toNat = d.toNat / 256 ^ i % 256) ∧
        ∀ a, ¬(pa ≤ a ∧ a < pa + n) → t.physByte a = s.physByte a) ∧
    (∀ b, s.bisnps.find? (fun b => b.1 == half) = some b →
      exec (.bisnpTimeout half) s = .next { s with agenda := s.agenda ++ [.cxlPortDown (Fin.ofNat 4 b.2.1)] } ∧
      ∃ t, exec (.birspReceive half none) s = .next t ∧ (∀ b ∈ t.bisnps, b.1 ≠ half) ∧ t.hostHeld = [] ∧
        t.hostState half = (if b.2.2 then 1 else 0) ∧ (∀ a, t.physByte a = s.physByte a) ∧
        ∀ c sl, (s.getThread c sl).status = .parked (.bisnp half) →
          (t.getThread c sl).status = .ready ∧ (t.getThread c sl).owes = some half) ∧
    (s.cxl[port].up = true →
      ∃ t, exec (.cxlPortDown port) s = .next t ∧ t.cxl[port].up = false ∧ t.alrtSeq = s.alrtSeq + 1 ∧
        (∀ o ∈ s.outstanding, o.port = some port.val →
          .errorResponseArrival o.core (BitVec.ofNat 10 o.tag) 0x12 ∈ t.agenda) ∧
        ∀ q ∈ s.hostLines, q.2.port = port.val → mapGet t.hostLines q.1 = none) ∧
    (s.cxl[port].up = false → s.fenced.getLsbD (cxlSock port.val) = false → ∃ t, exec (.cxlPortUp port) s = .next t ∧
      t.cxl = s.cxl.set port { s.cxl[port] with up := true, committed := false, failed := false } ∧
      ∀ a, t.physByte a = s.physByte a) ∧
    (∀ v, mapGet s.hostLines half = some v → s.hostTaken (64 * half) = false →
      let x : BitVec 512 := BitVec.ofNat 512 (memRead s.mem (64 * half) 64)
      (∃ t, exec (.snpinv half) s = .next t ∧ t.outbox = s.outbox ++ [.snoopData half x (decide (3 ≤ v.st))] ∧
        mapGet t.hostLines half = none) ∧
      (∃ t, exec (.snpdata half) s = .next t ∧ t.outbox = s.outbox ++ [.snoopData half x (decide (3 ≤ v.st))] ∧
        mapGet t.hostLines half = some { v with st := 1 } ∧ ∀ a, t.physByte a = s.physByte a) ∧
      (∃ t, exec (.snpcur half) s = .next t ∧ t.outbox = s.outbox ++ [.snoopData half x false] ∧
        t.hostLines = s.hostLines ∧ ∀ a, t.physByte a = s.physByte a))

/-- R71 to R75: the mailboxes, and the operations of firmware. The model's choices in it: log 16, 46, 62, 69, 70. -/
def Obligations.MailboxEvents : Prop :=
  ∀ (s : State) (n : Fin 8) (v : Word) (f : Bool) (nonce : BitVec 256) (j : BitVec 6),
    let m := s.mailboxes[n]
    let becomes := fun (t : State) (x : Mailbox) => t.mailboxes = s.mailboxes.set n x ∧ ∀ a, t.physByte a = s.physByte a
    let only := fun (t : State) (x : Mailbox) => becomes t x ∧ t.outbox = s.outbox ∧ t.queues = s.queues
    let asks := fun (op : Nat) => s.bootState = 1 ∧ m.inv = true ∧ m.outv = false ∧ m.mbin.toNat % 256 = op
    let answers := fun (t : State) (op status result : Nat) =>
      becomes t { m with inv := false, outv := true, mbout := BitVec.ofNat 64 (op + 256 * status + 65536 * result) }
    let arg := m.mbin.toNat / 256
    let port := fun (p : Fin 4) => s.cxl[p].up = true ∧ ∀ q : Fin 4, q < p → s.cxl[q].up = false
    let at' := 0x20000 + n.val / 4 * 0x1000000 + 0x1000 * (n.val % 4)
    let body := toBytes 8 s.bootDigests.length ++ s.bootDigests.flatMap (fun d => toBytes 32 d.toNat) ++
      toBytes 8 s.fuseMinSec.toNat ++ s.harvest.toList.flatMap (fun h => toBytes 8 h.toNat) ++ toBytes 32 nonce.toNat
    (s.bootState = 2 → s.barRead at' = none ∧ exec (.mbinWrite n v) s = .next s ∧ exec (.mbstatClearOutv n) s = .next s) ∧
    (s.bootState ≠ 2 → s.barRead at' = some m.mbin ∧ s.barRead (at' + 8) = some m.mbout ∧ s.barRead 0 = some 0) ∧
    (s.bootState ≠ 2 → m.inv = false → ∃ t, exec (.mbinWrite n v) s = .next t ∧ only t { m with mbin := v, inv := true } ∧
      ∀ c sl (i : Fin 4), (s.getThread c sl).status = .ready → (s.getThread c sl).watch[i].armed = true →
        (s.getThread c sl).watch[i].polled = false →
        (s.getThread c sl).watch[i].line = (s.pkgid.toNat * 2 ^ 44 + 0xF0014000000 + at') / 128 →
        (t.getThread c sl).watch[i].triggered = true) ∧
    (s.bootState ≠ 2 → m.inv = true → ∃ t, exec (.mbinWrite n v) s = .next t ∧ only t { m with inovf := true }) ∧
    (m.outv = true → ∃ t, exec (.mboutWrite n v) s = .next t ∧ only t { m with outovf := true }) ∧
    (m.outv = false → ∃ t, exec (.mboutWrite n v) s = .next t ∧ becomes t { m with mbout := v, outv := true } ∧
      (∀ p, m.ien = true → port p → t.outbox = s.outbox ++ [.msix p.val n.val]) ∧
      (m.ien = false → t.outbox = s.outbox)) ∧
    (∃ t, exec (.mbstatClearInv n) s = .next t ∧ only t { m with inv := false }) ∧
    (s.bootState ≠ 2 → ∃ t, exec (.mbstatClearOutv n) s = .next t ∧ only t { m with outv := false }) ∧
    (s.bootState ≠ 2 → ∃ t, exec (.mbstatClearOvf n f) s = .next t ∧
      only t { m with inovf := m.inovf && !f, outovf := m.outovf && f }) ∧
    (asks 1 → ∃ t, exec (.mbAttestationReport n nonce) s = .next t ∧
      .report (s.hostPort (arg * 256 + 32)) (arg * 256 + 32) (body ++ toBytes 64 (Config.sm2Sign body).toNat) ∈ t.outbox ∧
      answers t 1 0 (240 + 32 * s.bootDigests.length) ∧
      ∀ p, s.hostPort (arg * 256) = some p → .cxlRead .rdCurr p (arg * 256) 32 ∈ t.outbox) ∧
    (asks 2 → 3 ≤ j.toNat → j.toNat ≤ 16 → ∀ i < 256, (∀ q ∈ s.queues, q.num ≠ i) → (∀ k < i, ∃ q ∈ s.queues, q.num = k) →
      ∃ t, exec (.mbAttachLaunchQueue n j) s = .next t ∧ t.queues = s.queues ++ [⟨i, arg * 256, n.val⟩] ∧ answers t 2 0 i) ∧
    (asks 2 → ¬(3 ≤ j.toNat ∧ j.toNat ≤ 16) →
      ∃ t, exec (.mbAttachLaunchQueue n j) s = .next t ∧ t.queues = s.queues ∧ answers t 2 2 0) ∧
    (asks 3 → (∃ q ∈ s.queues, q.num = arg % 256) →
      ∃ t, exec (.mbDetachLaunchQueue n) s = .next t ∧ t.queues = s.queues.filter (fun q => q.num != arg % 256) ∧
        answers t 3 0 0) ∧
    (asks 3 → (∀ q ∈ s.queues, q.num ≠ arg % 256) →
      ∃ t, exec (.mbDetachLaunchQueue n) s = .next t ∧ t.queues = s.queues ∧ answers t 3 2 0) ∧
    (s.bootState ≠ 1 → exec (.mbAttestationReport n nonce) s = .next s ∧ exec (.mbAttachLaunchQueue n j) s = .next s ∧
      exec (.mbDetachLaunchQueue n) s = .next s ∧ exec (.mbUnknownOp n) s = .next s) ∧
    (∀ op, asks op → (op = 0 ∨ 3 < op) → ∃ t, exec (.mbUnknownOp n) s = .next t ∧ t.queues = s.queues ∧ answers t op 1 0)

/-- R38, R79, R187 to R199: dealing, bands, dispatch, retirement, the completion of a launch, and stealing. The model's
choices in it: log 7, 36, 54, 65. -/
def Obligations.LaunchEvents : Prop :=
  ∀ (s : State) (h : Nat) (l : Launch) (c : CoreId) (team : Nat),
    let ps := s.positions l.partn l.gangw
    let core := fun (t : State) => t.getCore c
    (s.launchAt h = some l → l.aborted = false → l.next < l.ntask → s.partRuns l.partn = true →
      (l.bandg = 0 →
        (∀ p n, ps[l.next % ps.length]? = some p → (s.getCore p.lead).deque.length < 32 → (s.readNrng p.lead l).1 = .value n →
          let u := (s.readNrng p.lead l).2
          ∃ t, exec (.dealTask h) s = .next t ∧
            (t.getCore p.lead).deque = (u.getCore p.lead).deque ++ [{
              pc := l.entry, a0 := l.args, a1 := BitVec.ofNat 64 l.next, sp := 0, fmtp := l.fmtctx, rngp := l.args + 8,
              joinp := 0, task := BitVec.ofNat 32 l.next, lh := h, thread := false, nrng := n }] ∧
            (∀ d, d ≠ p.lead → t.getCore d = u.getCore d) ∧
            mapGet t.launches h = some { l with next := l.next + 1, live := l.live + 1 } ∧ .taskDispatch p.lead ∈ t.agenda) ∧
        (∀ p, ps[l.next % ps.length]? = some p → 32 ≤ (s.getCore p.lead).deque.length →
          exec (.dealTask h) s = .next { s with hostHeld := s.hostHeld ++ [.dealTask h] })) ∧
      (∀ id, l.bandg ≠ 0 → s.freeCauseway = some id →
        let n := min l.bandg (l.ntask - l.next)
        let able := (ps.filter fun p => p.cores.all fun c => s.admits c l.team l.poolpart).take n
        let lead := (able.head?.map (·.lead)).getD 0
        let cores := able.flatMap (·.cores)
        (able.length < n → exec (.bandAdmit h) s = .next { s with hostHeld := s.hostHeld ++ [.bandAdmit h] }) ∧
        (∀ k x, able.length = n → s.ctxtEn = true → (s.readNrng lead l).1 = .value k →
          ((s.readNrng lead l).2.readStart lead l (dealtRec h l l.next k)).1 = some x →
          ∃ t, exec (.bandAdmit h) s = .next t ∧ t.causeway[id] = ⟨true, cores.length, 0, 0, false, false, false⟩ ∧
            (id.val, h, cores, n) ∈ t.bands))) ∧
    (∀ r cs x, isCmd c = false → s.coreOff c = false → s.ctxtEn = true → s.pickRec c (s.getCore c).deque = some (r, cs) →
      (s.getCore c).child = none → (∀ d ∈ cs, s.restoreFirst d (s.prioOf r) = false) → s.launchAt r.lh = some l →
      (s.readStart (cs.headD c) l r).1 = some x →
      (exec (.taskDispatch c) s = .next ((((((s.readStart (cs.headD c) l r).2.popRec c r).startTask r l cs none x).requeueHeld).later
        (.taskDispatch c)))) ∧
      ∀ (g m tm tid : Nat) (xs : List Extent),
        let th := (⟨r, l, cs, none, x.1, x.2.filterMap fun d => d.at r.task.toNat⟩ : Start).thread g m tm tid xs
        let x12 := if r.thread then 0 else g * l.team + m
        th.pc = r.pc ∧ th.mode = .user ∧ th.allot = 0 ∧ th.log = [] ∧ Clean th.regs ∧ th.regs.rk 0 = BitVec.allOnes 256 ∧
          (∀ i : KReg, i ≠ 0 → th.regs.rk i = 0) ∧ (∀ i : Fin 4, th.regs.b[i] = 0) ∧
          ∀ i : Reg, th.regs.rx i = if i = 2 then r.sp else if i = 10 then r.a0 else if i = 11 then r.a1
            else if i = 12 then BitVec.ofNat 64 x12 else 0) ∧
    (∀ tm, s.teamAt c team = some tm →
      let ts := s.taskTeams c tm
      s.launchHalted tm.lh = false → s.allStopped ts = true →
      ∃ t, exec (.taskRetire c team) s = .next t ∧
        (∀ p ∈ ts, (∀ x ∈ (t.getCore p.1).teams, x.id ≠ p.2) ∧
          ∀ sl, (s.getThread p.1 sl).team = p.2 → (t.getThread p.1 sl).status = .empty) ∧
        (s.launchAt tm.lh = some l → mapGet t.launches tm.lh = some { l with live := l.live - 1 } ∧
          (l.live = 1 → l.next = l.ntask → .launchComplete tm.lh ∈ t.agenda))) ∧
    (s.launchAt h = some l → s.launchHalted h = true →
      exec (.launchComplete h) s = .next { s with hostHeld := s.hostHeld ++ [.launchComplete h] }) ∧
    (s.launchAt h = some l → s.launchHalted h = false → l.live = 0 → (l.aborted = true ∨ l.next = l.ntask) →
      s.doneOut l.sup = false →
      (2 ≤ l.told → ∃ t, exec (.launchComplete h) s = .next t ∧ mapGet t.launches h = none ∧ ∀ a, t.physByte a = s.physByte a) ∧
      (l.told < 2 →
        let w := (s.finishKills (cmdCore l.sup) (engTid (doneId l.sup))).doneWrite l (l.told == 1)
        let goes := fun (u : State) => exec (.launchComplete h) s = .next { u with
          launches := mapSet u.launches h { l with told := l.told + 1 }, agenda := u.agenda ++ [.launchComplete h] }
        (w.1 = .value () → goes w.2) ∧
        ∀ f va pa, w.1 = .fail f va pa → goes (w.2.doneFails (cmdCore l.sup) l.sup f.cause l.ctx va pa))) ∧
    (isCmd c = false → s.lctLock = true → s.ctxtEn = true → s.partDies (c / 64) ≠ 0 → s.siteOn (c / 64) (c % 64) = true →
      s.idleCore c = true →
      exec (.stealRequest c) s = .next ((s.onCore c fun k => { k with stealOut := true }).later (.stealReply c))) ∧
    ((core s).stealOut = true → ∀ v, (s.stealVictims c)[(core s).stealNext]? = some v →
      (∀ r, s.stolen c v = some r →
        ∃ t, exec (.stealReply c) s = .next t ∧ (core t).deque = r :: (core s).deque ∧
          (t.getCore v).deque = ((s.getCore v).deque.reverse.erase r).reverse ∧ (core t).stealOut = false ∧ .taskDispatch c ∈ t.agenda) ∧
      (s.stolen c v = none →
        (∀ w, (s.stealVictims c)[(core s).stealNext + 1]? = some w → ∃ t, exec (.stealReply c) s = .next t ∧
          core t = { core s with stealNext := (core s).stealNext + 1 } ∧ t.agenda = s.agenda ++ [.stealRequest c]) ∧
        ((s.stealVictims c)[(core s).stealNext + 1]? = none → ∃ t, exec (.stealReply c) s = .next t ∧
          core t = { core s with stealNext := 0, stealOut := false, stealWait := some (s.cycles + 1024) } ∧
          t.agenda = s.agenda))) ∧
    (∀ n, (core s).stealWait = some n → n ≤ s.cycles →
      ∃ t, exec (.stealRetryTimer c) s = .next t ∧ (core t).stealWait = none ∧ (core t).stealNext = 0 ∧
        (core t).deque = (core s).deque)

/-! Events of homes, die caches and tiles. -/

/-- R61, R90, R91, R107 to R115, R123: requests at a home, holders, watching and kills, walks, channels and line errors.
The model's choices in it: log 7, 11, 52, 60, 71. -/
def Obligations.HomeEvents : Prop :=
  ∀ (s : State) (c : CoreId) (pa line ix : Nat) (die : Fin 16) (d : Fin 24) (ch : Fin 64) (sl : Fin 8) (va : Word)
    (res : WalkResult) (tags : List (BitVec 16)),
    let same := fun (t : State) => ∀ a, t.physByte a = s.physByte a
    let oldest := fun (p : Pending) => (∀ q ∈ s.rerun, p.msg.seq < (s.getThread q.1 q.2).came) ∧
      ∀ k, ∀ q ∈ (s.getCore k).inflight, p.msg.seq ≤ q.msg.seq ∨
        ((k / 64 = c / 64 → q.msg.pa / 65536 ≠ p.msg.pa / 65536) ∧
          ((q.msg.pa + q.msg.n - 1) / 128 < p.msg.pa / 128 ∨ (p.msg.pa + p.msg.n - 1) / 128 < q.msg.pa / 128))
    let clean := fun (l : Nat) => (s.lineAt l).state = 2 ∨ ∀ a, a / 128 = l → mapGet s.dirty a = none
    (Calm s → s.isDevMem pa = true → c / 64 < 24 → c % 64 ≠ 36 → (c / 64 < 20 → s.roomFor (pa / 128) = true) →
      ∃ t, exec (.homeLineRead c pa) s = .next t ∧ same t ∧
      (∀ h, (s.lineAt (pa / 128)).held = some h → (t.lineAt (pa / 128)).held = some h) ∧
      ((s.lineAt (pa / 128)).held = none → c / 64 < 16 →
        (t.lineAt (pa / 128)).held = some (c / 64) ∧ (t.lineAt (pa / 128)).state = 1) ∧
      ((s.lineAt (pa / 128)).held = none → 20 ≤ c / 64 → (t.lineAt (pa / 128)).held = none)) ∧
    (∀ p, (s.getCore c).inflight[ix]? = some p → Calm s → oldest p → s.mem.wf = true → s.isDevMem p.msg.pa = true → 0 < p.msg.n →
      clean (p.msg.pa / 128) → clean ((p.msg.pa + p.msg.n - 1) / 128) → p.msg.n ≤ 128 →
      s.roomFor (p.msg.pa / 128) = true → s.roomFor ((p.msg.pa + p.msg.n - 1) / 128) = true →
      ∃ t, exec (.homeLineStore c ix) s = .next t ∧ (t.getCore c).inflight = (s.getCore c).inflight.erase p ∧
        (∀ i < p.msg.n, (t.physByte (p.msg.pa + i)).toNat = p.msg.data.toNat / 256 ^ i % 256) ∧
        ∀ a, ¬(p.msg.pa ≤ a ∧ a < p.msg.pa + p.msg.n) → t.physByte a = s.physByte a) ∧
    (s.mem.wf = true → ∃ t, exec (.lineWriteBack line) s = .next t ∧ same t ∧ (t.lineAt line).held = none ∧
      ∀ k ∈ s.coreList, ∀ x ∈ (t.getCore k).ccache, x.line ≠ line) ∧
    (∀ h, (s.lineAt line).held = some h → h ≠ die.val → 16 ≤ (s.lineAt line).away → (s.lineAt line).awayDie = die.val →
      s.mem.wf = true → ∃ t, exec (.lineMigration line die) s = .next t ∧ same t ∧ (t.lineAt line).held = some die.val) ∧
    (regionOf (128 * line) = .host →
      (∀ p, s.hostPort (128 * line) = some p → (s.outstanding.filter fun o => o.port == some p).length + 2 ≤ 256) →
      ∃ t, exec (.dieCacheEviction line 0) s = .next t ∧
      (∀ h, h / 2 = line → mapGet t.hostLines h = none) ∧
      ∀ h, h / 2 ≠ line → mapGet t.hostLines h = mapGet s.hostLines h) ∧
    (regionOf (128 * line) ≠ .host → s.tiles = [] → s.mem.wf = true →
      (∃ t, exec (.dieCacheEviction line 0) s = .next t ∧ same t ∧ (t.lineAt line).held = none ∧ t.psect = s.psect ∧
        t.alrtSeq = s.alrtSeq) ∧
      ∀ (bad : BitVec 8) (j : Nat), (s.lineAt line).state = 2 → j < 8 → bad.getLsbD j = true →
        (s.lineAt line).dirty.getLsbD j = true → ∃ t, exec (.dieCacheEviction line bad) s = .next t ∧
          (t.lineAt line).held = none ∧ 8 * line + j ∈ t.psect ∧ t.alrtSeq = s.alrtSeq + 1) ∧
    (Calm s → s.isDevMem (128 * line) = true →
      (∃ t, exec (.homeDiscard line) s = .next t ∧ (t.lineAt line).held = none ∧
        (∀ a, a / 128 = line → t.physByte a = memByte s.mem a) ∧ ∀ a, a / 128 ≠ line → t.physByte a = s.physByte a) ∧
      ((s.lineAt line).held = none → s.roomFor line = true → ∃ t, exec (.dieCachePrefetch die line) s = .next t ∧ same t ∧
        (t.lineAt line).held = some die.val)) ∧
    (s.channels[ch].buffer = [] → exec (.memoryChannelServe ch) s = .next s) ∧
    (s.channels[ch].buffer ≠ [] → ∃ a ∈ s.channels[ch].buffer,
      ((s.channels[ch].openPage = some (Config.dramPage a.1)) ∨
        ((∀ b ∈ s.channels[ch].buffer, s.channels[ch].openPage ≠ some (Config.dramPage b.1)) ∧
          s.channels[ch].buffer.head? = some a)) ∧
      exec (.memoryChannelServe ch) s = .next { s with
        channels := s.channels.set ch { buffer := s.channels[ch].buffer.erase a, openPage := some (Config.dramPage a.1) } }) ∧
    (s.tableReadable pa = true → (d.val < 16 ∨ d.val = 20 ∨ d.val = 21) → s.roomFor (pa / 128) = true →
      ∃ t, exec (.walkRead d pa) s = .next t ∧ same t ∧
      (t.lineAt (pa / 128)).wat = true ∧ (t.lineAt (pa / 128)).wset.getLsbD (if d.val < 16 then d.val else d.val - 4) = true ∧
      (t.lineAt (pa / 128)).held = (s.lineAt (pa / 128)).held) ∧
    (∀ cores, s.coreMaps.find? (fun p => p.1 == d.val && p.2.1 == line) = some (d.val, line, cores) →
      ∃ t, exec (.translationKill d line) s = .next t ∧ same t ∧ t.agenda = s.agenda ++ [.killAck d line] ∧
        (∀ k ∈ t.kills, k.die = d.val → k.line = line → k.reached = true) ∧
        ∀ k ∈ cores, k ∈ s.coreList → (∀ e ∈ (t.getCore k).tlb, line ∉ e.lines) ∧
          ∀ i, ∀ x ∈ (t.getThread k i).extents, line ∉ x.lines) ∧
    ((∃ k ∈ s.kills, k.die = d.val ∧ k.line = line ∧ k.reached = true) → ∃ t, exec (.killAck d line) s = .next t ∧ same t ∧
      t.kills = s.kills.filter (fun k => !(k.die == d.val && k.line == line)) ∧
      ((∀ k ∈ s.kills, k.line = line → k.die = d.val) → ((t.lineAt line).wat = true ↔ (s.lineAt line).fresh ≠ 0) ∧
        (t.lineAt line).wset = (s.lineAt line).fresh) ∧
      ∀ k i, (∃ l, (s.getThread k i).status = .parked (.counters l)) → (t.getThread k i).status = .ready) ∧
    ((s.getThread c sl).status = .parked .walk → ∃ t, exec (.walkComplete c sl va res) s = .next t ∧
      (t.getThread c sl).status = .ready ∧ (t.getThread c sl).pc = (s.getThread c sl).pc ∧ same t ∧
      (∀ l, (s.walk c (s.getThread c sl).ctx va).1 = .ok l → res = .leaf l.pbase l.bits l.log2 →
        ∃ e ∈ (t.getCore c).tlb, e.hits sl.val (s.getThread c sl).ctx va = true ∧ e.asLeaf = l) ∧
      ∀ f, (s.walk c (s.getThread c sl).ctx va).1 = .error f → res = .fail f.cause f.detail →
        (va.toNat / 65536, f.cause, f.detail) ∈ (t.getThread c sl).walked) ∧
    (s.hostState (2 * line) = 0 → s.hostState (2 * line + 1) = 0 → s.tiles = [] → s.mem.wf = true →
      ∃ t, exec (.lineEntryUncorrectable line tags) s = .next t ∧ (t.lineAt line).held = none ∧ (t.lineAt line).wat = true ∧
        (t.lineAt line).wset = BitVec.allOnes 18 ∧
        (tags = [] → (∀ a, a / 128 = line → t.physByte a = memByte s.mem a) ∧ ∀ a, a / 128 ≠ line → t.physByte a = s.physByte a) ∧
        (tags.length = 1 → same t) ∧
        (2 ≤ tags.length → t.alrtSeq = s.alrtSeq + 1)) ∧
    (s.liveMask.getLsbD d.val = true → ∀ p : Fin 4, s.cxl[p].up = true → (∀ q : Fin 4, q < p → s.cxl[q].up = false) →
      exec (.correctableError d) s = .next { s with outbox := s.outbox ++ [.aer false p.val] })

/-- R92, R98, R100 to R104, R111: accesses to tiles, pushes, shadow frames, publication, replicas, and tile errors. The
model's choices in it: log 7, 40. -/
def Obligations.TileEvents : Prop :=
  ∀ (s : State) (c : CoreId) (pa n pb : Nat) (die : Fin 16) (cause : Byte) (data : BitVec 128) (t0 : Tile),
    let frames := fun (t : State) => t.mem = s.mem ∧ t.dirty = s.dirty ∧ t.shadow = s.shadow
    let tile := fun (t : State) => mapGet t.tiles pb
    let ready := fun (t : State) (w : Wait) (step : Word) => ∀ k i, (s.getThread k i).status = .parked w →
      (t.getThread k i).status = .ready ∧ (t.getThread k i).pc = (s.getThread k i).pc + step
    let serves := s.lostDies = 0 ∧ s.fenced = 0 ∧ s.splitWait = none ∧ s.psect = [] ∧ s.bisnps = [] ∧ (∀ h, s.hostState h = 0) ∧
      ∀ l, (s.lineAt l).state ≠ 3
    (serves → s.tileOver pa = some (pb, t0) → (∀ p ∈ s.tiles, p.2.tstate ≠ .inForward) →
      ∃ t, exec (.homeTileAccess c pa false) s = .next t ∧ frames t ∧ t.tiles = s.tiles) ∧
    (∀ p, serves → s.mem.wf = true → (s.getCore c).inflight.find? (fun p => decide (p.msg.pa ≤ pa ∧ pa < p.msg.pa + p.msg.n)) = some p →
      (∀ q ∈ s.rerun, p.msg.seq < (s.getThread q.1 q.2).came) →
      (∀ k, ∀ q ∈ (s.getCore k).inflight, p.msg.seq ≤ q.msg.seq ∨
        ((k / 64 = c / 64 → q.msg.pa / 65536 ≠ p.msg.pa / 65536) ∧
          ((q.msg.pa + q.msg.n - 1) / 128 < p.msg.pa / 128 ∨ (p.msg.pa + p.msg.n - 1) / 128 < q.msg.pa / 128))) →
      s.isDevMem p.msg.pa = true → p.msg.pa % 16 + p.msg.n ≤ 16 → (∀ i < 16, s.tileOver (p.msg.pa / 16 * 16 + i) = some (pb, t0)) →
      p.msg.amo = none → t0.tstate = .owned → (∀ x, mapGet t0.tags (p.msg.pa / 128) = some x → x = p.msg.ctx) →
      ∃ t, exec (.homeTileAccess c pa true) s = .next t ∧
        (∃ t1, tile t = some t1 ∧ t1 = { t0 with tags := t1.tags } ∧ mapGet t1.tags (p.msg.pa / 128) = some p.msg.ctx) ∧
        (t.getCore c).inflight = (s.getCore c).inflight.erase p ∧
        (∀ i < p.msg.n, (t.physByte (p.msg.pa + i)).toNat = p.msg.data.toNat / 256 ^ i % 256) ∧
        ∀ a, ¬(p.msg.pa ≤ a ∧ a < p.msg.pa + p.msg.n) → t.physByte a = s.physByte a) ∧
    (mapGet s.tiles pb = some t0 → t0.tstate = .inForward →
      (s.dieGone (t0.ftgt / 64) = false → ∃ t, exec (.tilePushAck pb) s = .next t ∧ frames t ∧ tile t = some { t0 with tstate := .owned, owner := t0.ftgt } ∧
        (∀ va, ready t (.tfwd pb va) 4) ∧ ready t (.tile pb) 0 ∧
        ∃ e, (∀ i ∈ e, ∃ l, i = .dieCacheEviction l 0) ∧ t.agenda = s.agenda ++ e ++ s.hostHeld) ∧
      ((∀ k i va, (s.getThread k i).status ≠ .parked (.tfwd pb va)) → ∃ t, exec (.tilePushError pb cause) s = .next t ∧
        tile t = some { t0 with tstate := t0.prev, owner := t0.prevOwner } ∧ ready t (.tile pb) 0 ∧ t.hostHeld = []) ∧
      (∀ k ∈ s.coreList, ∀ i va, (s.getThread k i).status = .parked (.tfwd pb va) → (s.getThread k i).held = [] →
        (∀ k' i' va', (s.getThread k' i').status = .parked (.tfwd pb va') → k' = k ∧ i' = i) →
        (∀ x e, s.ctxEntry x = some e → ∀ a, (e.addr ≤ a ∧ a < e.addr + 64) ∨ (e.fqbase ≤ a ∧ a < e.fqbase + 64 * e.n) →
          s.tileOver a = none) →
        ∃ t, exec (.tilePushError pb cause) s = .next t ∧ tile t = some { t0 with tstate := t0.prev, owner := t0.prevOwner } ∧
          ready t (.tile pb) 0 ∧ t.hostHeld = [] ∧ (t.getThread k i).pc = (s.getThread k i).pc ∧
          (t.getThread k i).regs = (s.getThread k i).regs ∧
          (((t.getThread k i).status = .parked .fault ∧ ∃ h ∈ (t.getThread k i).held, h.raised = true ∧ h.acked = false ∧
              h.ctx = (s.getThread k i).ctx ∧ h.pc = (s.getThread k i).pc) ∨
            ((t.getThread k i).status = .parked (.fqSpace (s.getThread k i).ctx) ∧ ∃ q ∈ t.fqWait, q.core = k ∧ q.slot = i ∧
              q.entry.cause = cause ∧ q.entry.fva = va ∧ q.entry.fpc = (s.getThread k i).pc ∧ q.entry.stat = 1)))) ∧
    (serves → s.tileOver pa = some (pb, t0) → t0.shad = true → t0.tstate ≠ .inForward → s.mem.wf = true →
      ∃ t, exec (.shadowFrameWrite pa n data) s = .next t ∧
        (∀ i < n, (t0.gen = true → memByte t.mem (pa + i) = BitVec.ofNat 8 (data.toNat / 256 ^ i)) ∧
          (t0.gen = false → mapGet t.shadow (t0.frameByte pb (pa + i)) = some (BitVec.ofNat 8 (data.toNat / 256 ^ i)))) ∧
        (t0.tstate ≠ .shadowed → tile t = some { t0 with tstate := .shadowed, tags := [] }) ∧
        (s.tiles = [(pb, t0)] → t0.gen = false → ∀ a, t.physByte a = s.physByte a)) ∧
    (serves → s.tileOver pa = some (pb, t0) → t0.shad = true → t0.tstate = .inForward → ∃ t,
      exec (.shadowFrameWrite pa n data) s = .next t ∧ frames t ∧ t.tiles = s.tiles ∧
      t.hostHeld = s.hostHeld ++ [.shadowFrameWrite pa n data]) ∧
    (mapGet s.tiles pb = some t0 → t0.tstate = .shadowed → t0.neighbours = [] →
      ∃ t, exec (.publGenToggle pb) s = .next t ∧ frames t ∧ tile t = some { t0 with gen := !t0.gen, tstate := .home } ∧
        (∀ r ∈ t.replicas, r.pbase ≠ pb) ∧ ready t (.publ pb false) 4) ∧
    (∀ k ∈ t0.neighbours, mapGet s.tiles pb = some t0 → t0.tstate = .shadowed → k / 64 ≠ homeOf pb →
      (∃ q ∈ t0.sectors pb, t0.inHalo pb q = true) →
      ∃ t, exec (.publGenToggle pb) s = .next t ∧ frames t ∧ tile t = some { t0 with gen := !t0.gen, tstate := .home } ∧
        (∃ r ∈ t.replicas, r.pbase = pb ∧ r.die = k / 64 ∧ r.pushed = true ∧ ∀ q ∈ t0.sectors pb, t0.inHalo pb q = true →
          mapGet r.sectors (q / 16) = some (BitVec.ofNat 128 (t.physRead q 16))) ∧
        .haloPushAck pb (Fin.ofNat 16 (k / 64)) ∈ t.agenda ∧
        ∀ j i, (s.getThread j i).status = .parked (.publ pb false) →
          (t.getThread j i).status = .parked (.publ pb true) ∧ (t.getThread j i).pc = (s.getThread j i).pc) ∧
    (mapGet s.tiles pb = some t0 →
      ∃ t, exec (.haloPushAck pb die) s = .next t ∧ frames t ∧ t.tiles = s.tiles ∧
        t.replicas = s.replicas.map (fun r => if r.pbase == pb && r.die == die.val then { r with pushed := false } else r) ∧
        ((∀ r ∈ t.replicas, r.pbase = pb → r.pushed = false) → ready t (.publ pb true) 4)) ∧
    (∀ r, mapGet s.tiles pb = some t0 → mapGet s.declRecs pb = some r →
      (∃ t, exec (.tileEntryUncorrectable pb true true) s = .next t ∧ frames t ∧
        tile t = some { r with tstate := .owned, owner := t0.owner, sfrm := t0.sfrm, tags := t0.tags }) ∧
      (s.tiles = [(pb, t0)] → ∃ t, exec (.tileEntryUncorrectable pb true false) s = .next t ∧
        tile t = some { r with tstate := .lost, sfrm := t0.sfrm, tags := [] } ∧ t.alrtSeq = s.alrtSeq + 1) ∧
      (∃ t, exec (.tileEntryUncorrectable pb false false) s = .next t ∧ t.mem = s.mem ∧ t.shadow = s.shadow ∧ tile t = none ∧
        (∀ pa ∈ t0.sectors pb, ∀ i < 16, mapGet t.dirty (pa + i) = none) ∧ mapGet t.declRecs pb = none ∧
        t.alrtSeq = s.alrtSeq + 1))

/-! Events of faults, of spills, of migration and of couriers. -/

/-- R110, R126, R132 to R138, R140, R143, R144: the fault queues, notices, replay, remote stores, and errors of a team.
The model's choices in it: log 38, 45. -/
def Obligations.FaultEvents : Prop :=
  ∀ (s : State) (c : CoreId) (sl : Fin 8) (ctx : BitVec 16) (die : Fin 24) (cause : Byte) (detail : Word) (w : WriteMsg)
    (r : FaultRec) (team : Nat),
    let th := s.getThread c sl
    let clean := fun (l : Nat) => (s.lineAt l).state = 2 ∨ ∀ a, a / 128 = l → mapGet s.dirty a = none
    (∀ e, (s.ctxReady s.th.ctx).1 = none → s.ctxEntry s.th.ctx = some e → e.addr % 64 = 0 → (∀ q ∈ s.fqWait, q.entry.ctx ≠ s.th.ctx) →
      Calm s → s.mem.wf = true → s.th.held = [] →
      let tail := leRead s.physByte (e.addr + 0x10) 8
      let head := leRead s.physByte (e.addr + 0x18) 8
      let a := e.fqbase + 64 * (tail % e.n)
      (tail + 2 ^ 64 - head) % 2 ^ 64 ≠ e.n → a / 128 ≠ e.addr / 128 → clean (a / 128) → clean (e.addr / 128) →
      let words : List Nat := [cause.toNat + 256 + 65536 * s.th.ctx.toNat, s.th.pc.toNat, s.th.pc.toNat, s.th.pc.toNat,
        s.pkgid.toNat + 256 * (s.loc / 64 % 32) + 8192 * (s.loc % 64) + 524288 * s.slot.val, 0, detail.toNat,
        if s.th.kind = .strand then 0 else s.th.task.toNat]
      ∃ t, exec (.fetchFault cause detail) s = .next t ∧ t.th.status = .parked .fault ∧ t.th.pc = s.th.pc ∧
        t.th.regs = s.th.regs ∧ (t.th.held.map fun h => (h.ctx, h.index, h.raised)) = [(s.th.ctx, BitVec.ofNat 64 tail, true)] ∧
        (∀ i, (hi : i < words.length) → leRead t.physByte (a + 8 * i) 8 = words[i]) ∧
        leRead t.physByte (e.addr + 0x10) 8 = (tail + 1) % 2 ^ 64 ∧
        ∀ q, ¬(a ≤ q ∧ q < a + 64) → ¬(e.addr + 0x10 ≤ q ∧ q < e.addr + 0x18) → t.physByte q = s.physByte q) ∧
    ((∀ q ∈ s.fqWait, q.entry.ctx ≠ ctx) → (∀ x ∈ s.statWait, x.ctx ≠ ctx) → exec (.faultQueueSpace ctx) s = .next { s with
      agenda := s.agenda ++ s.hostHeld, hostHeld := [] }) ∧
    (∀ q rest ix, s.fqWait = q :: rest → q.entry.ctx = ctx → (∀ p ∈ rest, p.entry.ctx ≠ ctx) → (∀ x ∈ s.statWait, x.ctx ≠ ctx) → q.entry.stat ≠ 2 →
      (s.fqWrite q.entry).1 = some ix → q.copy = none → (s.getThread q.core q.slot).status = .parked (.fqSpace ctx) →
      ∃ t, exec (.faultQueueSpace ctx) s = .next t ∧ t.fqWait = rest ∧
        (∃ h, (t.getThread q.core q.slot).held = (s.getThread q.core q.slot).held ++ [h] ∧ h.index = ix ∧
          h.raised = (q.entry.stat == 1)) ∧
        (∀ op after, q.load = some op → q.after = some after → (t.getThread q.core q.slot).status = .ready ∧
          (t.getThread q.core q.slot).pc = (s.getThread q.core q.slot).pc + 4 ∧
          (t.getThread q.core q.slot).regs = after.poisonLoad op q.lanes (BitVec.ofNat 21 (ix.toNat % 65536)))) ∧
    (∀ e rest ix, (s.noticesOf die.val).entries = e :: rest → e.ctx = ctx → (∀ x ∈ rest, x.ctx ≠ ctx) →
      (s.fqWrite e).1 = some ix →
      ∃ t, exec (.noticeStoreDrain die ctx) s = .next t ∧ (t.noticesOf die.val).entries = rest ∧
        (t.noticesOf die.val).dropped = (s.noticesOf die.val).dropped) ∧
    ((s.noticesOf die.val).dropped ≠ 0 → ∃ t, exec (.noticeDropAlert die) s = .next t ∧ Undisturbed s t ∧
      (t.noticesOf die.val).entries = (s.noticesOf die.val).entries ∧ (t.noticesOf die.val).dropped = 0 ∧
      t.alrtSeq = s.alrtSeq + 1) ∧
    (th.status = .parked .fault → th.allAcked = true → th.dispatchFault = none → th.log = [] →
      ((∀ h ∈ th.held, h.raised = true ∧ h.load = none ∧ h.copy = none ∧ h.write = none) → Clean th.regs →
        ∃ t, exec (.taskReplay c sl) s = .next t ∧ (t.getThread c sl).status = .ready ∧ (t.getThread c sl).pc = th.pc ∧
          (t.getThread c sl).held = [] ∧ ((t.getThread c sl).regs = th.regs) ∧ ∀ a, t.physByte a = s.physByte a) ∧
      (∀ h d va n sg v, th.held = [h] → h.raised = true → h.value = none → h.orig = none → h.copy = none → h.write = none →
        h.load = some (.scalar d va n sg) → (((s.focus c sl).onTh fun t => { t with
          walked := if t.rewalk then t.walked else [], rewalk := false }).loadVa va n).1 = .value v →
        th.regs.rxp d = some (BitVec.ofNat 21 (h.index.toNat % 65536)) → (∀ i, i ≠ d → th.regs.rxp i = none) →
        ∃ t, exec (.taskReplay c sl) s = .next t ∧ (t.getThread c sl).status = .ready ∧ (t.getThread c sl).pc = th.pc ∧
          (t.getThread c sl).held = [] ∧ (t.getThread c sl).regs.rxp d = none ∧
          (t.getThread c sl).regs.rx d = extended n sg v ∧ ∀ i, i ≠ d → (t.getThread c sl).regs.rx i = th.regs.rx i)) ∧
    (s.fenced.getLsbD (homeOf w.pa) = true → exec (.remoteStoreArrival c sl w true) s = .next s) ∧
    (s.fenced.getLsbD (homeOf w.pa) = false → Calm s → s.mem.wf = true → w.amo = none → s.isDevMem w.pa = true → 0 < w.n → w.n ≤ 128 →
      clean (w.pa / 128) → clean ((w.pa + w.n - 1) / 128) →
      ∃ t, exec (.remoteStoreArrival c sl w true) s = .next t ∧
        (∀ i < w.n, (t.physByte (w.pa + i)).toNat = w.data.toNat / 256 ^ i % 256) ∧
        (∀ a, ¬(w.pa ≤ a ∧ a < w.pa + w.n) → t.physByte a = s.physByte a) ∧
        ∀ o, s.outstanding.find? (fun o => o.core == c && o.write == some w) = some o →
          .responseArrival c (BitVec.ofNat 10 o.tag) 0 ∈ t.agenda) ∧
    (s.fenced.getLsbD (homeOf w.pa) = false → ∃ t x, exec (.remoteStoreArrival c sl w false) s = .next t ∧
      t.outstanding = s.outstanding ∧ x.cause = 0x14 ∧ x.write = w ∧ .remoteFaultRecord c sl x ∈ t.agenda) ∧
    (th.status ≠ .empty → (r.tid = none ∨ r.tid = some th.order) → ∃ t, exec (.remoteFaultRecord c sl r) s = .next t ∧
      (t.getThread c sl).records = th.records ++ [{ r with tid := some th.order }] ∧
      (t.getThread c sl).regs = th.regs ∧ (∀ a, t.physByte a = s.physByte a) ∧
      ∀ o, s.outstanding.find? (fun o => o.core == c && o.write == some r.write) = some o →
        t.outstanding = s.outstanding.erase o) ∧
    (∃ t, exec (.stagingTimeout c) s = .next t ∧ (∀ a, t.physByte a = s.physByte a) ∧
      ∀ p ∈ (s.getCore c).stagedAt, p.2 + 2048 ≤ (s.getCore c).cycle →
        (∀ tm ∈ (t.getCore c).teams, tm.id = p.1 → tm.ckpt.isOpen = false) ∧
        ∀ q ∈ (t.getCore c).staging, q.tid ∉ (s.getCore c).tidsOf p.1) ∧
    (∀ tm, s.teamAt c team = some tm → tm.ckpt.isOpen = true →
      ∃ t, exec (.uncorrectableTeamError c team) s = .next t ∧ (∀ a, t.physByte a = s.physByte a) ∧
        (∀ i, (s.getThread c i).status ≠ .empty → (s.getThread c i).team = tm.id →
          (∀ p ∈ (t.getCore c).staging, p.tid ≠ (s.getThread c i).order) ∧
          ∀ m, tm.ckpt.members.find? (fun m => m.1 == (s.getThread c i).order) = some m →
            (t.getThread c i).status = .ready ∧ (t.getThread c i).regs = (s.getThread c i).regs.restore m.2.1 ∧ (t.getThread c i).pc = m.2.2 ∧
              (t.getThread c i).log = []) ∧
        ∀ i, (s.getThread c i).team ≠ tm.id → t.getThread c i = s.getThread c i) ∧
    (∀ tm l, s.teamAt c team = some tm → tm.ckpt.isOpen = false → s.launchAt tm.lh = some l → l.aborted = false →
      ∃ t u, exec (.uncorrectableTeamError c team) s = .next t ∧ mapGet t.launches tm.lh = some u ∧ u.aborted = true ∧
        u.status = 1)

/-- R146, R205, R206, R233, R297, R298, R324, R325: travel packets, the message engine, spills, restores, and the timers
of parked slots. The model's choices in it: log 32, 33, 37, 59, 75, 76, 88. -/
def Obligations.SpillAndCourierEvents : Prop :=
  ∀ (s : State) (c : CoreId) (sl : Fin 8) (die : Fin 16) (pkt : BitVec 6144) (lh : Nat),
    let th := s.getThread c sl
    let field := fun (i : Nat) => (BitVec.ofNat 64 (pkt.toNat / 2 ^ (64 * i)) : Word)
    (s.freeOnDie die.val = none → exec (.travelPacketArrival die pkt lh) s = .next { s with
      hostHeld := s.hostHeld ++ [.travelPacketArrival die pkt lh] }) ∧
    (∀ k slot v, s.freeOnDie die.val = some (k, slot) → (s.trapVector k ((field 36).setWidth 16)).1 = .value v →
      ∃ t, exec (.travelPacketArrival die pkt lh) s = .next t ∧
        let x := t.getThread k slot
        x.status ≠ .empty ∧ x.kind = .thread ∧ x.mode = .user ∧ x.pc = field 35 ∧ x.ctx = (field 36).setWidth 16 ∧
          x.joinp = field 37 ∧ x.xpc = field 45 ∧ x.xcause = field 46 ∧ x.xval = field 47 ∧ x.xvec = v ∧ x.allot = 0 ∧
          (∀ i : Fin 15, x.eng[i] = field (48 + i.val)) ∧ (∀ i : Fin 4, x.regs.b[i] = field (31 + i.val)) ∧
          ∀ i : Reg, x.regs.rx i = if i = 0 then 0 else field (i.val - 1)) ∧
    (th.status = .parked .travel → ∃ t, exec (.travelPacketReturn c sl) s = .next t ∧ (t.getThread c sl).status = .ready ∧
      (t.getThread c sl).pc = th.pc ∧ (t.getThread c sl).stay = some th.pc ∧ (t.getThread c sl).regs = th.regs ∧
      ∀ a, t.physByte a = s.physByte a) ∧
    (∀ e rest, (s.getCore c).msgq = e :: rest → s.outOfTurn e = true →
      exec (.messageEngineExecute c) s = .next { s with hostHeld := s.hostHeld ++ [.messageEngineExecute c] }) ∧
    (∀ e rest, (s.getCore c).msgq = e :: rest → s.outOfTurn e = false → ((s.msgRun c e 5).2.2.getCore c).msgHeld = [] →
      let tag : BitVec 10 := BitVec.ofNat 10 e.tag
      let from' := e.msg.ssock.toNat * 64 + e.msg.score.toNat
      let u := (s.msgRun c e 5).2.2
      (∀ f, (s.msgRun c e 5).1 = none → f = (s.msgRun c e 5).2.1 → f.away = none → f.msg.spkg = u.pkgid → f.msg = e.msg → f.tag = e.tag →
        ∃ t, exec (.messageEngineExecute c) s = .next t ∧ (t.getCore c).msgq = (u.getCore c).msgq.drop 1 ∧
          .responseArrival from' tag ((if e.msg.ret ∧ e.msg.rsel ≠ 0 then (f.m[e.msg.rsel.toNat]?).getD 0 else 0).setWidth 1024) ∈ t.agenda) ∧
      (∀ k f o, (s.msgRun c e 5).1 = some (.fail k) → f = (s.msgRun c e 5).2.1 → f.away = none → f.msg.spkg = u.pkgid →
        f.msg = e.msg → f.tag = e.tag → u.requestOf from' tag = some o →
        ∃ t, exec (.messageEngineExecute c) s = .next t ∧ (t.getCore c).msgq = (u.getCore c).msgq.drop 1 ∧
          (o.write = none → .errorResponseArrival from' tag k ∈ t.agenda) ∧
          ∀ w, o.write = some w → ∃ x i, .remoteFaultRecord from' i x ∈ t.agenda ∧ x.cause = k ∧ x.write = w)) ∧
    (∀ p v, s.spillNeed c = some p → (s.getCore c).youngest ((s.getCore c).victims p) = some v →
      exec (.slotSpill c) s = .next { s with agenda := .spillComplete c v :: s.agenda } ∧
      v ∈ (s.getCore c).victims p ∧ ∀ i ∈ (s.getCore c).victims p, (s.getCore c).slots[i].order ≤ (s.getCore c).slots[v].order) ∧
    (s.joinerToSpill c = some sl → exec (.joinSpill c sl) s = .next { s with agenda := .spillComplete c sl :: s.agenda }) ∧
    (∀ joins, s.spillFor c sl = some joins →
      (s.spillReady c sl = false → exec (.spillComplete c sl) s = .next { s with hostHeld := s.hostHeld ++ [.spillComplete c sl] }) ∧
      (s.spillReady c sl = true → ∃ t, exec (.spillComplete c sl) s = .next t ∧ (t.getThread c sl).status = .empty ∧
        (t.getCore c).saves = (s.getCore c).saves ++ [{ thread := { th with extents := [] }, joins := joins, due := false }] ∧
        (joins.isSome = true → t.agenda = .taskDispatch c :: s.agenda) ∧
        ∀ k i, ¬(k = c ∧ i = sl) → t.getThread k i = s.getThread k i)) ∧
    (∀ v i, isCmd c = false → s.coreOff c = false → (∀ x ∈ (s.getCore c).saves, x.due = false → x.joins = none) →
      s.restoreNext c = some v → (s.getCore c).freeSlots.head? = some i → s.recordFirst c v = false →
      exec (.slotRestore c) s = .next { s with agenda := .slotRestoreComplete c i :: s.agenda }) ∧
    (∀ v, s.restoreNext c = some v → th.status = .empty → v.thread.status = .ready →
      ∃ t, exec (.slotRestoreComplete c sl) s = .next t ∧ (t.getThread c sl).status = .ready ∧
        (t.getThread c sl).pc = v.thread.pc ∧ (t.getThread c sl).regs = v.thread.regs ∧ (t.getThread c sl).mode = v.thread.mode ∧
        (t.getCore c).saves = (s.getCore c).saves.erase v ∧ ∀ k i, ¬(k = c ∧ i = sl) → t.getThread k i = s.getThread k i) ∧
    (∀ l va, th.status = .parked (.join l va) → ∃ t, exec (.joinPoll c sl) s = .next t ∧
      t.getThread c sl = { th with status := .ready } ∧ ∀ a, t.physByte a = s.physByte a) ∧
    (th.status = .ready → ∃ t, exec (.watchPoll c sl) s = .next t ∧ (t.getThread c sl).regs = th.regs ∧
      ∀ i : Fin 4, (t.getThread c sl).watch[i] = { th.watch[i] with
        triggered := th.watch[i].triggered || (th.watch[i].armed && th.watch[i].polled) }) ∧
    (∀ d l, th.status = .parked (.waitev d (some l)) → l ≤ (s.getCore c).cycle →
      ∃ t, exec (.waitevTimeout c sl) s = .next t ∧ (t.getThread c sl).status = .ready ∧ (t.getThread c sl).pc = th.pc + 4 ∧
        (t.getThread c sl).regs = th.regs.wx d (BitVec.ofNat 64 (if th.triggeredMask = 0 then 0x10 else th.triggeredMask)) ∧
        ∀ i : Fin 4, (t.getThread c sl).watch[i] = { th.watch[i] with triggered := false })

/-! Events of the engines. -/

namespace Sys2Proof.Claims

/-- A scratchpad that an engine may write: its memory is canonical and its team's checkpoint is not open. -/
def PoolReady (s : State) (core : CoreId) (team : Nat) : Prop :=
  if isCmd core = true then (s.getCore core).pool.wf = true
  else (∃ tm, s.teamAt core team = some tm ∧ tm.pool.wf = true) ∧
    ∀ x ∈ (s.getCore core).teams, x.id = team → x.ckpt.isOpen = false

/-- A line no sector of which waits to be written back, or that its holder owns. -/
def CleanLine (s : State) (l : Nat) : Prop := (s.lineAt l).state = 2 ∨ ∀ a, a / 128 = l → mapGet s.dirty a = none

/-- The object after `b` bytes arrive (R225), within its range. -/
def arrived (obj : BarObj) (b : Nat) : BarObj :=
  if obj.bytes = b ∧ obj.thr = 0 then { obj with bytes := 0, thr := obj.thrn, phase := !obj.phase }
  else { obj with bytes := obj.bytes - b }

/-- The bytes that an arrival leaves at an object, and the threads of its team that it lets go. -/
def Arrives (s t : State) (core : CoreId) (team o b : Nat) : Prop :=
  let obj := BarObj.ofBits (s.poolReadOf core team o 16)
  BarObj.ofBits (t.poolReadOf core team o 16) = arrived obj b ∧
    (obj.bytes = b → obj.thr = 0 → ∀ sl, (s.getThread core sl).status = .parked (.bowait o obj.phase) →
      (s.getThread core sl).team = team →
        (t.getThread core sl).status = .ready ∧ (t.getThread core sl).pc = (s.getThread core sl).pc + 4)

/-- Little-endian element `i` of width `w` in the bytes of a ring from its taken position. -/
def ringElem (s : State) (core : CoreId) (r : Ring) (w i : Nat) : Nat :=
  ofBytes ((List.range w).map fun j =>
    BitVec.ofNat 8 (s.poolReadOf core r.team (r.base + (r.taken + (i * w + j)) % 2 ^ r.log2) 1))

/-- The address and value of the STATUS write of a collective, which device memory takes at once (R376). -/
def StatusAt (s : State) (core : CoreId) (o : ColOp) (pa : Nat) : Prop :=
  Calm s ∧ s.mem.wf = true ∧ s.isDevMem pa = true ∧ pa % 8 = 0 ∧ CleanLine s (pa / 128) ∧
    ∀ u, EngineAside s u → ∃ p, (u.xlateSpan (o.asid core) (o.desc + 0x50) 8 .store).1 = .ok [(p, 8)] ∧ p.pa = pa

/-- Element `i` of `w` bytes of a chunk's values. -/
def chunkElem (w : Nat) (bs : List Byte) (i : Nat) : Nat := ofBytes ((bs.drop (w * i)).take w)

/-- The bytes that a member writes for a chunk: `n` elements of its destination, at `pa`, and its mark, at `pm`. -/
def ofChunk (w n : Nat) (pa : Nat → Nat) (pm q : Nat) : Prop := (∃ i < n, pa i ≤ q ∧ q < pa i + w) ∨ (pm ≤ q ∧ q < pm + 8)

/-- Where the first `n` elements of a chunk's segment of DST lie, and its mark in PROG (R368, R371, R372): apart from each other
in device memory, which takes their writes at once. -/
def SegmentAt (s : State) (core : CoreId) (o : ColOp) (c n : Nat) (pa : Nat → Nat) (pm : Nat) : Prop :=
  let takes := fun (a k : Nat) (va : Word) => s.isDevMem a = true ∧ a % k = 0 ∧ CleanLine s (a / 128) ∧
    ∀ u, EngineWrites s u (ofChunk o.w n pa pm) → ∃ p, (u.xlateSpan (o.asid core) va k .store).1 = .ok [(p, k)] ∧ p.pa = a
  Calm s ∧ s.mem.wf = true ∧ (∀ i < n, takes (pa i) o.w (o.dst + BitVec.ofNat 64 (c * o.chunk + o.w * i))) ∧
    takes pm 8 (o.prog + BitVec.ofNat 64 (8 * c)) ∧ (∀ i j, i < j → j < n → pa i ≠ pa j) ∧
    ∀ i < n, pa i + o.w ≤ pm ∨ pm + 8 ≤ pa i

/-- Where the elements of a chunk's segment of SRC lie: in device memory, which serves their reads at once. -/
def SourceAt (s : State) (core : CoreId) (o : ColOp) (c n : Nat) (ps : Nat → Nat) : Prop :=
  ∀ i < n, s.isDevMem (ps i) = true ∧ ∀ u, EngineAside s u →
    ∃ p, (u.xlateSpan (o.asid core) (o.src + BitVec.ofNat 64 (c * o.chunk + o.w * i)) o.w .load).1 = .ok [(p, o.w)] ∧ p.pa = ps i

/-- A chunk's values leave a core for a package, on the plane of the chunk's tree. -/
def Sends (t : State) (core : CoreId) (o : ColOp) (c : Nat) (up : Bool) (pkg n : Nat) (val : Nat → Nat) : Prop :=
  (∃ bs : List Byte, bs.length = n * o.w ∧ (∀ i < n, chunkElem o.w bs i = val i) ∧ .collective o.tag c up bs ∈ t.outbox) ∧
    ∃ x ∈ t.outstanding, x.core = core ∧ x.pkg = pkg ∧ x.plane = o.planes[c % o.nt]? ∧ x.engine = some o.id

/-- What a chunk leaves at a member: the first `n` elements of its segment of DST, and its mark (R372). -/
def Leaves (s t : State) (core : CoreId) (o : ColOp) (c n : Nat) (pa : Nat → Nat) (pm mark : Nat) (val : Nat → Nat) : Prop :=
  (∀ i < n, leRead t.physByte (pa i) o.w = val i) ∧
    leRead t.physByte pm 8 = (mark + 256 * (c % o.nt) + 65536 * o.gen.toNat) % 2 ^ 64 ∧
    (∀ q, ¬ofChunk o.w n pa pm q → t.physByte q = s.physByte q) ∧
    t.colAt core o.id = some { o with met := true, marks := mapSet o.marks c (mark, c % o.nt, o.gen) }

end Sys2Proof.Claims

/-- R126, R168, R225, R229 to R232, R365: a copy moves its elements a page at a time, stops where a page fails, and
arrives at the object of each receiver; a copy into a ring reserves its bytes when it fires. The model's choices in
it: log 18, 55, 59. -/
def Obligations.CopyEvents : Prop :=
  ∀ (s : State) (core : CoreId) (id team fbo bytes : Nat),
    (s.copyAt core id = none → exec (.copyPageTranslate core id) s = .next s ∧ exec (.copyArrival core id) s = .next s) ∧
    (PoolReady s core team → -(2 ^ 31) ≤ (s.barObj core team fbo).bytes - bytes →
      ∃ t, exec (.stageFreeNotice core team fbo bytes) s = .next t ∧ Arrives s t core team fbo bytes ∧
        ∀ a, t.physByte a = s.physByte a) ∧
    (∀ before c rest r (n : Fin 8) g, (s.getCore core).copies = before ++ c :: rest → c.kind = .cpyr r → c.fired = none →
      (∀ p ∈ before, p.id ≠ c.id ∧ ∀ q, p.kind = .cpyr q → p.fired ≠ none) → n.val = r → (s.getCore core).rings[n] = some g →
      let b := 2 ^ c.geom.loge * (c.geom.n[0] * c.geom.n[1] * c.geom.n[2] * c.geom.n[3])
      let fires := fun (d : CoreId) (q : Ring) =>
        ∃ t, exec (.cpyrFire core) s = .next t ∧ (t.getCore d).rings[n] = some { q with reserved := q.reserved + b } ∧
          t.copyAt core c.id = some { c with fired := some (q.written + q.reserved) } ∧
          t.agenda = s.agenda ++ [.copyPageTranslate core c.id, .cpyrFire core]
      (g.remote = none → (g.written - g.taken) + g.reserved + b ≤ 2 ^ g.log2 → fires core g) ∧
      (∀ d tm q, g.remote = some (d, tm) → d ≠ core → (s.getCore d).rings[n] = some q → fires d q)) ∧
    ∀ c, s.copyAt core id = some c →
      let g := c.geom
      let w := 2 ^ g.loge
      let count := g.n[0] * g.n[1] * g.n[2] * g.n[3]
      let rs := s.receivers core c
      let off := fun i => s.poolOffset core c i
      let runs := c.stopped = false ∧ ∀ r, c.kind = .cpyr r → c.fired ≠ none
      let mine := fun (x : Outstanding) => x.core = core ∧ x.tid = c.tid ∧ x.engine = none ∧ x.write ≠ none
      let goes := runs ∧ (∀ p ∈ (s.getCore core).inflight, p.tid ≠ c.tid) ∧ (∀ x ∈ s.outstanding, ¬mine x) ∧
        (g.dir = false → s.missing core c = false)
      let moved := fun (t : State) => t.copyAt core id = some { c with next := count } ∧ .copyArrival core id ∈ t.agenda
      -- a store of the thread that has left the package and is not acknowledged yet holds it (R168)
      (runs → (∃ x ∈ s.outstanding, mine x) → exec (.copyPageTranslate core id) s = .next { s with
        hostHeld := s.hostHeld ++ [.copyPageTranslate core id] }) ∧
      (goes → Calm s → rs.Nodup → (∀ p ∈ rs, PoolReady s p.1 p.2) → g.dir = false → c.next ≤ count → count ≤ c.next + 65536 →
        (∀ i j, c.next ≤ i → i < j → j < count → off i + w ≤ off j ∨ off j + w ≤ off i) →
        ∀ (page : Nat) (pa : Nat → Nat),
        (∀ i, c.next ≤ i → i < count → ∀ a, c.target i = some a → a.toNat / 65536 = page ∧ s.isDevMem (pa i) = true ∧
          ∀ u, EngineAside s u → ∃ p, (u.xlateSpan (c.asid core) a w .load).1 = .ok [(p, w)] ∧ p.pa = pa i) →
        ∃ t, exec (.copyPageTranslate core id) s = .next t ∧ moved t ∧ (∀ a, t.physByte a = s.physByte a) ∧
          ∀ p ∈ rs, ∀ i, c.next ≤ i → i < count →
            t.poolReadOf p.1 p.2 (off i) w =
              if c.target i = none then g.fill.toNat % 256 ^ w else leRead s.physByte (pa i) w) ∧
      (goes → g.dir = true → c.next + 1 = count →
        (c.target c.next = none → ∃ t, exec (.copyPageTranslate core id) s = .next t ∧ moved t ∧
          ∀ a, t.physByte a = s.physByte a) ∧
        (Calm s → s.mem.wf = true → g.loge ≤ 4 →
          ∀ a p, c.target c.next = some a → (s.xlateSpan (c.asid core) a w .store).1 = .ok [(p, w)] → s.isDevMem p.pa = true →
          (∀ j < c.next, ∀ b, c.target j = some b → w ≤ (a - b).toNat ∧ w ≤ (b - a).toNat) →
          CleanLine s (p.pa / 128) → CleanLine s ((p.pa + w - 1) / 128) →
          ∃ t, exec (.copyPageTranslate core id) s = .next t ∧ moved t ∧
            (∀ i < w, (t.physByte (p.pa + i)).toNat = s.poolReadOf core c.team (off c.next) w / 256 ^ i % 256) ∧
            ∀ q, ¬(p.pa ≤ q ∧ q < p.pa + w) → t.physByte q = s.physByte q)) ∧
      (goes → c.next < count → ∀ a f, c.target c.next = some a →
        (s.xlateSpan (c.asid core) a w (if g.dir then .store else .load)).1 = .error f → f.wait = none →
        (g.dir = true → c.clash c.next a = false) →
        ∃ t, exec (.copyPageTranslate core id) s = .next t ∧ t.copyAt core id = some { c with stopped := true }) ∧
      (c.stopped = false → count ≤ c.next →
        (match c.level with | .near => True | .device => c.dev = 0 | .host => c.dev = 0 ∧ c.hst = 0) →
        (∀ r, c.kind = .cpyr r → ∀ p ∈ (s.getCore core).copies.takeWhile (fun p => p.id != c.id), p.kind ≠ .cpyr r) →
        rs.Nodup → (∀ p ∈ rs, PoolReady s p.1 p.2 ∧ -(2 ^ 31) ≤ (s.barObj p.1 p.2 c.bo).bytes - (w * count : Nat)) →
        ∃ t, exec (.copyArrival core id) s = .next t ∧ t.copyAt core id = none ∧ (∀ a, t.physByte a = s.physByte a) ∧
          (∀ p ∈ rs, Arrives s t p.1 p.2 c.bo (w * count)) ∧
          (∀ sl, (s.getThread core sl).order = c.tid → (s.getThread core sl).status = .parked .copies →
            (t.getThread core sl).status = .ready ∧ (t.getThread core sl).pc = (s.getThread core sl).pc) ∧
          ∀ r d (n : Fin 8) q, c.kind = .cpyr r → s.targetRing core r = some (d, n, q) → (t.getCore d).rings[n] =
            some { q with written := q.written + w * count, reserved := q.reserved - w * count,
                          ovr := q.ovr || (d != core && decide (2 ^ q.log2 < (q.written - q.taken) + w * count)) })

/-- R204, R221 to R223, R232, R244, R251 to R255, R357, R358, R361: one K-step of the oldest operation that can fire, and
what each operation leaves in its tile, or in the scratchpad, when it completes. The model's choices in it: log 20. -/
def Obligations.MatrixEvents : Prop :=
  ∀ (s : State) (core : CoreId) (o : MatOp) (rest : List MatOp) (tm : Team), isCmd core = false →
    (s.getCore core).matq = o :: rest → (∀ p ∈ rest, p.id ≠ o.id) → s.teamAt core o.team = some tm → PoolReady s core o.team →
    let same := fun (t : State) => ∀ a, t.physByte a = s.physByte a
    let tile := fun (t : State) (f : Nat → Nat) => ∃ tm', t.teamAt core o.team = some tm' ∧ tm'.pool = tm.pool ∧
      (∀ e < 4096, tm'.accElem o.tile e = f e) ∧ ∀ n e, n ≠ o.tile → e < 4096 → tm'.accElem n e = tm.accElem n e
    let ends := fun (t : State) => (t.getCore core).matq = rest ∧ same t ∧
      ∀ sl, (s.getThread core sl).status = .parked (.matrix o.id) → (s.getThread core sl).team = o.team →
        (t.getThread core sl).status = .ready ∧ (t.getThread core sl).pc = (s.getThread core sl).pc + 4
    ((∀ p ∈ o :: rest, p.isMma = false ∨ p.steps ≤ p.fired ∨
        ∃ n k, (n, k) ∈ p.takes ∧ ∀ r, (s.getCore core).rings[n] = some r → r.written - r.taken < k) →
      exec (.matrixStepFire core) s = .next s) ∧
    (∀ fa fb (na nb nz sa sb : Fin 8) (ring : Fin 8 → Ring), o.isMma = true → o.fired < o.steps →
      recAB o.fmta = some fa → recAB o.fmtb = some fb → fa.bytes = fb.bytes → (fa.bytes = 1 ∨ fa.bytes = 2 ∨ fa.bytes = 4) →
      na.val = o.aring → nb.val = o.bring → nz.val = o.zring → sa.val = o.scalea.toNat % 8 → sb.val = o.scaleb.toNat % 8 →
      let kk := 64 / fa.bytes
      let ma := o.fmta.toNat / 256 % 4
      let mb := o.fmtb.toNat / 256 % 4
      -- the K-steps that take a unit of scales (R244)
      let dueA := ma = 2 ∨ (ma = 1 ∧ o.fired = 0) ∨ (ma = 3 ∧ kk * o.fired % 64 = 0)
      let dueB := mb = 1 ∨ (mb = 2 ∧ o.fired = 0) ∨ (mb = 3 ∧ kk * o.fired % 64 = 0)
      let used : List (Fin 8 × Nat) := [(na, 4096), (nb, 4096)] ++ (if o.kind = .mmas then [(nz, 256)] else []) ++
        (if dueA then [(sa, 256)] else []) ++ (if dueB then [(sb, 256)] else [])
      (used.map (·.1)).Nodup →
      (∀ p ∈ used, (s.getCore core).rings[p.1] = some (ring p.1) ∧ p.2 ≤ (ring p.1).written - (ring p.1).taken) →
      -- a stage that is freed for another core is a release at `.gang`: here nothing of the team is under way (R232, R361)
      ((∃ p ∈ used, (ring p.1).producer ≠ none) → ∀ tid ∈ (s.getCore core).tidsOf o.team, (s.threadOf core tid).packing = [] ∧
        (∀ p ∈ (s.getCore core).staging, p.tid ≠ tid) ∧ ∀ p ∈ (s.getCore core).inflight, p.tid ≠ tid) →
      let scA := fun (n : Nat) => if dueA then ringElem s core (ring sa) 1 n else ((o.scA[n]?).getD 0).toNat
      let scB := fun (n : Nat) => if dueB then ringElem s core (ring sb) 1 n else ((o.scB[n]?).getD 0).toNat
      let byA := fun (i k : Nat) => if ma = 0 then 0 else sint (scA (if ma = 2 then k else i)) 8
      let byB := fun (k j : Nat) => if mb = 0 then 0 else sint (scB (if mb = 1 then k else j)) 8
      let a := fun (i k : Nat) => (fa.decode (ringElem s core (ring na) fa.bytes (kk * i + k))).scale (byA i k)
      let b := fun (k j : Nat) => (fb.decode (ringElem s core (ring nb) fb.bytes (64 * k + j))).scale (byB k j)
      let block := fun (i j k : Nat) =>
        ((List.range 8).map fun m => (a i (8 * k + m)).mul (b (8 * k + m) j)).foldl FVal.add (FVal.zero false)
      let skips := fun (i j k : Nat) => o.kind = .mmas ∧
        (ringElem s core (ring nz) 8 0 / 2 ^ (8 * (i / 8) + k) % 2 = 1 ∨ ringElem s core (ring nz) 8 1 / 2 ^ (8 * k + j / 8) % 2 = 1)
      let adds := fun (acc : Nat) (v : FVal) =>
        if v.isZero then acc else fp32.rne ((fp32.decode acc).add (fp32.decode (fp32.rne v)))
      ∃ t o', exec (.matrixStepFire core) s = .next t ∧ same t ∧ (t.getCore core).matq = o' :: rest ∧
        o' = { o with fired := o.fired + 1, scA := o'.scA, scB := o'.scB } ∧
        (∀ n < 256, ((o'.scA[n]?).getD 0).toNat = scA n ∧ ((o'.scB[n]?).getD 0).toNat = scB n) ∧
        (∀ p ∈ used, (t.getCore core).rings[p.1] = some { ring p.1 with taken := (ring p.1).taken + p.2 }) ∧
        (∀ p ∈ used, ∀ x, (ring p.1).producer = some x → .stageFreeNotice x.1 x.2.1 x.2.2 p.2 ∈ t.agenda) ∧
        (o.fired + 1 = o.steps → .matrixOpComplete core o.id ∈ t.agenda) ∧
        tile t fun e => (List.range (kk / 8)).foldl (fun acc k =>
          if skips (e / 64) (e % 64) k then acc else adds acc (block (e / 64) (e % 64) k)) (tm.accElem o.tile e)) ∧
    (o.isMma = true → o.fired = o.steps →
      ∃ t, exec (.matrixOpComplete core o.id) s = .next t ∧ ends t ∧ tile t fun e => tm.accElem o.tile e) ∧
    (o.isMma = true → o.fired < o.steps → exec (.matrixOpComplete core o.id) s = .next s) ∧
    (o.kind = .mzero → ∃ t, exec (.matrixOpComplete core o.id) s = .next t ∧ ends t ∧ tile t fun _ => 0) ∧
    (∀ off f rnd sat, recC o.fmtc = some (f, rnd, sat) → o.kind = .mload off →
      ∃ t, exec (.matrixOpComplete core o.id) s = .next t ∧ ends t ∧
        tile t fun e =>
          let v := memRead tm.pool (off + e * f.bytes) f.bytes
          if f = fp32 then v else fp32.rne (f.decode v)) ∧
    (∀ off f rnd sat, recC o.fmtc = some (f, rnd, sat) → o.kind = .mdrain off →
      ∃ t, exec (.matrixOpComplete core o.id) s = .next t ∧ ends t ∧
        ∃ tm', t.teamAt core o.team = some tm' ∧ tm'.acc = tm.acc ∧
          (∀ e < 4096, memRead tm'.pool (off + e * f.bytes) f.bytes =
            (if f = fp32 then tm.accElem o.tile e else f.deliver rnd sat (fp32.decode (tm.accElem o.tile e))) % 256 ^ f.bytes) ∧
          ∀ q, ¬(off ≤ q ∧ q < off + 4096 * f.bytes) → memByte tm'.pool q = memByte tm.pool q)

/-- R368, R369 to R376: a collective of several members starts on the trees of its generation, delivers what comes down,
reduces what comes up, recomputes, and ends when a peer aborts; each change of state is written to STATUS; a fenced
die does none of it. The model's choices in it: log 30, 59, 80. -/
def Obligations.CollectiveEvents : Prop :=
  ∀ (s : State) (core : CoreId) (o : ColOp) (pst : Nat) (gen : BitVec 32) (done : List Nat) (peer : BitVec 1024) (c : Nat)
    (l r : List Byte) (d : Option (List Byte)), (s.getCore core).colq = [o] →
    let begins : Instr := .collectiveStart core
    let tells : Instr := .collectiveAnnounce core gen done
    let aborts : Instr := .collectivePeerAbort core o.tag
    let comes : Instr := .collectiveChunkReceive core peer c l r d
    (s.fenced.getLsbD (core / 64) = true → ∀ i ∈ [begins, tells, aborts, comes], exec i s = .next s) ∧
    (s.fenced.getLsbD (core / 64) = false →
      let writes := fun (i : Instr) (x : ColOp) (outs : List Out) => StatusAt s core o pst →
        ∃ t, exec i s = .next t ∧ t.colAt core o.id = some { x with stat := false } ∧ (∀ y ∈ outs, y ∈ t.outbox) ∧
          leRead t.physByte pst 8 = (x.state + 8 * x.detail + 256 * x.nt + 4096 * x.gen.toNat + 2 ^ 44 * x.recomp) % 2 ^ 64 ∧
          ∀ a, ¬(pst ≤ a ∧ a < pst + 8) → t.physByte a = s.physByte a
      let many := 1 < o.members.length
      let ps := s.treePlanes o
      let me := s.pkgid.toNat
      (o.state = 1 → many → s.ltStale = false → o.marks = [] →
        (ps = [] → writes begins { o with state := 4, detail := 4 } []) ∧
        (ps ≠ [] → 1 ≤ o.chunks →
          (∀ tr < ps.length, if o.kind = 0 then o.children tr (o.rank tr me) ≠ [] else o.rank tr me ≠ 0) →
          writes begins { o with state := 2, detail := 0, planes := ps, nt := ps.length, gen := s.ltGen } [.descriptor o.tag o.shared])) ∧
      (o.state = 3 →
        (s.ltStale = true ∨ s.ltGen < gen → exec tells s = .next { s with hostHeld := s.hostHeld ++ [tells] }) ∧
        (s.ltStale = false → gen < s.ltGen → exec tells s = .next { s with outbox := s.outbox ++ [.announce o.tag s.ltGen] }) ∧
        (s.ltStale = false → gen = s.ltGen →
          ((ps = [] ∨ ∃ m ∈ o.members, ((s.linkTable[m]?).getD 0).getLsbD 36 = false) →
            writes tells { o with state := 4, detail := 4 } []) ∧
          (ps ≠ [] → (∀ m ∈ o.members, ((s.linkTable[m]?).getD 0).getLsbD 36 = true) →
            writes tells
              { o with state := 2, detail := 0, planes := ps, nt := ps.length, gen := s.ltGen, recomp := min (o.recomp + 1) 65535,
                       marks := o.marks.map fun p => if p.2.1 = 2 ∧ done.contains p.1 then p else (p.1, (0, p.2.2)) }
              [.doneSet o.tag s.ltGen ((o.marks.filter fun p => p.2.1 == 2).map (·.1))]))) ∧
      (o.state < 5 → writes aborts { o with state := 6, detail := 6 } []) ∧
      (o.state ≠ 2 ∨ o.chunks ≤ c → exec comes s = .next s) ∧
      (o.state = 2 → c < o.chunks →
        let of' := fun (lo n : Nat) => peer.toNat / 2 ^ lo % 2 ^ n
        let alike := o.kind = of' 0 4 ∧ o.rop = of' 4 4 ∧ o.fmt = of' 8 8 ∧ o.ntree = of' 16 4 ∧ o.pub.toNat = of' 20 1 ∧
          o.tag.toNat = of' 32 32 ∧ o.count = of' 64 40 ∧ o.chunk = of' 256 32 ∧ o.root = of' 288 8 ∧ o.pkgs.toNat = of' 384 256
        (o.met = false → ¬alike → writes comes { o with state := 7, detail := 2 } []) ∧
        (o.met = true ∨ alike → o.stat = false → 1 ≤ o.nt →
          let tr := c % o.nt
          let kids := o.children tr (o.rank tr me)
          let w := if o.fmt = 4 then 8 else if o.fmt = 6 then 2 else 4
          let len := min o.chunk (o.count * w - c * o.chunk)
          let n := len / w
          0 < len → len % w = 0 →
          -- what comes down is delivered: DST, then the mark, then the children
          (∀ bs pa pm, d = some bs → l = [] → r = [] → bs.length = len → o.rank tr me ≠ 0 →
            o.markOf c = (if o.kind = 0 then 1 else 0) → s.colRoom core o c kids.length = true → SegmentAt s core o c n pa pm →
            ∃ t, exec comes s = .next t ∧ Leaves s t core o c n pa pm 2 (chunkElem w bs) ∧
              ∀ k ∈ kids, Sends t core o c false k n (chunkElem w bs)) ∧
          -- what comes up is reduced with this member's own values: sent on, or delivered by the root
          (∀ ps, o.kind = 0 → o.markOf c = 0 → l.length = len →
            (kids.length = 1 ∧ r = [] ∨ kids.length = 2 ∧ r.length = len) → d = none → Calm s → SourceAt s core o c n ps →
            let joins := fun (x y : Nat) =>
              if o.fmt = 3 ∨ o.fmt = 4 then
                let m := if o.fmt = 3 then 32 else 64
                if o.rop = 0 then (x + y) % 2 ^ m
                else if o.rop = 1 then (if sint x m < sint y m then y else x) else if sint x m < sint y m then x else y
              else
                let f := if o.fmt = 6 then bf16 else fp32
                let a := f.decode x
                let b := f.decode y
                f.rne (if o.rop = 0 then a.add b else if o.rop = 1 then a.max b else a.min b)
            let val := fun (i : Nat) =>
              let x := joins (leRead s.physByte (ps i) w) (chunkElem w l i)
              if r = [] then x else joins x (chunkElem w r i)
            (∀ pm, o.rank tr me ≠ 0 → s.colRoom core o c 1 = true → SegmentAt s core o c 0 (fun _ => 0) pm →
              ∃ t, exec comes s = .next t ∧ Leaves s t core o c 0 (fun _ => 0) pm 1 val ∧
                Sends t core o c true ((o.atRank tr ((o.rank tr me - 1) / 2)).getD 0) n val) ∧
            ∀ pa pm, o.rank tr me = 0 → s.colRoom core o c kids.length = true → SegmentAt s core o c n pa pm →
              ∃ t, exec comes s = .next t ∧ Leaves s t core o c n pa pm 2 val ∧ ∀ k ∈ kids, Sends t core o c false k n val))))

namespace Sys2Proof.Claims

/-- The cores that are not idle, beside the current one, in ascending order and without it. -/
def CoresOrdered (s : State) : Prop :=
  (s.cores.map (·.1)).Pairwise (· < ·) ∧ ∀ p ∈ s.cores, p.1 ≠ s.loc

end Sys2Proof.Claims

/-- R180, R182 to R185: the lock of the core table; requests of a partition, taken or refused as a whole; a halt, and the
context of a partition moved out and back. The model's choices in it: log 23, 31, 42, 59, 86. -/
def Obligations.PartitionEvents : Prop :=
  ∀ (s : State) (p : Fin 16) (dies : BitVec 16),
    let x := s.parts[p]
    let overlaps := fun (d : BitVec 16) => ∃ q : Fin 16, q ≠ p ∧ (s.parts[q].state = 1 ∨ s.parts[q].state = 2) ∧
      s.parts[q].dies &&& d ≠ 0
    let becomes := fun (y : Part) (more : List Instr) (held : List Instr) =>
      { s with parts := s.parts.set p y, agenda := s.agenda ++ more, hostHeld := held }
    let refused := fun (i : Instr) => exec i s = .next { s with parts := s.parts.set p { x with err := true } }
    let idle := x.busy = false ∧ (x.state = 0 ↔ x.dies = 0)
    let collective := ∃ c ∈ s.coreList, s.inPart p c = true ∧ ∃ o ∈ (s.getCore c).colq, o.state = 2 ∨ o.state = 3
    let full := s.lctNamed.map (·.1) = List.range s.lctNamed.length ∧ (s.lctNamed.map (·.2)).Nodup ∧
      (∀ q ∈ s.lctNamed, s.siteOn (q.2 / 64) (q.2 % 64) = true) ∧
      ∀ d < 16, ∀ k < 36, s.siteOn d k = true → ∃ q ∈ s.lctNamed, q.2 = 64 * d + k
    (s.lctLock = true → exec .lctctlLock s = .next s) ∧
    (s.lctLock = false → full → exec .lctctlLock s = .next { s with
      lctLock := true, lctErr := false, nlog := s.lctNamed.length, agenda := s.agenda ++ s.hostHeld, hostHeld := [] }) ∧
    (s.lctLock = false → ¬full → exec .lctctlLock s = .next { s with lctErr := true }) ∧
    (idle → x.state = 0 → dies ≠ 0 →
      (¬overlaps dies → exec (.partDiesWrite p dies) s = .next (becomes { x with dies := dies, state := 1 } s.hostHeld [])) ∧
      (overlaps dies → refused (.partDiesWrite p dies))) ∧
    (idle → x.state = 1 → (∀ l ∈ s.launches, l.2.partn ≠ p.val) →
      exec (.partDiesWrite p 0) s = .next (becomes { x with dies := 0, state := 0 } s.hostHeld [])) ∧
    (idle → x.state = 1 → (∃ l ∈ s.launches, l.2.partn = p.val) → refused (.partDiesWrite p 0)) ∧
    (idle → x.state = 1 ∨ x.state = 2 → dies ≠ 0 → dies ≠ x.dies → refused (.partDiesWrite p dies)) ∧
    (idle → (x.state = 1 → exec (.partHaltreq p) s =
        .next (becomes { x with busy := true, req := 1 } [.partitionHalted p] s.hostHeld)) ∧
      (x.state ≠ 1 → refused (.partHaltreq p))) ∧
    (idle → (x.state = 2 → ∃ t, exec (.partResume p) s = .next t ∧ t.parts = s.parts.set p { x with state := 1 } ∧
        t.agenda = s.agenda ++ s.hostHeld ∧ (∀ a, t.physByte a = s.physByte a) ∧
        ∀ c ∈ s.coreList, s.inPart p c = true → s.lostDies.getLsbD (c / 64) = false →
          s.fenced.getLsbD (c / 64) = false → (t.getCore c).stopped = false) ∧
      (x.state ≠ 2 → refused (.partResume p))) ∧
    (idle → (x.state = 2 → ¬collective → exec (.partSwapout p) s =
        .next (becomes { x with busy := true, req := 2 } [.swapoutComplete p] s.hostHeld)) ∧
      (x.state ≠ 2 ∨ collective → refused (.partSwapout p))) ∧
    (idle → (x.state = 3 → ¬overlaps x.dies → exec (.partSwapin p) s =
        .next (becomes { x with busy := true, req := 3 } [.swapinComplete p] s.hostHeld)) ∧
      (x.state ≠ 3 ∨ overlaps x.dies → refused (.partSwapin p))) ∧
    (x.busy = true → refused (.partHaltreq p) ∧ refused (.partResume p) ∧ refused (.partSwapout p) ∧
      refused (.partSwapin p) ∧ (dies ≠ x.dies → refused (.partDiesWrite p dies))) ∧
    (idle → exec (.partErrClear p) s = .next (becomes { x with err := false } s.hostHeld [])) ∧
    (x.busy = true → x.req = 1 →
      let settled := ∀ c ∈ s.coreList, s.inPart p c = true →
        (s.getCore c).matq = [] ∧ ∀ sl, slotSettled (s.getThread c sl) = true
      ∃ t, exec (.partitionHalted p) s = .next t ∧ (∀ a, t.physByte a = s.physByte a) ∧
        (∀ c ∈ s.coreList, s.inPart p c = true → (t.getCore c).stopped = true ∧ ∀ sl, t.getThread c sl = s.getThread c sl) ∧
        (settled → t.parts = s.parts.set p { x with state := 2, busy := false, req := 0 } ∧ t.hostHeld = s.hostHeld) ∧
        (¬settled → t.parts = s.parts ∧ t.hostHeld = s.hostHeld ++ [.partitionHalted p])) ∧
    (x.busy = true → x.req = 2 → CoresOrdered s → s.swapFitsShadow p = true →
      (∀ c ∈ s.partCores p, s.saveReady c = true ∧ (s.getCore c).staging = [] ∧ (s.getCore c).stagedAt = [] ∧ (s.getCore c).msgHeld = [] ∧
        (∀ o ∈ (s.getCore c).threads, o.packing = []) ∧ ∀ tm ∈ (s.getCore c).teams, tm.ckpt.isOpen = false) →
      ∃ t, exec (.swapoutComplete p) s = .next t ∧ (∀ a, t.physByte a = s.physByte a) ∧
        t.parts[p] = { x with state := 3, busy := false, req := 0, viaMem := false
                              saved := (s.partCores p).map fun c => (c, s.savedCore c) } ∧
        ∀ c ∈ s.partCores p, (t.getCore c).stopped = false ∧ (t.getCore c).deque = [] ∧ (t.getCore c).teams = [] ∧ ∀ sl, (t.getThread c sl).status = .empty) ∧
    (x.busy = true → x.req = 3 → x.viaMem = false → (x.saved.map (·.1)).Nodup → (∀ h, s.isAborted h = false) →
      ∃ t, exec (.swapinComplete p) s = .next t ∧ (∀ a, t.physByte a = s.physByte a) ∧
        t.parts[p] = { x with state := 2, busy := false, req := 0, viaMem := false, saved := [] } ∧
        ∀ q ∈ x.saved, (t.getCore q.1).stopped = true ∧ (t.getCore q.1).deque = q.2.deque ∧ (t.getCore q.1).teams = q.2.teams ∧
          ∀ sl : Fin 8, q.2.slots[sl].status = .ready → (t.getThread q.1 sl).status = .ready ∧
            (t.getThread q.1 sl).pc = q.2.slots[sl].pc ∧ (t.getThread q.1 sl).regs = q.2.slots[sl].regs ∧
            (t.getThread q.1 sl).mode = q.2.slots[sl].mode)

/-! The whole machine. -/

namespace Sys2Proof.Claims

/-- The current thread takes a trap (R378): the saved registers, the mode and the pc, and nothing else. -/
def TakesTrap (i : Instr) (s : State) (code : Nat) (xval : Word) : Prop :=
  s.th.xcause.getLsbD 9 = false → s.th.xvec ≠ 0 →
    exec i s = .next { s with th := { s.th with
      xpc := s.th.pc
      xcause := BitVec.ofNat 64 (code + (if s.th.mode = .supervisor then 256 else 0) + 512)
      xval := xval
      mode := .supervisor
      pc := BitVec.ofNat 64 (s.th.xvec.toNat / 4 * 4) } }

/-- The system registers that a user-mode access may not reach, and those that may be written (R259). -/
def supervisorReg (n : SysReg) : Bool := n == .xpc || n == .xcause || n == .xval || n == .xvec
def writableReg (n : SysReg) : Bool := supervisorReg n || [SysReg.fmta, .fmtb, .fmtc, .scalea, .scaleb].contains n

/-- The privileged forms of the opcode table (R266), and the system register forms where they are (R260), on a core die or, with
`cmd`, on a command core, where LAUNCH of another selector than 0 is no instruction. -/
def privileged (cmd : Bool) : Instr → Bool
  | .eret | .halt | .spill .. | .restore .. | .faultackResume .. | .faultackAbandon .. => true
  | .sysr _ n | .sysw _ n => supervisorReg n
  | .sysset _ n | .sysclr _ n => writableReg n
  | .launch _ _ n => !cmd || n == 0
  | _ => false

/-- The forms that a command core does not have: those of the majors 0x26 to 0x2D and 0x2F (R265). -/
def coreOnly (i : Instr) : Prop :=
  i.hasWord = true ∧ i.wellFormed = true ∧
    let major := (encode i).toNat / 2 ^ 26
    (0x26 ≤ major ∧ major ≤ 0x2D) ∨ major = 0x2F

end Sys2Proof.Claims

/-- R268, R377 to R380, R382 to R384, R217, R260, R265, R266: software traps, illegal words, privileged forms in user
mode, writes of registers that may only be read, forms that a command core does not have, vector registers beyond the
allotment; the end of a thread whose trap is unhandled; ERET. The model's choices in it: log 24, 56. -/
def Obligations.TrapResults : Prop :=
  ∀ (c : BitVec 10) (w : IWord) (i : Instr) (a b d : VReg) (k : KReg) (t : ElTy) (x y : Reg) (n : SysReg) (sel : Fin 8)
    (s : State),
    TakesTrap (.trap c) s 8 (c.setWidth 64) ∧ TakesTrap (.illegalInstruction w) s 1 (w.setWidth 64) ∧
    (s.th.mode = .user → privileged (isCmd s.loc) i = true → TakesTrap i s 2 ((encode i).setWidth 64)) ∧
    (writableReg n = false → ∀ j ∈ [Instr.sysw x n, .sysset x n, .sysclr x n], TakesTrap j s 1 ((encode j).setWidth 64)) ∧
    (isCmd s.loc = true → sel ≠ 0 → TakesTrap (.launch x y sel) s 1 ((encode (.launch x y sel)).setWidth 64)) ∧
    (isCmd s.loc = true → coreOnly i → TakesTrap i s 1 ((encode i).setWidth 64)) ∧
    (isCmd s.loc = false → s.th.allot ≤ d.val →
      TakesTrap (.vadd d a b k t) s 3 (BitVec.ofNat 64 d.val) ∧ TakesTrap (.vld d a k t) s 3 (BitVec.ofNat 64 d.val)) ∧
    (isCmd s.loc = false → d.val < s.th.allot → s.th.allot ≤ a.val → TakesTrap (.vadd d a b k t) s 3 (BitVec.ofNat 64 a.val)) ∧
    (s.th.xcause.getLsbD 9 = true ∨ s.th.xvec = 0 →
      ∃ t, exec (.trap c) s = .next t ∧ exec (.illegalInstruction w) s = .next t ∧ t.th.xpc = s.th.xpc ∧
        t.th.xcause = s.th.xcause ∧ t.th.xval = s.th.xval ∧ t.th.pc = s.th.pc ∧ t.th.mode = s.th.mode ∧
        (isCmd s.loc = true → t.th.status = .parked .halted) ∧
        (isCmd s.loc = false → t.th.status = .parked .stopped ∧
          ∀ l, mapGet s.launches s.th.lh = some l → l.aborted = false →
            ∃ l', mapGet t.launches s.th.lh = some l' ∧ l'.aborted = true ∧ l'.status = 1)) ∧
    (s.th.mode = .supervisor → exec .eret s = .next { s with th := { s.th with
      pc := s.th.xpc
      mode := if s.th.xcause.getLsbD 8 then .supervisor else .user
      xcause := s.th.xcause &&& 0xFFFFFFFFFFFFFDFF } })

/-- R130, R132: an instruction that consumes a poisoned register raises the thread's entries and parks at its own pc with
nothing written; where every entry has been raised before, parking is all that happens. The model's choices in it: log
56. -/
def Obligations.PoisonParks : Prop :=
  ∀ (d a b x : Reg) (i : BitVec 16) (p q : BitVec 16) (n : BReg) (sc : ScopeIx) (o : Ord) (s : State) (pay : Payload),
    s.th.regs.rxp x = some pay →
    (∀ j ∈ [Instr.std x a i, .std d x i, .ldd d x i, .stxd d x b, .stxd d a x, .beq x b p, .beq a x p, .bne x b q, .jalr d x,
        .jr x, .btrz x n, .amocas d x b sc o, .amocas d a x sc o, .amoaddd d x b sc o, .fork d x b, .fork d a x, .waitev d x,
        .sysw x .fmta, .csend d x],
      exec j s = .next (s.raiseHeld.park .fault)) ∧
    (isCmd s.loc = false → ∀ j ∈ [Instr.valloc d x, .vshrink x, .vsetvl d x .i8], exec j s = .next (s.raiseHeld.park .fault)) ∧
    (s.th.mode = .supervisor → ∀ j ∈ [Instr.faultackResume d x b, .faultackAbandon d a x, .spill d x b, .restore d a x],
      exec j s = .next (s.raiseHeld.park .fault)) ∧
    ((∀ e ∈ s.th.held, e.raised = true) →
      s.raiseHeld.park .fault = { s with th := { s.th with status := .parked .fault } })

/-- R22, R42, R60, R69, R71, R80, R180, R182, R210, R213: what package reset leaves: no thread on any core, no launch,
empty queues, registers at their reset values, and memory in its canonical form. The model's choices in it: log 1, 5,
44, 65. -/
def Obligations.ResetLeaves : Prop :=
  let s := State.reset
  (∀ c sl, (s.getThread c sl).status = .empty) ∧ s.launches = [] ∧ s.bootState = 0 ∧ s.frozen = false ∧
    Safety.memoryWf s = true ∧ s.tiles = [] ∧ s.outstanding = [] ∧ s.agenda = [] ∧
    (∀ n : Fin 256, s.linkTable[n] = 0) ∧ s.ctxtEn = false ∧ s.tvEn = false ∧
    s.alrtBase = 0 ∧ s.alrtEn = false ∧ s.alrtHead = 0 ∧ s.alrtTail = 0 ∧ s.alrtLost = 0 ∧ s.lctLock = false ∧
    (∀ p : Fin 16, s.parts[p].dies = (if p = 0 then 0xFFFF else 0) ∧ s.parts[p].state = (if p = 0 then 1 else 0) ∧
      s.parts[p].busy = false ∧ s.parts[p].err = false ∧ s.parts[p].mem = 0) ∧
    (∀ n : Fin 8, s.mailboxes[n].inv = false ∧ s.mailboxes[n].outv = false) ∧
    (∀ p : Fin 36, s.fports[p].downs = 0 ∧ s.fports[p].off = false ∧ s.fports[p].rekey = false) ∧
    (∀ l, s.lineAt l = s.lineAt 0 ∧ (s.lineAt l).held = none ∧ s.hostState l = 0) ∧
    ∀ a, s.physByte a = Memory.unlisted

/-- R138, R201, R212, R268: a step of a core whose turn it is runs the instruction that the four bytes at the pc of its
first eligible slot decode to, with the issue noted and one cycle passed; a word that is none takes the illegal-
instruction event. A word that the instruction cache holds and that memory holds no more is the old or the new one. A
thread whose held request is served runs its instruction again first (R36). An event that is due runs before both (log
7); a frozen package waits; without power the machine stops. The model's choices in it: log 7, 8, 12, 18. -/
def Obligations.StepRunsDecodedInstruction : Prop :=
  ∀ (s : State),
    (s.powered = false → step s = .fault .poweredOff) ∧
    (s.powered = true → s.frozen = false → ∀ i r, s.agenda = i :: r → step s = exec i { s with agenda := r }) ∧
    (s.powered = true → s.frozen = true → s.agenda = [] → step s = .next s) ∧
    ∀ (c : CoreId) (sl : Fin 8) (rest : List CoreId) (p : Phys) (w : IWord), s.powered = true → s.frozen = false →
      s.agenda = [] →
      let th := s.getThread c sl
      let k := s.getCore c
      k.stopped = false → th.status = .ready →
      th.pc.toNat % 4 = 0 → ((s.focus c sl).xlate (s.focus c sl).asid th.pc 4 .fetch).1 = .ok p → p.pa % 4 = 0 →
      ((mapGet k.icache (p.pa / 128) = none ∧ Calm s ∧ s.isDevMem p.pa = true ∧
          w = BitVec.ofNat 32 (leRead s.physByte p.pa 4)) ∨
        (∃ l, mapGet k.icache (p.pa / 128) = some l ∧ w = BitVec.ofNat 32 (l.toNat / 2 ^ (8 * (p.pa % 128))))) →
      let runs := fun (u : State) => ∃ v, (v = w ∨ (s.isDevMem p.pa = true ∧ v = BitVec.ofNat 32 (leRead s.physByte p.pa 4))) ∧
        (∀ i, decode v = .ok i → step s = exec i u) ∧ (∀ e, decode v = .error e → step s = exec (.illegalInstruction v) u) ∧
        u.loc = c ∧ u.slot = sl ∧ (∀ a, u.physByte a = s.physByte a) ∧
        ∀ c' sl', ¬(c' = c ∧ sl' = sl) →
          u.getThread c' sl' = { s.getThread c' sl' with packing := (u.getThread c' sl').packing } ∧
          ((s.threadOf c th.order).packing = [] → u.getThread c' sl' = s.getThread c' sl')
      -- a core cycle: the first eligible slot issues
      (s.rerun = [] → s.schedule = c :: rest → sl.val = k.cycle % 8 → k.dpFree ≤ k.cycle → k.claims = [] →
        (th.lastIssue = none ∨ ∃ l, th.lastIssue = some l ∧ l + 3 < k.cycle) → th.skip = 0 →
        ∃ u, runs u ∧ u.core.cycle = k.cycle + 1 ∧ u.cycles = s.cycles + 1 ∧ (th.packing = [] → u.th.packing = []) ∧
          u.th = { th with
            lastIssue := some k.cycle, since := s.cycles, came := s.issued
            stay := if th.stay = some th.pc then th.stay else none, owes := none
            walked := if th.rewalk then th.walked else [], rewalk := false, packing := u.th.packing }) ∧
      -- a request that was held is served: its instruction runs again, and no cycle passes
      ∀ more, s.rerun = (c, sl) :: more →
        ∃ u, runs u ∧ u.core.cycle = k.cycle ∧ u.cycles = s.cycles ∧ u.th = { th with owes := none, rewalk := false }

/-- R261 to R268: words written out from the encodings of the formats, and words that are illegal. -/
def Obligations.WordsDecodeAsListed : Prop :=
  decode 0x04A63814 = .ok (.mulh 5 6 7) ∧ decode 0x34A0FFFD = .ok (.bne 5 0 (-3)) ∧ decode 0x4C000100 = .ok (.jal 256) ∧
    decode 0x64CA0000 = .ok (.ldd 6 10 0) ∧ decode 0x810C0000 = .ok (.std 8 12 0) ∧ decode 0xC4000A80 = .ok (.trap 0x2A) ∧
    decode 0xC4060803 = .ok (.sysw 6 .fmta) ∧ decode 0xA0060000 = .ok (.vld 0 6 0 .i8) ∧ decode 0xC4200006 = .error .unusedField ∧
    decode 0x9C000000 = .error .typeCode ∧ decode 0xC400000F = .error .unlistedMinor

/-- R261 to R268: for every well-formed instruction that has a word, the decoder reads its word as it, with every operand; and
a word that decodes is the word of the instruction read. -/
def Obligations.DecodeEncodeRoundTrip : Prop :=
  (∀ i : Instr, i.hasWord = true → i.wellFormed = true → decode (encode i) = .ok i) ∧
    ∀ (w : IWord) (i : Instr), decode w = .ok i → i.hasWord = true ∧ i.wellFormed = true ∧ encode i = w

/-- The model's choice of a memory and of cores that are data: from every state, a step keeps the memory of the package in its
canonical form, and the cores that are not idle in ascending order, so that equal contents are equal states (log 1). -/
def Obligations.StepKeepsMemoryCanonical : Prop :=
  ∀ s t : State, step s = .next t → (s.mem.wf = true → t.mem.wf = true) ∧ (CoresOrdered s → CoresOrdered t)
end

