-- ==== Sys2Proof/Laws/Memory.lean ====
section
/-! SUPPORT. The laws of memory and of the finite maps: a read after a write, other places left alone, and the canonical
form that every memory operation keeps. -/

namespace Sys2Proof.Laws

open Sys2Proof.Machine

/-! Finite maps. -/

@[simp] theorem mapGet_nil {α : Type} (a : Nat) : mapGet ([] : Map α) a = none := rfl

/-- A read after a set of the same key. -/
@[simp] theorem mapGet_mapSet_same {α : Type} (m : Map α) (a : Nat) (x : α) : mapGet (mapSet m a x) a = some x := by
  induction m with
  | nil => simp [mapSet, mapGet]
  | cons p r ih =>
    obtain ⟨k, v⟩ := p
    rcases Nat.lt_trichotomy a k with h | h | h
    · simp [mapSet, mapGet, h]
    · simp [mapSet, mapGet, h]
    · have h1 : ¬ a < k := by omega
      have h2 : ¬ a = k := by omega
      have h3 : ¬ k = a := by omega
      simp [mapSet, mapGet, h1, h2, h3, ih]

/-- A set leaves every other key alone. -/
theorem mapGet_mapSet_ne {α : Type} (m : Map α) (a b : Nat) (x : α) (hne : b ≠ a) :
    mapGet (mapSet m a x) b = mapGet m b := by
  induction m with
  | nil => simp [mapSet, mapGet, Ne.symm hne]
  | cons p r ih =>
    obtain ⟨k, v⟩ := p
    rcases Nat.lt_trichotomy a k with h | h | h
    · simp [mapSet, mapGet, h, Ne.symm hne]
    · subst h
      simp [mapSet, mapGet, Ne.symm hne]
    · have h1 : ¬ a < k := by omega
      have h2 : ¬ a = k := by omega
      simp [mapSet, mapGet, h1, h2, ih]

/-- An erased key reads as absent. -/
@[simp] theorem mapGet_mapErase_same {α : Type} (m : Map α) (a : Nat) : mapGet (mapErase m a) a = none := by
  induction m with
  | nil => rfl
  | cons p r ih =>
    obtain ⟨k, v⟩ := p
    by_cases h : a = k
    · simp [mapErase, h, h ▸ ih]
    · simp [mapErase, mapGet, h, Ne.symm h, ih]

/-- Erasing leaves every other key alone. -/
theorem mapGet_mapErase_ne {α : Type} (m : Map α) (a b : Nat) (hne : b ≠ a) : mapGet (mapErase m a) b = mapGet m b := by
  induction m with
  | nil => rfl
  | cons p r ih =>
    obtain ⟨k, v⟩ := p
    by_cases h : a = k
    · subst h
      simp [mapErase, mapGet, Ne.symm hne, ih]
    · simp [mapErase, mapGet, h, ih]

/-! Memory. -/

theorem memByte_of_below (m : Memory) (lo a : Nat) (h : Memory.wfFrom lo m = true) (hlt : a < lo) :
    memByte m a = Memory.unlisted := by
  induction m generalizing lo with
  | nil => rfl
  | cons p r ih =>
    obtain ⟨k, v⟩ := p
    simp only [Memory.wfFrom, Bool.and_eq_true, decide_eq_true_eq] at h
    have h1 : ¬ k = a := by omega
    simp only [memByte, h1, if_false]
    exact ih (k + 1) h.2 (by omega)

theorem wfFrom_mono (m : Memory) (lo lo' : Nat) (hle : lo' ≤ lo) (h : Memory.wfFrom lo m = true) :
    Memory.wfFrom lo' m = true := by
  cases m with
  | nil => rfl
  | cons p r =>
    obtain ⟨k, v⟩ := p
    simp only [Memory.wfFrom, Bool.and_eq_true, decide_eq_true_eq] at h ⊢
    exact ⟨⟨by omega, h.1.2⟩, h.2⟩

/-- A read after a one-byte write of the same address. -/
theorem memByte_memPut_same (m : Memory) (lo a : Nat) (x : Byte) (h : Memory.wfFrom lo m = true) :
    memByte (memPut m a x) a = x := by
  induction m generalizing lo with
  | nil => by_cases hx : x = Memory.unlisted <;> simp [memPut, memByte, hx]
  | cons p r ih =>
    obtain ⟨k, v⟩ := p
    simp only [Memory.wfFrom, Bool.and_eq_true, decide_eq_true_eq] at h
    rcases Nat.lt_trichotomy a k with hk | hk | hk
    · have hb := memByte_of_below r (k + 1) a h.2 (by omega)
      have h1 : ¬ k = a := by omega
      by_cases hx : x = Memory.unlisted <;> simp [memPut, memByte, hk, hx, h1, hb]
    · subst hk
      have hb := memByte_of_below r (a + 1) a h.2 (by omega)
      by_cases hx : x = Memory.unlisted <;> simp [memPut, memByte, hx, hb]
    · have h1 : ¬ a < k := by omega
      have h2 : ¬ a = k := by omega
      have h3 : ¬ k = a := by omega
      simp [memPut, memByte, h1, h2, h3, ih (k + 1) h.2]

/-- A one-byte write leaves every other address alone. -/
theorem memByte_memPut_ne (m : Memory) (a b : Nat) (x : Byte) (hne : b ≠ a) :
    memByte (memPut m a x) b = memByte m b := by
  induction m with
  | nil => by_cases hx : x = Memory.unlisted <;> simp [memPut, memByte, hx, Ne.symm hne]
  | cons p r ih =>
    obtain ⟨k, v⟩ := p
    rcases Nat.lt_trichotomy a k with hk | hk | hk
    · by_cases hx : x = Memory.unlisted <;> simp [memPut, memByte, hk, hx, Ne.symm hne]
    · subst hk
      by_cases hx : x = Memory.unlisted <;> simp [memPut, memByte, hx, Ne.symm hne]
    · have h1 : ¬ a < k := by omega
      have h2 : ¬ a = k := by omega
      simp [memPut, memByte, h1, h2, ih]

theorem wfFrom_memPut (m : Memory) (lo a : Nat) (x : Byte) (h : Memory.wfFrom lo m = true) (hle : lo ≤ a) :
    Memory.wfFrom lo (memPut m a x) = true := by
  induction m generalizing lo with
  | nil => by_cases hx : x = Memory.unlisted <;> simp [memPut, Memory.wfFrom, hx, hle]
  | cons p r ih =>
    obtain ⟨k, v⟩ := p
    have h0 := h
    simp only [Memory.wfFrom, Bool.and_eq_true, decide_eq_true_eq] at h
    rcases Nat.lt_trichotomy a k with hk | hk | hk
    · by_cases hx : x = Memory.unlisted
      · simp [memPut, hk, hx, h0]
      · have h2 : Memory.wfFrom (k + 1) r = true := h.2
        have h3 : a + 1 ≤ k := by omega
        simp [memPut, hk, hx, Memory.wfFrom, hle, h.1.2, h2, h3]
    · subst hk
      by_cases hx : x = Memory.unlisted
      · have := wfFrom_mono r (a + 1) lo (by omega) h.2
        simp [memPut, hx, this]
      · simp [memPut, hx, Memory.wfFrom, hle, h.2]
    · have h1 : ¬ a < k := by omega
      have h2 : ¬ a = k := by omega
      simp [memPut, h1, h2, Memory.wfFrom, h.1.1, h.1.2, ih (k + 1) h.2 (by omega)]

/-- A one-byte write keeps the canonical form. -/
@[simp] theorem wf_memPut (m : Memory) (a : Nat) (x : Byte) (h : m.wf = true) : (memPut m a x).wf = true :=
  wfFrom_memPut m 0 a x h (Nat.zero_le _)

/-- A write of several bytes keeps the canonical form. -/
@[simp] theorem wf_memWrite (m : Memory) (a n v : Nat) (h : m.wf = true) : (memWrite m a n v).wf = true := by
  induction n generalizing m a v with
  | zero => exact h
  | succ n ih => exact ih _ _ _ (wf_memPut m a _ h)

/-- A write leaves every address outside its bytes alone. -/
theorem memByte_memWrite_out (m : Memory) (a n v b : Nat) (h : b < a ∨ a + n ≤ b) :
    memByte (memWrite m a n v) b = memByte m b := by
  induction n generalizing m a v with
  | zero => rfl
  | succ n ih =>
    rw [memWrite, ih _ _ _ (by omega), memByte_memPut_ne _ _ _ _ (by omega)]

/-- A write puts byte `i` of the value at its address. -/
theorem memByte_memWrite_in (m : Memory) (a n v i : Nat) (h : m.wf = true) (hi : i < n) :
    memByte (memWrite m a n v) (a + i) = BitVec.ofNat 8 (v / 256 ^ i) := by
  induction n generalizing m a v i with
  | zero => omega
  | succ n ih =>
    cases i with
    | zero =>
      rw [memWrite, memByte_memWrite_out _ _ _ _ _ (by omega)]
      simpa using memByte_memPut_same m 0 a (BitVec.ofNat 8 v) h
    | succ i =>
      rw [memWrite, show a + (i + 1) = a + 1 + i by omega, ih _ _ _ _ (wf_memPut m a _ h) (by omega),
        Nat.div_div_eq_div_mul, Nat.pow_succ, Nat.mul_comm]

/-- The canonical form, said of the list: keys strictly rising from `lo`, no value that an unlisted address reads as. -/
theorem wfFrom_iff (m : Memory) (lo : Nat) :
    Memory.wfFrom lo m = true ↔
      m.Pairwise (fun p q => p.1 < q.1) ∧ (∀ p ∈ m, lo ≤ p.1) ∧ ∀ p ∈ m, p.2 ≠ Memory.unlisted := by
  induction m generalizing lo with
  | nil => simp [Memory.wfFrom]
  | cons p r ih =>
    obtain ⟨k, v⟩ := p
    simp only [Memory.wfFrom, Bool.and_eq_true, decide_eq_true_eq, ih, List.pairwise_cons, List.mem_cons, forall_eq_or_imp]
    constructor
    · rintro ⟨⟨h1, h2⟩, h3, h4, h5⟩
      exact ⟨⟨fun q hq => by have := h4 q hq; omega, h3⟩, ⟨h1, fun q hq => by have := h4 q hq; omega⟩, h2, h5⟩
    · rintro ⟨⟨h1, h2⟩, ⟨h3, _⟩, h5, h6⟩
      exact ⟨⟨h3, h5⟩, h2, fun q hq => by have := h1 q hq; omega, h6⟩

theorem wf_iff (m : Memory) :
    m.wf = true ↔ m.Pairwise (fun p q => p.1 < q.1) ∧ ∀ p ∈ m, p.2 ≠ Memory.unlisted := by
  simp [Memory.wf, wfFrom_iff]

/-- The bytes that a fill puts down rise strictly and stay within its range. -/
theorem pairwise_fill (a : Nat) (bs : List Byte) :
    (bs.mapIdx fun i b => (a + i, b)).Pairwise (fun p q => p.1 < q.1) := by
  rw [List.pairwise_iff_getElem]
  intro i j hi hj hij
  simp
  omega

/-- Filling with a list of bytes keeps the canonical form. -/
@[simp] theorem wf_memFill (m : Memory) (a : Nat) (bs : List Byte) (h : m.wf = true) : (memFill m a bs).wf = true := by
  rw [wf_iff] at h ⊢
  obtain ⟨hp, hv⟩ := h
  constructor
  · rw [memFill, List.pairwise_append, List.pairwise_append]
    refine ⟨⟨hp.filter _, (pairwise_fill a bs).filter _, ?_⟩, hp.filter _, ?_⟩
    · intro p hp' q hq
      simp only [List.mem_filter, List.mem_mapIdx, decide_eq_true_eq] at hp' hq
      obtain ⟨⟨i, _, rfl⟩, _⟩ := hq
      have := hp'.2
      show p.1 < a + i
      omega
    · intro p hp' q hq
      simp only [List.mem_append, List.mem_filter, List.mem_mapIdx, decide_eq_true_eq] at hp' hq
      rcases hp' with hp' | ⟨⟨i, hi, rfl⟩, _⟩
      · have := hp'.2
        have := hq.2
        omega
      · have := hq.2
        show a + i < q.1
        omega
  · intro p hp'
    simp only [memFill, List.mem_append, List.mem_filter, List.mem_mapIdx, bne_iff_ne] at hp'
    rcases hp' with (hp' | hp') | hp'
    · exact hv p hp'.1
    · exact hp'.2
    · exact hv p hp'.1

end Sys2Proof.Laws
end

