-- ==== Sys2Proof/Laws/State.lean ====
section
/-! SUPPORT. What each named update of the state leaves and what it writes, one lemma per field, so that no proof unfolds a
record update. -/

namespace Sys2Proof.Laws

open Sys2Proof.Machine

/-! `State.onTh`. -/

@[simp] theorem onTh_powered (s : State) (f : Thread → Thread) : (s.onTh f).powered = s.powered := rfl
@[simp] theorem onTh_frozen (s : State) (f : Thread → Thread) : (s.onTh f).frozen = s.frozen := rfl
@[simp] theorem onTh_freezePin (s : State) (f : Thread → Thread) : (s.onTh f).freezePin = s.freezePin := rfl
@[simp] theorem onTh_resetHeld (s : State) (f : Thread → Thread) : (s.onTh f).resetHeld = s.resetHeld := rfl
@[simp] theorem onTh_cycles (s : State) (f : Thread → Thread) : (s.onTh f).cycles = s.cycles := rfl
@[simp] theorem onTh_thermal (s : State) (f : Thread → Thread) : (s.onTh f).thermal = s.thermal := rfl
@[simp] theorem onTh_debugToken (s : State) (f : Thread → Thread) : (s.onTh f).debugToken = s.debugToken := rfl
@[simp] theorem onTh_debugFuse (s : State) (f : Thread → Thread) : (s.onTh f).debugFuse = s.debugFuse := rfl
@[simp] theorem onTh_fuseKeyHash (s : State) (f : Thread → Thread) : (s.onTh f).fuseKeyHash = s.fuseKeyHash := rfl
@[simp] theorem onTh_fuseMinSec (s : State) (f : Thread → Thread) : (s.onTh f).fuseMinSec = s.fuseMinSec := rfl
@[simp] theorem onTh_harvest (s : State) (f : Thread → Thread) : (s.onTh f).harvest = s.harvest := rfl
@[simp] theorem onTh_pkgid (s : State) (f : Thread → Thread) : (s.onTh f).pkgid = s.pkgid := rfl
@[simp] theorem onTh_sramShadow (s : State) (f : Thread → Thread) : (s.onTh f).sramShadow = s.sramShadow := rfl
@[simp] theorem onTh_bootState (s : State) (f : Thread → Thread) : (s.onTh f).bootState = s.bootState := rfl
@[simp] theorem onTh_bootImage (s : State) (f : Thread → Thread) : (s.onTh f).bootImage = s.bootImage := rfl
@[simp] theorem onTh_bootCause (s : State) (f : Thread → Thread) : (s.onTh f).bootCause = s.bootCause := rfl
@[simp] theorem onTh_bootDigests (s : State) (f : Thread → Thread) : (s.onTh f).bootDigests = s.bootDigests := rfl
@[simp] theorem onTh_bootNext (s : State) (f : Thread → Thread) : (s.onTh f).bootNext = s.bootNext := rfl
@[simp] theorem onTh_bootEntry (s : State) (f : Thread → Thread) : (s.onTh f).bootEntry = s.bootEntry := rfl
@[simp] theorem onTh_causeway (s : State) (f : Thread → Thread) : (s.onTh f).causeway = s.causeway := rfl
@[simp] theorem onTh_outbox (s : State) (f : Thread → Thread) : (s.onTh f).outbox = s.outbox := rfl
@[simp] theorem onTh_agenda (s : State) (f : Thread → Thread) : (s.onTh f).agenda = s.agenda := rfl
@[simp] theorem onTh_schedule (s : State) (f : Thread → Thread) : (s.onTh f).schedule = s.schedule := rfl
@[simp] theorem onTh_freeCount (s : State) (f : Thread → Thread) : (s.onTh f).freeCount = s.freeCount := rfl
@[simp] theorem onTh_links (s : State) (f : Thread → Thread) : (s.onTh f).links = s.links := rfl
@[simp] theorem onTh_holdings (s : State) (f : Thread → Thread) : (s.onTh f).holdings = s.holdings := rfl
@[simp] theorem onTh_alleysDown (s : State) (f : Thread → Thread) : (s.onTh f).alleysDown = s.alleysDown := rfl
@[simp] theorem onTh_outstanding (s : State) (f : Thread → Thread) : (s.onTh f).outstanding = s.outstanding := rfl
@[simp] theorem onTh_fports (s : State) (f : Thread → Thread) : (s.onTh f).fports = s.fports := rfl
@[simp] theorem onTh_ltGen (s : State) (f : Thread → Thread) : (s.onTh f).ltGen = s.ltGen := rfl
@[simp] theorem onTh_ltStale (s : State) (f : Thread → Thread) : (s.onTh f).ltStale = s.ltStale := rfl
@[simp] theorem onTh_linkTable (s : State) (f : Thread → Thread) : (s.onTh f).linkTable = s.linkTable := rfl
@[simp] theorem onTh_ltPending (s : State) (f : Thread → Thread) : (s.onTh f).ltPending = s.ltPending := rfl
@[simp] theorem onTh_flows (s : State) (f : Thread → Thread) : (s.onTh f).flows = s.flows := rfl
@[simp] theorem onTh_liveMask (s : State) (f : Thread → Thread) : (s.onTh f).liveMask = s.liveMask := rfl
@[simp] theorem onTh_fenced (s : State) (f : Thread → Thread) : (s.onTh f).fenced = s.fenced := rfl
@[simp] theorem onTh_splitWait (s : State) (f : Thread → Thread) : (s.onTh f).splitWait = s.splitWait := rfl
@[simp] theorem onTh_lostDies (s : State) (f : Thread → Thread) : (s.onTh f).lostDies = s.lostDies := rfl
@[simp] theorem onTh_cxl (s : State) (f : Thread → Thread) : (s.onTh f).cxl = s.cxl := rfl
@[simp] theorem onTh_bisnps (s : State) (f : Thread → Thread) : (s.onTh f).bisnps = s.bisnps := rfl
@[simp] theorem onTh_hostHeld (s : State) (f : Thread → Thread) : (s.onTh f).hostHeld = s.hostHeld := rfl
@[simp] theorem onTh_hostLines (s : State) (f : Thread → Thread) : (s.onTh f).hostLines = s.hostLines := rfl
@[simp] theorem onTh_mailboxes (s : State) (f : Thread → Thread) : (s.onTh f).mailboxes = s.mailboxes := rfl
@[simp] theorem onTh_queues (s : State) (f : Thread → Thread) : (s.onTh f).queues = s.queues := rfl
@[simp] theorem onTh_alrtBase (s : State) (f : Thread → Thread) : (s.onTh f).alrtBase = s.alrtBase := rfl
@[simp] theorem onTh_alrtLog2n (s : State) (f : Thread → Thread) : (s.onTh f).alrtLog2n = s.alrtLog2n := rfl
@[simp] theorem onTh_alrtEn (s : State) (f : Thread → Thread) : (s.onTh f).alrtEn = s.alrtEn := rfl
@[simp] theorem onTh_alrtHead (s : State) (f : Thread → Thread) : (s.onTh f).alrtHead = s.alrtHead := rfl
@[simp] theorem onTh_alrtTail (s : State) (f : Thread → Thread) : (s.onTh f).alrtTail = s.alrtTail := rfl
@[simp] theorem onTh_alrtLost (s : State) (f : Thread → Thread) : (s.onTh f).alrtLost = s.alrtLost := rfl
@[simp] theorem onTh_alrtSeq (s : State) (f : Thread → Thread) : (s.onTh f).alrtSeq = s.alrtSeq := rfl
@[simp] theorem onTh_alrtHeld (s : State) (f : Thread → Thread) : (s.onTh f).alrtHeld = s.alrtHeld := rfl
@[simp] theorem onTh_alrtFlight (s : State) (f : Thread → Thread) : (s.onTh f).alrtFlight = s.alrtFlight := rfl
@[simp] theorem onTh_mem (s : State) (f : Thread → Thread) : (s.onTh f).mem = s.mem := rfl
@[simp] theorem onTh_dirty (s : State) (f : Thread → Thread) : (s.onTh f).dirty = s.dirty := rfl
@[simp] theorem onTh_shadow (s : State) (f : Thread → Thread) : (s.onTh f).shadow = s.shadow := rfl
@[simp] theorem onTh_psect (s : State) (f : Thread → Thread) : (s.onTh f).psect = s.psect := rfl
@[simp] theorem onTh_lines (s : State) (f : Thread → Thread) : (s.onTh f).lines = s.lines := rfl
@[simp] theorem onTh_evicting (s : State) (f : Thread → Thread) : (s.onTh f).evicting = s.evicting := rfl
@[simp] theorem onTh_rerun (s : State) (f : Thread → Thread) : (s.onTh f).rerun = s.rerun := rfl
@[simp] theorem onTh_awayReqs (s : State) (f : Thread → Thread) : (s.onTh f).awayReqs = s.awayReqs := rfl
@[simp] theorem onTh_responses (s : State) (f : Thread → Thread) : (s.onTh f).responses = s.responses := rfl
@[simp] theorem onTh_preSplit (s : State) (f : Thread → Thread) : (s.onTh f).preSplit = s.preSplit := rfl
@[simp] theorem onTh_statWait (s : State) (f : Thread → Thread) : (s.onTh f).statWait = s.statWait := rfl
@[simp] theorem onTh_issued (s : State) (f : Thread → Thread) : (s.onTh f).issued = s.issued := rfl
@[simp] theorem onTh_tiles (s : State) (f : Thread → Thread) : (s.onTh f).tiles = s.tiles := rfl
@[simp] theorem onTh_declRecs (s : State) (f : Thread → Thread) : (s.onTh f).declRecs = s.declRecs := rfl
@[simp] theorem onTh_replicas (s : State) (f : Thread → Thread) : (s.onTh f).replicas = s.replicas := rfl
@[simp] theorem onTh_kills (s : State) (f : Thread → Thread) : (s.onTh f).kills = s.kills := rfl
@[simp] theorem onTh_coreMaps (s : State) (f : Thread → Thread) : (s.onTh f).coreMaps = s.coreMaps := rfl
@[simp] theorem onTh_channels (s : State) (f : Thread → Thread) : (s.onTh f).channels = s.channels := rfl
@[simp] theorem onTh_notices (s : State) (f : Thread → Thread) : (s.onTh f).notices = s.notices := rfl
@[simp] theorem onTh_fqWait (s : State) (f : Thread → Thread) : (s.onTh f).fqWait = s.fqWait := rfl
@[simp] theorem onTh_ctxtEn (s : State) (f : Thread → Thread) : (s.onTh f).ctxtEn = s.ctxtEn := rfl
@[simp] theorem onTh_ctxtBase (s : State) (f : Thread → Thread) : (s.onTh f).ctxtBase = s.ctxtBase := rfl
@[simp] theorem onTh_tvEn (s : State) (f : Thread → Thread) : (s.onTh f).tvEn = s.tvEn := rfl
@[simp] theorem onTh_tvBase (s : State) (f : Thread → Thread) : (s.onTh f).tvBase = s.tvBase := rfl
@[simp] theorem onTh_lct (s : State) (f : Thread → Thread) : (s.onTh f).lct = s.lct := rfl
@[simp] theorem onTh_lctLock (s : State) (f : Thread → Thread) : (s.onTh f).lctLock = s.lctLock := rfl
@[simp] theorem onTh_lctErr (s : State) (f : Thread → Thread) : (s.onTh f).lctErr = s.lctErr := rfl
@[simp] theorem onTh_nlog (s : State) (f : Thread → Thread) : (s.onTh f).nlog = s.nlog := rfl
@[simp] theorem onTh_parts (s : State) (f : Thread → Thread) : (s.onTh f).parts = s.parts := rfl
@[simp] theorem onTh_launches (s : State) (f : Thread → Thread) : (s.onTh f).launches = s.launches := rfl
@[simp] theorem onTh_bands (s : State) (f : Thread → Thread) : (s.onTh f).bands = s.bands := rfl
@[simp] theorem onTh_areas (s : State) (f : Thread → Thread) : (s.onTh f).areas = s.areas := rfl
@[simp] theorem onTh_loc (s : State) (f : Thread → Thread) : (s.onTh f).loc = s.loc := rfl
@[simp] theorem onTh_core (s : State) (f : Thread → Thread) : (s.onTh f).core = s.core := rfl
@[simp] theorem onTh_slot (s : State) (f : Thread → Thread) : (s.onTh f).slot = s.slot := rfl
@[simp] theorem onTh_th (s : State) (f : Thread → Thread) : (s.onTh f).th = f s.th := rfl
@[simp] theorem onTh_cores (s : State) (f : Thread → Thread) : (s.onTh f).cores = s.cores := rfl

/-! `State.onHere`. -/

@[simp] theorem onHere_powered (s : State) (f : Core → Core) : (s.onHere f).powered = s.powered := rfl
@[simp] theorem onHere_frozen (s : State) (f : Core → Core) : (s.onHere f).frozen = s.frozen := rfl
@[simp] theorem onHere_freezePin (s : State) (f : Core → Core) : (s.onHere f).freezePin = s.freezePin := rfl
@[simp] theorem onHere_resetHeld (s : State) (f : Core → Core) : (s.onHere f).resetHeld = s.resetHeld := rfl
@[simp] theorem onHere_cycles (s : State) (f : Core → Core) : (s.onHere f).cycles = s.cycles := rfl
@[simp] theorem onHere_thermal (s : State) (f : Core → Core) : (s.onHere f).thermal = s.thermal := rfl
@[simp] theorem onHere_debugToken (s : State) (f : Core → Core) : (s.onHere f).debugToken = s.debugToken := rfl
@[simp] theorem onHere_debugFuse (s : State) (f : Core → Core) : (s.onHere f).debugFuse = s.debugFuse := rfl
@[simp] theorem onHere_fuseKeyHash (s : State) (f : Core → Core) : (s.onHere f).fuseKeyHash = s.fuseKeyHash := rfl
@[simp] theorem onHere_fuseMinSec (s : State) (f : Core → Core) : (s.onHere f).fuseMinSec = s.fuseMinSec := rfl
@[simp] theorem onHere_harvest (s : State) (f : Core → Core) : (s.onHere f).harvest = s.harvest := rfl
@[simp] theorem onHere_pkgid (s : State) (f : Core → Core) : (s.onHere f).pkgid = s.pkgid := rfl
@[simp] theorem onHere_sramShadow (s : State) (f : Core → Core) : (s.onHere f).sramShadow = s.sramShadow := rfl
@[simp] theorem onHere_bootState (s : State) (f : Core → Core) : (s.onHere f).bootState = s.bootState := rfl
@[simp] theorem onHere_bootImage (s : State) (f : Core → Core) : (s.onHere f).bootImage = s.bootImage := rfl
@[simp] theorem onHere_bootCause (s : State) (f : Core → Core) : (s.onHere f).bootCause = s.bootCause := rfl
@[simp] theorem onHere_bootDigests (s : State) (f : Core → Core) : (s.onHere f).bootDigests = s.bootDigests := rfl
@[simp] theorem onHere_bootNext (s : State) (f : Core → Core) : (s.onHere f).bootNext = s.bootNext := rfl
@[simp] theorem onHere_bootEntry (s : State) (f : Core → Core) : (s.onHere f).bootEntry = s.bootEntry := rfl
@[simp] theorem onHere_causeway (s : State) (f : Core → Core) : (s.onHere f).causeway = s.causeway := rfl
@[simp] theorem onHere_outbox (s : State) (f : Core → Core) : (s.onHere f).outbox = s.outbox := rfl
@[simp] theorem onHere_agenda (s : State) (f : Core → Core) : (s.onHere f).agenda = s.agenda := rfl
@[simp] theorem onHere_schedule (s : State) (f : Core → Core) : (s.onHere f).schedule = s.schedule := rfl
@[simp] theorem onHere_freeCount (s : State) (f : Core → Core) : (s.onHere f).freeCount = s.freeCount := rfl
@[simp] theorem onHere_links (s : State) (f : Core → Core) : (s.onHere f).links = s.links := rfl
@[simp] theorem onHere_holdings (s : State) (f : Core → Core) : (s.onHere f).holdings = s.holdings := rfl
@[simp] theorem onHere_alleysDown (s : State) (f : Core → Core) : (s.onHere f).alleysDown = s.alleysDown := rfl
@[simp] theorem onHere_outstanding (s : State) (f : Core → Core) : (s.onHere f).outstanding = s.outstanding := rfl
@[simp] theorem onHere_fports (s : State) (f : Core → Core) : (s.onHere f).fports = s.fports := rfl
@[simp] theorem onHere_ltGen (s : State) (f : Core → Core) : (s.onHere f).ltGen = s.ltGen := rfl
@[simp] theorem onHere_ltStale (s : State) (f : Core → Core) : (s.onHere f).ltStale = s.ltStale := rfl
@[simp] theorem onHere_linkTable (s : State) (f : Core → Core) : (s.onHere f).linkTable = s.linkTable := rfl
@[simp] theorem onHere_ltPending (s : State) (f : Core → Core) : (s.onHere f).ltPending = s.ltPending := rfl
@[simp] theorem onHere_flows (s : State) (f : Core → Core) : (s.onHere f).flows = s.flows := rfl
@[simp] theorem onHere_liveMask (s : State) (f : Core → Core) : (s.onHere f).liveMask = s.liveMask := rfl
@[simp] theorem onHere_fenced (s : State) (f : Core → Core) : (s.onHere f).fenced = s.fenced := rfl
@[simp] theorem onHere_splitWait (s : State) (f : Core → Core) : (s.onHere f).splitWait = s.splitWait := rfl
@[simp] theorem onHere_lostDies (s : State) (f : Core → Core) : (s.onHere f).lostDies = s.lostDies := rfl
@[simp] theorem onHere_cxl (s : State) (f : Core → Core) : (s.onHere f).cxl = s.cxl := rfl
@[simp] theorem onHere_bisnps (s : State) (f : Core → Core) : (s.onHere f).bisnps = s.bisnps := rfl
@[simp] theorem onHere_hostHeld (s : State) (f : Core → Core) : (s.onHere f).hostHeld = s.hostHeld := rfl
@[simp] theorem onHere_hostLines (s : State) (f : Core → Core) : (s.onHere f).hostLines = s.hostLines := rfl
@[simp] theorem onHere_mailboxes (s : State) (f : Core → Core) : (s.onHere f).mailboxes = s.mailboxes := rfl
@[simp] theorem onHere_queues (s : State) (f : Core → Core) : (s.onHere f).queues = s.queues := rfl
@[simp] theorem onHere_alrtBase (s : State) (f : Core → Core) : (s.onHere f).alrtBase = s.alrtBase := rfl
@[simp] theorem onHere_alrtLog2n (s : State) (f : Core → Core) : (s.onHere f).alrtLog2n = s.alrtLog2n := rfl
@[simp] theorem onHere_alrtEn (s : State) (f : Core → Core) : (s.onHere f).alrtEn = s.alrtEn := rfl
@[simp] theorem onHere_alrtHead (s : State) (f : Core → Core) : (s.onHere f).alrtHead = s.alrtHead := rfl
@[simp] theorem onHere_alrtTail (s : State) (f : Core → Core) : (s.onHere f).alrtTail = s.alrtTail := rfl
@[simp] theorem onHere_alrtLost (s : State) (f : Core → Core) : (s.onHere f).alrtLost = s.alrtLost := rfl
@[simp] theorem onHere_alrtSeq (s : State) (f : Core → Core) : (s.onHere f).alrtSeq = s.alrtSeq := rfl
@[simp] theorem onHere_alrtHeld (s : State) (f : Core → Core) : (s.onHere f).alrtHeld = s.alrtHeld := rfl
@[simp] theorem onHere_alrtFlight (s : State) (f : Core → Core) : (s.onHere f).alrtFlight = s.alrtFlight := rfl
@[simp] theorem onHere_mem (s : State) (f : Core → Core) : (s.onHere f).mem = s.mem := rfl
@[simp] theorem onHere_dirty (s : State) (f : Core → Core) : (s.onHere f).dirty = s.dirty := rfl
@[simp] theorem onHere_shadow (s : State) (f : Core → Core) : (s.onHere f).shadow = s.shadow := rfl
@[simp] theorem onHere_psect (s : State) (f : Core → Core) : (s.onHere f).psect = s.psect := rfl
@[simp] theorem onHere_lines (s : State) (f : Core → Core) : (s.onHere f).lines = s.lines := rfl
@[simp] theorem onHere_evicting (s : State) (f : Core → Core) : (s.onHere f).evicting = s.evicting := rfl
@[simp] theorem onHere_rerun (s : State) (f : Core → Core) : (s.onHere f).rerun = s.rerun := rfl
@[simp] theorem onHere_awayReqs (s : State) (f : Core → Core) : (s.onHere f).awayReqs = s.awayReqs := rfl
@[simp] theorem onHere_responses (s : State) (f : Core → Core) : (s.onHere f).responses = s.responses := rfl
@[simp] theorem onHere_preSplit (s : State) (f : Core → Core) : (s.onHere f).preSplit = s.preSplit := rfl
@[simp] theorem onHere_statWait (s : State) (f : Core → Core) : (s.onHere f).statWait = s.statWait := rfl
@[simp] theorem onHere_issued (s : State) (f : Core → Core) : (s.onHere f).issued = s.issued := rfl
@[simp] theorem onHere_tiles (s : State) (f : Core → Core) : (s.onHere f).tiles = s.tiles := rfl
@[simp] theorem onHere_declRecs (s : State) (f : Core → Core) : (s.onHere f).declRecs = s.declRecs := rfl
@[simp] theorem onHere_replicas (s : State) (f : Core → Core) : (s.onHere f).replicas = s.replicas := rfl
@[simp] theorem onHere_kills (s : State) (f : Core → Core) : (s.onHere f).kills = s.kills := rfl
@[simp] theorem onHere_coreMaps (s : State) (f : Core → Core) : (s.onHere f).coreMaps = s.coreMaps := rfl
@[simp] theorem onHere_channels (s : State) (f : Core → Core) : (s.onHere f).channels = s.channels := rfl
@[simp] theorem onHere_notices (s : State) (f : Core → Core) : (s.onHere f).notices = s.notices := rfl
@[simp] theorem onHere_fqWait (s : State) (f : Core → Core) : (s.onHere f).fqWait = s.fqWait := rfl
@[simp] theorem onHere_ctxtEn (s : State) (f : Core → Core) : (s.onHere f).ctxtEn = s.ctxtEn := rfl
@[simp] theorem onHere_ctxtBase (s : State) (f : Core → Core) : (s.onHere f).ctxtBase = s.ctxtBase := rfl
@[simp] theorem onHere_tvEn (s : State) (f : Core → Core) : (s.onHere f).tvEn = s.tvEn := rfl
@[simp] theorem onHere_tvBase (s : State) (f : Core → Core) : (s.onHere f).tvBase = s.tvBase := rfl
@[simp] theorem onHere_lct (s : State) (f : Core → Core) : (s.onHere f).lct = s.lct := rfl
@[simp] theorem onHere_lctLock (s : State) (f : Core → Core) : (s.onHere f).lctLock = s.lctLock := rfl
@[simp] theorem onHere_lctErr (s : State) (f : Core → Core) : (s.onHere f).lctErr = s.lctErr := rfl
@[simp] theorem onHere_nlog (s : State) (f : Core → Core) : (s.onHere f).nlog = s.nlog := rfl
@[simp] theorem onHere_parts (s : State) (f : Core → Core) : (s.onHere f).parts = s.parts := rfl
@[simp] theorem onHere_launches (s : State) (f : Core → Core) : (s.onHere f).launches = s.launches := rfl
@[simp] theorem onHere_bands (s : State) (f : Core → Core) : (s.onHere f).bands = s.bands := rfl
@[simp] theorem onHere_areas (s : State) (f : Core → Core) : (s.onHere f).areas = s.areas := rfl
@[simp] theorem onHere_loc (s : State) (f : Core → Core) : (s.onHere f).loc = s.loc := rfl
@[simp] theorem onHere_core (s : State) (f : Core → Core) : (s.onHere f).core = f s.core := rfl
@[simp] theorem onHere_slot (s : State) (f : Core → Core) : (s.onHere f).slot = s.slot := rfl
@[simp] theorem onHere_th (s : State) (f : Core → Core) : (s.onHere f).th = s.th := rfl
@[simp] theorem onHere_cores (s : State) (f : Core → Core) : (s.onHere f).cores = s.cores := rfl

/-! `State.onRegs`. -/

@[simp] theorem onRegs_powered (s : State) (f : Regs → Regs) : (s.onRegs f).powered = s.powered := rfl
@[simp] theorem onRegs_frozen (s : State) (f : Regs → Regs) : (s.onRegs f).frozen = s.frozen := rfl
@[simp] theorem onRegs_freezePin (s : State) (f : Regs → Regs) : (s.onRegs f).freezePin = s.freezePin := rfl
@[simp] theorem onRegs_resetHeld (s : State) (f : Regs → Regs) : (s.onRegs f).resetHeld = s.resetHeld := rfl
@[simp] theorem onRegs_cycles (s : State) (f : Regs → Regs) : (s.onRegs f).cycles = s.cycles := rfl
@[simp] theorem onRegs_thermal (s : State) (f : Regs → Regs) : (s.onRegs f).thermal = s.thermal := rfl
@[simp] theorem onRegs_debugToken (s : State) (f : Regs → Regs) : (s.onRegs f).debugToken = s.debugToken := rfl
@[simp] theorem onRegs_debugFuse (s : State) (f : Regs → Regs) : (s.onRegs f).debugFuse = s.debugFuse := rfl
@[simp] theorem onRegs_fuseKeyHash (s : State) (f : Regs → Regs) : (s.onRegs f).fuseKeyHash = s.fuseKeyHash := rfl
@[simp] theorem onRegs_fuseMinSec (s : State) (f : Regs → Regs) : (s.onRegs f).fuseMinSec = s.fuseMinSec := rfl
@[simp] theorem onRegs_harvest (s : State) (f : Regs → Regs) : (s.onRegs f).harvest = s.harvest := rfl
@[simp] theorem onRegs_pkgid (s : State) (f : Regs → Regs) : (s.onRegs f).pkgid = s.pkgid := rfl
@[simp] theorem onRegs_sramShadow (s : State) (f : Regs → Regs) : (s.onRegs f).sramShadow = s.sramShadow := rfl
@[simp] theorem onRegs_bootState (s : State) (f : Regs → Regs) : (s.onRegs f).bootState = s.bootState := rfl
@[simp] theorem onRegs_bootImage (s : State) (f : Regs → Regs) : (s.onRegs f).bootImage = s.bootImage := rfl
@[simp] theorem onRegs_bootCause (s : State) (f : Regs → Regs) : (s.onRegs f).bootCause = s.bootCause := rfl
@[simp] theorem onRegs_bootDigests (s : State) (f : Regs → Regs) : (s.onRegs f).bootDigests = s.bootDigests := rfl
@[simp] theorem onRegs_bootNext (s : State) (f : Regs → Regs) : (s.onRegs f).bootNext = s.bootNext := rfl
@[simp] theorem onRegs_bootEntry (s : State) (f : Regs → Regs) : (s.onRegs f).bootEntry = s.bootEntry := rfl
@[simp] theorem onRegs_causeway (s : State) (f : Regs → Regs) : (s.onRegs f).causeway = s.causeway := rfl
@[simp] theorem onRegs_outbox (s : State) (f : Regs → Regs) : (s.onRegs f).outbox = s.outbox := rfl
@[simp] theorem onRegs_agenda (s : State) (f : Regs → Regs) : (s.onRegs f).agenda = s.agenda := rfl
@[simp] theorem onRegs_schedule (s : State) (f : Regs → Regs) : (s.onRegs f).schedule = s.schedule := rfl
@[simp] theorem onRegs_freeCount (s : State) (f : Regs → Regs) : (s.onRegs f).freeCount = s.freeCount := rfl
@[simp] theorem onRegs_links (s : State) (f : Regs → Regs) : (s.onRegs f).links = s.links := rfl
@[simp] theorem onRegs_holdings (s : State) (f : Regs → Regs) : (s.onRegs f).holdings = s.holdings := rfl
@[simp] theorem onRegs_alleysDown (s : State) (f : Regs → Regs) : (s.onRegs f).alleysDown = s.alleysDown := rfl
@[simp] theorem onRegs_outstanding (s : State) (f : Regs → Regs) : (s.onRegs f).outstanding = s.outstanding := rfl
@[simp] theorem onRegs_fports (s : State) (f : Regs → Regs) : (s.onRegs f).fports = s.fports := rfl
@[simp] theorem onRegs_ltGen (s : State) (f : Regs → Regs) : (s.onRegs f).ltGen = s.ltGen := rfl
@[simp] theorem onRegs_ltStale (s : State) (f : Regs → Regs) : (s.onRegs f).ltStale = s.ltStale := rfl
@[simp] theorem onRegs_linkTable (s : State) (f : Regs → Regs) : (s.onRegs f).linkTable = s.linkTable := rfl
@[simp] theorem onRegs_ltPending (s : State) (f : Regs → Regs) : (s.onRegs f).ltPending = s.ltPending := rfl
@[simp] theorem onRegs_flows (s : State) (f : Regs → Regs) : (s.onRegs f).flows = s.flows := rfl
@[simp] theorem onRegs_liveMask (s : State) (f : Regs → Regs) : (s.onRegs f).liveMask = s.liveMask := rfl
@[simp] theorem onRegs_fenced (s : State) (f : Regs → Regs) : (s.onRegs f).fenced = s.fenced := rfl
@[simp] theorem onRegs_splitWait (s : State) (f : Regs → Regs) : (s.onRegs f).splitWait = s.splitWait := rfl
@[simp] theorem onRegs_lostDies (s : State) (f : Regs → Regs) : (s.onRegs f).lostDies = s.lostDies := rfl
@[simp] theorem onRegs_cxl (s : State) (f : Regs → Regs) : (s.onRegs f).cxl = s.cxl := rfl
@[simp] theorem onRegs_bisnps (s : State) (f : Regs → Regs) : (s.onRegs f).bisnps = s.bisnps := rfl
@[simp] theorem onRegs_hostHeld (s : State) (f : Regs → Regs) : (s.onRegs f).hostHeld = s.hostHeld := rfl
@[simp] theorem onRegs_hostLines (s : State) (f : Regs → Regs) : (s.onRegs f).hostLines = s.hostLines := rfl
@[simp] theorem onRegs_mailboxes (s : State) (f : Regs → Regs) : (s.onRegs f).mailboxes = s.mailboxes := rfl
@[simp] theorem onRegs_queues (s : State) (f : Regs → Regs) : (s.onRegs f).queues = s.queues := rfl
@[simp] theorem onRegs_alrtBase (s : State) (f : Regs → Regs) : (s.onRegs f).alrtBase = s.alrtBase := rfl
@[simp] theorem onRegs_alrtLog2n (s : State) (f : Regs → Regs) : (s.onRegs f).alrtLog2n = s.alrtLog2n := rfl
@[simp] theorem onRegs_alrtEn (s : State) (f : Regs → Regs) : (s.onRegs f).alrtEn = s.alrtEn := rfl
@[simp] theorem onRegs_alrtHead (s : State) (f : Regs → Regs) : (s.onRegs f).alrtHead = s.alrtHead := rfl
@[simp] theorem onRegs_alrtTail (s : State) (f : Regs → Regs) : (s.onRegs f).alrtTail = s.alrtTail := rfl
@[simp] theorem onRegs_alrtLost (s : State) (f : Regs → Regs) : (s.onRegs f).alrtLost = s.alrtLost := rfl
@[simp] theorem onRegs_alrtSeq (s : State) (f : Regs → Regs) : (s.onRegs f).alrtSeq = s.alrtSeq := rfl
@[simp] theorem onRegs_alrtHeld (s : State) (f : Regs → Regs) : (s.onRegs f).alrtHeld = s.alrtHeld := rfl
@[simp] theorem onRegs_alrtFlight (s : State) (f : Regs → Regs) : (s.onRegs f).alrtFlight = s.alrtFlight := rfl
@[simp] theorem onRegs_mem (s : State) (f : Regs → Regs) : (s.onRegs f).mem = s.mem := rfl
@[simp] theorem onRegs_dirty (s : State) (f : Regs → Regs) : (s.onRegs f).dirty = s.dirty := rfl
@[simp] theorem onRegs_shadow (s : State) (f : Regs → Regs) : (s.onRegs f).shadow = s.shadow := rfl
@[simp] theorem onRegs_psect (s : State) (f : Regs → Regs) : (s.onRegs f).psect = s.psect := rfl
@[simp] theorem onRegs_lines (s : State) (f : Regs → Regs) : (s.onRegs f).lines = s.lines := rfl
@[simp] theorem onRegs_evicting (s : State) (f : Regs → Regs) : (s.onRegs f).evicting = s.evicting := rfl
@[simp] theorem onRegs_rerun (s : State) (f : Regs → Regs) : (s.onRegs f).rerun = s.rerun := rfl
@[simp] theorem onRegs_awayReqs (s : State) (f : Regs → Regs) : (s.onRegs f).awayReqs = s.awayReqs := rfl
@[simp] theorem onRegs_responses (s : State) (f : Regs → Regs) : (s.onRegs f).responses = s.responses := rfl
@[simp] theorem onRegs_preSplit (s : State) (f : Regs → Regs) : (s.onRegs f).preSplit = s.preSplit := rfl
@[simp] theorem onRegs_statWait (s : State) (f : Regs → Regs) : (s.onRegs f).statWait = s.statWait := rfl
@[simp] theorem onRegs_issued (s : State) (f : Regs → Regs) : (s.onRegs f).issued = s.issued := rfl
@[simp] theorem onRegs_tiles (s : State) (f : Regs → Regs) : (s.onRegs f).tiles = s.tiles := rfl
@[simp] theorem onRegs_declRecs (s : State) (f : Regs → Regs) : (s.onRegs f).declRecs = s.declRecs := rfl
@[simp] theorem onRegs_replicas (s : State) (f : Regs → Regs) : (s.onRegs f).replicas = s.replicas := rfl
@[simp] theorem onRegs_kills (s : State) (f : Regs → Regs) : (s.onRegs f).kills = s.kills := rfl
@[simp] theorem onRegs_coreMaps (s : State) (f : Regs → Regs) : (s.onRegs f).coreMaps = s.coreMaps := rfl
@[simp] theorem onRegs_channels (s : State) (f : Regs → Regs) : (s.onRegs f).channels = s.channels := rfl
@[simp] theorem onRegs_notices (s : State) (f : Regs → Regs) : (s.onRegs f).notices = s.notices := rfl
@[simp] theorem onRegs_fqWait (s : State) (f : Regs → Regs) : (s.onRegs f).fqWait = s.fqWait := rfl
@[simp] theorem onRegs_ctxtEn (s : State) (f : Regs → Regs) : (s.onRegs f).ctxtEn = s.ctxtEn := rfl
@[simp] theorem onRegs_ctxtBase (s : State) (f : Regs → Regs) : (s.onRegs f).ctxtBase = s.ctxtBase := rfl
@[simp] theorem onRegs_tvEn (s : State) (f : Regs → Regs) : (s.onRegs f).tvEn = s.tvEn := rfl
@[simp] theorem onRegs_tvBase (s : State) (f : Regs → Regs) : (s.onRegs f).tvBase = s.tvBase := rfl
@[simp] theorem onRegs_lct (s : State) (f : Regs → Regs) : (s.onRegs f).lct = s.lct := rfl
@[simp] theorem onRegs_lctLock (s : State) (f : Regs → Regs) : (s.onRegs f).lctLock = s.lctLock := rfl
@[simp] theorem onRegs_lctErr (s : State) (f : Regs → Regs) : (s.onRegs f).lctErr = s.lctErr := rfl
@[simp] theorem onRegs_nlog (s : State) (f : Regs → Regs) : (s.onRegs f).nlog = s.nlog := rfl
@[simp] theorem onRegs_parts (s : State) (f : Regs → Regs) : (s.onRegs f).parts = s.parts := rfl
@[simp] theorem onRegs_launches (s : State) (f : Regs → Regs) : (s.onRegs f).launches = s.launches := rfl
@[simp] theorem onRegs_bands (s : State) (f : Regs → Regs) : (s.onRegs f).bands = s.bands := rfl
@[simp] theorem onRegs_areas (s : State) (f : Regs → Regs) : (s.onRegs f).areas = s.areas := rfl
@[simp] theorem onRegs_loc (s : State) (f : Regs → Regs) : (s.onRegs f).loc = s.loc := rfl
@[simp] theorem onRegs_core (s : State) (f : Regs → Regs) : (s.onRegs f).core = s.core := rfl
@[simp] theorem onRegs_slot (s : State) (f : Regs → Regs) : (s.onRegs f).slot = s.slot := rfl
@[simp] theorem onRegs_th (s : State) (f : Regs → Regs) : (s.onRegs f).th = { s.th with regs := f s.th.regs } := rfl
@[simp] theorem onRegs_cores (s : State) (f : Regs → Regs) : (s.onRegs f).cores = s.cores := rfl

/-! `State.setX`. -/

@[simp] theorem setX_powered (s : State) (i : Reg) (v : Word) : (s.setX i v).powered = s.powered := rfl
@[simp] theorem setX_frozen (s : State) (i : Reg) (v : Word) : (s.setX i v).frozen = s.frozen := rfl
@[simp] theorem setX_freezePin (s : State) (i : Reg) (v : Word) : (s.setX i v).freezePin = s.freezePin := rfl
@[simp] theorem setX_resetHeld (s : State) (i : Reg) (v : Word) : (s.setX i v).resetHeld = s.resetHeld := rfl
@[simp] theorem setX_cycles (s : State) (i : Reg) (v : Word) : (s.setX i v).cycles = s.cycles := rfl
@[simp] theorem setX_thermal (s : State) (i : Reg) (v : Word) : (s.setX i v).thermal = s.thermal := rfl
@[simp] theorem setX_debugToken (s : State) (i : Reg) (v : Word) : (s.setX i v).debugToken = s.debugToken := rfl
@[simp] theorem setX_debugFuse (s : State) (i : Reg) (v : Word) : (s.setX i v).debugFuse = s.debugFuse := rfl
@[simp] theorem setX_fuseKeyHash (s : State) (i : Reg) (v : Word) : (s.setX i v).fuseKeyHash = s.fuseKeyHash := rfl
@[simp] theorem setX_fuseMinSec (s : State) (i : Reg) (v : Word) : (s.setX i v).fuseMinSec = s.fuseMinSec := rfl
@[simp] theorem setX_harvest (s : State) (i : Reg) (v : Word) : (s.setX i v).harvest = s.harvest := rfl
@[simp] theorem setX_pkgid (s : State) (i : Reg) (v : Word) : (s.setX i v).pkgid = s.pkgid := rfl
@[simp] theorem setX_sramShadow (s : State) (i : Reg) (v : Word) : (s.setX i v).sramShadow = s.sramShadow := rfl
@[simp] theorem setX_bootState (s : State) (i : Reg) (v : Word) : (s.setX i v).bootState = s.bootState := rfl
@[simp] theorem setX_bootImage (s : State) (i : Reg) (v : Word) : (s.setX i v).bootImage = s.bootImage := rfl
@[simp] theorem setX_bootCause (s : State) (i : Reg) (v : Word) : (s.setX i v).bootCause = s.bootCause := rfl
@[simp] theorem setX_bootDigests (s : State) (i : Reg) (v : Word) : (s.setX i v).bootDigests = s.bootDigests := rfl
@[simp] theorem setX_bootNext (s : State) (i : Reg) (v : Word) : (s.setX i v).bootNext = s.bootNext := rfl
@[simp] theorem setX_bootEntry (s : State) (i : Reg) (v : Word) : (s.setX i v).bootEntry = s.bootEntry := rfl
@[simp] theorem setX_causeway (s : State) (i : Reg) (v : Word) : (s.setX i v).causeway = s.causeway := rfl
@[simp] theorem setX_outbox (s : State) (i : Reg) (v : Word) : (s.setX i v).outbox = s.outbox := rfl
@[simp] theorem setX_agenda (s : State) (i : Reg) (v : Word) : (s.setX i v).agenda = s.agenda := rfl
@[simp] theorem setX_schedule (s : State) (i : Reg) (v : Word) : (s.setX i v).schedule = s.schedule := rfl
@[simp] theorem setX_freeCount (s : State) (i : Reg) (v : Word) : (s.setX i v).freeCount = s.freeCount := rfl
@[simp] theorem setX_links (s : State) (i : Reg) (v : Word) : (s.setX i v).links = s.links := rfl
@[simp] theorem setX_holdings (s : State) (i : Reg) (v : Word) : (s.setX i v).holdings = s.holdings := rfl
@[simp] theorem setX_alleysDown (s : State) (i : Reg) (v : Word) : (s.setX i v).alleysDown = s.alleysDown := rfl
@[simp] theorem setX_outstanding (s : State) (i : Reg) (v : Word) : (s.setX i v).outstanding = s.outstanding := rfl
@[simp] theorem setX_fports (s : State) (i : Reg) (v : Word) : (s.setX i v).fports = s.fports := rfl
@[simp] theorem setX_ltGen (s : State) (i : Reg) (v : Word) : (s.setX i v).ltGen = s.ltGen := rfl
@[simp] theorem setX_ltStale (s : State) (i : Reg) (v : Word) : (s.setX i v).ltStale = s.ltStale := rfl
@[simp] theorem setX_linkTable (s : State) (i : Reg) (v : Word) : (s.setX i v).linkTable = s.linkTable := rfl
@[simp] theorem setX_ltPending (s : State) (i : Reg) (v : Word) : (s.setX i v).ltPending = s.ltPending := rfl
@[simp] theorem setX_flows (s : State) (i : Reg) (v : Word) : (s.setX i v).flows = s.flows := rfl
@[simp] theorem setX_liveMask (s : State) (i : Reg) (v : Word) : (s.setX i v).liveMask = s.liveMask := rfl
@[simp] theorem setX_fenced (s : State) (i : Reg) (v : Word) : (s.setX i v).fenced = s.fenced := rfl
@[simp] theorem setX_splitWait (s : State) (i : Reg) (v : Word) : (s.setX i v).splitWait = s.splitWait := rfl
@[simp] theorem setX_lostDies (s : State) (i : Reg) (v : Word) : (s.setX i v).lostDies = s.lostDies := rfl
@[simp] theorem setX_cxl (s : State) (i : Reg) (v : Word) : (s.setX i v).cxl = s.cxl := rfl
@[simp] theorem setX_bisnps (s : State) (i : Reg) (v : Word) : (s.setX i v).bisnps = s.bisnps := rfl
@[simp] theorem setX_hostHeld (s : State) (i : Reg) (v : Word) : (s.setX i v).hostHeld = s.hostHeld := rfl
@[simp] theorem setX_hostLines (s : State) (i : Reg) (v : Word) : (s.setX i v).hostLines = s.hostLines := rfl
@[simp] theorem setX_mailboxes (s : State) (i : Reg) (v : Word) : (s.setX i v).mailboxes = s.mailboxes := rfl
@[simp] theorem setX_queues (s : State) (i : Reg) (v : Word) : (s.setX i v).queues = s.queues := rfl
@[simp] theorem setX_alrtBase (s : State) (i : Reg) (v : Word) : (s.setX i v).alrtBase = s.alrtBase := rfl
@[simp] theorem setX_alrtLog2n (s : State) (i : Reg) (v : Word) : (s.setX i v).alrtLog2n = s.alrtLog2n := rfl
@[simp] theorem setX_alrtEn (s : State) (i : Reg) (v : Word) : (s.setX i v).alrtEn = s.alrtEn := rfl
@[simp] theorem setX_alrtHead (s : State) (i : Reg) (v : Word) : (s.setX i v).alrtHead = s.alrtHead := rfl
@[simp] theorem setX_alrtTail (s : State) (i : Reg) (v : Word) : (s.setX i v).alrtTail = s.alrtTail := rfl
@[simp] theorem setX_alrtLost (s : State) (i : Reg) (v : Word) : (s.setX i v).alrtLost = s.alrtLost := rfl
@[simp] theorem setX_alrtSeq (s : State) (i : Reg) (v : Word) : (s.setX i v).alrtSeq = s.alrtSeq := rfl
@[simp] theorem setX_alrtHeld (s : State) (i : Reg) (v : Word) : (s.setX i v).alrtHeld = s.alrtHeld := rfl
@[simp] theorem setX_alrtFlight (s : State) (i : Reg) (v : Word) : (s.setX i v).alrtFlight = s.alrtFlight := rfl
@[simp] theorem setX_mem (s : State) (i : Reg) (v : Word) : (s.setX i v).mem = s.mem := rfl
@[simp] theorem setX_dirty (s : State) (i : Reg) (v : Word) : (s.setX i v).dirty = s.dirty := rfl
@[simp] theorem setX_shadow (s : State) (i : Reg) (v : Word) : (s.setX i v).shadow = s.shadow := rfl
@[simp] theorem setX_psect (s : State) (i : Reg) (v : Word) : (s.setX i v).psect = s.psect := rfl
@[simp] theorem setX_lines (s : State) (i : Reg) (v : Word) : (s.setX i v).lines = s.lines := rfl
@[simp] theorem setX_evicting (s : State) (i : Reg) (v : Word) : (s.setX i v).evicting = s.evicting := rfl
@[simp] theorem setX_rerun (s : State) (i : Reg) (v : Word) : (s.setX i v).rerun = s.rerun := rfl
@[simp] theorem setX_awayReqs (s : State) (i : Reg) (v : Word) : (s.setX i v).awayReqs = s.awayReqs := rfl
@[simp] theorem setX_responses (s : State) (i : Reg) (v : Word) : (s.setX i v).responses = s.responses := rfl
@[simp] theorem setX_preSplit (s : State) (i : Reg) (v : Word) : (s.setX i v).preSplit = s.preSplit := rfl
@[simp] theorem setX_statWait (s : State) (i : Reg) (v : Word) : (s.setX i v).statWait = s.statWait := rfl
@[simp] theorem setX_issued (s : State) (i : Reg) (v : Word) : (s.setX i v).issued = s.issued := rfl
@[simp] theorem setX_tiles (s : State) (i : Reg) (v : Word) : (s.setX i v).tiles = s.tiles := rfl
@[simp] theorem setX_declRecs (s : State) (i : Reg) (v : Word) : (s.setX i v).declRecs = s.declRecs := rfl
@[simp] theorem setX_replicas (s : State) (i : Reg) (v : Word) : (s.setX i v).replicas = s.replicas := rfl
@[simp] theorem setX_kills (s : State) (i : Reg) (v : Word) : (s.setX i v).kills = s.kills := rfl
@[simp] theorem setX_coreMaps (s : State) (i : Reg) (v : Word) : (s.setX i v).coreMaps = s.coreMaps := rfl
@[simp] theorem setX_channels (s : State) (i : Reg) (v : Word) : (s.setX i v).channels = s.channels := rfl
@[simp] theorem setX_notices (s : State) (i : Reg) (v : Word) : (s.setX i v).notices = s.notices := rfl
@[simp] theorem setX_fqWait (s : State) (i : Reg) (v : Word) : (s.setX i v).fqWait = s.fqWait := rfl
@[simp] theorem setX_ctxtEn (s : State) (i : Reg) (v : Word) : (s.setX i v).ctxtEn = s.ctxtEn := rfl
@[simp] theorem setX_ctxtBase (s : State) (i : Reg) (v : Word) : (s.setX i v).ctxtBase = s.ctxtBase := rfl
@[simp] theorem setX_tvEn (s : State) (i : Reg) (v : Word) : (s.setX i v).tvEn = s.tvEn := rfl
@[simp] theorem setX_tvBase (s : State) (i : Reg) (v : Word) : (s.setX i v).tvBase = s.tvBase := rfl
@[simp] theorem setX_lct (s : State) (i : Reg) (v : Word) : (s.setX i v).lct = s.lct := rfl
@[simp] theorem setX_lctLock (s : State) (i : Reg) (v : Word) : (s.setX i v).lctLock = s.lctLock := rfl
@[simp] theorem setX_lctErr (s : State) (i : Reg) (v : Word) : (s.setX i v).lctErr = s.lctErr := rfl
@[simp] theorem setX_nlog (s : State) (i : Reg) (v : Word) : (s.setX i v).nlog = s.nlog := rfl
@[simp] theorem setX_parts (s : State) (i : Reg) (v : Word) : (s.setX i v).parts = s.parts := rfl
@[simp] theorem setX_launches (s : State) (i : Reg) (v : Word) : (s.setX i v).launches = s.launches := rfl
@[simp] theorem setX_bands (s : State) (i : Reg) (v : Word) : (s.setX i v).bands = s.bands := rfl
@[simp] theorem setX_areas (s : State) (i : Reg) (v : Word) : (s.setX i v).areas = s.areas := rfl
@[simp] theorem setX_loc (s : State) (i : Reg) (v : Word) : (s.setX i v).loc = s.loc := rfl
@[simp] theorem setX_core (s : State) (i : Reg) (v : Word) : (s.setX i v).core = s.core := rfl
@[simp] theorem setX_slot (s : State) (i : Reg) (v : Word) : (s.setX i v).slot = s.slot := rfl
@[simp] theorem setX_th (s : State) (i : Reg) (v : Word) : (s.setX i v).th = { s.th with regs := s.th.regs.wx i v } := rfl
@[simp] theorem setX_cores (s : State) (i : Reg) (v : Word) : (s.setX i v).cores = s.cores := rfl

/-! `State.adv`. -/

@[simp] theorem adv_powered (s : State) : s.adv.powered = s.powered := rfl
@[simp] theorem adv_frozen (s : State) : s.adv.frozen = s.frozen := rfl
@[simp] theorem adv_freezePin (s : State) : s.adv.freezePin = s.freezePin := rfl
@[simp] theorem adv_resetHeld (s : State) : s.adv.resetHeld = s.resetHeld := rfl
@[simp] theorem adv_cycles (s : State) : s.adv.cycles = s.cycles := rfl
@[simp] theorem adv_thermal (s : State) : s.adv.thermal = s.thermal := rfl
@[simp] theorem adv_debugToken (s : State) : s.adv.debugToken = s.debugToken := rfl
@[simp] theorem adv_debugFuse (s : State) : s.adv.debugFuse = s.debugFuse := rfl
@[simp] theorem adv_fuseKeyHash (s : State) : s.adv.fuseKeyHash = s.fuseKeyHash := rfl
@[simp] theorem adv_fuseMinSec (s : State) : s.adv.fuseMinSec = s.fuseMinSec := rfl
@[simp] theorem adv_harvest (s : State) : s.adv.harvest = s.harvest := rfl
@[simp] theorem adv_pkgid (s : State) : s.adv.pkgid = s.pkgid := rfl
@[simp] theorem adv_sramShadow (s : State) : s.adv.sramShadow = s.sramShadow := rfl
@[simp] theorem adv_bootState (s : State) : s.adv.bootState = s.bootState := rfl
@[simp] theorem adv_bootImage (s : State) : s.adv.bootImage = s.bootImage := rfl
@[simp] theorem adv_bootCause (s : State) : s.adv.bootCause = s.bootCause := rfl
@[simp] theorem adv_bootDigests (s : State) : s.adv.bootDigests = s.bootDigests := rfl
@[simp] theorem adv_bootNext (s : State) : s.adv.bootNext = s.bootNext := rfl
@[simp] theorem adv_bootEntry (s : State) : s.adv.bootEntry = s.bootEntry := rfl
@[simp] theorem adv_causeway (s : State) : s.adv.causeway = s.causeway := rfl
@[simp] theorem adv_outbox (s : State) : s.adv.outbox = s.outbox := rfl
@[simp] theorem adv_agenda (s : State) : s.adv.agenda = s.agenda := rfl
@[simp] theorem adv_schedule (s : State) : s.adv.schedule = s.schedule := rfl
@[simp] theorem adv_freeCount (s : State) : s.adv.freeCount = s.freeCount := rfl
@[simp] theorem adv_links (s : State) : s.adv.links = s.links := rfl
@[simp] theorem adv_holdings (s : State) : s.adv.holdings = s.holdings := rfl
@[simp] theorem adv_alleysDown (s : State) : s.adv.alleysDown = s.alleysDown := rfl
@[simp] theorem adv_outstanding (s : State) : s.adv.outstanding = s.outstanding := rfl
@[simp] theorem adv_fports (s : State) : s.adv.fports = s.fports := rfl
@[simp] theorem adv_ltGen (s : State) : s.adv.ltGen = s.ltGen := rfl
@[simp] theorem adv_ltStale (s : State) : s.adv.ltStale = s.ltStale := rfl
@[simp] theorem adv_linkTable (s : State) : s.adv.linkTable = s.linkTable := rfl
@[simp] theorem adv_ltPending (s : State) : s.adv.ltPending = s.ltPending := rfl
@[simp] theorem adv_flows (s : State) : s.adv.flows = s.flows := rfl
@[simp] theorem adv_liveMask (s : State) : s.adv.liveMask = s.liveMask := rfl
@[simp] theorem adv_fenced (s : State) : s.adv.fenced = s.fenced := rfl
@[simp] theorem adv_splitWait (s : State) : s.adv.splitWait = s.splitWait := rfl
@[simp] theorem adv_lostDies (s : State) : s.adv.lostDies = s.lostDies := rfl
@[simp] theorem adv_cxl (s : State) : s.adv.cxl = s.cxl := rfl
@[simp] theorem adv_bisnps (s : State) : s.adv.bisnps = s.bisnps := rfl
@[simp] theorem adv_hostHeld (s : State) : s.adv.hostHeld = s.hostHeld := rfl
@[simp] theorem adv_hostLines (s : State) : s.adv.hostLines = s.hostLines := rfl
@[simp] theorem adv_mailboxes (s : State) : s.adv.mailboxes = s.mailboxes := rfl
@[simp] theorem adv_queues (s : State) : s.adv.queues = s.queues := rfl
@[simp] theorem adv_alrtBase (s : State) : s.adv.alrtBase = s.alrtBase := rfl
@[simp] theorem adv_alrtLog2n (s : State) : s.adv.alrtLog2n = s.alrtLog2n := rfl
@[simp] theorem adv_alrtEn (s : State) : s.adv.alrtEn = s.alrtEn := rfl
@[simp] theorem adv_alrtHead (s : State) : s.adv.alrtHead = s.alrtHead := rfl
@[simp] theorem adv_alrtTail (s : State) : s.adv.alrtTail = s.alrtTail := rfl
@[simp] theorem adv_alrtLost (s : State) : s.adv.alrtLost = s.alrtLost := rfl
@[simp] theorem adv_alrtSeq (s : State) : s.adv.alrtSeq = s.alrtSeq := rfl
@[simp] theorem adv_alrtHeld (s : State) : s.adv.alrtHeld = s.alrtHeld := rfl
@[simp] theorem adv_alrtFlight (s : State) : s.adv.alrtFlight = s.alrtFlight := rfl
@[simp] theorem adv_mem (s : State) : s.adv.mem = s.mem := rfl
@[simp] theorem adv_dirty (s : State) : s.adv.dirty = s.dirty := rfl
@[simp] theorem adv_shadow (s : State) : s.adv.shadow = s.shadow := rfl
@[simp] theorem adv_psect (s : State) : s.adv.psect = s.psect := rfl
@[simp] theorem adv_lines (s : State) : s.adv.lines = s.lines := rfl
@[simp] theorem adv_evicting (s : State) : s.adv.evicting = s.evicting := rfl
@[simp] theorem adv_rerun (s : State) : s.adv.rerun = s.rerun := rfl
@[simp] theorem adv_awayReqs (s : State) : s.adv.awayReqs = s.awayReqs := rfl
@[simp] theorem adv_responses (s : State) : s.adv.responses = s.responses := rfl
@[simp] theorem adv_preSplit (s : State) : s.adv.preSplit = s.preSplit := rfl
@[simp] theorem adv_statWait (s : State) : s.adv.statWait = s.statWait := rfl
@[simp] theorem adv_issued (s : State) : s.adv.issued = s.issued := rfl
@[simp] theorem adv_tiles (s : State) : s.adv.tiles = s.tiles := rfl
@[simp] theorem adv_declRecs (s : State) : s.adv.declRecs = s.declRecs := rfl
@[simp] theorem adv_replicas (s : State) : s.adv.replicas = s.replicas := rfl
@[simp] theorem adv_kills (s : State) : s.adv.kills = s.kills := rfl
@[simp] theorem adv_coreMaps (s : State) : s.adv.coreMaps = s.coreMaps := rfl
@[simp] theorem adv_channels (s : State) : s.adv.channels = s.channels := rfl
@[simp] theorem adv_notices (s : State) : s.adv.notices = s.notices := rfl
@[simp] theorem adv_fqWait (s : State) : s.adv.fqWait = s.fqWait := rfl
@[simp] theorem adv_ctxtEn (s : State) : s.adv.ctxtEn = s.ctxtEn := rfl
@[simp] theorem adv_ctxtBase (s : State) : s.adv.ctxtBase = s.ctxtBase := rfl
@[simp] theorem adv_tvEn (s : State) : s.adv.tvEn = s.tvEn := rfl
@[simp] theorem adv_tvBase (s : State) : s.adv.tvBase = s.tvBase := rfl
@[simp] theorem adv_lct (s : State) : s.adv.lct = s.lct := rfl
@[simp] theorem adv_lctLock (s : State) : s.adv.lctLock = s.lctLock := rfl
@[simp] theorem adv_lctErr (s : State) : s.adv.lctErr = s.lctErr := rfl
@[simp] theorem adv_nlog (s : State) : s.adv.nlog = s.nlog := rfl
@[simp] theorem adv_parts (s : State) : s.adv.parts = s.parts := rfl
@[simp] theorem adv_launches (s : State) : s.adv.launches = s.launches := rfl
@[simp] theorem adv_bands (s : State) : s.adv.bands = s.bands := rfl
@[simp] theorem adv_areas (s : State) : s.adv.areas = s.areas := rfl
@[simp] theorem adv_loc (s : State) : s.adv.loc = s.loc := rfl
@[simp] theorem adv_core (s : State) : s.adv.core = s.core := rfl
@[simp] theorem adv_slot (s : State) : s.adv.slot = s.slot := rfl
@[simp] theorem adv_th (s : State) : s.adv.th = { s.th with pc := s.th.pc + 4 } := rfl
@[simp] theorem adv_cores (s : State) : s.adv.cores = s.cores := rfl

/-! `State.goto`. -/

@[simp] theorem goto_powered (s : State) (pc : Word) : (s.goto pc).powered = s.powered := rfl
@[simp] theorem goto_frozen (s : State) (pc : Word) : (s.goto pc).frozen = s.frozen := rfl
@[simp] theorem goto_freezePin (s : State) (pc : Word) : (s.goto pc).freezePin = s.freezePin := rfl
@[simp] theorem goto_resetHeld (s : State) (pc : Word) : (s.goto pc).resetHeld = s.resetHeld := rfl
@[simp] theorem goto_cycles (s : State) (pc : Word) : (s.goto pc).cycles = s.cycles := rfl
@[simp] theorem goto_thermal (s : State) (pc : Word) : (s.goto pc).thermal = s.thermal := rfl
@[simp] theorem goto_debugToken (s : State) (pc : Word) : (s.goto pc).debugToken = s.debugToken := rfl
@[simp] theorem goto_debugFuse (s : State) (pc : Word) : (s.goto pc).debugFuse = s.debugFuse := rfl
@[simp] theorem goto_fuseKeyHash (s : State) (pc : Word) : (s.goto pc).fuseKeyHash = s.fuseKeyHash := rfl
@[simp] theorem goto_fuseMinSec (s : State) (pc : Word) : (s.goto pc).fuseMinSec = s.fuseMinSec := rfl
@[simp] theorem goto_harvest (s : State) (pc : Word) : (s.goto pc).harvest = s.harvest := rfl
@[simp] theorem goto_pkgid (s : State) (pc : Word) : (s.goto pc).pkgid = s.pkgid := rfl
@[simp] theorem goto_sramShadow (s : State) (pc : Word) : (s.goto pc).sramShadow = s.sramShadow := rfl
@[simp] theorem goto_bootState (s : State) (pc : Word) : (s.goto pc).bootState = s.bootState := rfl
@[simp] theorem goto_bootImage (s : State) (pc : Word) : (s.goto pc).bootImage = s.bootImage := rfl
@[simp] theorem goto_bootCause (s : State) (pc : Word) : (s.goto pc).bootCause = s.bootCause := rfl
@[simp] theorem goto_bootDigests (s : State) (pc : Word) : (s.goto pc).bootDigests = s.bootDigests := rfl
@[simp] theorem goto_bootNext (s : State) (pc : Word) : (s.goto pc).bootNext = s.bootNext := rfl
@[simp] theorem goto_bootEntry (s : State) (pc : Word) : (s.goto pc).bootEntry = s.bootEntry := rfl
@[simp] theorem goto_causeway (s : State) (pc : Word) : (s.goto pc).causeway = s.causeway := rfl
@[simp] theorem goto_outbox (s : State) (pc : Word) : (s.goto pc).outbox = s.outbox := rfl
@[simp] theorem goto_agenda (s : State) (pc : Word) : (s.goto pc).agenda = s.agenda := rfl
@[simp] theorem goto_schedule (s : State) (pc : Word) : (s.goto pc).schedule = s.schedule := rfl
@[simp] theorem goto_freeCount (s : State) (pc : Word) : (s.goto pc).freeCount = s.freeCount := rfl
@[simp] theorem goto_links (s : State) (pc : Word) : (s.goto pc).links = s.links := rfl
@[simp] theorem goto_holdings (s : State) (pc : Word) : (s.goto pc).holdings = s.holdings := rfl
@[simp] theorem goto_alleysDown (s : State) (pc : Word) : (s.goto pc).alleysDown = s.alleysDown := rfl
@[simp] theorem goto_outstanding (s : State) (pc : Word) : (s.goto pc).outstanding = s.outstanding := rfl
@[simp] theorem goto_fports (s : State) (pc : Word) : (s.goto pc).fports = s.fports := rfl
@[simp] theorem goto_ltGen (s : State) (pc : Word) : (s.goto pc).ltGen = s.ltGen := rfl
@[simp] theorem goto_ltStale (s : State) (pc : Word) : (s.goto pc).ltStale = s.ltStale := rfl
@[simp] theorem goto_linkTable (s : State) (pc : Word) : (s.goto pc).linkTable = s.linkTable := rfl
@[simp] theorem goto_ltPending (s : State) (pc : Word) : (s.goto pc).ltPending = s.ltPending := rfl
@[simp] theorem goto_flows (s : State) (pc : Word) : (s.goto pc).flows = s.flows := rfl
@[simp] theorem goto_liveMask (s : State) (pc : Word) : (s.goto pc).liveMask = s.liveMask := rfl
@[simp] theorem goto_fenced (s : State) (pc : Word) : (s.goto pc).fenced = s.fenced := rfl
@[simp] theorem goto_splitWait (s : State) (pc : Word) : (s.goto pc).splitWait = s.splitWait := rfl
@[simp] theorem goto_lostDies (s : State) (pc : Word) : (s.goto pc).lostDies = s.lostDies := rfl
@[simp] theorem goto_cxl (s : State) (pc : Word) : (s.goto pc).cxl = s.cxl := rfl
@[simp] theorem goto_bisnps (s : State) (pc : Word) : (s.goto pc).bisnps = s.bisnps := rfl
@[simp] theorem goto_hostHeld (s : State) (pc : Word) : (s.goto pc).hostHeld = s.hostHeld := rfl
@[simp] theorem goto_hostLines (s : State) (pc : Word) : (s.goto pc).hostLines = s.hostLines := rfl
@[simp] theorem goto_mailboxes (s : State) (pc : Word) : (s.goto pc).mailboxes = s.mailboxes := rfl
@[simp] theorem goto_queues (s : State) (pc : Word) : (s.goto pc).queues = s.queues := rfl
@[simp] theorem goto_alrtBase (s : State) (pc : Word) : (s.goto pc).alrtBase = s.alrtBase := rfl
@[simp] theorem goto_alrtLog2n (s : State) (pc : Word) : (s.goto pc).alrtLog2n = s.alrtLog2n := rfl
@[simp] theorem goto_alrtEn (s : State) (pc : Word) : (s.goto pc).alrtEn = s.alrtEn := rfl
@[simp] theorem goto_alrtHead (s : State) (pc : Word) : (s.goto pc).alrtHead = s.alrtHead := rfl
@[simp] theorem goto_alrtTail (s : State) (pc : Word) : (s.goto pc).alrtTail = s.alrtTail := rfl
@[simp] theorem goto_alrtLost (s : State) (pc : Word) : (s.goto pc).alrtLost = s.alrtLost := rfl
@[simp] theorem goto_alrtSeq (s : State) (pc : Word) : (s.goto pc).alrtSeq = s.alrtSeq := rfl
@[simp] theorem goto_alrtHeld (s : State) (pc : Word) : (s.goto pc).alrtHeld = s.alrtHeld := rfl
@[simp] theorem goto_alrtFlight (s : State) (pc : Word) : (s.goto pc).alrtFlight = s.alrtFlight := rfl
@[simp] theorem goto_mem (s : State) (pc : Word) : (s.goto pc).mem = s.mem := rfl
@[simp] theorem goto_dirty (s : State) (pc : Word) : (s.goto pc).dirty = s.dirty := rfl
@[simp] theorem goto_shadow (s : State) (pc : Word) : (s.goto pc).shadow = s.shadow := rfl
@[simp] theorem goto_psect (s : State) (pc : Word) : (s.goto pc).psect = s.psect := rfl
@[simp] theorem goto_lines (s : State) (pc : Word) : (s.goto pc).lines = s.lines := rfl
@[simp] theorem goto_evicting (s : State) (pc : Word) : (s.goto pc).evicting = s.evicting := rfl
@[simp] theorem goto_rerun (s : State) (pc : Word) : (s.goto pc).rerun = s.rerun := rfl
@[simp] theorem goto_awayReqs (s : State) (pc : Word) : (s.goto pc).awayReqs = s.awayReqs := rfl
@[simp] theorem goto_responses (s : State) (pc : Word) : (s.goto pc).responses = s.responses := rfl
@[simp] theorem goto_preSplit (s : State) (pc : Word) : (s.goto pc).preSplit = s.preSplit := rfl
@[simp] theorem goto_statWait (s : State) (pc : Word) : (s.goto pc).statWait = s.statWait := rfl
@[simp] theorem goto_issued (s : State) (pc : Word) : (s.goto pc).issued = s.issued := rfl
@[simp] theorem goto_tiles (s : State) (pc : Word) : (s.goto pc).tiles = s.tiles := rfl
@[simp] theorem goto_declRecs (s : State) (pc : Word) : (s.goto pc).declRecs = s.declRecs := rfl
@[simp] theorem goto_replicas (s : State) (pc : Word) : (s.goto pc).replicas = s.replicas := rfl
@[simp] theorem goto_kills (s : State) (pc : Word) : (s.goto pc).kills = s.kills := rfl
@[simp] theorem goto_coreMaps (s : State) (pc : Word) : (s.goto pc).coreMaps = s.coreMaps := rfl
@[simp] theorem goto_channels (s : State) (pc : Word) : (s.goto pc).channels = s.channels := rfl
@[simp] theorem goto_notices (s : State) (pc : Word) : (s.goto pc).notices = s.notices := rfl
@[simp] theorem goto_fqWait (s : State) (pc : Word) : (s.goto pc).fqWait = s.fqWait := rfl
@[simp] theorem goto_ctxtEn (s : State) (pc : Word) : (s.goto pc).ctxtEn = s.ctxtEn := rfl
@[simp] theorem goto_ctxtBase (s : State) (pc : Word) : (s.goto pc).ctxtBase = s.ctxtBase := rfl
@[simp] theorem goto_tvEn (s : State) (pc : Word) : (s.goto pc).tvEn = s.tvEn := rfl
@[simp] theorem goto_tvBase (s : State) (pc : Word) : (s.goto pc).tvBase = s.tvBase := rfl
@[simp] theorem goto_lct (s : State) (pc : Word) : (s.goto pc).lct = s.lct := rfl
@[simp] theorem goto_lctLock (s : State) (pc : Word) : (s.goto pc).lctLock = s.lctLock := rfl
@[simp] theorem goto_lctErr (s : State) (pc : Word) : (s.goto pc).lctErr = s.lctErr := rfl
@[simp] theorem goto_nlog (s : State) (pc : Word) : (s.goto pc).nlog = s.nlog := rfl
@[simp] theorem goto_parts (s : State) (pc : Word) : (s.goto pc).parts = s.parts := rfl
@[simp] theorem goto_launches (s : State) (pc : Word) : (s.goto pc).launches = s.launches := rfl
@[simp] theorem goto_bands (s : State) (pc : Word) : (s.goto pc).bands = s.bands := rfl
@[simp] theorem goto_areas (s : State) (pc : Word) : (s.goto pc).areas = s.areas := rfl
@[simp] theorem goto_loc (s : State) (pc : Word) : (s.goto pc).loc = s.loc := rfl
@[simp] theorem goto_core (s : State) (pc : Word) : (s.goto pc).core = s.core := rfl
@[simp] theorem goto_slot (s : State) (pc : Word) : (s.goto pc).slot = s.slot := rfl
@[simp] theorem goto_th (s : State) (pc : Word) : (s.goto pc).th = { s.th with pc := pc } := rfl
@[simp] theorem goto_cores (s : State) (pc : Word) : (s.goto pc).cores = s.cores := rfl

/-! `State.park`. -/

@[simp] theorem park_powered (s : State) (w : Wait) : (s.park w).powered = s.powered := rfl
@[simp] theorem park_frozen (s : State) (w : Wait) : (s.park w).frozen = s.frozen := rfl
@[simp] theorem park_freezePin (s : State) (w : Wait) : (s.park w).freezePin = s.freezePin := rfl
@[simp] theorem park_resetHeld (s : State) (w : Wait) : (s.park w).resetHeld = s.resetHeld := rfl
@[simp] theorem park_cycles (s : State) (w : Wait) : (s.park w).cycles = s.cycles := rfl
@[simp] theorem park_thermal (s : State) (w : Wait) : (s.park w).thermal = s.thermal := rfl
@[simp] theorem park_debugToken (s : State) (w : Wait) : (s.park w).debugToken = s.debugToken := rfl
@[simp] theorem park_debugFuse (s : State) (w : Wait) : (s.park w).debugFuse = s.debugFuse := rfl
@[simp] theorem park_fuseKeyHash (s : State) (w : Wait) : (s.park w).fuseKeyHash = s.fuseKeyHash := rfl
@[simp] theorem park_fuseMinSec (s : State) (w : Wait) : (s.park w).fuseMinSec = s.fuseMinSec := rfl
@[simp] theorem park_harvest (s : State) (w : Wait) : (s.park w).harvest = s.harvest := rfl
@[simp] theorem park_pkgid (s : State) (w : Wait) : (s.park w).pkgid = s.pkgid := rfl
@[simp] theorem park_sramShadow (s : State) (w : Wait) : (s.park w).sramShadow = s.sramShadow := rfl
@[simp] theorem park_bootState (s : State) (w : Wait) : (s.park w).bootState = s.bootState := rfl
@[simp] theorem park_bootImage (s : State) (w : Wait) : (s.park w).bootImage = s.bootImage := rfl
@[simp] theorem park_bootCause (s : State) (w : Wait) : (s.park w).bootCause = s.bootCause := rfl
@[simp] theorem park_bootDigests (s : State) (w : Wait) : (s.park w).bootDigests = s.bootDigests := rfl
@[simp] theorem park_bootNext (s : State) (w : Wait) : (s.park w).bootNext = s.bootNext := rfl
@[simp] theorem park_bootEntry (s : State) (w : Wait) : (s.park w).bootEntry = s.bootEntry := rfl
@[simp] theorem park_causeway (s : State) (w : Wait) : (s.park w).causeway = s.causeway := rfl
@[simp] theorem park_outbox (s : State) (w : Wait) : (s.park w).outbox = s.outbox := rfl
@[simp] theorem park_agenda (s : State) (w : Wait) : (s.park w).agenda = s.agenda := rfl
@[simp] theorem park_schedule (s : State) (w : Wait) : (s.park w).schedule = s.schedule := rfl
@[simp] theorem park_freeCount (s : State) (w : Wait) : (s.park w).freeCount = s.freeCount := rfl
@[simp] theorem park_links (s : State) (w : Wait) : (s.park w).links = s.links := rfl
@[simp] theorem park_holdings (s : State) (w : Wait) : (s.park w).holdings = s.holdings := rfl
@[simp] theorem park_alleysDown (s : State) (w : Wait) : (s.park w).alleysDown = s.alleysDown := rfl
@[simp] theorem park_outstanding (s : State) (w : Wait) : (s.park w).outstanding = s.outstanding := rfl
@[simp] theorem park_fports (s : State) (w : Wait) : (s.park w).fports = s.fports := rfl
@[simp] theorem park_ltGen (s : State) (w : Wait) : (s.park w).ltGen = s.ltGen := rfl
@[simp] theorem park_ltStale (s : State) (w : Wait) : (s.park w).ltStale = s.ltStale := rfl
@[simp] theorem park_linkTable (s : State) (w : Wait) : (s.park w).linkTable = s.linkTable := rfl
@[simp] theorem park_ltPending (s : State) (w : Wait) : (s.park w).ltPending = s.ltPending := rfl
@[simp] theorem park_flows (s : State) (w : Wait) : (s.park w).flows = s.flows := rfl
@[simp] theorem park_liveMask (s : State) (w : Wait) : (s.park w).liveMask = s.liveMask := rfl
@[simp] theorem park_fenced (s : State) (w : Wait) : (s.park w).fenced = s.fenced := rfl
@[simp] theorem park_splitWait (s : State) (w : Wait) : (s.park w).splitWait = s.splitWait := rfl
@[simp] theorem park_lostDies (s : State) (w : Wait) : (s.park w).lostDies = s.lostDies := rfl
@[simp] theorem park_cxl (s : State) (w : Wait) : (s.park w).cxl = s.cxl := rfl
@[simp] theorem park_bisnps (s : State) (w : Wait) : (s.park w).bisnps = s.bisnps := rfl
@[simp] theorem park_hostHeld (s : State) (w : Wait) : (s.park w).hostHeld = s.hostHeld := rfl
@[simp] theorem park_hostLines (s : State) (w : Wait) : (s.park w).hostLines = s.hostLines := rfl
@[simp] theorem park_mailboxes (s : State) (w : Wait) : (s.park w).mailboxes = s.mailboxes := rfl
@[simp] theorem park_queues (s : State) (w : Wait) : (s.park w).queues = s.queues := rfl
@[simp] theorem park_alrtBase (s : State) (w : Wait) : (s.park w).alrtBase = s.alrtBase := rfl
@[simp] theorem park_alrtLog2n (s : State) (w : Wait) : (s.park w).alrtLog2n = s.alrtLog2n := rfl
@[simp] theorem park_alrtEn (s : State) (w : Wait) : (s.park w).alrtEn = s.alrtEn := rfl
@[simp] theorem park_alrtHead (s : State) (w : Wait) : (s.park w).alrtHead = s.alrtHead := rfl
@[simp] theorem park_alrtTail (s : State) (w : Wait) : (s.park w).alrtTail = s.alrtTail := rfl
@[simp] theorem park_alrtLost (s : State) (w : Wait) : (s.park w).alrtLost = s.alrtLost := rfl
@[simp] theorem park_alrtSeq (s : State) (w : Wait) : (s.park w).alrtSeq = s.alrtSeq := rfl
@[simp] theorem park_alrtHeld (s : State) (w : Wait) : (s.park w).alrtHeld = s.alrtHeld := rfl
@[simp] theorem park_alrtFlight (s : State) (w : Wait) : (s.park w).alrtFlight = s.alrtFlight := rfl
@[simp] theorem park_mem (s : State) (w : Wait) : (s.park w).mem = s.mem := rfl
@[simp] theorem park_dirty (s : State) (w : Wait) : (s.park w).dirty = s.dirty := rfl
@[simp] theorem park_shadow (s : State) (w : Wait) : (s.park w).shadow = s.shadow := rfl
@[simp] theorem park_psect (s : State) (w : Wait) : (s.park w).psect = s.psect := rfl
@[simp] theorem park_lines (s : State) (w : Wait) : (s.park w).lines = s.lines := rfl
@[simp] theorem park_evicting (s : State) (w : Wait) : (s.park w).evicting = s.evicting := rfl
@[simp] theorem park_rerun (s : State) (w : Wait) : (s.park w).rerun = s.rerun := rfl
@[simp] theorem park_awayReqs (s : State) (w : Wait) : (s.park w).awayReqs = s.awayReqs := rfl
@[simp] theorem park_responses (s : State) (w : Wait) : (s.park w).responses = s.responses := rfl
@[simp] theorem park_preSplit (s : State) (w : Wait) : (s.park w).preSplit = s.preSplit := rfl
@[simp] theorem park_statWait (s : State) (w : Wait) : (s.park w).statWait = s.statWait := rfl
@[simp] theorem park_issued (s : State) (w : Wait) : (s.park w).issued = s.issued := rfl
@[simp] theorem park_tiles (s : State) (w : Wait) : (s.park w).tiles = s.tiles := rfl
@[simp] theorem park_declRecs (s : State) (w : Wait) : (s.park w).declRecs = s.declRecs := rfl
@[simp] theorem park_replicas (s : State) (w : Wait) : (s.park w).replicas = s.replicas := rfl
@[simp] theorem park_kills (s : State) (w : Wait) : (s.park w).kills = s.kills := rfl
@[simp] theorem park_coreMaps (s : State) (w : Wait) : (s.park w).coreMaps = s.coreMaps := rfl
@[simp] theorem park_channels (s : State) (w : Wait) : (s.park w).channels = s.channels := rfl
@[simp] theorem park_notices (s : State) (w : Wait) : (s.park w).notices = s.notices := rfl
@[simp] theorem park_fqWait (s : State) (w : Wait) : (s.park w).fqWait = s.fqWait := rfl
@[simp] theorem park_ctxtEn (s : State) (w : Wait) : (s.park w).ctxtEn = s.ctxtEn := rfl
@[simp] theorem park_ctxtBase (s : State) (w : Wait) : (s.park w).ctxtBase = s.ctxtBase := rfl
@[simp] theorem park_tvEn (s : State) (w : Wait) : (s.park w).tvEn = s.tvEn := rfl
@[simp] theorem park_tvBase (s : State) (w : Wait) : (s.park w).tvBase = s.tvBase := rfl
@[simp] theorem park_lct (s : State) (w : Wait) : (s.park w).lct = s.lct := rfl
@[simp] theorem park_lctLock (s : State) (w : Wait) : (s.park w).lctLock = s.lctLock := rfl
@[simp] theorem park_lctErr (s : State) (w : Wait) : (s.park w).lctErr = s.lctErr := rfl
@[simp] theorem park_nlog (s : State) (w : Wait) : (s.park w).nlog = s.nlog := rfl
@[simp] theorem park_parts (s : State) (w : Wait) : (s.park w).parts = s.parts := rfl
@[simp] theorem park_launches (s : State) (w : Wait) : (s.park w).launches = s.launches := rfl
@[simp] theorem park_bands (s : State) (w : Wait) : (s.park w).bands = s.bands := rfl
@[simp] theorem park_areas (s : State) (w : Wait) : (s.park w).areas = s.areas := rfl
@[simp] theorem park_loc (s : State) (w : Wait) : (s.park w).loc = s.loc := rfl
@[simp] theorem park_core (s : State) (w : Wait) : (s.park w).core = s.core := rfl
@[simp] theorem park_slot (s : State) (w : Wait) : (s.park w).slot = s.slot := rfl
@[simp] theorem park_th (s : State) (w : Wait) : (s.park w).th = { s.th with status := .parked w } := rfl
@[simp] theorem park_cores (s : State) (w : Wait) : (s.park w).cores = s.cores := rfl

/-! `State.wake`. -/

@[simp] theorem wake_powered (s : State) : s.wake.powered = s.powered := rfl
@[simp] theorem wake_frozen (s : State) : s.wake.frozen = s.frozen := rfl
@[simp] theorem wake_freezePin (s : State) : s.wake.freezePin = s.freezePin := rfl
@[simp] theorem wake_resetHeld (s : State) : s.wake.resetHeld = s.resetHeld := rfl
@[simp] theorem wake_cycles (s : State) : s.wake.cycles = s.cycles := rfl
@[simp] theorem wake_thermal (s : State) : s.wake.thermal = s.thermal := rfl
@[simp] theorem wake_debugToken (s : State) : s.wake.debugToken = s.debugToken := rfl
@[simp] theorem wake_debugFuse (s : State) : s.wake.debugFuse = s.debugFuse := rfl
@[simp] theorem wake_fuseKeyHash (s : State) : s.wake.fuseKeyHash = s.fuseKeyHash := rfl
@[simp] theorem wake_fuseMinSec (s : State) : s.wake.fuseMinSec = s.fuseMinSec := rfl
@[simp] theorem wake_harvest (s : State) : s.wake.harvest = s.harvest := rfl
@[simp] theorem wake_pkgid (s : State) : s.wake.pkgid = s.pkgid := rfl
@[simp] theorem wake_sramShadow (s : State) : s.wake.sramShadow = s.sramShadow := rfl
@[simp] theorem wake_bootState (s : State) : s.wake.bootState = s.bootState := rfl
@[simp] theorem wake_bootImage (s : State) : s.wake.bootImage = s.bootImage := rfl
@[simp] theorem wake_bootCause (s : State) : s.wake.bootCause = s.bootCause := rfl
@[simp] theorem wake_bootDigests (s : State) : s.wake.bootDigests = s.bootDigests := rfl
@[simp] theorem wake_bootNext (s : State) : s.wake.bootNext = s.bootNext := rfl
@[simp] theorem wake_bootEntry (s : State) : s.wake.bootEntry = s.bootEntry := rfl
@[simp] theorem wake_causeway (s : State) : s.wake.causeway = s.causeway := rfl
@[simp] theorem wake_outbox (s : State) : s.wake.outbox = s.outbox := rfl
@[simp] theorem wake_agenda (s : State) : s.wake.agenda = s.agenda := rfl
@[simp] theorem wake_schedule (s : State) : s.wake.schedule = s.schedule := rfl
@[simp] theorem wake_freeCount (s : State) : s.wake.freeCount = s.freeCount := rfl
@[simp] theorem wake_links (s : State) : s.wake.links = s.links := rfl
@[simp] theorem wake_holdings (s : State) : s.wake.holdings = s.holdings := rfl
@[simp] theorem wake_alleysDown (s : State) : s.wake.alleysDown = s.alleysDown := rfl
@[simp] theorem wake_outstanding (s : State) : s.wake.outstanding = s.outstanding := rfl
@[simp] theorem wake_fports (s : State) : s.wake.fports = s.fports := rfl
@[simp] theorem wake_ltGen (s : State) : s.wake.ltGen = s.ltGen := rfl
@[simp] theorem wake_ltStale (s : State) : s.wake.ltStale = s.ltStale := rfl
@[simp] theorem wake_linkTable (s : State) : s.wake.linkTable = s.linkTable := rfl
@[simp] theorem wake_ltPending (s : State) : s.wake.ltPending = s.ltPending := rfl
@[simp] theorem wake_flows (s : State) : s.wake.flows = s.flows := rfl
@[simp] theorem wake_liveMask (s : State) : s.wake.liveMask = s.liveMask := rfl
@[simp] theorem wake_fenced (s : State) : s.wake.fenced = s.fenced := rfl
@[simp] theorem wake_splitWait (s : State) : s.wake.splitWait = s.splitWait := rfl
@[simp] theorem wake_lostDies (s : State) : s.wake.lostDies = s.lostDies := rfl
@[simp] theorem wake_cxl (s : State) : s.wake.cxl = s.cxl := rfl
@[simp] theorem wake_bisnps (s : State) : s.wake.bisnps = s.bisnps := rfl
@[simp] theorem wake_hostHeld (s : State) : s.wake.hostHeld = s.hostHeld := rfl
@[simp] theorem wake_hostLines (s : State) : s.wake.hostLines = s.hostLines := rfl
@[simp] theorem wake_mailboxes (s : State) : s.wake.mailboxes = s.mailboxes := rfl
@[simp] theorem wake_queues (s : State) : s.wake.queues = s.queues := rfl
@[simp] theorem wake_alrtBase (s : State) : s.wake.alrtBase = s.alrtBase := rfl
@[simp] theorem wake_alrtLog2n (s : State) : s.wake.alrtLog2n = s.alrtLog2n := rfl
@[simp] theorem wake_alrtEn (s : State) : s.wake.alrtEn = s.alrtEn := rfl
@[simp] theorem wake_alrtHead (s : State) : s.wake.alrtHead = s.alrtHead := rfl
@[simp] theorem wake_alrtTail (s : State) : s.wake.alrtTail = s.alrtTail := rfl
@[simp] theorem wake_alrtLost (s : State) : s.wake.alrtLost = s.alrtLost := rfl
@[simp] theorem wake_alrtSeq (s : State) : s.wake.alrtSeq = s.alrtSeq := rfl
@[simp] theorem wake_alrtHeld (s : State) : s.wake.alrtHeld = s.alrtHeld := rfl
@[simp] theorem wake_alrtFlight (s : State) : s.wake.alrtFlight = s.alrtFlight := rfl
@[simp] theorem wake_mem (s : State) : s.wake.mem = s.mem := rfl
@[simp] theorem wake_dirty (s : State) : s.wake.dirty = s.dirty := rfl
@[simp] theorem wake_shadow (s : State) : s.wake.shadow = s.shadow := rfl
@[simp] theorem wake_psect (s : State) : s.wake.psect = s.psect := rfl
@[simp] theorem wake_lines (s : State) : s.wake.lines = s.lines := rfl
@[simp] theorem wake_evicting (s : State) : s.wake.evicting = s.evicting := rfl
@[simp] theorem wake_rerun (s : State) : s.wake.rerun = s.rerun := rfl
@[simp] theorem wake_awayReqs (s : State) : s.wake.awayReqs = s.awayReqs := rfl
@[simp] theorem wake_responses (s : State) : s.wake.responses = s.responses := rfl
@[simp] theorem wake_preSplit (s : State) : s.wake.preSplit = s.preSplit := rfl
@[simp] theorem wake_statWait (s : State) : s.wake.statWait = s.statWait := rfl
@[simp] theorem wake_issued (s : State) : s.wake.issued = s.issued := rfl
@[simp] theorem wake_tiles (s : State) : s.wake.tiles = s.tiles := rfl
@[simp] theorem wake_declRecs (s : State) : s.wake.declRecs = s.declRecs := rfl
@[simp] theorem wake_replicas (s : State) : s.wake.replicas = s.replicas := rfl
@[simp] theorem wake_kills (s : State) : s.wake.kills = s.kills := rfl
@[simp] theorem wake_coreMaps (s : State) : s.wake.coreMaps = s.coreMaps := rfl
@[simp] theorem wake_channels (s : State) : s.wake.channels = s.channels := rfl
@[simp] theorem wake_notices (s : State) : s.wake.notices = s.notices := rfl
@[simp] theorem wake_fqWait (s : State) : s.wake.fqWait = s.fqWait := rfl
@[simp] theorem wake_ctxtEn (s : State) : s.wake.ctxtEn = s.ctxtEn := rfl
@[simp] theorem wake_ctxtBase (s : State) : s.wake.ctxtBase = s.ctxtBase := rfl
@[simp] theorem wake_tvEn (s : State) : s.wake.tvEn = s.tvEn := rfl
@[simp] theorem wake_tvBase (s : State) : s.wake.tvBase = s.tvBase := rfl
@[simp] theorem wake_lct (s : State) : s.wake.lct = s.lct := rfl
@[simp] theorem wake_lctLock (s : State) : s.wake.lctLock = s.lctLock := rfl
@[simp] theorem wake_lctErr (s : State) : s.wake.lctErr = s.lctErr := rfl
@[simp] theorem wake_nlog (s : State) : s.wake.nlog = s.nlog := rfl
@[simp] theorem wake_parts (s : State) : s.wake.parts = s.parts := rfl
@[simp] theorem wake_launches (s : State) : s.wake.launches = s.launches := rfl
@[simp] theorem wake_bands (s : State) : s.wake.bands = s.bands := rfl
@[simp] theorem wake_areas (s : State) : s.wake.areas = s.areas := rfl
@[simp] theorem wake_loc (s : State) : s.wake.loc = s.loc := rfl
@[simp] theorem wake_core (s : State) : s.wake.core = s.core := rfl
@[simp] theorem wake_slot (s : State) : s.wake.slot = s.slot := rfl
@[simp] theorem wake_th (s : State) : s.wake.th = { s.th with status := .ready } := rfl
@[simp] theorem wake_cores (s : State) : s.wake.cores = s.cores := rfl

/-! `State.later`. -/

@[simp] theorem later_powered (s : State) (i : Instr) : (s.later i).powered = s.powered := rfl
@[simp] theorem later_frozen (s : State) (i : Instr) : (s.later i).frozen = s.frozen := rfl
@[simp] theorem later_freezePin (s : State) (i : Instr) : (s.later i).freezePin = s.freezePin := rfl
@[simp] theorem later_resetHeld (s : State) (i : Instr) : (s.later i).resetHeld = s.resetHeld := rfl
@[simp] theorem later_cycles (s : State) (i : Instr) : (s.later i).cycles = s.cycles := rfl
@[simp] theorem later_thermal (s : State) (i : Instr) : (s.later i).thermal = s.thermal := rfl
@[simp] theorem later_debugToken (s : State) (i : Instr) : (s.later i).debugToken = s.debugToken := rfl
@[simp] theorem later_debugFuse (s : State) (i : Instr) : (s.later i).debugFuse = s.debugFuse := rfl
@[simp] theorem later_fuseKeyHash (s : State) (i : Instr) : (s.later i).fuseKeyHash = s.fuseKeyHash := rfl
@[simp] theorem later_fuseMinSec (s : State) (i : Instr) : (s.later i).fuseMinSec = s.fuseMinSec := rfl
@[simp] theorem later_harvest (s : State) (i : Instr) : (s.later i).harvest = s.harvest := rfl
@[simp] theorem later_pkgid (s : State) (i : Instr) : (s.later i).pkgid = s.pkgid := rfl
@[simp] theorem later_sramShadow (s : State) (i : Instr) : (s.later i).sramShadow = s.sramShadow := rfl
@[simp] theorem later_bootState (s : State) (i : Instr) : (s.later i).bootState = s.bootState := rfl
@[simp] theorem later_bootImage (s : State) (i : Instr) : (s.later i).bootImage = s.bootImage := rfl
@[simp] theorem later_bootCause (s : State) (i : Instr) : (s.later i).bootCause = s.bootCause := rfl
@[simp] theorem later_bootDigests (s : State) (i : Instr) : (s.later i).bootDigests = s.bootDigests := rfl
@[simp] theorem later_bootNext (s : State) (i : Instr) : (s.later i).bootNext = s.bootNext := rfl
@[simp] theorem later_bootEntry (s : State) (i : Instr) : (s.later i).bootEntry = s.bootEntry := rfl
@[simp] theorem later_causeway (s : State) (i : Instr) : (s.later i).causeway = s.causeway := rfl
@[simp] theorem later_outbox (s : State) (i : Instr) : (s.later i).outbox = s.outbox := rfl
@[simp] theorem later_agenda (s : State) (i : Instr) : (s.later i).agenda = s.agenda ++ [i] := rfl
@[simp] theorem later_schedule (s : State) (i : Instr) : (s.later i).schedule = s.schedule := rfl
@[simp] theorem later_freeCount (s : State) (i : Instr) : (s.later i).freeCount = s.freeCount := rfl
@[simp] theorem later_links (s : State) (i : Instr) : (s.later i).links = s.links := rfl
@[simp] theorem later_holdings (s : State) (i : Instr) : (s.later i).holdings = s.holdings := rfl
@[simp] theorem later_alleysDown (s : State) (i : Instr) : (s.later i).alleysDown = s.alleysDown := rfl
@[simp] theorem later_outstanding (s : State) (i : Instr) : (s.later i).outstanding = s.outstanding := rfl
@[simp] theorem later_fports (s : State) (i : Instr) : (s.later i).fports = s.fports := rfl
@[simp] theorem later_ltGen (s : State) (i : Instr) : (s.later i).ltGen = s.ltGen := rfl
@[simp] theorem later_ltStale (s : State) (i : Instr) : (s.later i).ltStale = s.ltStale := rfl
@[simp] theorem later_linkTable (s : State) (i : Instr) : (s.later i).linkTable = s.linkTable := rfl
@[simp] theorem later_ltPending (s : State) (i : Instr) : (s.later i).ltPending = s.ltPending := rfl
@[simp] theorem later_flows (s : State) (i : Instr) : (s.later i).flows = s.flows := rfl
@[simp] theorem later_liveMask (s : State) (i : Instr) : (s.later i).liveMask = s.liveMask := rfl
@[simp] theorem later_fenced (s : State) (i : Instr) : (s.later i).fenced = s.fenced := rfl
@[simp] theorem later_splitWait (s : State) (i : Instr) : (s.later i).splitWait = s.splitWait := rfl
@[simp] theorem later_lostDies (s : State) (i : Instr) : (s.later i).lostDies = s.lostDies := rfl
@[simp] theorem later_cxl (s : State) (i : Instr) : (s.later i).cxl = s.cxl := rfl
@[simp] theorem later_bisnps (s : State) (i : Instr) : (s.later i).bisnps = s.bisnps := rfl
@[simp] theorem later_hostHeld (s : State) (i : Instr) : (s.later i).hostHeld = s.hostHeld := rfl
@[simp] theorem later_hostLines (s : State) (i : Instr) : (s.later i).hostLines = s.hostLines := rfl
@[simp] theorem later_mailboxes (s : State) (i : Instr) : (s.later i).mailboxes = s.mailboxes := rfl
@[simp] theorem later_queues (s : State) (i : Instr) : (s.later i).queues = s.queues := rfl
@[simp] theorem later_alrtBase (s : State) (i : Instr) : (s.later i).alrtBase = s.alrtBase := rfl
@[simp] theorem later_alrtLog2n (s : State) (i : Instr) : (s.later i).alrtLog2n = s.alrtLog2n := rfl
@[simp] theorem later_alrtEn (s : State) (i : Instr) : (s.later i).alrtEn = s.alrtEn := rfl
@[simp] theorem later_alrtHead (s : State) (i : Instr) : (s.later i).alrtHead = s.alrtHead := rfl
@[simp] theorem later_alrtTail (s : State) (i : Instr) : (s.later i).alrtTail = s.alrtTail := rfl
@[simp] theorem later_alrtLost (s : State) (i : Instr) : (s.later i).alrtLost = s.alrtLost := rfl
@[simp] theorem later_alrtSeq (s : State) (i : Instr) : (s.later i).alrtSeq = s.alrtSeq := rfl
@[simp] theorem later_alrtHeld (s : State) (i : Instr) : (s.later i).alrtHeld = s.alrtHeld := rfl
@[simp] theorem later_alrtFlight (s : State) (i : Instr) : (s.later i).alrtFlight = s.alrtFlight := rfl
@[simp] theorem later_mem (s : State) (i : Instr) : (s.later i).mem = s.mem := rfl
@[simp] theorem later_dirty (s : State) (i : Instr) : (s.later i).dirty = s.dirty := rfl
@[simp] theorem later_shadow (s : State) (i : Instr) : (s.later i).shadow = s.shadow := rfl
@[simp] theorem later_psect (s : State) (i : Instr) : (s.later i).psect = s.psect := rfl
@[simp] theorem later_lines (s : State) (i : Instr) : (s.later i).lines = s.lines := rfl
@[simp] theorem later_evicting (s : State) (i : Instr) : (s.later i).evicting = s.evicting := rfl
@[simp] theorem later_rerun (s : State) (i : Instr) : (s.later i).rerun = s.rerun := rfl
@[simp] theorem later_awayReqs (s : State) (i : Instr) : (s.later i).awayReqs = s.awayReqs := rfl
@[simp] theorem later_responses (s : State) (i : Instr) : (s.later i).responses = s.responses := rfl
@[simp] theorem later_preSplit (s : State) (i : Instr) : (s.later i).preSplit = s.preSplit := rfl
@[simp] theorem later_statWait (s : State) (i : Instr) : (s.later i).statWait = s.statWait := rfl
@[simp] theorem later_issued (s : State) (i : Instr) : (s.later i).issued = s.issued := rfl
@[simp] theorem later_tiles (s : State) (i : Instr) : (s.later i).tiles = s.tiles := rfl
@[simp] theorem later_declRecs (s : State) (i : Instr) : (s.later i).declRecs = s.declRecs := rfl
@[simp] theorem later_replicas (s : State) (i : Instr) : (s.later i).replicas = s.replicas := rfl
@[simp] theorem later_kills (s : State) (i : Instr) : (s.later i).kills = s.kills := rfl
@[simp] theorem later_coreMaps (s : State) (i : Instr) : (s.later i).coreMaps = s.coreMaps := rfl
@[simp] theorem later_channels (s : State) (i : Instr) : (s.later i).channels = s.channels := rfl
@[simp] theorem later_notices (s : State) (i : Instr) : (s.later i).notices = s.notices := rfl
@[simp] theorem later_fqWait (s : State) (i : Instr) : (s.later i).fqWait = s.fqWait := rfl
@[simp] theorem later_ctxtEn (s : State) (i : Instr) : (s.later i).ctxtEn = s.ctxtEn := rfl
@[simp] theorem later_ctxtBase (s : State) (i : Instr) : (s.later i).ctxtBase = s.ctxtBase := rfl
@[simp] theorem later_tvEn (s : State) (i : Instr) : (s.later i).tvEn = s.tvEn := rfl
@[simp] theorem later_tvBase (s : State) (i : Instr) : (s.later i).tvBase = s.tvBase := rfl
@[simp] theorem later_lct (s : State) (i : Instr) : (s.later i).lct = s.lct := rfl
@[simp] theorem later_lctLock (s : State) (i : Instr) : (s.later i).lctLock = s.lctLock := rfl
@[simp] theorem later_lctErr (s : State) (i : Instr) : (s.later i).lctErr = s.lctErr := rfl
@[simp] theorem later_nlog (s : State) (i : Instr) : (s.later i).nlog = s.nlog := rfl
@[simp] theorem later_parts (s : State) (i : Instr) : (s.later i).parts = s.parts := rfl
@[simp] theorem later_launches (s : State) (i : Instr) : (s.later i).launches = s.launches := rfl
@[simp] theorem later_bands (s : State) (i : Instr) : (s.later i).bands = s.bands := rfl
@[simp] theorem later_areas (s : State) (i : Instr) : (s.later i).areas = s.areas := rfl
@[simp] theorem later_loc (s : State) (i : Instr) : (s.later i).loc = s.loc := rfl
@[simp] theorem later_core (s : State) (i : Instr) : (s.later i).core = s.core := rfl
@[simp] theorem later_slot (s : State) (i : Instr) : (s.later i).slot = s.slot := rfl
@[simp] theorem later_th (s : State) (i : Instr) : (s.later i).th = s.th := rfl
@[simp] theorem later_cores (s : State) (i : Instr) : (s.later i).cores = s.cores := rfl

/-! `State.hold`. -/

@[simp] theorem hold_powered (s : State) (i : Instr) : (s.hold i).powered = s.powered := rfl
@[simp] theorem hold_frozen (s : State) (i : Instr) : (s.hold i).frozen = s.frozen := rfl
@[simp] theorem hold_freezePin (s : State) (i : Instr) : (s.hold i).freezePin = s.freezePin := rfl
@[simp] theorem hold_resetHeld (s : State) (i : Instr) : (s.hold i).resetHeld = s.resetHeld := rfl
@[simp] theorem hold_cycles (s : State) (i : Instr) : (s.hold i).cycles = s.cycles := rfl
@[simp] theorem hold_thermal (s : State) (i : Instr) : (s.hold i).thermal = s.thermal := rfl
@[simp] theorem hold_debugToken (s : State) (i : Instr) : (s.hold i).debugToken = s.debugToken := rfl
@[simp] theorem hold_debugFuse (s : State) (i : Instr) : (s.hold i).debugFuse = s.debugFuse := rfl
@[simp] theorem hold_fuseKeyHash (s : State) (i : Instr) : (s.hold i).fuseKeyHash = s.fuseKeyHash := rfl
@[simp] theorem hold_fuseMinSec (s : State) (i : Instr) : (s.hold i).fuseMinSec = s.fuseMinSec := rfl
@[simp] theorem hold_harvest (s : State) (i : Instr) : (s.hold i).harvest = s.harvest := rfl
@[simp] theorem hold_pkgid (s : State) (i : Instr) : (s.hold i).pkgid = s.pkgid := rfl
@[simp] theorem hold_sramShadow (s : State) (i : Instr) : (s.hold i).sramShadow = s.sramShadow := rfl
@[simp] theorem hold_bootState (s : State) (i : Instr) : (s.hold i).bootState = s.bootState := rfl
@[simp] theorem hold_bootImage (s : State) (i : Instr) : (s.hold i).bootImage = s.bootImage := rfl
@[simp] theorem hold_bootCause (s : State) (i : Instr) : (s.hold i).bootCause = s.bootCause := rfl
@[simp] theorem hold_bootDigests (s : State) (i : Instr) : (s.hold i).bootDigests = s.bootDigests := rfl
@[simp] theorem hold_bootNext (s : State) (i : Instr) : (s.hold i).bootNext = s.bootNext := rfl
@[simp] theorem hold_bootEntry (s : State) (i : Instr) : (s.hold i).bootEntry = s.bootEntry := rfl
@[simp] theorem hold_causeway (s : State) (i : Instr) : (s.hold i).causeway = s.causeway := rfl
@[simp] theorem hold_outbox (s : State) (i : Instr) : (s.hold i).outbox = s.outbox := rfl
@[simp] theorem hold_agenda (s : State) (i : Instr) : (s.hold i).agenda = s.agenda := rfl
@[simp] theorem hold_schedule (s : State) (i : Instr) : (s.hold i).schedule = s.schedule := rfl
@[simp] theorem hold_freeCount (s : State) (i : Instr) : (s.hold i).freeCount = s.freeCount := rfl
@[simp] theorem hold_links (s : State) (i : Instr) : (s.hold i).links = s.links := rfl
@[simp] theorem hold_holdings (s : State) (i : Instr) : (s.hold i).holdings = s.holdings := rfl
@[simp] theorem hold_alleysDown (s : State) (i : Instr) : (s.hold i).alleysDown = s.alleysDown := rfl
@[simp] theorem hold_outstanding (s : State) (i : Instr) : (s.hold i).outstanding = s.outstanding := rfl
@[simp] theorem hold_fports (s : State) (i : Instr) : (s.hold i).fports = s.fports := rfl
@[simp] theorem hold_ltGen (s : State) (i : Instr) : (s.hold i).ltGen = s.ltGen := rfl
@[simp] theorem hold_ltStale (s : State) (i : Instr) : (s.hold i).ltStale = s.ltStale := rfl
@[simp] theorem hold_linkTable (s : State) (i : Instr) : (s.hold i).linkTable = s.linkTable := rfl
@[simp] theorem hold_ltPending (s : State) (i : Instr) : (s.hold i).ltPending = s.ltPending := rfl
@[simp] theorem hold_flows (s : State) (i : Instr) : (s.hold i).flows = s.flows := rfl
@[simp] theorem hold_liveMask (s : State) (i : Instr) : (s.hold i).liveMask = s.liveMask := rfl
@[simp] theorem hold_fenced (s : State) (i : Instr) : (s.hold i).fenced = s.fenced := rfl
@[simp] theorem hold_splitWait (s : State) (i : Instr) : (s.hold i).splitWait = s.splitWait := rfl
@[simp] theorem hold_lostDies (s : State) (i : Instr) : (s.hold i).lostDies = s.lostDies := rfl
@[simp] theorem hold_cxl (s : State) (i : Instr) : (s.hold i).cxl = s.cxl := rfl
@[simp] theorem hold_bisnps (s : State) (i : Instr) : (s.hold i).bisnps = s.bisnps := rfl
@[simp] theorem hold_hostHeld (s : State) (i : Instr) : (s.hold i).hostHeld = s.hostHeld ++ [i] := rfl
@[simp] theorem hold_hostLines (s : State) (i : Instr) : (s.hold i).hostLines = s.hostLines := rfl
@[simp] theorem hold_mailboxes (s : State) (i : Instr) : (s.hold i).mailboxes = s.mailboxes := rfl
@[simp] theorem hold_queues (s : State) (i : Instr) : (s.hold i).queues = s.queues := rfl
@[simp] theorem hold_alrtBase (s : State) (i : Instr) : (s.hold i).alrtBase = s.alrtBase := rfl
@[simp] theorem hold_alrtLog2n (s : State) (i : Instr) : (s.hold i).alrtLog2n = s.alrtLog2n := rfl
@[simp] theorem hold_alrtEn (s : State) (i : Instr) : (s.hold i).alrtEn = s.alrtEn := rfl
@[simp] theorem hold_alrtHead (s : State) (i : Instr) : (s.hold i).alrtHead = s.alrtHead := rfl
@[simp] theorem hold_alrtTail (s : State) (i : Instr) : (s.hold i).alrtTail = s.alrtTail := rfl
@[simp] theorem hold_alrtLost (s : State) (i : Instr) : (s.hold i).alrtLost = s.alrtLost := rfl
@[simp] theorem hold_alrtSeq (s : State) (i : Instr) : (s.hold i).alrtSeq = s.alrtSeq := rfl
@[simp] theorem hold_alrtHeld (s : State) (i : Instr) : (s.hold i).alrtHeld = s.alrtHeld := rfl
@[simp] theorem hold_alrtFlight (s : State) (i : Instr) : (s.hold i).alrtFlight = s.alrtFlight := rfl
@[simp] theorem hold_mem (s : State) (i : Instr) : (s.hold i).mem = s.mem := rfl
@[simp] theorem hold_dirty (s : State) (i : Instr) : (s.hold i).dirty = s.dirty := rfl
@[simp] theorem hold_shadow (s : State) (i : Instr) : (s.hold i).shadow = s.shadow := rfl
@[simp] theorem hold_psect (s : State) (i : Instr) : (s.hold i).psect = s.psect := rfl
@[simp] theorem hold_lines (s : State) (i : Instr) : (s.hold i).lines = s.lines := rfl
@[simp] theorem hold_evicting (s : State) (i : Instr) : (s.hold i).evicting = s.evicting := rfl
@[simp] theorem hold_rerun (s : State) (i : Instr) : (s.hold i).rerun = s.rerun := rfl
@[simp] theorem hold_awayReqs (s : State) (i : Instr) : (s.hold i).awayReqs = s.awayReqs := rfl
@[simp] theorem hold_responses (s : State) (i : Instr) : (s.hold i).responses = s.responses := rfl
@[simp] theorem hold_preSplit (s : State) (i : Instr) : (s.hold i).preSplit = s.preSplit := rfl
@[simp] theorem hold_statWait (s : State) (i : Instr) : (s.hold i).statWait = s.statWait := rfl
@[simp] theorem hold_issued (s : State) (i : Instr) : (s.hold i).issued = s.issued := rfl
@[simp] theorem hold_tiles (s : State) (i : Instr) : (s.hold i).tiles = s.tiles := rfl
@[simp] theorem hold_declRecs (s : State) (i : Instr) : (s.hold i).declRecs = s.declRecs := rfl
@[simp] theorem hold_replicas (s : State) (i : Instr) : (s.hold i).replicas = s.replicas := rfl
@[simp] theorem hold_kills (s : State) (i : Instr) : (s.hold i).kills = s.kills := rfl
@[simp] theorem hold_coreMaps (s : State) (i : Instr) : (s.hold i).coreMaps = s.coreMaps := rfl
@[simp] theorem hold_channels (s : State) (i : Instr) : (s.hold i).channels = s.channels := rfl
@[simp] theorem hold_notices (s : State) (i : Instr) : (s.hold i).notices = s.notices := rfl
@[simp] theorem hold_fqWait (s : State) (i : Instr) : (s.hold i).fqWait = s.fqWait := rfl
@[simp] theorem hold_ctxtEn (s : State) (i : Instr) : (s.hold i).ctxtEn = s.ctxtEn := rfl
@[simp] theorem hold_ctxtBase (s : State) (i : Instr) : (s.hold i).ctxtBase = s.ctxtBase := rfl
@[simp] theorem hold_tvEn (s : State) (i : Instr) : (s.hold i).tvEn = s.tvEn := rfl
@[simp] theorem hold_tvBase (s : State) (i : Instr) : (s.hold i).tvBase = s.tvBase := rfl
@[simp] theorem hold_lct (s : State) (i : Instr) : (s.hold i).lct = s.lct := rfl
@[simp] theorem hold_lctLock (s : State) (i : Instr) : (s.hold i).lctLock = s.lctLock := rfl
@[simp] theorem hold_lctErr (s : State) (i : Instr) : (s.hold i).lctErr = s.lctErr := rfl
@[simp] theorem hold_nlog (s : State) (i : Instr) : (s.hold i).nlog = s.nlog := rfl
@[simp] theorem hold_parts (s : State) (i : Instr) : (s.hold i).parts = s.parts := rfl
@[simp] theorem hold_launches (s : State) (i : Instr) : (s.hold i).launches = s.launches := rfl
@[simp] theorem hold_bands (s : State) (i : Instr) : (s.hold i).bands = s.bands := rfl
@[simp] theorem hold_areas (s : State) (i : Instr) : (s.hold i).areas = s.areas := rfl
@[simp] theorem hold_loc (s : State) (i : Instr) : (s.hold i).loc = s.loc := rfl
@[simp] theorem hold_core (s : State) (i : Instr) : (s.hold i).core = s.core := rfl
@[simp] theorem hold_slot (s : State) (i : Instr) : (s.hold i).slot = s.slot := rfl
@[simp] theorem hold_th (s : State) (i : Instr) : (s.hold i).th = s.th := rfl
@[simp] theorem hold_cores (s : State) (i : Instr) : (s.hold i).cores = s.cores := rfl

/-! `State.out`. -/

@[simp] theorem out_powered (s : State) (o : Out) : (s.out o).powered = s.powered := rfl
@[simp] theorem out_frozen (s : State) (o : Out) : (s.out o).frozen = s.frozen := rfl
@[simp] theorem out_freezePin (s : State) (o : Out) : (s.out o).freezePin = s.freezePin := rfl
@[simp] theorem out_resetHeld (s : State) (o : Out) : (s.out o).resetHeld = s.resetHeld := rfl
@[simp] theorem out_cycles (s : State) (o : Out) : (s.out o).cycles = s.cycles := rfl
@[simp] theorem out_thermal (s : State) (o : Out) : (s.out o).thermal = s.thermal := rfl
@[simp] theorem out_debugToken (s : State) (o : Out) : (s.out o).debugToken = s.debugToken := rfl
@[simp] theorem out_debugFuse (s : State) (o : Out) : (s.out o).debugFuse = s.debugFuse := rfl
@[simp] theorem out_fuseKeyHash (s : State) (o : Out) : (s.out o).fuseKeyHash = s.fuseKeyHash := rfl
@[simp] theorem out_fuseMinSec (s : State) (o : Out) : (s.out o).fuseMinSec = s.fuseMinSec := rfl
@[simp] theorem out_harvest (s : State) (o : Out) : (s.out o).harvest = s.harvest := rfl
@[simp] theorem out_pkgid (s : State) (o : Out) : (s.out o).pkgid = s.pkgid := rfl
@[simp] theorem out_sramShadow (s : State) (o : Out) : (s.out o).sramShadow = s.sramShadow := rfl
@[simp] theorem out_bootState (s : State) (o : Out) : (s.out o).bootState = s.bootState := rfl
@[simp] theorem out_bootImage (s : State) (o : Out) : (s.out o).bootImage = s.bootImage := rfl
@[simp] theorem out_bootCause (s : State) (o : Out) : (s.out o).bootCause = s.bootCause := rfl
@[simp] theorem out_bootDigests (s : State) (o : Out) : (s.out o).bootDigests = s.bootDigests := rfl
@[simp] theorem out_bootNext (s : State) (o : Out) : (s.out o).bootNext = s.bootNext := rfl
@[simp] theorem out_bootEntry (s : State) (o : Out) : (s.out o).bootEntry = s.bootEntry := rfl
@[simp] theorem out_causeway (s : State) (o : Out) : (s.out o).causeway = s.causeway := rfl
@[simp] theorem out_outbox (s : State) (o : Out) : (s.out o).outbox = s.outbox ++ [o] := rfl
@[simp] theorem out_agenda (s : State) (o : Out) : (s.out o).agenda = s.agenda := rfl
@[simp] theorem out_schedule (s : State) (o : Out) : (s.out o).schedule = s.schedule := rfl
@[simp] theorem out_freeCount (s : State) (o : Out) : (s.out o).freeCount = s.freeCount := rfl
@[simp] theorem out_links (s : State) (o : Out) : (s.out o).links = s.links := rfl
@[simp] theorem out_holdings (s : State) (o : Out) : (s.out o).holdings = s.holdings := rfl
@[simp] theorem out_alleysDown (s : State) (o : Out) : (s.out o).alleysDown = s.alleysDown := rfl
@[simp] theorem out_outstanding (s : State) (o : Out) : (s.out o).outstanding = s.outstanding := rfl
@[simp] theorem out_fports (s : State) (o : Out) : (s.out o).fports = s.fports := rfl
@[simp] theorem out_ltGen (s : State) (o : Out) : (s.out o).ltGen = s.ltGen := rfl
@[simp] theorem out_ltStale (s : State) (o : Out) : (s.out o).ltStale = s.ltStale := rfl
@[simp] theorem out_linkTable (s : State) (o : Out) : (s.out o).linkTable = s.linkTable := rfl
@[simp] theorem out_ltPending (s : State) (o : Out) : (s.out o).ltPending = s.ltPending := rfl
@[simp] theorem out_flows (s : State) (o : Out) : (s.out o).flows = s.flows := rfl
@[simp] theorem out_liveMask (s : State) (o : Out) : (s.out o).liveMask = s.liveMask := rfl
@[simp] theorem out_fenced (s : State) (o : Out) : (s.out o).fenced = s.fenced := rfl
@[simp] theorem out_splitWait (s : State) (o : Out) : (s.out o).splitWait = s.splitWait := rfl
@[simp] theorem out_lostDies (s : State) (o : Out) : (s.out o).lostDies = s.lostDies := rfl
@[simp] theorem out_cxl (s : State) (o : Out) : (s.out o).cxl = s.cxl := rfl
@[simp] theorem out_bisnps (s : State) (o : Out) : (s.out o).bisnps = s.bisnps := rfl
@[simp] theorem out_hostHeld (s : State) (o : Out) : (s.out o).hostHeld = s.hostHeld := rfl
@[simp] theorem out_hostLines (s : State) (o : Out) : (s.out o).hostLines = s.hostLines := rfl
@[simp] theorem out_mailboxes (s : State) (o : Out) : (s.out o).mailboxes = s.mailboxes := rfl
@[simp] theorem out_queues (s : State) (o : Out) : (s.out o).queues = s.queues := rfl
@[simp] theorem out_alrtBase (s : State) (o : Out) : (s.out o).alrtBase = s.alrtBase := rfl
@[simp] theorem out_alrtLog2n (s : State) (o : Out) : (s.out o).alrtLog2n = s.alrtLog2n := rfl
@[simp] theorem out_alrtEn (s : State) (o : Out) : (s.out o).alrtEn = s.alrtEn := rfl
@[simp] theorem out_alrtHead (s : State) (o : Out) : (s.out o).alrtHead = s.alrtHead := rfl
@[simp] theorem out_alrtTail (s : State) (o : Out) : (s.out o).alrtTail = s.alrtTail := rfl
@[simp] theorem out_alrtLost (s : State) (o : Out) : (s.out o).alrtLost = s.alrtLost := rfl
@[simp] theorem out_alrtSeq (s : State) (o : Out) : (s.out o).alrtSeq = s.alrtSeq := rfl
@[simp] theorem out_alrtHeld (s : State) (o : Out) : (s.out o).alrtHeld = s.alrtHeld := rfl
@[simp] theorem out_alrtFlight (s : State) (o : Out) : (s.out o).alrtFlight = s.alrtFlight := rfl
@[simp] theorem out_mem (s : State) (o : Out) : (s.out o).mem = s.mem := rfl
@[simp] theorem out_dirty (s : State) (o : Out) : (s.out o).dirty = s.dirty := rfl
@[simp] theorem out_shadow (s : State) (o : Out) : (s.out o).shadow = s.shadow := rfl
@[simp] theorem out_psect (s : State) (o : Out) : (s.out o).psect = s.psect := rfl
@[simp] theorem out_lines (s : State) (o : Out) : (s.out o).lines = s.lines := rfl
@[simp] theorem out_evicting (s : State) (o : Out) : (s.out o).evicting = s.evicting := rfl
@[simp] theorem out_rerun (s : State) (o : Out) : (s.out o).rerun = s.rerun := rfl
@[simp] theorem out_awayReqs (s : State) (o : Out) : (s.out o).awayReqs = s.awayReqs := rfl
@[simp] theorem out_responses (s : State) (o : Out) : (s.out o).responses = s.responses := rfl
@[simp] theorem out_preSplit (s : State) (o : Out) : (s.out o).preSplit = s.preSplit := rfl
@[simp] theorem out_statWait (s : State) (o : Out) : (s.out o).statWait = s.statWait := rfl
@[simp] theorem out_issued (s : State) (o : Out) : (s.out o).issued = s.issued := rfl
@[simp] theorem out_tiles (s : State) (o : Out) : (s.out o).tiles = s.tiles := rfl
@[simp] theorem out_declRecs (s : State) (o : Out) : (s.out o).declRecs = s.declRecs := rfl
@[simp] theorem out_replicas (s : State) (o : Out) : (s.out o).replicas = s.replicas := rfl
@[simp] theorem out_kills (s : State) (o : Out) : (s.out o).kills = s.kills := rfl
@[simp] theorem out_coreMaps (s : State) (o : Out) : (s.out o).coreMaps = s.coreMaps := rfl
@[simp] theorem out_channels (s : State) (o : Out) : (s.out o).channels = s.channels := rfl
@[simp] theorem out_notices (s : State) (o : Out) : (s.out o).notices = s.notices := rfl
@[simp] theorem out_fqWait (s : State) (o : Out) : (s.out o).fqWait = s.fqWait := rfl
@[simp] theorem out_ctxtEn (s : State) (o : Out) : (s.out o).ctxtEn = s.ctxtEn := rfl
@[simp] theorem out_ctxtBase (s : State) (o : Out) : (s.out o).ctxtBase = s.ctxtBase := rfl
@[simp] theorem out_tvEn (s : State) (o : Out) : (s.out o).tvEn = s.tvEn := rfl
@[simp] theorem out_tvBase (s : State) (o : Out) : (s.out o).tvBase = s.tvBase := rfl
@[simp] theorem out_lct (s : State) (o : Out) : (s.out o).lct = s.lct := rfl
@[simp] theorem out_lctLock (s : State) (o : Out) : (s.out o).lctLock = s.lctLock := rfl
@[simp] theorem out_lctErr (s : State) (o : Out) : (s.out o).lctErr = s.lctErr := rfl
@[simp] theorem out_nlog (s : State) (o : Out) : (s.out o).nlog = s.nlog := rfl
@[simp] theorem out_parts (s : State) (o : Out) : (s.out o).parts = s.parts := rfl
@[simp] theorem out_launches (s : State) (o : Out) : (s.out o).launches = s.launches := rfl
@[simp] theorem out_bands (s : State) (o : Out) : (s.out o).bands = s.bands := rfl
@[simp] theorem out_areas (s : State) (o : Out) : (s.out o).areas = s.areas := rfl
@[simp] theorem out_loc (s : State) (o : Out) : (s.out o).loc = s.loc := rfl
@[simp] theorem out_core (s : State) (o : Out) : (s.out o).core = s.core := rfl
@[simp] theorem out_slot (s : State) (o : Out) : (s.out o).slot = s.slot := rfl
@[simp] theorem out_th (s : State) (o : Out) : (s.out o).th = s.th := rfl
@[simp] theorem out_cores (s : State) (o : Out) : (s.out o).cores = s.cores := rfl

end Sys2Proof.Laws
end

