-- ==== Sys2Proof/Laws/Seen.lean ====
section
/-! SUPPORT. What a translation that succeeds and a read that is served can do: they move entries of the TLB, the caches, the
line entries and the channels, and may make an eviction due; nothing else. `Seen s t` says so once; the lemmas below say it of
each operation. -/

namespace Sys2Proof.Laws

open Sys2Proof.Machine Sys2Proof.Claims

/-- `t` is `s` after reads: only the caches, the TLB, the line entries without their host states, the watchers, the channels
and the events that are due may differ. -/
structure Seen (s t : State) : Prop where
  rest : t = { s with core := t.core, lines := t.lines, coreMaps := t.coreMaps, channels := t.channels, agenda := t.agenda }
  core : t.core = { s.core with slots := t.core.slots, tlb := t.core.tlb, ccache := t.core.ccache }
  slots : ∀ j : Fin 8, j ≠ s.slot → t.core.slots[j] = s.core.slots[j]
  host : ∀ h, t.hostState h = s.hostState h
  whole : Whole s t

namespace Seen

theorem refl (s : State) : Seen s s := ⟨rfl, rfl, fun _ _ => rfl, fun _ => rfl, id⟩

variable {s t u : State}

theorem th (h : Seen s t) : t.th = s.th := by rw [h.rest]
theorem loc (h : Seen s t) : t.loc = s.loc := by rw [h.rest]
theorem slot (h : Seen s t) : t.slot = s.slot := by rw [h.rest]
theorem cores (h : Seen s t) : t.cores = s.cores := by rw [h.rest]
theorem mem (h : Seen s t) : t.mem = s.mem := by rw [h.rest]
theorem dirty (h : Seen s t) : t.dirty = s.dirty := by rw [h.rest]
theorem shadow (h : Seen s t) : t.shadow = s.shadow := by rw [h.rest]
theorem tiles (h : Seen s t) : t.tiles = s.tiles := by rw [h.rest]
theorem psect (h : Seen s t) : t.psect = s.psect := by rw [h.rest]
theorem lostDies (h : Seen s t) : t.lostDies = s.lostDies := by rw [h.rest]
theorem fenced (h : Seen s t) : t.fenced = s.fenced := by rw [h.rest]
theorem splitWait (h : Seen s t) : t.splitWait = s.splitWait := by rw [h.rest]
theorem pkgid (h : Seen s t) : t.pkgid = s.pkgid := by rw [h.rest]
theorem replicas (h : Seen s t) : t.replicas = s.replicas := by rw [h.rest]
theorem outstanding (h : Seen s t) : t.outstanding = s.outstanding := by rw [h.rest]
theorem kills (h : Seen s t) : t.kills = s.kills := by rw [h.rest]
theorem bisnps (h : Seen s t) : t.bisnps = s.bisnps := by rw [h.rest]
theorem holdings (h : Seen s t) : t.holdings = s.holdings := by rw [h.rest]
theorem coreList (h : Seen s t) : t.coreList = s.coreList := by simp only [State.coreList, h.loc, h.cores]
theorem launches (h : Seen s t) : t.launches = s.launches := by rw [h.rest]
theorem inflight (h : Seen s t) : t.core.inflight = s.core.inflight := by rw [h.core]
theorem staging (h : Seen s t) : t.core.staging = s.core.staging := by rw [h.core]
theorem deque (h : Seen s t) : t.core.deque = s.core.deque := by rw [h.core]
theorem teams (h : Seen s t) : t.core.teams = s.core.teams := by rw [h.core]

theorem trans (a : Seen s t) (b : Seen t u) : Seen s u where
  rest := by rw [b.rest, a.rest]
  core := by rw [b.core, a.core]
  slots := fun j hj => by rw [b.slots j (by rw [a.slot]; exact hj), a.slots j hj]
  host := fun h => by rw [b.host, a.host]
  whole := fun h => b.whole (a.whole h)

theorem asid (h : Seen s t) : t.asid = s.asid := by simp [State.asid, h.loc, h.slot, h.th]

theorem physByte (h : Seen s t) (a : Nat) : t.physByte a = s.physByte a := by
  simp only [State.physByte, State.backing, State.tileOver, h.dirty, h.tiles, h.mem, h.shadow]

theorem byteFor (h : Seen s t) (c a : Nat) : t.byteFor c a = s.byteFor c a := by
  simp only [State.byteFor, State.replicaSector, State.tileOver, h.physByte, h.tiles, h.replicas]

theorem loadByte (h : Seen s t) (o : List WriteMsg) (a : Nat) : t.loadByte o a = s.loadByte o a := by
  simp only [State.loadByte, h.byteFor, h.loc]

theorem ownStores (h : Seen s t) : t.ownStores = s.ownStores := by
  simp only [State.ownStores, h.inflight, h.staging, h.th]

/-- Another thread is as it was. -/
theorem getThread (h : Seen s t) (c : CoreId) (sl : Fin 8) (hne : ¬(c = s.loc ∧ sl = s.slot)) :
    t.getThread c sl = s.getThread c sl := by
  by_cases hc : c = s.loc
  · have hsl : sl ≠ s.slot := fun e => hne ⟨hc, e⟩
    have h1 : ¬ (s.slot.val = sl.val) := fun e => hsl (Fin.ext e.symm)
    have h2 := h.slots sl hsl
    simp only [Fin.getElem_fin] at h2
    simp [State.getThread, State.getCore, State.here, h.loc, h.slot, hc, hsl, h1, h2]
  · simp [State.getThread, State.getCore, h.loc, h.slot, hc, h.cores]

end Seen

/-! The operations. -/

/-- Setting the core's caches or TLB. -/
theorem seen_onLoc (s : State) (f : Core → Core)
    (hf : ∀ k, f k = { k with tlb := (f k).tlb, ccache := (f k).ccache }) : Seen s (s.onCore s.loc f) := by
  have hs : (f s.here).slots = s.here.slots := by rw [hf]
  constructor
  · simp only [State.onCore, State.putCore, State.getCore, if_true]
    have : (f s.here).slots[s.slot] = s.th := by rw [hs]; simp [State.here]
    rw [this]
  · simp only [State.onCore, State.putCore, State.getCore, if_true]
    rw [hf]; rfl
  · intro j hj
    simp only [State.onCore, State.putCore, State.getCore, if_true, hs]
    have h1 : ¬ (s.slot.val = j.val) := fun e => hj (Fin.ext e.symm)
    simp [State.here, h1]
  · intro h
    simp [State.onCore, State.putCore, State.hostState, State.lineAt]
  · intro h l
    simpa [State.onCore, State.putCore, State.lineAt] using h l

/-- The entries after one is written. -/
theorem lineAt_setLine (s : State) (line : Nat) (e : LineEntry) (l : Nat) :
    (s.setLine line e).lineAt l = if l = line then e else s.lineAt l := by
  have hl : ∀ t : State, (t.later (.homeLineRead (coreOf (homeOf (128 * line)) homeSite) (128 * line))).lineAt l = t.lineAt l :=
    fun _ => rfl
  unfold State.setLine
  by_cases he : e = LineEntry.none
  · subst he
    by_cases h : l = line
    · subst h; simp [State.lineAt]
    · simp [State.lineAt, h, mapGet_mapErase_ne _ _ _ h]
  · rw [if_neg he]
    have key : ({ s with lines := (line, e) :: mapErase s.lines line } : State).lineAt l = if l = line then e else s.lineAt l := by
      by_cases h : l = line
      · subst h; simp [State.lineAt, mapGet]
      · simp [State.lineAt, mapGet, h, Ne.symm h, mapGet_mapErase_ne _ _ _ h]
    simp only
    split
    · rw [hl, key]
    · exact key

/-- What a line entry's write leaves. -/
theorem setLine_rest (s : State) (line : Nat) (e : LineEntry) :
    s.setLine line e = { s with lines := (s.setLine line e).lines, agenda := (s.setLine line e).agenda } := by
  simp only [State.setLine]; split <;> [rfl; (split <;> rfl)]

/-- A line entry written with its host states kept, and no value that is never stored. -/
theorem seen_setLine (s : State) (line : Nat) (e : LineEntry) (h0 : e.hlo = (s.lineAt line).hlo)
    (h1 : e.hhi = (s.lineAt line).hhi) (h2 : (s.lineAt line).state ≠ 3 → e.state ≠ 3) : Seen s (s.setLine line e) where
  rest := by rw [setLine_rest]
  core := by rw [setLine_rest]
  slots := fun _ _ => by rw [setLine_rest]
  host := fun h => by
    simp only [State.hostState, lineAt_setLine]
    by_cases hl : h / 2 = line
    · subst hl; simp [h0, h1]
    · simp [hl]
  whole := fun h l => by
    rw [lineAt_setLine]
    split
    · exact h2 (h line)
    · exact h l

/-- The watchers and channels aside, nothing changes. -/
theorem seen_aux (s : State) (m : List (Nat × Nat × List CoreId)) (c : Vector Channel 64) (a : List Instr) :
    Seen s { s with coreMaps := m, channels := c, agenda := a } := ⟨rfl, rfl, fun _ _ => rfl, fun _ => rfl, id⟩

/-- A request changes the counts of an entry only (R91). -/
theorem asked_eq (e : LineEntry) (die : Nat) :
    e.asked die = { e with away := (e.asked die).away, awayDie := (e.asked die).awayDie } := by
  unfold LineEntry.asked; split <;> rfl

/-- A die becomes a watcher (R107). -/
theorem seen_watchLine (s : State) (line : Nat) (c : CoreId) : Seen s (s.watchLine line c) := by
  simp only [State.watchLine, State.watchFor]
  refine (seen_setLine s line _ ?_ ?_ ?_).trans (seen_aux _ _ _ _) <;> simp only <;> rw [asked_eq]
  exact id

/-- The lookup of an address for the current thread, when it finds a translation (R122, R123): an extent, or an entry of the
TLB. -/
theorem seen_lookup (s : State) (va : Word) (n : Nat) {l : Leaf} (h : (s.lookup s.asid va n).1 = .ok l) :
    Seen s (s.lookup s.asid va n).2 := by
  revert h
  simp only [State.lookup, State.asid, Bool.not_true, Bool.false_eq_true, if_false]
  split
  · intro _; exact Seen.refl s
  · split
    · intro _; exact seen_onLoc s _ fun k => rfl
    · split
      · intro h; exact absurd h (by simp)
      · intro h
        exfalso
        revert h
        simp only [State.startWalk]
        split
        · simp
        · generalize s.walk s.loc s.th.ctx va = r
          obtain ⟨r, u⟩ := r
          cases r with
          | error f => simp only; split <;> simp
          | ok l => simp

/-- A translation that gives an address (R116 to R123). -/
theorem seen_xlate (s : State) (va : Word) (n : Nat) (k : Access) {p : Phys} (h : (s.xlate s.asid va n k).1 = .ok p) :
    Seen s (s.xlate s.asid va n k).2 := by
  have hl := fun l => seen_lookup s va n (l := l)
  revert h
  simp only [State.xlate]
  split
  · intro _; exact Seen.refl s
  · revert hl
    generalize s.lookup s.asid va n = r
    obtain ⟨o, s'⟩ := r
    intro hl
    cases o with
    | error f => intro h; exact absurd h (by simp)
    | ok l => simp only; split <;> exact fun _ => hl l rfl

/-- A translation of both pages of an access (R303). -/
theorem seen_xlateSpan (s : State) (va : Word) (n : Nat) (k : Access) {ps : List (Phys × Nat)}
    (h : (s.xlateSpan s.asid va n k).1 = .ok ps) : Seen s (s.xlateSpan s.asid va n k).2 := by
  revert h
  simp only [State.xlateSpan]
  split
  · have h := fun p => seen_xlate s va n k (p := p)
    revert h
    generalize s.xlate s.asid va n k = r
    obtain ⟨o, s'⟩ := r
    intro h
    cases o with
    | error f => intro h; exact absurd h (by simp)
    | ok p => exact fun _ => h p rfl
  · have h := fun p => seen_xlate s va (65536 - va.toNat % 65536) k (p := p)
    revert h
    generalize s.xlate s.asid va (65536 - va.toNat % 65536) k = r
    obtain ⟨o, s'⟩ := r
    intro h
    cases o with
    | error f => intro h; exact absurd h (by simp)
    | ok p =>
      simp only
      have h := h p rfl
      rw [← h.asid]
      have h2 := fun p => seen_xlate s' (va + w64 (65536 - va.toNat % 65536)) (n - (65536 - va.toNat % 65536)) k (p := p)
      revert h2
      generalize s'.xlate s'.asid (va + w64 (65536 - va.toNat % 65536)) (n - (65536 - va.toNat % 65536)) k = r
      obtain ⟨o, s''⟩ := r
      intro h2
      cases o with
      | error f => intro h; exact absurd h (by simp)
      | ok q => exact fun _ => h.trans (h2 q rfl)

theorem seen_channelTake (s : State) (pa : Nat) (wr : Bool) : Seen s (s.channelTake pa wr) := by
  simp only [State.channelTake]
  split
  · split
    · exact seen_aux s _ _ _
    · exact Seen.refl s
  · exact Seen.refl s

theorem lineAt_channelTake (s : State) (pa l : Nat) (wr : Bool) : (s.channelTake pa wr).lineAt l = s.lineAt l := by
  simp only [State.channelTake]
  split
  · split <;> rfl
  · rfl

theorem seen_dieCrowd (s : State) (die line : Nat) : Seen s (s.dieCrowd die line) := by
  simp only [State.dieCrowd]
  split
  · split
    · exact seen_aux s _ _ _
    · exact Seen.refl s
  · exact Seen.refl s

/-- A line read (R90). -/
theorem seen_lineForRead (s : State) (c : CoreId) (line : Nat) (m : Bool) : Seen s (s.lineForRead c line m) := by
  simp only [State.lineForRead]
  split
  · refine seen_setLine s line _ ?_ ?_ ?_ <;> simp only <;> rw [asked_eq]
    exact id
  · have h := seen_channelTake s (128 * line) false
    split
    · refine (h.trans (seen_setLine _ line _ (by rw [lineAt_channelTake]) (by rw [lineAt_channelTake]) ?_)).trans
        (seen_dieCrowd ..)
      intro _
      simp
    · exact h

theorem seen_linesForRead (c : CoreId) (m : Bool) (pa n : Nat) (ls : List Nat) :
    ∀ s : State, Seen s (ls.foldl (fun s l => if s.touchesOpen l pa n then s.lineForRead c l m else s) s) := by
  induction ls with
  | nil => exact Seen.refl
  | cons l ls ih =>
    intro s
    rw [List.foldl_cons]
    split
    · exact (seen_lineForRead s c l m).trans (ih _)
    · exact ih s

/-- A core has a line no longer exclusively (R211). -/
theorem seen_endExcl (s : State) (c : CoreId) (line : Nat) : Seen s (s.endExcl c line) := by
  simp only [State.endExcl]
  split
  · exact seen_setLine s line _ rfl rfl id
  · exact Seen.refl s

/-- The core cache of the current core takes sectors of a line (R211). -/
theorem seen_touch (s : State) (line : Nat) (m : BitVec 8) : Seen s (s.touch s.loc line m) := by
  simp only [State.touch]
  have h : Seen s (match (s.getCore s.loc).crowded line with
      | some v => s.endExcl s.loc v.line
      | none => s) := by
    split
    · exact seen_endExcl ..
    · exact Seen.refl s
  refine h.trans ?_
  have h2 := seen_onLoc (match (s.getCore s.loc).crowded line with
      | some v => s.endExcl s.loc v.line
      | none => s) (Core.touch line m) fun k => rfl
  rw [h.loc] at h2
  exact h2

/-- The channels of the frames that a read or a store reaches (R103, R114). -/
theorem seen_frameTake (s : State) (pa n : Nat) (wr : Bool) : Seen s (s.frameTake pa n wr) := by
  simp only [State.frameTake]
  generalize s.frameLines pa n = ls
  induction ls generalizing s with
  | nil => exact Seen.refl s
  | cons l ls ih => exact (seen_channelTake s (128 * l) wr).trans (ih _)

/-- The core cache takes what the die cache holds of some lines (R211). -/
theorem seen_touches (c : CoreId) (pa n : Nat) (ls : List Nat) :
    ∀ s : State, s.loc = c → Seen s (ls.foldl (fun s l =>
      let m := s.dieMask (sockOf c) l pa n
      if m = 0 then s else s.touch c l m) s) := by
  induction ls with
  | nil => exact fun s _ => Seen.refl s
  | cons l ls ih =>
    intro s hs
    subst hs
    simp only [List.foldl_cons]
    by_cases h : s.dieMask (sockOf s.loc) l pa n = 0
    · rw [if_pos h]
      exact ih s rfl
    · rw [if_neg h]
      have ht := seen_touch s l (s.dieMask (sockOf s.loc) l pa n)
      exact ht.trans (ih _ ht.loc)

/-! Calm device memory. -/

theorem Seen.inflightOf {s t : State} (h : Seen s t) (c : CoreId) : (t.getCore c).inflight = (s.getCore c).inflight := by
  by_cases hc : c = s.loc
  · simp [State.getCore, State.here, h.loc, hc, h.inflight]
  · simp [State.getCore, h.loc, hc, h.cores]

theorem open_seen {s t : State} (o : OpenMemory s) (h : Seen s t) : OpenMemory t := by
  obtain ⟨a, fe, b, c, d, e, f, g⟩ := o
  exact ⟨by rw [h.lostDies, a], by rw [h.fenced, fe], by rw [h.splitWait, b], by rw [h.tiles, c], by rw [h.psect, d], by rw [h.bisnps, e],
    fun x => by rw [h.host, f], h.whole g⟩

theorem calm_seen {s t : State} (o : Calm s) (h : Seen s t) : Calm t := by
  exact ⟨open_seen o.1 h, fun c => by rw [h.inflightOf]; exact o.2 c⟩

theorem open_lostAt {s : State} (o : OpenMemory s) (pa : Nat) : s.lostAt pa = false := by simp [State.lostAt, State.behind, o.1]

theorem open_heldBySplit {s : State} (o : OpenMemory s) (pa : Nat) : s.heldBySplit pa = false := by
  simp [State.heldBySplit, State.behind, o.2.1, o.2.2.1]

theorem open_tileOver {s : State} (o : OpenMemory s) (pa : Nat) : s.tileOver pa = none := by simp [State.tileOver, o.2.2.2.1]

theorem open_hostHalf {s : State} (o : OpenMemory s) (pa n : Nat) (b : Bool) : s.hostHalf pa n b = none := by
  have h := o.2.2.2.2.2.2.1
  cases b <;> simp [State.hostHalf, h]

theorem open_busyHalf {s : State} (o : OpenMemory s) (l : Nat) : s.busyHalf l = none := by simp [State.busyHalf, o.2.2.2.2.2.1]

theorem open_broken {s : State} (o : OpenMemory s) (l : Nat) : (s.lineAt l).broken = false := by
  have h1 := o.2.2.2.2.2.2.1 (2 * l)
  have h2 := o.2.2.2.2.2.2.1 (2 * l + 1)
  have h3 : ¬(s.lineAt l).state = 3#2 := o.2.2.2.2.2.2.2 l
  have h4 : (2 * l + 1) / 2 = l := by omega
  simp only [State.hostState, Nat.mul_mod_right, if_true, Nat.mul_div_cancel_left l (by decide : 0 < 2), h4,
    Nat.mul_add_mod] at h1 h2
  simp only [Nat.reduceMod, Nat.one_ne_zero, if_false] at h2
  simp [LineEntry.broken, h1, h2, h3]

theorem open_forwarding {s : State} (o : OpenMemory s) (pa n : Nat) : s.forwarding pa n = none := by simp [State.forwarding, open_tileOver o]

theorem open_poisonedIn {s : State} (o : OpenMemory s) (pa n : Nat) : s.poisonedIn pa n = false := by simp [State.poisonedIn, o.2.2.2.2.1]

theorem open_partPoisoned {s : State} (o : OpenMemory s) (pa n : Nat) : s.partPoisoned pa n = false := by simp [State.partPoisoned, o.2.2.2.2.1]

/-- Nothing holds a request up. -/
theorem open_blocked {s : State} (o : OpenMemory s) (q : Requester) (pa n : Nat) (b : Bool) (c : HoldClass) :
    s.blocked q pa n b c = (none, s) := by
  have h1 : (linesOf pa n).find? (fun l => (s.lineAt l).broken) = none := by simp [open_broken o]
  have h2 : (linesOf pa n).findSome? s.busyHalf = none := by simp [open_busyHalf o]
  simp [State.blocked, open_heldBySplit o, h1, h2, open_hostHalf o, open_forwarding o]

/-- No own atomic goes ahead of a load. -/
theorem calm_flushAmos {s : State} (o : Calm s) (pa n : Nat) : s.flushAmos pa n = (.done (), s) := by
  have h : ∀ p ∈ s.core.inflight, p.msg.amo = none := fun p hp =>
    (o.2 s.loc p (by simpa [State.getCore, State.here] using hp)).2
  have : s.core.inflight.filter (fun p =>
      p.tid == s.th.order && p.msg.amo.isSome && decide (p.msg.pa < pa + n ∧ pa < p.msg.pa + p.msg.n)) = [] := by
    rw [List.filter_eq_nil_iff]; intro p hp; simp [h p hp]
  rw [State.flushAmos, this]; rfl

/-- No write of the socket goes ahead of a read. -/
theorem calm_settle {s : State} (o : Calm s) (c : CoreId) (pa : Nat) : s.settle c pa = (.done (), s) := by
  have h : ∀ c', (s.getCore c').inflight.filter (fun q => q.near && sameWay q.msg.pa pa) = [] := fun c' => by
    rw [List.filter_eq_nil_iff]; intro p hp; simp [(o.2 c' p hp).1]
  have : ∀ l : List CoreId, (l.flatMap fun c' => ((s.getCore c').inflight.filter fun q => q.near && sameWay q.msg.pa pa).map
      fun q => (c', q)) = [] := fun l => by simp [h]
  rw [State.settle, State.socketWrites, this]; rfl

/-- A read of open device memory gives the current bytes. -/
theorem serveRead_calm (s : State) (o : Calm s) (pa n : Nat) (m : Bool) (tid : Nat) :
    ∃ t, s.serveRead s.loc pa n m tid = (.done (leRead (s.byteFor s.loc) pa n), t) ∧ Seen s t := by
  simp only [State.serveRead, open_lostAt o.1, open_blocked o.1, open_poisonedIn o.1, Bool.or_self, Bool.false_eq_true, if_false]
  refine ⟨_, rfl, ?_⟩
  have h := (seen_frameTake s pa n false).trans (seen_linesForRead s.loc m pa n (linesOf pa n) _)
  split
  · exact h.trans (seen_touches _ _ _ _ _ h.loc)
  · exact h

theorem leRead_congr {f g : Nat → Byte} (h : ∀ a, f a = g a) (a n : Nat) : leRead f a n = leRead g a n := by
  have : f = g := funext h
  rw [this]

/-- A load of one piece of open device memory: the thread's own stores ahead of the current bytes (R150, R157). -/
theorem loadPiece_calm (s : State) (o : Calm s) (p : Phys) (n : Nat) (hd : s.isDevMem p.pa = true) :
    ∃ t, s.loadPiece p n = (.value (leRead (s.loadByte s.ownStores) p.pa n), t) ∧ Seen s t := by
  simp only [State.isDevMem, Bool.and_eq_true, Bool.or_eq_true, beq_iff_eq] at hd
  obtain ⟨hl, hr⟩ := hd
  obtain ⟨t, ht, hs⟩ := serveRead_calm s o p.pa n (!isCmd s.loc && !p.uncached) s.th.order
  have hb := leRead_congr (fun a => hs.loadByte s.ownStores a) p.pa n
  rcases hr with hr | hr <;>
    simp only [State.loadPiece, calm_flushAmos o, State.loadHere, hl, hr, Bool.not_true, Bool.false_eq_true, if_false, calm_settle o] <;>
    (split
     · exact ⟨s, rfl, Seen.refl s⟩
     · rw [ht]; simp only [hb]; exact ⟨t, rfl, hs⟩)

end Sys2Proof.Laws
end

