-- ==== Sys2Proof/Laws/Release.lean ====
section
/-! SUPPORT. What a release does for a thread that has nothing to wait for (R159, R161): its team's checkpoint is sealed, and
the rest of the instruction goes on. -/

namespace Sys2Proof.Laws

open Sys2Proof.Machine Sys2Proof.Claims

/-- `u` is `s` with the checkpoint of the current thread's team sealed, and perhaps no decoded scope table. -/
structure Drained (s u : State) : Prop where
  rest : u = { s with core := u.core, th := { s.th with scopeTab := u.th.scopeTab } }
  core : u.core = { s.core with slots := u.core.slots, teams := u.core.teams, staging := [], stagedAt := u.core.stagedAt }
  slots : ∀ j : Fin 8, j ≠ s.slot → u.core.slots[j] = s.core.slots[j]
  teams : u.core.teams = s.core.teams ∨
    u.core.teams = s.core.teams.map fun t => if t.id == s.th.team then { t with ckpt := { t.ckpt with isOpen := false } } else t

/-- A thread of the core that has no open message (R147). -/
theorem packing_none (s : State) (h : ∀ t ∈ s.here.slots.toList ++ s.core.saves.map (·.thread), t.packing = []) (tid : Nat) :
    (s.threadOf s.loc tid).packing = [] := by
  have hs : ∀ sl : Fin 8, (s.getThread s.loc sl).packing = [] := fun sl => by
    have : s.getThread s.loc sl = s.here.slots[sl] := by
      by_cases hsl : sl = s.slot
      · subst hsl; simp [State.getThread, State.here]
      · simp [State.getThread, State.getCore, hsl]
    rw [this]
    exact h _ (List.mem_append_left _ (by simp))
  simp only [State.threadOf, State.getCore, if_true]
  cases hf : s.here.saves.find? fun v => v.thread.order == tid with
  | none => simpa using hs _
  | some v =>
    have := List.mem_of_find?_eq_some hf
    exact h v.thread (List.mem_append_right _ (List.mem_map.2 ⟨v, this, rfl⟩))

/-- Closing messages that are not open. -/
theorem closeMsgs_none (tids : List Nat) (s : State)
    (h : ∀ t ∈ s.here.slots.toList ++ s.core.saves.map (·.thread), t.packing = []) :
    tids.foldl (fun s tid => s.closeMsg s.loc tid) s = s := by
  induction tids with
  | nil => rfl
  | cons t r ih =>
    have : s.closeMsg s.loc t = s := by simp only [State.closeMsg, packing_none s h]
    rw [List.foldl_cons, this, ih]

theorem closeMsgs_loc (tids : List Nat) (c : CoreId) : ∀ s : State,
    s.loc = c → (∀ t ∈ s.here.slots.toList ++ s.core.saves.map (·.thread), t.packing = []) →
      tids.foldl (fun s tid => s.closeMsg c tid) s = s := by
  induction tids with
  | nil => intro s _ _; rfl
  | cons t r ih =>
    intro s hc h
    subst hc
    have : s.closeMsg s.loc t = s := by simp only [State.closeMsg, packing_none s h]
    rw [List.foldl_cons, this, ih s rfl h]

/-- A core whose team's checkpoint is sealed, with nothing in staging. -/
def sealedCore (k : Core) (team : Nat) : Core :=
  { (k.onTeam team fun t => { t with ckpt := { t.ckpt with isOpen := false } }) with
    staging := [], stagedAt := mapErase k.stagedAt team }

/-- Sealing with nothing in staging and no open message. -/
theorem seal_quiet (s : State) (h : s.core.staging = [])
    (hp : ∀ t ∈ s.here.slots.toList ++ s.core.saves.map (·.thread), t.packing = []) :
    ∃ u, s.seal = u ∧ Drained s u ∧ u.th = s.th ∧ u.here.slots = s.here.slots ∧
      (isCmd s.loc = false →
        u.core.teams = s.core.teams.map fun t => if t.id == s.th.team then { t with ckpt := { t.ckpt with isOpen := false } } else t) := by
  refine ⟨_, rfl, ?_⟩
  by_cases hc : isCmd s.loc = true
  · have : s.seal = s := by simp [State.seal, hc]
    rw [this]
    exact ⟨⟨rfl, by rw [← h], fun _ _ => rfl, .inl rfl⟩, rfl, rfl, fun h' => by rw [hc] at h'; exact absurd h' (by decide)⟩
  · have hs : s.seal = { s with core := sealedCore s.here s.th.team, th := s.th } := by
      have hk : (sealedCore s.here s.th.team).slots = s.here.slots := rfl
      have hv : (sealedCore s.here s.th.team).saves = s.core.saves := rfl
      have hst : s.here.staging = [] := h
      have e : ∀ t ∈ ({ s with core := sealedCore s.here s.th.team, th := s.th } : State).here.slots.toList ++
          ({ s with core := sealedCore s.here s.th.team, th := s.th } : State).core.saves.map (·.thread), t.packing = [] := by
        intro t ht
        have h3 : ({ s with core := sealedCore s.here s.th.team, th := s.th } : State).here.slots = s.here.slots := by
          simp only [State.here, sealedCore, Core.onTeam]
          ext i hi
          by_cases hi' : s.slot.val = i <;> simp [hi']
        rw [h3] at ht
        exact hp t ht
      have hon : ∀ f : Core → Core, f s.here = sealedCore s.here s.th.team →
          s.onCore s.loc f = { s with core := sealedCore s.here s.th.team, th := s.th } := by
        intro f hf
        simp only [State.onCore, State.putCore, State.getCore, if_true, hf, hk]
        have : s.here.slots[s.slot] = s.th := by simp [State.here]
        rw [this]
      have hg : s.getCore s.loc = s.here := by simp [State.getCore]
      simp only [State.seal, hc, State.sealOf, hg, hst, List.filter_nil, List.foldl_nil]
      rw [hon _ (by simp [sealedCore, hst, Core.onTeam])]
      exact closeMsgs_loc _ _ _ rfl e
    rw [hs]
    refine ⟨⟨rfl, rfl, ?_, .inr rfl⟩, rfl, ?_, fun _ => rfl⟩
    · intro j hj
      have h1 : ¬ (s.slot.val = j.val) := fun e => hj (Fin.ext e.symm)
      simp [sealedCore, Core.onTeam, State.here, h1]
    · simp only [State.here, sealedCore, Core.onTeam]
      ext i hi
      by_cases hi' : s.slot.val = i <;> simp [hi']

/-- The drain of a thread that has nothing to wait for. -/
theorem drain_quiet (l : Option Level) (s : State) (h : Quiet s) :
    ∃ u, s.drain l = (.done (), u) ∧ Drained s u ∧ u.th = s.th ∧
      (isCmd s.loc = false →
        u.core.teams = s.core.teams.map fun t => if t.id == s.th.team then { t with ckpt := { t.ckpt with isOpen := false } } else t) := by
  obtain ⟨_, _, hst, hin, hout, hk, hp, _, hdev, hhst⟩ := h
  obtain ⟨u, hu, hd, hth, hsl, ht⟩ := seal_quiet s hst hp
  refine ⟨u, ?_, hd, hth, ht⟩
  have hui : u.core.inflight = [] := by rw [hd.core]; exact hin
  have huo : u.outstanding = [] := by rw [hd.rest]; exact hout
  have huk : u.kills = [] := by rw [hd.rest]; exact hk
  have hus : u.core.saves = s.core.saves := by rw [hd.core]
  have hul : u.loc = s.loc := by rw [hd.rest]
  have huc : u.closeMsg s.loc s.th.order = u := by
    rw [← hul]
    simp only [State.closeMsg, packing_none u (by rw [hsl, hus]; exact hp)]
  have he : u.endNear = u := by
    have : u.endNear = State.onTh { u with outstanding := [] } fun t => { t with near := t.near } := by
      simp only [State.endNear, huo, List.filter_nil, List.length_nil, List.map_nil, Nat.sub_zero]
    rw [this, show ([] : List Outstanding) = u.outstanding from huo.symm]
    rfl
  have hf : u.finishKills s.loc s.th.order = u := by simp [State.finishKills, huk]
  simp only [State.drain, hu, hul, hth, huc, hui, List.filter_nil, State.performAll, State.nearAll]
  cases l with
  | none => rfl
  | some l => cases l <;> simp [levelRank, he, hul, hth, hf, hdev, hhst]

/-- Tiles without neighbours push no halo. -/
theorem pushHalo_none (u : State) (ts : Map Tile) (h : ∀ p ∈ ts, p.2.neighbours = [] ∧ u.haloOut p.1 = false) :
    ts.foldl (fun s p => s.pushHalo p.1 (sockOf s.loc) p.2) u = u ∧ ts.find? (fun p => u.haloOut p.1) = none := by
  refine ⟨?_, by rw [List.find?_eq_none]; intro p hp; simp [(h p hp).2]⟩
  induction ts with
  | nil => rfl
  | cons p r ih =>
    have h1 : u.pushHalo p.1 (sockOf u.loc) p.2 = u := by
      simp [State.pushHalo, (h p (by simp)).1]
    rw [List.foldl_cons, h1]
    exact ih fun q hq => h q (by simp [hq])

/-- A release of a thread that has nothing to wait for: the rest of the instruction runs on the sealed state. -/
theorem withReleaseOf_quiet (l : Option Level) (has : CoreId → Bool) (k : State → State) (s : State) (h : Quiet s) :
    ∃ u, withReleaseOf l has k s = k u ∧ Drained s u ∧ u.th = { s.th with scopeTab := none } ∧
      (isCmd s.loc = false →
        u.core.teams = s.core.teams.map fun t => if t.id == s.th.team then { t with ckpt := { t.ckpt with isOpen := false } } else t) := by
  obtain ⟨u, hu, hd, hth, ht⟩ := drain_quiet l s h
  obtain ⟨hheld, hrec, _, _, _, _, _, htl, _, _⟩ := h
  refine ⟨{ u with th := { u.th with scopeTab := none } }, ?_, ?_, ?_, ht⟩
  · have hr : coveredRecords l u.th.records = [] := by
      rw [hth, hrec]
      simp only [coveredRecords]
      split <;> rfl
    have hp : ∀ p ∈ u.haloTiles has, p.2.neighbours = [] ∧ u.haloOut p.1 = false := by
      intro p hm
      have h1 := (List.mem_filter.1 hm)
      have h2 : u.tiles = s.tiles := by rw [hd.rest]
      have h3 : u.replicas = s.replicas := by rw [hd.rest]
      have h4 : u.loc = s.loc := by rw [hd.rest]
      simp only [Bool.and_eq_true, beq_iff_eq] at h1
      have h5 := htl p (h2 ▸ h1.1) h1.2.1.1.1 (h4 ▸ h1.2.1.1.2)
      exact ⟨h5.1, by unfold State.haloOut; rw [h3]; exact h5.2⟩
    have hf := pushHalo_none u _ hp
    simp only [withReleaseOf, guardLatent, hheld, List.isEmpty_nil, if_true, hu, hr, hf.1, hf.2]
  · refine ⟨?_, hd.core, hd.slots, hd.teams⟩
    have := hd.rest
    simp only [hth]
    rw [this]
  · simp only [hth]

/-- The same at a scope. -/
theorem releaseAt_quiet (sc : ScopeIx) (k : State → State) (s : State) (h : Quiet s) :
    ∃ u, releaseAt sc k s = k u ∧ Drained s u ∧ u.th = { s.th with scopeTab := none } ∧
      (isCmd s.loc = false →
        u.core.teams = s.core.teams.map fun t => if t.id == s.th.team then { t with ckpt := { t.ckpt with isOpen := false } } else t) :=
  withReleaseOf_quiet _ _ k s h

namespace Drained

variable {s u : State}

theorem loc (h : Drained s u) : u.loc = s.loc := by rw [h.rest]
theorem slot (h : Drained s u) : u.slot = s.slot := by rw [h.rest]
theorem mem (h : Drained s u) : u.mem = s.mem := by rw [h.rest]
theorem dirty (h : Drained s u) : u.dirty = s.dirty := by rw [h.rest]
theorem shadow (h : Drained s u) : u.shadow = s.shadow := by rw [h.rest]
theorem tiles (h : Drained s u) : u.tiles = s.tiles := by rw [h.rest]
theorem cores (h : Drained s u) : u.cores = s.cores := by rw [h.rest]
theorem agenda (h : Drained s u) : u.agenda = s.agenda := by rw [h.rest]
theorem kills (h : Drained s u) : u.kills = s.kills := by rw [h.rest]
theorem launches (h : Drained s u) : u.launches = s.launches := by rw [h.rest]
theorem causeway (h : Drained s u) : u.causeway = s.causeway := by rw [h.rest]
theorem inflight (h : Drained s u) : u.core.inflight = s.core.inflight := by rw [h.core]
theorem deque (h : Drained s u) : u.core.deque = s.core.deque := by rw [h.core]
theorem copies (h : Drained s u) : u.core.copies = s.core.copies := by rw [h.core]
theorem tlb (h : Drained s u) : u.core.tlb = s.core.tlb := by rw [h.core]
theorem scopes (h : Drained s u) : u.core.scopes = s.core.scopes := by rw [h.core]
theorem corePool (h : Drained s u) : u.core.pool = s.core.pool := by rw [h.core]

theorem physByte (h : Drained s u) (a : Nat) : u.physByte a = s.physByte a := by
  simp only [State.physByte, State.backing, State.tileOver, h.dirty, h.tiles, h.mem, h.shadow]

theorem getThread (h : Drained s u) (c : CoreId) (sl : Fin 8) (hne : ¬(c = s.loc ∧ sl = s.slot)) :
    u.getThread c sl = s.getThread c sl := by
  by_cases hc : c = s.loc
  · have hsl : sl ≠ s.slot := fun e => hne ⟨hc, e⟩
    have h1 : ¬ (s.slot.val = sl.val) := fun e => hsl (Fin.ext e.symm)
    have h2 := h.slots sl hsl
    simp only [Fin.getElem_fin] at h2
    simp [State.getThread, State.getCore, State.here, h.loc, h.slot, hc, hsl, h1, h2]
  · simp [State.getThread, State.getCore, h.loc, h.slot, hc, h.cores]

theorem getCore (h : Drained s u) (c : CoreId) :
    (u.getCore c).pool = (s.getCore c).pool ∧
      ((u.getCore c).teams.map fun x => (x.id, x.acc)) = ((s.getCore c).teams.map fun x => (x.id, x.acc)) ∧
      ((u.getCore c).teams.map fun x => (x.id, x.pool)) = (s.getCore c).teams.map fun x => (x.id, x.pool) := by
  by_cases hc : c = s.loc
  · have hp : u.core.pool = s.core.pool := by rw [h.core]
    rcases h.teams with ht | ht
    · simp [State.getCore, State.here, h.loc, hc, hp, ht]
    · refine ⟨by simp [State.getCore, State.here, h.loc, hc, hp], ?_, ?_⟩ <;>
        simp only [State.getCore, State.here, h.loc, hc, ht, if_true, List.map_map] <;>
        (apply List.map_congr_left; intro x _; simp only [Function.comp]; split <;> rfl)
  · simp [State.getCore, h.loc, hc, h.cores]

/-- A release leaves the memory, the other threads and the accumulators alone. -/
theorem others (h : Drained s u) : Others s u := ⟨h.loc, h.slot, h.physByte, h.getThread, fun c => (h.getCore c).2.1⟩

/-- A release leaves the scratchpads alone. -/
theorem keeps (h : Drained s u) : Keeps s u := ⟨h.others, fun c => ⟨(h.getCore c).1, (h.getCore c).2.2⟩⟩

end Drained

/-- A change of the current thread leaves everything else alone. -/
theorem keeps_th (s : State) (t : Thread) : Keeps s { s with th := t } := by
  have hk : ∀ c, (({ s with th := t } : State).getCore c).pool = (s.getCore c).pool ∧
      (({ s with th := t } : State).getCore c).teams = (s.getCore c).teams := fun c => by
    by_cases hc : c = s.loc <;> simp [State.getCore, State.here, hc]
  refine ⟨⟨rfl, rfl, fun _ => rfl, fun c sl hne => ?_, fun c => by rw [(hk c).2]⟩, fun c => ⟨(hk c).1, by rw [(hk c).2]⟩⟩
  by_cases hc : c = s.loc
  · have hsl : sl ≠ s.slot := fun e => hne ⟨hc, e⟩
    have h1 : ¬ (s.slot.val = sl.val) := fun e => hsl (Fin.ext e.symm)
    simp [State.getThread, State.getCore, State.here, hc, hsl, h1]
  · simp [State.getThread, State.getCore, hc]

theorem others_th (s : State) (t : Thread) : Others s { s with th := t } := (keeps_th s t).1

theorem others_trans {s t u : State} (a : Others s t) (b : Others t u) : Others s u := by
  obtain ⟨a1, a2, a3, a4, a5⟩ := a
  obtain ⟨b1, b2, b3, b4, b5⟩ := b
  refine ⟨b1.trans a1, b2.trans a2, fun q => (b3 q).trans (a3 q), fun c sl hne => ?_, fun c => (b5 c).trans (a5 c)⟩
  rw [b4 c sl (by rw [a1, a2]; exact hne), a4 c sl hne]

theorem keeps_trans {s t u : State} (a : Keeps s t) (b : Keeps t u) : Keeps s u :=
  ⟨others_trans a.1 b.1, fun c => ⟨(b.2 c).1.trans (a.2 c).1, (b.2 c).2.trans (a.2 c).2⟩⟩

theorem keeps_seen {s t : State} (h : Seen s t) : Keeps s t := by
  have hk : ∀ c, (t.getCore c).pool = (s.getCore c).pool ∧ (t.getCore c).teams = (s.getCore c).teams := fun c => by
    by_cases hc : c = s.loc
    · have hp : t.core.pool = s.core.pool := by rw [h.core]
      simp [State.getCore, State.here, h.loc, hc, hp, h.teams]
    · simp [State.getCore, h.loc, hc, h.cores]
  exact ⟨⟨h.loc, h.slot, h.physByte, h.getThread, fun c => by rw [(hk c).2]⟩, fun c => ⟨(hk c).1, by rw [(hk c).2]⟩⟩

theorem others_seen {s t : State} (h : Seen s t) : Others s t := (keeps_seen h).1

end Sys2Proof.Laws
end

