-- ==== Sys2Proof/Laws/Access.lean ====
section
/-! SUPPORT. What the shared operations of scalar instructions do: consumption of clean operands, loads of calm device
memory, and the element-wise writes of vector forms. -/

namespace Sys2Proof.Laws

open Sys2Proof.Machine Sys2Proof.Claims

/-! Clean operands. -/

theorem consumeX_clean (rs : List Reg) (k : State → State) (s : State) (h : ∀ r ∈ rs, s.th.regs.rxp r = none) :
    consumeX rs k s = k s := by
  have : (rs.map s.th.regs.rxp).any Option.isSome = false := by
    rw [List.any_eq_false]; intro x hx; obtain ⟨r, hr, rfl⟩ := List.mem_map.1 hx; simp [h r hr]
  simp only [consumeX, guardClean, this]; rfl

theorem guardLatent_none (k : State → State) (s : State) (h : s.th.held = []) : guardLatent k s = k s := by
  simp [guardLatent, h]

/-! Loads. -/

theorem Seen.isLocal {s t : State} (h : Seen s t) (a : Nat) : t.isLocal a = s.isLocal a := by
  unfold State.isLocal; rw [h.pkgid]

theorem Seen.isDevMem {s t : State} (h : Seen s t) (a : Nat) : t.isDevMem a = s.isDevMem a := by
  unfold State.isDevMem; rw [h.isLocal]

theorem Seen.isFree {s t : State} (h : Seen s t) : t.isFree = s.isFree := by
  unfold State.isFree; rw [h.th, h.loc]

theorem Seen.travelsTo {s t : State} (h : Seen s t) (ps : List (Phys × Nat)) : t.travelsTo ps = s.travelsTo ps := by
  unfold State.travelsTo; rw [h.isFree, h.loc]; simp only [h.isLocal, h.isDevMem]

theorem calm_loadPieces (s0 : State) : ∀ (ps : List (Phys × Nat)) (s : State), Calm s → Seen s0 s →
    (∀ q ∈ ps, s.isDevMem q.1.pa = true) → ∃ t, s.loadPieces ps = (.value (spanRead s0 ps), t) ∧ Seen s0 t := by
  intro ps
  induction ps with
  | nil => intro s _ h _; exact ⟨s, rfl, h⟩
  | cons q r ih =>
    intro s hc h hd
    obtain ⟨p, n⟩ := q
    obtain ⟨t, ht, hs⟩ := loadPiece_calm s hc p n (hd (p, n) (by simp))
    have hd2 : ∀ q ∈ r, t.isDevMem q.1.pa = true := by
      intro q hq; rw [hs.isDevMem]; exact hd q (by simp [hq])
    obtain ⟨u, hu, hs2⟩ := ih t (calm_seen hc hs) (h.trans hs) hd2
    refine ⟨u, ?_, hs2⟩
    simp only [State.loadPieces, ht, hu, spanRead]
    rw [leRead_congr (fun a => h.loadByte _ a), h.ownStores]

/-- A load that reaches calm device memory reads it, and changes no more than caches and line records. -/
theorem calm_loadVa (s : State) (va : Word) (n : Nat) (ps : List (Phys × Nat)) (hc : Calm s) (h : Reaches s va n .load ps) :
    ∃ t, s.loadVa va n = (.value (spanRead s ps), t) ∧ Seen s t := by
  obtain ⟨h1, h2, h3⟩ := h
  have hx := seen_xlateSpan s va n .load h1
  simp only [State.loadVa]
  generalize s.xlateSpan s.asid va n .load = r at hx h1
  obtain ⟨o, u⟩ := r
  simp only at h1 hx
  subst h1
  simp only [hx.travelsTo, h3]
  exact calm_loadPieces s ps u (calm_seen hc hx) hx fun q hq => by rw [hx.isDevMem]; exact h2 q hq

theorem others_adv (s : State) : Others s s.adv := others_th s _
theorem others_onRegs (s : State) (f : Regs → Regs) : Others s (s.onRegs f) := others_th s _
theorem others_onTh (s : State) (f : Thread → Thread) : Others s (s.onTh f) := others_th s _
theorem others_setX (s : State) (d : Reg) (v : Word) : Others s (s.setX d v) := others_th s _
theorem others_useUp (s : State) : Others s s.useUp := others_th s _

theorem keeps_adv (s : State) : Keeps s s.adv := keeps_th s _
theorem keeps_onRegs (s : State) (f : Regs → Regs) : Keeps s (s.onRegs f) := keeps_th s _
theorem keeps_onTh (s : State) (f : Thread → Thread) : Keeps s (s.onTh f) := keeps_th s _
theorem keeps_setX (s : State) (d : Reg) (v : Word) : Keeps s (s.setX d v) := keeps_th s _
theorem keeps_useUp (s : State) : Keeps s s.useUp := keeps_th s _

theorem setX_adv_th (s : State) (d : Reg) (v : Word) :
    (s.setX d v).adv.th = { s.th with regs := s.th.regs.wx d v, pc := s.th.pc + 4 } := by simp

theorem useUp_th (s : State) : s.useUp.th = { s.th with got := [] } := by simp [State.useUp]

theorem loadValue_extended (n : Nat) (sg : Bool) (v : Nat) : loadValue n sg v = extended n sg v := rfl

/-- What a relaxed load does when it reaches calm device memory. -/
theorem runLoad_calm (d : Reg) (va : Word) (n : Nat) (sg : Bool) (s : State) (ps : List (Phys × Nat)) (hc : Calm s)
    (h : Reaches s va n .load ps) :
    ∃ t, runLoad d va n sg s = t ∧
      t.th = { s.th with regs := s.th.regs.wx d (extended n sg (spanRead s ps)), pc := s.th.pc + 4, got := [] } ∧ Keeps s t := by
  obtain ⟨t, ht, hs⟩ := calm_loadVa s va n ps hc h
  simp only [runLoad, ht]
  refine ⟨_, rfl, ?_, keeps_trans (keeps_seen hs)
    (keeps_trans (keeps_useUp t) (keeps_trans (keeps_setX _ _ _) (keeps_adv _)))⟩
  rw [setX_adv_th, useUp_th, hs.th, loadValue_extended]

/-- A load whose failure parks: what follows it sees the value. -/
theorem loadThen_calm (va : Word) (n : Nat) (k : Nat → State → State) (s : State) (ps : List (Phys × Nat)) (hc : Calm s)
    (h : Reaches s va n .load ps) :
    ∃ t, loadThen va n k s = k (spanRead s ps) t.useUp ∧ Seen s t := by
  obtain ⟨t, ht, hs⟩ := calm_loadVa s va n ps hc h
  exact ⟨t, by simp only [loadThen, ht], hs⟩

end Sys2Proof.Laws
end

