-- ==== Sys2Proof/Laws/Extents.lean ====
section
/-! SUPPORT. Translations that no cache changes: through a thread's extents (R122), and for an engine, which walks (R126). -/

namespace Sys2Proof.Laws

open Sys2Proof Sys2Proof.Machine Sys2Proof.Claims

/-! A thread's extents. -/

/-- What an extent gives. -/
def extentPhys (x : Extent) (va : Word) : Phys := ⟨x.pbase + (va.toNat - x.vbase) - va.toNat % 65536 + va.toNat % 65536, x.leaf⟩

/-- An access that an extent holds is translated by it, and changes nothing. -/
theorem xlate_extent (s : State) (va : Word) (n : Nat) (k : Access) (x : Extent)
    (hx : extentFor s.th.extents va.toNat n = some x) (hc : canonical va = true) (hk : checkLeaf x.leaf k s.th.mode = none) :
    s.xlate s.asid va n k = (.ok (extentPhys x va), s) := by
  have ht : s.getThread s.loc (Fin.ofNat 8 s.slot.val) = s.th := by
    simp [State.getThread]
  simp only [State.xlate, hc, State.lookup, State.asid, ht, hx, Bool.not_true, Bool.false_eq_true, if_false, hk]
  rfl

/-- So is one that lies in one page. -/
theorem xlateSpan_extent (s : State) (va : Word) (n : Nat) (k : Access) (x : Extent) (hn : n ≤ 65536 - va.toNat % 65536)
    (hx : extentFor s.th.extents va.toNat n = some x) (hc : canonical va = true) (hk : checkLeaf x.leaf k s.th.mode = none) :
    s.xlateSpan s.asid va n k = (.ok [(extentPhys x va, n)], s) := by
  simp only [State.xlateSpan, hn, if_true, xlate_extent s va n k x hx hc hk]

theorem cachesOnly_th {s u : State} (h : CachesOnly s u) : u.th = s.th := by rw [h.1]
theorem cachesOnly_refl (s : State) : CachesOnly s s := ⟨rfl, rfl, fun _ _ => rfl, fun _ => rfl, id⟩

/-- An access through an extent to device memory is steady. -/
theorem steady_extent (s : State) (va : Word) (n : Nat) (k : Access) (x : Extent) (hn : n ≤ 65536 - va.toNat % 65536)
    (hx : extentFor s.th.extents va.toNat n = some x) (hc : canonical va = true) (hk : checkLeaf x.leaf k s.th.mode = none)
    (hd : s.isDevMem (extentPhys x va).pa = true) (ht : s.travelsTo [(extentPhys x va, n)] = none) :
    Steady s va n k [(extentPhys x va, n)] := by
  intro u hu
  have hth := cachesOnly_th hu
  refine ⟨?_, ?_, ?_⟩
  · rw [xlateSpan_extent u va n k x hn (by rw [hth]; exact hx) hc (by rw [hth]; exact hk)]
  · intro q hq
    rw [List.mem_singleton] at hq
    subst hq
    rw [hu.1]
    exact hd
  · rw [hu.1]
    exact ht

/-! An engine's walk. -/

/-- A state with other bytes of memory, and another state of cores, caches and events. -/
theorem aside_open {s u : State} (h : EngineAside s u) (hc : OpenMemory s) : OpenMemory u := by
  obtain ⟨a, fe, b, c, d, e, f, g⟩ := hc
  have hr := h.1
  exact ⟨by rw [hr]; exact a, by rw [hr]; exact fe, by rw [hr]; exact b, by rw [hr]; exact c, by rw [hr]; exact d,
    by rw [hr]; exact e, fun q => by rw [h.2.1, f], h.2.2 g⟩

theorem aside_physByte {s u : State} (h : EngineAside s u) (a : Nat) : u.physByte a = s.physByte a := by
  have h1 : u.dirty = s.dirty := by rw [h.1]
  have h2 : u.tiles = s.tiles := by rw [h.1]
  have h3 : u.mem = s.mem := by rw [h.1]
  have h4 : u.shadow = s.shadow := by rw [h.1]
  simp only [State.physByte, State.backing, State.tileOver, h1, h2, h3, h4]

/-- The index of a level's table. -/
def walkIx (va : Word) (level : Nat) : Nat := if level = 0 then bits va 53 42 else if level = 1 then bits va 41 29 else bits va 28 16

/-- What a walk finds, as a function of the bytes of memory: where nothing holds it up, that is all that it depends on. -/
def walkOf (rd : Nat → Byte) (ok : Nat → Bool) (va : Word) (level table : Nat) (lines : List Nat) : Nat → Except XFault Leaf
  | 0 => .error (xfail 0x02 (walkDetail level none))
  | n + 1 =>
    let pa := table + 8 * walkIx va level
    if !ok pa then .error (xfail 0x01 (walkDetail level none))
    else
      let e := leRead rd pa 8
      if e % 2 = 0 then .error (xfail 0x01 (walkDetail level (some e)))
      else if badEntry level e then .error (xfail 0x02 (walkDetail level (some e)))
      else if bits (w64 e) 3 1 != 0 then
        let group := lineOf (table + 8 * (walkIx va level / 32 * 32))
        .ok (leafOf level e va (lines ++ [lineOf pa]) (if lineOf pa = group then group + 1 else group))
      else walkOf rd ok va (level + 1) (bits (w64 e) 51 16 * 65536) (lines ++ [lineOf pa]) n

/-- The entries that a walk reads. -/
def walkReads (rd : Nat → Byte) (va : Word) (level table : Nat) : Nat → List Nat
  | 0 => []
  | n + 1 =>
    let pa := table + 8 * walkIx va level
    pa :: walkReads rd va (level + 1) (bits (w64 (leRead rd pa 8)) 51 16 * 65536) n

theorem leRead_congr_on {f g : Nat → Byte} (n : Nat) : ∀ a, (∀ i < n, f (a + i) = g (a + i)) → leRead f a n = leRead g a n := by
  induction n with
  | zero => intros; rfl
  | succ n ih =>
    intro a h
    simp only [leRead]
    rw [show f a = g a from h 0 (by omega), ih (a + 1) fun i hi => by have := h (i + 1) (by omega); rwa [Nat.add_right_comm a 1 i]]

/-- A walk depends only on the entries that it reads. -/
theorem walkOf_congr {f g : Nat → Byte} (ok : Nat → Bool) (va : Word) (n : Nat) :
    ∀ level table lines, (∀ p ∈ walkReads g va level table n, ∀ i < 8, f (p + i) = g (p + i)) →
      walkOf f ok va level table lines n = walkOf g ok va level table lines n := by
  induction n with
  | zero => intros; rfl
  | succ n ih =>
    intro level table lines h
    simp only [walkOf]
    have he : leRead f (table + 8 * walkIx va level) 8 = leRead g (table + 8 * walkIx va level) 8 :=
      leRead_congr_on 8 _ (h _ (List.mem_cons_self ..))
    rw [he, ih _ _ _ fun p hp => h p (List.mem_cons_of_mem _ hp)]

/-- In open memory a walk finds what the bytes of memory say. -/
theorem walkFrom_open (c : CoreId) (va : Word) (n : Nat) :
    ∀ (s : State) (level table : Nat) (lines : List Nat), OpenMemory s →
      (s.walkFrom c va level table lines n).1 = walkOf s.physByte s.isDevMem va level table lines n := by
  induction n with
  | zero => intros; rfl
  | succ n ih =>
    intro s level table lines o
    simp only [State.walkFrom, walkOf, State.tableReadable, open_lostAt o, open_blocked o, Bool.not_false, Bool.and_true,
      State.walkEntry, State.physRead]
    have hs := fun l => seen_watchLine s l c
    have ix : (if level = 0 then bits va 53 42 else if level = 1 then bits va 41 29 else bits va 28 16) = walkIx va level := rfl
    simp only [ix, open_poisonedIn (open_seen o (hs _)), Bool.false_eq_true, if_false]
    split
    · rfl
    split
    · rfl
    split
    · rfl
    split
    · rfl
    · have h := hs (lineOf (table + 8 * walkIx va level))
      rw [ih _ _ _ _ (open_seen o h)]
      have h1 : (s.watchLine (lineOf (table + 8 * walkIx va level)) c).physByte = s.physByte := funext fun a => h.physByte a
      have h2 : (s.watchLine (lineOf (table + 8 * walkIx va level)) c).isDevMem = s.isDevMem := funext fun a => by
        simp only [State.isDevMem, State.isLocal, h.pkgid]
      rw [h1, h2]

/-- An engine's translation depends on nothing but the bytes of its context's entry and of the page tables that it reads. -/
theorem xlate_writes {s u : State} {q : Nat → Prop} (h : EngineWrites s u q) (hcs : OpenMemory s) (a : Asid) (ha : a.thread = false)
    (va : Word) (n : Nat) (k : Access) (hc : ∀ i < 16, ¬q (s.ctxAddr a.ctx + i))
    (hr : ∀ c, s.ctxEntry a.ctx = some c → ∀ p ∈ walkReads s.physByte va 0 c.root 3, ∀ i < 8, ¬q (p + i)) :
    (u.xlate a va n k).1 = (s.xlate a va n k).1 := by
  have ho : OpenMemory u := aside_open h.1 hcs
  have hb := h.2
  have hw : (u.walk a.core a.ctx va).1 = (s.walk a.core a.ctx va).1 := by
    have h4 : u.ctxAddr a.ctx = s.ctxAddr a.ctx := by
      have h2 : u.ctxtBase = s.ctxtBase := by rw [h.1.1]
      simp only [State.ctxAddr, h2]
    have hce : u.ctxEntry a.ctx = s.ctxEntry a.ctx := by
      have h1 : u.ctxtEn = s.ctxtEn := by rw [h.1.1]
      have r0 : leRead u.physByte (s.ctxAddr a.ctx) 8 = leRead s.physByte (s.ctxAddr a.ctx) 8 :=
        leRead_congr_on 8 _ fun i hi => hb _ (hc i (by omega))
      have r1 : leRead u.physByte (s.ctxAddr a.ctx + 8) 8 = leRead s.physByte (s.ctxAddr a.ctx + 8) 8 :=
        leRead_congr_on 8 _ fun i hi => hb _ (by have := hc (8 + i) (by omega); rwa [← Nat.add_assoc] at this)
      simp only [State.ctxEntry, State.physRead, h1, h4, r0, r1]
      rfl
    have hready : ∀ v : State, OpenMemory v → v.ctxReady a.ctx = (none, v) := fun v o => by
      simp only [State.ctxReady, open_blocked o]; split <;> rfl
    simp only [State.walk, hready u ho, hready s hcs, hce]
    have hd : u.isDevMem = s.isDevMem := funext fun p => by
      have : u.pkgid = s.pkgid := by rw [h.1.1]
      simp only [State.isDevMem, State.isLocal, this]
    split
    · rfl
    · next c hc' =>
      simp only [walkFrom_open _ _ _ _ _ _ _ ho, walkFrom_open _ _ _ _ _ _ _ hcs, hd]
      exact walkOf_congr _ _ _ _ _ _ fun p hp i hi => hb _ (hr c hc' p hp i hi)
  simp only [State.xlate, State.lookup, ha, Bool.not_false, if_true]
  split
  · rfl
  · revert hw
    generalize u.walk a.core a.ctx va = x
    generalize s.walk a.core a.ctx va = y
    obtain ⟨x1, x2⟩ := x
    obtain ⟨y1, y2⟩ := y
    intro hw
    simp only at hw
    subst hw
    cases x1 with
    | error f => rfl
    | ok l => simp only; split <;> rfl

/-- So does its translation of an access in one page. -/
theorem xlateSpan_writes {s u : State} {q : Nat → Prop} (h : EngineWrites s u q) (hcs : OpenMemory s) (a : Asid) (ha : a.thread = false)
    (va : Word) (n : Nat) (k : Access) (hn : n ≤ 65536 - va.toNat % 65536) (hc : ∀ i < 16, ¬q (s.ctxAddr a.ctx + i))
    (hr : ∀ c, s.ctxEntry a.ctx = some c → ∀ p ∈ walkReads s.physByte va 0 c.root 3, ∀ i < 8, ¬q (p + i)) :
    (u.xlateSpan a va n k).1 = (s.xlateSpan a va n k).1 := by
  have hx := xlate_writes h hcs a ha va n k hc hr
  simp only [State.xlateSpan, hn, if_true]
  revert hx
  generalize u.xlate a va n k = x
  generalize s.xlate a va n k = y
  obtain ⟨x1, x2⟩ := x
  obtain ⟨y1, y2⟩ := y
  intro hx
  simp only at hx
  subst hx
  cases x1 <;> rfl

theorem writes_aside {s u : State} (h : EngineAside s u) : EngineWrites s u fun _ => False := by
  have h1 : u.mem = s.mem := by rw [h.1]
  have h2 : u.dirty = s.dirty := by rw [h.1]
  have h3 : u.kills = s.kills := by rw [h.1]
  exact ⟨by rw [h1, h2, h3]; exact h, fun a _ => aside_physByte h a⟩

/-- An engine's translation does not depend on what the caches hold. -/
theorem xlateSpan_aside {s u : State} (h : EngineAside s u) (hcs : OpenMemory s) (a : Asid) (ha : a.thread = false) (va : Word) (n : Nat) (k : Access)
    (hn : n ≤ 65536 - va.toNat % 65536) : (u.xlateSpan a va n k).1 = (s.xlateSpan a va n k).1 :=
  xlateSpan_writes (writes_aside h) hcs a ha va n k hn (fun _ _ => id) fun _ _ _ _ _ _ => id

end Sys2Proof.Laws
end

