-- ==== Sys2Proof/Laws/Vector.lean ====
section
/-! SUPPORT. What the element-wise operations of vector forms do when nothing they read is poisoned: the elements given are
written, every other element keeps its bytes. -/

namespace Sys2Proof.Laws

open Sys2Proof.Machine Sys2Proof.Claims

/-! Bytes of a register. -/

theorem testBit_field (n k x i : Nat) : ((x % 2 ^ n) * 2 ^ k).testBit i = (decide (k ≤ i ∧ i < k + n) && x.testBit (i - k)) := by
  rw [← Nat.shiftLeft_eq, Nat.testBit_shiftLeft, Nat.testBit_mod_two_pow]
  by_cases h : k ≤ i
  · simp [h, show (i - k < n) = (i < k + n) by rw [eq_iff_iff]; omega]
  · simp [h]

/-- One bit of a register after `n` bytes at byte `a` are replaced. -/
theorem getLsbD_putBytes (v : VWord) (a n x i : Nat) (hi : i < 8192) :
    (putBytes v a n x).getLsbD i = if 8 * a ≤ i ∧ i < 8 * a + 8 * n then x.testBit (i - 8 * a) else v.getLsbD i := by
  have hm : (2 ^ (8 * n) - 1) * 2 ^ (8 * a) = ((2 ^ (8 * n) - 1) % 2 ^ (8 * n)) * 2 ^ (8 * a) := by
    rw [Nat.mod_eq_of_lt]; exact Nat.sub_lt (Nat.two_pow_pos _) Nat.one_pos
  simp only [putBytes, BitVec.getLsbD_or, BitVec.getLsbD_and, BitVec.getLsbD_not, BitVec.getLsbD_ofNat, hi, hm, testBit_field,
    Nat.testBit_two_pow_sub_one, decide_true, Bool.true_and]
  by_cases h : 8 * a ≤ i ∧ i < 8 * a + 8 * n
  · simp [h, show i - 8 * a < 8 * n by omega]
  · simp [h]

theorem elemOf_eq (v : VWord) (w i : Nat) : elemOf v w i = (v.extractLsb' (8 * w * i) (8 * w)).toNat := by
  simp [elemOf, Nat.shiftRight_eq_div_pow]

/-- An element after one element is replaced. -/
theorem elemOf_putBytes (v : VWord) (w i j x : Nat) (_hw : 1 ≤ w) (hj : w * (j + 1) ≤ 1024) :
    elemOf (putBytes v (w * i) w x) w j = if j = i then x % 2 ^ (8 * w) else elemOf v w j := by
  have hx : x % 2 ^ (8 * w) = (BitVec.ofNat (8 * w) x).toNat := by simp
  rw [elemOf_eq, elemOf_eq, hx]
  rw [← apply_ite BitVec.toNat]
  congr 1
  ext b hb
  have hlt : 8 * w * j + b < 8192 := by
    have : 8 * w * j + b < 8 * (w * (j + 1)) := by rw [Nat.mul_add, Nat.mul_one, Nat.mul_add, ← Nat.mul_assoc]; omega
    omega
  rw [BitVec.getElem_extractLsb', getLsbD_putBytes _ _ _ _ _ hlt]
  by_cases h : j = i
  · subst h
    have h1 : 8 * (w * j) ≤ 8 * w * j + b ∧ 8 * w * j + b < 8 * (w * j) + 8 * w := by
      rw [← Nat.mul_assoc]; omega
    rw [if_pos h1, if_pos rfl, ← BitVec.getLsbD_eq_getElem, BitVec.getLsbD_ofNat, ← Nat.mul_assoc]
    simp [hb]
  · rw [if_neg h]
    have h1 : ¬ (8 * (w * i) ≤ 8 * w * j + b ∧ 8 * w * j + b < 8 * (w * i) + 8 * w) := by
      intro ⟨h2, h3⟩
      rcases Nat.lt_or_gt_of_ne h with h4 | h4
      · have : w * (j + 1) ≤ w * i := Nat.mul_le_mul_left w h4
        rw [Nat.mul_add, Nat.mul_one] at this
        rw [Nat.mul_assoc] at h2; omega
      · have : w * (i + 1) ≤ w * j := Nat.mul_le_mul_left w h4
        rw [Nat.mul_add, Nat.mul_one] at this
        rw [Nat.mul_assoc] at h3; omega
    rw [if_neg h1, BitVec.getElem_extractLsb']

/-! Clean writes. -/

/-- What a list of element writes leaves: the last value of each index. -/
def lastVal : List Elem → Nat → Option Nat
  | [], _ => none
  | e :: r, j => (lastVal r j).or (if e.ix = j then some e.val else none)

theorem elemOf_foldl (w : Nat) (hw : 1 ≤ w) (j : Nat) (hj : w * (j + 1) ≤ 1024) (es : List Elem) : ∀ v : VWord,
    elemOf (es.foldl (fun v e => putBytes v (w * e.ix) w e.val) v) w j =
      match lastVal es j with
      | some x => x % 2 ^ (8 * w)
      | none => elemOf v w j := by
  induction es with
  | nil => intro v; rfl
  | cons e r ih =>
    intro v
    rw [List.foldl_cons, ih, lastVal]
    cases lastVal r j with
    | some x => rfl
    | none =>
      rw [elemOf_putBytes _ _ _ _ _ hw hj, Option.none_or]
      by_cases h : e.ix = j
      · rw [if_pos h, if_pos h.symm]
      · rw [if_neg h, if_neg (Ne.symm h)]

theorem laneAfter_clean (w pos : Nat) (es : List Elem) (h : ∀ e ∈ es, e.pay = none) (j : Nat) : laneAfter [] w pos es j = none := by
  have : (es.filter fun e => (lanesOf w e.ix).contains j).findSome? (·.pay) = none := by
    rw [List.findSome?_eq_none_iff]; intro e he; exact h e (List.mem_filter.1 he).1
  simp only [laneAfter, this]; split <;> rfl

theorem lanePart_clean (w : Nat) (es : List Elem) (j : Nat) : lanePart [] w es j = false := rfl

theorem foldl_nil_fix (f : Map Payload → Nat → Map Payload) (h : ∀ j, f [] j = []) (l : List Nat) : l.foldl f [] = [] := by
  induction l with
  | nil => rfl
  | cons j t ih => rw [List.foldl_cons, h]; exact ih

/-- Elements written into a register without poison, none of them poisoned. -/
theorem writeElems_clean (r : Regs) (d : VReg) (w pos vecs : Nat) (es : List Elem) (hr : r.vp[d] = [])
    (h : ∀ e ∈ es, e.pay = none) :
    r.writeElems d w pos vecs es =
      ⟨r.wv d (es.foldl (fun v e => putBytes v (w * e.ix) w e.val) r.v[d]) [], false, vecs⟩ := by
  have h1 : ∀ l, es.foldl (fun v e => putBytes v (w * e.ix) w (elemBytes [] w pos es e)) l =
      es.foldl (fun v e => putBytes v (w * e.ix) w e.val) l := by
    intro l
    have : ∀ (l' : List Elem) (v : VWord), (∀ e ∈ l', e.pay = none) →
        l'.foldl (fun v e => putBytes v (w * e.ix) w (elemBytes [] w pos es e)) v =
          l'.foldl (fun v e => putBytes v (w * e.ix) w e.val) v := by
      intro l'
      induction l' with
      | nil => intros; rfl
      | cons e t ih =>
        intro v hl
        simp only [List.foldl_cons]
        rw [show elemBytes [] w pos es e = e.val by simp [elemBytes, hl e (by simp), lanePart_clean]]
        exact ih _ fun x hx => hl x (by simp [hx])
    exact this es l h
  have h3 : ∀ l : List Nat, (l.any fun j => (laneAfter [] w pos es j).isSome) = false := by
    intro l; rw [List.any_eq_false]; intro j _; simp [laneAfter_clean w pos es h]
  have h4 : ∀ l : List Nat, (l.any fun j => lanePart [] w es j && (laneAfter [] w pos es j).isSome) = false := by
    intro l; rw [List.any_eq_false]; intro j _; simp [lanePart_clean]
  simp only [Regs.writeElems, hr, h1, h3, h4]
  rw [foldl_nil_fix _ fun j => by simp only [laneAfter_clean w pos es h]; rfl]
  rfl

theorem elem_clean (r : Regs) (a : VReg) (w i : Nat) (h : r.vp[a] = []) : r.elem a w i = ⟨elemOf r.v[a] w i, none⟩ := by
  have : (lanesOf w i).findSome? (mapGet r.vp[a]) = none := by
    rw [List.findSome?_eq_none_iff]; intro j _; rw [h]; rfl
  rw [Regs.elem, this]

/-- The last write to an index, for writes made from a list of distinct indices. -/
theorem lastVal_map (l : List Nat) (f : Nat → Nat) (j : Nat) :
    lastVal (l.map fun i => ⟨i, f i, none⟩) j = if j ∈ l then some (f j) else none := by
  induction l with
  | nil => rfl
  | cons i r ih =>
    simp only [List.map_cons, lastVal, ih]
    by_cases h : j ∈ r
    · simp [h]
    · by_cases h2 : i = j
      · subst h2; simp [h]
      · simp [h, h2, Ne.symm h2]

/-- A governed form on clean registers. -/
theorem governed_clean (r : Regs) (d : VReg) (k : KReg) (w e pos vecs : Nat) (sel : KWord → List Nat) (f : Nat → Src)
    (hc : Clean r) (hf : ∀ i, (f i).pay = none) :
    ∃ v : VWord, r.governed d k w e pos vecs sel f = ⟨r.wv d v [], false, vecs⟩ ∧
      ∀ j, 1 ≤ w → w * (j + 1) ≤ 1024 →
        elemOf v w j = if j ∈ sel (r.rk k) then (f j).val % 2 ^ (8 * w) else elemOf r.v[d] w j := by
  have hm : (sel (r.rk k)).map (fun i => (⟨i, (f i).val, (f i).pay⟩ : Elem)) =
      (sel (r.rk k)).map fun i => ⟨i, (f i).val, none⟩ := by
    apply List.map_congr_left; intro i _; rw [hf]
  refine ⟨((sel (r.rk k)).map fun i => (⟨i, (f i).val, none⟩ : Elem)).foldl (fun v e => putBytes v (w * e.ix) w e.val) r.v[d],
    ?_, fun j hw hj => ?_⟩
  · simp only [Regs.governed, hc.2.2 k]
    rw [hm, writeElems_clean _ _ _ _ _ _ (hc.2.1 d)]
    simp
  · rw [elemOf_foldl w hw j hj, lastVal_map]
    by_cases h : j ∈ sel (r.rk k) <;> simp [h]

theorem mem_activeOf (k : KWord) (w e j : Nat) : j ∈ activeOf k w e ↔ j < e ∧ k.getLsbD (w * j / 4) = true := by
  simp [activeOf, govBit]

/-! The run of a clean form. -/

/-- A propagating instruction that reads nothing poisoned: its registers are written. -/
theorem runProp_clean (op : PropOp) (s : State) (o : EffOut) (h : op.eff (s.th.log.length + 1) s.th.regs = o) (hl : o.log = false)
    (hq : (op.usesQ8 && (recQ8 s.th.regs.fmtc).isNone) = false) : runProp op s = (s.onRegs fun _ => o.regs).adv := by
  simp only [runProp, h, hl, hq, Bool.false_and]
  rfl

/-- A vector form that its checks let run. -/
theorem runVec_ok (w : IWord) (rs : List VReg) (k : State → State) (s : State) (hc : isCmd s.loc = false)
    (h : ∀ r ∈ rs, r.val < s.th.allot) : runVec w rs k s = k s := by
  have : rs.find? (fun r => decide (s.th.allot ≤ r.val)) = none := by
    rw [List.find?_eq_none]; intro r hr; simpa using h r hr
  simp only [runVec, guardCmd, hc, guardAllot, this]
  rfl

end Sys2Proof.Laws
end

