-- ==== Sys2Proof/Tests/Slice0.lean ====
section
/-! SUPPORT. The session's own tests: words of the spec's encodings, ill-formed terms, worked examples of the spec, and for
every statement a state that meets its hypotheses. -/

namespace Sys2Proof.Tests

open Sys2Proof Sys2Proof.Machine Sys2Proof.Claims

set_option Elab.async false

/-! Words written out from the encodings that the spec prints (R261 to R268). -/

theorem test_decode_mulh : decode 0x04A63814 = .ok (.mulh 5 6 7) := by decide +kernel
theorem test_decode_srai : decode 0x28A6008D = .ok (.srai 5 6 13) := by decide +kernel
theorem test_decode_bfxs : decode 0x2CE812C4 = .ok (.bfxs 7 8 11 4) := by decide +kernel
theorem test_decode_bne : decode 0x34A0FFFD = .ok (.bne 5 0 (-3)) := by decide +kernel
theorem test_decode_jal : decode 0x4C000100 = .ok (.jal 256) := by decide +kernel
theorem test_decode_prep : decode 0x51FFFFFC = .ok (.prep 1 (-4)) := by decide +kernel
theorem test_decode_btrnz : decode 0x54090804 = .ok (.btrnz 9 1) := by decide +kernel
theorem test_decode_stop : decode 0x54000008 = .ok .stop := by decide +kernel
theorem test_decode_ldd : decode 0x64CA0000 = .ok (.ldd 6 10 0) := by decide +kernel
theorem test_decode_std : decode 0x810C0000 = .ok (.std 8 12 0) := by decide +kernel
theorem test_decode_ldxd : decode 0x8CAA4803 = .ok (.ldxd 5 10 9) := by decide +kernel
theorem test_decode_ldaq : decode 0x8CEB010E = .ok (.ldaqD 7 11 0 4) := by decide +kernel
theorem test_decode_amocas : decode 0x90AA313A = .ok (.amocas 5 10 6 4 .ar) := by decide +kernel
theorem test_decode_tdecl : decode 0x94AA000D = .ok (.tdecl 5 10) := by decide +kernel
theorem test_decode_watch : decode 0x94AA0011 = .ok (.watch 5 10) := by decide +kernel
theorem test_decode_vsplat : decode 0x98600079 = .ok (.vsplat 3 0 0 .i64) := by decide +kernel
theorem test_decode_vadd : decode 0x98642A40 = .ok (.vadd 3 4 5 2 .i32) := by decide +kernel
theorem test_decode_vld : decode 0xA00B0060 = .ok (.vld 0 11 0 .i64) := by decide +kernel
theorem test_decode_kpop : decode 0xA5010064 = .ok (.kpop 8 1 .i64) := by decide +kernel
theorem test_decode_vdesc : decode 0xA8400864 = .ok (.vdesc 2 0 1 0) := by decide +kernel
theorem test_decode_vseq : decode 0xA8221869 = .ok (.vseq 1 2 3 0) := by decide +kernel
theorem test_decode_valloc : decode 0xACC50001 = .ok (.valloc 6 5) := by decide +kernel
theorem test_decode_vsetvl : decode 0xACE50060 = .ok (.vsetvl 7 5 .i64) := by decide +kernel
theorem test_decode_mma : decode 0xB0060003 = .ok (.mma 6 3) := by decide +kernel
theorem test_decode_rgcfg : decode 0xB40A5802 = .ok (.rgcfg 10 11 2) := by decide +kernel
theorem test_decode_cpym : decode 0xB814A842 = .ok (.cpym 20 21 2) := by decide +kernel
theorem test_decode_colrun : decode 0xBC0A0000 = .ok (.colrun 10) := by decide +kernel
theorem test_decode_colstat : decode 0xBCAA0020 = .ok (.colstat 5 10) := by decide +kernel
theorem test_decode_eset : decode 0xC0050006 = .ok (.eset 5 .ccrd01) := by decide +kernel
theorem test_decode_eget : decode 0xC0E00020 = .ok (.eget 7 .cbase) := by decide +kernel
theorem test_decode_sysr : decode 0xC4A00442 = .ok (.sysr 5 .xcause) := by decide +kernel
theorem test_decode_sysw : decode 0xC4060803 = .ok (.sysw 6 .fmta) := by decide +kernel
theorem test_decode_trap : decode 0xC4000A80 = .ok (.trap 0x2A) := by decide +kernel
theorem test_decode_csend : decode 0xC4F4000A = .ok (.csend 7 20) := by decide +kernel
theorem test_decode_launch : decode 0xC4AA000C = .ok (.launch 5 10 0) := by decide +kernel
theorem test_decode_resume : decode 0xC4A6380D = .ok (.faultackResume 5 6 7) := by decide +kernel
theorem test_decode_abandon : decode 0xC4A6384D = .ok (.faultackAbandon 5 6 7) := by decide +kernel

/-- The words that the spec calls illegal, each with the reason. -/
theorem test_decode_illegal :
    decode 0 = .error .reservedMajor ∧ decode 0x94000094 = .error .unlistedMinor ∧ decode 0x940001C0 = .error .scope ∧
    decode 0x94AA010D = .error .unusedField ∧ decode 0xA9021869 = .error .registerNumber ∧
    decode 0x9C000000 = .error .typeCode ∧ decode 0xC400000F = .error .unlistedMinor ∧
    decode 0xC4A6388D = .error .unusedField ∧ decode 0xB0260003 = .error .unusedField ∧ decode 0xB8050007 = .error .scope ∧
    decode 0xC000000F = .error .registerNumber ∧ decode 0xB4000008 = .error .registerNumber := by decide +kernel

/-- A line of instructions in memory is taken word by word, lowest address first (R3). -/
theorem test_decode_bytes : decodeBytes [0x0E, 0x01, 0xEB, 0x8C, 0x55] = .ok (.ldaqD 7 11 0 4, [0x55]) := by decide +kernel
theorem test_decode_truncated : decodeBytes [0x0E, 0x01] = .error .truncated := by decide +kernel
theorem test_decode_table : decodeTableWord 32 0x54000008 = some .stop ∧ decodeTableWord 16 0x0008 = none := by decide +kernel

/-! Ill-formed terms, one for each check (R267, R268, R287, R331, R340). -/

theorem test_check_bitfield : Instr.check (.bfx 1 2 10 60) = some .bitfield := by decide +kernel
theorem test_check_type : Instr.check (.vfadd 1 2 3 0 .i32) = some .typeCode := by decide +kernel
theorem test_check_scope : Instr.check (.fence 7) = some .scope := by decide +kernel
theorem test_check_scopeset : Instr.check (.scopeset 3) = some .scope := by decide +kernel
theorem test_check_conversion : Instr.check (.vcvtf 1 2 .f32 0 .f32) = some .conversion := by decide +kernel
theorem test_check_readOnly : Instr.check (.sysw 1 .slotid) = some .readOnly := by decide +kernel
theorem test_check_int : Instr.check (.vredadd 1 2 3 0 .f32) = some .typeCode := by decide +kernel
theorem test_check_key : Instr.check (.vhashc 1 2 3 0 .i8) = some .typeCode := by decide +kernel
theorem test_check_red : Instr.check (.vfredadd 1 2 3 0 .i32) = some .typeCode := by decide +kernel
theorem test_check_cpy : Instr.check (.cpy 1 7) = some .scope := by decide +kernel
theorem test_check_ok : Instr.wellFormed (.bfx 1 2 3 60) = true ∧ Instr.wellFormed (.sysr 1 .slotid) = true := by decide +kernel

/-! States for the tests: a thread of a gang on core 0 of die 0, with one page of memory through an extent and the same page
through tables in memory. -/

/-- Registers with some scalars set. -/
def regs (l : List (Nat × Nat)) : Regs := l.foldl (fun r p => r.wx (Fin.ofNat 32 p.1) (BitVec.ofNat 64 p.2)) Regs.zero

/-- Tables that map virtual page 1 to physical page 3, user, readable, writable and executable. -/
def pageMem : Memory :=
  [(0x100000, 0x200001), (0x100008, 0x300006), (0x200000, 0x210001), (0x210000, 0x220001), (0x220008, 0x308DF)].foldl
    (fun m p => memWrite m p.1 8 p.2) []

/-- A team with 16 register, 16 accumulator and 16 scratchpad banks. -/
def tm0 : Team where
  id := 0
  poolpart := BitVec.ofNat 64 (16 + 512 * 16 + 2 ^ 18 * 16)
  firstBank := 0
  lh := 1
  ctx := 0
  task := 0
  prio := 0
  kind := .gang
  members := 1
  stopped := 0
  gang := [0]
  rank := 0
  frames := 0
  pool := []
  acc := []
  ckpt := ⟨[], false, [], []⟩
  bartCount := 0
  bartDone := 0
  bargCount := 0
  bargDone := 0
  barbCount := 0
  barbPhase := false
  band := none

/-- The extent of virtual page 1. -/
def ex0 : Extent := ⟨0x10000, 0x10000, 0x30000, 0x08DF, []⟩

/-- A ready thread. -/
def th0 (l : List (Nat × Nat)) : Thread :=
  { Thread.empty with status := .ready, kind := .gang, lh := 1, xvec := 0x10000, regs := regs l, extents := [ex0] }

/-- A state whose current thread has some scalars set. -/
def st (l : List (Nat × Nat)) : State :=
  { State.reset with
    mem := pageMem, ctxtEn := true, ctxtBase := 0x100000, th := th0 l, core := { Core.idle with teams := [tm0] } }

/-- In supervisor mode. -/
def sup (s : State) : State := { s with th := { s.th with mode := .supervisor } }

/-- On command core 0, as a supervisor strand. -/
def onCmd (s : State) : State := { s with loc := 1280, th := { s.th with mode := .supervisor, kind := .strand } }

/-- Nothing stands in the way of an access. -/
def atRest (s : State) : Bool :=
  s.lostDies == 0 && s.fenced == 0 && s.splitWait.isNone && s.psect.isEmpty && s.bisnps.isEmpty && s.lines.isEmpty &&
    s.core.inflight.isEmpty && s.cores.all fun p => p.2.inflight.isEmpty

theorem mapGet_all {α : Type} (P : α → Bool) (k : Nat) : ∀ m : Map α, m.all (fun p => P p.2) = true → (mapGet m k).all P = true
  | [], _ => rfl
  | (a, x) :: r, h => by
    rw [List.all_cons, Bool.and_eq_true] at h
    simp only [mapGet]
    split
    · exact h.1
    · exact mapGet_all P k r h.2

theorem calm_of (s : State) (h : (atRest s && s.tiles.isEmpty) = true) : Calm s := by
  simp only [atRest, Bool.and_eq_true, beq_iff_eq, Option.isNone_iff_eq_none, List.isEmpty_iff] at h
  obtain ⟨⟨⟨⟨⟨⟨⟨⟨lost, fenced⟩, split⟩, poison⟩, snoops⟩, lines⟩, own⟩, others⟩, tiles⟩ := h
  have line : ∀ l, s.lineAt l = LineEntry.none := fun l => by simp [State.lineAt, lines]
  refine ⟨⟨lost, fenced, split, tiles, poison, snoops, fun q => ?_, fun l => by rw [line]; decide⟩, fun c p hp => ?_⟩
  · simp only [State.hostState, line]; split <;> rfl
  · have none : (s.getCore c).inflight = [] := by
      rw [State.getCore]
      split
      · exact own
      · have := mapGet_all (fun k => k.inflight.isEmpty) c s.cores others
        cases hm : mapGet s.cores c <;> simp_all [Core.idle]
    simp [none] at hp

/-- The current thread has nothing to wait for. -/
def settled (s : State) : Bool :=
  s.th.held.isEmpty && s.th.records.isEmpty && s.core.staging.isEmpty && s.core.inflight.isEmpty && s.outstanding.isEmpty &&
    s.kills.isEmpty && (s.here.slots.toList ++ s.core.saves.map (·.thread)).all (fun t => t.packing.isEmpty) &&
    s.th.dev == 0 && s.th.hst == 0

theorem quiet_of (s : State) (h : settled s = true)
    (tiles : ∀ p ∈ s.tiles, p.2.tstate = .owned → p.2.owner = s.loc → p.2.neighbours = [] ∧ s.haloOut p.1 = false) : Quiet s := by
  simp only [settled, Bool.and_eq_true, List.isEmpty_iff, List.all_eq_true, beq_iff_eq] at h
  obtain ⟨⟨⟨⟨⟨⟨⟨⟨held, records⟩, staging⟩, inflight⟩, asked⟩, kills⟩, closed⟩, dev⟩, hst⟩ := h
  exact ⟨held, records, staging, inflight, asked, kills, closed, tiles, dev, hst⟩

theorem noTiles {s : State} {P : Nat × Tile → Prop} (h : s.tiles = []) : ∀ p ∈ s.tiles, P p := by simp [h]

theorem clean_of (r : Regs) (h : (∀ i, r.rxp i = none) ∧ (∀ i : Fin 32, r.vp[i] = []) ∧ ∀ i, r.rkp i = none) : Clean r := h

theorem calm_st (l) : Calm (st l) := calm_of _ rfl
theorem quiet_st (l) : Quiet (st l) := quiet_of _ rfl (noTiles rfl)
theorem sealed_st (l) : Sealed (st l) := by intro t ht _; rw [List.mem_singleton.1 ht]; rfl

/-- The page's first bytes reach device memory, whatever the caches hold. -/
theorem steady_st (l : List (Nat × Nat)) (va : Word) (n : Nat) (k : Access) (hn : n ≤ 65536 - va.toNat % 65536)
    (h : extentFor [ex0] va.toNat n = some ex0) (hc : canonical va = true) (hk : checkLeaf ex0.leaf k .user = none)
    (hd : State.reset.isDevMem (Laws.extentPhys ex0 va).pa = true) :
    Steady (st l) va n k [(Laws.extentPhys ex0 va, n)] :=
  Laws.steady_extent _ va n k ex0 hn h hc hk hd rfl

/-! Witnesses: scalar forms. -/

theorem wit_AluResults : (st []).th.regs.rxp 1 = none ∧ (st []).th.regs.rxp 31 = none := by decide +kernel

theorem wit_DivisionResults : (st [(1, 7), (2, 5)]).x 2 ≠ 0 ∧ (st []).x 2 = 0 ∧
    (st [(1, 2 ^ 63), (2, 2 ^ 64 - 1)]).x 1 = 0x8000000000000000 ∧ (st [(1, 2 ^ 63), (2, 2 ^ 64 - 1)]).x 2 = 0xFFFFFFFFFFFFFFFF := by
  decide +kernel

theorem wit_CountHashImmediateResults : (st []).th.regs.rxp 1 = none ∧ (st []).th.regs.rxp 2 = none ∧
    (60 : Fin 64).val + ((3 : Fin 64).val + 1) ≤ 64 := by decide +kernel

/-- A thread with a poisoned register. -/
def poisoned (n : Nat) : State :=
  let s := st []
  let e : LogEntry := ⟨0, .alu .add 1 1 1, Regs.zero, 0⟩
  { s with th := { s.th with regs := s.th.regs.wxp 1 5, log := List.replicate n e } }

theorem wit_AluPoison : (poisoned 15).th.regs.rxp 1 = some 5 ∧ (poisoned 15).th.log.length < 16 ∧
    loggedVecs (poisoned 15).th.log ≤ 8 ∧ 16 ≤ (poisoned 16).th.log.length ∧
    (poisoned 0).th.regs.rxp 2 = none ∧ aluReadsB .add = true := by decide +kernel

/-- A conditional move on a poisoned condition; of a poisoned source on a clean one, which holds; and on one that is zero. -/
theorem wit_AluPoison_cmov : (poisoned 0).th.regs.rxp 1 ≠ none ∧ (poisoned 0).th.regs.rxp 2 = none ∧
    (let s : State := { poisoned 0 with th := { (poisoned 0).th with regs := (poisoned 0).th.regs.wx 3 7 } }
     s.th.regs.rxp 3 = none ∧ s.x 3 ≠ 0 ∧ s.th.regs.rxp 1 = some 5) ∧ (poisoned 0).x 2 = 0 ∧ (2 : Reg) ≠ 0 := by decide +kernel

theorem wit_BranchJumpResults : (st [(1, 3)]).th.regs.rxp 1 = none ∧ (st [(1, 3)]).x 1 ≠ 0 ∧ (st []).x 1 = 0 ∧
    (st [(1, 3)]).x 1 = (st [(1, 3)]).x 1 := by decide +kernel

theorem wit_TaskSimple : (∀ r ∈ [(1 : Reg), 2, 10, 11, 13], (st []).th.regs.rxp r = none) ∧ isCmd (onCmd (st [])).loc = true ∧
    isCmd (st []).loc = false := by decide +kernel

/-- A core whose deque is full. -/
def fullDeque : State :=
  let s := st []
  { s with core := { s.core with deque := List.replicate 1088 ⟨0, 0, 0, 0, 0, 0, 0, 0, 1, true, 0⟩ } }

theorem wit_TaskSimple_full : isCmd fullDeque.loc = false ∧ fullDeque.th.reserved = false ∧
    1088 ≤ fullDeque.core.deque.length + fullDeque.here.reserved := by decide +kernel

theorem wit_ForkJoinStop : Quiet (st [(1, 0x10000), (2, 3)]) ∧ ((st [(2, 7)]).x 2).toNat / 8 * 8 = 0 ∧
    (∀ r ∈ [(1 : Reg), 2, 10, 11, 13], (st []).th.regs.rxp r = none) ∧ isCmd (st []).loc = false ∧
    (st []).core.deque.length + (st []).here.reserved < 1088 ∧ (st []).core.deque.length < 64 ∧
    Calm (st [(1, 0x10000)]) ∧ (st []).core.copies = [] ∧ (st []).th.kind ≠ .thread ∧ (st []).th.got = [] := by
  refine ⟨quiet_st _, ?_, ?_, ?_, ?_, ?_, calm_st _, ?_⟩ <;> decide +kernel

/-- A join counter that FORK and STOP update, at address 0x10000. -/
theorem wit_ForkJoinStop_counts : let s := st [(1, 0x10000), (2, 0x10003)]
    s.th.status = .ready ∧ s.mem.wf = true ∧ Calm s ∧ (BitVec.ofNat 64 ((s.x 2).toNat / 8 * 8) : Word) ≠ 0 ∧
    (s.xlate s.asid 0x10000 8 .atomic).1 = .ok ⟨0x30000, 0x08DF⟩ ∧ s.travelsTo [(⟨0x30000, 0x08DF⟩, 8)] = none ∧
    s.isDevMem 0x30000 = true :=
  ⟨by decide +kernel, by decide +kernel, calm_st _, by decide +kernel,
    by rw [Laws.xlate_extent _ _ _ _ ex0 rfl rfl rfl]; rfl, by decide +kernel, by decide +kernel⟩

/-- A forked thread with a join counter. -/
def forked : State :=
  let s := st []
  { s with th := { s.th with kind := .thread, joinp := 0x10000 } }

theorem wit_ForkJoinStop_stop : forked.th.kind = .thread ∧ Quiet forked ∧ forked.core.copies = [] ∧ Calm forked ∧
    forked.th.status = .ready ∧ forked.mem.wf = true ∧ forked.th.joinp ≠ 0 ∧ forked.team = some tm0 ∧
    (forked.xlate forked.asid forked.th.joinp 8 .atomic).1 = .ok ⟨0x30000, 0x08DF⟩ ∧
    forked.travelsTo [(⟨0x30000, 0x08DF⟩, 8)] = none :=
  ⟨rfl, quiet_of _ rfl (noTiles rfl), by decide +kernel, calm_of _ rfl, by decide +kernel, by decide +kernel, by decide +kernel,
    by decide +kernel, by rw [Laws.xlate_extent _ _ _ _ ex0 rfl rfl rfl]; rfl, by decide +kernel⟩

/-- A join counter that reads 0, and one that reads 1. -/
theorem wit_ForkJoinStop_join : let s := st [(1, 0x10007)]
    (∀ u, CachesOnly s u → (u.xlate u.asid 0x10000 8 .load).1 = .ok ⟨0x30000, 0x08DF⟩) ∧
    s.travelsTo [(⟨0x30000, 0x08DF⟩, 8)] = none ∧ s.isDevMem 0x30000 = true ∧
    leRead (s.loadByte s.ownStores) 0x30000 8 = 0 ∧
    (let t : State := { s with mem := memWrite pageMem 0x30000 8 1 }
     leRead (t.loadByte t.ownStores) 0x30000 8 ≠ 0) := by
  refine ⟨fun u hu => ?_, ?_, ?_, ?_⟩
  · have h := Laws.cachesOnly_th hu
    rw [Laws.xlate_extent u _ _ _ ex0 (by rw [h]; rfl) rfl (by rw [h]; rfl)]
    rfl
  all_goals decide +kernel

/-! Witnesses: memory. -/

theorem wit_LoadResults : Calm (st [(3, 0x1FFF8)]) ∧ ∃ ps, Reaches (st [(3, 0x1FFF8)]) 0x1FFF8 8 .load ps :=
  ⟨calm_st _, _, steady_st _ 0x1FFF8 8 .load (by decide) rfl rfl rfl rfl _ (Laws.cachesOnly_refl _)⟩

/-- A state whose team's checkpoint is open. -/
def openState (l : List (Nat × Nat)) : State :=
  { st l with core := { Core.idle with teams := [{ tm0 with ckpt := ⟨[], true, [], []⟩ }] } }

theorem wit_StoreResults : (∃ ps, Reaches (st [(3, 0x10000)]) 0x10000 8 .store ps) ∧ (st []).ckptOpen = false ∧
    (openState []).ckptOpen = true ∧ ((openState []).core.staging.map fun p => p.msg.n).sum + 8 ≤ 32768 :=
  ⟨⟨_, steady_st _ 0x10000 8 .store (by decide) rfl rfl rfl rfl _ (Laws.cachesOnly_refl _)⟩, by decide +kernel⟩

theorem wit_StoreResults_open : ∃ ps, Reaches (openState [(3, 0x10000)]) 0x10000 8 .store ps :=
  ⟨_, Laws.steady_extent _ 0x10000 8 .store ex0 (by decide) rfl rfl rfl rfl rfl _ (Laws.cachesOnly_refl _)⟩

theorem wit_OrderedAccessResults : Calm (st [(1, 0x10008)]) ∧ Quiet (st [(1, 0x10008)]) ∧
    ((st [(1, 0x10008)]).x 1 + (st [(1, 0x10008)]).x 2).toNat % 8 = 0 ∧
    (∃ ps, Reaches (st [(1, 0x10008)]) 0x10008 8 .load ps) ∧ ∃ p, Reaches (st [(1, 0x10008)]) 0x10008 8 .store [(p, 8)] :=
  ⟨calm_st _, quiet_st _, by decide +kernel,
    ⟨_, steady_st _ 0x10008 8 .load (by decide) rfl rfl rfl rfl _ (Laws.cachesOnly_refl _)⟩,
    ⟨_, steady_st _ 0x10008 8 .store (by decide) rfl rfl rfl rfl _ (Laws.cachesOnly_refl _)⟩⟩

/-- The last doubleword of the scratchpad. -/
theorem wit_PoolAndHintResults : 0x1FFF8 + 8 ≤ (st []).spBytes ∧ 0x1FFF8 % 8 = 0 ∧ Sealed (st []) ∧ (st []).pool.wf = true ∧
    Calm (st []) ∧ Quiet (st []) ∧ (st []).th.status = .ready ∧
    ((st [(1, 0x10000)]).xlate (st [(1, 0x10000)]).asid 0x10000 1 .store).1 = .ok ⟨0x30000, 0x08DF⟩ :=
  ⟨by decide +kernel, by decide +kernel, sealed_st _, by decide +kernel, calm_st _, quiet_st _, rfl,
    by rw [Laws.xlate_extent _ _ _ _ ex0 rfl rfl rfl]; rfl⟩

theorem wit_AtomicResults : Calm (st [(1, 0x10000)]) ∧ Quiet (st [(1, 0x10000)]) ∧ (st []).mem.wf = true ∧
    ((st [(1, 0x10000)]).x 1).toNat % 8 = 0 ∧
    ((st [(1, 0x10000)]).xlate (st [(1, 0x10000)]).asid 0x10000 8 .atomic).1 = .ok ⟨0x30000, 0x08DF⟩ ∧
    (st [(1, 0x10000)]).travelsTo [(⟨0x30000, 0x08DF⟩, 8)] = none ∧ (st []).isDevMem 0x30000 = true :=
  ⟨calm_st _, quiet_st _, by decide +kernel, by decide +kernel,
    by rw [Laws.xlate_extent _ _ _ _ ex0 rfl rfl rfl]; rfl, by decide +kernel, by decide +kernel⟩

theorem wit_FenceResults : Quiet (st [(2, 64)]) ∧ (st []).x 2 = 0 ∧ (st [(2, 64)]).x 2 ≠ 0 ∧ (st [(2, 64)]).copiesIn 0 64 = false :=
  ⟨quiet_st _, by decide +kernel⟩

theorem wit_BarrierResults : isCmd (onCmd (st [])).loc = true ∧ (st []).team = some tm0 ∧ Quiet (st []) ∧
    tm0.bartCount + 1 = (st []).th.teamw := by
  refine ⟨by decide +kernel, by decide +kernel, quiet_st _, ?_⟩
  decide +kernel

/-- A gang of two cores, of two threads each; on the other core both wait at BARG, on this one one waits at BART. -/
def gang2 (n m : Nat) : State :=
  let s := st []
  let other : Thread := { th0 [] with gangw := 2, teamw := 2 }
  { s with
    th := { s.th with gangw := 2, teamw := 2 }
    core := { Core.idle with
      slots := Core.idle.slots.set 1 { other with status := .parked (.bart 0) }
      teams := [{ tm0 with gang := [0, 1], members := 2, bartCount := n, bargCount := m }] }
    cores := [(1, { Core.idle with
      slots := (Core.idle.slots.set 0 { other with status := .parked (.barg 0) }).set 1 { other with status := .parked (.barg 0) }
      teams := [{ tm0 with gang := [0, 1], members := 2, rank := 1, bargCount := 2 }] })] }

theorem wit_BarrierResults_gang : let s := gang2 1 1
    ∃ tm, s.team = some tm ∧ (s.gangTeams tm).Nodup ∧ (s.loc, tm.id) ∈ s.gangTeams tm ∧ (s.gangTeams tm).length = 2 ∧
      tm.bartCount + 1 = s.th.teamw ∧ (s.getThread s.loc 1).status = .parked (.bart 0) ∧ (s.getThread s.loc 1).team = tm.id ∧
      ((s.gangTeams tm).map fun p => ((s.teamAt p.1 p.2).map (·.bargCount)).getD 0).sum + 1 = s.th.gangw * s.th.teamw ∧
      (s.getThread 1 0).status = .parked (.barg 0) ∧ (s.getThread 1 0).team = 0 := ⟨_, rfl, by decide +kernel⟩

theorem wit_BarrierResults_early : let s := gang2 0 0
    ∃ tm, s.team = some tm ∧ (s.gangTeams tm).Nodup ∧ (s.loc, tm.id) ∈ s.gangTeams tm ∧ tm.bartCount + 1 ≠ s.th.teamw ∧
      ((s.gangTeams tm).map fun p => ((s.teamAt p.1 p.2).map (·.bargCount)).getD 0).sum + 1 ≠ s.th.gangw * s.th.teamw :=
  ⟨_, rfl, by decide +kernel⟩

theorem wit_BarrierResults_quiet : Quiet (gang2 1 1) ∧ Quiet (gang2 0 0) := ⟨quiet_of _ rfl (noTiles rfl), quiet_of _ rfl (noTiles rfl)⟩

/-- A team of a band. -/
def inBand : State :=
  { st [] with core := { Core.idle with teams := [{ tm0 with band := some 63 }] } }

theorem wit_BarrierResults_band : inBand.team = some { tm0 with band := some 63 } ∧ inBand.causeway[63].broken = false ∧
    ({ tm0 with band := some 63 } : Team).barbCount + 1 = inBand.th.teamw := by decide +kernel

/-- A barrier object in the scratchpad at 0x40. -/
def withObj (n b : Nat) : State :=
  { st [(1, 0x40), (2, b)] with core := { Core.idle with teams := [{ tm0 with pool := memWrite [] 0x40 16 n }] } }

theorem wit_BarrierObjectResults : ((withObj 0 1).x 1).toNat + 16 ≤ (withObj 0 1).spBytes ∧ ((withObj 0 1).x 1).toNat % 16 = 0 ∧
    (withObj 0 1).pool.wf = true ∧ 1 ≤ ((withObj 0 1).x 2).toNat ∧ ((withObj 0 65535).x 2).toNat ≤ 65535 ∧
    65535 < ((withObj 0 65536).x 2).toNat ∧ ((withObj 0 0).x 2).toNat = 0 := by decide +kernel

theorem wit_BarrierObjectResults_sealed : Sealed (withObj 0 1) ∧ Quiet (withObj 0 1) :=
  ⟨by intro t ht _; rw [List.mem_singleton.1 ht]; rfl, quiet_of _ rfl (noTiles rfl)⟩

theorem wit_BarrierObjectResults_object :
    -- one thread outstanding and no byte; two threads; an error; the other phase
    BarObj.ofBits (memRead (withObj (2 ^ 32) 0).pool 0x40 16) = ⟨0, 1, false, false, false, 0⟩ ∧
    BarObj.ofBits (memRead (withObj (2 ^ 33) 1).pool 0x40 16) = ⟨0, 2, false, false, false, 0⟩ ∧
    BarObj.ofBits (memRead (withObj (2 ^ 50) 0).pool 0x40 16) = ⟨0, 0, false, false, true, 0⟩ ∧
    (BarObj.ofBits (memRead (withObj (2 ^ 48) 0).pool 0x40 16)).phase ≠ ((withObj (2 ^ 48) 0).x 2).getLsbD 0 ∧
    (BarObj.ofBits (memRead (withObj (2 ^ 48) 1).pool 0x40 16)).phase = ((withObj (2 ^ 48) 1).x 2).getLsbD 0 := by decide +kernel

/-- A thread with its first watch entry armed, and triggered. -/
def watching (t : Bool) : State :=
  let s := st [(1, 0x10000)]
  { s with th := { s.th with watch := s.th.watch.set 0 ⟨0x600, true, t, false, 0⟩ } }

theorem wit_ScopeWatchResults : (onCmd (st [])).th.kind = .strand ∧ (st []).th.kind ≠ .strand ∧ 8 ≤ (8 : ScopeIx).val ∧
    (∀ i : Fin 4, (st []).th.watch[i].armed = false) ∧
    (∃ i : Fin 4, (watching true).th.watch[i].armed = true ∧ (watching true).th.watch[i].triggered = true) := by decide +kernel

theorem wit_ScopeWatchResults_copy : let s := { st [] with th := { th0 [] with scopet := 0x10000 } }
    Calm s ∧ (∃ ps, Reaches s 0x10000 128 .load ps) ∧ mapGet s.core.scopes s.th.scopeKey = none ∧
    ((st [(1, 0x10000)]).xlate (st [(1, 0x10000)]).asid 0x10000 1 .load).1 = .ok ⟨0x30000, 0x08DF⟩ :=
  ⟨calm_of _ rfl,
    ⟨_, Laws.steady_extent _ 0x10000 128 .load ex0 (by decide) rfl rfl rfl rfl rfl _ (Laws.cachesOnly_refl _)⟩, rfl,
    by rw [Laws.xlate_extent _ _ _ _ ex0 rfl rfl rfl]; rfl⟩


/-- The entry that WATCH takes: one that holds the line, the lowest that is unarmed, the one armed longest ago. -/
theorem wit_ScopeWatchResults_entry :
    ((watching true).th.watch[0].armed = true ∧ (watching true).th.watch[0].line = 0x30000 / 128) ∧
    (∃ j : Fin 4, (st []).th.watch[j].armed = false) ∧
    (let s : State := { st [] with th := { th0 [] with watch := Vector.ofFn fun i => ⟨0x700, true, false, false, i.val⟩ } }
     ∀ j : Fin 4, s.th.watch[j].armed = true ∧ s.th.watch[j].line ≠ 0x30000 / 128) := by decide +kernel

/-! Witnesses: vectors, tiles and engines. -/

/-- A thread with `n` vector registers, a vector length of 2, and 1 and 2 as the first halves of every register. -/
def vst (n : Nat) (l : List (Nat × Nat)) : State :=
  let s := st l
  { s with th := { s.th with
      allot := n
      regs := { s.th.regs with vl := 2, fmtc := 0xE4, v := Vector.replicate 32 (BitVec.ofNat 8192 0x20001) } } }

theorem vecOk_vst (n : Nat) (rs : List VReg) (h : ∀ r ∈ rs, r.val < n) : VecOk (vst n []) rs :=
  ⟨show Clean (vst 32 []).th.regs from ⟨by decide +kernel, by decide +kernel, by decide +kernel⟩,
    show isCmd 0 = false from rfl, h⟩

theorem wit_FmtOk : (∀ t, FmtOk (vst 32 []) t) ∧ recQ8 (st []).th.regs.fmtc = none :=
  ⟨fun t _ => show (recQ8 0xE4).isSome = true by decide +kernel, by decide +kernel⟩

theorem wit_VectorForms : VecOk (vst 32 []) [31, 0] ∧ fltOf (vst 32 []).th.regs .q8 ≠ none ∧
    fltOf (vst 32 []).th.regs .f64 ≠ none ∧ (31 : VReg).val < (vst 32 []).th.allot ∧ ElTy.i64.isKey = true ∧
    active (vst 32 []) 0 2 1 = true ∧ active (vst 32 []) 0 2 2 = false ∧ el (vst 32 []) 7 2 1 = 2 :=
  ⟨vecOk_vst 32 _ (by decide), by decide +kernel⟩

/-- Growth and shrinking of the allotment: the team has 16 banks of 8 vector registers. -/
theorem wit_VectorMoveResults : (vst 32 []).team = some tm0 ∧ 8 * (tm0.poolpart.toNat % 512) - tm0.frames = 128 ∧
    32 < (st [(1, 33)]).x 1 ∧ (vst 31 []).th.allot < 32 ∧ { tm0 with frames := 128 }.frames = 8 * (tm0.poolpart.toNat % 512) := by
  decide +kernel

theorem calm_vst : Calm (vst 32 []) := calm_of _ rfl
theorem sealed_vst : Sealed (vst 32 []) := by intro t ht _; rw [List.mem_singleton.1 ht]; rfl

theorem steady_vst (n : Nat) (l : List (Nat × Nat)) (va : Word) (w : Nat) (k : Access) (hn : w ≤ 65536 - va.toNat % 65536)
    (h : extentFor [ex0] va.toNat w = some ex0) (hc : canonical va = true) (hk : checkLeaf ex0.leaf k .user = none)
    (hd : State.reset.isDevMem (Laws.extentPhys ex0 va).pa = true) :
    Steady (vst n l) va w k [(Laws.extentPhys ex0 va, w)] :=
  Laws.steady_extent _ va w k ex0 hn h hc hk hd rfl

/-- The two active halves of a vector load and store at 0x1FFFC, the last of the page, and in the pool. -/
theorem wit_VectorLoadResults : VecOk (vst 32 []) [0] ∧ Calm (vst 32 []) ∧ Sealed (vst 32 []) ∧
    (∀ j ∈ actives (vst 32 []) 0 2, j = 0 ∨ j = 1) ∧
    (∀ k ∈ [Access.load, .store], Steady (vst 32 []) 0x1FFFC 2 k [(Laws.extentPhys ex0 0x1FFFC, 2)] ∧
      Steady (vst 32 []) 0x1FFFE 2 k [(Laws.extentPhys ex0 0x1FFFE, 2)]) ∧
    (0x1FFFE + 2 ≤ (vst 32 []).spBytes ∧ 0x1FFFE % 2 = 0 ∧ (vst 32 []).pool.wf = true) := by
  refine ⟨vecOk_vst 32 _ (by decide), calm_vst, sealed_vst, by decide +kernel, ?_, by decide +kernel⟩
  intro k hk
  simp only [List.mem_cons, List.not_mem_nil, or_false] at hk
  obtain rfl | rfl := hk
  · exact ⟨steady_vst _ _ 0x1FFFC 2 _ (by decide) rfl rfl rfl rfl, steady_vst _ _ 0x1FFFE 2 _ (by decide) rfl rfl rfl rfl⟩
  · exact ⟨steady_vst _ _ 0x1FFFC 2 _ (by decide) rfl rfl rfl rfl, steady_vst _ _ 0x1FFFE 2 _ (by decide) rfl rfl rfl rfl⟩

/-- A string of one byte at 0x10000, which reads 0, and the null descriptor. -/
theorem wit_StringResults : HasString (vst 32 []) (2 ^ 54 + 0x10000) [0] ∧ HasString (vst 32 []) (2 ^ 64 - 1) [] ∧
    HasString (vst 32 []) 5 [] := by
  refine ⟨fun _ => ⟨by decide, ?_⟩, fun h => absurd rfl h, fun _ => ⟨by decide, by simp⟩⟩
  intro m h
  obtain rfl : m = 0 := by simpa using h
  exact ⟨_, steady_vst 32 [] 0x10000 1 .load (by decide) rfl rfl rfl rfl, rfl⟩

/-! Tiles. -/

/-- A descriptor at physical 0x30000: 1 row of 4 quarters at virtual 0x10040, format FP32, neighbour core 1. -/
def tileMem : Memory :=
  [(0x30000, 0x10040), (0x30008, 0x40001), (0x30010, 0x207), (0x30018, 1)].foldl (fun m p => memWrite m p.1 8 p.2) pageMem

/-- Cores 1 and 2 are logical cores 1 and 2; core 0 is logical core 0. -/
def lct0 : Map Word := [(0, 0x400), (1, 0x401), (2, 0x402)]

/-- A state in which the descriptor stands at 0x10000. -/
def tst (l : List (Nat × Nat)) : State := { st l with mem := tileMem, lct := lct0, lctLock := true, nlog := 3 }

/-- The declared tile. -/
def tile0 (c : Nat) (sh : Bool) (ts : TileState) : Tile where
  tstate := ts
  gen := false
  shad := sh
  rows := 1
  rowq := 4
  pitch := 0
  owner := c
  ftgt := 0
  dcore := c
  ctx := 0
  sfrm := 0
  ht := 0
  hb := 0
  hl := 0
  hr := 0
  fmt := 7
  neighbours := []
  prev := .home
  prevOwner := c

/-- A state in which the tile at 0x10040 is declared. -/
def tst1 (c : Nat) (sh : Bool) (ts : TileState) (l : List (Nat × Nat)) : State :=
  { tst l with tiles := [(0x30040, tile0 c sh ts)] }

theorem wit_TileResults_declare : let s := tst [(1, 0x10000)]
    Quiet s ∧ Calm s ∧ s.mem.wf = true ∧ s.replicas = [] ∧ (s.x 1).toNat % 64 = 0 ∧
    Reaches s 0x10000 64 .load [(Laws.extentPhys ex0 0x10000, 64)] ∧
    (let z := TileDesc.ofBits (spanRead s [(Laws.extentPhys ex0 0x10000, 64)])
     z.ok = true ∧ z.base = 0x10040 ∧ z.shad = false ∧ s.resolveNeigh z.neigh = some [1] ∧
     0x30040 / 65536 = (0x30040 + z.span - 1) / 65536 ∧
     ∀ u, CachesOnly s u → (u.xlate u.asid z.base 1 .tdecl).1 = .ok (Laws.extentPhys ex0 z.base)) := by
  refine ⟨quiet_of _ rfl (noTiles rfl), calm_of _ rfl, by decide +kernel, rfl,
    by decide +kernel, Laws.steady_extent _ 0x10000 64 .load ex0 (by decide) rfl rfl rfl rfl rfl _ (Laws.cachesOnly_refl _), ?_⟩
  have hz : TileDesc.ofBits (spanRead (tst [(1, 0x10000)]) [(Laws.extentPhys ex0 0x10000, 64)]) =
      ⟨0x10040, 1, 4, 0, 7, false, 1, 0, 0, 0, 0, [1], 0⟩ := by decide +kernel
  rw [hz]
  refine ⟨by decide +kernel, rfl, rfl, by decide +kernel, by decide +kernel, ?_⟩
  intro u hu
  have hth : u.th = (tst [(1, 0x10000)]).th := Laws.cachesOnly_th hu
  rw [Laws.xlate_extent u 0x10040 1 .tdecl ex0 (by rw [hth]; rfl) rfl (by rw [hth]; rfl)]

/-- Before the host is asked for the tile's halves, and once every one of them has answered. -/
theorem wit_TileResults_snoop : (tst [(1, 0x10000)]).fenced = 0 ∧ (tst []).th.status = .ready ∧ (tst []).th.snooped = [] ∧
    (let z : TileDesc := ⟨0x10040, 1, 4, 0, 7, false, 1, 0, 0, 0, 0, [1], 0⟩
     let hs := ((tst []).tileOf z [1]).halves 0x30040
     let s : State := { tst [] with th := { (tst []).th with snooped := hs } }
     hs ≠ [] ∧ (∀ h ∈ hs, h ∈ s.th.snooped) ∧ ∀ h ∈ hs, (tst []).forwardStopped (homeOf (h * 64)) = false) := by
  decide +kernel

theorem quiet_tst1 (c sh ts l) (h : ts = .owned → c = 0 → (tst1 c sh ts l).haloOut 0x30040 = false) : Quiet (tst1 c sh ts l) :=
  quiet_of _ rfl fun p hp ho hc => by
    rw [List.mem_singleton.1 hp] at *
    exact ⟨rfl, h ho hc⟩

theorem wit_TileResults : (∀ c sh ts, (tst1 c sh ts [(1, 0x10040), (2, 1)]).xlate (st []).asid 0x10040 1 .load =
      (.ok (Laws.extentPhys ex0 0x10040), tst1 c sh ts [(1, 0x10040), (2, 1)])) ∧
    (Laws.extentPhys ex0 0x10040).pa = 0x30040 ∧ (tst []).mem.wf = true ∧ (tst []).logical 1 = some 1 ∧
    (tst []).logical 0 = some 0 ∧ (tst []).replicas = [] ∧ (tst1 0 false .owned []).haloOut 0x30040 = false :=
  ⟨fun _ _ _ => Laws.xlate_extent _ _ _ _ ex0 rfl rfl rfl, by decide +kernel⟩

/-! Witnesses: engines. -/

/-- The thread of `st` whose rings 0 to 3 are its team's own, with FP32 formats. -/
def rst (l : List (Nat × Nat)) : State :=
  let s := st l
  let r : Ring := ⟨0, 0, 12, 256, 0, 0, none, none, false⟩
  { s with
    th := { s.th with regs := { s.th.regs with fmta := 0x7, fmtb := 0x7, fmtc := 0x7 } }
    core := { s.core with rings := #v[some r, some r, some r, some r, none, none, none, none] } }

theorem wit_MatrixIssue : (isCmd (rst []).loc = false ∧ (rst []).team = some tm0 ∧ (31 : Fin 32).val + 1 = tm0.poolpart.toNat / 512 % 512 * 2 ∨
      (7 : Fin 32).val < tm0.poolpart.toNat / 512 % 512 / 2) ∧
    (∀ g ∈ [(0 : Nat), 1, 2], ∃ i : Fin 8, i.val = g ∧ (rst []).core.rings[i] = some ⟨0, 0, 12, 256, 0, 0, none, none, false⟩) ∧
    (rst []).th.team = 0 ∧ (rst []).core.matq.length < 16 ∧
    (recAB (rst []).th.regs.fmta).isSome = true ∧ (recAB (rst []).th.regs.fmtb).isSome = true ∧
    (recC (rst []).th.regs.fmtc).isSome = true ∧ 0x1C000 + 4096 * 4 ≤ (rst []).spBytes ∧
    (let x := 0 + 8 * 1 + 64 * 2 + 2 ^ 16 * 0xFFFF
     x / 2 ^ 9 % 2 ^ 7 = 0 ∧ x / 2 ^ 32 = 0 ∧ x / 64 % 8 = 2 ∧ [x % 8, x / 8 % 8, x / 64 % 8].Nodup) := by
  decide +kernel

/-- A gang of cores 0 and 1, whose ring 0 is used up. -/
def gst (l : List (Nat × Nat)) : State :=
  let s := st l
  let tm := { tm0 with gang := [0, 1] }
  let r : Ring := ⟨0, 0x1000, 12, 256, 256, 0, none, none, false⟩
  { s with
    th := { s.th with gangw := 2 }
    core := { s.core with teams := [tm], rings := s.core.rings.set 0 (some r) }
    cores := [(1, { Core.idle with teams := [tm] })] }

/-- A configuration word of 2 ** 12 bytes, and of a remote ring of 2 ** 16 bytes at rank 1 with its object at 0x1FFF0. -/
def cfgs : List Nat := [12, 16 + 32 + 64 + 2 ^ 32 * 0x1FFF0]

theorem wit_RingResults : isCmd (gst []).loc = false ∧ (gst []).core.rings[7] = none ∧
    (gst []).core.rings[0] = some ⟨0, 0x1000, 12, 256, 256, 0, none, none, false⟩ ∧
    (gst []).core.matq = [] ∧ (gst []).core.copies = [] ∧ (gst []).th.team = 0 ∧
    (∀ w ∈ cfgs, 12 ≤ w % 32 ∧ w % 32 ≤ 20 ∧ w / 2 ^ 8 % 2 ^ 24 = 0 ∧ w / 2 ^ 54 = 0) ∧
    0x1F000 % 2 ^ 12 = 0 ∧ 0x1F000 + 2 ^ 12 ≤ (gst []).spBytes ∧ 0x1FFF0 + 16 ≤ (gst []).spBytes ∧
    1 < (gst []).th.gangw ∧ (gst []).gangMember 1 = some (1, 0) ∧ ((gst []).getCore 1).rings[7] = none ∧
    3840 ≤ 2 ^ 12 ∧ (rst []).core.rings[0] = some ⟨0, 0, 12, 256, 0, 0, none, none, false⟩ := by decide +kernel

/-- Ring 1 holds 256 bytes of a producer on core 1, whose object is at 0x40. -/
def consumest : State :=
  let s := gst []
  { s with core := { s.core with rings := s.core.rings.set 1 (some ⟨0, 0, 12, 256, 0, 0, none, some (1, 0, 0x40), false⟩) } }

theorem wit_RingResults_producer : Quiet consumest ∧
    consumest.core.rings[1] = some ⟨0, 0, 12, 256, 0, 0, none, some (1, 0, 0x40), false⟩ ∧ 256 ≤ 256 - 0 ∧ 256 % 256 = 0 ∧
    RingFree (gst []) 0 ∧ (consumest.core.rings[1].all fun r => r.team == 1) = false := by
  refine ⟨quiet_of _ rfl (noTiles rfl), ?_⟩
  unfold RingFree; decide +kernel

/-- The geometry of two rows of 8 elements of 2 bytes at 0x10000, of which the row range holds one, into the pool at 0x100. -/
def geom0 (dir : Bool) : CopyGeom where
  base := 0x10000
  loge := 1
  dir := dir
  pool := 0x100
  n := #v[8, 2, 1, 1]
  s := #v[2, 0x40, 0, 0]
  c := #v[0, 0, 0, 0]
  lo := #v[0, 0, 0, 0]
  hi := #v[8, 1, 1, 1]
  fill := 0

/-- Rows of partitions 0 and 1, and their cursors. -/
def cursors : Memory := [(0x204, 1), (0x300, 0x10000), (0x308, 0x10100)].foldl (fun m p => memWrite m p.1 8 p.2) []

/-- A thread whose engine registers hold that geometry, the parts 0 and 1 at 0x200 and the cursors at 0x300. -/
def cst (dir : Bool) (l : List (Nat × Nat)) : State :=
  let s := gst l
  { s with
    th := { s.th with eng := #v[0x10000, if dir then 0x10009 else 0x10001, 0x100, 7 + 2 ^ 16, 2 + 2 ^ 32 * 0x40, 0, 0, 0, 0, 0,
                                8 + 2 ^ 32, 1 + 2 ^ 32, 0, 0, 0x300] }
    core := { s.core with teams := [{ tm0 with gang := [0, 1], pool := cursors }] } }

theorem wit_CopyIssueResults : GeomOf (cst false [(1, 0x40), (2, 3)]) (geom0 false) ∧ (cst false []).core.staging = [] ∧
    (cst false []).core.copies.length < 512 ∧ 0x40 + 16 ≤ (cst false []).spBytes ∧
    0x100 + 2 * 16 ≤ (cst false []).spBytes ∧ (geom0 false).badCorner none = none ∧
    0 < 3 ∧ 3 < 2 ^ min (cst false []).th.gangw 4 ∧ (geom0 false).badCorner (some [0, 1]) = none ∧
    ((List.range 2).map fun i => sint (memRead (cst false []).pool (0x200 + 4 * i) 4) 32) = [0, 1] := by
  simp only [GeomOf]; decide +kernel

theorem wit_CopyIssueResults_closed : Closed (cst false []) ∧ Closed (cst true []) := by unfold Closed; decide +kernel

/-- CPYT of the tile at 0x10040, and CPYR into ring 0 of 256 bytes. -/
theorem wit_CopyIssueResults_tile : ((tst1 0 false .owned []).xlate (st []).asid 0x10040 1 .load).1 =
      .ok (Laws.extentPhys ex0 0x10040) ∧ mapGet (tst1 0 false .owned []).tiles 0x30040 = some (tile0 0 false .owned) ∧
    CopyGeom.badCorner ⟨0x10040, 4, false, 0x100, #v[4, 1, 1, 1], #v[16, 0, 0, 0], #v[0, 0, 0, 0], #v[0, 0, 0, 0],
      #v[4, 1, 1, 1], 0⟩ none = none ∧ 2 * 128 % 256 = 0 ∧ 2 * 128 ≤ 2 ^ 12 := by
  refine ⟨?_, by decide +kernel⟩
  rw [show (st []).asid = (tst1 0 false .owned []).asid from rfl, Laws.xlate_extent _ _ _ _ ex0 rfl rfl rfl]

theorem wit_PartitionCopyIssue : GeomOf (cst true [(1, 0x40), (2, 0x200)]) (geom0 true) ∧ (cst true []).pool.wf = true ∧
    (cst true []).th.eng[14].toNat % 2 ^ 22 = 0x300 ∧ (cst true []).th.eng[1].toNat / 65536 % 65536 + 1 = 2 ∧
    memRead (cst true []).pool 0x204 4 = 1 ∧ memRead (cst true []).pool 0x308 8 = 0x10100 ∧
    (canonical 0x10100 = true ∧ sint 0x10100 64 + 2 * 7 < 2 ^ 53) ∧
    0x300 + 8 * 2 ≤ (cst true []).spBytes ∧ 0x300 % 2 = 0 ∧ 0x200 % 4 = 0 := by
  simp only [GeomOf]; decide +kernel

theorem wit_PartitionCopyIssue_sealed : Sealed (cst true []) := by
  intro t ht _
  rw [List.mem_singleton.1 ht]; rfl

/-! Witnesses: collectives and system instructions. -/

/-- A collective descriptor at physical 0x30000: an all-reduce of FP32, one tree, 16 elements from 0x40000 to 0x50000, chunks
of 64 bytes, progress record at 0x60000, in package 0. -/
def colMem : Memory :=
  [(0x30000, 0x10700 + 2 ^ 32 * 5), (0x30008, 16), (0x30010, 0x40000), (0x30018, 0x50000), (0x30020, 64), (0x30028, 0x60000),
   (0x30030, 1)].foldl (fun m p => memWrite m p.1 8 p.2) pageMem

/-- A thread with x1 at the descriptor. -/
def colst (q : List ColOp) : State :=
  let s := st [(1, 0x10000)]
  { s with mem := colMem, core := { s.core with colq := q } }

/-- An operation of the queue. -/
def col0 (state : Nat) : ColOp where
  id := 3
  desc := 0x10000
  ctx := 0
  mode := .user
  pc := 0
  sup := 0
  kind := 0
  rop := 0
  fmt := 7
  ntree := 1
  pub := false
  tag := 5
  count := 16
  src := 0x40000
  dst := 0x50000
  chunk := 64
  root := 0
  prog := 0x60000
  pkgs := 3
  state := state
  detail := 0
  nt := 1
  gen := 0
  recomp := 0
  planes := []
  marks := []
  dev := 0
  hst := 0
  stat := false

theorem wit_CollectiveForms : isCmd (colst []).loc = false ∧ (colst []).th.held = [] ∧
    ((colst [col0 4]).core.colq.filter fun o => o.desc == 0x10000).getLast? = some (col0 4) ∧ 1 < (col0 4).members.length ∧
    (colst []).core.colq = [] ∧ (col0 5).state = 5 ∧ 0x10000 % 64 = 0 := by decide +kernel

theorem wit_CollectiveForms_run : let s := colst []
    Quiet s ∧ Calm s ∧ Reaches s 0x10000 128 .load [(Laws.extentPhys ex0 0x10000, 128)] ∧
    s.colInvalid { col0 1 with pkgs := 1 } (spanRead s [(Laws.extentPhys ex0 0x10000, 128)]) = false ∧
    s.colInvalid { col0 1 with pkgs := 2 } (spanRead s [(Laws.extentPhys ex0 0x10000, 128)]) = true :=
  ⟨quiet_of _ rfl (noTiles rfl), calm_of _ rfl,
    Laws.steady_extent _ 0x10000 128 .load ex0 (by decide) rfl rfl rfl rfl rfl _ (Laws.cachesOnly_refl _), by decide +kernel⟩

theorem wit_SystemRegisterResults : (sup (st [])).th.mode = .supervisor ∧ ¬sysPriv .scaleb ∧ sysPriv .xvec ∧
    sysWrite (st []).th .scaleb 0xF = some { (st []).th with regs := { (st []).th.regs with scaleb := 7 } } ∧
    sysWrite (st []).th (.harvest 15) 0 = none ∧ ((st []).ctxReady 0).1 = none ∧ (State.reset.ctxReady 0).1 = none := by
  refine ⟨rfl, by simp [sysPriv], by simp [sysPriv], ?_⟩
  decide +kernel

/-- A launch of one gang of one thread. -/
def launch0 : Launch where
  ntask := 1
  gangw := 1
  team := 1
  prio := 0
  fpol := 0
  partn := 0
  bandg := 0
  poolpart := BitVec.ofNat 64 (16 + 512 * 16 + 2 ^ 18 * 16)
  fmtctx := 0
  scopet := 0
  args := 0
  done := 0
  ctx := 0
  entry := 0x10000
  sup := 0
  next := 1
  live := 1
  status := 0
  aborted := false
  told := 0

/-- A supervisor thread of launch 1. -/
def lst (l : List (Nat × Nat)) : State := { sup (st l) with launches := [(1, launch0)] }

theorem wit_SystemMiscResults : (lst []).th.mode = .supervisor ∧ isCmd (onCmd (st [])).loc = true ∧
    (onCmd (st [])).th.mode = .supervisor ∧ mapGet (lst []).launches (lst []).th.lh = some launch0 ∧ launch0.aborted = false ∧
    (lst []).core.copies = [] ∧ (lst []).core.staging = [] ∧ (lst []).alrtEn = false ∧ (lst []).alrtHeld.length < 16 ∧
    (let s := { lst [] with alrtEn := true, alrtLog2n := 6, alrtTail := 63 }
     (s.alrtTail.toNat + s.alrtFlight.length + 2 ^ 64 - s.alrtHead.toNat) % 2 ^ 64 < 2 ^ s.alrtLog2n) := by decide +kernel

theorem wit_SystemMiscResults_quiet : Quiet (lst []) ∧ Quiet (onCmd (st [])) ∧ Calm (lst []) :=
  ⟨quiet_of _ rfl (noTiles rfl), quiet_of _ rfl (noTiles rfl), calm_of _ rfl⟩

theorem wit_SystemMiscResults_closed : Closed (lst []) := (wit_SystemMiscResults_quiet.1).2.2.2.2.2.2.1

/-- A launch record at physical 0x30000, with its entry and control word. -/
def recMem (entry ctl : Nat) : Memory :=
  [(0x30000, entry), (0x30008, ctl), (0x30010, 16 + 512 * 16 + 2 ^ 18 * 16)].foldl (fun m p => memWrite m p.1 8 p.2)
    (memWrite (memWrite pageMem 0x200000 8 0x210001) 0x100000 8 0x200001)

/-- A supervisor thread whose x1 is at the record, through a supervisor page. -/
def recst (entry ctl : Nat) : State :=
  let s := lst [(1, 0x10000)]
  { s with mem := recMem entry ctl, th := { s.th with extents := [⟨0x10000, 0x10000, 0x30000, 0x08CF, []⟩] } }

theorem wit_LaunchResults : (recst 0x10000 (2 + 2 ^ 32 + 2 ^ 35)).freeHandle 7 = some 2048 ∧
    isCmd (recst 0 0).loc = false ∧ 0x10000 % 128 = 0 ∧
    (let s := recst 0x10000 (2 + 2 ^ 32 + 2 ^ 35)
     s.launchStatus (spanRead s [(⟨0x30000, 0x08CF⟩, 128)]) = 0) ∧
    (let s := recst 0x10001 0
     s.launchStatus (spanRead s [(⟨0x30000, 0x08CF⟩, 128)]) = 1) := by decide +kernel

theorem wit_LaunchResults_reaches (e c : Nat) : Quiet (recst e c) ∧ Calm (recst e c) ∧
    Reaches (recst e c) 0x10000 128 .load [(⟨0x30000, 0x08CF⟩, 128)] :=
  ⟨quiet_of _ rfl (noTiles rfl), calm_of _ rfl,
    Laws.steady_extent _ 0x10000 128 .load ⟨0x10000, 0x10000, 0x30000, 0x08CF, []⟩ (by decide) rfl rfl rfl rfl rfl _
      (Laws.cachesOnly_refl _)⟩

/-- A supervisor whose context's fault queue holds one raised entry, of a thread in slot 1. -/
def fst0 (status : Nat) (l : List (Nat × Nat)) : State :=
  let s := lst l
  let h : HeldEntry := ⟨0, 0, 0, none, Regs.zero, none, true, false, none, none, none⟩
  { s with
    mem := memWrite (memWrite pageMem 0x100010 8 1) 0x300001 1 status
    core := { s.core with slots := s.core.slots.set 1 { th0 [] with status := .parked .fault, held := [h] } } }

theorem wit_FaultackResults : (fst0 1 []).th.mode = .supervisor ∧ (fst0 1 []).mem.wf = true ∧
    (∃ c, (fst0 1 []).ctxEntry 0 = some c ∧ c.addr = 0x100000 ∧ c.fqbase = 0x300000 ∧ c.n = 64) ∧ (fst0 1 []).ctxEntry 1 = none ∧
    (fst0 1 []).physRead 0x100010 8 = 1 ∧ (fst0 1 []).physRead 0x100018 8 = 0 ∧ (fst0 1 []).physRead 0x300001 1 = 1 ∧
    (fst0 3 []).physRead 0x300001 1 = 3 ∧
    ((fst0 1 []).getThread 0 1).held ≠ [] ∧ ((fst0 1 []).getThread 0 1).status ≠ .empty ∧
    mapGet (fst0 1 []).launches ((fst0 1 []).getThread 0 1).lh = some launch0 ∧ (fst0 1 []).statWait = [] ∧
    (∃ h ∈ ((fst0 1 []).getThread 0 1).held, h.ctx = 0 ∧ h.index = 0 ∧ h.raised = true) ∧
    ((fst0 1 []).getThread 0 1).kind ≠ .strand :=
  ⟨rfl, by decide +kernel, ⟨⟨0x100000, 0x200000, 0x300006, 0x300000, 64⟩, by decide +kernel⟩, by decide +kernel⟩

theorem wit_FaultackResults_quiet : Quiet (fst0 1 []) ∧ Calm (fst0 1 []) := ⟨quiet_of _ rfl (noTiles rfl), calm_of _ rfl⟩

/-- A thread whose pool holds a message for 0x10040 at 0x80, with control word `w`. -/
def sendst (w : Nat) : State :=
  let s := st [(1, 0x80)]
  { s with core := { s.core with teams := [{ tm0 with pool := memWrite (memWrite [] 0x80 8 0x10040) 0x88 8 w }] } }

theorem wit_CourierSendResults : 0x80 + 64 ≤ (sendst 3).spBytes ∧ 0x80 % 16 = 0 ∧ (sendst 3).core.staging = [] ∧
    (let v := memRead (sendst 3).pool 0x80 64; v % 2 ^ 64 = 0x10040 ∧ v / 2 ^ 64 % 2 ^ 64 = 3) ∧
    (let v := memRead (sendst 0x3F).pool 0x80 64; v / 2 ^ 64 % 2 ^ 64 = 0x3F) ∧ (0x3F : Word).getLsbD 2 = true ∧
    (sendst 3).isLocal 0x30000 = true ∧ (sendst 3).isLocal (2 ^ 44 + 0x30000) = false ∧ (sendst 3).th.got = [] := by
  decide +kernel

theorem wit_CourierSendResults_xlate (w : Nat) : ((sendst w).xlate (sendst w).asid 0x10040 1 .atomic).1 = .ok ⟨0x30040, 0x08DF⟩ := by
  rw [Laws.xlate_extent _ _ _ _ ex0 rfl rfl rfl]; rfl

/-- Nothing holds the message back, and a response that has come. -/
theorem wit_CourierSendResults_free : Closed (sendst 3) ∧
    (let v := memRead (sendst 3).pool 0x80 64
     (sendst 3).mustQueue 0 ((sendst 3).courierWrite (BitVec.ofNat 64 v) ⟨0x30040, 0x08DF⟩
       { spkg := 0, ssock := 0, score := 0, slot := 0, ctx := 0, ni := 3, ret := false, rsel := 0, auto := false, page := 0x30000,
         words := 0, m4 := 0, m5 := 0, m6 := 0, m7 := 0 }) = false) ∧
    ([⟨0x30040, 8, none, 5, none⟩] : List Got).find? (fun g => g.pa == 0x30040 && g.n == 8) = some ⟨0x30040, 8, none, 5, none⟩ :=
  ⟨by unfold Closed; decide +kernel, by decide +kernel⟩

/-- A message that has been sent, with the request that is on its way. -/
theorem wit_CourierSendResults_sent : let s := sendst 3
    let q : Outstanding := { core := 0, tag := 7, tid := 0, pa := 0x30040, n := 8, pkg := 0, plane := none, write := none, fill := false,
                             engine := none, nearDone := false, devDone := false, flit := none }
    let u : State := { s with outstanding := [q], th := { s.th with sent := some (0x10040, 0x30040) } }
    s.th.sent = none ∧ u.th.sent = some (0x10040, 0x30040) ∧ u.th.got.find? (fun g => g.pa == 0x30040 && g.n == 8) = none ∧
      u.outstanding.find? (fun q => q.core == u.loc && q.tid == u.th.order && q.pa == 0x30040 && q.write.isNone) = some q := by
  decide +kernel

theorem wit_CourierSendResults_engines (c : CoreId) : ((sendst 3).getCore c).msgq.length < 32 ∧
    ((sendst 3).getCore c).msgHeld = [] ∧ ((sendst 3).getCore c).saving = false := by
  by_cases e : c = 0
  · subst e; decide +kernel
  · simp [State.getCore, sendst, st, State.reset, e, Core.idle]

/-- A supervisor with logical core 1 on core 1, whose partition 0 is halted, and a saved context in the area at 0x1000000. -/
def spst (l : List (Nat × Nat)) : State :=
  let s := lst l
  { s with
    lct := lct0, lctLock := true, nlog := 3
    parts := s.parts.set 0 { s.parts[0] with dies := 1, state := 2 }
    cores := [(1, Core.idle)]
    areas := [(0, Core.idle)] }

theorem wit_ContextSaveResults : (spst []).saveStatus false 0x1000000 0x401 = 1 ∧ (spst []).saveStatus false 0x1000001 1 = 3 ∧
    (spst []).saveStatus false 0x1000000 1 = 0 ∧ (spst []).logical 1 = some 1 ∧ (spst []).th.status = .ready ∧
    (spst []).outstanding = [] ∧
    (let k := (spst []).getCore 1
     k.matq = [] ∧ k.copies = [] ∧ k.msgq = [] ∧ k.inflight = [] ∧ k.staging = [] ∧ k.colq = [] ∧
       ∀ q ∈ k.slots.toList ++ k.saves.map (·.thread), q.packing = []) ∧
    (∀ e ∈ (spst []).coreList, ((spst []).getCore e).copies = []) ∧ (∀ q ∈ (spst []).fqWait, q.core ≠ 1) := by
  decide +kernel

theorem wit_ContextSaveResults_calm : Calm (spst []) := calm_of _ rfl

/-- That area holds a context of this version (log 19). -/
def verst : State := { spst [] with mem := [(0x1000000, Config.contextVer)] }

theorem wit_ContextSaveResults_restore : verst.saveStatus true 0x1000000 1 = 0 ∧ verst.areaBad 0x1000000 = none ∧
    verst.areaHalf 0x1000000 = none ∧ verst.areaHeld 0x1000000 = false ∧ (∀ l ∈ verst.launches, l.2.aborted = false) ∧
    ∃ z, verst.areaContext 0x1000000 = some z ∧ z.slots[(0 : Fin 8)].status = .empty := by
  have h1 : verst.logical 1 = some 1 := rfl
  have h2 : verst.loc = 0 := rfl
  have h3 : verst.haltedAt 1 = true := rfl
  have h4 : verst.areaOk 0x1000000 = true := rfl
  have h5 : (verst.getCore 1).holdsWork = false := rfl
  have h6 : verst.physRead 0x1000000 1 = Config.contextVer.toNat := by
    have h : verst.physByte 0x1000000 = Config.contextVer := rfl
    simp [State.physRead, leRead, h]
  have h7 : (areaBanks fun o => verst.physByte (0x1000000 + o)) ≤ Config.banks false := by decide +kernel
  exact ⟨by simp [State.saveStatus, h1, h2, h3, h4, h5, h6, h7], rfl, rfl, rfl, by decide +kernel, _, rfl, by decide +kernel⟩

/-! Witnesses: events of the package and of links. -/

theorem wit_ResetAndBootEvents : State.reset.bootState = 0 ∧ (State.reset.getThread 1280 0).status = .empty ∧
    (State.reset.getThread (23 * 64 + 3) 7).status = .empty ∧ { State.reset with thermal := some 5 }.thermal ≠ none ∧
    { State.reset with frozen := true }.frozen = true ∧ State.reset.debugFuse = false ∧ State.reset.debugToken = false ∧
    { State.reset with bootState := 1 }.bootState = 1 := by decide +kernel

/-- Whether a signature verifies is a value that the model leaves open: an image that the check accepts boots on the part whose
fuse holds its key's hash; an unreadable image never does. -/
theorem wit_ResetAndBootEvents_boot (key bytes : List Byte) (r q : BitVec 256)
    (h : Config.sm2Verify key (Config.sm3 bytes) r q = true) :
    let img : BootImage :=
      { readable := true, manifestOk := true, bytes := bytes, key := key, sigR := r, sigS := q, secVersion := 0, entry := 0x1000,
        last := true, load := 0x1000 }
    let s : State := { State.reset with fuseKeyHash := Config.sm3 key }
    s.bootState = 0 ∧ (img.readable = true ∧ img.manifestOk = true ∧ Config.sm3 img.key = s.fuseKeyHash ∧
      Config.sm2Verify img.key (Config.sm3 img.bytes) img.sigR img.sigS = true) ∧ s.fuseMinSec ≤ img.secVersion ∧
      ({ img with readable := false } : BootImage).readable ≠ true ∧ s.isDevMem img.load = true ∧ s.mem.wf = true :=
  ⟨rfl, ⟨rfl, rfl, rfl, h⟩, (by decide : (0 : Word) ≤ 0), (by decide : false ≠ true),
    (by decide +kernel : State.reset.isDevMem 0x1000 = true), rfl⟩

/-- An alert in flight; an identifier of the causeway that expects two cores, one of which has arrived; a broken one. -/
def cwst (c : Nat) : State :=
  let s := st []
  let a : Alert := ⟨9, 0, 0, 1, 0, []⟩
  { s with
    alrtFlight := [a]
    alrtHeld := [a]
    cxl := s.cxl.set 0 { s.cxl[0] with up := true }
    th := { s.th with xvec := 0x10000, status := .parked (.barb 63 false) }
    core := { s.core with teams := [{ tm0 with band := some 63 }] }
    causeway := (s.causeway.set 63 ⟨true, 2, c, 0, false, false, false⟩).set 1 ⟨true, 2, 0, 0, true, true, true⟩ }

theorem wit_AlertAndCausewayEvents : (cwst 0).alrtFlight ≠ [] ∧ (cwst 0).alrtHeld ≠ [] ∧ State.reset.alrtHeld = [] ∧
    (cwst 0).cxl[0].up = true ∧ (cwst 0).bootState ≠ 2 ∧ { cwst 0 with bootState := 2 }.bootState = 2 ∧ ¬((0x105 : Word).getLsbD 8 = true ∧ 6 ≤ (0x105 : Word).toNat % 32) ∧
    (cwst 0).causeway[63].broken = false ∧ (cwst 0).causeway[63].releasing = false ∧
    (cwst 0).causeway[63].count + 1 < (cwst 0).causeway[63].expected ∧
    (cwst 1).causeway[63].count + 1 = (cwst 1).causeway[63].expected ∧ (cwst 1).causeway[63].next = 0 ∧
    (cwst 0).causeway[1].broken = true ∧ (cwst 0).causeway[1].releasing = true ∧
    (cwst 0).th.status = .parked (.barb 63 false) ∧ (cwst 0).th.inh = false ∧ (cwst 0).th.xvec ≠ 0 := by decide +kernel

/-- The thread that a release of identifier 63 frees. -/
theorem wit_AlertAndCausewayEvents_release : let s := { cwst 0 with
      causeway := (cwst 0).causeway.set 63 ⟨true, 2, 0, 0, true, false, true⟩ }
    s.causeway[63].releasing = true ∧ 0 ∈ s.coreList ∧ { tm0 with band := some 63 } ∈ (s.getCore 0).teams ∧
      (s.getThread 0 0).team = tm0.id ∧ (s.getThread 0 0).status = .parked (.barb 63 (!true)) := by decide +kernel

/-- Link 3 is up; it holds flit 0 for replay. -/
def linkst : State :=
  let s := State.reset
  { s with
    links := s.links.set 3 { s.links[3] with up := true, rxSeq := 1023, txSeq := 1, replay := [(1, 0)] }
    holdings := [⟨3, .line, .bisnp 77, 0, 0⟩] }

theorem wit_LinkEvents : linkst.links[3].up = true ∧ linkst.links[3].queue = [] ∧ ({ State.reset with th := { th0 [] with status := .parked (.bisnp 77) } } : State).th.status = .parked (.bisnp 77) ∧ (2 ^ 28 + 2 ^ 29 : BitVec 2048).getLsbD 28 = true ∧
    (2 ^ 28 + 2 ^ 29 : BitVec 2048).getLsbD 29 = true ∧ (1, 0) ∈ linkst.links[3].replay ∧
    linkst.holdings.find? (fun h => h.home == 3 && h.cls == .line) = some ⟨3, .line, .bisnp 77, 0, 0⟩ ∧
    linkst.holdings.find? (fun h => h.home == 3 && h.cls == .tile) = none ∧
    (1 : BitVec 10) ≠ 0 ∧ ((1 : BitVec 10) - 0).toNat < 512 ∧ BitVec.ofNat 10 0 = linkst.links[3].rxSeq + 1 ∧
    BitVec.ofNat 10 1 ≠ linkst.links[3].rxSeq + 1 ∧ ¬((5 : BitVec 2048).toNat % 8 ≤ 4) := by decide +kernel

theorem crc64_zeros (n : Nat) : crc64 (List.replicate n 0) = 0 := by
  unfold crc64
  induction n with
  | zero => rfl
  | succ n ih =>
    rw [List.replicate_succ, List.foldl_cons, show crc64Bits 8 (0 ^^^ BitVec.ofNat 64 ((0 : Byte).toNat * 2 ^ 56)) = 0 by decide]
    exact ih

/-- The flit of zeros carries its CRC, and SEQ 0. -/
theorem wit_LinkEvents_good : crc64 ((toBytes 256 (0#2048).toNat).take 248) =
      BitVec.ofNat 64 ((0#2048).toNat / 2 ^ 1984) ∧ (0#2048).toNat % 8 ≤ 4 := by
  rw [BitVec.toNat_zero, show (toBytes 256 0).take 248 = List.replicate 248 0 by decide +kernel, crc64_zeros, Nat.zero_div]
  decide

/-- A request to package 1 that has left on plane 35 with flit 4. -/
def asked0 : Outstanding where
  core := 0
  tag := 7
  tid := 0
  pa := 2 ^ 44
  n := 8
  pkg := 1
  plane := some 35
  write := none
  fill := false
  engine := none
  nearDone := false
  devDone := false
  flit := some 4

/-- Port 35 is up, with that request of core 0 on its way. -/
def upst (state : Nat) (ex off : Bool) : State :=
  let s := State.reset
  { s with
    outstanding := [asked0]
    fports := s.fports.set 35 { s.fports[35] with state := state, rxSeq := 4, exchanging := ex, off := off, replay := [(4, 0)] } }

/-- Whether a flit authenticates is a value that the model leaves open: both outcomes of a flit in sequence are stated. -/
theorem wit_ScaleUpEvents : (upst 3 false false).fports[35].state = 3 ∧ BitVec.ofNat 12 ((5 : BitVec 2048).toNat % 2 ^ 12) =
      (upst 3 false false).fports[35].rxSeq + 1 ∧ ¬((5 + 2 ^ 26 * 5 : BitVec 2048).toNat / 2 ^ 26 % 8 ≤ 4) ∧
    BitVec.ofNat 12 ((6 : BitVec 2048).toNat % 2 ^ 12) ≠ (upst 3 false false).fports[35].rxSeq + 1 ∧
    (upst 3 true false).fports[35].exchanging = true ∧ (upst 3 false false).fports[35].exchanging = false ∧
    (upst 3 true false).fports[35].replay.length + 1 < 1024 ∧ (upst 3 true false).fports[35].txctr ≠ 0xFFFFFFFF ∧
    (upst 2 false false).fports[35].off = false ∧ (upst 0 false true).fports[35].off = true ∧
    (upst 2 false false).fenced.getLsbD 23 = false ∧ (upst 2 false false).bootState ≠ 2 ∧
    ({ upst 4 false true with bootState := 2 } : State).bootState = 2 ∧ (upst 4 false true).fports[35].off = true ∧
    (upst 4 false true).fports[35].state = 4 ∧ (upst 2 false false).fports[35].state ≠ 0 ∧ (upst 2 false false).responses = [] := by decide +kernel

theorem wit_ScaleUpEvents_requests : asked0 ∈ (upst 3 false false).outstanding ∧ asked0.plane = some 35 ∧
    ∀ q, asked0.flit = some q → ∃ r ∈ (upst 3 false false).fports[35].replay, r.1 = q := by
  refine ⟨List.mem_singleton.2 rfl, rfl, fun q hq => ⟨(4, 0), ?_, Option.some.inj hq⟩⟩
  exact List.mem_singleton.2 rfl

/-- A marker that waits: the counter is used up; and a link table that is stale and asked for. -/
theorem wit_ScaleUpEvents_waits :
    let f := { (upst 3 true false).fports[35] with txctr := 0xFFFFFFFF }
    let s := { upst 2 false false with ltStale := true, ltPending := false }
    f.exchanging = true ∧ f.state = 3 ∧ f.txctr = 0xFFFFFFFF ∧ s.fports[35].state < 3 ∧ s.ltStale = true := by decide +kernel

theorem wit_ScaleUpEvents_good (h : Config.gcmOk 35 false 0 0 5 = true) :
    (5 : BitVec 2048).toNat / 2 ^ 26 % 8 ≤ 4 ∧ Config.gcmOk 35 (upst 3 false false).fports[35].krx (upst 3 false false).fports[35].rxGen
      (upst 3 false false).fports[35].rxctr 5 = true := ⟨by decide +kernel, h⟩

/-! Witnesses: the fabric, the host and launches. -/

/-- A request of the current thread to package 1, on plane `pl`; port 35 is up and the link table lists it. -/
def fabst (pl : Option Nat) (hold : Bool) : State :=
  let s := st []
  { s with
    th := { s.th with status := .parked (.response 7) }
    outstanding := [{ asked0 with plane := pl, flit := none, nearDone := true, devDone := true }]
    flows := [⟨0, 1, 0, 35, hold⟩]
    fports := s.fports.set 35 { s.fports[35] with state := 3 }
    ltStale := false
    linkTable := (s.linkTable.set 0 (2 ^ 36 + 2 ^ 35)).set 1 (2 ^ 36 + 2 ^ 35) }

theorem wit_FabricEvents : (fabst none false).livePlanes 1 = [35] ∧ (st []).livePlanes 1 = [] ∧
    (fabst none false).outstanding.find? (fun x => x.core == 0 && x.tag == 7 && x.pkg == 1) =
      some { asked0 with plane := none, flit := none, nearDone := true, devDone := true } ∧ (1 : BitVec 8) ≠ (fabst none false).pkgid ∧
    (fabst none false).flows.find? (fun f => f.core == 0 && f.pkg == 1 && f.vn == 0) = some ⟨0, 1, 0, 35, false⟩ ∧
    (fabst none false).flowWaits { asked0 with plane := none } = false ∧ (fabst none false).fports[35].ready 0 1 = true ∧
    (fabst none false).fports[35].txctr.toNat + 0 ≤ 0xFFFFFFFF ∧ (fabst (some 35) true).responses = [] ∧
    (∃ x ∈ (fabst (some 35) true).outstanding, x.core = 0 ∧ x.pkg = 1 ∧ x.vn = 0 ∧ x.plane = some 35) ∧
    (∀ x ∈ (fabst none true).outstanding, x.plane ≠ some 35) ∧
    (fabst none false).answered 0 7 = (fabst none false).outstanding ∧
    (fabst (some 35) true).outstanding.find? (fun x => x.core == 0 && x.tag == 7 && x.plane.isSome) =
      some { asked0 with flit := none, nearDone := true, devDone := true } ∧
    (fabst (some 35) true).flows.find? (fun f => f.core == 0 && f.pkg == 1 && f.vn == 0) = some ⟨0, 1, 0, 35, true⟩ ∧
    ((fabst none false).getThread 0 0).order = 0 ∧ ((fabst none false).getThread 0 0).status = .parked (.response 7) ∧
    (∀ sl, ((fabst none false).getThread 0 sl).status ≠ .parked .travel) ∧ (fabst none false).ltStale = false ∧
    (1 : BitVec 32) = (fabst none false).ltGen + 1 ∧ (fabst none false).ltGen < 2 ∧ (fabst none false).ltPending = false ∧
    ([(0, 5), (255, 7)].map (·.1)).Nodup := by decide +kernel

/-- A message of 8 bytes of the thread in the first slot. -/
def wmsg0 : WriteMsg := { va := 0, pa := 0, n := 8, data := 0, leaf := 0, amo := none, pc := 0, ctx := 0, courier := none }

/-- A store of the current thread whose near count is still open. -/
theorem wit_FabricEvents_ack : let p : Pending := ⟨0, { wmsg0 with pa := 0x30000 }, false⟩
    let s := { st [] with core := { (st []).core with inflight := [p] } }
    (s.getThread 0 0).status = .ready ∧
      (s.getCore 0).inflight.find? (fun p => p.tid == (s.getThread 0 0).order && !p.near) = some p := by decide +kernel

/-- Splits: die 0 leaves and this side goes on; the larger side goes and this one fences itself; equal sides. -/
theorem wit_FabricEvents_split : let dies := fun (m : BitVec 24) => ((List.range 16).filter fun d => m.getLsbD d).length
    State.reset.liveMask = 0xFFFFFF ∧ (0x3FFFFE : BitVec 24) &&& 0xFFFFFF = 0x3FFFFE ∧
    dies 0xC00001 < dies 0x3FFFFE ∧ (0x3FFFFE : BitVec 24).getLsbD 20 = true ∧
    dies 0x10000F < dies 0xEFFFF0 ∧ (0x1000FF : BitVec 24).getLsbD 20 = true ∧ dies 0x1000FF = dies 0xEFFF00 ∧
    { State.reset with splitWait := some (1, 0) }.splitWait = some (1, 0) ∧
    (let s := { State.reset with liveMask := 0x3FFFFE, preSplit := 0xFFFFFF }
     (1 : BitVec 24) &&& s.liveMask = 0 ∧ 1 &&& s.preSplit ≠ 0 ∧ s.preSplit &&& ~~~(1 &&& s.preSplit) ≠ 0) ∧
    (let s := { State.reset with fenced := 0xFFFFF0 }
     s.liveMask &&& ~~~(s.fenced ||| (0xF &&& s.liveMask)) = 0) ∧
    State.reset.liveMask &&& ~~~(State.reset.fenced ||| (0xF &&& State.reset.liveMask)) ≠ 0 ∧
    (({ st [] with th := { (st []).th with status := .parked .split } } : State).getThread 0 0).status = .parked .split := by
  decide +kernel

/-- A host that owns half a line of device memory, whose port 0 is up with a decoder. -/
def hst0 (bis : Bool) (v : Nat) : State :=
  let s := st []
  { s with
    cxl := (s.cxl.set 0 ⟨true, true, false, 0, 0, 2 ^ 30, 1, 256⟩).set 1 { s.cxl[1] with up := false }
    bisnps := if bis then [(1, 0, true)] else []
    hostLines := [(0x80000000000 / 64, ⟨v, 0⟩)]
    th := { s.th with status := if bis then .parked (.bisnp 1) else .ready } }

theorem wit_HostEvents : (hst0 false 2).hostReaches 64 = true ∧ (hst0 false 2).hostWaits 1 = false ∧ (hst0 true 2).hostWaits 1 = true ∧
    (hst0 false 2).mem.wf = true ∧ (hst0 false 2).tiles = [] ∧ (hst0 false 2).psect = [] ∧ (hst0 false 2).dirty = [] ∧
    64 % 64 + 64 ≤ 64 ∧ 127 % 64 + 1 ≤ 64 ∧ (hst0 true 2).bisnps.find? (fun b => b.1 == 1) = some (1, 0, true) ∧
    (hst0 false 2).cxl[0].up = true ∧ (hst0 false 2).cxl[1].up = false ∧ (hst0 false 2).fenced.getLsbD (cxlSock 1) = false ∧ (hst0 false 2).roomFor (64 / 128) = true ∧
    mapGet (hst0 false 3).hostLines (0x80000000000 / 64) = some ⟨3, 0⟩ ∧ (hst0 false 3).hostTaken 0x80000000000 = false ∧
    (hst0 false 2).bootState ≠ 2 ∧ { hst0 false 2 with bootState := 2 }.bootState = 2 ∧ (hst0 true 2).hostReaches 64 = true ∧
    ((hst0 true 2).lineAt 0).broken = false ∧ (hst0 false 2).lostDies = 0 ∧
    ((hst0 true 2).getThread 0 0).status = .parked (.bisnp 1) ∧ 16384 ∈ [256, 512, 1024, 2048, 4096, 8192, 16384] := by decide +kernel

/-- Mailbox 7 with a message of operation `op`. -/
def mbst (op : Nat) (inv outv : Bool) : State :=
  let s := st []
  { s with
    th := { s.th with watch := s.th.watch.set 3 ⟨(0xF0014020000 + 0x1000000 + 0x3000) / 128, true, false, false, 0⟩ }
    queues := [⟨0, 0, 0⟩]
    mailboxes := s.mailboxes.set 7 { s.mailboxes[7] with mbin := BitVec.ofNat 64 op, inv := inv, outv := outv } }

theorem wit_MailboxEvents : (mbst 1 true false).mailboxes[7].inv = true ∧ (mbst 1 true false).mailboxes[7].outv = false ∧
    (mbst 1 true true).mailboxes[7].outv = true ∧ (mbst 0 false false).mailboxes[7].inv = false ∧
    (∀ op ∈ [0, 1, 2, 3, 4, 255], (mbst op true false).mailboxes[7].mbin.toNat % 256 = op) ∧
    (∀ q ∈ (mbst 2 true false).queues, q.num ≠ 1) ∧ (∃ q ∈ (mbst 2 true false).queues, q.num = 0) ∧
    (mbst 0x103 true false).mailboxes[7].mbin.toNat / 256 % 256 = 1 ∧
    (mbst 0 false false).bootState ≠ 2 ∧ { mbst 0 false false with bootState := 2 }.bootState = 2 ∧
    ((mbst 0 false false).getThread 0 0).watch[3].armed = true ∧ ((mbst 0 false false).getThread 0 0).watch[3].polled = false ∧
    (∃ q ∈ (mbst 3 true false).queues, q.num = (mbst 3 true false).mailboxes[7].mbin.toNat / 256 % 256) ∧
    (∀ q ∈ (mbst 0x103 true false).queues, q.num ≠ 1) ∧ ((mbst 0 false false).getThread 0 0).status = .ready := by
  decide +kernel

/-- The lowest port that is up takes the messages of a mailbox with IEN. -/
theorem wit_MailboxEvents_port : (hst0 false 2).cxl[0].up = true ∧ (∀ q : Fin 4, q < 0 → (hst0 false 2).cxl[q].up = false) ∧
    ({ (hst0 false 2).mailboxes[7] with ien := true } : Mailbox).ien = true ∧ (hst0 false 2).mailboxes[7].ien = false ∧
    (hst0 false 2).mailboxes[7].outv = false ∧ (hst0 false 2).hostPort 0x80000000000 = some 0 := by decide +kernel

/-- Launch 5 has two tasks, of which none is dealt, in bands of `g` gangs; the partition of die 0 runs, core 0 is idle, and its
deque holds `q`. -/
def dealst (g : Nat) (q : List TaskRec) : State :=
  let s := spst []
  { s with
    th := Thread.empty
    slot := 7
    parts := s.parts.set 0 { s.parts[0] with dies := 1, state := 1 }
    core := { Core.idle with deque := q }
    cores := [(1, Core.idle), (2, Core.idle)]
    launches := [(5, { launch0 with ntask := 2, next := 0, live := 0, bandg := g })] }

/-- A gang task of launch 5. -/
def rec0 : TaskRec := ⟨0x10000, 7, 8, 9, 0, 0, 0, 1, 5, false, 0⟩

theorem wit_LaunchEvents_deal : (dealst 0 []).launchAt 5 = some { launch0 with ntask := 2, next := 0, live := 0, bandg := 0 } ∧
    (dealst 0 []).partRuns 0 = true ∧ ((dealst 0 []).positions 0 1)[0 % ((dealst 0 []).positions 0 1).length]? = some ⟨0, [0]⟩ ∧
    ((dealst 0 []).getCore 0).deque.length < 32 ∧ 32 ≤ ((dealst 0 (List.replicate 32 rec0)).getCore 0).deque.length ∧
    ((dealst 0 []).readNrng 0 launch0).1 = .value 0 := by decide +kernel

theorem wit_LaunchEvents_band : (dealst 2 []).freeCauseway = some 0 ∧ (dealst 2 []).ctxtEn = true ∧
    (((dealst 2 []).positions 0 1).filter fun p => p.cores.all fun c => (dealst 2 []).admits c 1 launch0.poolpart).take 2 =
      [⟨0, [0]⟩, ⟨3, [3]⟩] ∧
    (((dealst 2 []).readNrng 0 launch0).2.readStart 0 launch0 (dealtRec 5 launch0 0 0)).1 = some (0, []) := by decide +kernel

theorem wit_LaunchEvents_dispatch : isCmd 0 = false ∧ (dealst 0 [rec0]).coreOff 0 = false ∧ (dealst 0 [rec0]).ctxtEn = true ∧
    (dealst 0 [rec0]).pickRec 0 ((dealst 0 [rec0]).getCore 0).deque = some (rec0, [0]) ∧
    (dealst 0 [rec0]).restoreFirst 0 ((dealst 0 [rec0]).prioOf rec0) = false ∧
    ((dealst 0 [rec0]).readStart 0 launch0 rec0).1 = some (0, []) := by decide +kernel

/-- The partition of launch 1 is halted. -/
def haltedst : State :=
  let s := lst []
  { s with lct := lct0, lctLock := true, nlog := 3, parts := s.parts.set 0 { s.parts[0] with dies := 1, state := 2 } }

/-- A team whose one member has stopped, and a launch that is through but for its word. -/
def donest (told : Nat) : State :=
  let s := st []
  { s with
    th := { s.th with status := .empty }
    core := { s.core with teams := [{ tm0 with stopped := 1 }] }
    launches := [(1, { launch0 with live := 1 }), (5, { launch0 with live := 0, told := told, done := 0x10000 })] }

theorem wit_LaunchEvents_retire : (donest 0).teamAt 0 0 = some { tm0 with stopped := 1 } ∧
    (donest 0).allStopped ((donest 0).taskTeams 0 { tm0 with stopped := 1 }) = true ∧
    (donest 0).launchHalted 1 = false ∧ (donest 1).launchHalted 5 = false ∧ haltedst.launchHalted 1 = true ∧
    haltedst.launchAt 1 = some launch0 ∧ (donest 2).launchAt 5 = some { launch0 with live := 0, told := 2, done := 0x10000 } ∧
    (donest 0).launchAt 1 = some { launch0 with live := 1 } ∧ launch0.next = launch0.ntask ∧
    (donest 1).launchAt 5 = some { launch0 with live := 0, told := 1, done := 0x10000 } ∧ (donest 1).doneOut 0 = false ∧
    (((donest 1).finishKills (cmdCore 0) (engTid (doneId 0))).doneWrite
      { launch0 with live := 0, told := 1, done := 0x10000 } true).1 = .value () ∧
    (((donest 0).finishKills (cmdCore 0) (engTid (doneId 0))).doneWrite
      { launch0 with live := 0, told := 0, done := 0x10000 } false).1 = .value () := by decide +kernel

/-- The address of DONE does not translate. -/
theorem wit_LaunchEvents_fails : ∃ f va pa, (((donest 0).finishKills (cmdCore 0) (engTid (doneId 0))).doneWrite
    { launch0 with live := 0, told := 0, done := 0x50000000 } false).1 = .fail f va pa := by
  refine ⟨_, _, _, rfl⟩

/-- Core 1 steals from core 2 or finds nothing. -/
def stealst (q : List TaskRec) (n : Nat) (w : Option Nat) : State :=
  let s := dealst 0 []
  { s with cores := [(1, { Core.idle with stealOut := true, stealNext := n, stealWait := w }), (2, { Core.idle with deque := q })] }

theorem wit_LaunchEvents_steal : (dealst 0 []).lctLock = true ∧ (dealst 0 []).partDies 0 ≠ 0 ∧ (dealst 0 []).siteOn 0 1 = true ∧
    (dealst 0 []).idleCore 1 = true ∧ ((stealst [rec0] 0 none).getCore 1).stealOut = true ∧
    ((stealst [rec0] 0 none).stealVictims 1)[0]? = some 2 ∧ (stealst [rec0] 0 none).stolen 1 2 = some rec0 ∧
    (stealst [] 0 none).stolen 1 2 = none ∧ ((stealst [] 0 none).stealVictims 1)[1]? ≠ none ∧
    ((stealst [] 34 none).stealVictims 1)[34]? ≠ none ∧ ((stealst [] 34 none).stealVictims 1)[35]? = none ∧
    ((stealst [] 0 (some 0)).getCore 1).stealWait = some 0 ∧ 0 ≤ (stealst [] 0 (some 0)).cycles := by decide +kernel

/-! Witnesses: homes, tiles, faults, spills. -/

/-- A line of page 3 held by die 0 with a dirty byte, and sixteen accesses from die 5. -/
def line0 : LineEntry where
  state := 2
  holder := 0
  hlo := 0
  hhi := 0
  tov := false
  wat := true
  wset := 1
  valid := 255
  dirty := 1
  tag := 0
  away := 16
  awayDie := 5

/-- That line, a store on its way to it, a walk in progress, a kill, and a translation that was derived from it. -/
def homest : State :=
  let s := st []
  let p : Pending := ⟨0, { wmsg0 with va := 0x10000, pa := 0x30000, n := 16, data := 0x123, leaf := 0x8DF }, false⟩
  { s with
    dirty := [(0x30000, 5)]
    lines := [(0x600, line0)]
    core := { s.core with inflight := [p], ccache := [⟨0x600, 255⟩], tlb := [⟨0, 0, 0x10000, 16, 0x30000, 0x8DF, [0x600]⟩] }
    coreMaps := [(0, 0x600, [0])]
    kills := [⟨0x600, 0, true, 0, 0⟩]
    channels := s.channels.set 63 ⟨[(0x30000, false), (0x30080, false)], none⟩
    th := { s.th with status := .parked .walk } }

theorem wit_HomeEvents : homest.isDevMem 0x30000 = true ∧ (homest.lineAt 0x600).held = some 0 ∧ (homest.lineAt 0x601).held = none ∧
    0 / 64 < 16 ∧ 20 ≤ 1280 / 64 ∧ homest.mem.wf = true ∧ (homest.getCore 0).inflight.length = 1 ∧
    (homest.lineAt 0x600).state = 2 ∧ (homest.lineAt ((0x30000 + 15) / 128)).state = 2 ∧
    16 ≤ (homest.lineAt 0x600).away ∧ (homest.lineAt 0x600).awayDie = 5 ∧ homest.tiles = [] ∧
    (1 : BitVec 8).getLsbD 0 = true ∧ (homest.lineAt 0x600).dirty.getLsbD 0 = true ∧ homest.isDevMem (128 * 0x601) = true ∧
    homest.channels[0].buffer = [] ∧ homest.channels[63].buffer ≠ [] ∧ homest.tableReadable 0x200000 = true ∧
    homest.coreMaps.find? (fun p => p.1 == 0 && p.2.1 == 0x600) = some (0, 0x600, [0]) ∧ 0 ∈ homest.coreList ∧
    homest.kills.any (fun k => k.die == 0 && k.line == 0x600 && k.reached) = true ∧
    (homest.getThread 0 0).status = .parked .walk ∧ (homest.walk 0 (homest.getThread 0 0).ctx 0x10000).1 = .ok ⟨0x30000, 0x8DF, 16, [16384, 16896, 17408]⟩ ∧
    homest.hostState (2 * 0x600) = 0 ∧ homest.hostState (2 * 0x600 + 1) = 0 ∧ homest.liveMask.getLsbD 23 = true ∧
    homest.cxl[0].up = true ∧ homest.roomFor 0x600 = true ∧ homest.roomFor 0x601 = true ∧ homest.roomFor ((0x30000 + 15) / 128) = true := by decide +kernel

/-- R93: the eviction of a held dirty line that nobody watches writes it back and frees its entry; a watched one sends its
kills first. -/
theorem test_evictEntry : let s := { homest with kills := [], lines := [(0x600, { line0 with wat := false, wset := 0 })] }
    (s.evictEntry 0x600).1 = true ∧ (s.evictEntry 0x600).2.lines = [] ∧ (s.evictEntry 0x600).2.dirty = [] ∧
    memByte (s.evictEntry 0x600).2.mem 0x30000 = 5 ∧
    (let w := { homest with kills := [] }
     (w.evictEntry 0x600).1 = false ∧ ((w.evictEntry 0x600).2.kills.map (·.line)) = [0x600] ∧
       (w.evictEntry 0x600).2.evicting = [0x600]) := by decide +kernel

theorem homest_line (l : Nat) : homest.lineAt l = if 0x600 = l then line0 else LineEntry.none := by
  simp only [State.lineAt, homest, mapGet]
  split <;> rfl

theorem wit_HomeEvents_calm : Calm homest := by
  refine ⟨⟨rfl, rfl, rfl, rfl, rfl, rfl, fun h => ?_, fun l => ?_⟩, fun c p hp => ?_⟩
  · simp only [State.hostState, homest_line]
    split <;> split <;> rfl
  · rw [homest_line]
    split <;> decide
  · by_cases e : c = 0
    · subst e
      rw [show (homest.getCore 0).inflight = homest.core.inflight from rfl] at hp
      rw [List.mem_singleton.1 hp]
      exact ⟨rfl, rfl⟩
    · rw [show (homest.getCore c).inflight = [] by simp [State.getCore, homest, st, State.reset, e, Core.idle]] at hp
      simp at hp

/-- Its one store is the oldest of its socket, a host line, a page that is not mapped, and a watcher that came late. -/
theorem wit_HomeEvents_more : (∀ p ∈ (homest.getCore 0).inflight, 0 < p.msg.n ∧ p.msg.n ≤ 128) ∧
    homest.rerun = [] ∧ (∀ k, ∀ q ∈ (homest.getCore k).inflight, ∀ p ∈ homest.core.inflight, p.msg.seq ≤ q.msg.seq ∨
      ((k / 64 = 0 / 64 → q.msg.pa / 65536 ≠ p.msg.pa / 65536) ∧
        ((q.msg.pa + q.msg.n - 1) / 128 < p.msg.pa / 128 ∨ (p.msg.pa + p.msg.n - 1) / 128 < q.msg.pa / 128))) ∧
    homest.roomFor (0x200000 / 128) = true ∧ homest.tableReadable 0x200000 = true ∧ 0 % 64 ≠ 36 ∧
    (∀ p, homest.hostPort (128 * (0x80000000000 / 128)) = some p →
      (homest.outstanding.filter fun o => o.port == some p).length + 2 ≤ 256) ∧
    regionOf (128 * (0x80000000000 / 128)) = .host ∧ regionOf (128 * 0x600) ≠ .host ∧
    (∃ f, (homest.walk 0 (homest.getThread 0 0).ctx 0x77770000).1 = .error f) ∧
    (∀ k ∈ homest.kills, k.line = 0x600 → k.die = 0) ∧ (homest.lineAt 0x600).fresh = 0 := by
  refine ⟨by decide +kernel, rfl, fun k q hq p hp => ?_, by decide +kernel, by decide +kernel, by decide, fun p _ => (by decide : 0 + 2 ≤ 256),
    by decide +kernel, by decide +kernel, ⟨_, rfl⟩, by decide +kernel⟩
  exact Or.inl (by rw [List.mem_singleton.1 hp]; exact Nat.zero_le _)

/-- A state with the tile at 0x30040, shadowed or not, of a state, with a store on its way to it. -/
def tilest (sh : Bool) (ts : TileState) (pushed : Bool) (w : Wait) : State :=
  let s := tst1 0 sh ts []
  let p : Pending := ⟨0, { wmsg0 with va := 0x10040, pa := 0x30040, n := 16, data := 0x123, leaf := 0x8DF }, false⟩
  { s with
    th := { s.th with status := .parked w }
    core := { s.core with inflight := [p] }
    declRecs := [(0x30040, tile0 0 sh .owned)]
    replicas := if pushed then [⟨0x30040, 7, [], true⟩] else [] }

theorem wit_TileEvents : (tilest true .owned false .walk).tileOver 0x30048 = some (0x30040, tile0 0 true .owned) ∧
    (tilest true .owned false .walk).lostDies = 0 ∧ (tilest true .owned false .walk).fenced = 0 ∧
    (tilest true .owned false .walk).rerun = [] ∧ (tilest true .owned false .walk).splitWait = none ∧
    (tilest true .owned false .walk).psect = [] ∧ (tilest true .owned false .walk).bisnps = [] ∧ (tilest true .owned false .walk).mem.wf = true ∧
    ((tilest true .owned false .walk).getCore 0).inflight.length = 1 ∧ 0x30040 % 16 + 16 ≤ 16 ∧
    (∀ i < 16, (tilest true .owned false .walk).tileOver (0x30040 + i) = some (0x30040, tile0 0 true .owned)) ∧
    mapGet (tilest false .inForward false .walk).tiles 0x30040 = some (tile0 0 false .inForward) ∧
    ((tilest false .inForward false (.tfwd 0x30040 0x10040)).getThread 0 0).status = .parked (.tfwd 0x30040 0x10040) ∧
    ((tilest false .inForward false (.tile 0x30040)).getThread 0 0).status = .parked (.tile 0x30040) ∧
    mapGet (tilest true .shadowed true (.publ 0x30040 true)).tiles 0x30040 = some (tile0 0 true .shadowed) ∧
    (tile0 0 true .shadowed).neighbours = [] ∧ (tile0 0 true .shadowed).gen = false ∧
    mapGet (tilest true .shadowed true .walk).declRecs 0x30040 = some (tile0 0 true .owned) ∧
    (tilest false .inForward false .walk).dieGone ((tile0 0 false .inForward).ftgt / 64) = false ∧
    (∀ p ∈ (tilest true .owned false .walk).tiles, p.2.tstate ≠ .inForward) ∧
    mapGet (tile0 0 true .owned).tags (0x30040 / 128) = none ∧
    (tilest true .owned false .walk).tiles = [(0x30040, tile0 0 true .owned)] := by decide +kernel

theorem wit_TileEvents_host (sh ts pu w) (h : Nat) : (tilest sh ts pu w).hostState h = 0 := by
  simp only [State.hostState, State.lineAt, tilest, tst1, tst, st, State.reset, mapGet]; split <;> rfl

theorem wit_TileEvents_lines (sh ts pu w) (l : Nat) : ((tilest sh ts pu w).lineAt l).state ≠ 3 := by
  simp only [State.lineAt, tilest, tst1, tst, st, State.reset, mapGet]; decide

/-- No thread waits for the push. -/
theorem wit_TileEvents_pushError (k : CoreId) (i : Fin 8) (va : Word) :
    ((tilest false .inForward false .walk).getThread k i).status ≠ .parked (.tfwd 0x30040 va) := by
  have own : ∀ i : Fin 8, ((tilest false .inForward false .walk).getThread 0 i).status = .parked .walk ∨
      ((tilest false .inForward false .walk).getThread 0 i).status = .empty := by decide +kernel
  have idle : ∀ i : Fin 8, (Core.idle.slots[i]).status = .empty := by decide +kernel
  by_cases e : k = 0
  · subst e
    obtain h | h := own i <;> rw [h] <;> nofun
  · have h : (tilest false .inForward false .walk).getThread k i = Core.idle.slots[i] := by
      simp [State.getThread, State.getCore, tilest, tst1, tst, st, State.reset, e]
    rw [h, idle i]
    nofun

/-- The oldest store of all is the one of the tile. -/
theorem wit_TileEvents_oldest (k : CoreId) : ∀ q ∈ ((tilest true .owned false .walk).getCore k).inflight,
    ∀ p ∈ ((tilest true .owned false .walk).getCore 0).inflight, p.msg.seq ≤ q.msg.seq ∧ p.msg.amo = none ∧ p.msg.pa % 16 + p.msg.n ≤ 16 := by
  intro q hq p hp
  rw [show ((tilest true .owned false .walk).getCore 0).inflight =
    [⟨0, { wmsg0 with va := 0x10040, pa := 0x30040, n := 16, data := 0x123, leaf := 0x8DF }, false⟩] from rfl] at hp
  rw [List.mem_singleton.1 hp]
  exact ⟨Nat.zero_le _, rfl, by decide⟩

/-- A thread waits for its push, and context 0 has a fault queue that no tile covers. -/
def pushst : State :=
  { tilest false .inForward false (.tfwd 0x30040 0x10040) with
    mem := [(0x100000, 1), (0x100002, 0x20), (0x100008, 6), (0x10000A, 0x30)] }

theorem pushst_over (a : Nat) (h : 0x30080 ≤ a) : pushst.tileOver a = none := by
  have : (tile0 0 false .inForward).covers 0x30040 a = false := by
    have far : ¬(a - 0x30040 < 16 * 4) := by omega
    simp [Tile.covers, tile0, far]
  simp [State.tileOver, show pushst.tiles = [(0x30040, tile0 0 false .inForward)] from rfl, this]

theorem pushst_entry (x : BitVec 16) (e : CtxEntry) (h : pushst.ctxEntry x = some e) : e = ⟨0x100000, 0x200000, 0x300006, 0x300000, 64⟩ := by
  by_cases hx : x = 0
  · subst hx
    have : pushst.ctxEntry 0 = some ⟨0x100000, 0x200000, 0x300006, 0x300000, 64⟩ := by decide +kernel
    exact Option.some.inj (h.symm.trans this)
  · exfalso
    have hn : x.toNat ≠ 0 := fun hc => hx (BitVec.eq_of_toNat_eq hc)
    have ha : pushst.ctxAddr x = 0x100000 + 64 * x.toNat := rfl
    have hb : pushst.physByte (pushst.ctxAddr x) = 0 := by
      rw [ha, State.physByte, show pushst.dirty = [] from rfl]
      simp only [mapGet, State.backing, pushst_over _ (show 0x30080 ≤ 0x100000 + 64 * x.toNat by omega)]
      rw [show pushst.mem = [(0x100000, 1), (0x100002, 0x20), (0x100008, 6), (0x10000A, 0x30)] from rfl]
      simp only [memByte]
      rw [if_neg (by omega), if_neg (by omega), if_neg (by omega), if_neg (by omega)]
      rfl
    have h0 : (w64 (pushst.physRead (pushst.ctxAddr x) 8)).getLsbD 0 = false := by
      simp only [State.physRead, leRead, hb, w64, BitVec.getLsbD_ofNat, Nat.testBit_zero]
      rw [show (0 : Byte).toNat = 0 from rfl, Nat.zero_add, Nat.mul_mod]
      simp
    simp only [State.ctxEntry, h0, Bool.false_and] at h
    split at h <;> simp_all

theorem wit_TileEvents_pushParked : mapGet pushst.tiles 0x30040 = some (tile0 0 false .inForward) ∧ 0 ∈ pushst.coreList ∧
    (pushst.getThread 0 0).status = .parked (.tfwd 0x30040 0x10040) ∧ (pushst.getThread 0 0).held = [] ∧
    ∀ x e, pushst.ctxEntry x = some e → ∀ a, (e.addr ≤ a ∧ a < e.addr + 64) ∨ (e.fqbase ≤ a ∧ a < e.fqbase + 64 * e.n) →
      pushst.tileOver a = none := by
  refine ⟨by decide +kernel, by decide +kernel, by decide +kernel, by decide +kernel, fun x e h a ha => pushst_over a ?_⟩
  rw [pushst_entry x e h] at ha
  simp only at ha
  omega

theorem wit_TileEvents_pushAlone (k : CoreId) (i : Fin 8) (va : Word)
    (h : (pushst.getThread k i).status = .parked (.tfwd 0x30040 va)) : k = 0 ∧ i = 0 := by
  have own : ∀ i : Fin 8, i ≠ 0 → (pushst.getThread 0 i).status = .empty := by decide +kernel
  have idle : ∀ i : Fin 8, (Core.idle.slots[i]).status = .empty := by decide +kernel
  by_cases e : k = 0
  · subst e
    by_cases hi : i = 0
    · exact ⟨rfl, hi⟩
    · rw [own i hi] at h; nomatch h
  · have hc : pushst.getThread k i = Core.idle.slots[i] := by
      simp [State.getThread, State.getCore, pushst, tilest, tst1, tst, st, State.reset, e]
    rw [hc, idle i] at h; nomatch h

/-- A shadowed tile whose last two quarters are its right halo, with a neighbour on die 1. -/
def halost : State :=
  { tst [] with tiles := [(0x30040, { tile0 0 true .shadowed with hr := 2, neighbours := [64] })]
                th := { (tst []).th with status := .parked (.publ 0x30040 false) } }

theorem wit_TileEvents_neighbours : let t0 := { tile0 0 true .shadowed with hr := 2, neighbours := [64] }
    mapGet halost.tiles 0x30040 = some t0 ∧ 64 ∈ t0.neighbours ∧ t0.tstate = .shadowed ∧ 64 / 64 ≠ homeOf 0x30040 ∧
      (∃ q ∈ t0.sectors 0x30040, t0.inHalo 0x30040 q = true) ∧ (halost.getThread 0 0).status = .parked (.publ 0x30040 false) := by
  decide +kernel

/-- A thread whose held entry has been acknowledged, with or without a load to perform again. -/
def heldst (load : Bool) : State :=
  let s := st []
  let op : LoadOp := .scalar 3 0x10000 8 false
  let h : HeldEntry := ⟨0, 0, 0, if load then some op else none, Regs.zero, none, true, true, none, none, none⟩
  { s with th := { s.th with
      status := .parked .fault
      held := [h]
      regs := if load then s.th.regs.wxp 3 0 else s.th.regs } }

theorem wit_FaultEvents : (∃ e, (st []).ctxEntry 0 = some e ∧ e.addr % 64 = 0 ∧ e.n = 64 ∧
      (e.fqbase + 64 * (leRead (st []).physByte (e.addr + 0x10) 8 % e.n)) / 128 ≠ e.addr / 128) ∧
    leRead (st []).physByte 0x100010 8 = 0 ∧ leRead (st []).physByte 0x100018 8 = 0 ∧ (st []).mem.wf = true ∧ (st []).th.held = [] ∧
    (st []).dirty = [] ∧ (st []).fqWait = [] ∧ (st []).statWait = [] ∧ ((st []).ctxReady (st []).th.ctx).1 = none ∧
    (st []).fenced.getLsbD (homeOf 0x30000) = false ∧ { st [] with fenced := 0xFFFFFF }.fenced.getLsbD (homeOf 0x30000) = true ∧
    ((heldst false).getThread 0 0).status = .parked .fault ∧ ((heldst false).getThread 0 0).allAcked = true ∧
    ((heldst false).getThread 0 0).dispatchFault = none ∧ ((heldst false).getThread 0 0).log = [] ∧
    (heldst true).th.regs.rxp 3 = some 0 ∧ (∀ i, i ≠ 3 → (heldst true).th.regs.rxp i = none) := by
  refine ⟨⟨⟨0x100000, 0x200000, 0x300006, 0x300000, 64⟩, by decide +kernel⟩, by decide +kernel⟩

theorem wit_FaultEvents_load : ((((heldst true).focus 0 0).onTh fun t => { t with
    walked := if t.rewalk then t.walked else [], rewalk := false }).loadVa 0x10000 8).1 = .value 0 ∧
      (∀ q ∈ (heldst true).fqWait, q.entry.ctx ≠ (heldst true).th.ctx) := by decide +kernel

/-- An entry that waits for space in the fault queue, with its load; and one in die 23's notice store. -/
def queuest : State :=
  let s := heldst false
  let e : FaultEntry := { cause := 1, stat := 1, remote := false, write := false, notask := false, ctx := 0, fva := 0x10000, fpc := 0,
                          rpc := 0, pkg := 0, sock := 0, core := 0, slot := 0, pa := 0, detail := 0, task := 0, sup := 0 }
  { s with
    th := { s.th with status := .parked (.fqSpace 0) }
    fqWait := [⟨0, 0, e, some (.scalar 3 0x10000 8 false), some s.th.regs, [], none, none⟩]
    notices := [(23, ⟨[e], 2, 0, 1⟩)] }

theorem wit_FaultEvents_queue : queuest.fqWait.length = 1 ∧ queuest.statWait = [] ∧ (queuest.fqWait.map fun q => q.entry.ctx) = [0] ∧
    (queuest.fqWait.map fun q => (queuest.fqWrite q.entry).1) = [some 0] ∧
    (queuest.getThread 0 0).status = .parked (.fqSpace 0) ∧ (queuest.noticesOf 23).entries.length = 1 ∧
    (queuest.noticesOf 23).dropped ≠ 0 := by decide +kernel

/-- A team with an open checkpoint of its one thread, whose store waits in staging since cycle 0 of the core's 2048. -/
def ckst (o : Bool) : State :=
  let s := lst [(1, 7)]
  let p : Pending := ⟨0, { wmsg0 with va := 0x10000, pa := 0x30000, leaf := 0x8DF }, false⟩
  { s with core := { s.core with
      cycle := 2048
      staging := [p]
      stagedAt := [(0, 0)]
      teams := [{ tm0 with ckpt := ⟨[(0, Regs.zero, 0x10000)], o, [], []⟩ }] } }

theorem wit_FaultEvents_team : ((ckst true).getCore 0).staging ≠ [] ∧
    (∃ p ∈ ((ckst true).getCore 0).stagedAt, p.2 + 2048 ≤ ((ckst true).getCore 0).cycle ∧ 0 ∈ ((ckst true).getCore 0).tidsOf p.1) ∧
    (ckst true).teamAt 0 0 = some { tm0 with ckpt := ⟨[(0, Regs.zero, 0x10000)], true, [], []⟩ } ∧
    (ckst false).teamAt 0 0 = some { tm0 with ckpt := ⟨[(0, Regs.zero, 0x10000)], false, [], []⟩ } ∧
    (ckst false).launchAt tm0.lh = some launch0 ∧ ((ckst true).getThread 0 0).status ≠ .empty ∧
    ((ckst true).getThread 0 0).team = tm0.id ∧ ((ckst true).getThread 0 0).order = 0 := by decide +kernel

/-- A remote store that its home takes, and the request that it answers. -/
theorem wit_FaultEvents_store : let w : WriteMsg := { wmsg0 with va := 0x10000, pa := 0x30000, data := 5, leaf := 0x8DF }
    let o : Outstanding := { asked0 with pa := 0x30000, pkg := 0, plane := none, write := some w, flit := none }
    let s := { st [] with outstanding := [o] }
    s.isDevMem w.pa = true ∧ w.n ≤ 128 ∧ 0 < w.n ∧ w.amo = none ∧ s.dirty = [] ∧ (s.getThread 0 0).status ≠ .empty ∧ s.outstanding.find? (fun o => o.core == 0 && o.write == some w) = some o := by
  decide +kernel

/-- A travel packet finds a slot of die 0 or none of die 5, whose cores are stopped. -/
def travst : State :=
  let s := st []
  { s with
    th := { s.th with status := .parked .travel }
    lct := lct0
    lctLock := true
    nlog := 3
    harvest := s.harvest.set 5 0 }

theorem wit_SpillAndCourierEvents_travel : travst.freeOnDie 5 = none ∧ travst.freeOnDie 0 = some (0, 1) ∧
    (travst.trapVector 0 ((BitVec.ofNat 64 ((0 : BitVec 6144).toNat / 2 ^ (64 * 36))).setWidth 16)).1 = .value 0 ∧
    (travst.getThread 0 0).status = .parked .travel := by decide +kernel

/-- A message at a home's engine, of which `pos` instructions have run: its one instruction is STOP, which no message may hold. -/
def msgst (w : BitVec 128) (pos : Nat) : State :=
  let s := st []
  let m : Courier := ⟨0, 0, 0, 0, 0, 0, true, 1, false, 0x30000, w, 5, 6, 7, 8⟩
  { s with
    outstanding := [{ asked0 with tag := 9, pkg := 0, plane := none, flit := none }]
    cores := [(192, { Core.idle with msgq := [⟨m, 9, pos, #v[0, 0, 0, 0, 5, 6, 7, 8], none, 0, 1⟩] })] }

theorem wit_SpillAndCourierEvents_message : ((msgst 0x54000008 0).getCore 192).msgq.length = 1 ∧
    (((msgst 0x54000008 1).getCore 192).msgq.map fun e => ((msgst 0x54000008 1).msgRun 192 e 5).1) = [none] ∧
    (((msgst 0x54000008 0).getCore 192).msgq.map fun e => ((msgst 0x54000008 0).msgRun 192 e 5).1) = [some (.fail 0x14)] ∧
    (∀ pos < 2, ((msgst 0x54000008 pos).getCore 192).msgq.all (fun e =>
      let r := (msgst 0x54000008 pos).msgRun 192 e 5
      r.2.1.away.isNone && r.2.1.msg.spkg == r.2.2.pkgid && r.2.1.msg == e.msg && r.2.1.tag == e.tag &&
        (r.2.2.requestOf 0 9).isSome) = true) := by
  decide +kernel

/-- The message's turn: an older message of the same thread waits at another engine, or none does. -/
theorem wit_SpillAndCourierEvents_turn : let s := msgst 0x54000008 0
    let older := fun (e : MsgEntry) => { e with place := 0 }
    let t := { s with cores := s.cores ++ [(256, { Core.idle with msgq := (s.getCore 192).msgq.map older })] }
    ((s.getCore 192).msgq.all fun e => !s.outOfTurn e && ((s.msgRun 192 e 5).2.2.getCore 192).msgHeld.isEmpty) = true ∧
      ((t.getCore 192).msgq.all fun e => t.outOfTurn e) = true := by decide +kernel

/-- A core whose eight slots are taken by threads of priority 0, and whose deque holds a task of priority 3 of launch 5; its
slot 7 joins, or spills. -/
def fullst (w : Status) (saves : List Saved) : State :=
  let s := dealst 0 [rec0]
  { s with
    th := { th0 [] with order := 7, status := w }
    core := { s.core with
      slots := Vector.ofFn fun i => { th0 [] with order := i.val }
      saves := saves
      teams := [{ tm0 with members := 8 }] }
    launches := [(1, launch0), (5, { launch0 with prio := 3, ntask := 2, next := 0 })] }

theorem wit_SpillAndCourierEvents_spill : (fullst .ready []).spillNeed 0 = some 3 ∧
    ((fullst .ready []).getCore 0).youngest (((fullst .ready []).getCore 0).victims 3) = some 7 ∧
    (fullst .ready []).spillFor 0 7 = some none ∧ (fullst .ready []).spillReady 0 7 = true := by decide +kernel

/-- The same core with a child of launch 1 in its deque, and slot 7 at a join. -/
def joinst : State :=
  let s := fullst (.parked (.join 0x600 0x10000)) []
  { s with
    core := { s.core with deque := [{ rec0 with lh := 1, thread := true }], teams := [] }
    launches := [(1, { launch0 with poolpart := 0 })] }

theorem wit_SpillAndCourierEvents_join : joinst.joinerToSpill 0 = some 7 ∧ joinst.spillFor 0 7 = some (some 0x10000) ∧
    joinst.spillReady 0 7 = true ∧ (joinst.getThread 0 7).status = .parked (.join 0x600 0x10000) := by decide +kernel

/-- A spill for a slot whose matrix operation is still queued waits. -/
theorem wit_SpillAndCourierEvents_wait : let s := fullst .ready []
    let t := { s with core := { s.core with matq := [{ s.matOp .mzero 3 with slot := 7 }] } }
    t.spillFor 0 7 = some none ∧ t.spillReady 0 7 = false := by decide +kernel

/-- A spilled thread and an empty slot 3. -/
def saved0 : Saved := ⟨th0 [(1, 7)], none, false⟩

def backst : State :=
  let s := fullst .ready [saved0]
  { s with core := { s.core with slots := s.core.slots.set 3 Thread.empty, deque := [] } }

theorem wit_SpillAndCourierEvents_restore : isCmd 0 = false ∧ backst.coreOff 0 = false ∧
    (backst.getCore 0).saves.all (fun x => x.due || x.joins.isNone) = true ∧ backst.restoreNext 0 = some saved0 ∧
    (backst.getCore 0).freeSlots.head? = some 3 ∧ backst.recordFirst 0 saved0 = false ∧
    (backst.getThread 0 3).status = .empty ∧ saved0.thread.status = .ready := by decide +kernel

/-- A thread that waits for an event until cycle 100, which has come, with its second watch entry triggered or not. -/
def evst (t : Bool) : State :=
  let s := st []
  { s with
    th := { s.th with status := .parked (.waitev 4 (some 100)), watch := s.th.watch.set 1 ⟨0x600, true, t, true, 0⟩ }
    core := { s.core with cycle := 100 } }

theorem wit_SpillAndCourierEvents_timers : ((evst true).getThread 0 0).status = .parked (.waitev 4 (some 100)) ∧
    100 ≤ ((evst true).getCore 0).cycle ∧ (evst true).th.triggeredMask = 2 ∧ (evst false).th.triggeredMask = 0 ∧
    ((st []).getThread 0 0).status = .ready := by decide +kernel

/-! Witnesses: engines' events, partitions, traps, the step. -/

/-- The core of `st` with a copy of the team's thread in its queue. -/
def cpst (c : Copy) : State :=
  let s := cst c.geom.dir []
  { s with core := { s.core with copies := [c] } }

/-- A copy of four bytes from 0x10100, of which the bounds hold two, to 0x100 of the pool, with the object at 0x40. -/
def copy0 (dir : Bool) (next : Nat) (kind : CopyKind) (fired : Option Nat) : Copy where
  id := 9
  tid := 0
  team := 0
  ctx := 0
  mode := .user
  pc := 0x10000
  kind := kind
  geom := ⟨0x10100, 0, dir, 0x100, #v[4, 1, 1, 1], #v[1, 0, 0, 0], #v[0, 0, 0, 0], #v[0, 0, 0, 0], #v[2, 1, 1, 1], 0xEE⟩
  bo := 0x40
  level := .near
  next := next
  fired := fired
  stopped := false
  dev := 0
  hst := 0

theorem poolReady_of (s : State) (c : CoreId) (n : Nat) (h : isCmd c = false ∧ (∃ tm, s.teamAt c n = some tm ∧ tm.pool.wf = true) ∧
    ∀ x ∈ (s.getCore c).teams, x.ckpt.isOpen = false) : PoolReady s c n := by
  rw [PoolReady, h.1]
  exact ⟨h.2.1, fun x hx _ => h.2.2 x hx⟩

theorem calm_cpst (c) : Calm (cpst c) := calm_of _ rfl

theorem ready_cpst (d n k f) : PoolReady (cpst (copy0 d n k f)) 0 0 :=
  poolReady_of _ _ _ ⟨rfl, ⟨{ tm0 with gang := [0, 1], pool := cursors }, by cases d <;> rfl, by decide +kernel⟩,
    fun x hx => by cases d <;> (rw [List.mem_singleton.1 hx]; rfl)⟩

theorem wit_CopyEvents_notice : -(2 ^ 31) ≤ ((cpst (copy0 false 0 .cpy none)).barObj 0 0 0x40).bytes - (4 : Nat) ∧
    (st []).copyAt 0 9 = none := by decide +kernel

theorem wit_CopyEvents_run : let s := cpst (copy0 false 0 .cpy none)
    s.copyAt 0 9 = some (copy0 false 0 .cpy none) ∧ (∀ p ∈ (s.getCore 0).inflight, p.tid ≠ 0) ∧
    s.receivers 0 (copy0 false 0 .cpy none) = [(0, 0)] ∧
    (List.range 4).map (copy0 false 0 .cpy none).target = [some 0x10100, some 0x10101, none, none] ∧
    (List.range 4).map (s.poolOffset 0 (copy0 false 0 .cpy none)) = [0x100, 0x101, 0x102, 0x103] ∧
    s.isDevMem 0x30100 = true ∧ s.isDevMem 0x30101 = true ∧ s.outstanding = [] ∧ s.missing 0 (copy0 false 0 .cpy none) = false := by
  decide +kernel

/-- A store of the copy's thread that another package has not acknowledged. -/
theorem wit_CopyEvents_held : let o : Outstanding := { asked0 with engine := none, write := some wmsg0 }
    let s := { cpst (copy0 false 0 .cpy none) with outstanding := [o] }
    s.copyAt 0 9 = some (copy0 false 0 .cpy none) ∧ (copy0 false 0 .cpy none).stopped = false ∧
      o.core = 0 ∧ o.tid = (copy0 false 0 .cpy none).tid ∧ o.engine = none ∧ o.write ≠ none := by decide +kernel

theorem wit_CopyEvents_aside (s : State) (hs : s = cpst (copy0 false 0 .cpy none)) :
    ∀ u, EngineAside s u → ∃ p, (u.xlateSpan ⟨0, 0, 0, .user, false⟩ 0x10101 1 .load).1 = .ok [(p, 1)] ∧ p.pa = 0x30101 := by
  intro u hu
  rw [Laws.xlateSpan_aside hu (hs ▸ (calm_cpst _).1) ⟨0, 0, 0, .user, false⟩ rfl _ _ _ (by decide)]
  exact ⟨⟨0x30101, 0x8DF⟩, by subst hs; decide +kernel, rfl⟩

/-- A store of the last element, one that is out of bound, one of a page that is not mapped, and a copy that has moved. -/
theorem wit_CopyEvents_store : let c := { copy0 true 0 .cpy none with geom := { (copy0 true 0 .cpy none).geom with n := #v[1, 1, 1, 1] } }
    let s := cpst c
    s.copyAt 0 9 = some c ∧ c.target 0 = some 0x10100 ∧ s.mem.wf = true ∧
    (s.xlateSpan (c.asid 0) 0x10100 1 .store).1 = .ok [(⟨0x30100, 0x8DF⟩, 1)] ∧ s.dirty = [] ∧
    (copy0 true 3 .cpy none).target 3 = none ∧
    (s.xlateSpan (c.asid 0) 0x20100 1 .store).1 ≠ (s.xlateSpan (c.asid 0) 0x10100 1 .store).1 ∧
    -(2 ^ 31) ≤ ((cpst (copy0 false 4 .cpy none)).barObj 0 0 0x40).bytes - (1 * 4 : Nat) := by decide +kernel

/-- A copy whose page does not translate, and whose element it has not written before. -/
theorem wit_CopyEvents_stops : let c := { copy0 true 0 .cpy none with geom := { (copy0 true 0 .cpy none).geom with base := 0x77770000 } }
    c.target 0 = some 0x77770000 ∧ c.clash 0 0x77770000 = false ∧ (cpst c).copyAt 0 9 = some c ∧
    (match ((cpst c).xlateSpan (c.asid 0) 0x77770000 1 .store).1 with | .ok _ => false | .error f => f.wait.isNone) = true := by
  decide +kernel

/-- A copy into ring 0 that has room, the same ring at a consumer, and the same copy when it has fired. -/
def firest (remote : Bool) : State :=
  let s := gst []
  let r : Ring := ⟨0, 0x1000, 12, 256, 256, 0, none, none, false⟩
  { s with
    core := { s.core with
      copies := [copy0 false 0 (.cpyr 0) none]
      rings := s.core.rings.set 0 (some { r with remote := if remote then some (1, 0) else none }) }
    cores := [(1, { Core.idle with teams := [tm0], rings := Core.idle.rings.set 0 (some r) })] }

theorem wit_CopyEvents_fire : ((firest false).getCore 0).copies = [] ++ copy0 false 0 (.cpyr 0) none :: [] ∧
    ((firest false).getCore 0).rings[0] = some ⟨0, 0x1000, 12, 256, 256, 0, none, none, false⟩ ∧ 256 - 256 + 0 + 4 ≤ 2 ^ 12 ∧
    ((firest true).getCore 0).rings[0] = some ⟨0, 0x1000, 12, 256, 256, 0, some (1, 0), none, false⟩ ∧
    ((firest true).getCore 1).rings[0] = some ⟨0, 0x1000, 12, 256, 256, 0, none, none, false⟩ ∧
    (firest true).targetRing 0 0 = some (1, 0, ⟨0, 0x1000, 12, 256, 256, 0, none, none, false⟩) := by decide +kernel

/-- A matrix operation at the head of the queue, with 4,096 bytes in each of its rings. -/
def mats (k : MatKind) (steps fired : Nat) : State :=
  let s := rst []
  let r : Ring := ⟨0, 0, 12, 4096, 0, 0, none, none, false⟩
  let o := { s.matOp k 3 with aring := 0, bring := 1, steps := steps, fired := fired }
  { s with core := { s.core with matq := [o], rings := #v[some r, some r, none, none, none, none, none, none] } }

theorem wit_MatrixEvents : (∀ k ∈ [MatKind.mma, .mzero, .mload 0, .mdrain 0], ((mats k 2 0).getCore 0).matq.length = 1) ∧
    (mats .mma 2 0).teamAt 0 0 = some tm0 ∧ tm0.pool.wf = true ∧
    (((mats .mma 2 0).getCore 0).matq.map fun o => (o.kind, o.fired + 1, o.steps, o.fmta.toNat / 256 % 4, o.fmtb.toNat / 256 % 4)) = [(.mma, 1, 2, 0, 0)] ∧
    (((mats .mma 2 0).getCore 0).matq.map fun o => (recAB o.fmta, recAB o.fmtb)) = [(some fp32, some fp32)] ∧
    (((mats .mma 2 0).getCore 0).matq.map fun o => (o.aring, o.bring)) = [(0, 1)] ∧
    ((mats .mma 2 0).getCore 0).rings[0] = some ⟨0, 0, 12, 4096, 0, 0, none, none, false⟩ ∧
    ((mats .mma 2 0).getCore 0).rings[1] = some ⟨0, 0, 12, 4096, 0, 0, none, none, false⟩ ∧
    (((mats .mma 2 2).getCore 0).matq.map fun o => (o.isMma, o.fired == o.steps, decide (o.steps ≤ o.fired))) = [(true, true, true)] ∧
    (((mats (.mload 0) 0 0).getCore 0).matq.map fun o => recC o.fmtc) = [some (fp32, .rne, false)] := by
  decide +kernel

/-- A step of MMAS that is the operation's last, with a unit of scales for A from ring 2, zero maps in ring 3, and a producer of
ring 0 of which nothing is under way; and an operation that has no ring to take from. -/
def matz : State :=
  let s := rst []
  let r : Ring := ⟨0, 0, 12, 4096, 0, 0, none, none, false⟩
  let o := { s.matOp .mmas 3 with aring := 0, bring := 1, zring := 3, steps := 2, fired := 1, fmta := 0x207, scalea := 2, scaleb := 5 }
  { s with core := { s.core with
      matq := [o]
      rings := #v[some { r with producer := some (1, 0, 0x40) }, some r, some r, some r, none, none, none, none] } }

theorem wit_MatrixEvents_scaled : ((matz.getCore 0).matq.map fun o => (o.kind, o.fired + 1, o.steps, o.aring, o.bring, o.zring)) =
      [(.mmas, 2, 2, 0, 1, 3)] ∧
    ((matz.getCore 0).matq.map fun o => (recAB o.fmta, recAB o.fmtb, o.scalea.toNat % 8, o.scaleb.toNat % 8, o.fmta.toNat / 256 % 4,
      o.fmtb.toNat / 256 % 4)) = [(some fp32, some fp32, 2, 5, 2, 0)] ∧ ([0, 1, 3, 2] : List (Fin 8)).Nodup ∧
    (∀ n ∈ ([0, 1, 2, 3] : List (Fin 8)), ∃ r, (matz.getCore 0).rings[n] = some r ∧ 4096 ≤ r.written - r.taken) ∧
    matz.teamAt 0 0 = some tm0 ∧ (∀ tid ∈ (matz.getCore 0).tidsOf 0, (matz.threadOf 0 tid).packing = [] ∧
      (∀ p ∈ (matz.getCore 0).staging, p.tid ≠ tid) ∧ ∀ p ∈ (matz.getCore 0).inflight, p.tid ≠ tid) ∧
    (let s := { matz with core := { matz.core with rings := Vector.replicate 8 none } }
     ∀ p ∈ (s.getCore 0).matq, p.isMma = true ∧ (0, 4096) ∈ p.takes ∧ ∀ r, (s.getCore 0).rings[0] = some r → r.written - r.taken < 4096) := by
  refine ⟨by decide +kernel, by decide +kernel, by decide, fun n hn => ?_, by decide +kernel, by decide +kernel, by decide +kernel⟩
  rcases List.mem_cons.1 hn with rfl | hn
  · exact ⟨_, rfl, by decide⟩
  rcases List.mem_cons.1 hn with rfl | hn
  · exact ⟨_, rfl, by decide⟩
  rcases List.mem_cons.1 hn with rfl | hn
  · exact ⟨_, rfl, by decide⟩
  · rw [List.mem_singleton.1 hn]; exact ⟨_, rfl, by decide⟩

theorem wit_MatrixEvents_scaledReady : PoolReady matz 0 0 :=
  poolReady_of _ _ _ ⟨rfl, ⟨tm0, rfl, rfl⟩, fun x hx => by rw [List.mem_singleton.1 hx]; rfl⟩

theorem wit_MatrixEvents_ready (k a b) : PoolReady (mats k a b) 0 0 :=
  poolReady_of _ _ _ ⟨rfl, ⟨tm0, rfl, rfl⟩, fun x hx => by rw [List.mem_singleton.1 hx]; rfl⟩

/-- A collective of the packages `pkgs`, whose four chunks of 16 bytes run from 0x10100 to 0x10200 with marks at 0x10300, and
a link table of which the first four entries are `lt`; every port is up. -/
def cols (lt : Word) (pkgs : Nat) (o : ColOp) : State :=
  let s := colst [{ o with pkgs := BitVec.ofNat 256 pkgs }]
  { s with
    ltStale := false
    ltGen := 3
    fports := s.fports.map fun p => { p with state := 3 }
    linkTable := Vector.ofFn fun i => if i.val < 4 then lt else 0 }

/-- Four live planes. -/
def lt4 : Word := 0x100000000F

def col1 (state nt : Nat) (marks : Map (Nat × Nat × BitVec 32)) : ColOp :=
  { col0 state with src := 0x10100, dst := 0x10200, prog := 0x10300, chunk := 16, ntree := 4, nt := nt,
                    planes := (List.range nt), marks := marks, gen := 3 }

theorem wit_CollectiveEvents_start : let s := cols lt4 3 (col1 1 0 [])
    (s.getCore 0).colq.length = 1 ∧ 1 < (col1 1 0 []).members.length ∧ s.treePlanes (col1 1 0 []) = [0, 1, 2, 3] ∧
    (cols 0 3 (col1 1 0 [])).treePlanes (col1 1 0 []) = [] ∧ 1 ≤ (col1 1 0 []).chunks ∧ (col1 1 0 []).marks = [] ∧
    (col1 1 0 []).children 0 ((col1 1 0 []).rank 0 0) ≠ [] ∧ (cols 0x1000000001 3 (col1 1 0 [])).treePlanes (col1 1 0 []) = [0] ∧
    s.pkgid = 0 ∧ s.ltStale = false ∧ s.ltGen = 3 ∧ (∀ m ∈ [0, 1], ((s.linkTable[m]?).getD 0).getLsbD 36 = true) ∧
    ((((cols 0 3 (col1 1 0 [])).linkTable[(0 : Nat)]?).getD 0).getLsbD 36 = false) ∧ s.fenced.getLsbD (0 / 64) = false ∧
    ({ s with fenced := 1 } : State).fenced.getLsbD (0 / 64) = true := by
  decide +kernel

theorem cols_physByte (lt : Word) (pkgs : Nat) (o : ColOp) : (cols lt pkgs o).physByte = memByte colMem := by
  funext a
  simp [State.physByte, State.backing, State.tileOver, show (cols lt pkgs o).dirty = [] from rfl,
    show (cols lt pkgs o).tiles = [] from rfl, show (cols lt pkgs o).mem = colMem from rfl]

/-- The collective's context translates the page alike, whatever its engine has written outside the tables. -/
theorem cols_xlate (lt : Word) (pkgs : Nat) (o : ColOp) (h1 : o.ctx = 0) (h2 : o.mode = .user) (q : Nat → Prop) (va : Word) (k : Nat)
    (a : Access) (p : Phys) (hn : k ≤ 65536 - va.toNat % 65536)
    (hw : Laws.walkReads (memByte colMem) va 0 0x200000 3 = [0x200000, 0x210000, 0x220008])
    (hc : ∀ i < 16, ¬q (0x100000 + i)) (hr : ∀ e ∈ [0x200000, 0x210000, 0x220008], ∀ i < 8, ¬q (e + i))
    (hx : ((cols lt 1 (col0 1)).xlateSpan ⟨0, 0, 0, .user, false⟩ va k a).1 = .ok [(p, k)]) :
    ∀ u, EngineWrites (cols lt pkgs o) u q → (u.xlateSpan (o.asid 0) va k a).1 = .ok [(p, k)] := by
  intro u hu
  have calm : ∀ n (o : ColOp), Calm (cols lt n o) := fun n o => calm_of _ rfl
  have entry : (cols lt pkgs o).ctxEntry 0 = some ⟨0x100000, 0x200000, 0x300006, 0x300000, 64⟩ := by
    simp only [State.ctxEntry, State.physRead, State.ctxAddr, cols_physByte, show (cols lt pkgs o).ctxtEn = true from rfl,
      show (cols lt pkgs o).ctxtBase = 0x100000 from rfl]
    decide +kernel
  rw [show o.asid 0 = ⟨0, 0, 0, .user, false⟩ by simp [ColOp.asid, h1, h2],
    Laws.xlateSpan_writes hu (calm _ _).1 ⟨0, 0, 0, .user, false⟩ rfl va k a hn
      (by simpa [State.ctxAddr, show (cols lt pkgs o).ctxtBase = 0x100000 from rfl] using hc) fun c he => by
      rw [entry] at he
      obtain rfl := Option.some.inj he
      rw [cols_physByte, hw]
      exact hr]
  exact (Laws.xlateSpan_aside (s := cols lt 1 (col0 1)) (u := cols lt pkgs o) ⟨rfl, fun _ => rfl, id⟩ (calm _ _).1 ⟨0, 0, 0, .user, false⟩ rfl va k a hn).trans hx

theorem wit_CollectiveEvents_status (lt : Word) (pkgs : Nat) (o : ColOp) (h1 : o.ctx = 0) (h2 : o.desc = 0x10000) (h3 : o.mode = .user)
    (hlt : lt = 0 ∨ lt = lt4 ∨ lt = 0x1000000001) : StatusAt (cols lt pkgs o) 0 o 0x30050 := by
  refine ⟨calm_of _ rfl, show colMem.wf = true by decide +kernel, rfl, by decide, Or.inr fun _ _ => rfl, fun u hu => ?_⟩
  refine ⟨⟨0x30050, 0x8DF⟩, ?_, rfl⟩
  rw [h2]
  refine cols_xlate lt pkgs o h1 h3 _ _ _ _ _ (by decide) ?_ (fun _ _ => id) (fun _ _ _ _ => id) ?_ u (Laws.writes_aside hu) <;>
    (obtain rfl | rfl | rfl := hlt <;> decide +kernel)

/-- The segment of a chunk whose elements lie from 0x30000 + `off` on, and its mark. -/
theorem cols_segment (pkgs : Nat) (o : ColOp) (c n : Nat) (hn : n ≤ 4) (hc : c < 4)
    (ho : o.ctx = 0 ∧ o.mode = .user ∧ o.dst = 0x10200 ∧ o.prog = 0x10300 ∧ o.chunk = 16 ∧ o.fmt = 7) :
    SegmentAt (cols lt4 pkgs o) 0 o c n (fun i => 0x30200 + 16 * c + 4 * i) (0x30300 + 8 * c) := by
  obtain ⟨h1, h2, h3, h4, h5, h6⟩ := ho
  have hw : o.w = 4 := by simp [ColOp.w, h6]
  have far : ∀ a, a < 0x30000 ∨ 0x40000 ≤ a → ¬ofChunk o.w n (fun i => 0x30200 + 16 * c + 4 * i) (0x30300 + 8 * c) a := by
    rintro a ha (⟨i, hi, h⟩ | h)
    · rw [hw] at h; dsimp only at h; omega
    · omega
  have page : ∀ (va : Word) (k : Nat) (p : Phys), k ≤ 65536 - va.toNat % 65536 →
      Laws.walkReads (memByte colMem) va 0 0x200000 3 = [0x200000, 0x210000, 0x220008] →
      ((cols lt4 1 (col0 1)).xlateSpan ⟨0, 0, 0, .user, false⟩ va k .store).1 = .ok [(p, k)] →
      ∀ u, EngineWrites (cols lt4 pkgs o) u (ofChunk o.w n (fun i => 0x30200 + 16 * c + 4 * i) (0x30300 + 8 * c)) →
        ∃ q, (u.xlateSpan (o.asid 0) va k .store).1 = .ok [(q, k)] ∧ q.pa = p.pa := fun va k p hk hr hx u hu =>
    ⟨p, cols_xlate lt4 pkgs o h1 h2 _ va k .store p hk hr (fun i hi => far _ (by omega))
      (fun e he i hi => far _ (by simp only [List.mem_cons, List.not_mem_nil, or_false] at he; omega)) hx u hu, rfl⟩
  have places : ∀ c < 4, ∀ i < 4, (cols lt4 1 (col0 1)).isDevMem (0x30200 + 16 * c + 4 * i) = true ∧ let va : Word := 0x10200 + BitVec.ofNat 64 (c * 16 + 4 * i)
      4 ≤ 65536 - va.toNat % 65536 ∧
      Laws.walkReads (memByte colMem) va 0 0x200000 3 = [0x200000, 0x210000, 0x220008] ∧
      ((cols lt4 1 (col0 1)).xlateSpan ⟨0, 0, 0, .user, false⟩ va 4 .store).1 = .ok [(⟨0x30200 + 16 * c + 4 * i, 0x8DF⟩, 4)] := by
    decide +kernel
  have marks : ∀ c < 4, (cols lt4 1 (col0 1)).isDevMem (0x30300 + 8 * c) = true ∧ let va : Word := 0x10300 + BitVec.ofNat 64 (8 * c)
      8 ≤ 65536 - va.toNat % 65536 ∧
      Laws.walkReads (memByte colMem) va 0 0x200000 3 = [0x200000, 0x210000, 0x220008] ∧
      ((cols lt4 1 (col0 1)).xlateSpan ⟨0, 0, 0, .user, false⟩ va 8 .store).1 = .ok [(⟨0x30300 + 8 * c, 0x8DF⟩, 8)] := by
    decide +kernel
  refine ⟨calm_of _ rfl, show colMem.wf = true by decide +kernel, fun i hi => ⟨?_, ?_, Or.inr fun _ _ => rfl, ?_⟩,
    ⟨?_, ?_, Or.inr fun _ _ => rfl, ?_⟩, fun i j _ _ => by dsimp only; omega, fun i hi => by rw [hw]; dsimp only; omega⟩
  · exact (places c hc i (by omega)).1
  · rw [hw]; dsimp only; omega
  · obtain ⟨-, p1, p2, p3⟩ := places c hc i (by omega)
    intro u hu
    obtain ⟨q, hq⟩ := page _ 4 _ p1 p2 p3 u hu
    exact ⟨q, by rw [hw, h3, h5]; exact hq⟩
  · exact (marks c hc).1
  · omega
  · obtain ⟨-, p1, p2, p3⟩ := marks c hc
    rw [h4]
    exact page _ 8 _ p1 p2 p3

/-- The source of chunk 3. -/
theorem cols_source (pkgs : Nat) (o : ColOp) (c n : Nat) (hn : n ≤ 4) (hc : c < 4)
    (ho : o.ctx = 0 ∧ o.mode = .user ∧ o.src = 0x10100 ∧ o.chunk = 16 ∧ o.fmt = 7) :
    SourceAt (cols lt4 pkgs o) 0 o c n fun i => 0x30100 + 16 * c + 4 * i := by
  obtain ⟨h1, h2, h3, h4, h5⟩ := ho
  have hw : o.w = 4 := by simp [ColOp.w, h5]
  have places : ∀ c < 4, ∀ i < 4, let va : Word := 0x10100 + BitVec.ofNat 64 (c * 16 + 4 * i)
      4 ≤ 65536 - va.toNat % 65536 ∧
      Laws.walkReads (memByte colMem) va 0 0x200000 3 = [0x200000, 0x210000, 0x220008] ∧
      (cols lt4 1 (col0 1)).isDevMem (0x30100 + 16 * c + 4 * i) = true ∧
      ((cols lt4 1 (col0 1)).xlateSpan ⟨0, 0, 0, .user, false⟩ va 4 .load).1 = .ok [(⟨0x30100 + 16 * c + 4 * i, 0x8DF⟩, 4)] := by
    decide +kernel
  intro i hi
  obtain ⟨p1, p2, p3, p4⟩ := places c hc i (by omega)
  refine ⟨p3, fun u hu => ⟨⟨0x30100 + 16 * c + 4 * i, 0x8DF⟩, ?_, rfl⟩⟩
  rw [hw, h3, h4]
  exact cols_xlate lt4 pkgs o h1 h2 _ _ _ _ _ p1 p2 (fun _ _ => id) (fun _ _ _ _ => id) p4 u (Laws.writes_aside hu)

/-- Chunk 1 of two trees comes down to a leaf that a descriptor has reached; the descriptor of the peers is the same. -/
theorem wit_CollectiveEvents_down : let o := { col1 2 2 [(1, 1, 1, 3)] with pkgs := 3, met := true }
    let s := cols lt4 3 o
    o.chunks = 4 ∧ o.children 1 (o.rank 1 0) = [] ∧ min o.chunk (o.count * 4 - 1 * o.chunk) = 16 ∧ o.rank 1 0 ≠ 0 ∧ o.markOf 1 = 1 ∧
    o.stat = false ∧ s.colRoom 0 o 1 0 = true ∧ (List.replicate 16 (7 : Byte)).length = 16 ∧
    (let of' := fun (lo n : Nat) => (7 * 2 ^ 8 + 4 * 2 ^ 16 + 5 * 2 ^ 32 + 16 * 2 ^ 64 + 16 * 2 ^ 256 + 3 * 2 ^ 384) / 2 ^ lo % 2 ^ n
     o.kind = of' 0 4 ∧ o.rop = of' 4 4 ∧ o.fmt = of' 8 8 ∧ o.ntree = of' 16 4 ∧ o.pub.toNat = of' 20 1 ∧ o.tag.toNat = of' 32 32 ∧
       o.count = of' 64 40 ∧ o.chunk = of' 256 32 ∧ o.root = of' 288 8 ∧ o.pkgs.toNat = of' 384 256) ∧
    o.kind ≠ 1 % 2 ^ 4 ∧ { o with met := false }.met = false := by decide +kernel

theorem wit_CollectiveEvents_downAt : SegmentAt (cols lt4 3 { col1 2 2 [(1, 1, 1, 3)] with pkgs := 3, met := true }) 0
    { col1 2 2 [(1, 1, 1, 3)] with pkgs := 3, met := true } 1 4 (fun i => 0x30210 + 4 * i) 0x30308 :=
  cols_segment 3 _ 1 4 (by omega) (by omega) ⟨rfl, rfl, rfl, rfl, rfl, rfl⟩

/-- Chunk 3 of four trees comes up to rank 1 of four packages, and chunk 0 to the root of its tree. -/
def colUp : ColOp := { col1 2 4 [] with pkgs := 15, met := true }

theorem wit_CollectiveEvents_up : let s := cols lt4 15 colUp
    colUp.children 3 (colUp.rank 3 0) = [2] ∧ colUp.rank 3 0 = 1 ∧ colUp.markOf 3 = 0 ∧ s.colRoom 0 colUp 3 1 = true ∧
    colUp.rank 0 0 = 0 ∧ colUp.children 0 0 = [1, 2] ∧ colUp.markOf 0 = 0 ∧ s.colRoom 0 colUp 0 2 = true ∧
    (s.getCore 0).colq = [colUp] := by
  decide +kernel

theorem wit_CollectiveEvents_upAt : SourceAt (cols lt4 15 colUp) 0 colUp 3 4 (fun i => 0x30130 + 4 * i) ∧
    SourceAt (cols lt4 15 colUp) 0 colUp 0 4 (fun i => 0x30100 + 4 * i) ∧
    SegmentAt (cols lt4 15 colUp) 0 colUp 0 4 (fun i => 0x30200 + 4 * i) 0x30300 ∧ Calm (cols lt4 15 colUp) :=
  ⟨cols_source 15 _ 3 4 (by omega) (by omega) ⟨rfl, rfl, rfl, rfl, rfl⟩, cols_source 15 _ 0 4 (by omega) (by omega) ⟨rfl, rfl, rfl, rfl, rfl⟩,
    cols_segment 15 _ 0 4 (by omega) (by omega) ⟨rfl, rfl, rfl, rfl, rfl, rfl⟩, calm_of _ rfl⟩

/-- Where no element is written, the mark alone is placed. -/
theorem wit_CollectiveEvents_markAt : SegmentAt (cols lt4 15 colUp) 0 colUp 3 0 (fun _ => 0) 0x30318 := by
  have h := cols_segment 15 colUp 3 0 (by omega) (by omega) ⟨rfl, rfl, rfl, rfl, rfl, rfl⟩
  have same : ∀ q, ofChunk colUp.w 0 (fun _ => 0) 0x30318 q ↔ ofChunk colUp.w 0 (fun i => 0x30200 + 16 * 3 + 4 * i) (0x30300 + 8 * 3) q := by
    intro q; simp [ofChunk]
  obtain ⟨a, b, -, ⟨d1, d2, d3, d4⟩, -, -⟩ := h
  exact ⟨a, b, fun i hi => by omega, ⟨d1, d2, d3, fun u hu => d4 u (by
    rwa [show ofChunk colUp.w 0 (fun _ => 0) 0x30318 = ofChunk colUp.w 0 (fun i => 0x30200 + 16 * 3 + 4 * i) (0x30300 + 8 * 3) from
      funext fun q => propext (same q)] at hu)⟩, fun i j _ hj => by omega, fun i hi => by omega⟩

/-- A partition 0 of die 0 in state `n`, with a request in progress or not; partition 1 runs on die 1. -/
def parts (n : Nat) (busy : Bool) (req : Nat) (saved : List (CoreId × Core)) : State :=
  let s := st []
  { s with
    harvest := s.harvest.map fun _ => 0
    sramShadow := 1
    parts := (s.parts.set 0 ⟨if n = 0 then 0 else 1, n, busy, false, req, 0, saved, false⟩).set 1 ⟨2, 1, false, false, 0, 0, [], false⟩ }

/-- Two sites, named by the entries 0 and 1. -/
def lockst (second : Nat) : State :=
  let s := st []
  { s with
    harvest := (s.harvest.map fun _ => 0).set 0 3
    lct := [(0, 0x400), (1, BitVec.ofNat 64 second)] }

theorem wit_PartitionEvents : ((lockst 0x401).lctNamed = [(0, 0), (1, 1)] ∧ (lockst 0x401).siteOn 0 1 = true) ∧
    (lockst 0x400).lctNamed = [(0, 0), (1, 0)] ∧ (lockst 0x401).lctLock = false ∧
    (parts 0 false 0 []).parts[1].state = 1 ∧ (2 : BitVec 16) &&& 2 ≠ 0 ∧ (1 : BitVec 16) &&& 2 = 0 ∧
    (parts 1 false 0 []).launches = [] ∧ (lst []).launches = [(1, launch0)] ∧ launch0.partn = 0 ∧
    (parts 2 false 0 []).parts[0].state = 2 ∧ (parts 3 false 0 []).parts[0].busy = false ∧
    (parts 1 true 1 []).parts[0].busy = true ∧ (parts 1 true 1 []).parts[0].req = 1 ∧
    slotSettled ((st []).getThread 0 0) = true ∧ slotSettled ((lst []).park (.response 3)).th = false ∧
    (parts 2 true 2 []).swapFitsShadow 0 = true ∧ (∀ c ∈ (parts 2 true 2 []).partCores 0, (parts 2 true 2 []).saveReady c = true) ∧
    (parts 3 true 3 []).parts[0].viaMem = false ∧ (parts 1 false 0 []).parts[0].busy = false ∧
    (∃ c ∈ (parts 2 false 0 []).coreList, (parts 2 false 0 []).inPart 0 c = true ∧ (parts 2 false 0 []).lostDies.getLsbD (c / 64) = false ∧
      (parts 2 false 0 []).fenced.getLsbD (c / 64) = false) := by decide +kernel

theorem wit_PartitionEvents_ordered : CoresOrdered (parts 2 true 2 []) ∧ ∀ c ∈ (parts 2 true 2 []).partCores 0,
    ((parts 2 true 2 []).getCore c).staging = [] ∧ ((parts 2 true 2 []).getCore c).stagedAt = [] ∧
      ((parts 2 true 2 []).getCore c).msgHeld = [] ∧ (∀ o ∈ ((parts 2 true 2 []).getCore c).threads, o.packing = []) ∧
      ∀ tm ∈ ((parts 2 true 2 []).getCore c).teams, tm.ckpt.isOpen = false := by
  unfold CoresOrdered; decide +kernel

/-- A core of the partition in the core's queue of collectives. -/
theorem wit_PartitionEvents_collective : let s := { parts 2 false 0 [] with core := { (st []).core with colq := [col0 2] } }
    ∃ c ∈ s.coreList, s.inPart 0 c = true ∧ ∃ o ∈ (s.getCore c).colq, o.state = 2 ∨ o.state = 3 := by decide +kernel

theorem wit_PartitionEvents_full : ((lockst 0x401).lctNamed.map (·.1) = List.range 2) ∧
    ((lockst 0x401).lctNamed.map (·.2)).Nodup ∧ ∀ d < 16, ∀ k < 36, (lockst 0x401).siteOn d k = true → (d, k) = (0, 0) ∨ (d, k) = (0, 1) := by
  refine ⟨by decide +kernel, by decide +kernel, ?_⟩
  decide +kernel

theorem wit_PartitionEvents_swapin (h : Nat) : (parts 3 true 3 [(0, (st []).core)]).isAborted h = false := rfl

theorem wit_TrapResults : (st []).th.xcause.getLsbD 9 = false ∧ (st []).th.xvec ≠ 0 ∧ (st []).th.mode = .user ∧
    privileged false .eret = true ∧ isCmd (st []).loc = false ∧ writableReg .slotid = false ∧ (1 : Fin 8) ≠ 0 ∧ isCmd (onCmd (st [])).loc = true ∧     isCmd (st []).loc = false ∧ (st []).th.allot ≤ (31 : VReg).val ∧ State.reset.th.xvec = 0 ∧
    mapGet (lst []).launches (lst []).th.lh = some launch0 ∧ launch0.aborted = false ∧ (sup (st [])).th.mode = .supervisor := by
  decide +kernel

theorem wit_TrapResults_coreOnly : coreOnly (.vadd 1 2 3 0 .i32) := by
  unfold coreOnly; decide +kernel

theorem wit_TrapResults_allot : let s := (st []).onTh fun t => { t with allot := 8 }
    (7 : VReg).val < s.th.allot ∧ s.th.allot ≤ (8 : VReg).val := by decide +kernel

theorem wit_PoisonParks : (poisoned 0).th.regs.rxp 1 = some 5 ∧ isCmd (poisoned 0).loc = false ∧
    (sup (poisoned 0)).th.mode = .supervisor ∧ ∀ e ∈ (poisoned 0).th.held, e.raised = true := by decide +kernel

/-- A core whose turn it is, with a line of instructions in memory or in its instruction cache. -/
def stepst (cached : Bool) : State :=
  let s := st []
  let s := { s with mem := memWrite s.mem 0x30000 4 0x04A63814 }
  { s with
    schedule := [0]
    th := { s.th with pc := 0x10000 }
    core := { s.core with icache := if cached then [(0x600, 0x04A63814)] else [] } }

theorem wit_StepRunsDecodedInstruction (cached : Bool) : let s := stepst cached
    s.powered = true ∧ s.frozen = false ∧ s.agenda = [] ∧ s.rerun = [] ∧ s.schedule = 0 :: [] ∧ (s.getCore 0).stopped = false ∧
    (0 : Fin 8).val = (s.getCore 0).cycle % 8 ∧ (s.getCore 0).dpFree ≤ (s.getCore 0).cycle ∧ (s.getCore 0).claims = [] ∧
    (s.getThread 0 0).status = .ready ∧ (s.getThread 0 0).lastIssue = none ∧ (s.getThread 0 0).skip = 0 ∧
    (s.getThread 0 0).pc.toNat % 4 = 0 ∧ ((s.focus 0 0).xlate (s.focus 0 0).asid 0x10000 4 .fetch).1 = .ok (Laws.extentPhys ex0 0x10000) ∧
    s.isDevMem 0x30000 = true ∧ leRead s.physByte 0x30000 4 = 0x04A63814 ∧
    mapGet (s.getCore 0).icache 0x600 = (if cached then some 0x04A63814 else none) := by
  cases cached <;> decide +kernel

theorem wit_StepRunsDecodedInstruction_calm (cached : Bool) : Calm (stepst cached) ∧ ((stepst cached).getThread 0 0).packing = [] ∧
    ((stepst cached).threadOf 0 ((stepst cached).getThread 0 0).order).packing = [] ∧
    { stepst cached with rerun := [(0, 0)] }.rerun = (0, 0) :: [] := by
  refine ⟨calm_of _ ?_, ?_, ?_, rfl⟩ <;> cases cached <;> decide +kernel

theorem wit_StepRunsDecodedInstruction_other : ({ st [] with powered := false } : State).powered = false ∧
    ({ st [] with agenda := [.linkTrain 3] } : State).agenda = [.linkTrain 3] ∧
    ({ st [] with frozen := true } : State).frozen = true := ⟨rfl, rfl, rfl⟩

theorem wit_DecodeEncodeRoundTrip : (Instr.mulh 5 6 7).hasWord = true ∧ (Instr.mulh 5 6 7).wellFormed = true ∧
    decode 0x04A63814 = .ok (.mulh 5 6 7) := by decide +kernel

theorem wit_StepKeepsMemoryCanonical : CoresOrdered (gst []) ∧ (stepst false).mem.wf = true ∧
    (match step (stepst false) with | .next t => t.th.pc == 0x10004 && t.mem.wf | _ => false) = true := by
  unfold CoresOrdered; decide +kernel

/-! Worked examples of the spec. -/

def copy1 (g : CopyGeom) : Copy := { copy0 false 0 .cpy none with geom := g }

/-- R281: the CRC-32C remainder of the bytes "12345678", then "9". -/
theorem test_crc_remainder : AluFn.eval .crcb (AluFn.eval .crcd 0xFFFFFFFF 0x3837363534333231) 0x39 = 0x1CF96D7C := by decide +kernel

/-- R248: 0.421875 and its negative into format 0xE4, in the five modes; 300 and 3 * 2^-10. -/
theorem test_convert_modes : ∀ f, fmt8 0xE4 = some f →
    [Rnd.rne, .rtz, .rup, .rdn, .odd].map (fun r => f.deliver r false (fp32.decode 0x3ED80000)) = [0x36, 0x35, 0x36, 0x35, 0x35] ∧
    [Rnd.rne, .rtz, .rup, .rdn, .odd].map (fun r => f.deliver r false (fp32.decode 0xBED80000)) = [0xB6, 0xB5, 0xB5, 0xB6, 0xB5] ∧
    f.deliver .rne false (.ofInt 300) = 0x7F ∧ f.deliver .rtz false (.ofInt 300) = 0x7E ∧ f.deliver .rne true (.ofInt 300) = 0x7E ∧
    f.deliver .rne false (.fin false 3 (-10) false) = 0x03 := by
  intro f h
  obtain rfl : (⟨1, true, 3, 8, 0x7E, some 0x7F, 0x80, false⟩ : Fmt) = f := by
    have : fmt8 0xE4 = some ⟨1, true, 3, 8, 0x7E, some 0x7F, 0x80, false⟩ := by decide +kernel
    exact Option.some.inj (this.symm.trans h)
  decide +kernel

/-- R255: the accumulator after the four blocks of the example. -/
theorem test_matrix_blocks :
    [[1, 1, 2 ^ 24, 0], [1], [-1], [1, -1]].foldl (fun l b => accBlock ((l.head?).getD 0) (blockSum (b.map FVal.ofInt)) :: l) [] =
      [0x4B800002, 0x4B800002, 0x4B800002, 0x4B800001] := by decide +kernel

/-- R229: of the 32 bytes of the example 12 are fill, and its first and last corners. -/
theorem test_copy_example : let g : CopyGeom :=
      ⟨0x80000, 1, false, 0, #v[8, 2, 1, 1], #v[2, 64, 0, 0], #v[-2, 0, 0, 0], #v[0, 0, 0, 0], #v[5, 2, 1, 1], 0⟩
    let t := (List.range 16).map (copy1 g).target
    (t.filter (·.isNone)).length = 6 ∧ t[2]? = some (some 0x80000) ∧ t[14]? = some (some 0x80048) ∧
    g.badCorner none = none ∧ ({ g with base := 0x1FFFFFFFFFFFF0 } : CopyGeom).badCorner none ≠ none ∧
    ({ g with hi := #v[5, 0, 1, 1], base := 0x1FFFFFFFFFFFF0 } : CopyGeom).badCorner none = none := by decide +kernel

end Sys2Proof.Tests
end

section
/-! PROOF. What package reset leaves, and the package's own events: power and heat, boot, the supervisor strands, and the
readout under FREEZE (R21 to R28, R70). -/

namespace Sys2Proof.Proofs

open Sys2Proof.Machine Sys2Proof.Claims Sys2Proof.Laws

/-! Threads and cores written. -/

/-- A thread reads back as it was written, whether or not it is the current one or on the current core. -/
@[simp] theorem getThread_putThread_same (s : State) (c : CoreId) (sl : Fin 8) (t : Thread) :
    (s.putThread c sl t).getThread c sl = t := by
  by_cases hc : c = s.loc
  · by_cases hs : sl = s.slot
    · simp [State.putThread, State.getThread, hc, hs]
    · simp [State.putThread, State.getThread, State.onCore, State.putCore, State.getCore, State.here, hc, hs]
  · simp [State.putThread, State.getThread, State.onCore, State.putCore, State.getCore, hc]

/-- A state that differs from another at most in its cores and their threads. -/
def OnlyCores (s t : State) : Prop := ∃ k th ks, t = { s with core := k, th := th, cores := ks }

theorem OnlyCores.trans {s t u : State} (a : OnlyCores s t) (b : OnlyCores t u) : OnlyCores s u := by
  obtain ⟨_, _, _, rfl⟩ := a
  obtain ⟨_, _, _, rfl⟩ := b
  exact ⟨_, _, _, rfl⟩

theorem onlyCores_putCore (s : State) (c : CoreId) (k : Core) : OnlyCores s (s.putCore c k) := by
  unfold State.putCore
  split <;> exact ⟨_, _, _, rfl⟩

theorem onlyCores_putThread (s : State) (c : CoreId) (sl : Fin 8) (t : Thread) : OnlyCores s (s.putThread c sl t) := by
  unfold State.putThread
  split
  · exact ⟨_, _, _, rfl⟩
  · exact onlyCores_putCore s c _

/-! Supervisor strands (R70). -/

theorem onlyCores_startStrand (s : State) (n slot : Fin 8) (entry : Word) (ctx : BitVec 16) :
    OnlyCores s (s.startStrand n slot entry ctx) :=
  (onlyCores_putCore s _ _).trans (onlyCores_putThread _ _ _ _)

/-- A slot holds a strand that has just started: ready at its entry, in supervisor mode, every register at its start value. -/
def Begins (t : State) (c : CoreId) (sl : Fin 8) (pc : Word) (x : BitVec 16) : Prop :=
  let h := t.getThread c sl
  h.status = .ready ∧ h.pc = pc ∧ h.mode = .supervisor ∧ h.kind = .strand ∧ h.ctx = x ∧ h.regs = Regs.zero ∧
    h.xpc = 0 ∧ h.xcause = 0 ∧ h.xval = 0 ∧ h.xvec = 0

theorem startStrand_begins (s : State) (n slot : Fin 8) (entry : Word) (ctx : BitVec 16) :
    Begins (s.startStrand n slot entry ctx) (cmdCore n.val) slot entry ctx := by
  unfold Begins State.startStrand
  rw [getThread_putThread_same]
  exact ⟨rfl, rfl, rfl, rfl, rfl, rfl, rfl, rfl, rfl, rfl⟩

theorem commandCoreStart_begins (s : State) (n slot : Fin 8) (entry : Word) (ctx : BitVec 16) (hb : s.bootState = 1)
    (he : (s.getThread (cmdCore n.val) slot).status = .empty) :
    ∃ t, exec (.commandCoreStart n slot entry ctx) s = .next t ∧ Begins t (cmdCore n.val) slot entry ctx := by
  refine ⟨_, ?_, startStrand_begins s n slot entry ctx⟩
  exact congrArg _ (if_pos ⟨hb, he⟩)

/-! Power and heat (R21). -/

/-- An alert takes the next sequence number, and changes nothing else but the alert ring and what leaves the package (R80). -/
theorem alert_rest (s : State) (cls : Byte) (src : Nat) (ctx : BitVec 16) (data : List Word) :
    ∃ held flight lost out, s.alert cls src ctx data =
      { s with alrtSeq := s.alrtSeq + 1, alrtHeld := held, alrtFlight := flight, alrtLost := lost, outbox := out } := by
  unfold State.alert State.alertSend
  dsimp only
  split
  · split <;> exact ⟨_, _, _, _, rfl⟩
  · split <;> exact ⟨_, _, _, _, rfl⟩

/-- A second trip while the wait of the first runs leaves its end where it is. -/
theorem thermalTrip_effect (s : State) (sock : Fin 24) :
    ∃ t, exec (.thermalTrip sock) s = .next t ∧ t.alrtSeq = s.alrtSeq + 1 ∧
      t.thermal = some (s.thermal.getD (s.cycles + 1800000)) ∧ Others s t ∧ t.th = s.th := by
  obtain ⟨held, flight, lost, out, ha⟩ := alert_rest s 0x01 sock.val 0 [w64 sock.val]
  refine ⟨_, rfl, ?_⟩
  rw [ha]
  refine ⟨rfl, ?_, ⟨rfl, rfl, fun _ => rfl, fun _ _ _ => rfl, fun _ => rfl⟩, rfl⟩
  cases s.thermal <;> simp [thermalWait]

theorem thermalReset_of_tripped (s : State) (h : s.thermal ≠ none) : exec .thermalReset s = .next s.packageReset :=
  congrArg _ (if_pos (Option.isSome_iff_ne_none.2 h))

/-! The images of the boot (R22, R23). -/

/-- The checks of an image, in the order in which the one that fails is recorded (log 66). -/
theorem imageCause_eq (s : State) (img : BootImage) :
    s.imageCause img =
      if img.readable = false then 3
      else if img.manifestOk = false then 4
      else if ¬(Config.sm3 img.key = s.fuseKeyHash ∧
        Config.sm2Verify img.key (Config.sm3 img.bytes) img.sigR img.sigS = true) then 1
      else if img.secVersion < s.fuseMinSec then 2
      else 0 := by
  simp [State.imageCause, imp_iff_not_or]

/-- An image passes when it can be read, its manifest is well formed, the fused key signs it and its version is not too low. -/
theorem imageCause_eq_zero_iff (s : State) (img : BootImage) :
    s.imageCause img = 0 ↔
      (img.readable = true ∧ img.manifestOk = true ∧ Config.sm3 img.key = s.fuseKeyHash ∧
        Config.sm2Verify img.key (Config.sm3 img.bytes) img.sigR img.sigS = true) ∧ s.fuseMinSec ≤ img.secVersion := by
  rw [imageCause_eq, ← BitVec.not_lt]
  split_ifs with hr hm hk hv
  · simp [hr]
  · simp [hm]
  · exact iff_of_false (by decide) fun h => h.2 hv
  · exact iff_of_true rfl ⟨⟨Bool.eq_true_of_not_eq_false hr, Bool.eq_true_of_not_eq_false hm, hk⟩, hv⟩
  · exact iff_of_false (by decide) fun ⟨⟨_, _, hs⟩, _⟩ => hk hs

/-- Byte `i` of the number that a list of bytes makes, little-endian (R3). -/
theorem byte_ofBytes (bs : List Byte) (i : Nat) : BitVec.ofNat 8 (ofBytes bs / 256 ^ i) = bs.getD i 0 := by
  induction bs generalizing i with
  | nil => simp [ofBytes]
  | cons b r ih =>
    cases i with
    | zero =>
      apply BitVec.eq_of_toNat_eq
      have := b.isLt
      simp [ofBytes]
      omega
    | succ i =>
      have h : (b.toNat + 256 * ofBytes r) / 256 = ofBytes r := by
        have := b.isLt
        omega
      rw [ofBytes, Nat.pow_succ', ← Nat.div_div_eq_div_mul, h, ih, List.getD_cons_succ]

/-- Loading an image changes nothing but memory. -/
theorem loadImage_rest (s : State) (img : BootImage) : ∃ m, s.loadImage img = { s with mem := m } := by
  unfold State.loadImage
  split <;> exact ⟨_, rfl⟩

/-- An image loaded into device memory reads back byte by byte. -/
theorem memByte_loadImage (s : State) (img : BootImage) (hd : s.isDevMem img.load = true) (hm : s.mem.wf = true)
    (i : Nat) (hi : i < img.bytes.length) : memByte (s.loadImage img).mem (img.load + i) = img.bytes.getD i 0 := by
  rw [State.loadImage, if_pos hd, ← byte_ofBytes]
  exact memByte_memWrite_in _ _ _ _ _ hm hi

/-- The state in which an image has passed: loaded, its digest recorded, and the entry of the first image kept. -/
def acceptImage (s : State) (img : BootImage) : State :=
  { s.loadImage img with
    bootDigests := s.bootDigests ++ [Config.sm3 img.bytes]
    bootNext := s.bootNext + 1
    bootEntry := if s.bootNext = 0 then img.entry else s.bootEntry }

theorem acceptImage_rest (s : State) (img : BootImage) :
    (acceptImage s img).bootState = s.bootState ∧ (acceptImage s img).mem = (s.loadImage img).mem := by
  obtain ⟨m, hl⟩ := loadImage_rest s img
  simp [acceptImage, hl]

theorem bootImageVerify_of_passes (s : State) (img : BootImage) (h0 : s.bootState = 0) (hc : s.imageCause img = 0) :
    exec (.bootImageVerify img) s =
      .next (if img.last then (acceptImage s img).booted.startStrand 0 0 (acceptImage s img).bootEntry 0
        else acceptImage s img) := by
  obtain ⟨m, hl⟩ := loadImage_rest s img
  show execBootImageVerify img s = _
  simp [execBootImageVerify, h0, hc, acceptImage, hl]

theorem bootImageVerify_of_fails (s : State) (img : BootImage) (h0 : s.bootState = 0) (hc : s.imageCause img ≠ 0) :
    exec (.bootImageVerify img) s =
      .next { s with
        bootState := 2, bootImage := BitVec.ofNat 8 s.bootNext, bootCause := BitVec.ofNat 4 (s.imageCause img) } := by
  show execBootImageVerify img s = _
  simp [execBootImageVerify, h0]

/-- A passed image: what the boot records, and the strand of command core 0 once the last image has passed. -/
theorem bootImage_passes (s : State) (img : BootImage) (h0 : s.bootState = 0) (hc : s.imageCause img = 0) :
    ∃ t, exec (.bootImageVerify img) s = .next t ∧ t.bootDigests = s.bootDigests ++ [Config.sm3 img.bytes] ∧
      t.bootNext = s.bootNext + 1 ∧ t.bootEntry = (if s.bootNext = 0 then img.entry else s.bootEntry) ∧
      (s.isDevMem img.load = true → s.mem.wf = true → ∀ i < img.bytes.length,
        memByte t.mem (img.load + i) = img.bytes.getD i 0) ∧
      (img.last = false → t.bootState = 0) ∧
      (img.last = true → t.bootState = 1 ∧ Begins t (20 * 64) 0 t.bootEntry 0) := by
  obtain ⟨hs, hm⟩ := acceptImage_rest s img
  refine ⟨_, bootImageVerify_of_passes s img h0 hc, ?_⟩
  cases hl : img.last with
  | false =>
    exact ⟨rfl, rfl, rfl, fun hd hw i hi => hm ▸ memByte_loadImage s img hd hw i hi, fun _ => hs.trans h0, nofun⟩
  | true =>
    have hb := startStrand_begins (acceptImage s img).booted 0 0 (acceptImage s img).bootEntry 0
    obtain ⟨k, th, ks, hr⟩ :=
      onlyCores_startStrand (acceptImage s img).booted 0 0 (acceptImage s img).bootEntry 0
    rw [if_pos rfl]
    rw [hr] at hb ⊢
    exact ⟨rfl, rfl, rfl, fun hd hw i hi => hm ▸ memByte_loadImage s img hd hw i hi, nofun, fun _ => ⟨rfl, hb⟩⟩

/-- A failed image: the boot is over, and BOOTST records the image and the cause. -/
theorem bootImage_fails (s : State) (img : BootImage) (h0 : s.bootState = 0) (hc : s.imageCause img ≠ 0) :
    ∃ t, exec (.bootImageVerify img) s = .next t ∧ t.bootState = 2 ∧ t.bootImage = BitVec.ofNat 8 s.bootNext ∧
      t.bootCause = (if img.readable = false then 3 else if img.manifestOk = false then 4
        else if ¬(Config.sm3 img.key = s.fuseKeyHash ∧
          Config.sm2Verify img.key (Config.sm3 img.bytes) img.sigR img.sigS = true) then 1 else 2) := by
  refine ⟨_, bootImageVerify_of_fails s img h0 hc, rfl, rfl, ?_⟩
  rw [imageCause_eq] at hc
  dsimp only
  rw [imageCause_eq]
  split_ifs at hc ⊢
  · rfl
  · rfl
  · rfl
  · exact absurd rfl hc
  · rfl

/-! The readout under FREEZE (R26, R27). -/

theorem readableAlways_iff (sel : Instrument) :
    readableAlways sel = true ↔ (∃ d, sel = .harvest d) ∨ sel = .bootst := by
  cases sel <;> simp [readableAlways]

/-- The doublewords that a readout sends: those of the instrument where it is readable, a 0 where it is not. -/
def readoutWords (s : State) (sel : Instrument) : List Word :=
  if readableAlways sel || s.debugFuse || s.debugToken then s.instrument sel else [0]

theorem freezeReadout_of_frozen (s : State) (sel : Instrument) (h : s.frozen = true) :
    exec (.freezeReadout sel) s = .next (s.out (.readout (readoutWords s sel))) := by
  show execFreezeReadout sel s = _
  cases hr : readableAlways sel || s.debugFuse || s.debugToken <;> simp [execFreezeReadout, readoutWords, h, hr]

/-- An instrument of R27 is readable as it stands; any other only where the fuse or a token authorises it. -/
theorem readout_effect (s : State) (sel : Instrument) (h : s.frozen = true) :
    ∃ ws, exec (.freezeReadout sel) s = .next { s with outbox := s.outbox ++ [.readout ws] } ∧
      (∀ d, sel = .harvest d → ws = [s.harvest[d]]) ∧
      (sel = .bootst → ws = [s.bootst]) ∧
      ((∀ d, sel ≠ .harvest d) → sel ≠ .bootst → s.debugFuse = false → s.debugToken = false → ws = [0]) ∧
      (∀ k sl r, sel = .scalar k sl r → (s.debugFuse = true ∨ s.debugToken = true) →
        ws = [(s.getThread k sl).regs.rx r]) := by
  refine ⟨_, freezeReadout_of_frozen s sel h, ?_, ?_, ?_, ?_⟩
  · rintro d rfl
    rfl
  · rintro rfl
    rfl
  · intro hh hb hf ht
    have hr : readableAlways sel = false := by
      simpa [hh, hb] using readableAlways_iff sel
    simp [readoutWords, hr, hf, ht]
  · rintro k sl r rfl hd
    rcases hd with hd | hd <;> simp [readoutWords, State.instrument, hd]

/-! Package reset (R22). -/

/-- No core differs from an idle one, the current one included. -/
@[simp] theorem reset_getCore (c : CoreId) : State.reset.getCore c = Core.idle := by
  unfold State.getCore
  split <;> rfl

/-- No slot of any core holds a thread (R210). -/
@[simp] theorem reset_getThread (c : CoreId) (sl : Fin 8) : State.reset.getThread c sl = Thread.empty := by
  unfold State.getThread
  split
  · rfl
  · rw [reset_getCore]
    exact Vector.getElem_replicate _

/-- No home holds an entry of any line (R92). -/
@[simp] theorem reset_lineAt (l : Nat) : State.reset.lineAt l = LineEntry.none := rfl

@[simp] theorem reset_hostState (h : Nat) : State.reset.hostState h = 0 := by
  unfold State.hostState
  split <;> rfl

/-- Partition 0 holds every core die and runs; the others are empty (R182). -/
theorem reset_parts (p : Fin 16) :
    State.reset.parts[p] =
      if p = 0 then ⟨0xFFFF, 1, false, false, 0, 0, [], false⟩ else ⟨0, 0, false, false, 0, 0, [], false⟩ := by
  by_cases h : p = 0
  · subst h
    rfl
  · rw [if_neg h]
    exact (Vector.getElem_set_ne (by decide) p.isLt fun e => h (Fin.ext e.symm)).trans (Vector.getElem_replicate p.isLt)

/-! The obligations. -/

/-- Settles O56: the lemmas on cores, threads, lines and partitions after reset; the other fields stand in `State.reset`. -/
theorem resetLeaves : Obligations.ResetLeaves := by
  unfold Obligations.ResetLeaves
  refine ⟨fun c sl => by rw [reset_getThread]; rfl, rfl, rfl, rfl, rfl, rfl, rfl, rfl, ?_, rfl, rfl, rfl, rfl, rfl, rfl, rfl, rfl,
    ?_, ?_, ?_, ?_, fun _ => rfl⟩
  · exact fun n => Vector.getElem_replicate _
  · intro p
    rw [reset_parts]
    split <;> exact ⟨rfl, rfl, rfl, rfl, rfl⟩
  · intro n
    simp [State.reset]
  · intro p
    simp [State.reset]
  · exact fun l => ⟨by simp, rfl, reset_hostState l⟩

/-- Settles O38: one lemma per event; the checks of an image (`imageCause_eq_zero_iff`) decide whether it passes. -/
theorem resetAndBootEvents : Obligations.ResetAndBootEvents := by
  unfold Obligations.ResetAndBootEvents
  refine ⟨fun s sock => ⟨rfl, rfl, thermalReset_of_tripped s, thermalTrip_effect s sock⟩, ?_⟩
  intro s img n slot entry ctx token sel
  refine ⟨fun h0 => ⟨fun hs hv => ?_, fun hn => ?_⟩, commandCoreStart_begins s n slot entry ctx, rfl, rfl, rfl,
    readout_effect s sel⟩
  · exact bootImage_passes s img h0 ((imageCause_eq_zero_iff s img).2 ⟨hs, hv⟩)
  · exact bootImage_fails s img h0 (mt (imageCause_eq_zero_iff s img).1 hn)

end Sys2Proof.Proofs
end

section
/-! PROOF. Cores and threads read after a write: the rules of `getCore` and `getThread` against every operation through which
a core, a thread or all of them are changed. -/

namespace Sys2Proof.Proofs

open Sys2Proof.Machine Sys2Proof.Claims Sys2Proof.Laws

/-! One core written. -/

/-- Every thread is the one in its slot of its core, the current one included. -/
theorem getThread_eq_slot (s : State) (c : CoreId) (sl : Fin 8) : s.getThread c sl = (s.getCore c).slots[sl] := by
  unfold State.getThread
  split
  · next h => simp [State.getCore, State.here, h.1, h.2]
  · rfl

@[simp] theorem getCore_putCore_same (s : State) (c : CoreId) (k : Core) : (s.putCore c k).getCore c = k := by
  by_cases hc : c = s.loc
  · simp [State.putCore, State.getCore, State.here, hc]
  · simp [State.putCore, State.getCore, hc]

theorem getCore_putCore_ne (s : State) (c d : CoreId) (k : Core) (h : d ≠ c) : (s.putCore c k).getCore d = s.getCore d := by
  by_cases hc : c = s.loc
  · have hd : d ≠ s.loc := hc ▸ h
    simp [State.putCore, State.getCore, hc, hd]
  · by_cases hd : d = s.loc
    · simp [State.putCore, State.getCore, State.here, hc, hd]
    · simp [State.putCore, State.getCore, hc, hd, mapGet_mapSet_ne _ _ _ _ h]

@[simp] theorem getCore_onCore_same (s : State) (c : CoreId) (f : Core → Core) :
    (s.onCore c f).getCore c = f (s.getCore c) := getCore_putCore_same s c _

theorem getCore_onCore_ne (s : State) (c d : CoreId) (f : Core → Core) (h : d ≠ c) :
    (s.onCore c f).getCore d = s.getCore d := getCore_putCore_ne s c d _ h

theorem getCore_onCore (s : State) (c d : CoreId) (f : Core → Core) :
    (s.onCore c f).getCore d = if d = c then f (s.getCore d) else s.getCore d := by
  split
  · next h => subst h; exact getCore_onCore_same s d f
  · next h => exact getCore_onCore_ne s c d f h

theorem onlyCores_onCore (s : State) (c : CoreId) (f : Core → Core) : OnlyCores s (s.onCore c f) := onlyCores_putCore s c _

theorem onlyCores_mapCores (s : State) (f : CoreId → Core → Core) : OnlyCores s (s.mapCores f) := ⟨_, _, _, rfl⟩

/-! Every core changed. -/

theorem mapGet_map_val {α β : Type} (m : Map α) (f : Nat → α → β) (a : Nat) :
    mapGet (m.map fun p => (p.1, f p.1 p.2)) a = (mapGet m a).map (f a) := by
  induction m with
  | nil => rfl
  | cons p r ih =>
    obtain ⟨k, v⟩ := p
    by_cases h : k = a
    · subst h; simp [mapGet]
    · simpa [mapGet, h] using ih

theorem mapGet_eq_none_iff {α : Type} (m : Map α) (a : Nat) : mapGet m a = none ↔ a ∉ m.map (·.1) := by
  induction m with
  | nil => simp
  | cons p r ih =>
    obtain ⟨k, v⟩ := p
    by_cases h : k = a
    · simp [mapGet, h]
    · simp [mapGet, h, ih, Ne.symm h]

/-- A core of which the state keeps nothing is idle. -/
theorem getCore_of_not_mem (s : State) (c : CoreId) (h : c ∉ s.coreList) : s.getCore c = Core.idle := by
  simp only [State.coreList, List.mem_cons, not_or] at h
  obtain ⟨hl, hm⟩ := h
  simp [State.getCore, hl, (mapGet_eq_none_iff s.cores c).2 hm]

theorem getCore_mapCores (s : State) (f : CoreId → Core → Core) (c : CoreId) :
    (s.mapCores f).getCore c = if c ∈ s.coreList then f c (s.getCore c) else Core.idle := by
  by_cases hc : c = s.loc
  · simp [State.mapCores, State.getCore, State.here, State.coreList, hc]
  · have hm := mapGet_eq_none_iff s.cores c
    simp only [State.mapCores, State.getCore, mapGet_map_val, State.coreList, List.mem_cons, hc, false_or, if_false]
    cases h : mapGet s.cores c with
    | none => simp [hm.1 h]
    | some k =>
      have hk : c ∈ s.cores.map (·.1) := by
        by_contra hn
        exact absurd (hm.2 hn) (by simp [h])
      simp [hk]

/-- A change that leaves an idle core idle reaches every core. -/
theorem getCore_mapCores_of_idle (s : State) (f : CoreId → Core → Core) (c : CoreId) (h : f c Core.idle = Core.idle) :
    (s.mapCores f).getCore c = f c (s.getCore c) := by
  rw [getCore_mapCores]
  split
  · rfl
  · next hc => rw [getCore_of_not_mem s c hc, h]

/-! Every thread changed. -/

theorem getThread_mapThreads (s : State) (f : CoreId → Fin 8 → Thread → Thread) (c : CoreId) (sl : Fin 8)
    (h : f c sl Thread.empty = Thread.empty) : (s.mapThreads f).getThread c sl = f c sl (s.getThread c sl) := by
  rw [getThread_eq_slot, getThread_eq_slot, State.mapThreads, getCore_mapCores]
  split
  · simp
  · next hc =>
    have he : ∀ i : Fin 8, Core.idle.slots[i] = Thread.empty := fun i => Vector.getElem_replicate _
    rw [getCore_of_not_mem s c hc, he, h]

@[simp] theorem getThread_retry (s : State) (p : Wait → Bool) (c : CoreId) (sl : Fin 8) :
    (s.retry p).getThread c sl = (s.getThread c sl).retryIf p := getThread_mapThreads s _ c sl rfl

theorem retryIf_of_parked (t : Thread) (p : Wait → Bool) (w : Wait) (h : t.status = .parked w) (hp : p w = true) :
    t.retryIf p = { t with status := .ready } := by simp [Thread.retryIf, h, hp]

theorem retryIf_of_ready (t : Thread) (p : Wait → Bool) (h : t.status = .ready) : t.retryIf p = t := by
  simp [Thread.retryIf, h]

theorem retry_rest (s : State) (p : Wait → Bool) : OnlyCores s (s.retry p) := ⟨_, _, _, rfl⟩

/-- Held requests that are served run again. -/
theorem getThread_serveHeld (s : State) (p : Wait → Bool) (c : CoreId) (sl : Fin 8) :
    ∃ q : Wait → Bool, (∀ w, p w = true → q w = true) ∧ (s.serveHeld p).getThread c sl = (s.getThread c sl).retryIf q :=
  ⟨_, fun w h => by simp [h], getThread_retry s _ c sl⟩

/-- What serving held requests leaves alone. -/
theorem serveHeld_rest (s : State) (p : Wait → Bool) : ∃ k th ks rr, s.serveHeld p =
    { s with core := k, th := th, cores := ks, rerun := rr, holdings := s.holdings.filter fun h => !p h.wait } :=
  ⟨_, _, _, _, rfl⟩

end Sys2Proof.Proofs
end

section
/-! PROOF. In-package links, holding entries and alleys (R31, R32, R36, R38, R53): what a link, the gateway and the requests do
outside the cores, and the events of a link. -/

namespace Sys2Proof.Proofs

open Sys2Proof.Machine Sys2Proof.Claims Sys2Proof.Laws

/-! What happens outside the cores. -/

/-- A step of the links, the ports and the gateway: only they, and what is due or sent, differ; what was due stays due, and what
was sent stays sent. -/
structure Outer (s t : State) : Prop where
  rest : ∃ ob ag hh li fp fl re aw os sq he fi lo pe, t = { s with
    outbox := ob, agenda := ag, hostHeld := hh, links := li, fports := fp, flows := fl, responses := re, awayReqs := aw
    outstanding := os, alrtSeq := sq, alrtHeld := he, alrtFlight := fi, alrtLost := lo, ltPending := pe }
  due : s.agenda <+: t.agenda
  sent : s.outbox <+: t.outbox

namespace Outer

variable {s t u : State}

theorem refl (s : State) : Outer s s :=
  ⟨⟨_, _, _, _, _, _, _, _, _, _, _, _, _, _, rfl⟩, List.prefix_rfl, List.prefix_rfl⟩

theorem trans (a : Outer s t) (b : Outer t u) : Outer s u := by
  refine ⟨?_, a.due.trans b.due, a.sent.trans b.sent⟩
  obtain ⟨_, _, _, _, _, _, _, _, _, _, _, _, _, _, ha⟩ := a.rest
  obtain ⟨_, _, _, _, _, _, _, _, _, _, _, _, _, _, hb⟩ := b.rest
  exact ⟨_, _, _, _, _, _, _, _, _, _, _, _, _, _, by rw [hb, ha]⟩

/-- Nothing that runs differs. -/
theorem undisturbed (h : Outer s t) : Undisturbed s t := by
  obtain ⟨_, _, _, _, _, _, _, _, _, _, _, _, _, _, rfl⟩ := h.rest
  exact ⟨rfl, rfl, rfl, rfl, rfl, fun _ => rfl⟩

theorem pkgid (h : Outer s t) : t.pkgid = s.pkgid := by
  obtain ⟨_, _, _, _, _, _, _, _, _, _, _, _, _, _, rfl⟩ := h.rest
  rfl

theorem foldl {α : Type} (f : State → α → State) (h : ∀ s a, Outer s (f s a)) (l : List α) (s : State) : Outer s (l.foldl f s) :=
  List.foldlRecOn l f (refl s) fun t ht a _ => ht.trans (h t a)

end Outer

/-- The only difference is that more is due. -/
def OnlyDue (s t : State) : Prop := ∃ a, t = { s with agenda := s.agenda ++ a }

namespace OnlyDue

variable {s t u : State}

theorem refl (s : State) : OnlyDue s s := ⟨[], by simp⟩

theorem trans (a : OnlyDue s t) (b : OnlyDue t u) : OnlyDue s u := by
  obtain ⟨x, rfl⟩ := a
  obtain ⟨y, rfl⟩ := b
  exact ⟨x ++ y, by simp⟩

theorem later (s : State) (i : Instr) : OnlyDue s (s.later i) := ⟨[i], rfl⟩

theorem foldl {α : Type} (f : State → α → State) (h : ∀ s a, OnlyDue s (f s a)) (l : List α) (s : State) :
    OnlyDue s (l.foldl f s) :=
  List.foldlRecOn l f (refl s) fun t ht a _ => ht.trans (h t a)

theorem outer (h : OnlyDue s t) : Outer s t := by
  obtain ⟨a, rfl⟩ := h
  exact ⟨⟨_, _, _, _, _, _, _, _, _, _, _, _, _, _, rfl⟩, List.prefix_append _ _, List.prefix_rfl⟩

theorem links (h : OnlyDue s t) : t.links = s.links := by
  obtain ⟨a, rfl⟩ := h
  rfl

theorem fports (h : OnlyDue s t) : t.fports = s.fports := by
  obtain ⟨a, rfl⟩ := h
  rfl

theorem responses (h : OnlyDue s t) : t.responses = s.responses := by
  obtain ⟨a, rfl⟩ := h
  rfl

end OnlyDue

/-- Of events that are made due one by one, each is due. -/
theorem mem_agenda_foldl_later {α : Type} (f : α → Instr) (l : List α) (s : State) (x : α) (h : x ∈ l) :
    f x ∈ (l.foldl (fun s a => s.later (f a)) s).agenda := by
  induction l generalizing s with
  | nil => simp at h
  | cons a r ih =>
    rcases List.mem_cons.1 h with rfl | h
    · exact (OnlyDue.foldl _ (fun t b => OnlyDue.later t _) r _).outer.due.subset (by simp)
    · exact ih _ h

theorem outer_out (s : State) (o : Out) : Outer s (s.out o) :=
  ⟨⟨_, _, _, _, _, _, _, _, _, _, _, _, _, _, rfl⟩, List.prefix_rfl, List.prefix_append _ _⟩

theorem outer_requeueHeld (s : State) : Outer s s.requeueHeld :=
  ⟨⟨_, _, _, _, _, _, _, _, _, _, _, _, _, _, rfl⟩, List.prefix_append _ _, List.prefix_rfl⟩

theorem outer_onLink (s : State) (k : Fin 24) (f : Link → Link) : Outer s (s.onLink k f) :=
  ⟨⟨_, _, _, _, _, _, _, _, _, _, _, _, _, _, rfl⟩, List.prefix_rfl, List.prefix_rfl⟩

theorem outer_onPort (s : State) (p : Fin 36) (f : Fport → Fport) : Outer s (s.onPort p f) :=
  ⟨⟨_, _, _, _, _, _, _, _, _, _, _, _, _, _, rfl⟩, List.prefix_rfl, List.prefix_rfl⟩

/-! The fields of a flit (R31). -/

theorem flitField_eq (f : BitVec 2048) (hi lo : Nat) (h : hi ≤ 63) (hl : lo ≤ hi) :
    flitField f hi lo = f.toNat / 2 ^ lo % 2 ^ (hi - lo + 1) := by
  have h64 : 2 ^ 64 = 2 ^ lo * 2 ^ (64 - lo) := by rw [← pow_add]; congr 1; omega
  have hd : 2 ^ (hi - lo + 1) ∣ 2 ^ (64 - lo) := pow_dvd_pow _ (by omega)
  rw [flitField, bits, BitVec.toNat_setWidth, h64, Nat.mod_mul_right_div_self, Nat.mod_mod_of_dvd _ hd]

/-- The check of a flit, as R31 states it. -/
theorem flitGood_iff (f : BitVec 2048) : flitGood f = true ↔
    crc64 ((toBytes 256 f.toNat).take 248) = BitVec.ofNat 64 (f.toNat / 2 ^ 1984) ∧ f.toNat % 8 ≤ 4 := by
  have hnet : flitField f 2 0 = f.toNat % 8 := by simp [flitField_eq f 2 0 (by decide) (by decide)]
  rw [flitGood, hnet]
  simp only [flitBytes, Bool.and_eq_true, beq_iff_eq, decide_eq_true_eq]

theorem seqAfter_iff {n : Nat} (a b : BitVec n) : seqAfter a b = true ↔ a ≠ b ∧ (a - b).toNat < 2 ^ (n - 1) := by
  simp [seqAfter]

theorem mem_unacked_iff {n m : Nat} (ack : BitVec n) (r : List (BitVec n × BitVec m)) (p : BitVec n × BitVec m) :
    p ∈ unacked ack r ↔ p ∈ r ∧ p.1 ≠ ack ∧ (p.1 - ack).toNat < 2 ^ (n - 1) := by
  simp [unacked, seqAfter_iff]

/-! One link. -/

@[simp] theorem links_onLink_same (s : State) (k : Fin 24) (f : Link → Link) : (s.onLink k f).links[k] = f s.links[k] := by
  simp [State.onLink]

theorem onLink_self (s : State) (k : Fin 24) : (s.onLink k fun _ => s.links[k]) = s := by
  simp [State.onLink]

/-- What an answer may do to the port: nothing, or one more flit stands in its replay buffer. -/
def Answers (l m : Link) : Prop :=
  m = l ∨ ∃ f, m = { l with txSeq := l.txSeq + 1, replay := l.replay ++ [(l.txSeq + 1, f)] }

theorem linkAnswer_cases (s : State) (k : Fin 24) (nak : Bool) :
    (nak = false ∧ s.linkAnswer k nak = s) ∨
      ∃ m, Answers s.links[k] m ∧ s.linkAnswer k nak = (s.onLink k fun _ => m).out (.flitAck k s.links[k].rxSeq nak) := by
  unfold State.linkAnswer
  dsimp only
  split_ifs with hfull hnak hlast
  · exact .inr ⟨_, .inl rfl, by rw [onLink_self]⟩
  · exact .inl ⟨Bool.eq_false_of_not_eq_true hnak, rfl⟩
  · exact .inl ⟨by simpa using hlast.1, rfl⟩
  · exact .inr ⟨_, .inr ⟨_, rfl⟩, rfl⟩

/-- An answer leaves what the port has received alone. -/
theorem Answers.received {l m : Link} (h : Answers l m) : m.rxSeq = l.rxSeq ∧ m.fails = l.fails ∧ m.stop = l.stop ∧ m.skid = l.skid ∧
    m.mine = l.mine ∧ m.queue = l.queue := by
  rcases h with rfl | ⟨f, rfl⟩ <;> exact ⟨rfl, rfl, rfl, rfl, rfl, rfl⟩

theorem Answers.replay {l m : Link} (h : Answers l m) (p : BitVec 10 × BitVec 2048) (hp : p ∈ m.replay) :
    p ∈ l.replay ∨ p.1 = l.txSeq + 1 := by
  rcases h with rfl | ⟨f, rfl⟩
  · exact .inl hp
  · rcases List.mem_append.1 hp with hp | hp
    · exact .inl hp
    · rw [List.mem_singleton.1 hp]
      exact .inr rfl

theorem linkAnswer_effect (s : State) (k : Fin 24) (nak : Bool) :
    Outer s (s.linkAnswer k nak) ∧ Answers s.links[k] (s.linkAnswer k nak).links[k] ∧ (s.linkAnswer k nak).agenda = s.agenda ∧
      (nak = true → (s.linkAnswer k nak).outbox = s.outbox ++ [.flitAck k s.links[k].rxSeq true]) := by
  rcases linkAnswer_cases s k nak with ⟨hn, h⟩ | ⟨m, hm, h⟩ <;> rw [h]
  · exact ⟨Outer.refl s, .inl rfl, rfl, fun ht => absurd (hn.symm.trans ht) (by decide)⟩
  · refine ⟨(outer_onLink s k _).trans (outer_out _ _), ?_, rfl, fun ht => by rw [ht]; rfl⟩
    show Answers _ (s.onLink k fun _ => m).links[k]
    rwa [links_onLink_same]

/-! A flit that fails its check (R32). -/

theorem flitReceive_of_bad (s : State) (k : Fin 24) (f : BitVec 2048) (hup : s.links[k].up = true) (hbad : ¬flitGood f = true) :
    ∃ t, exec (.flitReceive k f) s = .next t ∧ Undisturbed s t ∧ t.links[k].fails = s.links[k].fails + 1 ∧
      t.links[k].rxSeq = s.links[k].rxSeq ∧ t.outbox = s.outbox ++ [.flitAck k s.links[k].rxSeq true] ∧
      t.agenda = s.agenda ++ (if 15 ≤ s.links[k].fails then [.portCrcDown k] else []) := by
  have hx : exec (.flitReceive k f) s = .next (
      let t := (s.onLink k fun l => { l with fails := l.fails + 1 }).linkAnswer k true
      if 16 ≤ s.links[k].fails + 1 then t.later (.portCrcDown k) else t) := by
    show execFlitReceive k f s = _
    simp only [execFlitReceive, hup, Bool.eq_false_of_not_eq_true hbad, Bool.not_true, Bool.not_false, Bool.false_eq_true, if_true,
      if_false]
  have hu := outer_onLink s k fun l => { l with fails := l.fails + 1 }
  have hl := links_onLink_same s k fun l => { l with fails := l.fails + 1 }
  have ha : (s.onLink k fun l => { l with fails := l.fails + 1 }).agenda = s.agenda := rfl
  have ho : (s.onLink k fun l => { l with fails := l.fails + 1 }).outbox = s.outbox := rfl
  revert hx hu hl ha ho
  generalize (s.onLink k fun l => { l with fails := l.fails + 1 }) = u
  intro hx hu hl ha ho
  obtain ⟨hout, hans, hag, hob⟩ := linkAnswer_effect u k true
  obtain ⟨hrx, hfails, -⟩ := hans.received
  rw [hl] at hrx hfails
  have hob := hob rfl
  rw [hl, ho] at hob
  refine ⟨_, hx, ?_⟩
  by_cases h15 : 15 ≤ s.links[k].fails
  · have h16 : 16 ≤ s.links[k].fails + 1 := by omega
    simp only [h15, h16, if_true]
    exact ⟨((hu.trans hout).trans (OnlyDue.later _ _).outer).undisturbed, hfails, hrx, hob, by rw [later_agenda, hag, ha]⟩
  · have h16 : ¬16 ≤ s.links[k].fails + 1 := by omega
    simp only [h15, h16, if_false, List.append_nil]
    exact ⟨(hu.trans hout).undisturbed, hfails, hrx, hob, hag.trans ha⟩

/-! A flit accepted in order (R31 to R36). -/

/-- What else happens while a flit is taken: the header fields that it has set on its port stay, and a port at which nothing
waits is left as it is. -/
structure LinkWork (k : Fin 24) (s t : State) : Prop where
  outer : Outer s t
  header : t.links[k].rxSeq = s.links[k].rxSeq ∧ t.links[k].fails = s.links[k].fails ∧ t.links[k].stop = s.links[k].stop
  still : s.links[k].queue = [] → t.links[k] = s.links[k]

namespace LinkWork

variable {k : Fin 24} {s t u : State}

theorem refl (k : Fin 24) (s : State) : LinkWork k s s := ⟨Outer.refl s, ⟨rfl, rfl, rfl⟩, fun _ => rfl⟩

theorem trans (a : LinkWork k s t) (b : LinkWork k t u) : LinkWork k s u := by
  obtain ⟨a1, a2, a3⟩ := a.header
  obtain ⟨b1, b2, b3⟩ := b.header
  refine ⟨a.outer.trans b.outer, ⟨b1.trans a1, b2.trans a2, b3.trans a3⟩, fun h => ?_⟩
  rw [b.still (by rw [a.still h, h]), a.still h]

theorem of_links_eq (h : Outer s t) (hl : t.links = s.links) : LinkWork k s t := by
  refine ⟨h, ?_, ?_⟩ <;> rw [hl]
  · exact ⟨rfl, rfl, rfl⟩
  · exact fun _ => rfl

theorem of_due (h : OnlyDue s t) : LinkWork k s t := of_links_eq h.outer h.links

theorem foldl {α : Type} (f : State → α → State) (h : ∀ s a, LinkWork k s (f s a)) (l : List α) (s : State) :
    LinkWork k s (l.foldl f s) :=
  List.foldlRecOn l f (refl k s) fun t ht a _ => ht.trans (h t a)

end LinkWork

theorem onlyDue_takeResponse (s : State) (pkg : Nat) (m : BitVec 128 × List (BitVec 128)) : OnlyDue s (s.takeResponse pkg m) := by
  unfold State.takeResponse
  dsimp only
  split
  · exact OnlyDue.refl s
  · split
    · exact OnlyDue.refl s
    · split <;> exact OnlyDue.later s _

theorem onlyDue_serveHoldings (s : State) (k : Fin 24) : OnlyDue s (s.serveHoldings k) :=
  OnlyDue.foldl _ (fun t _ => OnlyDue.later t _) _ s

/-- One waiting message leaves or waits on: what the port has received stays. -/
theorem linkOne_effect (s : State) (k : Fin 24) (m : Nat × List (BitVec 128) × Option Instr) :
    Outer s (s.linkOne k m) ∧ (s.linkOne k m).links[k].rxSeq = s.links[k].rxSeq ∧
      (s.linkOne k m).links[k].fails = s.links[k].fails ∧ (s.linkOne k m).links[k].stop = s.links[k].stop := by
  unfold State.linkOne
  dsimp only
  split
  · exact ⟨outer_onLink s k _, by rw [links_onLink_same]; exact ⟨rfl, rfl, rfl⟩⟩
  · generalize hs : State.out _ _ = t
    have ht : Outer s t ∧ t.links[k].rxSeq = s.links[k].rxSeq ∧ t.links[k].fails = s.links[k].fails ∧
        t.links[k].stop = s.links[k].stop := by
      subst hs
      refine ⟨(outer_onLink s k _).trans (outer_out _ _), ?_⟩
      rw [show ∀ (u : State) o, (u.out o).links = u.links from fun _ _ => rfl, links_onLink_same]
      exact ⟨rfl, rfl, rfl⟩
    split
    · exact ⟨ht.1.trans (OnlyDue.later _ _).outer, ht.2⟩
    · exact ht

theorem linkWork_linkPump (s : State) (k : Fin 24) : LinkWork k s (s.linkPump k) := by
  have hfold : ∀ (q : List (Nat × List (BitVec 128) × Option Instr)) (u : State),
      Outer u (q.foldl (fun s m => s.linkOne k m) u) ∧
        (q.foldl (fun s m => s.linkOne k m) u).links[k].rxSeq = u.links[k].rxSeq ∧
        (q.foldl (fun s m => s.linkOne k m) u).links[k].fails = u.links[k].fails ∧
        (q.foldl (fun s m => s.linkOne k m) u).links[k].stop = u.links[k].stop := by
    intro q
    induction q with
    | nil => exact fun u => ⟨Outer.refl u, rfl, rfl, rfl⟩
    | cons m r ih =>
      intro u
      obtain ⟨ho, h1, h2, h3⟩ := linkOne_effect u k m
      obtain ⟨io, i1, i2, i3⟩ := ih (u.linkOne k m)
      exact ⟨ho.trans io, i1.trans h1, i2.trans h2, i3.trans h3⟩
  obtain ⟨ho, h1, h2, h3⟩ := hfold s.links[k].queue (s.onLink k fun l => { l with queue := [] })
  rw [links_onLink_same] at h1 h2 h3
  refine ⟨(outer_onLink s k _).trans ho, ⟨h1, h2, h3⟩, fun hq => ?_⟩
  unfold State.linkPump
  rw [hq]
  simp only [List.foldl_nil, links_onLink_same]
  rw [← hq]

/-! Data flits of other packages at the gateway (R41). -/

/-- A data flit that is taken: its requests and responses are due, and no port or link differs. -/
structure Takes (s t : State) : Prop where
  outer : Outer s t
  links : t.links = s.links
  fports : t.fports = s.fports
  responses : t.responses = s.responses

theorem Takes.refl (s : State) : Takes s s := ⟨Outer.refl s, rfl, rfl, rfl⟩

theorem Takes.trans {s t u : State} (a : Takes s t) (b : Takes t u) : Takes s u :=
  ⟨a.outer.trans b.outer, b.links.trans a.links, b.fports.trans a.fports, b.responses.trans a.responses⟩

theorem Takes.of_due {s t : State} (h : OnlyDue s t) : Takes s t := ⟨h.outer, h.links, h.fports, h.responses⟩

theorem takes_awayReqs (s : State) (l : List AwayReq) : Takes s { s with awayReqs := l } :=
  ⟨⟨⟨_, _, _, _, _, _, _, _, _, _, _, _, _, _, rfl⟩, List.prefix_rfl, List.prefix_rfl⟩, rfl, rfl, rfl⟩

theorem takes_takeRequest (s : State) (pkg vn : Nat) (m : BitVec 128 × List (BitVec 128)) : Takes s (s.takeRequest pkg vn m) := by
  unfold State.takeRequest
  dsimp only
  split
  · split
    · exact (takes_awayReqs s _).trans (.of_due (OnlyDue.later _ _))
    · exact takes_awayReqs s _
  · exact (takes_awayReqs s _).trans (.of_due (OnlyDue.later _ _))

theorem takes_takeData (s : State) (clear : BitVec 2048) : Takes s (s.takeData clear) := by
  unfold State.takeData
  refine List.foldlRecOn _ _ (Takes.refl s) fun t ht m _ => ht.trans ?_
  split
  · exact .of_due (onlyDue_takeResponse t _ m)
  · exact takes_takeRequest t _ _ m

theorem linkWork_drainSkids (s : State) (k : Fin 24) : LinkWork k s (s.drainSkids k) := by
  unfold State.drainSkids
  refine LinkWork.foldl _ (fun t p => ?_) _ s
  have hp := outer_onPort t p fun f => { f with skid := f.skid.filter (!t.passes p ·) : Fport }.decideStop
  refine (LinkWork.of_links_eq hp rfl).trans (LinkWork.foldl _ (fun u c => ?_) _ _)
  have hu := takes_takeData u c
  exact LinkWork.of_links_eq hu.outer hu.links

/-- The port after the header of a flit has acted. -/
theorem linkAccept_fields (f : BitVec 2048) (l : Link) :
    (l.accept f).rxSeq = BitVec.ofNat 10 (flitField f 17 8) ∧ (l.accept f).fails = 0 ∧
      (l.accept f).stop = Vector.ofFn (fun i : Fin 4 => f.getLsbD (30 + i.val)) ∧ (l.accept f).txSeq = l.txSeq ∧
      (l.accept f).queue = l.queue ∧
      (l.accept f).replay =
        if f.getLsbD 28 then unacked (BitVec.ofNat 10 (flitField f 27 18) : BitVec 10) l.replay else l.replay := by
  unfold Link.accept
  dsimp only
  split <;> simp_all

/-- The port after a flit has been taken in order, before it answers. -/
def accepted (s : State) (k : Fin 24) (f : BitVec 2048) : Link :=
  (if flitField f 2 0 = 0 ∧ s.homeFull k.val then
      { s.links[k].accept f with skid := (s.links[k].accept f).skid.set 0 ((s.links[k].accept f).skid[0] + 1) }
    else s.links[k].accept f).decideStop

theorem accepted_fields (s : State) (k : Fin 24) (f : BitVec 2048) :
    (accepted s k f).rxSeq = BitVec.ofNat 10 (flitField f 17 8) ∧ (accepted s k f).fails = 0 ∧
      (accepted s k f).stop = Vector.ofFn (fun i : Fin 4 => f.getLsbD (30 + i.val)) ∧ (accepted s k f).txSeq = s.links[k].txSeq ∧
      (accepted s k f).queue = s.links[k].queue ∧
      (accepted s k f).replay =
        if f.getLsbD 28 then unacked (BitVec.ofNat 10 (flitField f 27 18) : BitVec 10) s.links[k].replay
        else s.links[k].replay := by
  obtain ⟨h1, h2, h3, h4, h5, h6⟩ := linkAccept_fields f s.links[k]
  unfold accepted Link.decideStop
  split <;> exact ⟨h1, h2, h3, h4, h5, h6⟩

/-- What follows the header of a flit taken in order, up to the port's answer. -/
def afterHeader (s : State) (k : Fin 24) (f : BitVec 2048) : State :=
  let opened := s.links[k].stop[1] && !f.getLsbD 31
  let s := s.onLink k fun _ => accepted s k f
  let s := if f.getLsbD 29 then s.later (.flitNakReceive k (BitVec.ofNat 10 (flitField f 27 18))) else s
  let s := if flitField f 2 0 = 2 then (messagesIn 15 (flitSlots f)).foldl (fun s m => s.takeResponse s.pkgid.toNat m) s else s
  let s := s.linkPump k
  if opened then s.serveHoldings k else s

theorem acceptFlit_eq (s : State) (k : Fin 24) (f : BitVec 2048) :
    s.acceptFlit k f = afterHeader s k f ∨ s.acceptFlit k f = (afterHeader s k f).linkAnswer k false := by
  have h : s.acceptFlit k f =
      if flitField f 2 0 = 4 && flitField f 6 3 == 0 then afterHeader s k f else (afterHeader s k f).linkAnswer k false := rfl
  rw [h]
  split
  · exact .inl rfl
  · exact .inr rfl

theorem afterHeader_effect (s : State) (k : Fin 24) (f : BitVec 2048) :
    LinkWork k (s.onLink k fun _ => accepted s k f) (afterHeader s k f) ∧
      (f.getLsbD 29 = true → .flitNakReceive k (BitVec.ofNat 10 (flitField f 27 18)) ∈ (afterHeader s k f).agenda) := by
  unfold afterHeader
  dsimp only
  generalize s.onLink k (fun _ => accepted s k f) = u
  set v := if f.getLsbD 29 then u.later (.flitNakReceive k (BitVec.ofNat 10 (flitField f 27 18))) else u with hv
  have hd : OnlyDue u v := by
    rw [hv]
    split
    · exact OnlyDue.later u _
    · exact OnlyDue.refl u
  have hnak : f.getLsbD 29 = true → .flitNakReceive k (BitVec.ofNat 10 (flitField f 27 18)) ∈ v.agenda := fun h => by
    rw [hv, if_pos h, later_agenda]
    exact List.mem_append_right _ List.mem_cons_self
  have hr : OnlyDue v (if flitField f 2 0 = 2 then
      (messagesIn 15 (flitSlots f)).foldl (fun s m => s.takeResponse s.pkgid.toNat m) v else v) := by
    split
    · exact OnlyDue.foldl _ (fun t m => onlyDue_takeResponse t _ m) _ v
    · exact OnlyDue.refl v
  have hp := (LinkWork.of_due hr).trans (linkWork_linkPump _ k)
  have hs : ∀ (b : Bool) (w : State), LinkWork k w (if b then w.serveHoldings k else w) := fun b w => by
    split
    · exact LinkWork.of_due (onlyDue_serveHoldings w k)
    · exact LinkWork.refl k w
  have hw := hp.trans (hs (s.links[k].stop[1] && !f.getLsbD 31) _)
  exact ⟨(LinkWork.of_due hd).trans hw, fun h => hw.outer.due.subset (hnak h)⟩

theorem flitReceive_of_good (s : State) (k : Fin 24) (f : BitVec 2048) (hup : s.links[k].up = true) (hgood : flitGood f = true)
    (hseq : (BitVec.ofNat 10 (flitField f 17 8) : BitVec 10) = s.links[k].rxSeq + 1) :
    ∃ t, exec (.flitReceive k f) s = .next t ∧ Undisturbed s t ∧ t.links[k].rxSeq = BitVec.ofNat 10 (flitField f 17 8) ∧
      t.links[k].fails = 0 ∧ t.links[k].stop = Vector.ofFn (fun i : Fin 4 => f.getLsbD (30 + i.val)) ∧
      (s.links[k].queue = [] → ∀ p ∈ t.links[k].replay, p.1 = s.links[k].txSeq + 1 ∨ p ∈ (accepted s k f).replay) ∧
      (f.getLsbD 29 = true → .flitNakReceive k (BitVec.ofNat 10 (flitField f 27 18)) ∈ t.agenda) := by
  have hx : exec (.flitReceive k f) s = .next ((s.acceptFlit k f).drainSkids k) := by
    show execFlitReceive k f s = _
    simp only [execFlitReceive, hup, hgood, hseq, Bool.not_true, Bool.false_eq_true, if_false, ne_eq, not_true]
  obtain ⟨hr, hf, hst, htx, hq, -⟩ := accepted_fields s k f
  obtain ⟨hw, hn⟩ := afterHeader_effect s k f
  have ha : Outer (afterHeader s k f) (s.acceptFlit k f) ∧ Answers (afterHeader s k f).links[k] (s.acceptFlit k f).links[k] := by
    rcases acceptFlit_eq s k f with h | h <;> rw [h]
    · exact ⟨Outer.refl _, .inl rfl⟩
    · obtain ⟨h1, h2, -⟩ := linkAnswer_effect (afterHeader s k f) k false
      exact ⟨h1, h2⟩
  have hd := linkWork_drainSkids (s.acceptFlit k f) k
  obtain ⟨w1, w2, w3⟩ := hw.header
  obtain ⟨a1, a2, a3, -, -, a6⟩ := ha.2.received
  obtain ⟨d1, d2, d3⟩ := hd.header
  rw [links_onLink_same] at w1 w2 w3
  refine ⟨_, hx, ((outer_onLink s k _).trans (hw.outer.trans (ha.1.trans hd.outer))).undisturbed,
    d1.trans (a1.trans (w1.trans hr)), d2.trans (a2.trans (w2.trans hf)), d3.trans (a3.trans (w3.trans hst)), ?_,
    fun h => (ha.1.trans hd.outer).due.subset (hn h)⟩
  intro hempty p hp
  have hw' := hw.still (by rw [links_onLink_same, hq, hempty])
  rw [links_onLink_same] at hw'
  rw [hd.still (by rw [a6, hw', hq, hempty])] at hp
  rcases ha.2.replay p hp with hp | hp
  · exact .inr (hw' ▸ hp)
  · exact .inl (by rw [hp, hw', htx])

theorem flitReceive_out_of_order (s : State) (k : Fin 24) (f : BitVec 2048) (hup : s.links[k].up = true) (hgood : flitGood f = true)
    (hseq : (BitVec.ofNat 10 (flitField f 17 8) : BitVec 10) ≠ s.links[k].rxSeq + 1) : exec (.flitReceive k f) s = .next s := by
  show execFlitReceive k f s = _
  simp only [execFlitReceive, hup, hgood, Bool.not_true, Bool.false_eq_true, if_false, ne_eq, hseq, not_false_eq_true, if_true]

/-! A NAK, and a port that goes down (R32, R53). -/

theorem outbox_foldl_out {α : Type} (g : α → Out) (l : List α) (s : State) :
    l.foldl (fun s a => s.out (g a)) s = { s with outbox := s.outbox ++ l.map g } := by
  induction l generalizing s with
  | nil => simp
  | cons a r ih => rw [List.foldl_cons, ih]; simp [State.out]

theorem flitNakReceive_effect (s : State) (k : Fin 24) (ack : BitVec 10) (hup : s.links[k].up = true) :
    exec (.flitNakReceive k ack) s = .next { (s.onLink k fun l => { l with ack := ack, replay := unacked ack l.replay }) with
      outbox := s.outbox ++ (unacked ack s.links[k].replay).map fun p => .flit k p.1 } := by
  show execFlitNakReceive k ack s = _
  simp only [execFlitNakReceive, hup, if_true, State.linkReplay, links_onLink_same, outbox_foldl_out]
  rfl

theorem portCrcDown_effect (s : State) (k : Fin 24) (hup : s.links[k].up = true) :
    exec (.portCrcDown k) s = .next { s with
      links := s.links.set k { s.links[k] with up := false, replay := [], skid := Vector.replicate 4 0, queue := [] },
      agenda := s.agenda ++ [.splitDetect (s.liveMask &&& ~~~(BitVec.ofNat 24 (2 ^ k.val)))] } := by
  show execPortCrcDown k s = _
  simp only [execPortCrcDown, hup, Bool.not_true, Bool.false_eq_true, if_false]
  rfl

/-! Holding entries (R36). -/

theorem onlyCores_physByte {s t : State} (h : OnlyCores s t) (a : Nat) : t.physByte a = s.physByte a := by
  obtain ⟨_, _, _, rfl⟩ := h
  rfl

/-- A link whose skid buffer of network 0 has drained. -/
def drained (l : Link) : Link := ({ l with skid := l.skid.set 0 0 } : Link).decideStop

theorem drained_fields (l : Link) : (drained l).skid[0] = 0 ∧ (drained l).mine[0] = false := by
  simp [drained, Link.decideStop]

theorem drainSkid_eq (s : State) (k : Fin 24) : s.drainSkid k =
    if (s.onLink k drained).links[k].mine = s.links[k].mine then s.onLink k drained
    else (s.onLink k drained).linkAnswer k false := rfl

/-- The skid buffer of a home drains, and no STOP of network 0 stands. -/
theorem drainSkid_effect (s : State) (k : Fin 24) :
    Outer s (s.drainSkid k) ∧ (s.drainSkid k).links[k].skid[0] = 0 ∧ (s.drainSkid k).links[k].mine[0] = false ∧
      (s.drainSkid k).agenda = s.agenda ∧ (s.drainSkid k).hostHeld = s.hostHeld ∧ (s.drainSkid k).holdings = s.holdings := by
  obtain ⟨hsk, hmi⟩ := drained_fields s.links[k]
  rw [← links_onLink_same s k drained] at hsk hmi
  have ho := outer_onLink s k drained
  rw [drainSkid_eq]
  split
  · exact ⟨ho, hsk, hmi, rfl, rfl, rfl⟩
  · obtain ⟨a1, a2, a3, -⟩ := linkAnswer_effect (s.onLink k drained) k false
    obtain ⟨-, -, -, a4, a5, -⟩ := a2.received
    refine ⟨ho.trans a1, (congrArg (·[0]) a4).trans hsk, (congrArg (·[0]) a5).trans hmi, a3, ?_, ?_⟩
    · rcases linkAnswer_cases (s.onLink k drained) k false with ⟨_, h⟩ | ⟨m, _, h⟩ <;> rw [h] <;> rfl
    · rcases linkAnswer_cases (s.onLink k drained) k false with ⟨_, h⟩ | ⟨m, _, h⟩ <;> rw [h] <;> rfl

theorem holdingEntryServe_effect (s : State) (k : Fin 24) (cls : HoldClass) (h : Holding)
    (hf : (s.holdings.find? fun h => h.home == k.val && h.cls == cls) = some h) :
    ∃ t, exec (.holdingEntryServe k cls) s = .next t ∧ (∀ x, x ∈ t.holdings ↔ x ∈ s.holdings ∧ x.wait ≠ h.wait) ∧
      t.links[k].skid[0] = 0 ∧ t.links[k].mine[0] = false ∧ t.agenda = s.agenda ++ s.hostHeld ∧ t.hostHeld = [] ∧
      (∀ p, t.physByte p = s.physByte p) ∧
      ∀ c sl, (s.getThread c sl).status = .parked h.wait → (t.getThread c sl).status = .ready := by
  have hx : exec (.holdingEntryServe k cls) s =
      .next (((s.serveHeld fun w => w == h.wait).requeueHeld).drainSkid k) := by
    show execHoldingEntryServe k cls s = _
    simp only [execHoldingEntryServe, hf]
  obtain ⟨core, th, cores, rr, hsv⟩ := serveHeld_rest s fun w => w == h.wait
  obtain ⟨ho, hsk, hmi, hag, hhe, hho⟩ := drainSkid_effect ((s.serveHeld fun w => w == h.wait).requeueHeld) k
  obtain ⟨u1, u2, u3, u4, u5, u6⟩ := ho.undisturbed
  refine ⟨_, hx, fun x => ?_, hsk, hmi, ?_, hhe, fun p => (u6 p).trans (by rw [hsv]; rfl), fun c sl hp => ?_⟩
  · rw [hho, hsv]
    simp [State.requeueHeld]
  · rw [hag, hsv]
    rfl
  · obtain ⟨q, hq, hth⟩ := getThread_serveHeld s (fun w => w == h.wait) c sl
    have : (((s.serveHeld fun w => w == h.wait).requeueHeld).drainSkid k).getThread c sl =
        (s.serveHeld fun w => w == h.wait).getThread c sl := by
      simp only [State.getThread, State.getCore, State.here, u1, u2, u3, u4, u5]
      rfl
    rw [this, hth, retryIf_of_parked _ _ _ hp (hq _ (by simp))]

/-- Settles O40: one lemma per event of a link; a flit is bad, out of order, or taken. -/
theorem linkEvents : Obligations.LinkEvents := by
  unfold Obligations.LinkEvents
  intro s k f ack cls a b
  refine ⟨fun hup => ⟨fun hbad => ?_, fun hg hs => ?_, fun hg hs => ?_, ?_, portCrcDown_effect s k hup⟩, fun hn => ?_,
    fun h hf => holdingEntryServe_effect s k cls h hf, rfl⟩
  · exact flitReceive_of_bad s k f hup (mt (flitGood_iff f).1 hbad)
  · exact flitReceive_out_of_order s k f hup ((flitGood_iff f).2 hg) (by rwa [flitField_eq f 17 8 (by decide) (by decide)])
  · have h := flitReceive_of_good s k f hup ((flitGood_iff f).2 hg) (by rwa [flitField_eq f 17 8 (by decide) (by decide)])
    obtain ⟨-, -, -, -, -, hrep⟩ := accepted_fields s k f
    rw [flitField_eq f 17 8 (by decide) (by decide), flitField_eq f 27 18 (by decide) (by decide)] at h
    obtain ⟨t, hx, hu, h1, h2, h3, h4, h5⟩ := h
    refine ⟨t, hx, hu, h1, h2, fun i => by rw [h3]; simp, fun hq p hp => ?_, h5⟩
    refine (h4 hq p hp).imp_right fun hp => ?_
    rw [hrep, flitField_eq f 27 18 (by decide) (by decide)] at hp
    split at hp
    · next h28 =>
      obtain ⟨hm, hne, hlt⟩ := (mem_unacked_iff _ _ _).1 hp
      exact ⟨hm, fun _ => ⟨hne, hlt⟩⟩
    · next h28 => exact ⟨hp, fun h => absurd h h28⟩
  · refine ⟨_, flitNakReceive_effect s k ack hup, ⟨rfl, rfl, rfl, rfl, rfl, fun _ => rfl⟩, rfl, fun p hp hn => ?_, fun p hp => ?_⟩
    · have hm := (mem_unacked_iff ack s.links[k].replay p).2 ⟨hp, hn⟩
      exact ⟨by simpa [State.onLink] using hm, List.mem_append_right _ (List.mem_map.2 ⟨p, hm, rfl⟩)⟩
    · exact (mem_unacked_iff ack s.links[k].replay p).1 (by simpa [State.onLink] using hp)
  · show execHoldingEntryServe k cls s = _
    simp only [execHoldingEntryServe]
    rw [hn]

end Sys2Proof.Proofs
end

section
/-! PROOF. Scale-up ports (R40, R41, R44 to R50): what sending does to a port, what the events of a port leave unchanged, and
the events themselves. -/

namespace Sys2Proof.Proofs

open Sys2Proof.Machine Sys2Proof.Claims Sys2Proof.Laws

/-! Sending on a port. -/

@[simp] theorem fports_onPort_same (s : State) (p : Fin 36) (f : Fport → Fport) : (s.onPort p f).fports[p] = f s.fports[p] := by
  simp [State.onPort]

theorem fports_onPort_ne (s : State) (p q : Fin 36) (f : Fport → Fport) (h : q ≠ p) :
    (s.onPort p f).fports[q] = s.fports[q] := by
  have hv : p.val ≠ q.val := fun he => h (Fin.ext he.symm)
  simp [State.onPort, Vector.getElem_set_ne, hv]

/-- What sending, and taking what a flit carries, may change of a port: the sender's counters, what is kept for replay, what is
due, and the skid buffers. -/
def PortSends (f g : Fport) : Prop :=
  ∃ sq ct re kd rn sk mi,
    g = { f with txSeq := sq, txctr := ct, replay := re, keyDue := kd, rxNew := rn, skid := sk, mine := mi }

theorem PortSends.refl (f : Fport) : PortSends f f := ⟨_, _, _, _, _, _, _, rfl⟩

theorem PortSends.trans {f g h : Fport} (a : PortSends f g) (b : PortSends g h) : PortSends f h := by
  obtain ⟨_, _, _, _, _, _, _, rfl⟩ := a
  obtain ⟨_, _, _, _, _, _, _, rfl⟩ := b
  exact ⟨_, _, _, _, _, _, _, rfl⟩

/-- The receiver's half of a port is as it was. -/
theorem PortSends.received {f g : Fport} (h : PortSends f g) : g.state = f.state ∧ g.rxSeq = f.rxSeq ∧ g.krx = f.krx ∧
    g.rxctr = f.rxctr ∧ g.afail = f.afail ∧ g.exchanging = f.exchanging ∧ g.rekey = f.rekey := by
  obtain ⟨_, _, _, _, _, _, _, rfl⟩ := h
  exact ⟨rfl, rfl, rfl, rfl, rfl, rfl, rfl⟩

/-- The clear form of the flit that a port sends next (R40). -/
def nextClear (f : Fport) (type : Nat) (nak : Bool) (payload : Nat) : BitVec 2048 :=
  BitVec.ofNat 2048 (upHead (f.txSeq + 1) f.rxSeq nak type f.mine + 2 ^ 64 * payload)

/-- The flit that a port sends next (R46). -/
def nextFlit (p : Fin 36) (f : Fport) (type : Nat) (nak : Bool) (payload : Nat) : BitVec 2048 :=
  Config.gcmSeal p.val f.ktx f.txGen f.txctr (nextClear f type nak payload)

/-- A port that has sent a flit (R46, R48). -/
def Fport.sent (f : Fport) (flit : BitVec 2048) : Fport :=
  { f with txSeq := f.txSeq + 1, txctr := f.txctr + 1, replay := f.replay ++ [(f.txSeq + 1, flit)] }

/-- A port that sends nothing: it is not up, its replay buffer is full, or its counter is used up. -/
def Fport.closed (f : Fport) : Prop := f.state ≠ 3 ∨ Config.replayScaleUp ≤ f.replay.length ∨ f.txctr = 0xFFFFFFFF

theorem upSend_of_closed (s : State) (p : Fin 36) (type : Nat) (nak : Bool) (payload : Nat) (h : Fport.closed s.fports[p]) :
    s.upSend p type nak payload = s := if_pos h

/-- A flit that is sent: the port counts it and keeps it, and at two values of the counter more is due. -/
theorem upSend_of_open (s : State) (p : Fin 36) (type : Nat) (nak : Bool) (payload : Nat) (h : ¬Fport.closed s.fports[p]) :
    OnlyDue ((s.onPort p fun f => Fport.sent f (nextFlit p s.fports[p] type nak payload)).out
      (.upFlit p (s.fports[p].txSeq + 1) type (nextFlit p s.fports[p] type nak payload))) (s.upSend p type nak payload) := by
  have he : s.upSend p type nak payload =
      let t := (s.onPort p fun f => Fport.sent f (nextFlit p s.fports[p] type nak payload)).out
        (.upFlit p (s.fports[p].txSeq + 1) type (nextFlit p s.fports[p] type nak payload))
      if s.fports[p].txctr + 1 = 0x80000000 then t.later (.txctrRekeyThreshold p)
      else if s.fports[p].txctr + 1 = 0xFFFFFFFF then t.later (.txctrExhausted p)
      else t := if_neg h
  rw [he]
  dsimp only
  split
  · exact OnlyDue.later _ _
  · split
    · exact OnlyDue.later _ _
    · exact OnlyDue.refl _

/-- A port that can send is not closed. -/
theorem not_closed_of_ready {f : Fport} {vn n : Nat} (h : f.ready vn n = true) : ¬Fport.closed f := by
  simp only [Fport.ready, Bool.and_eq_true, beq_iff_eq, decide_eq_true_eq, bne_iff_ne] at h
  obtain ⟨⟨⟨h1, h2⟩, h3⟩, -⟩ := h
  rintro (h | h | h)
  · exact h h1
  · omega
  · exact h3 h

/-- Flits of no network go out on a port that is up while two places of its replay buffer are free and its counter is not used
up. -/
theorem ready_noVn_iff (f : Fport) :
    f.ready noVn = true ↔ f.state = 3 ∧ f.replay.length + 1 < 1024 ∧ f.txctr ≠ 0xFFFFFFFF := by
  have hn : ((f.stop[noVn]?).getD false) = false := by simp [noVn]
  simp only [Fport.ready, hn, Bool.and_eq_true, beq_iff_eq, decide_eq_true_eq, bne_iff_ne, Bool.not_false, and_true, and_assoc]
  rfl

/-! Steps at one port. -/

/-- A step at a port: outside the cores, and another port changes only where a response that waited leaves on it. -/
structure AtPort (p : Fin 36) (s t : State) : Prop where
  outer : Outer s t
  others : s.responses = [] → t.responses = [] ∧ ∀ q : Fin 36, q ≠ p → t.fports[q] = s.fports[q]

/-- A step at a port that leaves the receiver's half of the port as it is. -/
structure PortWork (p : Fin 36) (s t : State) : Prop extends AtPort p s t where
  port : PortSends s.fports[p] t.fports[p]

namespace AtPort

variable {p : Fin 36} {s t u : State}

theorem trans (a : AtPort p s t) (b : AtPort p t u) : AtPort p s u := by
  refine ⟨a.outer.trans b.outer, fun h => ?_⟩
  obtain ⟨a1, a2⟩ := a.others h
  obtain ⟨b1, b2⟩ := b.others a1
  exact ⟨b1, fun q hq => (b2 q hq).trans (a2 q hq)⟩

theorem of_fports_eq (h : Outer s t) (hf : t.fports = s.fports) (hr : s.responses = [] → t.responses = []) : AtPort p s t := by
  refine ⟨h, ?_⟩
  rw [hf]
  exact fun h => ⟨hr h, fun _ _ => rfl⟩

theorem onPort (s : State) (f : Fport → Fport) : AtPort p s (s.onPort p f) :=
  ⟨outer_onPort s p f, fun hr => ⟨hr, fun q hq => fports_onPort_ne s p q f hq⟩⟩

/-- What the claims about a port ask for of the rest. -/
theorem rest (h : AtPort p s t) :
    Undisturbed s t ∧ (s.responses = [] → ∀ q : Fin 36, q ≠ p → t.fports[q] = s.fports[q]) :=
  ⟨h.outer.undisturbed, fun hr => (h.others hr).2⟩

end AtPort

namespace PortWork

variable {p : Fin 36} {s t u : State}

theorem refl (p : Fin 36) (s : State) : PortWork p s s := 
  ⟨AtPort.of_fports_eq (Outer.refl s) rfl fun h => h, PortSends.refl _⟩

theorem trans (a : PortWork p s t) (b : PortWork p t u) : PortWork p s u :=
  ⟨a.toAtPort.trans b.toAtPort, a.port.trans b.port⟩

theorem of_fports_eq (h : Outer s t) (hf : t.fports = s.fports) (hr : t.responses = s.responses) : PortWork p s t :=
  ⟨AtPort.of_fports_eq h hf hr.trans, by rw [hf]; exact PortSends.refl _⟩

theorem of_due (h : OnlyDue s t) : PortWork p s t := of_fports_eq h.outer h.fports h.responses

theorem later (s : State) (i : Instr) : PortWork p s (s.later i) := of_due (OnlyDue.later s i)

theorem out (s : State) (o : Out) : PortWork p s (s.out o) := of_fports_eq (outer_out s o) rfl rfl

theorem requeueHeld (s : State) : PortWork p s s.requeueHeld := of_fports_eq (outer_requeueHeld s) rfl rfl

theorem onPort (s : State) (f : Fport → Fport) (h : PortSends s.fports[p] (f s.fports[p])) : PortWork p s (s.onPort p f) :=
  ⟨AtPort.onPort s f, by rwa [fports_onPort_same]⟩

theorem foldl {α : Type} (f : State → α → State) (h : ∀ s a, PortWork p s (f s a)) (l : List α) (s : State) :
    PortWork p s (l.foldl f s) :=
  List.foldlRecOn l f (refl p s) fun t ht a _ => ht.trans (h t a)

theorem upSend (s : State) (type : Nat) (nak : Bool) (payload : Nat) : PortWork p s (s.upSend p type nak payload) := by
  by_cases h : Fport.closed s.fports[p]
  · rw [upSend_of_closed s p type nak payload h]
    exact refl p s
  · refine PortWork.trans ?_ (of_due (upSend_of_open s p type nak payload h))
    exact (onPort s _ ⟨_, _, _, _, _, _, _, rfl⟩).trans (out _ _)

theorem sendKeyFlit (s : State) : PortWork p s (s.sendKeyFlit p) := by
  unfold State.sendKeyFlit
  split
  · exact (onPort s _ ⟨_, _, _, _, _, _, _, rfl⟩).trans (upSend _ _ _ _)
  · exact onPort s _ ⟨_, _, _, _, _, _, _, rfl⟩

theorem takeKey (s : State) : PortWork p s (s.takeKey p) := by
  unfold State.takeKey
  have h := onPort (p := p) s (fun f => { f with rxNew := true }) ⟨_, _, _, _, _, _, _, rfl⟩
  split
  · exact h.trans (later _ _)
  · exact h.trans (sendKeyFlit _)

theorem passData (s : State) (clear : BitVec 2048) : PortWork p s (s.passData p clear) := by
  unfold State.passData
  dsimp only
  split
  · have h := takes_takeData s clear
    exact of_fports_eq h.outer h.fports h.responses
  · exact onPort s _ ⟨_, _, _, _, _, _, _, rfl⟩

theorem upAnswer (s : State) : PortWork p s (s.upAnswer p) := by
  unfold State.upAnswer
  dsimp only
  split
  · exact (out s _).trans (upSend _ _ _ _)
  · exact out s _

end PortWork

/-! Responses that wait (R41, R49). -/

/-- Responses leave: on any port that is up, and a flow is made only on such a port. -/
structure Responds (s t : State) : Prop where
  outer : Outer s t
  port : ∀ q : Fin 36, PortSends s.fports[q] t.fports[q]
  closed : ∀ q : Fin 36, s.fports[q].state ≠ 3 → t.fports[q] = s.fports[q]
  flows : ∀ g ∈ t.flows, g ∈ s.flows ∨ ∃ q : Fin 36, g.plane = q.val ∧ s.fports[q].state = 3
  seq : t.alrtSeq = s.alrtSeq
  pending : t.ltPending = s.ltPending

namespace Responds

variable {s t u : State}

theorem trans (a : Responds s t) (b : Responds t u) : Responds s u := by
  refine ⟨a.outer.trans b.outer, fun q => (a.port q).trans (b.port q), fun q h => ?_, fun g hg => ?_, b.seq.trans a.seq,
    b.pending.trans a.pending⟩
  · have ha := a.closed q h
    rw [b.closed q (by rw [ha]; exact h), ha]
  · rcases b.flows g hg with hg | ⟨q, hq, h3⟩
    · exact a.flows g hg
    · exact .inr ⟨q, hq, (a.port q).received.1.symm.trans h3⟩

theorem of_fports_eq (h : Outer s t) (hf : t.fports = s.fports)
    (hg : ∀ g ∈ t.flows, g ∈ s.flows ∨ ∃ q : Fin 36, g.plane = q.val ∧ s.fports[q].state = 3) (hs : t.alrtSeq = s.alrtSeq)
    (hp : t.ltPending = s.ltPending) : Responds s t := by
  refine ⟨h, fun q => ?_, fun q _ => ?_, hg, hs, hp⟩ <;> rw [hf]
  exact PortSends.refl _

theorem refl (s : State) : Responds s s := of_fports_eq (Outer.refl s) rfl (fun _ h => .inl h) rfl rfl

theorem of_due (h : OnlyDue s t) : Responds s t := by
  have ho := h.outer
  obtain ⟨a, rfl⟩ := h
  exact of_fports_eq ho rfl (fun _ h => .inl h) rfl rfl

theorem responses (s : State) (l : List AwayResp) : Responds s { s with responses := l } :=
  of_fports_eq ⟨⟨_, _, _, _, _, _, _, _, _, _, _, _, _, _, rfl⟩, List.prefix_rfl, List.prefix_rfl⟩ rfl (fun _ h => .inl h) rfl rfl

theorem onPort (s : State) (p : Fin 36) (f : Fport → Fport) (hup : s.fports[p].state = 3)
    (h : PortSends s.fports[p] (f s.fports[p])) : Responds s (s.onPort p f) := by
  refine ⟨outer_onPort s p f, fun q => ?_, fun q hq => ?_, fun _ h => .inl h, rfl, rfl⟩
  · by_cases hqp : q = p
    · subst hqp
      rwa [fports_onPort_same]
    · rw [fports_onPort_ne s p q f hqp]
      exact PortSends.refl _
  · exact fports_onPort_ne s p q f fun hqp => hq (hqp ▸ hup)

theorem upSend (s : State) (p : Fin 36) (type : Nat) (nak : Bool) (payload : Nat) :
    Responds s (s.upSend p type nak payload) := by
  by_cases h : Fport.closed s.fports[p]
  · rw [upSend_of_closed s p type nak payload h]
    exact refl s
  · have hup := onPort s p (fun f => Fport.sent f (nextFlit p s.fports[p] type nak payload))
      (Decidable.of_not_not fun h3 => h (.inl h3)) ⟨_, _, _, _, _, _, _, rfl⟩
    exact (hup.trans (of_fports_eq (outer_out _ _) rfl (fun _ h => .inl h) rfl rfl)).trans
      (of_due (upSend_of_open s p type nak payload h))

end Responds

theorem mem_livePlanes_iff (s : State) (pkg p : Nat) : p ∈ s.livePlanes pkg ↔ p < 36 ∧
    (((((((s.linkTable[s.pkgid.toNat]?).getD 0).getLsbD 36 = true ∧ ((s.linkTable[pkg]?).getD 0).getLsbD 36 = true) ∧
      ((s.linkTable[s.pkgid.toNat]?).getD 0).getLsbD p = true) ∧ ((s.linkTable[pkg]?).getD 0).getLsbD p = true) ∧
      pkg ≠ s.pkgid.toNat) ∧ (s.fports[p]?.map (·.state)).getD 0 = 3) := by
  simp only [State.livePlanes, List.mem_filter, List.mem_range, Bool.and_eq_true, bne_iff_ne, beq_iff_eq]

/-- A live plane is the number of a port that is up. -/
theorem port_of_mem_livePlanes {s : State} {pkg p : Nat} (h : p ∈ s.livePlanes pkg) :
    ∃ q : Fin 36, p = q.val ∧ s.fports[q].state = 3 := by
  obtain ⟨hp, -, h3⟩ := (mem_livePlanes_iff s pkg p).1 h
  refine ⟨⟨p, hp⟩, rfl, ?_⟩
  rw [Vector.getElem?_eq_getElem hp] at h3
  exact h3

/-- The plane of a flow: none, that of its mapping, or a new mapping to a live plane. -/
theorem planeOf_cases (s : State) (core : CoreId) (pkg vn : Nat) :
    (∃ p, s.planeOf core pkg vn = (p, s)) ∨
      ∃ p ∈ s.livePlanes pkg, s.planeOf core pkg vn = (some p, { s with flows := s.flows ++ [⟨core, pkg, vn, p, false⟩] }) := by
  unfold State.planeOf
  dsimp only
  split
  · exact .inl ⟨_, rfl⟩
  · split
    · exact .inl ⟨_, rfl⟩
    · next p hp => exact .inr ⟨p, List.mem_of_getElem? hp, rfl⟩

theorem responds_planeOf (s : State) (core : CoreId) (pkg vn : Nat) : Responds s (s.planeOf core pkg vn).2 := by
  rcases planeOf_cases s core pkg vn with ⟨p, h⟩ | ⟨p, hp, h⟩ <;> rw [h]
  · exact Responds.refl s
  · refine Responds.of_fports_eq
      ⟨⟨_, _, _, _, _, _, _, _, _, _, _, _, _, _, rfl⟩, List.prefix_rfl, List.prefix_rfl⟩ rfl (fun g hg => ?_) rfl rfl
    rcases List.mem_append.1 hg with hg | hg
    · exact .inl hg
    · rw [List.mem_singleton.1 hg]
      exact .inr (port_of_mem_livePlanes hp)

theorem responds_sendResponse (s : State) (r : AwayResp) : Responds s (s.sendResponse r) := by
  have hp := responds_planeOf s r.core r.pkg 2
  unfold State.sendResponse
  split
  · next p t he =>
    rw [he] at hp
    split
    · split
      · exact hp.trans ((Responds.upSend t _ _ _ _).trans (Responds.responses _ _))
      · exact Responds.responses s _
    · exact Responds.responses s _
  · exact Responds.responses s _

theorem responds_sendResponses (s : State) : Responds s s.sendResponses := by
  refine (Responds.responses s []).trans (List.foldlRecOn s.responses _ (Responds.refl _) fun t ht r _ => ht.trans ?_)
  split
  · exact Responds.responses t _
  · exact responds_sendResponse t r

theorem sendResponses_of_none (s : State) (h : s.responses = []) : s.sendResponses = s := by
  unfold State.sendResponses
  rw [h, List.foldl_nil, ← h]

theorem PortWork.sendResponses {p : Fin 36} (s : State) : PortWork p s s.sendResponses := by
  have h := responds_sendResponses s
  refine ⟨⟨h.outer, fun hr => ?_⟩, h.port p⟩
  rw [sendResponses_of_none s hr]
  exact ⟨hr, fun _ _ => rfl⟩

theorem PortWork.ite {p : Fin 36} {s t : State} (c : Prop) [Decidable c] (h : PortWork p s t) : PortWork p s (if c then t else s) := by
  split
  · exact h
  · exact PortWork.refl p s

theorem PortWork.portOpens {p : Fin 36} (s : State) : PortWork p s (s.portOpens p) :=
  (PortWork.ite _ (PortWork.sendKeyFlit s)).trans
    ((PortWork.ite _ (PortWork.later _ _)).trans ((PortWork.sendResponses _).trans (PortWork.requeueHeld _)))

end Sys2Proof.Proofs
end

section
/-! PROOF. Scale-up ports: their events (R44 to R50). -/

namespace Sys2Proof.Proofs

open Sys2Proof.Machine Sys2Proof.Claims Sys2Proof.Laws

/-- A field of a number that is kept in a bit vector. -/
theorem ofNat_field (x : Nat) {w lo n : Nat} (h : lo + n ≤ w) :
    (BitVec.ofNat w x).toNat / 2 ^ lo % 2 ^ n = x / 2 ^ lo % 2 ^ n := by
  have hw : 2 ^ w = 2 ^ lo * 2 ^ (w - lo) := by rw [← pow_add]; congr 1; omega
  rw [BitVec.toNat_ofNat, hw, Nat.mod_mul_right_div_self, Nat.mod_mod_of_dvd _ (pow_dvd_pow 2 (by omega))]

theorem portSock_val (p : Fin 36) : (portSock p).val = 22 + p.val / 18 := by
  have hp := p.isLt
  unfold portSock
  split
  · show 22 = _
    omega
  · show 23 = _
    omega

/-! A received flit (R48). -/

theorem scaleupFlitReceive_out_of_sequence (s : State) (p : Fin 36) (f : BitVec 2048)
    (hseq : (BitVec.ofNat 12 (flitField f 11 0) : BitVec 12) ≠ s.fports[p].rxSeq + 1) :
    exec (.scaleupFlitReceive p f) s = .next s := by
  show execScaleupFlitReceive p f s = _
  simp only [execScaleupFlitReceive, ne_eq, hseq, not_false_eq_true, if_true, ite_self]

theorem scaleupFlitReceive_of_bad (s : State) (p : Fin 36) (f : BitVec 2048) (hup : s.fports[p].state = 3)
    (hseq : (BitVec.ofNat 12 (flitField f 11 0) : BitVec 12) = s.fports[p].rxSeq + 1) (hbad : ¬upGood p s.fports[p] f = true) :
    ∃ t, exec (.scaleupFlitReceive p f) s = .next t ∧ AtPort p s t ∧ t.fports[p].rxSeq = s.fports[p].rxSeq ∧
      .upAck p s.fports[p].rxSeq true ∈ t.outbox ∧ (s.fports[p].afail < 2 → t.fports[p].afail = s.fports[p].afail + 1) ∧
      (2 ≤ s.fports[p].afail → .authFailPortDown p ∈ t.agenda) := by
  have hx : exec (.scaleupFlitReceive p f) s = .next (
      let t := (s.out (.upAck p s.fports[p].rxSeq true)).upSend p 1 true 0
      if 2 ≤ s.fports[p].afail then t.later (.authFailPortDown p) else t.onPort p fun f => { f with afail := f.afail + 1 }) := by
    show execScaleupFlitReceive p f s = _
    simp only [execScaleupFlitReceive, hup, hseq, Bool.eq_false_of_not_eq_true hbad, ne_eq, not_true, if_false, Bool.false_eq_true]
  have hack : .upAck p s.fports[p].rxSeq true ∈ (s.out (.upAck p s.fports[p].rxSeq true)).outbox := by simp
  have hsend := PortWork.upSend (p := p) (s.out (.upAck p s.fports[p].rxSeq true)) 1 true 0
  have hw := (PortWork.out (p := p) s (.upAck p s.fports[p].rxSeq true)).trans hsend
  replace hack := hsend.outer.sent.subset hack
  revert hx hw hack
  generalize State.upSend _ _ _ _ _ = t
  intro hx hw hack
  obtain ⟨-, hrx, -, -, haf, -⟩ := hw.port.received
  refine ⟨_, hx, ?_⟩
  by_cases h2 : 2 ≤ s.fports[p].afail
  · simp only [h2, if_true]
    exact ⟨hw.toAtPort.trans (PortWork.later _ _).toAtPort, hrx, hack, fun h => absurd h (by omega), fun _ => by simp⟩
  · simp only [h2, if_false, fports_onPort_same]
    exact ⟨hw.toAtPort.trans (AtPort.onPort _ _), hrx, hack, fun _ => by rw [haf], fun h => absurd h id⟩

/-- The port after the header of a flit has acted (R40, R47, R48). -/
theorem accept_fields (flit : BitVec 2048) (f : Fport) :
    (f.accept flit).rxSeq = BitVec.ofNat 12 (flitField flit 11 0) ∧ (f.accept flit).afail = 0 ∧
      (f.accept flit).exchanging = f.exchanging ∧
      (flitField flit 28 26 = 2 → (f.accept flit).krx = !f.krx ∧ (f.accept flit).rxctr = 0) ∧
      (flitField flit 28 26 ≠ 2 → (f.accept flit).krx = f.krx ∧ (f.accept flit).rxctr = f.rxctr + 1) := by
  unfold Fport.accept
  dsimp only
  by_cases h2 : flitField flit 28 26 = 2
  · simp only [h2, if_true]
    split <;> exact ⟨rfl, rfl, rfl, fun _ => ⟨rfl, rfl⟩, fun h => absurd rfl h⟩
  · simp only [h2, if_false]
    split <;> exact ⟨rfl, rfl, rfl, False.elim, fun _ => ⟨rfl, rfl⟩⟩

/-- The port after the header of a flit has acted, without the responses that its acknowledgement ends. -/
def headed (s : State) (p : Fin 36) (flit : BitVec 2048) : State :=
  let s := s.onPort p (Fport.accept flit)
  { s with
    responses := s.responses.filter fun (r : AwayResp) => r.sent.all fun (q : Nat × BitVec 12) =>
      q.1 != p.val || s.fports[p].replay.any fun (x : BitVec 12 × BitVec 2048) => x.1 == q.2 }

theorem headed_effect (s : State) (p : Fin 36) (flit : BitVec 2048) :
    AtPort p s (headed s p flit) ∧ (headed s p flit).fports[p] = s.fports[p].accept flit := by
  refine ⟨(AtPort.onPort s _).trans (AtPort.of_fports_eq ?_ rfl fun h => ?_), fports_onPort_same s p _⟩
  · exact ⟨⟨_, _, _, _, _, _, _, _, _, _, _, _, _, _, rfl⟩, List.prefix_rfl, List.prefix_rfl⟩
  · show List.filter _ (s.onPort p _).responses = []
    rw [h, List.filter_nil]

/-- A NAK has the flits that are kept sent again. -/
def resent (s : State) (p : Fin 36) (nak : Bool) : State :=
  if nak then s.fports[p].replay.foldl (fun s r => s.out (.upFlit p r.1 0 r.2)) s else s

/-- The payload is taken by the flit's type. -/
def payloadTaken (s : State) (p : Fin 36) (type : Nat) (clear : BitVec 2048) : State :=
  if type = 0 then s.passData p clear else if type = 3 then s.takeKey p else s

theorem acceptUp_eq (s : State) (p : Fin 36) (flit : BitVec 2048) :
    s.acceptUp p flit =
      let f := s.fports[p]
      let clear := Config.gcmOpen p.val f.krx f.rxGen f.rxctr flit
      let t := (payloadTaken (resent (headed s p flit) p (flit.getLsbD 25)) p (flitField flit 28 26) clear).portOpens p
      if flitField flit 28 26 = 1 then t else t.upAnswer p := rfl

theorem portWork_resent (s : State) (p : Fin 36) (nak : Bool) : PortWork p s (resent s p nak) :=
  PortWork.ite _ (PortWork.foldl _ (fun t _ => PortWork.out t _) _ s)

theorem portWork_payloadTaken (s : State) (p : Fin 36) (type : Nat) (clear : BitVec 2048) :
    PortWork p s (payloadTaken s p type clear) := by
  unfold payloadTaken
  split
  · exact PortWork.passData s clear
  · exact PortWork.ite _ (PortWork.takeKey s)

theorem payloadTaken_key (s : State) (p : Fin 36) (clear : BitVec 2048) (h : s.fports[p].exchanging = true) :
    .keyMarkerSend p ∈ (payloadTaken s p 3 clear).agenda := by
  have he : payloadTaken s p 3 clear = (s.onPort p fun f => { f with rxNew := true }).later (.keyMarkerSend p) := if_pos h
  rw [he]
  simp

/-- What follows the header of a flit in sequence is work at its port. -/
theorem acceptUp_effect (s : State) (p : Fin 36) (flit : BitVec 2048) :
    PortWork p (headed s p flit) (s.acceptUp p flit) ∧
      (flitField flit 28 26 ≠ 1 → .upAck p (headed s p flit).fports[p].rxSeq false ∈ (s.acceptUp p flit).outbox) ∧
      (flitField flit 28 26 = 3 → (headed s p flit).fports[p].exchanging = true →
        .keyMarkerSend p ∈ (s.acceptUp p flit).agenda) := by
  have h1 := portWork_resent (headed s p flit) p (flit.getLsbD 25)
  have h2 := portWork_payloadTaken (resent (headed s p flit) p (flit.getLsbD 25)) p (flitField flit 28 26)
    (Config.gcmOpen p.val s.fports[p].krx s.fports[p].rxGen s.fports[p].rxctr flit)
  have hkey := payloadTaken_key (resent (headed s p flit) p (flit.getLsbD 25)) p
    (Config.gcmOpen p.val s.fports[p].krx s.fports[p].rxGen s.fports[p].rxctr flit)
  rw [acceptUp_eq]
  dsimp only
  set a := resent (headed s p flit) p (flit.getLsbD 25)
  set b := payloadTaken a p (flitField flit 28 26)
    (Config.gcmOpen p.val s.fports[p].krx s.fports[p].rxGen s.fports[p].rxctr flit) with hb
  have h3 := PortWork.portOpens (p := p) b
  have h123 := h1.trans (h2.trans h3)
  have hdue : flitField flit 28 26 = 3 → (headed s p flit).fports[p].exchanging = true → .keyMarkerSend p ∈ (b.portOpens p).agenda := by
    intro ht he
    refine h3.outer.due.subset ?_
    rw [hb, ht]
    obtain ⟨-, -, -, -, -, hex, -⟩ := h1.port.received
    exact hkey (hex.trans he)
  by_cases ht : flitField flit 28 26 = 1
  · simp only [ht, if_true]
    exact ⟨h123, fun h => absurd rfl h, fun h => absurd h (by decide)⟩
  · simp only [ht, if_false]
    have h4 := PortWork.upAnswer (p := p) (b.portOpens p)
    refine ⟨h123.trans h4, fun _ => ?_, fun h3 he => h4.outer.due.subset (hdue h3 he)⟩
    obtain ⟨-, hrx, -⟩ := h123.port.received
    rw [← hrx]
    unfold State.upAnswer
    dsimp only
    have hm : .upAck p (b.portOpens p).fports[p].rxSeq false ∈
        ((b.portOpens p).out (.upAck p (b.portOpens p).fports[p].rxSeq false)).outbox := by simp
    split
    · exact (PortWork.upSend (p := p) _ _ _ _).outer.sent.subset hm
    · exact hm

theorem scaleupFlitReceive_of_good (s : State) (p : Fin 36) (f : BitVec 2048) (hup : s.fports[p].state = 3)
    (hseq : (BitVec.ofNat 12 (flitField f 11 0) : BitVec 12) = s.fports[p].rxSeq + 1) (hgood : upGood p s.fports[p] f = true) :
    ∃ t, exec (.scaleupFlitReceive p f) s = .next t ∧ AtPort p s t ∧
      t.fports[p].rxSeq = BitVec.ofNat 12 (flitField f 11 0) ∧ t.fports[p].afail = 0 ∧
      (flitField f 28 26 ≠ 1 → .upAck p (BitVec.ofNat 12 (flitField f 11 0)) false ∈ t.outbox) ∧
      (flitField f 28 26 = 2 → t.fports[p].krx = !s.fports[p].krx ∧ t.fports[p].rxctr = 0) ∧
      (flitField f 28 26 ≠ 2 → t.fports[p].krx = s.fports[p].krx ∧ t.fports[p].rxctr = s.fports[p].rxctr + 1) ∧
      (flitField f 28 26 = 3 → s.fports[p].exchanging = true → .keyMarkerSend p ∈ t.agenda) := by
  have hx : exec (.scaleupFlitReceive p f) s = .next (s.acceptUp p f) := by
    show execScaleupFlitReceive p f s = _
    simp only [execScaleupFlitReceive, hup, hseq, hgood, ne_eq, not_true, if_false, if_true]
  obtain ⟨hh, hf⟩ := headed_effect s p f
  obtain ⟨hw, hack, hkey⟩ := acceptUp_effect s p f
  obtain ⟨h1, h2, h3, h4, h5⟩ := accept_fields f s.fports[p]
  obtain ⟨-, r1, r2, r3, r4, -⟩ := hw.port.received
  rw [hf] at r1 r2 r3 r4 hack hkey
  rw [h1] at hack
  rw [h3] at hkey
  refine ⟨_, hx, hh.trans hw.toAtPort, r1.trans h1, r4.trans h2, hack, fun h => ?_, fun h => ?_, hkey⟩
  · rw [r2, r3]
    exact h4 h
  · rw [r2, r3]
    exact h5 h

/-! Keys (R46, R47). -/

/-- Where the port can send, a key-exchange flit goes out at once. -/
theorem sendKeyFlit_sends (s : State) (p : Fin 36) (h : s.fports[p].ready noVn = true) :
    ∃ flit, .upFlit p (s.fports[p].txSeq + 1) 3 flit ∈ (s.sendKeyFlit p).outbox := by
  have he : s.sendKeyFlit p = (s.onPort p fun f => { f with keyDue := false }).upSend p 3 false
      (Config.keyShare p.val s.fports[p].txGen) := if_pos h
  have hc : ¬Fport.closed (s.onPort p fun f => { f with keyDue := false }).fports[p] := by
    rw [fports_onPort_same]
    exact not_closed_of_ready (f := s.fports[p]) h
  have hsent := (upSend_of_open _ p 3 false (Config.keyShare p.val s.fports[p].txGen) hc).outer.sent
  rw [fports_onPort_same] at hsent
  rw [he]
  exact ⟨_, hsent.subset (List.mem_append_right _ (List.mem_singleton.2 rfl))⟩

/-- A port that has started a key exchange. -/
def Fport.inExchange (f : Fport) : Fport := { f with exchanging := true }

theorem startExchange_effect (s : State) (p : Fin 36) (hup : s.fports[p].state = 3) (hex : s.fports[p].exchanging = false) :
    AtPort p s (s.startExchange p) ∧ (s.startExchange p).fports[p].exchanging = true ∧
      (s.startExchange p).fports[p].rekey = s.fports[p].rekey ∧ .keyExchange p ∈ (s.startExchange p).outbox ∧
      (s.fports[p].ready noVn = true → ∃ flit, .upFlit p (s.fports[p].txSeq + 1) 3 flit ∈ (s.startExchange p).outbox) := by
  have he : s.startExchange p = ((s.onPort p Fport.inExchange).out (.keyExchange p)).sendKeyFlit p :=
    if_pos (by rw [hup, hex]; rfl)
  have hf : ((s.onPort p Fport.inExchange).out (.keyExchange p)).fports[p] = Fport.inExchange s.fports[p] :=
    fports_onPort_same s p Fport.inExchange
  have hm : .keyExchange p ∈ ((s.onPort p Fport.inExchange).out (.keyExchange p)).outbox := by simp
  have ha : AtPort p s ((s.onPort p Fport.inExchange).out (.keyExchange p)) :=
    (AtPort.onPort s _).trans (PortWork.out _ _).toAtPort
  rw [he]
  revert hf hm ha
  generalize State.out _ _ = u
  intro hf hm ha
  have hw := PortWork.sendKeyFlit (p := p) u
  obtain ⟨-, -, -, -, -, hexch, hrek⟩ := hw.port.received
  have hs := sendKeyFlit_sends u p
  rw [hf] at hexch hrek hs
  exact ⟨ha.trans hw.toAtPort, hexch, hrek, hw.outer.sent.subset hm, hs⟩

theorem startRekey_effect (s : State) (p : Fin 36) (hup : s.fports[p].state = 3) (hex : s.fports[p].exchanging = false) :
    AtPort p s (s.startRekey p) ∧ (s.startRekey p).fports[p].exchanging = true ∧
      (s.startRekey p).fports[p].rekey = true ∧ .keyExchange p ∈ (s.startRekey p).outbox ∧
      (s.fports[p].ready noVn = true → ∃ flit, .upFlit p (s.fports[p].txSeq + 1) 3 flit ∈ (s.startRekey p).outbox) := by
  have h := startExchange_effect (s.onPort p fun f => { f with rekey := true }) p
  rw [fports_onPort_same] at h
  obtain ⟨h1, h2, h3, h4, h5⟩ := h hup hex
  exact ⟨(AtPort.onPort s _).trans h1, h2, h3, h4, h5⟩

theorem keyMarkerSend_of_not_ready (s : State) (p : Fin 36) (hup : s.fports[p].state = 3) (hex : s.fports[p].exchanging = true)
    (hr : ¬s.fports[p].ready noVn = true) :
    exec (.keyMarkerSend p) s = .next { s with fports := s.fports.set p { s.fports[p] with markerDue := true } } := by
  have hx : exec (.keyMarkerSend p) s = .next (s.onPort p fun f => { f with markerDue := true }) := by
    show execKeyMarkerSend p s = _
    simp only [execKeyMarkerSend, hup, hex, hr, ne_eq, not_true, Bool.not_true, Bool.false_eq_true, or_self, if_false]
  exact hx

theorem nextClear_fields (f : Fport) (type payload : Nat) (nak : Bool) (ht : type < 8) :
    (nextClear f type nak payload).toNat % 2 ^ 12 = (f.txSeq + 1).toNat ∧
      (nextClear f type nak payload).toNat / 2 ^ 26 % 8 = type := by
  have hseq : (f.txSeq + 1).toNat < 4096 := (f.txSeq + 1).isLt
  have hack : f.rxSeq.toNat < 4096 := f.rxSeq.isLt
  have hnak : nak.toNat < 2 := Bool.toNat_lt nak
  have h1 := ofNat_field (upHead (f.txSeq + 1) f.rxSeq nak type f.mine + 2 ^ 64 * payload) (w := 2048) (lo := 0) (n := 12) (by decide)
  have h2 := ofNat_field (upHead (f.txSeq + 1) f.rxSeq nak type f.mine + 2 ^ 64 * payload) (w := 2048) (lo := 26) (n := 3) (by decide)
  rw [pow_zero, Nat.div_one, Nat.div_one] at h1
  unfold nextClear
  refine ⟨h1.trans ?_, h2.trans ?_⟩ <;> unfold upHead <;> omega

theorem keyMarkerSend_of_ready (s : State) (p : Fin 36) (hup : s.fports[p].state = 3) (hex : s.fports[p].exchanging = true)
    (hr : s.fports[p].ready noVn = true) :
    ∃ t, exec (.keyMarkerSend p) s = .next t ∧ AtPort p s t ∧
      t.outbox = s.outbox ++ [.upFlit p (s.fports[p].txSeq + 1) 2 (nextFlit p s.fports[p] 2 false 0)] ∧
      t.fports[p].ktx = (!s.fports[p].ktx) ∧ t.fports[p].txctr = 0 ∧ t.fports[p].txSeq = s.fports[p].txSeq + 1 ∧
      t.fports[p].marker = some (s.fports[p].txSeq + 1) := by
  have hx : exec (.keyMarkerSend p) s = .next ((s.upSend p 2 false 0).onPort p fun f => { f with
        ktx := !f.ktx, txGen := f.txGen + 1, txctr := 0, exchanging := false, marker := some f.txSeq, markerDue := false }) := by
    show execKeyMarkerSend p s = _
    simp only [execKeyMarkerSend, hup, hex, hr, ne_eq, not_true, Bool.not_true, Bool.false_eq_true, or_self, if_false, if_true]
  have hd := upSend_of_open s p 2 false 0 (not_closed_of_ready hr)
  have hf : (s.upSend p 2 false 0).fports[p] = Fport.sent s.fports[p] (nextFlit p s.fports[p] 2 false 0) := by
    rw [hd.fports]
    exact fports_onPort_same s p fun f => Fport.sent f (nextFlit p s.fports[p] 2 false 0)
  have ho : (s.upSend p 2 false 0).outbox =
      s.outbox ++ [.upFlit p (s.fports[p].txSeq + 1) 2 (nextFlit p s.fports[p] 2 false 0)] := by
    obtain ⟨a, ha⟩ := hd
    rw [ha]
    rfl
  refine ⟨_, hx, (PortWork.upSend s 2 false 0).toAtPort.trans (AtPort.onPort _ _), ho, ?_⟩
  rw [fports_onPort_same, hf]
  exact ⟨rfl, rfl, rfl, rfl⟩

/-! A port goes down, or its switch isolates it (R44, R49, R50). -/

/-- An alert changes nothing outside the alert ring but what leaves the package. -/
theorem alert_effect (s : State) (cls : Byte) (src : Nat) (ctx : BitVec 16) (data : List Word) :
    ∃ held flight lost out, s.alert cls src ctx data = { s with
      alrtSeq := s.alrtSeq + 1, alrtHeld := held, alrtFlight := flight, alrtLost := lost, outbox := s.outbox ++ out } := by
  unfold State.alert State.alertSend
  dsimp only
  split
  · split
    · exact ⟨_, _, _, [], by rw [List.append_nil]⟩
    · exact ⟨_, _, _, _, rfl⟩
  · split <;> exact ⟨_, _, _, [], by rw [List.append_nil]⟩

/-- An alert is given, and no port differs. -/
theorem alert_outer (s : State) (cls : Byte) (src : Nat) (ctx : BitVec 16) (data : List Word) :
    Outer s (s.alert cls src ctx data) ∧ (s.alert cls src ctx data).fports = s.fports ∧
      (s.alert cls src ctx data).responses = s.responses ∧ (s.alert cls src ctx data).alrtSeq = s.alrtSeq + 1 := by
  obtain ⟨held, flight, lost, out, h⟩ := alert_effect s cls src ctx data
  rw [h]
  exact ⟨⟨⟨_, _, _, _, _, _, _, _, _, _, _, _, _, _, rfl⟩, List.prefix_rfl, List.prefix_append _ _⟩, rfl, rfl, rfl⟩

theorem onlyDue_remapFlows (s : State) : OnlyDue s s.remapFlows := OnlyDue.foldl _ (fun t _ => OnlyDue.later t _) _ s

theorem onlyDue_answerHeld (s : State) : OnlyDue s s.answerHeld := OnlyDue.foldl _ (fun t _ => OnlyDue.later t _) _ s

theorem outer_holdFlows (s : State) : Outer s s.holdFlows :=
  ⟨⟨_, _, _, _, _, _, _, _, _, _, _, _, _, _, rfl⟩, List.prefix_rfl, List.prefix_rfl⟩

/-- Flows that hold are mapped anew, requests that cannot leave are answered, and responses go on. -/
theorem flowsGoOn_effect (p : Fin 36) (s : State) :
    AtPort p s s.remapFlows.answerHeld.sendResponses ∧ Responds s s.remapFlows.answerHeld.sendResponses := by
  have hd := (onlyDue_remapFlows s).trans (onlyDue_answerHeld s.remapFlows)
  exact ⟨(PortWork.of_due hd).toAtPort.trans (PortWork.sendResponses _).toAtPort,
    (Responds.of_due hd).trans (responds_sendResponses _)⟩

/-- A port that has gone down. -/
def Fport.downed (f : Fport) : Fport := { f with
  state := 0, downs := min (f.downs + 1) 255, afail := 0, exchanging := false, marker := none, rekey := false
  replay := [], keyDue := false, markerDue := false }

/-- The requests that a port has sent and its switch has not acknowledged. -/
def lostRequests (s : State) (p : Fin 36) : List Outstanding :=
  s.outstanding.filter fun o =>
    o.plane == some p.val && (match o.flit with
      | some q => s.fports[p].replay.any fun r => r.1 == q
      | none => true)

theorem mem_lostRequests {s : State} {p : Fin 36} {x : Outstanding} (hx : x ∈ s.outstanding) (hp : x.plane = some p.val)
    (hf : ∀ q, x.flit = some q → ∃ r ∈ s.fports[p].replay, r.1 = q) : x ∈ lostRequests s p := by
  refine List.mem_filter.2 ⟨hx, ?_⟩
  rw [hp, BEq.rfl, Bool.true_and]
  split
  · next q hq =>
    obtain ⟨r, hr, he⟩ := hf q hq
    exact List.any_eq_true.2 ⟨r, hr, beq_iff_eq.2 he⟩
  · rfl

/-- The port is down, and responses that were lost on it wait. -/
def downBare (s : State) (p : Fin 36) : State :=
  let u := s.onPort p Fport.downed
  { u with responses := u.responses.map fun (r : AwayResp) =>
      if r.lostOn p.val s.fports[p].replay then { r with sent := none : AwayResp } else r }

theorem downBare_effect (s : State) (p : Fin 36) :
    AtPort p s (downBare s p) ∧ (downBare s p).fports[p] = Fport.downed s.fports[p] := by
  refine ⟨(AtPort.onPort s Fport.downed).trans (AtPort.of_fports_eq ?_ rfl fun h => ?_), fports_onPort_same s p Fport.downed⟩
  · exact ⟨⟨_, _, _, _, _, _, _, _, _, _, _, _, _, _, rfl⟩, List.prefix_rfl, List.prefix_rfl⟩
  · show List.map _ (s.onPort p Fport.downed).responses = []
    rw [h, List.map_nil]

/-- The port is down, and the requests lost with it are to be answered. -/
def downAnswered (s : State) (p : Fin 36) : State :=
  (lostRequests s p).foldl (fun s o => s.later (.errorResponseArrival o.core (BitVec.ofNat 10 o.tag) 0x11)) (downBare s p)

theorem portDown_eq (s : State) (p : Fin 36) (h : s.fports[p].state ≠ 0) :
    s.portDown p = ((((downAnswered s p).holdFlows.alert 0x05 (portSock p).val 0 [1, w64 p.val]).out
      (.portReport p)).remapFlows.answerHeld.sendResponses) := if_neg h

theorem downAnswered_effect (s : State) (p : Fin 36) :
    AtPort p s (downAnswered s p) ∧ (downAnswered s p).fports[p] = Fport.downed s.fports[p] ∧
      (downAnswered s p).alrtSeq = s.alrtSeq ∧
      ∀ x ∈ lostRequests s p, .errorResponseArrival x.core (BitVec.ofNat 10 x.tag) 0x11 ∈ (downAnswered s p).agenda := by
  have hd : OnlyDue (downBare s p) (downAnswered s p) := OnlyDue.foldl _ (fun t _ => OnlyDue.later t _) _ _
  obtain ⟨h1, h2⟩ := downBare_effect s p
  refine ⟨h1.trans (PortWork.of_due hd).toAtPort, ?_, (Responds.of_due hd).seq, fun x hx => ?_⟩
  · rw [hd.fports, h2]
  · exact mem_agenda_foldl_later (fun o : Outstanding => .errorResponseArrival o.core (BitVec.ofNat 10 o.tag) 0x11) _ _ x hx

theorem portDown_effect (s : State) (p : Fin 36) (h : s.fports[p].state ≠ 0) :
    AtPort p s (s.portDown p) ∧ (s.portDown p).fports[p] = Fport.downed s.fports[p] ∧
      .portReport p ∈ (s.portDown p).outbox ∧ (s.portDown p).alrtSeq = s.alrtSeq + 1 ∧
      ∀ x ∈ lostRequests s p, .errorResponseArrival x.core (BitVec.ofNat 10 x.tag) 0x11 ∈ (s.portDown p).agenda := by
  obtain ⟨d1, d2, d3, d4⟩ := downAnswered_effect s p
  rw [portDown_eq s p h]
  revert d1 d2 d3 d4
  generalize downAnswered s p = u
  intro d1 d2 d3 d4
  have hh := outer_holdFlows u
  obtain ⟨a1, a2, a3, a4⟩ := alert_outer u.holdFlows 0x05 (portSock p).val 0 [1, w64 p.val]
  revert a1 a2 a3 a4
  generalize State.alert _ _ _ _ _ = v
  intro a1 a2 a3 a4
  obtain ⟨f1, f2⟩ := flowsGoOn_effect p (v.out (.portReport p))
  have hv : v.fports[p] = Fport.downed s.fports[p] := by
    rw [a2]
    exact d2
  have huv : AtPort p u (v.out (.portReport p)) := AtPort.of_fports_eq (hh.trans (a1.trans (outer_out v _))) a2 a3.trans
  refine ⟨d1.trans (huv.trans f1), ?_, f2.outer.sent.subset ?_, ?_, fun x hx => (huv.outer.due.trans f1.outer.due).subset (d4 x hx)⟩
  · rw [f2.closed p (by show v.fports[p].state ≠ 3; rw [hv]; exact Nat.zero_ne_add_one 2)]
    exact hv
  · exact List.mem_append_right _ (List.mem_singleton.2 rfl)
  · exact f2.seq.trans (a4.trans (congrArg (· + 1) d3))

theorem portIsolate_effect (s : State) (p : Fin 36) :
    ∃ t, exec (.portIsolate p) s = .next t ∧ AtPort p s t ∧ t.fports[p] = { s.fports[p] with state := 4 } ∧
      ∀ g ∈ t.flows, g.plane = p.val → g.holding = true := by
  have hf := fports_onPort_same s p fun f => { f with state := 4 }
  refine ⟨_, rfl, ?_⟩
  have ha := AtPort.onPort (p := p) s fun f => { f with state := 4 }
  revert hf ha
  generalize s.onPort p (fun f => { f with state := 4 }) = u
  intro hf ha
  obtain ⟨f1, f2⟩ := flowsGoOn_effect p u.holdFlows
  have h4 : u.fports[p].state = 4 := by rw [hf]
  have h3 : u.holdFlows.fports[p].state ≠ 3 := by
    show u.fports[p].state ≠ 3
    rw [h4]
    decide
  refine ⟨ha.trans ((AtPort.of_fports_eq (outer_holdFlows u) rfl fun h => h).trans f1), (f2.closed p h3).trans hf, ?_⟩
  intro g hg hp
  rcases f2.flows g hg with hg | ⟨q, hq, h3'⟩
  · obtain ⟨f, hf, rfl⟩ := List.mem_map.1 hg
    by_cases hl : (u.livePlanes f.pkg).contains f.plane = true
    · rw [if_pos hl] at hp
      obtain ⟨q, hq, h3'⟩ := port_of_mem_livePlanes (List.contains_iff_mem.1 hl)
      have hqp : q = p := Fin.ext (hq.symm.trans hp)
      subst hqp
      exact absurd h3' h3
    · rw [if_neg hl]
  · have hqp : q = p := Fin.ext (hq.symm.trans hp)
    subst hqp
    exact absurd h3' h3

/-! A port trains, and is switched off and on (R44, R45). -/

/-- A port whose keys are agreed: slot 0 is live in both directions (R45). -/
def Fport.trained (f : Fport) : Fport := { f with
  state := 3, ktx := false, krx := false, afail := 0, txctr := 0, rxctr := 0, rxSeq := 0, txSeq := 0, ack := 0
  txGen := f.txGen + 1, rxGen := f.rxGen + 1, exchanging := false, marker := none, replay := []
  keyDue := false, markerDue := false, rxNew := false, stop := Vector.replicate 4 false }

theorem linkTrain_of_failed_boot (s : State) (p : Fin 36) (h : s.bootState = 2) : exec (.linkTrain p) s = .next s := by
  show execLinkTrain p s = _
  simp only [execLinkTrain, h, BEq.rfl, Bool.true_or, if_true]

/-- The full table is asked for once. -/
theorem askTable_effect (s : State) : Outer s s.askTable ∧ s.askTable.fports = s.fports ∧ s.askTable.responses = s.responses ∧
    (s.ltPending = false → s.askTable = { s with ltPending := true, outbox := s.outbox ++ [.tableRequest] }) := by
  unfold State.askTable
  split
  · next h => exact ⟨Outer.refl s, rfl, rfl, fun hp => absurd (h.symm.trans hp) (by decide)⟩
  · refine ⟨⟨⟨_, _, _, _, _, _, _, _, _, _, _, _, _, _, rfl⟩, ?_, ?_⟩, rfl, rfl, fun _ => rfl⟩
    · exact List.prefix_rfl
    · exact List.prefix_append _ _

theorem linkTrain_effect (s : State) (p : Fin 36) (hoff : s.fports[p].off = false) (hst : s.fports[p].state ≠ 3)
    (hb : s.bootState ≠ 2) (hf : s.fenced.getLsbD (portSock p).val = false) (hr : s.responses = []) :
    ∃ t, exec (.linkTrain p) s = .next t ∧ AtPort p s t ∧ t.fports[p] = Fport.trained s.fports[p] ∧
      (s.ltStale = true → s.ltPending = false → t.ltPending = true ∧ t.outbox = s.outbox ++ [.tableRequest]) := by
  have hx : exec (.linkTrain p) s = .next
      (if s.ltStale then (s.onPort p Fport.trained).askTable else s.onPort p Fport.trained).sendResponses.requeueHeld := by
    show execLinkTrain p s = _
    simp only [execLinkTrain, beq_eq_false_iff_ne.2 hb, hoff, beq_eq_false_iff_ne.2 hst, hf, Bool.or_false, Bool.false_eq_true,
      if_false]
    rfl
  have ha := AtPort.onPort (p := p) s Fport.trained
  have hp := fports_onPort_same s p Fport.trained
  by_cases hs : s.ltStale = true
  · simp only [hs, if_true] at hx
    obtain ⟨q1, q2, q3, q4⟩ := askTable_effect (s.onPort p Fport.trained)
    rw [sendResponses_of_none _ (q3.trans hr)] at hx
    refine ⟨_, hx, ha.trans ((AtPort.of_fports_eq q1 q2 q3.trans).trans (PortWork.requeueHeld _).toAtPort), ?_, fun _ h => ?_⟩
    · show (s.onPort p Fport.trained).askTable.fports[p] = _
      rw [q2]
      exact hp
    · rw [q4 h]
      exact ⟨rfl, rfl⟩
  · simp only [hs, Bool.false_eq_true, if_false] at hx
    rw [sendResponses_of_none (s.onPort p Fport.trained) hr] at hx
    exact ⟨_, hx, ha.trans (PortWork.requeueHeld _).toAtPort, hp, fun h => absurd h hs⟩

theorem fpctlOff_of_off (s : State) (p : Fin 36) (h : s.fports[p].off = true) : exec (.fpctlOff p true) s = .next s := by
  have hf : ({ s.fports[p] with off := true } : Fport) = s.fports[p] := by rw [← h]
  show Host.Outcome.next (s.writeOff p true) = _
  simp only [State.writeOff, if_true, h, true_or, hf]
  simp

/-- What R49 says of a port that goes down. -/
def WentDown (s : State) (p : Fin 36) (t : State) : Prop :=
  (Undisturbed s t ∧ (s.responses = [] → ∀ q : Fin 36, q ≠ p → t.fports[q] = s.fports[q])) ∧ t.fports[p].state = 0 ∧
    t.fports[p].downs = min (s.fports[p].downs + 1) 255 ∧ t.fports[p].replay = [] ∧ .portReport p ∈ t.outbox ∧
    t.alrtSeq = s.alrtSeq + 1 ∧ ∀ x ∈ s.outstanding, x.plane = some p.val →
      (∀ q, x.flit = some q → ∃ r ∈ s.fports[p].replay, r.1 = q) →
      .errorResponseArrival x.core (BitVec.ofNat 10 x.tag) 0x11 ∈ t.agenda

theorem portDown_wentDown (s : State) (p : Fin 36) (h : s.fports[p].state ≠ 0) : WentDown s p (s.portDown p) := by
  obtain ⟨h1, h2, h3, h4, h5⟩ := portDown_effect s p h
  exact ⟨h1.rest, congrArg Fport.state h2, congrArg Fport.downs h2, congrArg Fport.replay h2, h3, h4,
    fun x hx hp hf => h5 x (mem_lostRequests hx hp hf)⟩

/-- Settles O41: one lemma per event of a port; a flit is out of sequence, fails its tag, or is taken. -/
theorem scaleUpEvents : Obligations.ScaleUpEvents := by
  unfold Obligations.ScaleUpEvents
  intro s p f
  have hseqEq : flitField f 11 0 = f.toNat % 2 ^ 12 := by
    rw [flitField_eq f 11 0 (by decide) (by decide), pow_zero, Nat.div_one]
  have hkindEq : flitField f 28 26 = f.toNat / 2 ^ 26 % 8 := flitField_eq f 28 26 (by decide) (by decide)
  have hgood : upGood p s.fports[p] f = true ↔ f.toNat / 2 ^ 26 % 8 ≤ 4 ∧
      Config.gcmOk p.val s.fports[p].krx s.fports[p].rxGen s.fports[p].rxctr f = true := by
    rw [upGood, hkindEq, Bool.and_eq_true, decide_eq_true_eq]
  refine ⟨fun hup => ⟨fun hs => ?_, fun hs hb => ?_, fun hs hg => ?_, fun hex j hj => ?_, fun hex hn => ?_, fun hex hl ht => ?_⟩,
    fun hst => ?_, ?_, fun hoff hst hb hf hr => ?_,
    linkTrain_of_failed_boot s p, fun hoff hst => ?_, fpctlOff_of_off s p, fun hoff hst => ?_⟩
  · exact scaleupFlitReceive_out_of_sequence s p f (hseqEq ▸ hs)
  · obtain ⟨t, hx, ha, h⟩ := scaleupFlitReceive_of_bad s p f hup (hseqEq ▸ hs) (mt hgood.1 hb)
    exact ⟨t, hx, ha.rest, h⟩
  · have h := scaleupFlitReceive_of_good s p f hup (hseqEq ▸ hs) (hgood.2 hg)
    rw [hseqEq, hkindEq] at h
    obtain ⟨t, hx, ha, h⟩ := h
    exact ⟨t, hx, ha.rest, h⟩
  · rcases hj with rfl | rfl
    · obtain ⟨h1, h2, h3, h4, h5⟩ := startExchange_effect s p hup hex
      exact ⟨_, rfl, h1.rest, h2, h3, h4, fun hl ht => h5 ((ready_noVn_iff _).2 ⟨hup, hl, ht⟩)⟩
    · obtain ⟨h1, h2, h3, h4, h5⟩ := startRekey_effect s p hup hex
      exact ⟨_, rfl, h1.rest, h2, h3.trans (if_pos rfl).symm, h4, fun hl ht => h5 ((ready_noVn_iff _).2 ⟨hup, hl, ht⟩)⟩
  · refine keyMarkerSend_of_not_ready s p hup hex fun hr => ?_
    obtain ⟨-, hl, ht⟩ := (ready_noVn_iff _).1 hr
    rcases hn with hn | hn
    · omega
    · exact ht hn
  · obtain ⟨t, hx, ha, h⟩ := keyMarkerSend_of_ready s p hup hex ((ready_noVn_iff _).2 ⟨hup, hl, ht⟩)
    obtain ⟨h1, h2⟩ := nextClear_fields s.fports[p] 2 0 false (by decide)
    exact ⟨t, _, hx, ha.rest, h1, h2, h⟩
  · have hd := portDown_wentDown s p hst
    exact ⟨⟨_, rfl, hd⟩, ⟨_, rfl, hd⟩, fun hc => ⟨_, congrArg Host.Outcome.next (if_pos hc), hd⟩⟩
  · obtain ⟨t, hx, ha, h⟩ := portIsolate_effect s p
    exact ⟨t, hx, ha.rest, h⟩
  · obtain ⟨t, hx, ha, hp, h⟩ := linkTrain_effect s p hoff hst hb (by rwa [portSock_val]) hr
    exact ⟨t, hx, ha.rest, congrArg Fport.state hp, congrArg Fport.ktx hp, congrArg Fport.krx hp, congrArg Fport.txctr hp,
      congrArg Fport.afail hp, h⟩
  · show Host.Outcome.next (s.writeOff p true) = _
    simp only [State.writeOff, if_true, hoff, hst, or_self, Bool.false_eq_true, if_false]
    rfl
  · show Host.Outcome.next (s.writeOff p false) = _
    simp only [State.writeOff, hoff, hst, and_self, Bool.false_eq_true, if_true, if_false]

end Sys2Proof.Proofs
end

section
/-! PROOF. Requests of the fabric and their responses (R41, R49 to R52, R161): what the gateway sends, how a flow takes a new
plane, and what a response, an error response and an acknowledgement do at the requester. -/

namespace Sys2Proof.Proofs

open Sys2Proof.Machine Sys2Proof.Claims Sys2Proof.Laws

/-! The gateway (R41, R50). -/

/-- Messages of one network leave on a port one after another, each in a flit of its own. -/
theorem upSend_foldl (p : Fin 36) (pay : State → List (BitVec 128) → Nat) (ms : List (List (BitVec 128))) (s : State)
    (hup : s.fports[p].state = 3) (hroom : s.fports[p].replay.length + ms.length ≤ 1024)
    (hctr : s.fports[p].txctr.toNat + ms.length ≤ 0xFFFFFFFF) :
    ∃ (t : State) (flits : List (BitVec 2048)), ms.foldl (fun s m => s.upSend p 0 false (pay s m)) s = t ∧ Outer s t ∧
      flits.length = ms.length ∧ t.outstanding = s.outstanding ∧
      t.outbox = s.outbox ++ flits.mapIdx (fun i x => .upFlit p (s.fports[p].txSeq + BitVec.ofNat 12 (i + 1)) 0 x) ∧
      t.fports[p].txSeq = s.fports[p].txSeq + BitVec.ofNat 12 ms.length := by
  induction ms generalizing s with
  | nil => exact ⟨s, [], rfl, Outer.refl s, rfl, rfl, by simp, by simp⟩
  | cons m r ih =>
    rw [List.length_cons] at hroom hctr
    have hopen : ¬Fport.closed s.fports[p] := by
      rintro (h | h | h)
      · exact h hup
      · rw [show Config.replayScaleUp = 1024 from rfl] at h
        omega
      · rw [h, show (0xFFFFFFFF : BitVec 32).toNat = 0xFFFFFFFF from rfl] at hctr
        omega
    have hd := upSend_of_open s p 0 false (pay s m) hopen
    have hf : (s.upSend p 0 false (pay s m)).fports[p] = Fport.sent s.fports[p] (nextFlit p s.fports[p] 0 false (pay s m)) := by
      rw [hd.fports]
      exact fports_onPort_same s p fun f => Fport.sent f (nextFlit p s.fports[p] 0 false (pay s m))
    have hout := (PortWork.upSend (p := p) s 0 false (pay s m)).outer
    obtain ⟨ag, hd⟩ := hd
    have hob : (s.upSend p 0 false (pay s m)).outbox =
        s.outbox ++ [.upFlit p (s.fports[p].txSeq + 1) 0 (nextFlit p s.fports[p] 0 false (pay s m))] := by rw [hd]; rfl
    have hos : (s.upSend p 0 false (pay s m)).outstanding = s.outstanding := by rw [hd]; rfl
    have hn : (s.fports[p].txctr + 1).toNat ≤ s.fports[p].txctr.toNat + 1 := by
      rw [BitVec.toNat_add]
      exact Nat.mod_le _ _
    have ih := ih (s.upSend p 0 false (pay s m)) (by rw [hf]; exact hup)
      (by rw [hf, Fport.sent, List.length_append, List.length_singleton]; omega) (by rw [hf, Fport.sent]; dsimp only; omega)
    rw [hf, hob, hos] at ih
    obtain ⟨t, flits, ht, ho, hlen, hos', hob', hseq⟩ := ih
    have hstep : ∀ n : Nat, s.fports[p].txSeq + 1 + BitVec.ofNat 12 n = s.fports[p].txSeq + BitVec.ofNat 12 (n + 1) := fun n => by
      rw [BitVec.add_assoc, BitVec.add_comm 1, BitVec.ofNat_add]
      rfl
    refine ⟨t, nextFlit p s.fports[p] 0 false (pay s m) :: flits, ht, hout.trans ho, by simp [hlen], hos', ?_, ?_⟩
    · rw [hob', List.append_assoc, List.mapIdx_cons]
      simp only [Fport.sent, hstep]
      rfl
    · rw [hseq, Fport.sent, List.length_cons]
      exact hstep _

/-- The flow that a request belongs to keeps its plane while that plane is live. -/
theorem planeOf_holdFlows (s : State) (core : CoreId) (pkg vn : Nat) (f : Flow)
    (hf : s.flows.find? (fun f => f.core == core && f.pkg == pkg && f.vn == vn) = some f) (hh : f.holding = false)
    (hl : f.plane ∈ s.livePlanes pkg) : s.holdFlows.planeOf core pkg vn = (some f.plane, s.holdFlows) := by
  have hp : f.pkg = pkg := by
    have h := List.find?_some hf
    simp only [Bool.and_eq_true, beq_iff_eq] at h
    exact h.1.2
  have hfind : s.holdFlows.flows.find? (fun f => f.core == core && f.pkg == pkg && f.vn == vn) = some f := by
    have hc : (fun f : Flow => f.core == core && f.pkg == pkg && f.vn == vn) ∘ (fun f : Flow =>
        if (s.livePlanes f.pkg).contains f.plane then f else { f with holding := true }) =
        fun f => f.core == core && f.pkg == pkg && f.vn == vn := by
      funext g
      dsimp only [Function.comp_apply]
      split <;> rfl
    show List.find? _ (s.flows.map _) = _
    rw [List.find?_map, hc, hf, Option.map_some, hp, if_pos (List.contains_iff_mem.2 hl)]
  unfold State.planeOf
  rw [hfind]
  simp only [hh, Bool.false_eq_true, if_false]

theorem gatewayRequest_of_no_plane (s : State) (c : CoreId) (tag : BitVec 10) (pkg : BitVec 8) (vn : Fin 4) (o : Outstanding)
    (ho : s.outstanding.find? (fun x => x.core == c && x.tag == tag.toNat && x.pkg == pkg.toNat) = some o) (hp : o.plane = none)
    (hpkg : pkg ≠ s.pkgid) (hl : s.livePlanes pkg.toNat = []) :
    exec (.gatewayRequest c tag pkg vn) s = .next (s.later (.errorResponseArrival c tag 0x10)) := by
  show execGatewayRequest c tag pkg vn s = _
  simp only [execGatewayRequest, hpkg, if_false, ho, hp, Option.isSome_none, Bool.false_eq_true, hl, List.isEmpty_nil, if_true]

theorem gatewayRequest_of_plane (s : State) (c : CoreId) (tag : BitVec 10) (pkg : BitVec 8) (vn : Fin 4) (o : Outstanding)
    (ho : s.outstanding.find? (fun x => x.core == c && x.tag == tag.toNat && x.pkg == pkg.toNat) = some o) (hp : o.plane = none)
    (hpkg : pkg ≠ s.pkgid) (f : Flow) (p : Fin 36)
    (hf : s.flows.find? (fun f => f.core == c && f.pkg == pkg.toNat && f.vn == vn.val) = some f) (hh : f.holding = false)
    (hpl : f.plane = p.val) (hl : p.val ∈ s.livePlanes pkg.toNat) (hw : s.flowWaits o = false)
    (hr : s.fports[p].ready vn.val (max o.msgs.length 1) = true) :
    exec (.gatewayRequest c tag pkg vn) s = .next (s.holdFlows.sendOn p o).requeueHeld := by
  have hne : (s.livePlanes pkg.toNat).isEmpty = false := by
    rw [List.isEmpty_eq_false_iff]
    exact List.ne_nil_of_mem hl
  have hr' : s.holdFlows.fports[p].ready vn.val (max o.msgs.length 1) = true := hr
  show execGatewayRequest c tag pkg vn s = _
  simp only [execGatewayRequest, hpkg, if_false, ho, hp, Option.isSome_none, Bool.false_eq_true, hne, hw,
    planeOf_holdFlows s c pkg.toNat vn.val f hf hh (hpl ▸ hl)]
  simp only [hpl, p.isLt, dite_true]
  exact congrArg Host.Outcome.next (if_pos hr')

theorem sendOn_effect (s : State) (p : Fin 36) (o : Outstanding) (ho : o ∈ s.outstanding) (hup : s.fports[p].state = 3)
    (hroom : s.fports[p].replay.length + o.msgs.length ≤ 1024) (hctr : s.fports[p].txctr.toNat + o.msgs.length ≤ 0xFFFFFFFF) :
    Outer s (s.sendOn p o) ∧ ∃ flits : List (BitVec 2048), flits.length = o.msgs.length ∧
      (s.sendOn p o).outbox = s.outbox ++ flits.mapIdx
        (fun i x => .upFlit p (s.fports[p].txSeq + BitVec.ofNat 12 (i + 1)) 0 x) ∧
      { o with plane := some p.val, flit := some (s.fports[p].txSeq + BitVec.ofNat 12 o.msgs.length) } ∈
        (s.sendOn p o).outstanding := by
  obtain ⟨t, flits, ht, h1, h2, h3, h4, h5⟩ := upSend_foldl p (fun s => upPayload o.pkg s.pkgid.toNat o.vn) o.msgs s hup hroom hctr
  unfold State.sendOn
  rw [ht]
  refine ⟨h1.trans ⟨⟨_, _, _, _, _, _, _, _, _, _, _, _, _, _, rfl⟩, List.prefix_rfl, List.prefix_rfl⟩, flits, h2, h4, ?_⟩
  refine List.mem_map.2 ⟨o, h3 ▸ ho, ?_⟩
  simp only [BEq.rfl, Bool.and_self, if_true, h5]

/-! A flow takes a new plane, and a request that is given up (R41, R51). -/

theorem find_named {s : State} {c : CoreId} {pkg : BitVec 8} {vn : Fin 4} {f : Flow}
    (h : s.flows.find? (fun f => f.core == c && f.pkg == pkg.toNat && f.vn == vn.val) = some f) :
    f.core = c ∧ f.pkg = pkg.toNat ∧ f.vn = vn.val := by
  have h := List.find?_some h
  simpa only [Bool.and_eq_true, beq_iff_eq, and_assoc] using h

theorem has_iff (f : Flow) (o : Outstanding) : f.has o = true ↔ o.core = f.core ∧ o.pkg = f.pkg ∧ o.vn = f.vn := by
  simp only [Flow.has, Bool.and_eq_true, beq_iff_eq, and_assoc]

theorem gatewayFlowRemap_of_earlier (s : State) (c : CoreId) (pkg : BitVec 8) (vn : Fin 4) (f : Flow)
    (hf : s.flows.find? (fun f => f.core == c && f.pkg == pkg.toNat && f.vn == vn.val) = some f)
    (h : ∃ x ∈ s.outstanding, f.has x = true ∧ x.plane = some f.plane) : exec (.gatewayFlowRemap c pkg vn) s = .next s := by
  obtain ⟨x, hx, hm, hp⟩ := h
  have hany : (s.outstanding.filter f.has).any (fun o => o.plane == some f.plane) = true :=
    List.any_eq_true.2 ⟨x, List.mem_filter.2 ⟨hx, hm⟩, beq_iff_eq.2 hp⟩
  show execGatewayFlowRemap c pkg vn s = _
  simp only [execGatewayFlowRemap, hf, hany, Bool.or_true, if_true]

theorem gatewayFlowRemap_of_free (s : State) (c : CoreId) (pkg : BitVec 8) (vn : Fin 4) (f : Flow)
    (hf : s.flows.find? (fun f => f.core == c && f.pkg == pkg.toNat && f.vn == vn.val) = some f) (hh : f.holding = true)
    (hr : s.responses = []) (h : ∀ x ∈ s.outstanding, f.has x = true → x.plane ≠ some f.plane) :
    ∃ t, exec (.gatewayFlowRemap c pkg vn) s = .next t ∧ Undisturbed s t ∧ t.flows = s.flows.erase f ∧
      ∀ x ∈ s.outstanding, f.has x = true → x.plane = none → .gatewayRequest c (BitVec.ofNat 10 x.tag) pkg vn ∈ t.agenda := by
  have hany : (s.outstanding.filter f.has).any (fun o => o.plane == some f.plane) = false := by
    refine Bool.eq_false_iff.2 fun ha => ?_
    obtain ⟨x, hx, hp⟩ := List.any_eq_true.1 ha
    obtain ⟨hx, hm⟩ := List.mem_filter.1 hx
    exact h x hx hm (beq_iff_eq.1 hp)
  have hd : OnlyDue { s with flows := s.flows.erase f } (((s.outstanding.filter f.has).filter fun o => o.plane.isNone).foldl
      (fun s o => s.later (.gatewayRequest c (BitVec.ofNat 10 o.tag) pkg vn)) { s with flows := s.flows.erase f }) :=
    OnlyDue.foldl _ (fun t _ => OnlyDue.later t _) _ _
  have hx : exec (.gatewayFlowRemap c pkg vn) s = .next (((s.outstanding.filter f.has).filter fun o => o.plane.isNone).foldl
      (fun s o => s.later (.gatewayRequest c (BitVec.ofNat 10 o.tag) pkg vn)) { s with flows := s.flows.erase f }) := by
    show execGatewayFlowRemap c pkg vn s = _
    simp only [execGatewayFlowRemap, hf, hh, hany, Bool.not_true, Bool.or_self, Bool.false_eq_true, if_false]
    rw [sendResponses_of_none _ (hd.responses.trans hr)]
  refine ⟨_, hx, ?_, ?_, fun x hx hm hn => ?_⟩
  · obtain ⟨u1, u2, u3, u4, u5, u6⟩ := hd.outer.undisturbed
    exact ⟨u1, u2, u3, u4, u5, u6⟩
  · obtain ⟨a, ha⟩ := hd
    rw [ha]
  · refine mem_agenda_foldl_later (fun o : Outstanding => .gatewayRequest c (BitVec.ofNat 10 o.tag) pkg vn) _ _ x ?_
    exact List.mem_filter.2 ⟨List.mem_filter.2 ⟨hx, hm⟩, by rw [hn]; rfl⟩

theorem fabricTimeout_effect (s : State) (c : CoreId) (tag : BitVec 10) (o : Outstanding)
    (ho : s.outstanding.find? (fun x => x.core == c && x.tag == tag.toNat && x.plane.isSome) = some o) :
    ∃ t, exec (.fabricTimeout c tag) s = .next t ∧ Undisturbed s t ∧ t.alrtSeq = s.alrtSeq + 1 ∧
      t.agenda = s.agenda ++ [.errorResponseArrival c tag 0x11] := by
  have hrest : ∀ sock data, Undisturbed s ((s.alert 0x03 sock 0 data).later (.errorResponseArrival c tag 0x11)) ∧
      ((s.alert 0x03 sock 0 data).later (.errorResponseArrival c tag 0x11)).alrtSeq = s.alrtSeq + 1 ∧
      ((s.alert 0x03 sock 0 data).later (.errorResponseArrival c tag 0x11)).agenda =
        s.agenda ++ [.errorResponseArrival c tag 0x11] := fun sock data => by
    obtain ⟨held, flight, lost, out, ha⟩ := alert_effect s 0x03 sock 0 data
    rw [ha]
    exact ⟨⟨rfl, rfl, rfl, rfl, rfl, fun _ => rfl⟩, rfl, rfl⟩
  show ∃ t, execFabricTimeout c tag s = .next t ∧ _
  simp only [execFabricTimeout, ho]
  exact ⟨_, rfl, hrest _ _⟩

/-! Responses (R13, R31, R52). -/

theorem onlyCores_outstanding {s t : State} (h : OnlyCores s t) : t.outstanding = s.outstanding := by
  obtain ⟨_, _, _, rfl⟩ := h
  rfl

theorem getThread_onTid_of_order (s : State) (c : CoreId) (tid : Nat) (f : Thread → Thread) (sl : Fin 8)
    (ho : (s.getThread c sl).order = tid) (hs : (s.getThread c sl).status ≠ .empty) :
    (s.onTid c tid f).getThread c sl = f (s.getThread c sl) := by
  rw [getThread_eq_slot] at ho hs ⊢
  rw [getThread_eq_slot, State.onTid, getCore_onCore_same]
  simp only [Fin.getElem_fin] at ho hs ⊢
  simp [Core.onTid, ho, hs]

theorem getThread_retryOn_same (s : State) (c : CoreId) (p : Wait → Bool) (sl : Fin 8) :
    (s.retryOn c p).getThread c sl = (s.getThread c sl).retryIf p := by
  rw [getThread_eq_slot, getThread_eq_slot, State.retryOn, getCore_onCore_same]
  simp

/-- The end of a request changes no request, no memory and no thread that is ready. -/
theorem requestEnded_effect (s : State) :
    s.requestEnded.outstanding = s.outstanding ∧ (∀ a, s.requestEnded.physByte a = s.physByte a) ∧
      ∀ c sl, (s.getThread c sl).status = .ready → s.requestEnded.getThread c sl = s.getThread c sl := by
  obtain ⟨ag, hd⟩ := onlyDue_remapFlows s
  obtain ⟨k1, t1, c1, h1⟩ := retry_rest s.remapFlows waitsSaving
  obtain ⟨k2, t2, c2, rr, h2⟩ := serveHeld_rest (s.remapFlows.retry waitsSaving) fun w => w == .slot
  refine ⟨?_, fun a => ?_, fun c sl hr => ?_⟩
  · show ((s.remapFlows.retry waitsSaving).serveHeld fun w => w == .slot).outstanding = _
    rw [h2, h1, hd]
  · show ((s.remapFlows.retry waitsSaving).serveHeld fun w => w == .slot).physByte a = _
    rw [h2, h1, hd]
    rfl
  · show ((s.remapFlows.retry waitsSaving).serveHeld fun w => w == .slot).getThread c sl = _
    obtain ⟨q, -, hq⟩ := getThread_serveHeld (s.remapFlows.retry waitsSaving) (fun w => w == .slot) c sl
    have he : s.remapFlows.getThread c sl = s.getThread c sl := by rw [hd]; rfl
    rw [hq, getThread_retry, he, retryIf_of_ready _ _ hr, retryIf_of_ready _ _ hr]

/-- A list in which one element alone satisfies a test is without it what stays when it is taken out. -/
theorem filter_ne_eq_erase {α : Type} [DecidableEq α] (l : List α) (P : α → Bool) (a : α) (h : l.filter P = [a]) :
    (l.filter fun x => !List.contains [a] x) = l.erase a := by
  have hPa : P a = true := (List.mem_filter.1 (h ▸ List.mem_singleton.2 rfl)).2
  have hc : (fun x => !List.contains [a] x) = fun x => decide (x ≠ a) := by
    funext x
    simp
  rw [hc]
  induction l with
  | nil => rfl
  | cons b r ih =>
    by_cases hb : b = a
    · subst hb
      rw [List.filter_cons_of_pos hPa] at h
      have hr : ∀ x ∈ r, x ≠ b := fun x hx he =>
        List.not_mem_nil ((List.cons.inj h).2 ▸ List.mem_filter.2 ⟨he ▸ hx, hPa⟩ : b ∈ ([] : List α))
      rw [List.erase_cons_head, List.filter_cons_of_neg (by simp)]
      exact List.filter_eq_self.2 fun x hx => by simpa using hr x hx
    · have hPb : ¬P b = true := fun hp => by
        rw [List.filter_cons_of_pos hp] at h
        exact hb (List.cons.inj h).1
      rw [List.filter_cons_of_neg hPb] at h
      rw [List.filter_cons_of_pos (by simpa using hb), List.erase_cons_tail (by simpa using hb), ih h]

/-- The state without a request that is answered. -/
def without (s : State) (o : Outstanding) : State := { s with outstanding := s.outstanding.erase o }

/-- A response answers one request: the request is outstanding no more, and is ended. -/
theorem endRequests_of_one (s : State) (c : CoreId) (tag : BitVec 10) (o : Outstanding) (h : s.answered c tag = [o])
    (f : State → Outstanding → State) : s.endRequests (s.answered c tag) f = (f (without s o) o).requestEnded := by
  have he := filter_ne_eq_erase s.outstanding _ o h
  rw [h]
  show (f { s with outstanding := s.outstanding.filter fun x => !List.contains [o] x } o).requestEnded = _
  rw [he]
  rfl

theorem answered_fields {s : State} {c : CoreId} {tag : BitVec 10} {o : Outstanding} (h : s.answered c tag = [o]) :
    o.core = c ∧ o.tag = tag.toNat := by
  have hm : o ∈ s.answered c tag := h ▸ List.mem_singleton.2 rfl
  simpa only [Bool.and_eq_true, beq_iff_eq] using (List.mem_filter.1 hm).2

/-- A thread that waits for a response takes what has come, and is ready. -/
theorem taken_effect (s : State) (o : Outstanding) (f : Thread → Thread) (g : Got)
    (hf : ∀ t : Thread, t.status = .parked (.response o.tag) → f t = { t with got := t.got ++ [g] }) :
    let t := ((without s o).onTid o.core o.tid f).retryOn o.core (waitsTag o.tag)
    t.requestEnded.outstanding = s.outstanding.erase o ∧ (∀ a, t.requestEnded.physByte a = s.physByte a) ∧
      ∀ sl, (s.getThread o.core sl).order = o.tid → (s.getThread o.core sl).status = .parked (.response o.tag) →
        (t.requestEnded.getThread o.core sl).status = .ready ∧
        (t.requestEnded.getThread o.core sl).pc = (s.getThread o.core sl).pc ∧
        (t.requestEnded.getThread o.core sl).got = (s.getThread o.core sl).got ++ [g] := by
  intro t
  obtain ⟨h1, h2, h3⟩ := requestEnded_effect t
  have hc : OnlyCores (without s o) t := (onlyCores_onCore _ _ _).trans (onlyCores_onCore _ _ _)
  refine ⟨h1.trans ?_, fun a => (h2 a).trans (onlyCores_physByte hc a), fun sl ho hs => ?_⟩
  · exact onlyCores_outstanding hc
  · have hw : (without s o).getThread o.core sl = s.getThread o.core sl := rfl
    have ht : t.getThread o.core sl = { s.getThread o.core sl with
        got := (s.getThread o.core sl).got ++ [g], status := .ready } := by
      rw [getThread_retryOn_same, getThread_onTid_of_order _ _ _ _ _ (hw.symm ▸ ho) (by rw [hw, hs]; nofun), hw, hf _ hs]
      exact retryIf_of_parked _ _ (.response o.tag) hs (by simp [waitsTag])
    rw [h3 o.core sl (by rw [ht]), ht]
    exact ⟨rfl, rfl, rfl⟩

theorem deliver_of_read (s : State) (o : Outstanding) (data : BitVec 1024) (he : o.engine = none) (hw : o.write = none)
    (hf : o.fill = false) (ha : o.amo = none)
    (ht : ∀ sl, (s.getThread o.core sl).order = o.tid → (s.getThread o.core sl).status ≠ .parked .travel) :
    s.deliver o data = (s.onTid o.core o.tid fun t => { t with
      got := t.got ++ [⟨o.pa, o.n, none, withOwn o.own o.pa o.n data, none⟩] }).retryOn o.core (waitsTag o.tag) := by
  simp only [State.deliver, ha, hf, he, hw, Bool.false_eq_true, if_false]
  exact if_neg fun h => ht _ h.1 h.2

theorem deliverError_of_read (s : State) (o : Outstanding) (cause : Byte) (he : o.engine = none) (hw : o.write = none)
    (hf : o.fill = false) :
    s.deliverError o cause = (s.onTid o.core o.tid fun t =>
      if t.status = .parked .travel then t.stayHere
      else { t with got := t.got ++ [⟨o.pa, o.n, some cause, 0, none⟩] }).retryOn o.core (waitsTag o.tag) := by
  simp only [State.deliverError, hf, he, hw, Bool.false_eq_true, if_false]

/-! Acknowledgements of writes (R161). -/

theorem writeAck_near (s : State) (c : CoreId) (sl : Fin 8) (p : Pending) (hs : (s.getThread c sl).status = .ready)
    (hp : (s.getCore c).inflight.find? (fun p => p.tid == (s.getThread c sl).order && !p.near) = some p) :
    ∃ t, exec (.writeAck c sl .near) s = .next t ∧ (t.getThread c sl).near = (s.getThread c sl).near - 1 ∧
      (t.getThread c sl).regs = (s.getThread c sl).regs ∧ t.outstanding = s.outstanding ∧ ∀ a, t.physByte a = s.physByte a := by
  have hx : exec (.writeAck c sl .near) s = .next (((s.onCore c fun k => { k with
      inflight := k.inflight.map fun q => if q = p then { q with near := true } else q }).onTid c (s.getThread c sl).order
        fun t => { t with near := t.near - 1 }).retryOn c waitsCounters) := by
    show execWriteAck c sl .near s = _
    simp only [execWriteAck, hp]
  have hc := (onlyCores_onCore s c fun k => { k with
    inflight := k.inflight.map fun q => if q = p then { q with near := true } else q }).trans
      ((onlyCores_onCore _ c fun k => k.onTid (s.getThread c sl).order fun t => { t with near := t.near - 1 }).trans
        (onlyCores_onCore _ c fun k => { k with slots := k.slots.map (Thread.retryIf waitsCounters) }))
  have hth : (s.onCore c fun k => { k with
      inflight := k.inflight.map fun q => if q = p then { q with near := true } else q }).getThread c sl = s.getThread c sl := by
    rw [getThread_eq_slot, getThread_eq_slot, getCore_onCore_same]
  refine ⟨_, hx, ?_⟩
  rw [getThread_retryOn_same, getThread_onTid_of_order _ _ _ _ _ (by rw [hth]) (by rw [hth, hs]; nofun), hth,
    retryIf_of_ready _ _ (by exact hs)]
  exact ⟨rfl, rfl, onlyCores_outstanding hc, fun a => onlyCores_physByte hc a⟩

end Sys2Proof.Proofs
end

section
/-! PROOF. The link table and the package split (R42, R43, R53 to R57), and the events of the fabric. -/

namespace Sys2Proof.Proofs

open Sys2Proof.Machine Sys2Proof.Claims Sys2Proof.Laws

/-! What happens outside the cores does not reach a core. -/

theorem getCore_eq_of_undisturbed {s t : State} (h : Undisturbed s t) (c : CoreId) : t.getCore c = s.getCore c := by
  obtain ⟨h1, h2, h3, h4, h5, -⟩ := h
  simp only [State.getCore, State.here, h1, h2, h3, h4, h5]

/-! The link table (R43). -/

/-- The table and the memory stay as they are. -/
structure TableKept (s t : State) : Prop where
  gen : t.ltGen = s.ltGen
  stale : t.ltStale = s.ltStale
  pending : t.ltPending = s.ltPending
  table : t.linkTable = s.linkTable
  mem : ∀ a, t.physByte a = s.physByte a

namespace TableKept

variable {s t u : State}

theorem refl (s : State) : TableKept s s := ⟨rfl, rfl, rfl, rfl, fun _ => rfl⟩

theorem trans (a : TableKept s t) (b : TableKept t u) : TableKept s u :=
  ⟨b.gen.trans a.gen, b.stale.trans a.stale, b.pending.trans a.pending, b.table.trans a.table, fun p => (b.mem p).trans (a.mem p)⟩

theorem of_outer (h : Outer s t) (hp : t.ltPending = s.ltPending) : TableKept s t := by
  obtain ⟨_, _, _, _, _, _, _, _, _, _, _, _, _, _, rfl⟩ := h.rest
  exact ⟨rfl, rfl, hp, rfl, fun _ => rfl⟩

theorem of_due (h : OnlyDue s t) : TableKept s t := by
  refine of_outer h.outer ?_
  obtain ⟨a, rfl⟩ := h
  rfl

theorem of_onlyCores (h : OnlyCores s t) : TableKept s t := by
  obtain ⟨_, _, _, rfl⟩ := h
  exact ⟨rfl, rfl, rfl, rfl, fun _ => rfl⟩

theorem colRecompute (s : State) (c : CoreId) (o : ColOp) : TableKept s (s.colRecompute c o) :=
  (of_onlyCores (onlyCores_onCore s c _)).trans ((of_outer (outer_out _ _) rfl).trans (of_due (OnlyDue.later _ _)))

theorem colEdges (s : State) : TableKept s s.colEdges := by
  refine List.foldlRecOn s.coreList _ (refl s) fun t ht c _ => ht.trans ?_
  split
  · split
    · exact colRecompute t c _
    · exact refl t
  · exact refl t

theorem tableApplied (s : State) : TableKept s s.tableApplied := by
  have hr := responds_sendResponses s.holdFlows.remapFlows.answerHeld.colEdges
  exact (of_outer (outer_holdFlows s) rfl).trans ((of_due (onlyDue_remapFlows _)).trans ((of_due (onlyDue_answerHeld _)).trans
    ((colEdges _).trans ((of_outer hr.outer hr.pending).trans (of_outer (outer_requeueHeld _) rfl)))))

end TableKept

/-- Entries that no new one names stay. -/
theorem tablePut_of_not_named (es : List (BitVec 8 × Word)) (t : Vector Word 256) (n : Fin 256)
    (h : ∀ e ∈ es, e.1.toNat ≠ n.val) : (tablePut t es)[n] = t[n] := by
  induction es generalizing t with
  | nil => rfl
  | cons e r ih =>
    have ht := ih (t.setIfInBounds e.1.toNat (e.2 &&& 0x1FFFFFFFFF)) fun x hx => h x (List.mem_cons_of_mem e hx)
    refine ht.trans ?_
    exact Vector.getElem_setIfInBounds_ne n.isLt (h e List.mem_cons_self)

/-- Each new entry stands in the table, where no two name the same package. -/
theorem tablePut_of_mem (es : List (BitVec 8 × Word)) (t : Vector Word 256) (hn : (es.map (·.1)).Nodup) (e : BitVec 8 × Word)
    (he : e ∈ es) : (tablePut t es)[e.1.toNat]? = some (e.2 &&& 0x1FFFFFFFFF) := by
  have hlt : e.1.toNat < 256 := e.1.isLt
  induction es generalizing t with
  | nil => simp at he
  | cons x r ih =>
    obtain ⟨hx, hr⟩ := List.nodup_cons.1 (List.map_cons ▸ hn : (x.1 :: r.map (·.1)).Nodup)
    rcases List.mem_cons.1 he with rfl | he
    · have hkeep := tablePut_of_not_named r (t.setIfInBounds e.1.toNat (e.2 &&& 0x1FFFFFFFFF)) ⟨e.1.toNat, hlt⟩
        fun y hy hyx => hx (List.mem_map.2 ⟨y, hy, BitVec.eq_of_toNat_eq hyx⟩)
      rw [Vector.getElem?_eq_getElem hlt]
      refine congrArg some (hkeep.trans ?_)
      exact Vector.getElem_setIfInBounds_self hlt
    · exact ih _ hr he

theorem linkTableGeneration_of_next (s : State) (gen : BitVec 32) (es : List (BitVec 8 × Word)) (hs : s.ltStale = false)
    (hg : gen = s.ltGen + 1) : exec (.linkTableGeneration gen es) s =
      .next ({ s with ltGen := gen, linkTable := tablePut s.linkTable es } : State).tableApplied := by
  show execLinkTableGeneration gen es s = _
  simp only [execLinkTableGeneration, hs, hg, Bool.false_eq_true, if_false, if_true]

theorem linkTableGeneration_of_later (s : State) (gen : BitVec 32) (es : List (BitVec 8 × Word)) (hs : s.ltStale = false)
    (hlt : s.ltGen < gen) (hg : gen ≠ s.ltGen + 1) (hp : s.ltPending = false) : exec (.linkTableGeneration gen es) s =
      .next { s with ltStale := true, ltPending := true, outbox := s.outbox ++ [.tableRequest] } := by
  have hx : exec (.linkTableGeneration gen es) s = .next ({ s with ltStale := true } : State).askTable := by
    show execLinkTableGeneration gen es s = _
    simp only [execLinkTableGeneration, hs, hg, hlt, Bool.false_eq_true, if_false, if_true]
  obtain ⟨-, -, -, h⟩ := askTable_effect ({ s with ltStale := true } : State)
  rw [hx, h hp]

theorem fullTableInstall_of_pending (s : State) (gen : BitVec 32) (es : List (BitVec 8 × Word)) (hp : s.ltPending = true) :
    exec (.fullTableInstall gen es) s = .next ({ s with
      ltGen := gen, ltStale := false, ltPending := false
      linkTable := tablePut (Vector.replicate 256 0) es } : State).tableApplied := by
  show execFullTableInstall gen es s = _
  simp only [execFullTableInstall, hp, if_true]

/-! A group decides (R53 to R55). -/

/-- Events made due where a test holds that nothing due changes. -/
theorem mem_agenda_foldl_due {α : Type} (c : State → α → Bool) (f : α → Instr) (hc : ∀ s t a, OnlyDue s t → c t a = c s a)
    (l : List α) (s : State) (x : α) (hx : x ∈ l) (h : c s x = true) :
    f x ∈ (l.foldl (fun s a => if c s a then s.later (f a) else s) s).agenda := by
  have hstep : ∀ t a, OnlyDue t (if c t a then t.later (f a) else t) := fun t a => by
    split
    · exact OnlyDue.later t _
    · exact OnlyDue.refl t
  induction l generalizing s with
  | nil => simp at hx
  | cons a r ih =>
    rcases List.mem_cons.1 hx with rfl | hx
    · refine (OnlyDue.foldl _ hstep r _).outer.due.subset ?_
      show f x ∈ (if c s x = true then s.later (f x) else s).agenda
      rw [if_pos h, later_agenda]
      exact List.mem_append_right _ (List.mem_singleton.2 rfl)
    · exact ih _ hx ((hc s _ x (hstep s a)).trans h)

/-- The CXL ports of the dies of a mask go down. -/
def cxlDown (s : State) (r : BitVec 24) : State :=
  (List.finRange 4).foldl (fun s p =>
    if r.getLsbD (cxlSock p.val) && s.cxl[p].up then s.later (.cxlPortDown p) else s) s

theorem onlyDue_cxlDown (s : State) (r : BitVec 24) : OnlyDue s (cxlDown s r) := by
  unfold cxlDown
  refine OnlyDue.foldl _ (fun t p => ?_) _ s
  split
  · exact OnlyDue.later t _
  · exact OnlyDue.refl t

/-- The scale-up ports of the dies of a mask go down. -/
def scaleUpDown (s : State) (r : BitVec 24) : State :=
  (List.finRange 36).foldl (fun s p => if r.getLsbD (portSock p).val then s.later (.scaleupPortDown p) else s) s

theorem portsDown_eq (s : State) (r : BitVec 24) : s.portsDown r = scaleUpDown (cxlDown s r) r := rfl

theorem onlyDue_scaleUpDown (s : State) (r : BitVec 24) : OnlyDue s (scaleUpDown s r) := by
  unfold scaleUpDown
  refine OnlyDue.foldl _ (fun t p => ?_) _ s
  split
  · exact OnlyDue.later t _
  · exact OnlyDue.refl t

theorem onlyDue_portsDown (s : State) (r : BitVec 24) : OnlyDue s (s.portsDown r) :=
  (onlyDue_cxlDown s r).trans (onlyDue_scaleUpDown _ r)

theorem onlyDue_cxl {s t : State} (h : OnlyDue s t) : t.cxl = s.cxl := by
  obtain ⟨_, rfl⟩ := h
  rfl

theorem cxlDown_due (s : State) (r : BitVec 24) (q : Fin 4) (h : (r.getLsbD (cxlSock q.val) && s.cxl[q].up) = true) :
    .cxlPortDown q ∈ (cxlDown s r).agenda := by
  have hc : ∀ (s t : State) (a : Fin 4), OnlyDue s t →
      (r.getLsbD (cxlSock a.val) && t.cxl[a].up) = (r.getLsbD (cxlSock a.val) && s.cxl[a].up) := fun s t a h => by
    rw [onlyDue_cxl h]
  have hm := mem_agenda_foldl_due (fun s p => r.getLsbD (cxlSock p.val) && s.cxl[p].up) (fun p => Instr.cxlPortDown p) hc
    (List.finRange 4) s q (List.mem_finRange q) h
  unfold cxlDown
  exact hm

theorem scaleUpDown_due (s : State) (r : BitVec 24) (q : Fin 36) (hr : r.getLsbD (portSock q).val = true) :
    .scaleupPortDown q ∈ (scaleUpDown s r).agenda := by
  unfold scaleUpDown
  exact mem_agenda_foldl_due (fun _ p => r.getLsbD (portSock p).val) (fun p => Instr.scaleupPortDown p) (fun _ _ _ _ => rfl)
    (List.finRange 36) s q (List.mem_finRange q) hr

theorem cxlSock_val (q : Fin 4) : cxlSock q.val = 20 + q.val / 2 := by
  unfold cxlSock
  split <;> omega

theorem portsDown_due (s : State) (r : BitVec 24) :
    (∀ q : Fin 4, r.getLsbD (20 + q.val / 2) = true → s.cxl[q].up = true → .cxlPortDown q ∈ (s.portsDown r).agenda) ∧
      ∀ q : Fin 36, r.getLsbD (22 + q.val / 18) = true → .scaleupPortDown q ∈ (s.portsDown r).agenda := by
  rw [portsDown_eq]
  refine ⟨fun q hr hu => (onlyDue_scaleUpDown _ r).outer.due.subset (cxlDown_due s r q ?_),
    fun q hr => scaleUpDown_due _ r q ?_⟩
  · rw [cxlSock_val, hr, hu, Bool.and_self]
  · rwa [portSock_val]

/-- A core of a fenced die halts with its copies (R55). -/
def haltedIn (r : BitVec 24) (c : CoreId) (k : Core) : Core :=
  if r.getLsbD (sockOf c) then
    { k with stopped := true, copies := k.copies.map fun (x : Copy) => { x with stopped := true } }
  else k

/-- Fencing changes cores, and the mask of fenced dies. -/
theorem fence_effect (s : State) (r : BitVec 24) :
    (∃ k th ks, s.fence r = { s with core := k, th := th, cores := ks, fenced := s.fenced ||| r }) ∧
      ∀ d ∈ s.coreList, r.getLsbD (d / 64) = true → ((s.fence r).getCore d).stopped = true := by
  refine ⟨⟨_, _, _, rfl⟩, fun d hd hr => ?_⟩
  have hc : (s.fence r).getCore d = (s.mapCores (haltedIn r)).getCore d := rfl
  have hh : r.getLsbD (sockOf d) = true := hr
  rw [hc, getCore_mapCores, if_pos hd, haltedIn, if_pos hh]

theorem outer_splitErrors (s : State) (r : BitVec 24) :
    Outer s (s.splitErrors r) ∧ (s.splitErrors r).alrtSeq = s.alrtSeq := by
  refine List.foldlRecOn (motive := fun t => Outer s t ∧ t.alrtSeq = s.alrtSeq) (List.range 4) _ ⟨Outer.refl s, rfl⟩
    fun t ht p _ => ?_
  split
  · exact ⟨ht.1.trans (outer_out t _), ht.2⟩
  · exact ht

theorem groupContinues_iff (r l : BitVec 24) : groupContinues r l = true ↔
    (r.getLsbD 20 = true ∨ r.getLsbD 21 = true) ∧
      (coreDies (l &&& ~~~r) < coreDies r ∨ (coreDies r = coreDies (l &&& ~~~r) ∧ r.getLsbD 20 = true)) := by
  simp [groupContinues]

theorem and_not_and_not (l g : BitVec 24) : l &&& ~~~(l &&& ~~~(g &&& l)) = g &&& l := by
  ext i
  simp
  cases l[i] <;> simp

/-- The mask shrinks, and the wait begins (R54, R56). -/
def splitBegun (s : State) (gone : BitVec 24) : State := { s with
  preSplit := s.liveMask, liveMask := s.liveMask &&& ~~~gone
  splitWait := some (gone ||| (s.splitWait.map (·.1)).getD 0, s.cycles) }

theorem continueWithout_eq (s : State) (gone : BitVec 24) : s.continueWithout gone =
    ((((splitBegun s gone).fence gone).splitErrors (s.liveMask &&& ~~~gone)).alert 0x04
      (if (s.liveMask &&& ~~~gone).getLsbD 20 then 20 else 21) 0
      [gone.setWidth 64, (s.liveMask &&& ~~~gone).setWidth 64]).portsDown gone := by
  unfold State.continueWithout splitBegun
  cases s.splitWait <;> rfl

/-- The masks are as they were. -/
theorem outer_split {s t : State} (h : Outer s t) :
    t.liveMask = s.liveMask ∧ t.preSplit = s.preSplit ∧ t.splitWait = s.splitWait ∧ t.fenced = s.fenced := by
  obtain ⟨_, _, _, _, _, _, _, _, _, _, _, _, _, _, rfl⟩ := h.rest
  exact ⟨rfl, rfl, rfl, rfl⟩

theorem continueWithout_effect (s : State) (gone : BitVec 24) :
    (s.continueWithout gone).liveMask = s.liveMask &&& ~~~gone ∧ (s.continueWithout gone).preSplit = s.liveMask ∧
      (s.continueWithout gone).splitWait = some (gone ||| (s.splitWait.map (·.1)).getD 0, s.cycles) ∧
      (s.continueWithout gone).fenced = s.fenced ||| gone ∧ (s.continueWithout gone).alrtSeq = s.alrtSeq + 1 ∧
      ∀ d ∈ s.coreList, gone.getLsbD (d / 64) = true → ((s.continueWithout gone).getCore d).stopped = true := by
  rw [continueWithout_eq]
  obtain ⟨-, hstop⟩ := fence_effect (splitBegun s gone) gone
  have hu : ((splitBegun s gone).fence gone).liveMask = s.liveMask &&& ~~~gone ∧
      ((splitBegun s gone).fence gone).preSplit = s.liveMask ∧
      ((splitBegun s gone).fence gone).splitWait = some (gone ||| (s.splitWait.map (·.1)).getD 0, s.cycles) ∧
      ((splitBegun s gone).fence gone).fenced = s.fenced ||| gone ∧
      ((splitBegun s gone).fence gone).alrtSeq = s.alrtSeq := ⟨rfl, rfl, rfl, rfl, rfl⟩
  generalize State.fence _ gone = u at hu hstop ⊢
  obtain ⟨u1, u2, u3, u4, u5⟩ := hu
  obtain ⟨e1, e2⟩ := outer_splitErrors u (s.liveMask &&& ~~~gone)
  obtain ⟨a1, -, -, a4⟩ := alert_outer (u.splitErrors (s.liveMask &&& ~~~gone)) 0x04
    (if (s.liveMask &&& ~~~gone).getLsbD 20 = true then 20 else 21) 0 [gone.setWidth 64, (s.liveMask &&& ~~~gone).setWidth 64]
  generalize State.alert _ _ _ _ _ = v at a1 a4 ⊢
  have hd := onlyDue_portsDown v gone
  have ho := e1.trans (a1.trans hd.outer)
  obtain ⟨m1, m2, m3, m4⟩ := outer_split ho
  refine ⟨m1.trans u1, m2.trans u2, m3.trans u3, m4.trans u4, ?_, fun d hd' hg => ?_⟩
  · exact (Responds.of_due hd).seq.trans (a4.trans (congrArg (· + 1) (e2.trans u5)))
  · rw [getCore_eq_of_undisturbed ho.undisturbed]
    exact hstop d hd' hg

theorem fenceGroup_effect (s : State) (r : BitVec 24) :
    (s.fenceGroup r).fenced = s.fenced ||| r ∧ (s.fenceGroup r).liveMask = s.liveMask ∧
      (∀ d ∈ s.coreList, r.getLsbD (d / 64) = true → ((s.fenceGroup r).getCore d).stopped = true) ∧
      (∀ a, (s.fenceGroup r).physByte a = s.physByte a) ∧
      (s.liveMask &&& ~~~(s.fenced ||| r) = 0 → (s.fenceGroup r).agenda = [] ∧
        (∀ q : Fin 4, (s.fenceGroup r).cxl[q].up = false) ∧ ∀ q : Fin 36, (s.fenceGroup r).fports[q].state = 0) ∧
      (s.liveMask &&& ~~~(s.fenced ||| r) ≠ 0 →
        (∀ q : Fin 4, r.getLsbD (20 + q.val / 2) = true → s.cxl[q].up = true → .cxlPortDown q ∈ (s.fenceGroup r).agenda) ∧
        ∀ q : Fin 36, r.getLsbD (22 + q.val / 18) = true → .scaleupPortDown q ∈ (s.fenceGroup r).agenda) := by
  obtain ⟨⟨k, th, ks, hf⟩, hstop⟩ := fence_effect s r
  unfold State.fenceGroup
  dsimp only
  generalize s.fence r = u at hf hstop ⊢
  have hmask : u.liveMask &&& ~~~u.fenced = s.liveMask &&& ~~~(s.fenced ||| r) := by rw [hf]
  have hmem : ∀ a, u.physByte a = s.physByte a := fun a => by rw [hf]; rfl
  rw [hmask]
  by_cases h0 : s.liveMask &&& ~~~(s.fenced ||| r) = 0
  · rw [if_pos h0]
    refine ⟨by rw [hf], by rw [hf], hstop, hmem, fun _ => ⟨rfl, fun q => ?_, fun q => ?_⟩, fun h => absurd h0 h⟩
    · simp
    · simp
  · rw [if_neg h0]
    have hdue := onlyDue_portsDown u r
    have hp := portsDown_due u r
    have hu := hdue.outer.undisturbed
    obtain ⟨ag, hd⟩ := hdue
    refine ⟨by rw [hd, hf], by rw [hd, hf], fun d hd' hr => ?_, fun a => (hu.2.2.2.2.2 a).trans (hmem a),
      fun h => absurd h h0, fun _ => ⟨fun q hr hq => hp.1 q hr ?_, hp.2⟩⟩
    · rw [getCore_eq_of_undisturbed hu]
      exact hstop d hd' hr
    · rw [hf]
      exact hq

/-- A group of live dies decides from the live mask. -/
theorem splitDetect_of_live (s : State) (group : BitVec 24) (hr : group &&& s.liveMask ≠ 0) :
    exec (.splitDetect group) s = .next (
      if s.liveMask &&& ~~~(group &&& s.liveMask) = 0 then s
      else if groupContinues (group &&& s.liveMask) s.liveMask = true then
        s.continueWithout (s.liveMask &&& ~~~(group &&& s.liveMask))
      else s.fenceGroup (group &&& s.liveMask)) := by
  show execSplitDetect group s = _
  simp only [execSplitDetect, hr, if_false, false_or, true_and]

/-- A group without a live die, after another group has decided, fences itself. -/
theorem splitDetect_of_earlier (s : State) (group : BitVec 24) (hr : group &&& s.liveMask = 0) (hb : group &&& s.preSplit ≠ 0)
    (hl : s.preSplit &&& ~~~(group &&& s.preSplit) ≠ 0) :
    exec (.splitDetect group) s = .next (s.fenceGroup (group &&& s.preSplit)) := by
  have hne : s.preSplit ≠ s.liveMask := fun he => hb (he ▸ hr)
  show execSplitDetect group s = _
  simp only [execSplitDetect, hr, if_true, hb, hl, hne, or_self, false_and, if_false]

/-! The wait ends (R56). -/

/-- The wait, the lost dies and the threads stay as they are. -/
structure SplitKept (s t : State) : Prop where
  wait : t.splitWait = s.splitWait
  lost : t.lostDies = s.lostDies
  threads : ∀ c sl, t.getThread c sl = s.getThread c sl

namespace SplitKept

variable {s t u : State}

theorem refl (s : State) : SplitKept s s := ⟨rfl, rfl, fun _ _ => rfl⟩

theorem trans (a : SplitKept s t) (b : SplitKept t u) : SplitKept s u :=
  ⟨b.wait.trans a.wait, b.lost.trans a.lost, fun c sl => (b.threads c sl).trans (a.threads c sl)⟩

theorem foldl {α : Type} (f : State → α → State) (h : ∀ s a, SplitKept s (f s a)) (l : List α) (s : State) :
    SplitKept s (l.foldl f s) :=
  List.foldlRecOn l f (refl s) fun t ht a _ => ht.trans (h t a)

theorem dropDirty (s : State) (pa n : Nat) : SplitKept s (s.dropDirty pa n) := by
  induction n generalizing s pa with
  | zero => exact refl s
  | succ n ih =>
    exact SplitKept.trans (t := { s with dirty := mapErase s.dirty pa }) ⟨rfl, rfl, fun _ _ => rfl⟩ (ih _ (pa + 1))

theorem setLine (s : State) (line : Nat) (e : LineEntry) : SplitKept s (s.setLine line e) := by
  rw [setLine_rest]
  exact ⟨rfl, rfl, fun _ _ => rfl⟩

theorem uncache (s : State) (line : Nat) : SplitKept s (s.uncache line) := by
  refine ⟨rfl, rfl, fun c sl => ?_⟩
  rw [getThread_eq_slot, getThread_eq_slot, State.uncache, getCore_mapCores_of_idle _ _ _ rfl]

theorem loseDirty (s : State) (gone : BitVec 24) : SplitKept s (s.loseDirty gone) := by
  unfold State.loseDirty
  refine SplitKept.trans (foldl _ (fun t p => ?_) s.lines s) (foldl _ (fun t p => ?_) _ _)
  · dsimp only
    split
    · split
      · refine SplitKept.trans (foldl _ (fun u j => ?_) (List.range 8) t) ((setLine _ _ _).trans (uncache _ _))
        split
        · exact dropDirty u _ _
        · exact refl u
      · exact refl t
    · exact refl t
  · dsimp only
    split
    · exact (foldl _ (fun u pa => dropDirty u _ _) _ t).trans ⟨rfl, rfl, fun _ _ => rfl⟩
    · split
      · exact ⟨rfl, rfl, fun _ _ => rfl⟩
      · exact refl t

end SplitKept

theorem onlyDue_retryQueues (s : State) : OnlyDue s s.retryQueues :=
  (OnlyDue.foldl _ (fun t _ => OnlyDue.later t _) _ s).trans
    (OnlyDue.foldl _ (fun t _ => OnlyDue.foldl _ (fun u _ => OnlyDue.later u _) _ t) _ _)

/-- Host lines that a fenced die holds are lost with the memory behind them. -/
def loseHostLines (s : State) (gone : BitVec 24) : State :=
  (s.hostLines.filter fun q => gone.getLsbD (homeOf (64 * q.1))).foldl (fun (s : State) q => { s with
    hostLines := mapErase s.hostLines q.1, mem := memWrite s.mem (64 * q.1) 64 0 }) s

theorem SplitKept.loseHostLines (s : State) (gone : BitVec 24) : SplitKept s (loseHostLines s gone) := by
  unfold Proofs.loseHostLines
  refine SplitKept.foldl _ (fun t q => ?_) _ s
  exact ⟨rfl, rfl, fun _ _ => rfl⟩

/-- The dies are lost, and the tiles and replicas on them. -/
def loseDies (s : State) (gone : BitVec 24) : State := { s with
  lostDies := s.lostDies ||| gone
  tiles := s.tiles.map fun (p : Nat × Tile) => if gone.getLsbD (homeOf p.1) then (p.1, { p.2 with tstate := .lost }) else p
  replicas := s.replicas.filter fun r => !gone.getLsbD r.die }

theorem splitWaitExpire_effect (s : State) (m : BitVec 24) (w : Nat) (hw : s.splitWait = some (m, w)) :
    ∃ t, exec .splitWaitExpire s = .next t ∧ t.splitWait = none ∧ t.lostDies = s.lostDies ||| m ∧ t.hostHeld = [] ∧
      (∀ p ∈ t.tiles, m.getLsbD (homeOf p.1) = true → p.2.tstate = .lost) ∧
      ∀ d sl, (s.getThread d sl).status = .parked .split → (t.getThread d sl).status = .ready := by
  have hx : exec .splitWaitExpire s = .next
      (((loseDies (loseHostLines (({ s with splitWait := none } : State).loseDirty m) m) m).serveHeld
        fun w => w == .split).retryQueues.requeueHeld) := by
    show execSplitWaitExpire s = _
    simp only [execSplitWaitExpire, hw]
    rfl
  have hk : SplitKept { s with splitWait := none } (loseHostLines (({ s with splitWait := none } : State).loseDirty m) m) :=
    (SplitKept.loseDirty _ m).trans (SplitKept.loseHostLines _ m)
  generalize loseHostLines (({ s with splitWait := none } : State).loseDirty m) m = u at hx hk
  obtain ⟨k, th, ks, rr, hsv⟩ := serveHeld_rest (loseDies u m) fun w => w == .split
  obtain ⟨ag, hq⟩ := onlyDue_retryQueues ((loseDies u m).serveHeld fun w => w == .split)
  refine ⟨_, hx, ?_, ?_, rfl, fun p hp hm => ?_, fun d sl hs => ?_⟩
  · show ((loseDies u m).serveHeld _).retryQueues.splitWait = none
    rw [hq, hsv]
    exact hk.wait
  · show ((loseDies u m).serveHeld _).retryQueues.lostDies = _
    rw [hq, hsv]
    exact congrArg (· ||| m) hk.lost
  · have ht : (((loseDies u m).serveHeld fun w => w == .split).retryQueues.requeueHeld).tiles = (loseDies u m).tiles := by
      show ((loseDies u m).serveHeld _).retryQueues.tiles = _
      rw [hq, hsv]
    rw [ht] at hp
    obtain ⟨q, -, rfl⟩ := List.mem_map.1 hp
    by_cases hg : m.getLsbD (homeOf q.1) = true
    · rw [if_pos hg]
    · rw [if_neg hg] at hm
      exact absurd hm hg
  · have ht : (((loseDies u m).serveHeld fun w => w == .split).retryQueues.requeueHeld).getThread d sl =
        ((loseDies u m).serveHeld fun w => w == .split).getThread d sl := by
      show ((loseDies u m).serveHeld _).retryQueues.getThread d sl = _
      rw [hq]
      rfl
    have hs' : ((loseDies u m).getThread d sl).status = .parked .split := (congrArg Thread.status (hk.threads d sl)).trans hs
    obtain ⟨q, hq', hth⟩ := getThread_serveHeld (loseDies u m) (fun w => w == .split) d sl
    rw [ht, hth, retryIf_of_parked _ _ _ hs' (hq' _ (by simp))]

/-- Settles O42: one lemma per event of the fabric, for each way it can go. -/
theorem fabricEvents : Obligations.FabricEvents := by
  unfold Obligations.FabricEvents
  intro s c tag pkg vn cause data o gen es group
  dsimp only
  refine ⟨fun ho hp hpkg => ⟨gatewayRequest_of_no_plane s c tag pkg vn o ho hp hpkg, fun f p hf hh hpl hl hw hr hc => ?_⟩,
    fun f hf hh hr => ⟨fun h => ?_, fun h => ?_⟩, fabricTimeout_effect s c tag o, fun ha he hw hfill hamo ht => ?_,
    fun sl p => writeAck_near s c sl p, fun hs hg hn => ?_, linkTableGeneration_of_later s gen es, fun hp hn => ?_,
    fun hg hgo => ?_, fun hr hg hgo => ?_, fun hr hb hl => ?_, splitWaitExpire_effect s⟩
  · have hr' := hr
    simp only [Fport.ready, Bool.and_eq_true, beq_iff_eq, decide_eq_true_eq] at hr'
    obtain ⟨⟨⟨hup, hroom⟩, -⟩, -⟩ := hr'
    rw [show Config.replayScaleUp = 1024 from rfl] at hroom
    have hx := gatewayRequest_of_plane s c tag pkg vn o ho hp hpkg f p hf hh hpl hl hw hr
    obtain ⟨h1, flits, h2, h3, h4⟩ := sendOn_effect s.holdFlows p o (List.mem_of_find?_eq_some ho) hup
      (by show s.fports[p].replay.length + _ ≤ _; omega) hc
    exact ⟨_, flits, hx, ((outer_holdFlows s).trans (h1.trans (outer_requeueHeld _))).undisturbed, h2, h3, h4⟩
  · obtain ⟨x, hx, h1, h2, h3, h4⟩ := h
    obtain ⟨f1, f2, f3⟩ := find_named hf
    exact gatewayFlowRemap_of_earlier s c pkg vn f hf ⟨x, hx, (has_iff f x).2 ⟨h1.trans f1.symm, h2.trans f2.symm, h3.trans f3.symm⟩, h4⟩
  · obtain ⟨f1, f2, f3⟩ := find_named hf
    have hmine : ∀ x : Outstanding, f.has x = true ↔ x.core = c ∧ x.pkg = pkg.toNat ∧ x.vn = vn.val := fun x => by
      rw [has_iff, f1, f2, f3]
    obtain ⟨t, hx, hu, hfl, hag⟩ := gatewayFlowRemap_of_free s c pkg vn f hf hh hr fun x hx hm => by
      obtain ⟨m1, m2, m3⟩ := (hmine x).1 hm
      exact h x hx m1 m2 m3
    exact ⟨t, hx, hu, hfl, fun x hx m1 m2 m3 => hag x hx ((hmine x).2 ⟨m1, m2, m3⟩)⟩
  · obtain ⟨hc, htag⟩ := answered_fields ha
    subst hc
    have hw' : ∀ sl, ((without s o).getThread o.core sl).order = o.tid →
      ((without s o).getThread o.core sl).status ≠ .parked .travel := ht
    refine ⟨⟨_, congrArg Host.Outcome.next (endRequests_of_one s o.core tag o ha _), ?_⟩,
      ⟨_, congrArg Host.Outcome.next (endRequests_of_one s o.core tag o ha _), ?_⟩⟩
    · rw [deliver_of_read (without s o) o data he hw hfill hamo hw']
      exact taken_effect s o _ _ fun _ _ => rfl
    · rw [deliverError_of_read (without s o) o cause he hw hfill]
      exact taken_effect s o _ _ fun t hp => if_neg (by rw [hp]; nofun)
  · have hk := TableKept.tableApplied { s with ltGen := gen, linkTable := tablePut s.linkTable es }
    refine ⟨_, linkTableGeneration_of_next s gen es hs hg, hk.gen, hk.stale.trans hs, hk.mem, fun e he => ?_, fun n hne => ?_⟩
    · rw [hk.table]
      exact tablePut_of_mem es _ hn e he
    · rw [hk.table]
      exact tablePut_of_not_named es _ n hne
  · have hk := TableKept.tableApplied { s with
      ltGen := gen, ltStale := false, ltPending := false, linkTable := tablePut (Vector.replicate 256 0) es }
    refine ⟨_, fullTableInstall_of_pending s gen es hp, hk.gen, hk.stale, hk.pending, hk.mem, fun e he => ?_, fun n hne => ?_⟩
    · rw [hk.table]
      exact tablePut_of_mem es _ hn e he
    · rw [hk.table]
      exact (tablePut_of_not_named es _ n hne).trans (by simp)
  · have hr : group &&& s.liveMask ≠ 0 := fun h0 => by simp [h0] at hgo
    obtain ⟨h1, h⟩ := continueWithout_effect s (s.liveMask &&& ~~~(group &&& s.liveMask))
    rw [and_not_and_not] at h1
    refine ⟨_, (splitDetect_of_live s group hr).trans (congrArg Host.Outcome.next ?_), h1, h⟩
    rw [if_neg hg, if_pos ((groupContinues_iff _ _).2 hgo)]
  · refine ⟨_, (splitDetect_of_live s group hr).trans (congrArg Host.Outcome.next ?_), fenceGroup_effect s _⟩
    rw [if_neg hg, if_neg fun hc => hgo ((groupContinues_iff _ _).1 hc)]
  · obtain ⟨h1, h2, -, h4, -⟩ := fenceGroup_effect s (group &&& s.preSplit)
    exact ⟨_, splitDetect_of_earlier s group hr hb hl, h1, h2, h4⟩

end Sys2Proof.Proofs
end

section
/-! PROOF. What the writes of the machine's own units leave alone: the bands and the causeway, the launches, the teams of every
core, and the team of every thread. -/

namespace Sys2Proof.Proofs

open Sys2Proof.Machine Sys2Proof.Claims Sys2Proof.Laws

/-! The relation. -/

/-- No team is new on a core, no thread changes its team, and no empty slot is filled. -/
structure AsideCore (k k' : Core) : Prop where
  teams : ∀ x ∈ k'.teams, ∃ y ∈ k.teams, y.id = x.id
  slots : ∀ sl : Fin 8, k'.slots[sl].team = k.slots[sl].team ∧ (k.slots[sl].status = .empty → k'.slots[sl].status = .empty)

namespace AsideCore

variable {k k' k'' : Core}

theorem of_eq (ht : k'.teams = k.teams) (hs : k'.slots = k.slots) : AsideCore k k' := by
  refine ⟨fun x hx => ⟨x, ht ▸ hx, rfl⟩, fun sl => ?_⟩
  rw [hs]
  exact ⟨rfl, id⟩

theorem refl (k : Core) : AsideCore k k := of_eq rfl rfl

theorem trans (a : AsideCore k k') (b : AsideCore k' k'') : AsideCore k k'' := by
  refine ⟨fun x hx => ?_, fun sl => ⟨(b.slots sl).1.trans (a.slots sl).1, fun h => (b.slots sl).2 ((a.slots sl).2 h)⟩⟩
  obtain ⟨y, hy, he⟩ := b.teams x hx
  obtain ⟨z, hz, he'⟩ := a.teams y hy
  exact ⟨z, hz, he'.trans he⟩

/-- Threads changed one by one, each within its team and no empty one filled. -/
theorem of_slots (f : Fin 8 → Thread → Thread) (hf : ∀ i t, (f i t).team = t.team ∧ (t.status = .empty → (f i t).status = .empty))
    (ht : k'.teams = k.teams) (hs : ∀ sl : Fin 8, k'.slots[sl] = f sl k.slots[sl]) : AsideCore k k' := by
  refine ⟨fun x hx => ⟨x, ht ▸ hx, rfl⟩, fun sl => ?_⟩
  rw [hs]
  exact hf sl _

end AsideCore

/-- The bands, the causeway and the launches are as they were, and every core is as `AsideCore` says. -/
structure Aside (s t : State) : Prop where
  causeway : t.causeway = s.causeway
  bands : t.bands = s.bands
  launches : t.launches = s.launches
  core : ∀ c, AsideCore (s.getCore c) (t.getCore c)

namespace Aside

variable {s t u : State}

theorem refl (s : State) : Aside s s := ⟨rfl, rfl, rfl, fun _ => .refl _⟩

theorem trans (a : Aside s t) (b : Aside t u) : Aside s u :=
  ⟨b.causeway.trans a.causeway, b.bands.trans a.bands, b.launches.trans a.launches, fun c => (a.core c).trans (b.core c)⟩

theorem foldl {α : Type} (f : State → α → State) (h : ∀ s a, Aside s (f s a)) (l : List α) (s : State) : Aside s (l.foldl f s) :=
  List.foldlRecOn l f (refl s) fun t ht a _ => ht.trans (h t a)

theorem ite (c : Prop) [Decidable c] (h : c → Aside s t) (h' : ¬c → Aside s u) : Aside s (if c then t else u) := by
  split
  · next hc => exact h hc
  · next hc => exact h' hc

theorem dite (c : Prop) [Decidable c] {t : c → State} {u : ¬c → State} (h : ∀ hc, Aside s (t hc)) (h' : ∀ hc, Aside s (u hc)) :
    Aside s (if hc : c then t hc else u hc) := by
  split
  · next hc => exact h hc
  · next hc => exact h' hc

theorem of_due (h : OnlyDue s t) : Aside s t := by
  obtain ⟨_, rfl⟩ := h
  exact ⟨rfl, rfl, rfl, fun _ => .refl _⟩

theorem later (s : State) (i : Instr) : Aside s (s.later i) := of_due (OnlyDue.later s i)

theorem onCore (s : State) (c : CoreId) (f : Core → Core) (h : ∀ k, AsideCore k (f k)) : Aside s (s.onCore c f) := by
  obtain ⟨_, _, _, he⟩ := onlyCores_onCore s c f
  refine ⟨by rw [he], by rw [he], by rw [he], fun d => ?_⟩
  rw [getCore_onCore]
  split
  · exact h _
  · exact .refl _

theorem mapCores (s : State) (f : CoreId → Core → Core) (h : ∀ c k, AsideCore k (f c k)) : Aside s (s.mapCores f) := by
  refine ⟨rfl, rfl, rfl, fun d => ?_⟩
  rw [getCore_mapCores]
  split
  · exact h d _
  · next hd =>
    rw [getCore_of_not_mem s d hd]
    exact .refl _

theorem mapThreads (s : State) (f : CoreId → Fin 8 → Thread → Thread)
    (h : ∀ c i t, (f c i t).team = t.team ∧ (t.status = .empty → (f c i t).status = .empty)) : Aside s (s.mapThreads f) :=
  mapCores s _ fun c _ => .of_slots (f c) (h c) rfl fun sl => by simp

end Aside

/-! Threads that run again. -/

theorem retryIf_aside (p : Wait → Bool) (t : Thread) :
    (t.retryIf p).team = t.team ∧ (t.status = .empty → (t.retryIf p).status = .empty) := by
  refine ⟨?_, fun h => by simp [Thread.retryIf, h]⟩
  unfold Thread.retryIf
  split
  · split <;> rfl
  · rfl

theorem checkWaitev_aside (t : Thread) : t.checkWaitev.team = t.team ∧ (t.status = .empty → t.checkWaitev.status = .empty) := by
  refine ⟨?_, fun h => by simp [Thread.checkWaitev, h]⟩
  unfold Thread.checkWaitev
  split
  · split <;> rfl
  · rfl

/-- A JOIN whose counter lies in a line that is written reads again (R297). -/
def rejoin (line : Nat) (t : Thread) : Thread :=
  match t.status with
  | .parked (.join l _) => if l = line then { t with status := .ready } else t
  | _ => t

theorem rejoin_aside (line : Nat) (t : Thread) :
    (rejoin line t).team = t.team ∧ (t.status = .empty → (rejoin line t).status = .empty) := by
  refine ⟨?_, fun h => by simp [rejoin, h]⟩
  unfold rejoin
  split
  · split <;> rfl
  · rfl

theorem trigger_cases (line : Nat) (t : Thread) : t.trigger line = rejoin line t ∨
    ∃ w, t.trigger line = ({ rejoin line t with watch := w } : Thread).checkWaitev := by
  by_cases h : (rejoin line t).watch.any fun e => e.armed && !e.polled && e.line == line
  · exact .inr ⟨_, if_pos h⟩
  · exact .inl (if_neg h)

theorem trigger_aside (line : Nat) (t : Thread) :
    (t.trigger line).team = t.team ∧ (t.status = .empty → (t.trigger line).status = .empty) := by
  obtain ⟨h1, h2⟩ := rejoin_aside line t
  rcases trigger_cases line t with h | ⟨w, h⟩ <;> rw [h]
  · exact ⟨h1, h2⟩
  · obtain ⟨c1, c2⟩ := checkWaitev_aside { rejoin line t with watch := w }
    exact ⟨c1.trans h1, fun he => c2 (h2 he)⟩

/-- Held requests that are served: the threads run again. -/
theorem serveHeld_eq (s : State) (p : Wait → Bool) :
    ∃ q l r, s.serveHeld p = { s.retry q with holdings := l, rerun := r } := ⟨_, _, _, rfl⟩

namespace Aside

theorem retry (s : State) (p : Wait → Bool) : Aside s (s.retry p) := mapThreads s _ fun _ _ => retryIf_aside p

theorem retryOn (s : State) (c : CoreId) (p : Wait → Bool) : Aside s (s.retryOn c p) :=
  onCore s c _ fun _ => .of_slots (fun _ => Thread.retryIf p) (fun _ => retryIf_aside p) rfl fun sl => by simp

theorem trigger (s : State) (line : Nat) : Aside s (s.trigger line) := mapThreads s _ fun _ _ => trigger_aside line

theorem requeueHeld (s : State) : Aside s s.requeueHeld := ⟨rfl, rfl, rfl, fun _ => .refl _⟩

theorem serveHeld (s : State) (p : Wait → Bool) : Aside s (s.serveHeld p) := by
  obtain ⟨q, l, r, h⟩ := serveHeld_eq s p
  rw [h]
  exact (retry s q).trans ⟨rfl, rfl, rfl, fun _ => .refl _⟩

theorem requestEnded (s : State) : Aside s s.requestEnded :=
  (of_due (onlyDue_remapFlows s)).trans ((retry _ _).trans ((serveHeld _ _).trans (requeueHeld _)))

/-! Lines, tiles and channels (R90 to R114). -/

theorem channelTake (s : State) (pa : Nat) (wr : Bool) : Aside s (s.channelTake pa wr) := by
  unfold State.channelTake
  split
  · split
    · exact ⟨rfl, rfl, rfl, fun _ => .refl _⟩
    · exact refl s
  · exact refl s

theorem setLine (s : State) (line : Nat) (e : LineEntry) : Aside s (s.setLine line e) := by
  rw [setLine_rest]
  exact ⟨rfl, rfl, rfl, fun _ => .refl _⟩

theorem dieCrowd (s : State) (die line : Nat) : Aside s (s.dieCrowd die line) := by
  unfold State.dieCrowd
  dsimp only
  split
  · split
    · exact later s _
    · exact refl s
  · exact refl s

theorem frameTake (s : State) (pa n : Nat) (wr : Bool) : Aside s (s.frameTake pa n wr) := foldl _ (fun t _ => channelTake t _ _) _ s

theorem putBacking (s : State) (pa : Nat) (b : Byte) : Aside s (s.putBacking pa b) := by
  unfold State.putBacking
  split
  · split <;> exact ⟨rfl, rfl, rfl, fun _ => .refl _⟩
  · exact ⟨rfl, rfl, rfl, fun _ => .refl _⟩

theorem writeBack (s : State) (pa n : Nat) : Aside s (s.writeBack pa n) := by
  induction n generalizing s pa with
  | zero => exact refl s
  | succ n ih =>
    unfold State.writeBack
    refine Aside.trans ?_ (ih _ (pa + 1))
    split
    · next b _ =>
      exact (putBacking s pa b).trans ⟨rfl, rfl, rfl, fun _ => .refl _⟩
    · exact refl s

theorem writeRequest (s : State) (line : Nat) : Aside s (s.writeRequest line) := by
  unfold State.writeRequest
  exact ite _ (fun _ => channelTake s _ _) fun _ => refl s

theorem lineWriteBack (s : State) (line : Nat) : Aside s (s.lineWriteBack line) := by
  refine (writeRequest s line).trans (foldl _ (fun t j => ?_) _ _)
  dsimp only
  split
  · exact refl t
  · exact writeBack t _ _

theorem lineForStore (s : State) (src : Source) (line : Nat) : Aside s (s.lineForStore src line) := by
  unfold State.lineForStore
  dsimp only
  split
  · exact (ite _ (fun _ => lineWriteBack s line) fun _ => refl s).trans (setLine _ _ _)
  · split
    · exact (channelTake s _ _).trans ((setLine _ _ _).trans (dieCrowd _ _ _))
    · exact channelTake s _ _

theorem dropReplica (s : State) (c : CoreId) (pa : Nat) : Aside s (s.dropReplica c pa) := by
  unfold State.dropReplica
  split
  · exact refl s
  · split
    · exact ⟨rfl, rfl, rfl, fun _ => .refl _⟩
    · exact refl s

theorem tiles (h : Aside s t) (m : Map Tile) (d : Map Byte) : Aside s { t with tiles := m, dirty := d } :=
  h.trans ⟨rfl, rfl, rfl, fun _ => .refl _⟩

theorem replicas (s : State) (l : List Replica) : Aside s { s with replicas := l } := ⟨rfl, rfl, rfl, fun _ => .refl _⟩

theorem kills (s : State) (l : List Kill) : Aside s { s with kills := l } := ⟨rfl, rfl, rfl, fun _ => .refl _⟩

theorem tileDirty (s : State) (src : Source) (pb : Nat) (t : Tile) (pa : Nat) (b : Byte) : Aside s (s.tileDirty src pb t pa b) := by
  unfold State.tileDirty
  refine tiles ((dropReplica s src.core pa).trans ?_) _ _
  split
  · split
    · exact refl _
    · exact (writeRequest _ _).trans (foldl _ (fun u _ => writeBack u _ _) _ _)
  · exact refl _

theorem tileFill (s : State) (pb : Nat) (t : Tile) : Aside s (s.tileFill pb t) := by
  unfold State.tileFill
  exact ite _ (fun _ => refl s) fun _ => foldl _ (fun u _ => channelTake u _ _) _ s

theorem claim (s : State) (src : Source) (pb : Nat) (t : Tile) : Aside s (s.claim src pb t) :=
  (tileFill s pb t).trans ⟨rfl, rfl, rfl, fun _ => .refl _⟩

theorem tileArrives (s : State) (pb : Nat) (t : Tile) (c : CoreId) : Aside s (s.tileArrives pb t c) := by
  unfold State.tileArrives
  exact (replicas s _).trans (foldl _ (fun u _ => dieCrowd u _ _) _ _)

theorem tileStore (s : State) (src : Source) (pb : Nat) (t : Tile) (pa : Nat) (b : Byte) : Aside s (s.tileStore src pb t pa b) := by
  have hput := (dropReplica s src.core pa).trans (putBacking _ pa b)
  unfold State.tileStore
  split
  · exact tileDirty s src pb t pa b
  · exact ite _ (fun _ => (claim s src pb t).trans ((tileDirty _ src pb _ pa b).trans (tileArrives _ pb t _))) fun _ => hput
  · exact hput
  · exact hput
  · exact hput

theorem lineStore (s : State) (pa : Nat) (b : Byte) : Aside s (s.lineStore pa b) := by
  unfold State.lineStore
  dsimp only
  split
  · split
    · exact ⟨rfl, rfl, rfl, fun _ => .refl _⟩
    · exact (setLine s _ _).trans ⟨rfl, rfl, rfl, fun _ => .refl _⟩
  · exact ⟨rfl, rfl, rfl, fun _ => .refl _⟩

theorem storeByte (s : State) (src : Source) (pa : Nat) (b : Byte) : Aside s (s.storeByte src pa b) := by
  unfold State.storeByte
  split
  · exact tileStore s src _ _ pa b
  · exact lineStore s pa b

theorem storeBytes (s : State) (src : Source) (pa n v : Nat) : Aside s (s.storeBytes src pa n v) := by
  induction n generalizing s pa v with
  | zero => exact refl s
  | succ n ih => exact (storeByte s src pa _).trans (ih _ _ _)

theorem clearMarks (s : State) (pa n : Nat) : Aside s (s.clearMarks pa n) := ⟨rfl, rfl, rfl, fun _ => .refl _⟩

theorem endExcl (s : State) (c : CoreId) (line : Nat) : Aside s (s.endExcl c line) := by
  unfold State.endExcl
  exact ite _ (fun _ => setLine s _ _) fun _ => refl s

theorem touch (s : State) (c : CoreId) (line : Nat) (m : BitVec 8) : Aside s (s.touch c line m) := by
  unfold State.touch
  refine Aside.trans ?_ (onCore _ c (Core.touch line m) fun k => .of_eq rfl rfl)
  split
  · exact endExcl s c _
  · exact refl s

theorem keepStored (s : State) (c : CoreId) (line : Nat) (m : BitVec 8) : Aside s (s.keepStored c line m) := by
  unfold State.keepStored
  exact ite _ (fun _ => setLine s _ _) fun _ => refl s

theorem sendKills (s : State) (line : Nat) (c : CoreId) (tid : Nat) : Aside s (s.sendKills line c tid) := by
  unfold State.sendKills
  dsimp only
  refine ite _ (fun _ => (setLine s _ _).trans (foldl _ (fun t i => ?_) _ _)) fun _ => refl s
  exact ite _ (fun _ => dite _ (fun _ => (kills t _).trans (later _ _)) fun _ => kills t _) fun _ => refl t

theorem invalidateOthers (s : State) (line : Nat) (c : CoreId) : Aside s (s.invalidateOthers line c) := by
  refine mapCores s _ fun d k => ?_
  split
  · exact .refl k
  · exact .of_eq rfl rfl

theorem lineWritten (s : State) (src : Source) (line : Nat) : Aside s (s.lineWritten src line) := by
  unfold State.lineWritten
  have h := (sendKills s line src.core src.tid).trans ((trigger _ line).trans (invalidateOthers _ line src.core))
  exact ite _ (fun _ => h.trans (of_due (onlyDue_retryQueues _))) fun _ => h

/-! What holds an access back (R36, R66, R109). -/

theorem holdEntry (s : State) (by' : Requester) (die : Nat) (c : HoldClass) (w : Wait) : Aside s (s.holdEntry by' die c w) := by
  unfold State.holdEntry
  exact ite _ (fun _ => refl s) fun _ => ⟨rfl, rfl, rfl, fun _ => .refl _⟩

theorem recover (s : State) (line : Nat) : Aside s (s.recover line) := by
  unfold State.recover
  exact ite _ (fun _ => refl s) fun _ => later s _

theorem sendBisnp (s : State) (by' : Requester) (half : Nat) (data : Bool) (cls : HoldClass) :
    Aside s (s.sendBisnp by' half data cls) := by
  unfold State.sendBisnp
  exact ite _ (fun _ => refl s) fun _ =>
    ite _ (fun _ => holdEntry s _ _ _ _) fun _ => ⟨rfl, rfl, rfl, fun _ => .refl _⟩

theorem blocked (s : State) (by' : Requester) (pa n : Nat) (onlyA : Bool) (cls : HoldClass) :
    Aside s (s.blocked by' pa n onlyA cls).2 := by
  unfold State.blocked
  split
  · exact refl s
  · split
    · exact recover s _
    · split
      · exact refl s
      · split
        · exact sendBisnp s _ _ _ _
        · split
          · exact holdEntry s _ _ _ _
          · exact refl s

theorem ctxReady (s : State) (ctx : BitVec 16) : Aside s (s.ctxReady ctx).2 := by
  unfold State.ctxReady
  split
  · exact blocked s _ _ _ _ _
  · exact refl s

/-! Serialisation (R151), and the entries of fault queues that are written as dropped (R137). -/

theorem serialise (s : State) (src : Source) (pa n v : Nat) : Aside s (s.serialise src pa n v).2 := by
  unfold State.serialise
  split
  · exact refl s
  · have hb := blocked s (src.core, src.tid) pa n false .line
    rcases he : s.blocked (src.core, src.tid) pa n false with ⟨_ | w, t⟩ <;> rw [he] at hb
    · dsimp only at hb ⊢
      split
      · exact hb
      · have hw := hb.trans ((frameTake t pa n true).trans ((foldl
          (fun s l => if s.touchesOpen l pa n then s.lineForStore src l else s)
          (fun u l => ite _ (fun _ => lineForStore u src l) fun _ => refl u) (linesOf pa n) _).trans
            ((storeBytes _ src pa n v).trans ((clearMarks _ pa n).trans
              (foldl (fun s l => s.lineWritten src l) (fun u l => lineWritten u src l) (linesOf pa n) _)))))
        refine ite _ (fun _ => hw.trans (foldl _ (fun u l => ?_) _ _)) fun _ => hw
        exact ite _ (fun _ => refl u) fun _ => (touch u _ _ _).trans (keepStored _ _ _ _)
    · exact hb

theorem countEntry (s : State) (sup : Nat) (ctx : BitVec 16) : Aside s (s.countEntry sup ctx) := by
  refine Aside.trans (t := { s with mailboxes := _ }) ?_ (trigger _ _)
  exact ⟨rfl, rfl, rfl, fun _ => .refl _⟩

theorem statTry (s : State) (x : StatWrite) : Aside s (s.statTry x).2 := by
  unfold State.statTry
  split
  · exact countEntry s _ _
  · have hc := ctxReady s x.ctx
    rcases he : s.ctxReady x.ctx with ⟨_ | w, t⟩ <;> rw [he] at hc
    · dsimp only at hc ⊢
      split
      · exact hc
      · next c _ =>
        have hb := hc.trans (blocked t (t.loc, 0) (c.fqbase + 64 * (x.index.toNat % c.n)) 64 false .line)
        rcases he' : t.blocked (t.loc, 0) (c.fqbase + 64 * (x.index.toNat % c.n)) 64 false with ⟨_ | w, u⟩ <;> rw [he'] at hb
        · dsimp only at hb ⊢
          have h1 := fun v => hb.trans (serialise u (deviceSource u.loc x.ctx) (c.fqbase + 64 * (x.index.toNat % c.n) + 1) 1 v)
          split
          · exact (h1 _).trans (serialise _ _ _ _ _)
          · exact h1 _
        · exact hb
    · exact hc

theorem fqStat (s : State) (x : StatWrite) : Aside s (s.fqStat x) := by
  unfold State.fqStat
  split
  · exact ⟨rfl, rfl, rfl, fun _ => .refl _⟩
  · have hs := statTry s x
    rcases he : s.statTry x with ⟨_ | _, t⟩ <;> rw [he] at hs
    · exact hs.trans ⟨rfl, rfl, rfl, fun _ => .refl _⟩
    · exact hs

theorem dropEntries (s : State) (t : Thread) : Aside s (s.dropEntries t) := by
  refine Aside.trans (foldl _ (fun u h => fqStat u _) _ s) (foldl _ (fun u r => ?_) _ _)
  split
  · exact fqStat u _
  · exact refl u

end Aside

end Sys2Proof.Proofs
end

section
/-! PROOF. Dealing, dispatch, retirement, the completion of a launch, and stealing (R38, R79, R187 to R199). -/

namespace Sys2Proof.Proofs

open Sys2Proof.Machine Sys2Proof.Claims Sys2Proof.Laws

/-! Dealing (R187, R189). -/

/-- The state after a task has been dealt: the record on its lead's deque, and the launch with one more running task. -/
def dealtTo (u : State) (h : Nat) (l : Launch) (lead : CoreId) (nrng : Nat) : State :=
  let t := u.pushTop lead (dealtRec h l l.next nrng)
  ({ t with launches := mapSet t.launches h { l with next := l.next + 1, live := l.live + 1 } }).later (.taskDispatch lead)

theorem dealtTo_fields (u : State) (h : Nat) (l : Launch) (lead : CoreId) (n : Nat) :
    ((dealtTo u h l lead n).getCore lead).deque = (u.getCore lead).deque ++ [dealtRec h l l.next n] ∧
      (∀ d, d ≠ lead → (dealtTo u h l lead n).getCore d = u.getCore d) ∧
      mapGet (dealtTo u h l lead n).launches h = some { l with next := l.next + 1, live := l.live + 1 } ∧
      .taskDispatch lead ∈ (dealtTo u h l lead n).agenda := by
  have hc : ∀ d, (dealtTo u h l lead n).getCore d = (u.onCore lead fun k => { k with
      deque := k.deque ++ [dealtRec h l l.next n], stealWait := none, stealNext := 0 }).getCore d := fun _ => rfl
  refine ⟨?_, fun d hd => ?_, mapGet_mapSet_same _ _ _, List.mem_append_right _ (List.mem_singleton.2 rfl)⟩
  · rw [hc, getCore_onCore_same]
  · rw [hc, getCore_onCore_ne _ _ _ _ hd]

theorem dealTask_of_room (s : State) (h : Nat) (l : Launch) (hl : s.launchAt h = some l) (ha : l.aborted = false)
    (hn : l.next < l.ntask) (hr : s.partRuns l.partn = true) (hb : l.bandg = 0) (p : Position) (n : Nat)
    (hp : (s.positions l.partn l.gangw)[l.next % (s.positions l.partn l.gangw).length]? = some p)
    (hd : (s.getCore p.lead).deque.length < 32) (hv : (s.readNrng p.lead l).1 = .value n) :
    let u := dealtTo (s.readNrng p.lead l).2 h l p.lead n
    exec (.dealTask h) s = .next (if l.next + 1 < l.ntask then u.later (.dealTask h) else u) := by
  have hdeal : s.deal h l = (true, dealtTo (s.readNrng p.lead l).2 h l p.lead n) := by
    unfold State.deal
    rcases hx : s.readNrng p.lead l with ⟨x, u⟩
    rw [hx] at hv
    cases hv
    simp only [hp, hr, Bool.not_true, Bool.false_or, decide_eq_true_eq, Nat.not_le.2 hd, if_false, hx]
    rfl
  show execDealTask h s = _
  simp only [execDealTask, hl, ha, hb, Nat.not_le.2 hn, decide_false, Bool.or_self, Bool.false_eq_true, if_false, hdeal,
    Nat.lt_irrefl]

theorem dealTask_of_full (s : State) (h : Nat) (l : Launch) (hl : s.launchAt h = some l) (ha : l.aborted = false)
    (hn : l.next < l.ntask) (hb : l.bandg = 0) (p : Position)
    (hp : (s.positions l.partn l.gangw)[l.next % (s.positions l.partn l.gangw).length]? = some p)
    (hd : 32 ≤ (s.getCore p.lead).deque.length) : exec (.dealTask h) s = .next (s.hold (.dealTask h)) := by
  have hdeal : s.deal h l = (false, s) := by
    unfold State.deal
    simp only [hp, hd, decide_true, Bool.or_true, if_true]
  show execDealTask h s = _
  simp only [execDealTask, hl, ha, hb, Nat.not_le.2 hn, decide_false, Bool.or_self, Bool.false_eq_true, if_false, hdeal,
    Nat.lt_irrefl]

/-! Dispatch (R192, R193). -/

theorem ne_nil_of_pickRec {s : State} {c : CoreId} {rs : List TaskRec} {x : TaskRec × List CoreId}
    (h : s.pickRec c rs = some x) : rs ≠ [] := by
  rintro rfl
  simp [State.pickRec] at h

theorem taskDispatch_of_pick (s : State) (c : CoreId) (r : TaskRec) (cs : List CoreId) (l : Launch) (x : Word × List RangeDesc)
    (hc : isCmd c = false) (hoff : s.coreOff c = false) (hen : s.ctxtEn = true)
    (hp : s.pickRec c (s.getCore c).deque = some (r, cs)) (hch : (s.getCore c).child = none)
    (hf : ∀ d ∈ cs, s.restoreFirst d (s.prioOf r) = false) (hl : s.launchAt r.lh = some l)
    (hx : (s.readStart (cs.headD c) l r).1 = some x) :
    exec (.taskDispatch c) s = .next ((((((s.readStart (cs.headD c) l r).2.popRec c r).startTask r l cs none x).requeueHeld).later
      (.taskDispatch c))) := by
  have hd : (s.getCore c).deque.isEmpty = false := List.isEmpty_eq_false_iff.2 (ne_nil_of_pickRec hp)
  have hnone : s.pickChild c = none := by
    unfold State.pickChild
    rw [hch]
    rfl
  have hfirst : (cs.filter fun c => s.restoreFirst c (s.prioOf r)) = [] :=
    List.filter_eq_nil_iff.2 fun d hd => by rw [hf d hd]; exact Bool.false_ne_true
  rcases hrs : s.readStart (cs.headD c) l r with ⟨y, u⟩
  rw [hrs] at hx
  cases hx
  show execTaskDispatch c s = _
  simp only [execTaskDispatch, State.dispatch, hc, hoff, hd, hen, hnone, hp, hfirst, State.dispatchRec, hl, hrs, Bool.not_true,
    Bool.false_eq_true, if_false, List.isEmpty_nil]

/-- A register read after a clean value is written to another one or to itself. -/
theorem rx_wx (r : Regs) (i j : Reg) (v : Word) (hj : j ≠ 0) : (r.wx j v).rx i = if i = j then v else r.rx i := by
  unfold Regs.wx Regs.rx
  rw [if_neg hj]
  by_cases hi : i = j
  · subst hi
    simp [hj]
  · have hv : j.val ≠ i.val := fun he => hi (Fin.ext he.symm)
    simp [hi, hv]

theorem clean_wx (r : Regs) (j : Reg) (v : Word) (h : Clean r) : Clean (r.wx j v) := by
  obtain ⟨h1, h2, h3⟩ := h
  unfold Regs.wx
  split
  · exact ⟨h1, h2, h3⟩
  · refine ⟨fun i => ?_, h2, h3⟩
    have hi := h1 i
    by_cases hij : j.val = i.val
    · simp [Regs.rxp, hij]
    · simpa [Regs.rxp, hij] using hi

theorem wx_rest (r : Regs) (j : Reg) (v : Word) : (r.wx j v).k = r.k ∧ (r.wx j v).b = r.b := by
  unfold Regs.wx
  split <;> exact ⟨rfl, rfl⟩

theorem clean_zero : Clean Regs.zero := by
  refine ⟨fun i => ?_, fun i => ?_, fun i => ?_⟩
  · simp [Regs.rxp, Regs.zero]
  · simp [Regs.zero]
  · simp [Regs.rkp, Regs.zero]

theorem startRegs_rest (r : TaskRec) (n : Nat) :
    (startRegs r n).k = Regs.zero.k ∧ (startRegs r n).b = Regs.zero.b := by
  unfold startRegs
  simp only [wx_rest, and_self]

theorem startRegs_fields (r : TaskRec) (n : Nat) : Clean (startRegs r n) ∧ (startRegs r n).rk 0 = BitVec.allOnes 256 ∧
    (∀ i : KReg, i ≠ 0 → (startRegs r n).rk i = 0) ∧ (∀ i : Fin 4, (startRegs r n).b[i] = 0) ∧
    ∀ i : Reg, (startRegs r n).rx i = if i = 2 then r.sp else if i = 10 then r.a0 else if i = 11 then r.a1
      else if i = 12 then BitVec.ofNat 64 n else 0 := by
  obtain ⟨hk, hb⟩ := startRegs_rest r n
  refine ⟨clean_wx _ _ _ (clean_wx _ _ _ (clean_wx _ _ _ (clean_wx _ _ _ clean_zero))), rfl, fun i hi => ?_, fun i => ?_, fun i => ?_⟩
  · rw [Regs.rk, if_neg hi, hk]
    simp [Regs.zero]
  · rw [hb]
    simp [Regs.zero]
  · have hz : Regs.zero.rx i = 0 := by simp [Regs.rx, Regs.zero]
    unfold startRegs
    rw [rx_wx _ _ _ _ (by decide), rx_wx _ _ _ _ (by decide), rx_wx _ _ _ _ (by decide), rx_wx _ _ _ _ (by decide), hz]
    by_cases h12 : i = 12
    · subst h12
      rfl
    · by_cases h11 : i = 11
      · subst h11
        rfl
      · by_cases h10 : i = 10
        · subst h10
          rfl
        · simp only [h12, h11, h10, if_false]

/-! Retirement (R137, R197). -/

namespace Aside

theorem dropWaiting (s : State) (c : CoreId) (l : List Nat) : Aside s (s.dropWaiting c l) := ⟨rfl, rfl, rfl, fun _ => .refl _⟩

theorem wakeCluster (s : State) (c : CoreId) : Aside s (s.wakeCluster c) :=
  foldl _ (fun t _ => ite _ (fun _ => refl t) fun _ => later t _) _ s

theorem dropTeam (k : Core) (team : Nat) : AsideCore k (k.dropTeam team) := by
  refine ⟨fun x hx => ⟨x, (List.mem_filter.1 hx).1, rfl⟩, fun sl => ?_⟩
  simp only [Core.dropTeam, Fin.getElem_fin, Vector.getElem_map]
  split
  · exact ⟨rfl, fun _ => rfl⟩
  · exact ⟨rfl, id⟩

end Aside

/-- A team is gone from a core: the core has no team of that number, and its threads' slots are empty. -/
def Gone (t : State) (c : CoreId) (team : Nat) : Prop :=
  (∀ x ∈ (t.getCore c).teams, x.id ≠ team) ∧ ∀ sl : Fin 8, (t.getCore c).slots[sl].team = team → (t.getCore c).slots[sl].status = .empty

theorem gone_of_aside {s t : State} {c : CoreId} {team : Nat} (h : Aside s t) (hg : Gone s c team) : Gone t c team := by
  obtain ⟨h1, h2⟩ := hg
  refine ⟨fun x hx he => ?_, fun sl hs => ?_⟩
  · obtain ⟨y, hy, hid⟩ := (h.core c).teams x hx
    exact h1 y hy (hid.trans he)
  · obtain ⟨k1, k2⟩ := (h.core c).slots sl
    exact k2 (h2 sl (k1.symm.trans hs))

theorem dropTeam_gone (k : Core) (team : Nat) : (∀ x ∈ (k.dropTeam team).teams, x.id ≠ team) ∧
    ∀ sl : Fin 8, (k.dropTeam team).slots[sl].team = team → (k.dropTeam team).slots[sl].status = .empty := by
  refine ⟨fun x hx => by simpa using (List.mem_filter.1 hx).2, fun sl => ?_⟩
  simp only [Core.dropTeam, Fin.getElem_fin, Vector.getElem_map]
  split
  · exact fun _ => rfl
  · next h =>
    intro ht
    simpa [ht] using h

theorem retireTeam_effect (s : State) (c : CoreId) (team : Nat) : Aside s (s.retireTeam c team) ∧ Gone (s.retireTeam c team) c team := by
  have h1 := (Aside.foldl State.dropEntries Aside.dropEntries ((s.getCore c).threads.filter (·.team == team)) s).trans
    (Aside.dropWaiting _ c ((s.getCore c).slotsOf team))
  unfold State.retireTeam
  dsimp only
  generalize State.dropWaiting _ c _ = u at h1 ⊢
  have h2 := Aside.onCore u c (fun k => k.dropTeam team) fun k => Aside.dropTeam k team
  have hg : Gone (u.onCore c fun k => k.dropTeam team) c team := by
    unfold Gone
    rw [getCore_onCore_same]
    exact dropTeam_gone _ team
  have h3 := (Aside.retryOn (u.onCore c fun k => k.dropTeam team) c waitsRoom).trans
    ((Aside.later _ (.slotRestore c)).trans (Aside.wakeCluster _ c))
  exact ⟨h1.trans (h2.trans h3), gone_of_aside h3 hg⟩

theorem retireTeams_effect (ts : List (CoreId × Nat)) (s : State) :
    Aside s (ts.foldl (fun s p => s.retireTeam p.1 p.2) s) ∧
      ∀ p ∈ ts, Gone (ts.foldl (fun s p => s.retireTeam p.1 p.2) s) p.1 p.2 := by
  induction ts generalizing s with
  | nil => exact ⟨Aside.refl s, fun p hp => absurd hp List.not_mem_nil⟩
  | cons q r ih =>
    obtain ⟨h1, h2⟩ := retireTeam_effect s q.1 q.2
    obtain ⟨h3, h4⟩ := ih (s.retireTeam q.1 q.2)
    refine ⟨h1.trans h3, fun p hp => ?_⟩
    rcases List.mem_cons.1 hp with rfl | hp
    · exact gone_of_aside h3 h2
    · exact h4 p hp

/-- The end of a band's task touches no core and no launch. -/
theorem endBandTask_rest (s : State) (id : Nat) :
    (∀ c, (s.endBandTask id).getCore c = s.getCore c) ∧ (s.endBandTask id).launches = s.launches := by
  unfold State.endBandTask
  split
  · exact ⟨fun _ => rfl, rfl⟩
  · split <;> exact ⟨fun _ => rfl, rfl⟩

theorem endTask_core (s : State) (h : Nat) (c : CoreId) : (s.endTask h).getCore c = s.getCore c := by
  unfold State.endTask
  split
  · rfl
  · dsimp only
    split <;> rfl

theorem endTask_launch (s : State) (h : Nat) (l : Launch) (hl : s.launchAt h = some l) :
    mapGet (s.endTask h).launches h = some { l with live := l.live - 1 } ∧
      (l.live = 1 → l.next = l.ntask → .launchComplete h ∈ (s.endTask h).agenda) := by
  have hm : mapGet (mapSet s.launches h { l with live := l.live - 1 }) h = some { l with live := l.live - 1 } :=
    mapGet_mapSet_same _ _ _
  simp only [State.endTask, hl]
  split
  · exact ⟨hm, fun _ _ => List.mem_append_right _ (List.mem_singleton.2 rfl)⟩
  · next hn => exact ⟨hm, fun h1 h2 => absurd ⟨by rw [h1], .inr h2⟩ hn⟩

/-- What was due before a request ended is due after it. -/
theorem requestEnded_due (s : State) : s.agenda <+: s.requestEnded.agenda := by
  obtain ⟨k, th, ks, h1⟩ := retry_rest s.remapFlows waitsSaving
  obtain ⟨k', th', ks', rr, h2⟩ := serveHeld_rest (s.remapFlows.retry waitsSaving) fun w => w == .slot
  have h3 : ((s.remapFlows.retry waitsSaving).serveHeld fun w => w == .slot).agenda = s.remapFlows.agenda := by rw [h2, h1]
  refine (onlyDue_remapFlows s).outer.due.trans ?_
  rw [← h3]
  exact (outer_requeueHeld _).due

/-- The state before the launch of a retired task counts it. -/
def teamsRetired (s : State) (tm : Team) (ts : List (CoreId × Nat)) : State :=
  let s := ts.foldl (fun s p => s.retireTeam p.1 p.2) s
  match tm.band with
  | some id => s.endBandTask id
  | none => s

theorem teamsRetired_effect (s : State) (tm : Team) (ts : List (CoreId × Nat)) :
    (∀ c, AsideCore (s.getCore c) ((teamsRetired s tm ts).getCore c)) ∧ (teamsRetired s tm ts).launches = s.launches ∧
      ∀ p ∈ ts, Gone (teamsRetired s tm ts) p.1 p.2 := by
  obtain ⟨h1, h2⟩ := retireTeams_effect ts s
  unfold teamsRetired
  dsimp only
  generalize ts.foldl (fun s p => s.retireTeam p.1 p.2) s = u at h1 h2 ⊢
  split
  · next id _ =>
    obtain ⟨b1, b2⟩ := endBandTask_rest u id
    refine ⟨fun c => by rw [b1]; exact h1.core c, b2.trans h1.launches, fun p hp => ?_⟩
    have hg := h2 p hp
    unfold Gone at hg ⊢
    rwa [b1]
  · exact ⟨h1.core, h1.launches, h2⟩

/-- A task retires: its teams and their threads are gone, and its launch has one running task less. -/
theorem retire_effect (s : State) (tm : Team) (ts : List (CoreId × Nat)) :
    (∀ p ∈ ts, (∀ x ∈ ((s.retire tm ts).getCore p.1).teams, x.id ≠ p.2) ∧
      ∀ sl, (s.getThread p.1 sl).team = p.2 → ((s.retire tm ts).getThread p.1 sl).status = .empty) ∧
    ∀ l, s.launchAt tm.lh = some l → mapGet (s.retire tm ts).launches tm.lh = some { l with live := l.live - 1 } ∧
      (l.live = 1 → l.next = l.ntask → .launchComplete tm.lh ∈ (s.retire tm ts).agenda) := by
  obtain ⟨h1, h2, h3⟩ := teamsRetired_effect s tm ts
  have he : s.retire tm ts = ((teamsRetired s tm ts).endTask tm.lh).requestEnded := rfl
  have hr := Aside.requestEnded ((teamsRetired s tm ts).endTask tm.lh)
  rw [he]
  refine ⟨fun p hp => ?_, fun l hl => ?_⟩
  · have hg : Gone ((teamsRetired s tm ts).endTask tm.lh) p.1 p.2 := by
      unfold Gone
      rw [endTask_core]
      exact h3 p hp
    obtain ⟨g1, g2⟩ := gone_of_aside hr hg
    refine ⟨g1, fun sl hs => ?_⟩
    rw [getThread_eq_slot] at hs ⊢
    have ht := (hr.core p.1).slots sl
    rw [endTask_core] at ht
    exact g2 sl (ht.1.trans (((h1 p.1).slots sl).1.trans hs))
  · have hl' : (teamsRetired s tm ts).launchAt tm.lh = some l := by rw [State.launchAt, h2]; exact hl
    obtain ⟨l1, l2⟩ := endTask_launch _ tm.lh l hl'
    exact ⟨by rw [hr.launches]; exact l1, fun a b => (requestEnded_due _).subset (l2 a b)⟩

/-! The completion of a launch (R79). -/

theorem launchComplete_eq (s : State) (h : Nat) (l : Launch) (hl : s.launchAt h = some l) (hh : s.launchHalted h = false)
    (h0 : l.live = 0) (hn : l.aborted = true ∨ l.next = l.ntask) : exec (.launchComplete h) s = .next (s.complete h l) := by
  show execLaunchComplete h s = _
  simp only [execLaunchComplete, hl, hh, h0, hn, Bool.false_eq_true, if_false, and_self, if_true]

theorem complete_of_told (s : State) (h : Nat) (l : Launch) (hd : s.doneOut l.sup = false) (ht : 2 ≤ l.told) :
    s.complete h l = s.freeLaunch h := by
  have h1 : 1 < l.told := ht
  simp only [State.complete, hd, h1, Bool.false_eq_true, if_false, if_true]

/-- The launch has been told one part more of its completion. -/
def toldMore (u : State) (h : Nat) (l : Launch) : State := { u with
  launches := mapSet u.launches h { l with told := l.told + 1 }, agenda := u.agenda ++ [.launchComplete h] }

theorem complete_of_untold (s : State) (h : Nat) (l : Launch) (hd : s.doneOut l.sup = false) (ht : l.told < 2) :
    let w := (s.finishKills (cmdCore l.sup) (engTid (doneId l.sup))).doneWrite l (l.told == 1)
    (w.1 = .value () → s.complete h l = toldMore w.2 h l) ∧
      ∀ f va pa, w.1 = .fail f va pa →
        s.complete h l = toldMore (w.2.doneFails (cmdCore l.sup) l.sup f.cause l.ctx va pa) h l := by
  have h1 : ¬1 < l.told := Nat.not_lt.2 (Nat.le_of_lt_succ ht)
  rcases hw : (s.finishKills (cmdCore l.sup) (engTid (doneId l.sup))).doneWrite l (l.told == 1) with ⟨x, u⟩
  refine ⟨fun hv => ?_, fun f va pa hv => ?_⟩
  · cases hv
    simp only [State.complete, hd, h1, Bool.false_eq_true, if_false, hw]
    rfl
  · cases hv
    simp only [State.complete, hd, h1, Bool.false_eq_true, if_false, hw]
    rfl

/-! Stealing (R198, R199). -/

theorem stealRequest_of_idle (s : State) (c : CoreId) (hc : isCmd c = false) (hl : s.lctLock = true) (he : s.ctxtEn = true)
    (hp : s.partDies (sockOf c) ≠ 0) (hs : s.siteOn (sockOf c) (siteOf c) = true) (hi : s.idleCore c = true) :
    exec (.stealRequest c) s = .next ((s.onCore c fun k => { k with stealOut := true }).later (.stealReply c)) := by
  show execStealRequest c s = _
  simp only [execStealRequest, hc, hl, he, bne_iff_ne.2 hp, hs, hi, Bool.not_false, Bool.and_self, if_true]

theorem ne_of_mem_stealVictims {s : State} {c v : CoreId} (h : v ∈ s.stealVictims c) : v ≠ c := by
  have h := (List.mem_filter.1 h).2
  simp only [Bool.and_eq_true, bne_iff_ne] at h
  exact h.1

theorem later_getCore (s : State) (i : Instr) (d : CoreId) : (s.later i).getCore d = s.getCore d := rfl

theorem requeueHeld_getCore (s : State) (d : CoreId) : s.requeueHeld.getCore d = s.getCore d := rfl

theorem keepSpilled_getCore (s : State) (c d : CoreId) : (s.keepSpilled c).getCore d = s.getCore d := rfl

/-- The thief has the record, and dispatches. -/
def tookStolen (s : State) (c v : CoreId) (r : TaskRec) : State :=
  ((((s.popTop v r).onCore c fun k => { k with deque := r :: k.deque, stealOut := false, stealNext := 0 }).keepSpilled
    c).requeueHeld).later (.taskDispatch c)

theorem tookStolen_fields (s : State) (c v : CoreId) (r : TaskRec) (hne : v ≠ c) :
    ((tookStolen s c v r).getCore c).deque = r :: (s.getCore c).deque ∧
      ((tookStolen s c v r).getCore v).deque = ((s.getCore v).deque.reverse.erase r).reverse ∧
      ((tookStolen s c v r).getCore c).stealOut = false ∧ .taskDispatch c ∈ (tookStolen s c v r).agenda := by
  have hp : ∀ d, (s.popTop v r).getCore d =
      (s.onCore v fun k => { k with deque := (k.deque.reverse.erase r).reverse }).getCore d := fun d => keepSpilled_getCore _ _ d
  have hc := getCore_onCore_same (s.popTop v r) c fun k =>
    { k with deque := r :: k.deque, stealOut := false, stealNext := 0 }
  have hv := getCore_onCore_ne (s.popTop v r) c v (fun k =>
    { k with deque := r :: k.deque, stealOut := false, stealNext := 0 }) hne
  rw [hp, getCore_onCore_ne _ _ _ _ hne.symm] at hc
  rw [hp, getCore_onCore_same] at hv
  unfold tookStolen
  generalize (s.popTop v r).onCore c _ = u at hc hv ⊢
  have hk : ∀ d, ((u.keepSpilled c).requeueHeld.later (.taskDispatch c)).getCore d = u.getCore d := fun d => by
    rw [later_getCore, requeueHeld_getCore, keepSpilled_getCore]
  refine ⟨?_, ?_, ?_, ?_⟩
  · rw [hk, hc]
  · rw [hk, hv]
  · rw [hk, hc]
  · rw [later_agenda]
    exact List.mem_append_right _ (List.mem_singleton.2 rfl)

theorem stealReply_of_stolen (s : State) (c v : CoreId) (r : TaskRec) (ho : (s.getCore c).stealOut = true)
    (hv : (s.stealVictims c)[(s.getCore c).stealNext]? = some v) (hr : s.stolen c v = some r) :
    ∃ t, exec (.stealReply c) s = .next t ∧ (t.getCore c).deque = r :: (s.getCore c).deque ∧
      (t.getCore v).deque = ((s.getCore v).deque.reverse.erase r).reverse ∧ (t.getCore c).stealOut = false ∧
      .taskDispatch c ∈ t.agenda := by
  have hx : exec (.stealReply c) s = .next (tookStolen s c v r) := by
    show execStealReply c s = _
    simp only [execStealReply, ho, hv, hr, Bool.not_true, Bool.false_eq_true, if_false]
    rfl
  obtain ⟨h1, h2, h3, h4⟩ := tookStolen_fields s c v r (ne_of_mem_stealVictims (List.mem_of_getElem? hv))
  exact ⟨_, hx, h1, h2, h3, h4⟩

theorem stealReply_of_refused (s : State) (c v : CoreId) (ho : (s.getCore c).stealOut = true)
    (hv : (s.stealVictims c)[(s.getCore c).stealNext]? = some v) (hr : s.stolen c v = none) :
    exec (.stealReply c) s = .next (s.stealRefused c) := by
  show execStealReply c s = _
  simp only [execStealReply, ho, hv, hr, Bool.not_true, Bool.false_eq_true, if_false]

theorem onlyCores_agenda {s t : State} (h : OnlyCores s t) : t.agenda = s.agenda := by
  obtain ⟨_, _, _, rfl⟩ := h
  rfl

theorem stealRefused_of_more (s : State) (c w : CoreId) (hw : (s.stealVictims c)[(s.getCore c).stealNext + 1]? = some w) :
    (s.stealRefused c).getCore c = { s.getCore c with stealNext := (s.getCore c).stealNext + 1 } ∧
      (s.stealRefused c).agenda = s.agenda ++ [.stealRequest c] := by
  have hlt : (s.getCore c).stealNext + 1 < (s.stealVictims c).length := (List.getElem?_eq_some_iff.1 hw).1
  simp only [State.stealRefused, hlt, if_true]
  refine ⟨getCore_onCore_same s c _, ?_⟩
  rw [later_agenda, onlyCores_agenda (onlyCores_onCore s c _)]

theorem stealRefused_of_last (s : State) (c : CoreId) (hw : (s.stealVictims c)[(s.getCore c).stealNext + 1]? = none) :
    (s.stealRefused c).getCore c =
        { s.getCore c with stealNext := 0, stealOut := false, stealWait := some (s.cycles + 1024) } ∧
      (s.stealRefused c).agenda = s.agenda := by
  have hlt : ¬(s.getCore c).stealNext + 1 < (s.stealVictims c).length := Nat.not_lt.2 (List.getElem?_eq_none_iff.1 hw)
  simp only [State.stealRefused, hlt, if_false]
  exact ⟨getCore_onCore_same s c _, onlyCores_agenda (onlyCores_onCore s c _)⟩

/-- A core that begins to steal has a request outstanding; nothing else of it differs. -/
theorem trySteal_core (s : State) (c : CoreId) :
    (s.trySteal c).getCore c = s.getCore c ∨ (s.trySteal c).getCore c = { s.getCore c with stealOut := true } := by
  unfold State.trySteal
  dsimp only
  split
  · exact .inl rfl
  · exact .inr (getCore_onCore_same s c _)

theorem stealRetryTimer_effect (s : State) (c : CoreId) (n : Nat) (hw : (s.getCore c).stealWait = some n) (hn : n ≤ s.cycles) :
    ∃ t, exec (.stealRetryTimer c) s = .next t ∧ (t.getCore c).stealWait = none ∧ (t.getCore c).stealNext = 0 ∧
      (t.getCore c).deque = (s.getCore c).deque := by
  have hx : exec (.stealRetryTimer c) s =
      .next ((s.onCore c fun k => { k with stealWait := none, stealNext := 0 }).trySteal c) := by
    show execStealRetryTimer c s = _
    simp only [execStealRetryTimer, hw, hn, if_true]
  have hk := getCore_onCore_same s c fun k => { k with stealWait := none, stealNext := 0 }
  refine ⟨_, hx, ?_⟩
  rcases trySteal_core (s.onCore c fun k => { k with stealWait := none, stealNext := 0 }) c with h | h <;> rw [h, hk] <;>
    exact ⟨rfl, rfl, rfl⟩

end Sys2Proof.Proofs
end

section
/-! PROOF. The start of a task leaves the bands and the causeway alone (R193 to R196): its walks, its reads, the writes that
these wait for, and the faults that they take. -/

namespace Sys2Proof.Proofs

open Sys2Proof.Machine Sys2Proof.Claims Sys2Proof.Laws

/-- The bands and the causeway are as they were. -/
structure BandsKept (s t : State) : Prop where
  causeway : t.causeway = s.causeway
  bands : t.bands = s.bands

namespace BandsKept

variable {s t u : State}

theorem refl (s : State) : BandsKept s s := ⟨rfl, rfl⟩

theorem trans (a : BandsKept s t) (b : BandsKept t u) : BandsKept s u :=
  ⟨b.causeway.trans a.causeway, b.bands.trans a.bands⟩

theorem of_aside (h : Aside s t) : BandsKept s t := ⟨h.causeway, h.bands⟩

theorem of_outer (h : Outer s t) : BandsKept s t := by
  obtain ⟨_, _, _, _, _, _, _, _, _, _, _, _, _, _, rfl⟩ := h.rest
  exact ⟨rfl, rfl⟩

theorem of_onlyCores (h : OnlyCores s t) : BandsKept s t := by
  obtain ⟨_, _, _, rfl⟩ := h
  exact ⟨rfl, rfl⟩

theorem of_due (h : OnlyDue s t) : BandsKept s t := of_outer h.outer

/-- The state of a pair that a call returns. -/
theorem of_pair {α : Type} {x : α × State} {a : α} (h : BandsKept s x.2) (he : x = (a, t)) : BandsKept s t := by
  rw [he] at h
  exact h

theorem foldl {α : Type} (f : State → α → State) (h : ∀ s a, BandsKept s (f s a)) (l : List α) (s : State) :
    BandsKept s (l.foldl f s) :=
  List.foldlRecOn l f (refl s) fun t ht a _ => ht.trans (h t a)

theorem ite (c : Prop) [Decidable c] (h : c → BandsKept s t) (h' : ¬c → BandsKept s u) : BandsKept s (if c then t else u) := by
  split
  · next hc => exact h hc
  · next hc => exact h' hc

theorem onCore (s : State) (c : CoreId) (f : Core → Core) : BandsKept s (s.onCore c f) := of_onlyCores (onlyCores_onCore s c f)

theorem onTh (s : State) (f : Thread → Thread) : BandsKept s (s.onTh f) := ⟨rfl, rfl⟩

theorem blocked (s : State) (by' : Requester) (pa n : Nat) (onlyA : Bool) (cls : HoldClass) :
    BandsKept s (s.blocked by' pa n onlyA cls).2 := of_aside (Aside.blocked s by' pa n onlyA cls)

theorem serialise (s : State) (src : Source) (pa n v : Nat) : BandsKept s (s.serialise src pa n v).2 :=
  of_aside (Aside.serialise s src pa n v)

theorem ctxReady (s : State) (ctx : BitVec 16) : BandsKept s (s.ctxReady ctx).2 := of_aside (Aside.ctxReady s ctx)

/-! Walks and translations (R120 to R124). -/

theorem watchLine (s : State) (line : Nat) (c : CoreId) : BandsKept s (s.watchLine line c) :=
  (of_aside (Aside.setLine s line _)).trans ⟨rfl, rfl⟩

theorem walkFrom (s : State) (c : CoreId) (va : Word) (level table : Nat) (lines : List Nat) (fuel : Nat) :
    BandsKept s (s.walkFrom c va level table lines fuel).2 := by
  induction fuel generalizing s level table lines with
  | zero => exact refl s
  | succ fuel ih =>
    unfold State.walkFrom
    dsimp only [State.walkEntry]
    generalize (if level = 0 then bits va 53 42 else if level = 1 then bits va 41 29 else bits va 28 16) = ix
    split
    · exact refl s
    · split
      · next heq => exact of_pair (blocked s _ _ _ _ _) heq
      · next u heq =>
        have hu := (of_pair (blocked s _ _ _ _ _) heq).trans
          (watchLine u (lineOf (table + 8 * ix)) c)
        split
        · exact hu
        · split
          · exact hu
          · split
            · exact hu
            · split
              · exact hu.trans (ite _ (fun _ => watchLine _ _ _) fun _ => refl _)
              · exact hu.trans (ih _ _ _ _)

theorem walk (s : State) (c : CoreId) (ctx : BitVec 16) (va : Word) : BandsKept s (s.walk c ctx va).2 := by
  unfold State.walk
  split
  · next heq => exact of_pair (ctxReady s _) heq
  · next u heq =>
    have hu := of_pair (ctxReady s _) heq
    split
    · exact hu
    · exact hu.trans (walkFrom u c va _ _ _ _)

theorem startWalk (s : State) (a : Asid) (va : Word) : BandsKept s (s.startWalk a va).2 := by
  unfold State.startWalk
  split
  · exact refl s
  · split
    next r u heq =>
    have hu := of_pair (walk s _ _ _) heq
    have hw := fun f i => hu.trans ((onCore u a.core f).trans (of_due (OnlyDue.later _ i)))
    split
    · split
      · exact hu
      · exact hw _ _
    · exact hw _ _

theorem lookup (s : State) (a : Asid) (va : Word) (n : Nat) : BandsKept s (s.lookup a va n).2 := by
  unfold State.lookup
  dsimp only
  split
  · exact walk s _ _ _
  · split
    · exact refl s
    · split
      · exact onCore s _ _
      · split
        · exact refl s
        · exact startWalk s a va

theorem xlate (s : State) (a : Asid) (va : Word) (n : Nat) (k : Access) : BandsKept s (s.xlate a va n k).2 := by
  unfold State.xlate
  split
  · exact refl s
  · split
    · next heq => exact of_pair (lookup s a va n) heq
    · next heq =>
      have hu := of_pair (lookup s a va n) heq
      split <;> exact hu

theorem xlateSpan (s : State) (a : Asid) (va : Word) (n : Nat) (k : Access) : BandsKept s (s.xlateSpan a va n k).2 := by
  unfold State.xlateSpan
  dsimp only
  split
  · split
    · next heq => exact of_pair (xlate s _ _ _ _) heq
    · next heq => exact of_pair (xlate s _ _ _ _) heq
  · split
    · next heq => exact of_pair (xlate s _ _ _ _) heq
    · next heq =>
      have hu := of_pair (xlate s _ _ _ _) heq
      split
      · next heq => exact hu.trans (of_pair (xlate _ _ _ _ _) heq)
      · next heq => exact hu.trans (of_pair (xlate _ _ _ _ _) heq)

/-! Entries of fault queues and notices (R132 to R140). -/

theorem countEntry (s : State) (sup : Nat) (ctx : BitVec 16) : BandsKept s (s.countEntry sup ctx) :=
  of_aside (Aside.countEntry s sup ctx)

theorem fqCount (s : State) (sup : Nat) (ctx : BitVec 16) : BandsKept s (s.fqCount sup ctx) := by
  unfold State.fqCount
  exact ite _ (fun _ => ⟨rfl, rfl⟩) fun _ => countEntry s sup ctx

theorem fqWrite (s : State) (e : FaultEntry) : BandsKept s (s.fqWrite e).2 := by
  unfold State.fqWrite
  split
  · next heq => exact of_pair (ctxReady s _) heq
  · next u heq =>
    have hu := of_pair (ctxReady s _) heq
    split
    · exact hu
    · next c _ =>
      extract_lets tail head
      clear_value tail head
      split
      · exact hu
      · split
        · next heq => exact hu.trans (of_pair (blocked u _ _ _ _ _) heq)
        · next v heq =>
          have hv := hu.trans (of_pair (blocked u _ _ _ _ _) heq)
          split
          · next heq => exact hv.trans (of_pair (blocked v _ _ _ _ _) heq)
          · next w heq =>
            have hw := hv.trans (of_pair (blocked v _ _ _ _ _) heq)
            generalize (tail + 1) % 2 ^ 64 = tail'
            exact hw.trans ((serialise w _ _ _ _).trans (serialise _ _ _ _ _))

theorem fqTake (s : State) (e : FaultEntry) : BandsKept s (s.fqTake e).2 := by
  unfold State.fqTake
  split
  · exact refl s
  · exact fqWrite s e

theorem fqPut (s : State) (e : FaultEntry) : BandsKept s (s.fqPut e).2 := by
  unfold State.fqPut
  split
  · next u heq =>
    exact (of_pair (fqWrite s e) heq).trans (ite _ (fun _ => fqCount u _ _) fun _ => refl u)
  · next heq => exact of_pair (fqWrite s e) heq

theorem keepNotice (s : State) (die : Nat) (e : FaultEntry) : BandsKept s (s.keepNotice die e) := by
  unfold State.keepNotice
  exact ite _ (fun _ => ⟨rfl, rfl⟩) fun _ => ite _ (fun _ => ⟨rfl, rfl⟩) fun _ => refl s

theorem noticeIx (s : State) (die : Nat) (e : FaultEntry) : BandsKept s (s.noticeIx die e).2 := by
  unfold State.noticeIx
  split
  · exact keepNotice s die e
  · split
    · next heq => exact of_pair (fqPut s e) heq
    · next heq => exact (of_pair (fqPut s e) heq).trans (keepNotice _ die e)

theorem writeFailedOn (s : State) (c : CoreId) (tid die : Nat) (near : Bool) (cause : Byte) (w : WriteMsg) :
    BandsKept s (s.writeFailedOn c tid die near cause w) := by
  unfold State.writeFailedOn
  dsimp only
  exact (noticeIx s die _).trans (onCore _ c _)

theorem abortLaunch (s : State) (h status : Nat) : BandsKept s (s.abortLaunch h status) := by
  unfold State.abortLaunch
  split
  · exact refl s
  · next l _ =>
    refine ite _ (fun _ => refl s) fun _ => ?_
    have hcores : ∀ v : State, BandsKept v (v.mapCores fun _ k => { k with deque := k.deque.filter fun r => !(r.lh == h) }) :=
      fun v => of_onlyCores (onlyCores_mapCores v _)
    have hretire : ∀ v : State, BandsKept v (v.coreList.foldl (fun s c =>
        ((s.getCore c).teams.filter fun t => t.lh == h).foldl (fun s t => s.later (.taskRetire c t.id)) s) v) := fun v =>
      foldl _ (fun v c => foldl _ (fun v t => of_due (OnlyDue.later v _)) _ v) _ v
    have hset : ∀ (v : State) (m : Launch), BandsKept v { v with launches := mapSet v.launches h m } := fun v m => ⟨rfl, rfl⟩
    have hall := fun m m' => (hset s m).trans ((hcores _).trans ((hset _ m').trans (hretire _)))
    exact ite _ (fun _ => (hall _ _).trans (of_due (OnlyDue.later _ _))) fun _ => hall _ _

theorem alert (s : State) (cls : Byte) (src : Nat) (ctx : BitVec 16) (data : List Word) : BandsKept s (s.alert cls src ctx data) :=
  of_outer (alert_outer s cls src ctx data).1

theorem faultPolicy (s : State) (ix : Word) : BandsKept s (s.faultPolicy ix) := by
  unfold State.faultPolicy
  refine ite _ (fun _ => refl s) fun _ => ?_
  split
  · exact refl s
  · exact ite _ (fun _ => abortLaunch s _ _) fun _ => ite _ (fun _ => alert s _ _ _ _) fun _ => refl s

theorem raiseOne (s : State) (e : HeldEntry) : BandsKept s (s.raiseOne e) := by
  unfold State.raiseOne
  refine ite _ (fun _ => refl s) fun _ => ?_
  exact (of_aside (Aside.fqStat s _)).trans ((onTh _ _).trans (faultPolicy _ _))

theorem raiseHeld (s : State) : BandsKept s s.raiseHeld :=
  (foldl _ raiseOne _ s).trans (foldl _ (fun t _ => fqCount t _ _) _ _)

theorem park (s : State) (w : Wait) : BandsKept s (s.park w) := ⟨rfl, rfl⟩

theorem raiseNew (s : State) (e : FaultEntry) (w : Option WriteMsg) : BandsKept s (s.raiseNew e w true) := by
  unfold State.raiseNew
  dsimp only
  split
  · next ix u heq =>
    have hu := (park s .fault).trans (of_pair (fqTake _ e) heq)
    refine hu.trans ((fqCount u e.sup e.ctx).trans (BandsKept.trans ?_ (faultPolicy _ ix)))
    exact ⟨rfl, rfl⟩
  · next u heq =>
    have hu := (park s .fault).trans (of_pair (fqTake _ e) heq)
    exact hu.trans ⟨rfl, rfl⟩

theorem parkFault (s : State) (cause : Byte) (fva : Word) (write : Bool) (pa : Nat) (detail : Word) :
    BandsKept s (s.parkFault cause fva write pa detail) := (raiseHeld s).trans (raiseNew _ _ _)

/-! Requests that leave (R41, R66, R151). -/

theorem linkSend (s : State) (k : Fin 24) (vn : Nat) (q : List (BitVec 128)) (i : Option Instr) : BandsKept s (s.linkSend k vn q i) := by
  unfold State.linkSend
  exact ite _ (fun _ => of_outer (outer_onLink s k _)) fun _ => of_outer (linkOne_effect s k _).1

theorem enterGateway (s : State) (o : Outstanding) : BandsKept s (s.enterGateway o) := by
  unfold State.enterGateway
  dsimp only
  refine BandsKept.trans (t := { s with outstanding := s.outstanding ++ [o] }) ⟨rfl, rfl⟩ ?_
  refine ite _ (fun _ => ⟨rfl, rfl⟩) fun _ => ?_
  split
  · exact ⟨rfl, rfl⟩
  · exact (foldl _ (fun t q => linkSend t _ _ q _) _ _).trans (linkSend _ _ _ _ _)

theorem hostRequest (s : State) (o : Outstanding) (kind : CxlReq) (n : Nat) (data : Option (BitVec 512)) :
    BandsKept s (s.hostRequest o kind n data) := by
  unfold State.hostRequest
  split <;> exact ⟨rfl, rfl⟩

theorem sendGroup (s : State) (c : CoreId) (tid slot : Nat) (ws : List WriteMsg) : BandsKept s (s.sendGroup c tid slot ws) := by
  unfold State.sendGroup
  split
  · exact refl s
  · exact ((of_outer (outer_out s _)).trans (enterGateway _ _)).trans ⟨rfl, rfl⟩

theorem sendWrite (s : State) (c : CoreId) (tid slot : Nat) (w : WriteMsg) : BandsKept s (s.sendWrite c tid slot w) := by
  unfold State.sendWrite
  dsimp only
  exact ite _ (fun _ => ite _ (fun _ => hostRequest s _ _ _ _) fun _ => hostRequest s _ _ _ _) fun _ => sendGroup s c tid slot [w]

theorem obtain' (s : State) (asker : CoreId) (tid : Nat) (engine : Option Nat) (pa n : Nat) (own : Bool) :
    BandsKept s (s.obtain asker tid engine pa n own).2 := by
  unfold State.obtain
  dsimp only
  split
  · exact refl s
  · next h _ =>
    generalize (if lineOf pa = h / 2 then pa else pa + n - 1) = at'
    split
    · exact refl s
    · split
      · exact refl s
      · dsimp only
        exact hostRequest s _ _ _ _

theorem cleanHalf (s : State) (half : Nat) (ctx : BitVec 16) : BandsKept s (s.cleanHalf half ctx) := by
  unfold State.cleanHalf
  split
  · exact refl s
  · exact ite _ (fun _ => ⟨rfl, rfl⟩) fun _ => refl s

theorem dirtyHalf (s : State) (half : Nat) (ctx : BitVec 16) : BandsKept s (s.dirtyHalf half ctx) := by
  unfold State.dirtyHalf
  have h := (cleanHalf s (half / 2 * 2) ctx).trans (cleanHalf _ (half / 2 * 2 + 1) ctx)
  dsimp only
  split
  · exact h
  · exact h.trans ⟨rfl, rfl⟩

theorem dirtyHost (s : State) (pa n : Nat) (ctx : BitVec 16) : BandsKept s (s.dirtyHost pa n ctx) := by
  unfold State.dirtyHost
  exact ite _ (fun _ => dirtyHalf s _ _) fun _ => (dirtyHalf s _ _).trans (dirtyHalf _ _ _)

/-! Writes that an engine waits for (R60, R151). -/

theorem onMailbox (s : State) (n : Fin 8) (f : Mailbox → Mailbox) : BandsKept s (s.onMailbox n f) := by
  refine BandsKept.trans (t := { s with mailboxes := _ }) ?_ (of_aside (Aside.trigger _ _))
  exact ⟨rfl, rfl⟩

theorem mailboxSet (s : State) (n : Fin 8) (m : Mailbox) : BandsKept s (s.mailboxSet n m) := by
  unfold State.mailboxSet
  refine ite _ (fun _ => refl s) fun _ => ?_
  exact onMailbox s n _

theorem msix (s : State) (n : Nat) : BandsKept s (s.msix n) := by
  unfold State.msix
  split <;> exact ⟨rfl, rfl⟩

theorem writeMbin (s : State) (host : Bool) (n : Fin 8) (v : Word) : BandsKept s (s.writeMbin host n v) := by
  unfold State.writeMbin
  exact ite _ (fun _ => refl s) fun _ => ite _ (fun _ => mailboxSet s n _) fun _ => mailboxSet s n _

theorem writeMbout (s : State) (host : Bool) (n : Fin 8) (v : Word) : BandsKept s (s.writeMbout host n v) := by
  unfold State.writeMbout
  refine ite _ (fun _ => refl s) fun _ => ite _ (fun _ => mailboxSet s n _) fun _ => ?_
  exact ite _ (fun _ => (mailboxSet s n _).trans (msix _ _)) fun _ => mailboxSet s n _

theorem alertSend (s : State) (a : Alert) : BandsKept s (s.alertSend a) := by
  unfold State.alertSend
  exact ite _ (fun _ => ⟨rfl, rfl⟩) fun _ => ⟨rfl, rfl⟩

theorem deliverHeld (s : State) : BandsKept s s.deliverHeld := by
  unfold State.deliverHeld
  refine ite _ (fun _ => ?_) fun _ => refl s
  exact BandsKept.trans (t := { s with alrtHeld := [] }) ⟨rfl, rfl⟩ (foldl _ alertSend _ _)

theorem writeAlert (s : State) (ix : Nat) (v : Word) : BandsKept s (s.writeAlert ix v) := by
  unfold State.writeAlert
  split
  · exact ⟨rfl, rfl⟩
  · exact BandsKept.trans (t := { s with alrtLog2n := bits v 4 0, alrtEn := v.getLsbD 8 }) ⟨rfl, rfl⟩ (deliverHeld _)
  · exact ⟨rfl, rfl⟩
  · exact refl s

theorem lockLct (s : State) : BandsKept s s.lockLct := by
  unfold State.lockLct
  exact ite _ (fun _ => refl s) fun _ => ite _ (fun _ => ⟨rfl, rfl⟩) fun _ => ⟨rfl, rfl⟩

theorem writePart (s : State) (p : Fin 16) (v : Word) : BandsKept s (s.writePart p v) := by
  unfold State.writePart
  dsimp only
  exact ite _ (fun _ => ⟨rfl, rfl⟩) fun _ => ite _ (fun _ => ⟨rfl, rfl⟩) fun _ => ite _ (fun _ => ⟨rfl, rfl⟩) fun _ =>
    ite _ (fun _ => ⟨rfl, rfl⟩) fun _ => ite _ (fun _ => ⟨rfl, rfl⟩) fun _ => ⟨rfl, rfl⟩

theorem writeOff (s : State) (p : Fin 36) (off : Bool) : BandsKept s (s.writeOff p off) := by
  unfold State.writeOff
  exact ite _ (fun _ => ite _ (fun _ => ⟨rfl, rfl⟩) fun _ => ⟨rfl, rfl⟩) fun _ => ⟨rfl, rfl⟩

theorem startRekey (s : State) (p : Fin 36) : BandsKept s (s.startRekey p) := by
  have h := of_outer (outer_onPort s p fun f => { f with rekey := true })
  unfold State.startRekey State.startExchange
  refine ite _ (fun _ => h.trans ?_) fun _ => h
  exact (of_outer (outer_onPort _ p _)).trans ((of_outer (outer_out _ _)).trans (of_outer (PortWork.sendKeyFlit _).outer))

theorem writeMReg (s : State) (host : Bool) (r : MReg) (v : Word) : BandsKept s (s.writeMReg host r v) := by
  cases r with
  | mailbox n w =>
    unfold State.writeMReg
    dsimp only
    split
    · exact writeMbin s host n v
    · exact writeMbout s host n v
    · exact mailboxSet s n _
    · exact refl s
  | alert ix => exact writeAlert s ix v
  | ctxtbase =>
    exact BandsKept.trans (t := { s with ctxtEn := v.getLsbD 0, ctxtBase := bits v 51 22 * 0x400000 }) ⟨rfl, rfl⟩
      ((of_due (onlyDue_retryQueues _)).trans (of_outer (outer_requeueHeld _)))
  | part p => exact writePart s p v
  | partmem p => exact ⟨rfl, rfl⟩
  | lctctl => exact ite _ (fun _ => lockLct s) fun _ => refl s
  | tvbase => exact ⟨rfl, rfl⟩
  | lct n => exact ite _ (fun _ => refl s) fun _ => ⟨rfl, rfl⟩
  | fpctl p => exact (writeOff s p _).trans (ite _ (fun _ => startRekey _ p) fun _ => refl _)
  | ltgen => exact refl s
  | fport _ => exact refl s
  | ltent _ => exact refl s

theorem atomicDev (s : State) (src : Source) (pa op b exp : Nat) (wide : Bool) :
    BandsKept s (s.atomicDev src pa op b exp wide).2 := by
  unfold State.atomicDev
  dsimp only
  split
  · next u heq =>
    refine (of_pair (serialise s _ _ _ _) heq).trans (ite _ (fun _ => foldl _ (fun t l => ?_) _ u) fun _ => refl u)
    exact (of_aside (Aside.endExcl t _ l)).trans (onCore _ _ _)
  · next heq => exact of_pair (serialise s _ _ _ _) heq
  · next heq => exact of_pair (serialise s _ _ _ _) heq

theorem performMsg (s : State) (c : CoreId) (tid : Nat) (w : WriteMsg) (asker : Nat) :
    BandsKept s (s.performMsg c tid w asker).2 := by
  unfold State.performMsg
  split
  · split
    · exact refl s
    · exact writeMReg s false _ _
    · exact refl s
  · exact refl s
  case h_3 | h_4 =>
    dsimp only
    split
    · exact serialise s _ _ _ _
    · next op exp _ =>
      have h := atomicDev s ⟨c, tid, w.ctx, !isCmd c && !w.leaf.getLsbD 8⟩ w.pa op w.data.toNat exp.toNat w.wide
      split
      · next heq => exact of_pair h heq
      · next heq => exact of_pair h heq
      · next heq => exact of_pair h heq
  · split
    · exact refl s
    · exact refl s
    · split
      · next heq => exact of_pair (obtain' s c asker none w.pa w.n true) heq
      · next u heq =>
        have hu := of_pair (obtain' s c asker none w.pa w.n true) heq
        split
        · exact hu
        · have hd := fun v => (dirtyHost u w.pa w.n w.ctx).trans (of_aside (Aside.storeBytes _ ⟨c, tid, w.ctx, false⟩ w.pa w.n v))
          exact hu.trans ((hd _).trans (foldl _ (fun t l => of_aside (Aside.trigger t l)) _ _))

theorem performOne (s : State) (c : CoreId) (p : Pending) : BandsKept s (s.performOne c p).2 := by
  have hgone : ∀ u : State, BandsKept u ((u.unqueue c p).onTid c p.tid (Thread.endWrite p.near false false)) := fun u =>
    (onCore u c _).trans (onCore _ c _)
  unfold State.performOne
  split
  · dsimp only
    split
    · next u heq => exact (of_pair (performMsg s c p.tid p.msg 0) heq).trans (hgone u)
    · next heq => exact of_pair (performMsg s c p.tid p.msg 0) heq
    · next u heq =>
      exact (of_pair (performMsg s c p.tid p.msg 0) heq).trans ((hgone u).trans (writeFailedOn _ _ _ _ _ _ _))
  · split
    · exact (hgone s).trans (writeFailedOn _ _ _ _ _ _ _)
    · split
      · exact (onCore s c _).trans (sendWrite _ _ _ _ _)
      · exact refl s

theorem performSeq (l : List (CoreId × Pending)) (s : State) : BandsKept s (s.performSeq l).2 := by
  induction l generalizing s with
  | nil => exact refl s
  | cons q r ih =>
    have h := performOne s q.1 q.2
    unfold State.performSeq
    split
    · next u heq => exact (of_pair h heq).trans (ih u)
    · exact h

/-! Reads of an engine (R126). -/

theorem lineForRead (s : State) (c : CoreId) (line : Nat) (m : Bool) : BandsKept s (s.lineForRead c line m) := by
  unfold State.lineForRead
  dsimp only
  split
  · exact of_aside (Aside.setLine s _ _)
  · exact ite _ (fun _ => of_aside ((Aside.channelTake s _ _).trans ((Aside.setLine _ _ _).trans (Aside.dieCrowd _ _ _))))
      fun _ => of_aside (Aside.channelTake s _ _)

theorem serveRead (s : State) (c : CoreId) (pa n : Nat) (m : Bool) (tid : Nat) : BandsKept s (s.serveRead c pa n m tid).2 := by
  unfold State.serveRead
  split
  · exact refl s
  · split
    · next heq => exact of_pair (blocked s _ _ _ _ _) heq
    · next u heq =>
      have hu := of_pair (blocked s _ _ _ _ _) heq
      split
      · exact hu
      · have hr := hu.trans ((of_aside (Aside.frameTake u pa n false)).trans (foldl
          (fun s l => if s.touchesOpen l pa n then s.lineForRead c l m else s)
          (fun v l => ite _ (fun _ => lineForRead v c l m) fun _ => refl v) (linesOf pa n) _))
        refine ite _ (fun _ => hr.trans (foldl _ (fun v l => ?_) _ _)) fun _ => hr
        exact ite _ (fun _ => refl v) fun _ => of_aside (Aside.touch v _ _ _)

theorem loaded {α : Type} (x : Served α × State) (va : Word) (pa : Nat) (h : BandsKept s x.2) :
    BandsKept s (Served.loaded x va pa).2 := by
  obtain ⟨_ | _ | _, u⟩ := x <;> exact h

theorem engObtain (s : State) (c : CoreId) (id pa n : Nat) (own : Bool) : BandsKept s (s.engObtain c id pa n own).2 := by
  unfold State.engObtain
  split
  · next g _ => exact onCore s c fun k => { k with got := k.got.erase g }
  · split
    · next heq => exact of_pair (obtain' s c 0 (some id) pa n own) heq
    · next heq => exact of_pair (obtain' s c 0 (some id) pa n own) heq

theorem engHostRead (s : State) (c : CoreId) (id pa n : Nat) : BandsKept s (s.engHostRead c id pa n).2 := by
  have hs : BandsKept s (s.settle c pa).2 := performSeq _ s
  unfold State.engHostRead
  split
  · next heq => exact of_pair hs heq
  · next u _ heq =>
    have hu := of_pair hs heq
    split
    · next heq => exact hu.trans (of_pair (engObtain u c id pa n false) heq)
    · next heq => exact hu.trans (of_pair (engObtain u c id pa n false) heq)
    · next heq => exact hu.trans (of_pair (engObtain u c id pa n false) heq)

theorem engAsk (s : State) (c : CoreId) (id : Nat) (p : Phys) (n : Nat) : BandsKept s (s.engAsk c id p n).2 := by
  unfold State.engAsk
  dsimp only
  split
  · exact refl s
  · exact ite _ (fun _ => hostRequest s _ _ _ _) fun _ => (enterGateway s _).trans (of_outer (outer_out _ _))

theorem engAway (s : State) (c : CoreId) (id : Nat) (p : Phys) (va : Word) (n : Nat) : BandsKept s (s.engAway c id p va n).2 := by
  unfold State.engAway
  split
  · next g _ =>
    have hg := onCore s c fun k => { k with got := k.got.erase g }
    dsimp only
    split <;> exact hg
  · split
    · exact refl s
    · split
      · next heq => exact of_pair (engAsk s c id p n) heq
      · next heq => exact of_pair (engAsk s c id p n) heq

theorem engPiece (s : State) (c : CoreId) (id : Nat) (va : Word) (p : Phys) (n : Nat) :
    BandsKept s (s.engPiece c id va p n).2 := by
  unfold State.engPiece
  split
  · exact engAway s c id p va n
  · split
    · exact refl s
    · split <;> exact refl s
    · split
      · exact refl s
      · exact refl s
      · split
        · exact loaded _ _ _ (engHostRead s c id p.pa n)
        · exact engAway s c id p va n
    · exact loaded _ _ _ (serveRead s c p.pa n false id)
    · exact loaded _ _ _ (serveRead s c p.pa n false id)

theorem engPieces (ps : List (Phys × Nat)) (s : State) (c : CoreId) (id : Nat) (va : Word) :
    BandsKept s (s.engPieces c id va ps).2 := by
  induction ps generalizing s va with
  | nil => exact refl s
  | cons q r ih =>
    obtain ⟨p, n⟩ := q
    have h := engPiece s c id va p n
    unfold State.engPieces
    split
    · next u heq =>
      have hu := of_pair h heq
      have hr := hu.trans (ih u (va + w64 n))
      split
      · next heq => exact hu.trans (of_pair (ih u (va + w64 n)) heq)
      · exact hr
    · exact h

theorem engLoad (s : State) (a : Asid) (id : Nat) (va : Word) (n : Nat) : BandsKept s (s.engLoad a id va n).2 := by
  unfold State.engLoad
  split
  · next heq => exact of_pair (xlateSpan s a va n .load) heq
  · next u heq => exact (of_pair (xlateSpan s a va n .load) heq).trans (engPieces _ u _ _ _)

/-! What the dispatch unit reads for a thread (R194, R195). -/

theorem readFormats (s : State) : BandsKept s s.readFormats.2 := by
  unfold State.readFormats
  split
  · exact refl s
  · have h := engLoad s s.dispatchAsid dispatchId s.th.fmtp 64
    split
    · next heq => exact (of_pair h heq).trans ⟨rfl, rfl⟩
    · next heq => exact of_pair h heq
    · next heq => exact of_pair h heq

theorem scopeLines (n : Nat) (s : State) (va : Word) : BandsKept s (s.scopeLines va n).2 := by
  induction n generalizing s va with
  | zero => exact refl s
  | succ n ih =>
    have h := engLoad s s.dispatchAsid dispatchId va 128
    unfold State.scopeLines
    split
    · next u heq =>
      have hu := of_pair h heq
      have hr := hu.trans (ih u (va + 128))
      split
      · next heq => exact hu.trans (of_pair (ih u (va + 128)) heq)
      · exact hr
    · next heq => exact of_pair h heq
    · next heq => exact of_pair h heq

theorem readScopes (s : State) : BandsKept s s.readScopes.2 := by
  unfold State.readScopes
  split
  · exact refl s
  · have h := scopeLines 24 s s.th.scopet
    split
    · next heq => exact (of_pair h heq).trans ⟨rfl, rfl⟩
    · next heq => exact of_pair h heq
    · next heq => exact of_pair h heq

theorem dispatchReads (s : State) (formats : Bool) (again : Instr) : BandsKept s (s.dispatchReads formats again) := by
  have hwait : ∀ (u v : State) (c : CoreId) (va : Word), BandsKept u (((u.keepGot v c).onTh fun t => { t with
      status := .parked .fault, dispatchFault := some (0, va) }).hold again) := fun u v c va => (onCore u c _).trans ⟨rfl, rfl⟩
  have hfail : ∀ (u : State) (f : XFault) (va : Word) (pa : Nat), BandsKept u ((u.onTh fun t => { t with
      dispatchFault := some (f.cause, va) }).parkFault f.cause va false pa f.detail) := fun u f va pa =>
    (onTh u _).trans (parkFault _ _ _ _ _ _)
  have hf : BandsKept s (if formats then s.readFormats else (.value (), s)).2 := by
    split
    · exact readFormats s
    · exact refl s
  unfold State.dispatchReads
  dsimp only
  split
  · next heq => exact (of_pair hf heq).trans (hfail _ _ _ _)
  · next heq => exact (of_pair hf heq).trans (hwait _ _ _ _)
  · next u heq =>
    have hu := of_pair hf heq
    have hs : BandsKept u u.recheckpoint.readScopes.2 :=
      BandsKept.trans (t := u.recheckpoint) ⟨rfl, rfl⟩ (readScopes u.recheckpoint)
    split
    · next heq => exact hu.trans ((of_pair hs heq).trans (hfail _ _ _ _))
    · next heq => exact hu.trans ((of_pair hs heq).trans (hwait _ _ _ _))
    · next heq => exact hu.trans ((of_pair hs heq).trans (onTh _ _))

/-! The start of a task (R193). -/

theorem rangeExtents (fuel : Nat) (s : State) (c : CoreId) (ctx : BitVec 16) (va last : Nat) (xs : List Extent) :
    BandsKept s (s.rangeExtents c ctx va last xs fuel).2 := by
  induction fuel generalizing s va xs with
  | zero => exact refl s
  | succ fuel ih =>
    unfold State.rangeExtents
    split
    · exact refl s
    · split
      · next heq =>
        have hu := of_pair (walk s c ctx _) heq
        split
        · exact hu
        · exact hu.trans (ih _ _ _)
      · next heq =>
        have hu := of_pair (walk s c ctx _) heq
        dsimp only
        split
        · exact hu.trans (ih _ _ _)
        · exact hu

theorem buildExtents (rs : List (Nat × Nat)) (s : State) (c : CoreId) (ctx : BitVec 16) (xs : List Extent) :
    BandsKept s (s.buildExtents c ctx xs rs).2 := by
  induction rs generalizing s xs with
  | nil => exact refl s
  | cons q r ih =>
    obtain ⟨lo, n⟩ := q
    have h := rangeExtents (n / 65536 + 2) s c ctx lo (lo + n - 1) xs
    unfold State.buildExtents
    split
    · next u heq => exact (of_pair h heq).trans (ih u _)
    · next heq => exact of_pair h heq
    · next heq => exact of_pair h heq
    · next heq => exact of_pair h heq

theorem asThread (s : State) (c : CoreId) (sl : Fin 8) (f : State → State) (h : ∀ u, BandsKept u (f u)) :
    BandsKept s (s.asThread c sl f) := by
  have h1 : BandsKept s (s.focus c sl) := ⟨rfl, rfl⟩
  exact (h1.trans (h _)).trans ⟨rfl, rfl⟩

theorem startReads (slots : List (Fin 8)) (s : State) (c : CoreId) :
    BandsKept s (slots.foldl (fun s sl => s.asThread c sl fun s => s.dispatchReads true (.taskReplay c sl)) s) := by
  refine foldl _ (fun t sl => ?_) slots s
  exact asThread t c sl (fun s => s.dispatchReads true (.taskReplay c sl)) fun v => dispatchReads v true (.taskReplay c sl)

theorem startTeam (s : State) (b : Start) (rank : Nat) (c : CoreId) : BandsKept s (s.startTeam b rank c) := by
  have h := buildExtents b.ranges s c b.l.ctx []
  unfold State.startTeam
  split
  next x u heq =>
  extract_lets xs k slots
  split
  next bank k' hk =>
  extract_lets id tid k1 k2 u1 u2
  have h1 : BandsKept u u1 := of_onlyCores (onlyCores_putCore u c k2)
  have h2 : BandsKept u1 u2 := startReads slots u1 c
  exact (of_pair h heq).trans (h1.trans (h2.trans (onCore u2 c _)))

theorem startTask (s : State) (r : TaskRec) (l : Launch) (cs : List CoreId) (band : Option Nat) (x : Word × List RangeDesc) :
    BandsKept s (s.startTask r l cs band x) := by
  unfold State.startTask
  extract_lets b
  have hteam : ∀ (t : State) (p : CoreId × Nat), BandsKept t (t.startTeam b p.2 p.1) := fun t p => startTeam t b p.2 p.1
  exact foldl _ hteam cs.zipIdx s

end BandsKept

end Sys2Proof.Proofs
end

section
/-! PROOF. The events of a launch (R187 to R199): the admission of a band, and the obligation. -/

namespace Sys2Proof.Proofs

open Sys2Proof.Machine Sys2Proof.Claims Sys2Proof.Laws

/-! Bands (R196). -/

/-- The gang positions that can take the next band of a launch. -/
def bandPositions (s : State) (l : Launch) : List Position :=
  ((s.positions l.partn l.gangw).filter fun p => p.cores.all fun c => s.admits c l.team l.poolpart).take
    (min l.bandg (l.ntask - l.next))

/-- The lead of a band's first position. -/
def bandLead (s : State) (l : Launch) : CoreId := ((bandPositions s l).head?.map (·.lead)).getD 0

/-- The state with a band of `n` tasks recorded, and its causeway slot taken. -/
def bandTaken (u : State) (h : Nat) (l : Launch) (id : Fin 64) (cores : List CoreId) (n : Nat) : State := { u with
  causeway := u.causeway.set id ⟨true, cores.length, 0, 0, false, false, false⟩
  bands := u.bands ++ [(id.val, h, cores, n)]
  launches := mapSet u.launches h { l with next := l.next + n, live := l.live + n } }

/-- The state after the tasks of a band have started on their positions. -/
def bandStarted (u : State) (h : Nat) (l : Launch) (id : Fin 64) (ps : List Position) (nrng : Nat) (x : Word × List RangeDesc) :
    State :=
  ps.zipIdx.foldl (fun s p => s.startTask (dealtRec h l (l.next + p.2) nrng) l p.1.cores (some id.val) x)
    (bandTaken u h l id (ps.flatMap (·.cores)) (min l.bandg (l.ntask - l.next)))

theorem bandStarted_fields (u : State) (h : Nat) (l : Launch) (id : Fin 64) (ps : List Position) (nrng : Nat)
    (x : Word × List RangeDesc) :
    (bandStarted u h l id ps nrng x).causeway[id] = ⟨true, (ps.flatMap (·.cores)).length, 0, 0, false, false, false⟩ ∧
      (id.val, h, ps.flatMap (·.cores), min l.bandg (l.ntask - l.next)) ∈ (bandStarted u h l id ps nrng x).bands := by
  have htask : ∀ (t : State) (p : Position × Nat),
      BandsKept t (t.startTask (dealtRec h l (l.next + p.2) nrng) l p.1.cores (some id.val) x) := fun t p =>
    BandsKept.startTask t _ l _ _ x
  have hk : BandsKept (bandTaken u h l id (ps.flatMap (·.cores)) (min l.bandg (l.ntask - l.next)))
      (bandStarted u h l id ps nrng x) := BandsKept.foldl _ htask ps.zipIdx _
  rw [hk.causeway, hk.bands]
  exact ⟨by simp [bandTaken], by simp [bandTaken]⟩

theorem admitBand_of_short (s : State) (h : Nat) (l : Launch) (hps : (bandPositions s l).length < min l.bandg (l.ntask - l.next)) :
    s.admitBand h l = (false, s) := by
  unfold bandPositions at hps
  unfold State.admitBand
  dsimp only
  split
  · rfl
  · rw [if_pos]
    simp only [hps, decide_true, Bool.or_true]

theorem admitBand_of_room (s : State) (h : Nat) (l : Launch) (id : Fin 64) (k : Nat) (x : Word × List RangeDesc)
    (hr : s.partRuns l.partn = true) (hf : s.freeCauseway = some id) (he : s.ctxtEn = true)
    (hps : (bandPositions s l).length = min l.bandg (l.ntask - l.next))
    (hk : (s.readNrng (bandLead s l) l).1 = .value k)
    (hx : ((s.readNrng (bandLead s l) l).2.readStart (bandLead s l) l (dealtRec h l l.next k)).1 = some x) :
    ∃ u, s.admitBand h l = (true, bandStarted u h l id (bandPositions s l) k x) := by
  rcases hn : s.readNrng (bandLead s l) l with ⟨y, u⟩
  rw [hn] at hk hx
  cases hk
  rcases hs : u.readStart (bandLead s l) l (dealtRec h l l.next k) with ⟨z, v⟩
  dsimp only at hx
  rw [hs] at hx
  cases hx
  refine ⟨v, ?_⟩
  unfold bandLead at hn hs
  unfold bandPositions at hps hn hs ⊢
  unfold State.admitBand
  simp only [hf, hr, he, hps, Nat.lt_irrefl, Bool.not_true, decide_false, Bool.or_self, Bool.false_eq_true, if_false, hn, hs]
  rfl

/-- A band that was admitted is followed by the next one. -/
theorem bandAdmit_of_admitted (s t : State) (h : Nat) (l : Launch) (hl : s.launchAt h = some l) (ha : l.aborted = false)
    (hn : l.next < l.ntask) (hb : l.bandg ≠ 0) (ht : s.admitBand h l = (true, t)) :
    exec (.bandAdmit h) s = .next (if l.next + l.bandg < l.ntask then t.later (.bandAdmit h) else t) := by
  show execBandAdmit h s = _
  simp only [execBandAdmit, hl, ha, Nat.not_le.2 hn, beq_eq_false_iff_ne.2 hb, decide_false, Bool.or_self, Bool.false_eq_true,
    if_false, ht]

theorem bandAdmit_of_short (s : State) (h : Nat) (l : Launch) (hl : s.launchAt h = some l) (ha : l.aborted = false)
    (hn : l.next < l.ntask) (hb : l.bandg ≠ 0) (hps : (bandPositions s l).length < min l.bandg (l.ntask - l.next)) :
    exec (.bandAdmit h) s = .next (s.hold (.bandAdmit h)) := by
  show execBandAdmit h s = _
  simp only [execBandAdmit, hl, ha, Nat.not_le.2 hn, beq_eq_false_iff_ne.2 hb, decide_false, Bool.or_self, Bool.false_eq_true,
    if_false, admitBand_of_short s h l hps]

theorem bandAdmit_of_room (s : State) (h : Nat) (l : Launch) (id : Fin 64) (k : Nat) (x : Word × List RangeDesc)
    (hl : s.launchAt h = some l) (ha : l.aborted = false) (hn : l.next < l.ntask) (hb : l.bandg ≠ 0)
    (hr : s.partRuns l.partn = true) (hf : s.freeCauseway = some id) (he : s.ctxtEn = true)
    (hps : (bandPositions s l).length = min l.bandg (l.ntask - l.next))
    (hk : (s.readNrng (bandLead s l) l).1 = .value k)
    (hx : ((s.readNrng (bandLead s l) l).2.readStart (bandLead s l) l (dealtRec h l l.next k)).1 = some x) :
    ∃ t, exec (.bandAdmit h) s = .next t ∧
      t.causeway[id] = ⟨true, ((bandPositions s l).flatMap (·.cores)).length, 0, 0, false, false, false⟩ ∧
      (id.val, h, (bandPositions s l).flatMap (·.cores), min l.bandg (l.ntask - l.next)) ∈ t.bands := by
  obtain ⟨u, hu⟩ := admitBand_of_room s h l id k x hr hf he hps hk hx
  have hfields := bandStarted_fields u h l id (bandPositions s l) k x
  rw [bandAdmit_of_admitted s _ h l hl ha hn hb hu]
  generalize bandStarted u h l id (bandPositions s l) k x = t at hfields ⊢
  refine ⟨_, rfl, ?_⟩
  split
  · exact hfields
  · exact hfields

/-! The other events (R193 to R199). -/

theorem taskRetire_of_stopped (s : State) (c : CoreId) (team : Nat) (tm : Team) (ht : s.teamAt c team = some tm)
    (hh : s.launchHalted tm.lh = false) (hs : s.allStopped (s.taskTeams c tm) = true) :
    exec (.taskRetire c team) s = .next (s.retire tm (s.taskTeams c tm)) := by
  show execTaskRetire c team s = _
  simp only [execTaskRetire, ht, hh, hs, Bool.false_eq_true, if_false, if_true]

theorem launchComplete_of_halted (s : State) (h : Nat) (l : Launch) (hl : s.launchAt h = some l) (hh : s.launchHalted h = true) :
    exec (.launchComplete h) s = .next (s.hold (.launchComplete h)) := by
  show execLaunchComplete h s = _
  simp only [execLaunchComplete, hl, hh, if_true]

/-- The state without a launch. -/
def launchGone (s : State) (h : Nat) : State := { s with launches := mapErase s.launches h }

theorem freeLaunch_rest (s : State) (h : Nat) : ∃ t, OnlyCores (launchGone s h) t ∧ s.freeLaunch h = t.requeueHeld := by
  unfold State.freeLaunch
  extract_lets u v
  exact ⟨_, (onlyCores_mapCores u _).trans (retry_rest v _), rfl⟩

theorem freeLaunch_fields (s : State) (h : Nat) : mapGet (s.freeLaunch h).launches h = none ∧
    ∀ a, (s.freeLaunch h).physByte a = s.physByte a := by
  obtain ⟨t, hc, he⟩ := freeLaunch_rest s h
  rw [he]
  refine ⟨?_, fun a => onlyCores_physByte hc a⟩
  obtain ⟨_, _, _, rfl⟩ := hc
  exact mapGet_mapErase_same s.launches h

/-- What a launch's completion does while its status write and its count are still owed. -/
theorem launchComplete_of_untold (s : State) (h : Nat) (l : Launch) (hl : s.launchAt h = some l) (hh : s.launchHalted h = false)
    (h0 : l.live = 0) (hn : l.aborted = true ∨ l.next = l.ntask) (hd : s.doneOut l.sup = false) (ht : l.told < 2) :
    let w := (s.finishKills (cmdCore l.sup) (engTid (doneId l.sup))).doneWrite l (l.told == 1)
    (w.1 = .value () → exec (.launchComplete h) s = .next (toldMore w.2 h l)) ∧
      ∀ f va pa, w.1 = .fail f va pa →
        exec (.launchComplete h) s = .next (toldMore (w.2.doneFails (cmdCore l.sup) l.sup f.cause l.ctx va pa) h l) := by
  rw [launchComplete_eq s h l hl hh h0 hn]
  obtain ⟨hv, hf⟩ := complete_of_untold s h l hd ht
  exact ⟨fun hw => by rw [hv hw], fun f va pa hw => by rw [hf f va pa hw]⟩

/-- Settles O45, event by event: each is rewritten to the operation that it runs, and its clause is what that operation does. -/
theorem launchEvents : Obligations.LaunchEvents := by
  unfold Obligations.LaunchEvents
  intro s h l c team
  refine ⟨fun hl ha hn hr => ⟨fun hb => ⟨fun p n hp hd hv => ?_, fun p hp hd => dealTask_of_full s h l hl ha hn hb p hp hd⟩,
      fun id hb hf => ⟨bandAdmit_of_short s h l hl ha hn hb, fun k x hps he hk hx =>
        bandAdmit_of_room s h l id k x hl ha hn hb hr hf he hps hk hx⟩⟩,
    fun r cs x hc hoff hen hp hch hf hl hx => ⟨taskDispatch_of_pick s c r cs l x hc hoff hen hp hch hf hl hx, ?_⟩,
    fun tm ht hh hs => ?_, launchComplete_of_halted s h l, fun hl hh h0 hn hd => ⟨fun ht => ?_, ?_⟩,
    stealRequest_of_idle s c, fun ho v hv => ⟨fun r => stealReply_of_stolen s c v r ho hv, fun hr => ?_⟩,
    fun n hw hle => stealRetryTimer_effect s c n hw hle⟩
  case refine_1 =>
    refine ⟨_, dealTask_of_room s h l hl ha hn hr hb p n hp hd hv, ?_⟩
    have hfields := dealtTo_fields (s.readNrng p.lead l).2 h l p.lead n
    obtain ⟨hdeque, hother, hlaunch, hdue⟩ := hfields
    generalize dealtTo (s.readNrng p.lead l).2 h l p.lead n = t at hdeque hother hlaunch hdue ⊢
    split
    · exact ⟨hdeque, hother, hlaunch, List.mem_append_left _ hdue⟩
    · exact ⟨hdeque, hother, hlaunch, hdue⟩
  case refine_2 =>
    intro g m tm tid xs
    obtain ⟨hclean, hk0, hk, hb, hrx⟩ := startRegs_fields r (if r.thread then 0 else g * l.team + m)
    exact ⟨rfl, rfl, rfl, rfl, hclean, hk0, hk, hb, hrx⟩
  case refine_3 =>
    obtain ⟨hgone, hlaunch⟩ := retire_effect s tm (s.taskTeams c tm)
    exact ⟨_, taskRetire_of_stopped s c team tm ht hh hs, hgone, hlaunch l⟩
  case refine_4 =>
    refine ⟨s.freeLaunch h, ?_, freeLaunch_fields s h⟩
    rw [launchComplete_eq s h l hl hh h0 hn, complete_of_told s h l hd ht]
  case refine_5 => exact launchComplete_of_untold s h l hl hh h0 hn hd
  case refine_6 =>
    rw [stealReply_of_refused s c v ho hv hr]
    exact ⟨fun w hw => ⟨_, rfl, stealRefused_of_more s c w hw⟩, fun hw => ⟨_, rfl, stealRefused_of_last s c hw⟩⟩

end Sys2Proof.Proofs
end

section
/-! PROOF. A fault queue in the line that an eviction loses (R112, R113, R132): the statement about homes fails on it. -/

namespace Sys2Proof.Proofs

open Sys2Proof.Machine Sys2Proof.Claims Sys2Proof.Laws

/-- The entry of a line that die 0 holds, its first sector dirty for context 0. -/
def queueLine : LineEntry := { LineEntry.none with state := 2, valid := 255, dirty := 1 }

/-- Context 0 has a fault queue of 64 entries at address 4096, whose first line is line 32: dirty in the die cache of die 0. -/
def queueState : State := { State.reset with
  ctxtEn := true
  mem := [(0, 1), (8, 6), (9, 0x10)]
  lines := [(32, queueLine)] }

/-- The eviction marks the lost sector as poisoned; then the notice of the loss is written whole over it, as entry 0 of the
queue, which clears the mark (R112). -/
theorem queueState_evicted : ∃ t, exec (.dieCacheEviction 32 1) queueState = .next t ∧ t.psect = [] ∧
    (t.physByte (128 * 32)).toNat = 0x0E :=
  ⟨_, rfl, by decide +kernel, by decide +kernel⟩

/-- Refutes O46: a lost dirty sector is not marked as poisoned after the eviction when it lies in the line of its context's
fault queue into which the eviction's own notice is written (`queueState_evicted`). -/
theorem not_homeEvents : ¬ Obligations.HomeEvents := by
  unfold Obligations.HomeEvents
  intro h
  obtain ⟨-, -, -, -, -, hevict, -⟩ := h queueState 0 0 32 0 0 0 0 0 0 (.fail 0 0) []
  obtain ⟨-, hlost⟩ := hevict (by decide) rfl (by decide)
  obtain ⟨t, ht, -, hmark, -⟩ := hlost 1 0 rfl (by decide) rfl rfl
  obtain ⟨u, hu, hnone, -⟩ := queueState_evicted
  obtain rfl : t = u := by
    rw [ht] at hu
    exact Host.Outcome.next.inj hu
  simp [hnone] at hmark

end Sys2Proof.Proofs
end

section
/-! PROOF. The mailboxes, and the operations of firmware behind them (R71 to R75). -/

namespace Sys2Proof.Proofs

open Sys2Proof.Machine Sys2Proof.Claims Sys2Proof.Laws

/-! Watches. -/

theorem trigger_empty (line : Nat) : Thread.empty.trigger line = Thread.empty := by
  simp [Thread.trigger, Thread.empty, WatchEntry.clear]

@[simp] theorem getThread_trigger (s : State) (line : Nat) (c : CoreId) (sl : Fin 8) :
    (s.trigger line).getThread c sl = (s.getThread c sl).trigger line := getThread_mapThreads s _ c sl (trigger_empty line)

theorem onlyCores_trigger (s : State) (line : Nat) : OnlyCores s (s.trigger line) := ⟨_, _, _, rfl⟩

/-- An armed entry on the line that is written triggers, in a thread that waits for nothing (R324). -/
theorem trigger_of_ready (t : Thread) (line : Nat) (i : Fin 4) (hs : t.status = .ready) (ha : t.watch[i].armed = true)
    (hp : t.watch[i].polled = false) (hl : t.watch[i].line = line) : (t.trigger line).watch[i].triggered = true := by
  have hany : t.watch.any (fun e => e.armed && !e.polled && e.line == line) = true :=
    Vector.any_eq_true.2 ⟨i, i.isLt, by simp_all⟩
  simp only [Fin.getElem_fin] at ha hp hl
  simp [Thread.trigger, Thread.checkWaitev, hs, hany, ha, hp, hl]

/-! A mailbox changed (R71, R72). -/

/-- The state with another mailbox in one place. -/
def withMail (s : State) (n : Fin 8) (x : Mailbox) : State := { s with mailboxes := s.mailboxes.set n x }

theorem onMailbox_eq (s : State) (n : Fin 8) (x : Mailbox) :
    s.onMailbox n (fun _ => x) = (withMail s n x).trigger (lineOf (s.localPa (mailboxOff n.val))) := rfl

/-- A mailbox that is set: the watches of its line aside, nothing else changes. -/
theorem mailboxSet_rest (s : State) (n : Fin 8) (x : Mailbox) : OnlyCores (withMail s n x) (s.mailboxSet n x) := by
  unfold State.mailboxSet
  split
  · next h =>
    have : withMail s n x = s := by simp [withMail, h]
    rw [this]
    exact ⟨_, _, _, rfl⟩
  · exact onlyCores_trigger _ _

/-- One mailbox becomes `x`; besides it and the cores, only more may have been sent. -/
structure Mailed (s : State) (n : Fin 8) (x : Mailbox) (t : State) : Prop where
  mail : t.mailboxes = s.mailboxes.set n x
  bytes : ∀ a, t.physByte a = s.physByte a
  queues : t.queues = s.queues
  cxl : t.cxl = s.cxl
  sent : s.outbox <+: t.outbox

namespace Mailed

variable {s t u : State} {n : Fin 8} {x y : Mailbox}

theorem of_rest (h : OnlyCores (withMail s n x) t) : Mailed s n x t := by
  obtain ⟨_, _, _, rfl⟩ := h
  exact ⟨rfl, fun _ => rfl, rfl, rfl, List.prefix_rfl⟩

theorem trans (a : Mailed s n x t) (b : Mailed t n y u) : Mailed s n y u :=
  ⟨by rw [b.mail, a.mail]; simp, fun p => (b.bytes p).trans (a.bytes p), b.queues.trans a.queues, b.cxl.trans a.cxl,
    a.sent.trans b.sent⟩

theorem out (a : Mailed s n x t) (o : Out) : Mailed s n x (t.out o) :=
  ⟨a.mail, a.bytes, a.queues, a.cxl, a.sent.trans (List.prefix_append _ _)⟩

theorem msix (a : Mailed s n x t) (v : Nat) : Mailed s n x (t.msix v) := by
  unfold State.msix
  split
  · exact a.out _
  · exact a

theorem get (a : Mailed s n x t) : t.mailboxes[n] = x := by
  rw [a.mail]
  simp

end Mailed

/-- Besides a mailbox and the cores, nothing differs. -/
theorem mailed_only {s t : State} {n : Fin 8} {x : Mailbox} (h : OnlyCores (withMail s n x) t) :
    (t.mailboxes = s.mailboxes.set n x ∧ ∀ a, t.physByte a = s.physByte a) ∧ t.outbox = s.outbox ∧ t.queues = s.queues := by
  obtain ⟨_, _, _, rfl⟩ := h
  exact ⟨⟨rfl, fun _ => rfl⟩, rfl, rfl⟩

/-! MBIN and MBOUT. -/

theorem mbinWrite_eq (s : State) (n : Fin 8) (v : Word) (h : s.bootState ≠ 2) :
    exec (.mbinWrite n v) s = .next (s.writeMbin true n v) := congrArg _ (if_pos (bne_iff_ne.2 h))

theorem writeMbin_of_empty (s : State) (n : Fin 8) (v : Word) (h : s.mailboxes[n].inv = false) :
    s.writeMbin true n v = (withMail s n { s.mailboxes[n] with mbin := v, inv := true }).trigger
      (lineOf (s.localPa (mailboxOff n.val))) := by
  have hne : ({ s.mailboxes[n] with mbin := v, inv := true } : Mailbox) ≠ s.mailboxes[n] := fun he =>
    Bool.false_ne_true (h.symm.trans (congrArg Mailbox.inv he).symm)
  simp only [State.writeMbin, h, State.mailboxSet, if_neg hne, Bool.not_true, Bool.false_eq_true, if_false]
  exact onMailbox_eq s n _

theorem writeMbin_of_full (s : State) (n : Fin 8) (v : Word) (h : s.mailboxes[n].inv = true) :
    s.writeMbin true n v = s.mailboxSet n { s.mailboxes[n] with inovf := true } := if_pos h

theorem writeMbout_of_full (s : State) (n : Fin 8) (v : Word) (h : s.mailboxes[n].outv = true) :
    s.writeMbout false n v = s.mailboxSet n { s.mailboxes[n] with outovf := true } := if_pos h

theorem writeMbout_of_empty (s : State) (n : Fin 8) (v : Word) (h : s.mailboxes[n].outv = false) :
    s.writeMbout false n v =
      if s.mailboxes[n].ien then (s.mailboxSet n { s.mailboxes[n] with mbout := v, outv := true }).msix n.val
      else s.mailboxSet n { s.mailboxes[n] with mbout := v, outv := true } :=
  if_neg (by rw [h]; decide)

theorem mailed_writeMbout (s : State) (n : Fin 8) (v : Word) (h : s.mailboxes[n].outv = false) :
    Mailed s n { s.mailboxes[n] with mbout := v, outv := true } (s.writeMbout false n v) := by
  have hm := Mailed.of_rest (mailboxSet_rest s n { s.mailboxes[n] with mbout := v, outv := true })
  rw [writeMbout_of_empty s n v h]
  split
  · exact hm.msix _
  · exact hm

/-- The lowest-numbered port that is up. -/
theorem lowestCxl_eq (s : State) (p : Fin 4) (hp : s.cxl[p].up = true) (hq : ∀ q : Fin 4, q < p → s.cxl[q].up = false) :
    s.lowestCxl = some p.val := by
  unfold State.lowestCxl
  rw [List.find?_range_eq_some]
  refine ⟨by simpa using hp, by simp, fun j hj => ?_⟩
  have h4 : j < 4 := by omega
  simpa [h4] using hq ⟨j, h4⟩ hj

theorem msix_of_lowest (s : State) (p v : Nat) (h : s.lowestCxl = some p) : s.msix v = s.out (.msix p v) := by simp [State.msix, h]

/-- What MBOUT sends (R72): the vector of the mailbox, where IEN is set. -/
theorem writeMbout_sends (s : State) (n : Fin 8) (v : Word) (h : s.mailboxes[n].outv = false) :
    (∀ p : Fin 4, s.mailboxes[n].ien = true → s.cxl[p].up = true → (∀ q : Fin 4, q < p → s.cxl[q].up = false) →
      (s.writeMbout false n v).outbox = s.outbox ++ [.msix p.val n.val]) ∧
    (s.mailboxes[n].ien = false → (s.writeMbout false n v).outbox = s.outbox) := by
  obtain ⟨_, _, _, hs⟩ := mailboxSet_rest s n { s.mailboxes[n] with mbout := v, outv := true }
  rw [writeMbout_of_empty s n v h]
  refine ⟨fun p hi hp hq => ?_, fun hi => ?_⟩
  · rw [if_pos hi, msix_of_lowest _ p.val n.val (by rw [hs]; exact lowestCxl_eq _ p hp hq), hs]
    rfl
  · rw [if_neg (by rw [hi]; decide), hs]
    rfl

/-! MBSTAT. -/

/-- The word that clears one field of MBSTAT and keeps IEN. -/
theorem clearWord_bits : ∀ bit < 4, ∀ ien : Bool,
    (∀ k < 4, (w64 (2 ^ bit + 256 * ien.toNat)).getLsbD k = decide (k = bit)) ∧
      (w64 (2 ^ bit + 256 * ien.toNat)).getLsbD 8 = ien := by decide

/-- A mailbox of which one field of MBSTAT is cleared (R72): INV by the device alone, OUTV by the host alone. -/
def statCleared (m : Mailbox) (host : Bool) (bit : Nat) : Mailbox := { m with
  inv := m.inv && !(decide (bit = 0) && !host)
  outv := m.outv && !(decide (bit = 1) && host)
  inovf := m.inovf && !decide (bit = 2)
  outovf := m.outovf && !decide (bit = 3) }

theorem clearStat_eq (s : State) (host : Bool) (n : Fin 8) (bit : Nat) (h : bit < 4) :
    s.clearStat host n bit = s.mailboxSet n (statCleared s.mailboxes[n] host bit) := by
  obtain ⟨hk, hi⟩ := clearWord_bits bit h s.mailboxes[n].ien
  simp only [State.clearStat, State.writeMbstat, hk _ (by decide : 0 < 4), hk _ (by decide : 1 < 4), hk _ (by decide : 2 < 4),
    hk _ (by decide : 3 < 4), hi, statCleared, eq_comm]

theorem clearStat_rest (s : State) (host : Bool) (n : Fin 8) (bit : Nat) (h : bit < 4) :
    OnlyCores (withMail s n (statCleared s.mailboxes[n] host bit)) (s.clearStat host n bit) := by
  rw [clearStat_eq s host n bit h]
  exact mailboxSet_rest s n _

theorem clearStat_only (s : State) (host : Bool) (n : Fin 8) (bit : Nat) (h : bit < 4) {x : Mailbox}
    (hx : statCleared s.mailboxes[n] host bit = x) :
    ((s.clearStat host n bit).mailboxes = s.mailboxes.set n x ∧ ∀ a, (s.clearStat host n bit).physByte a = s.physByte a) ∧
      (s.clearStat host n bit).outbox = s.outbox ∧ (s.clearStat host n bit).queues = s.queues :=
  hx ▸ mailed_only (clearStat_rest s host n bit h)

/-! What the host reads (R60). -/

/-- Where a mailbox stands in BAR0. -/
def mailAt (n : Fin 8) : Nat := 0x20000 + n.val / 4 * 0x1000000 + 0x1000 * (n.val % 4)

theorem mregAt_mailbox : ∀ n : Fin 8, mregAt (0xF0014000000 + mailAt n) 8 = some (.mailbox n 0) ∧
    mregAt (0xF0014000000 + (mailAt n + 8)) 8 = some (.mailbox n 1) ∧ mailAt n + 8 < 0x2000000 := by decide

theorem barRead_mailbox (s : State) (n : Fin 8) (h : s.bootState ≠ 2) :
    s.barRead (mailAt n) = some s.mailboxes[n].mbin ∧ s.barRead (mailAt n + 8) = some s.mailboxes[n].mbout ∧
      s.barRead 0 = some 0 := by
  have ha : s.answersHost = true := bne_iff_ne.2 h
  obtain ⟨h0, h1, hlt⟩ := mregAt_mailbox n
  have hlt' : mailAt n < 0x2000000 := by omega
  have hz : mregAt (0xF0014000000 + 0) 8 = none := by decide
  simp only [State.barRead, ha, h0, h1, hlt, hlt', hz, decide_true, MReg.hostSees, Bool.and_self, if_true, State.readMReg, and_self]

theorem barRead_of_failed_boot (s : State) (off : Nat) (h : s.bootState = 2) : s.barRead off = none := by
  simp [State.barRead, State.answersHost, h]

/-! Firmware (R73 to R75). -/

/-- The mailbox after firmware has answered. -/
def mailAnswered (m : Mailbox) (op status result : Nat) : Mailbox :=
  { m with inv := false, outv := true, mbout := BitVec.ofNat 64 (op + 256 * status + 65536 * result) }

theorem mailed_answerHost (s : State) (n : Fin 8) (status result : Nat) (h : s.mailboxes[n].outv = false) :
    Mailed s n (mailAnswered s.mailboxes[n] (s.mailboxes[n].mbin.toNat % 256) status result) (s.answerHost n status result) := by
  have hc := Mailed.of_rest (clearStat_rest s false n 0 (by decide))
  have hw := mailed_writeMbout (s.clearStat false n 0) n
    (w64 (bits s.mailboxes[n].mbin 7 0 + 256 * status + 65536 * result)) (by rw [hc.get]; exact (Bool.and_true _).trans h)
  refine cast ?_ (hc.trans hw)
  rw [hc.get]
  simp [mailAnswered, statCleared, State.answerHost, bits, w64]

theorem hostAsks_iff (s : State) (n : Fin 8) (p : Nat → Bool) : s.hostAsks n p = true ↔
    s.bootState = 1 ∧ s.mailboxes[n].inv = true ∧ s.mailboxes[n].outv = false ∧ p (s.mailboxes[n].mbin.toNat % 256) = true := by
  simp [State.hostAsks, bits, and_assoc]

theorem hostAsks_of_not_booted (s : State) (n : Fin 8) (p : Nat → Bool) (h : s.bootState ≠ 1) : s.hostAsks n p = false :=
  Bool.eq_false_of_not_eq_true fun ha => h ((hostAsks_iff s n p).1 ha).1

theorem hostArg_eq (s : State) (n : Fin 8) : s.hostArg n = s.mailboxes[n].mbin.toNat / 256 * 256 := by
  have := s.mailboxes[n].mbin.isLt
  simp only [State.hostArg, bits]
  omega

/-- What an answered operation leaves: the answer in the mailbox, and every byte of memory. -/
def Answered (s : State) (n : Fin 8) (op status result : Nat) (t : State) : Prop :=
  t.mailboxes = s.mailboxes.set n (mailAnswered s.mailboxes[n] op status result) ∧ ∀ a, t.physByte a = s.physByte a

theorem answerHost_effect (s : State) (n : Fin 8) (status result : Nat) (h : s.mailboxes[n].outv = false) :
    (s.answerHost n status result).queues = s.queues ∧
      Answered s n (s.mailboxes[n].mbin.toNat % 256) status result (s.answerHost n status result) :=
  have hm := mailed_answerHost s n status result h
  ⟨hm.queues, hm.mail, hm.bytes⟩

/-- The command that fetches the nonce, where a port takes it (R74). -/
def nonceAsked (s : State) (a : Nat) : State :=
  match s.hostPort a with
  | some p => s.out (.cxlRead .rdCurr p a 32)
  | none => s

theorem nonceAsked_rest (s : State) (a : Nat) : ∃ o, nonceAsked s a = { s with outbox := s.outbox ++ o } ∧
    ∀ p, s.hostPort a = some p → .cxlRead .rdCurr p a 32 ∈ o := by
  unfold nonceAsked
  split
  · next p hp => exact ⟨_, rfl, fun q hq => by simp [Option.some.inj (hp.symm.trans hq)]⟩
  · next hp => exact ⟨[], by simp, fun q hq => absurd (hp.symm.trans hq) nofun⟩

theorem attestation_of_asked (s : State) (n : Fin 8) (nonce : BitVec 256) (h : s.hostAsks n (fun op => op == 1) = true) :
    exec (.mbAttestationReport n nonce) s = .next (((nonceAsked s (s.hostArg n)).out (.report
      ((nonceAsked s (s.hostArg n)).hostPort (s.hostArg n + 32)) (s.hostArg n + 32)
      (s.reportBody nonce ++ toBytes 64 (Config.sm2Sign (s.reportBody nonce)).toNat))).answerHost n 0
        (240 + 32 * (nonceAsked s (s.hostArg n)).bootDigests.length)) := congrArg _ (if_pos h)

/-- The report: the nonce is asked for, the signed report is written after it, and the mailbox answers its length. -/
theorem attestation_effect (s : State) (n : Fin 8) (nonce : BitVec 256) (h : s.hostAsks n (fun op => op == 1) = true) :
    ∃ t, exec (.mbAttestationReport n nonce) s = .next t ∧
      .report (s.hostPort (s.hostArg n + 32)) (s.hostArg n + 32)
        (s.reportBody nonce ++ toBytes 64 (Config.sm2Sign (s.reportBody nonce)).toNat) ∈ t.outbox ∧
      Answered s n 1 0 (240 + 32 * s.bootDigests.length) t ∧
      ∀ p, s.hostPort (s.hostArg n) = some p → .cxlRead .rdCurr p (s.hostArg n) 32 ∈ t.outbox := by
  obtain ⟨-, -, hout, hop⟩ := (hostAsks_iff s n _).1 h
  obtain ⟨o, hn, ho⟩ := nonceAsked_rest s (s.hostArg n)
  refine ⟨_, attestation_of_asked s n nonce h, ?_⟩
  rw [hn]
  generalize hu : State.out _ _ = u
  have hm := mailed_answerHost u n 0 (240 + 32 * s.bootDigests.length) (by rw [← hu]; exact hout)
  rw [← hu] at hm ⊢
  refine ⟨hm.sent.subset (by simp [State.hostPort]), ⟨?_, hm.bytes⟩, fun p hp => hm.sent.subset ?_⟩
  · rw [← beq_iff_eq.1 hop]
    exact hm.mail
  · exact List.mem_append_left _ (List.mem_append_right _ (ho p hp))

/-- The lowest number that no queue has. -/
theorem find_free_number (qs : List LaunchQueue) (i : Nat) (hi : i < 256) (hfree : ∀ q ∈ qs, q.num ≠ i)
    (hlow : ∀ k < i, ∃ q ∈ qs, q.num = k) : (List.range 256).find? (fun i => !(qs.any fun q => q.num == i)) = some i := by
  rw [List.find?_range_eq_some]
  exact ⟨by simpa using hfree, by simpa using hi, fun k hk => by simpa using hlow k hk⟩

theorem attach_of_asked (s : State) (n : Fin 8) (j : BitVec 6) (h : s.hostAsks n (fun op => op == 2) = true) :
    exec (.mbAttachLaunchQueue n j) s = .next (
      if j.toNat < 3 ∨ 16 < j.toNat then s.answerHost n 2 0
      else
        match (List.range 256).find? fun i => !(s.queues.any fun q => q.num == i) with
        | none => s.answerHost n 3 0
        | some i => ({ s with queues := s.queues ++ [(⟨i, s.hostArg n, n.val⟩ : LaunchQueue)] }).answerHost n 0 i) :=
  congrArg _ (if_pos h)

theorem attach_effect (s : State) (n : Fin 8) (j : BitVec 6) (h : s.hostAsks n (fun op => op == 2) = true) (i : Nat)
    (hj : 3 ≤ j.toNat ∧ j.toNat ≤ 16) (hi : i < 256) (hfree : ∀ q ∈ s.queues, q.num ≠ i)
    (hlow : ∀ k < i, ∃ q ∈ s.queues, q.num = k) :
    ∃ t, exec (.mbAttachLaunchQueue n j) s = .next t ∧ t.queues = s.queues ++ [⟨i, s.hostArg n, n.val⟩] ∧ Answered s n 2 0 i t := by
  obtain ⟨-, -, hout, hop⟩ := (hostAsks_iff s n _).1 h
  refine ⟨_, attach_of_asked s n j h, ?_⟩
  rw [if_neg (by omega), find_free_number s.queues i hi hfree hlow, ← beq_iff_eq.1 hop]
  exact answerHost_effect { s with queues := s.queues ++ [⟨i, s.hostArg n, n.val⟩] } n 0 i hout

theorem attach_of_bad_argument (s : State) (n : Fin 8) (j : BitVec 6) (h : s.hostAsks n (fun op => op == 2) = true)
    (hj : ¬(3 ≤ j.toNat ∧ j.toNat ≤ 16)) :
    ∃ t, exec (.mbAttachLaunchQueue n j) s = .next t ∧ t.queues = s.queues ∧ Answered s n 2 2 0 t := by
  obtain ⟨-, -, hout, hop⟩ := (hostAsks_iff s n _).1 h
  refine ⟨_, attach_of_asked s n j h, ?_⟩
  have he := answerHost_effect s n 2 0 hout
  rw [beq_iff_eq.1 hop] at he
  rwa [if_pos (by omega)]

theorem detach_of_asked (s : State) (n : Fin 8) (h : s.hostAsks n (fun op => op == 3) = true) :
    exec (.mbDetachLaunchQueue n) s = .next (
      if s.queues.any (fun q => q.num == s.mailboxes[n].mbin.toNat / 256 % 256) then
        ({ s with queues := s.queues.filter fun q => q.num != s.mailboxes[n].mbin.toNat / 256 % 256 }).answerHost n 0 0
      else s.answerHost n 2 0) := by
  have hb : bits s.mailboxes[n].mbin 15 8 = s.mailboxes[n].mbin.toNat / 256 % 256 := rfl
  show execMbDetachLaunchQueue n s = _
  simp only [execMbDetachLaunchQueue, h, if_true, hb]

theorem detach_effect (s : State) (n : Fin 8) (h : s.hostAsks n (fun op => op == 3) = true)
    (hq : ∃ q ∈ s.queues, q.num = s.mailboxes[n].mbin.toNat / 256 % 256) :
    ∃ t, exec (.mbDetachLaunchQueue n) s = .next t ∧
      t.queues = s.queues.filter (fun q => q.num != s.mailboxes[n].mbin.toNat / 256 % 256) ∧ Answered s n 3 0 0 t := by
  obtain ⟨-, -, hout, hop⟩ := (hostAsks_iff s n _).1 h
  refine ⟨_, detach_of_asked s n h, ?_⟩
  rw [if_pos (List.any_eq_true.2 (by simpa using hq)), ← beq_iff_eq.1 hop]
  exact answerHost_effect { s with queues := _ } n 0 0 hout

theorem detach_of_unknown (s : State) (n : Fin 8) (h : s.hostAsks n (fun op => op == 3) = true)
    (hq : ∀ q ∈ s.queues, q.num ≠ s.mailboxes[n].mbin.toNat / 256 % 256) :
    ∃ t, exec (.mbDetachLaunchQueue n) s = .next t ∧ t.queues = s.queues ∧ Answered s n 3 2 0 t := by
  obtain ⟨-, -, hout, hop⟩ := (hostAsks_iff s n _).1 h
  refine ⟨_, detach_of_asked s n h, ?_⟩
  rw [if_neg (by simpa using hq), ← beq_iff_eq.1 hop]
  exact answerHost_effect s n 2 0 hout

theorem unknownOp_effect (s : State) (n : Fin 8) (h : s.hostAsks n (fun op => op == 0 || decide (3 < op)) = true) :
    ∃ t, exec (.mbUnknownOp n) s = .next t ∧ t.queues = s.queues ∧
      Answered s n (s.mailboxes[n].mbin.toNat % 256) 1 0 t := by
  obtain ⟨-, -, hout, -⟩ := (hostAsks_iff s n _).1 h
  exact ⟨_, congrArg Host.Outcome.next (if_pos h), answerHost_effect s n 1 0 hout⟩

/-- Firmware answers nothing before the boot has succeeded (R22). -/
theorem firmware_of_not_booted (s : State) (n : Fin 8) (nonce : BitVec 256) (j : BitVec 6) (h : s.bootState ≠ 1) :
    exec (.mbAttestationReport n nonce) s = .next s ∧ exec (.mbAttachLaunchQueue n j) s = .next s ∧
      exec (.mbDetachLaunchQueue n) s = .next s ∧ exec (.mbUnknownOp n) s = .next s := by
  have hn := fun p => ne_true_of_eq_false (hostAsks_of_not_booted s n p h)
  exact ⟨congrArg _ (if_neg (hn _)), congrArg _ (if_neg (hn _)), congrArg _ (if_neg (hn _)), congrArg _ (if_neg (hn _))⟩

/-! The obligation. -/

/-- A write of MBIN by the host reaches a mailbox that is free, and wakes the watches of its line. -/
theorem mbinWrite_of_empty (s : State) (n : Fin 8) (v : Word) (hb : s.bootState ≠ 2) (hi : s.mailboxes[n].inv = false) :
    ∃ t, exec (.mbinWrite n v) s = .next t ∧ OnlyCores (withMail s n { s.mailboxes[n] with mbin := v, inv := true }) t ∧
      ∀ c sl (i : Fin 4), (s.getThread c sl).status = .ready → (s.getThread c sl).watch[i].armed = true →
        (s.getThread c sl).watch[i].polled = false →
        (s.getThread c sl).watch[i].line = (s.pkgid.toNat * 2 ^ 44 + 0xF0014000000 + mailAt n) / 128 →
        (t.getThread c sl).watch[i].triggered = true := by
  refine ⟨_, mbinWrite_eq s n v hb, ?_⟩
  rw [writeMbin_of_empty s n v hi]
  refine ⟨onlyCores_trigger _ _, fun c sl i hs ha hp hl => ?_⟩
  have hline : (s.pkgid.toNat * 2 ^ 44 + 0xF0014000000 + mailAt n) / 128 = lineOf (s.localPa (mailboxOff n.val)) := by
    simp only [lineOf, State.localPa, mailboxOff, mailAt]
    omega
  rw [getThread_trigger]
  exact trigger_of_ready (s.getThread c sl) _ i hs ha hp (hl.trans hline)

theorem mboutWrite_of_empty (s : State) (n : Fin 8) (v : Word) (h : s.mailboxes[n].outv = false) :
    ∃ t, exec (.mboutWrite n v) s = .next t ∧
      (t.mailboxes = s.mailboxes.set n { s.mailboxes[n] with mbout := v, outv := true } ∧ ∀ a, t.physByte a = s.physByte a) ∧
      (∀ p : Fin 4, s.mailboxes[n].ien = true → (s.cxl[p].up = true ∧ ∀ q : Fin 4, q < p → s.cxl[q].up = false) →
        t.outbox = s.outbox ++ [.msix p.val n.val]) ∧
      (s.mailboxes[n].ien = false → t.outbox = s.outbox) :=
  have hm := mailed_writeMbout s n v h
  have hs := writeMbout_sends s n v h
  ⟨_, rfl, ⟨hm.mail, hm.bytes⟩, fun p hi hp => hs.1 p hi hp.1 hp.2, hs.2⟩

/-- Settles O44, clause by clause: a change of a mailbox is `mailboxSet_rest`, and an operation of firmware ends in
`answerHost_effect`. -/
theorem mailboxEvents : Obligations.MailboxEvents := by
  unfold Obligations.MailboxEvents
  intro s n v f nonce j m becomes only asks answers arg port at' body
  have harg : arg * 256 = s.hostArg n := (hostArg_eq s n).symm
  have hasks : ∀ op, asks op → ∀ p : Nat → Bool, p op = true → s.hostAsks n p = true := fun op ⟨hb, hi, ho, hop⟩ p hp =>
    (hostAsks_iff s n p).2 ⟨hb, hi, ho, by rw [hop]; exact hp⟩
  refine ⟨fun hb => ⟨barRead_of_failed_boot s _ hb, ?_, ?_⟩, barRead_mailbox s n, fun hb hi => ?_, fun hb hi => ?_, fun ho => ?_,
    mboutWrite_of_empty s n v, ?_, fun hb => ?_, fun hb => ?_, fun h => ?_, fun h h3 h16 i hi hfree hlow => ?_, fun h hj => ?_,
    fun h hq => ?_, fun h hq => ?_, firmware_of_not_booted s n nonce j, fun op h hop => ?_⟩
  case refine_1 => exact congrArg _ (if_neg (by simp [State.answersHost, hb]))
  case refine_2 => exact congrArg _ (if_neg (by simp [State.answersHost, hb]))
  case refine_3 =>
    obtain ⟨t, ht, hr, hw⟩ := mbinWrite_of_empty s n v hb hi
    exact ⟨t, ht, mailed_only hr, hw⟩
  case refine_4 =>
    refine ⟨_, mbinWrite_eq s n v hb, ?_⟩
    rw [writeMbin_of_full s n v hi]
    exact mailed_only (mailboxSet_rest s n _)
  case refine_5 =>
    refine ⟨_, rfl, ?_⟩
    rw [writeMbout_of_full s n v ho]
    exact mailed_only (mailboxSet_rest s n _)
  case refine_6 => exact ⟨_, rfl, clearStat_only s false n 0 (by decide) (by simp [statCleared, m])⟩
  case refine_7 =>
    refine ⟨_, congrArg Host.Outcome.next (if_pos (bne_iff_ne.2 hb)), ?_⟩
    exact clearStat_only s true n 1 (by decide) (by simp [statCleared, m])
  case refine_8 =>
    refine ⟨_, congrArg Host.Outcome.next (if_pos (bne_iff_ne.2 hb)), ?_⟩
    cases f
    · exact clearStat_only s true n 3 (by decide) (by simp [statCleared, m])
    · exact clearStat_only s true n 2 (by decide) (by simp [statCleared, m])
  case refine_9 =>
    rw [harg]
    exact attestation_effect s n nonce (hasks 1 h _ rfl)
  case refine_10 =>
    rw [harg]
    exact attach_effect s n j (hasks 2 h _ rfl) i ⟨h3, h16⟩ hi hfree hlow
  case refine_11 => exact attach_of_bad_argument s n j (hasks 2 h _ rfl) hj
  case refine_12 => exact detach_effect s n (hasks 3 h _ rfl) hq
  case refine_13 => exact detach_of_unknown s n (hasks 3 h _ rfl) hq
  case refine_14 =>
    obtain ⟨hb, hi, ho, rfl⟩ := h
    exact unknownOp_effect s n (hasks _ ⟨hb, hi, ho, rfl⟩ _ (by simpa using hop))

end Sys2Proof.Proofs
end

section
/-! PROOF. Alert writes, register writes by the host, and the causeway (R4, R17 to R19, R23, R60, R80). -/

namespace Sys2Proof.Proofs

open Sys2Proof.Machine Sys2Proof.Claims Sys2Proof.Laws

/-! Alerts (R80). -/

theorem alertWriteComplete_effect (s : State) (r : Alert) (q : List Alert) (h : s.alrtFlight = r :: q) :
    ∃ t, exec .alertWriteComplete s = .next t ∧ t.alrtFlight = q ∧ t.alrtTail = s.alrtTail + 1 ∧
      (s.cxl[0].up = true → t.outbox = s.outbox ++ [.msix 0 8]) := by
  have hx : exec .alertWriteComplete s = .next (({ s with alrtFlight := q, alrtTail := s.alrtTail + 1 }).msix 8) := by
    show execAlertWriteComplete s = _
    simp only [execAlertWriteComplete, h]
  refine ⟨_, hx, ?_⟩
  unfold State.msix
  split
  · next p hp =>
    refine ⟨rfl, rfl, fun hu => ?_⟩
    have h0 : s.lowestCxl = some 0 := by
      simp [State.lowestCxl, List.range, List.range.loop, hu]
    rw [← Option.some.inj (h0.symm.trans hp)]
    rfl
  · next hp =>
    refine ⟨rfl, rfl, fun hu => absurd hp ?_⟩
    simp [State.lowestCxl, List.range, List.range.loop, hu]

/-- ALRTCTL, where no held record is delivered: none is held, or the ring is not in use. -/
theorem writeAlrtctl_undelivered (s : State) (v : Word)
    (h : s.alrtHeld = [] ∨ ¬(v.getLsbD 8 = true ∧ 6 ≤ v.toNat % 32 ∧ v.toNat % 32 ≤ 16)) :
    s.writeAlrtctl v = { s with alrtLog2n := v.toNat % 32, alrtEn := v.getLsbD 8 } := by
  have hb : bits v 4 0 = v.toNat % 32 := by simp [bits]
  simp only [State.writeAlrtctl, State.deliverHeld, hb]
  split
  · next hon =>
    rcases h with h | h
    · simp [h]
    · exact absurd (by simpa [State.alertsOn] using hon) h
  · rfl

theorem alrtctlWrite_eq (s : State) (v : Word) (h : s.bootState ≠ 2) :
    exec (.alrtctlWrite v) s = .next (s.writeAlrtctl v) := congrArg _ (if_neg h)

/-! Registers (R4, R60). -/

theorem registerWrite_eq (s : State) (h : Bool) (off : Nat) (v : Word) (r : MReg) (hb : h = true → s.bootState ≠ 2)
    (hr : mregAt off 8 = some r) (hs : h = true → r.hostSees = true) :
    exec (.registerWrite h off v) s = .next (s.writeMReg h r v) := by
  show execRegisterWrite h off v s = _
  cases h with
  | false => simp [execRegisterWrite, State.writeReg, hr]
  | true =>
    simp only [execRegisterWrite, State.writeReg, hr, hs rfl]
    simpa using fun hf => absurd hf (hb rfl)

theorem registerWrite_of_failed_boot (s : State) (off : Nat) (v : Word) (h : s.bootState = 2) :
    exec (.registerWrite true off v) s = .next s := by
  show execRegisterWrite true off v s = _
  simp [execRegisterWrite, h]

/-- A register outside the mailboxes and the alert registers is not the host's to write. -/
theorem registerWrite_of_unseen (s : State) (off : Nat) (v : Word) (r : MReg) (hr : mregAt off 8 = some r)
    (hs : r.hostSees = false) : exec (.registerWrite true off v) s = .next s := by
  show execRegisterWrite true off v s = _
  simp [execRegisterWrite, State.writeReg, hr, hs]

/-! Arrivals (R17, R18). -/

theorem causewayFire_of_not_full (s : State) (id : Fin 64) (h : s.causeway[id].count ≠ s.causeway[id].expected) :
    s.causewayFire id = s := by
  unfold State.causewayFire
  exact if_neg (by simp [Fin.getElem_fin] at h ⊢; tauto)

theorem causewayFire_rest (s : State) (id : Fin 64) : ∃ c a, s.causewayFire id = { s with causeway := c, agenda := a } := by
  unfold State.causewayFire
  dsimp only
  split <;> exact ⟨_, _, rfl⟩

/-- The causeway after an arrival of the current phase, before its episode may complete. -/
def arrived (s : State) (id : Fin 64) : State :=
  { s with causeway := s.causeway.set id { s.causeway[id] with count := s.causeway[id].count + 1 } }

theorem arrived_get (s : State) (id : Fin 64) :
    (arrived s id).causeway[id] = { s.causeway[id] with count := s.causeway[id].count + 1 } := by simp [arrived]

theorem causewayArrival_eq (s : State) (id : Fin 64) (hb : s.causeway[id].broken = false)
    (hlt : s.causeway[id].count < s.causeway[id].expected) :
    exec (.causewayArrival id s.causeway[id].phase) s = .next ((arrived s id).causewayFire id) := by
  show execCausewayArrival id _ s = _
  have hn : ¬s.causeway[id].expected ≤ s.causeway[id].count := by omega
  simp only [execCausewayArrival, hb, bne_self_eq_false, hn, decide_false, Bool.or_self, Bool.false_eq_true, if_false, arrived]

theorem causewayArrival_of_more (s : State) (id : Fin 64) (hb : s.causeway[id].broken = false)
    (hlt : s.causeway[id].count + 1 < s.causeway[id].expected) :
    exec (.causewayArrival id s.causeway[id].phase) s = .next (arrived s id) := by
  rw [causewayArrival_eq s id hb (by omega), causewayFire_of_not_full _ id]
  rw [arrived_get]
  exact Nat.ne_of_lt hlt

theorem causewayArrival_of_last (s : State) (id : Fin 64) (hb : s.causeway[id].broken = false)
    (hr : s.causeway[id].releasing = false) (hl : s.causeway[id].count + 1 = s.causeway[id].expected)
    (hn : s.causeway[id].next = 0) :
    exec (.causewayArrival id s.causeway[id].phase) s = .next { s with
      causeway := s.causeway.set id { s.causeway[id] with count := 0, phase := !s.causeway[id].phase, releasing := true },
      agenda := s.agenda ++ [.causewayRelease id] } := by
  rw [causewayArrival_eq s id hb (by omega)]
  have hpos : 0 < s.causeway[id].expected ∧ s.causeway[id].count + 1 = s.causeway[id].expected := ⟨by omega, hl⟩
  simp only [State.causewayFire, arrived_get, hb, hr, hpos, hn, Bool.not_false, Bool.and_self, and_self, decide_true, if_true,
    Nat.zero_min, Nat.zero_sub]
  simp [arrived, State.later]

/-! A release (R17). -/

/-- What the release of a team of the band does to a thread. -/
def memberDeparts (id : Nat) (phase : Bool) (t : Thread) (tm : Team) : Thread :=
  if t.status != .empty && t.team == tm.id then
    t.departIf fun w => match w with
      | .barb i p => i == id && p == phase
      | _ => false
  else t

theorem bandRelease_slot (k : Core) (id : Nat) (phase : Bool) (sl : Fin 8) :
    (k.bandRelease id phase).slots[sl] =
      (k.teams.filter fun t => t.band == some id).foldl (memberDeparts id phase) k.slots[sl] := by
  unfold Core.bandRelease
  generalize k.teams.filter (fun t => t.band == some id) = l
  induction l generalizing k with
  | nil => rfl
  | cons tm r ih =>
    rw [List.foldl_cons, List.foldl_cons, ih]
    congr 1
    simp [Core.onTeam, Core.onMembers, memberDeparts] <;> rfl

theorem memberDeparts_of_ready (id : Nat) (phase : Bool) (t : Thread) (tm : Team) (h : t.status = .ready) :
    memberDeparts id phase t tm = t := by simp [memberDeparts, Thread.departIf, h]

theorem foldl_memberDeparts_of_ready (id : Nat) (phase : Bool) (t : Thread) (l : List Team) (h : t.status = .ready) :
    l.foldl (memberDeparts id phase) t = t := by
  induction l with
  | nil => rfl
  | cons tm r ih => rw [List.foldl_cons, memberDeparts_of_ready id phase t tm h, ih]

/-- A thread that waits for the phase departs with the first release of its team. -/
theorem foldl_memberDeparts (id : Nat) (phase : Bool) (t : Thread) (l : List Team) (h : t.status = .parked (.barb id phase))
    (hm : ∃ tm ∈ l, t.team = tm.id) : l.foldl (memberDeparts id phase) t = { t with status := .ready, pc := t.pc + 4 } := by
  induction l with
  | nil => simp at hm
  | cons tm r ih =>
    rw [List.foldl_cons]
    by_cases ht : t.team = tm.id
    · have : memberDeparts id phase t tm = { t with status := .ready, pc := t.pc + 4 } := by
        simp [memberDeparts, Thread.departIf, h, ht]
      rw [this]
      exact foldl_memberDeparts_of_ready id phase _ r rfl
    · have : memberDeparts id phase t tm = t := by simp [memberDeparts, ht]
      rw [this]
      exact ih (by simpa [ht] using hm)

theorem mapAllCores_getCore (s : State) (f : Core → Core) (c : CoreId) (h : c ∈ s.coreList) :
    (s.mapAllCores f).getCore c = f (s.getCore c) := (getCore_mapCores s (fun _ => f) c).trans (if_pos h)

theorem mapAllCores_rest (s : State) (f : Core → Core) : ∃ a p k th ks,
    s.mapAllCores f = { s with areas := a, parts := p, core := k, th := th, cores := ks } := ⟨_, _, _, _, _, rfl⟩

theorem causewayRelease_effect (s : State) (id : Fin 64) (h : s.causeway[id].releasing = true) :
    ∃ t, exec (.causewayRelease id) s = .next t ∧ (∀ a, t.physByte a = s.physByte a) ∧
      ∀ k ∈ s.coreList, ∀ (sl : Fin 8) (tm : Team), tm ∈ (s.getCore k).teams → tm.band = some id.val →
        (s.getThread k sl).team = tm.id → (s.getThread k sl).status = .parked (.barb id.val (!s.causeway[id].phase)) →
        (t.getThread k sl).status = .ready ∧ (t.getThread k sl).pc = (s.getThread k sl).pc + 4 := by
  set f := Core.bandRelease id.val (!s.causeway[id].phase) with hf
  obtain ⟨a, p, k, th, ks, hm⟩ := mapAllCores_rest s f
  obtain ⟨c, ag, hc⟩ := causewayFire_rest
    { s.mapAllCores f with causeway := (s.mapAllCores f).causeway.set id { s.causeway[id] with releasing := false } } id
  have hx : exec (.causewayRelease id) s = .next { s.mapAllCores f with causeway := c, agenda := ag } := by
    rw [← show _ = ({ s.mapAllCores f with causeway := c, agenda := ag } : State) from hc]
    show execCausewayRelease id s = _
    simp only [execCausewayRelease, h, Bool.not_true, Bool.false_eq_true, if_false]
    rfl
  refine ⟨_, hx, fun q => by rw [hm]; rfl, fun d hd sl tm htm hband hteam hs => ?_⟩
  have hg : ({ s.mapAllCores f with causeway := c, agenda := ag } : State).getThread d sl = (f (s.getCore d)).slots[sl] := by
    rw [← mapAllCores_getCore s f d hd, ← getThread_eq_slot]
    rfl
  rw [hg, hf, bandRelease_slot, ← getThread_eq_slot,
    foldl_memberDeparts id.val _ _ _ hs ⟨tm, List.mem_filter.2 ⟨htm, by simp [hband]⟩, hteam⟩]
  exact ⟨rfl, rfl⟩

/-! Another thread put in the current one's place. -/

/-- A state in which another slot is the current one reads every core as before. -/
theorem getCore_focus (s : State) (c : CoreId) (sl : Fin 8) (d : CoreId) : (s.focus c sl).getCore d = s.getCore d := by
  by_cases hd : d = c
  · subst hd
    simp [State.focus, State.getCore, State.here]
  · by_cases hc : c = s.loc
    · subst hc
      simp [State.focus, State.getCore, hd]
    · by_cases hl : d = s.loc
      · subst hl
        simp [State.focus, State.getCore, hd, hc, mapGet_mapErase_ne]
      · simp [State.focus, State.getCore, hd, hc, hl, mapGet_mapErase_ne, mapGet_mapSet_ne]

@[simp] theorem getThread_focus (s : State) (c : CoreId) (sl : Fin 8) (d : CoreId) (x : Fin 8) :
    (s.focus c sl).getThread d x = s.getThread d x := by
  rw [getThread_eq_slot, getThread_eq_slot, getCore_focus]

@[simp] theorem getThread_current (s : State) : s.getThread s.loc s.slot = s.th := if_pos ⟨rfl, rfl⟩

theorem focus_th (s : State) (c : CoreId) (sl : Fin 8) : (s.focus c sl).th = s.getThread c sl :=
  (getThread_eq_slot s c sl).symm

/-! What a trap leaves alone (R378, R382). -/

/-- The current slot's own operation: every other thread, the causeway and the alerts are as they were. -/
structure OwnSlot (s t : State) : Prop where
  loc : t.loc = s.loc
  slot : t.slot = s.slot
  causeway : t.causeway = s.causeway
  alrtSeq : t.alrtSeq = s.alrtSeq
  others : ∀ d x, ¬(d = s.loc ∧ x = s.slot) → t.getThread d x = s.getThread d x

namespace OwnSlot

theorem trans {s t u : State} (a : OwnSlot s t) (b : OwnSlot t u) : OwnSlot s u :=
  ⟨b.loc.trans a.loc, b.slot.trans a.slot, b.causeway.trans a.causeway, b.alrtSeq.trans a.alrtSeq, fun d x h =>
    (b.others d x (by rwa [a.loc, a.slot])).trans (a.others d x h)⟩

theorem onTh (s : State) (f : Thread → Thread) : OwnSlot s (s.onTh f) := by
  refine ⟨rfl, rfl, rfl, rfl, fun d x h => ?_⟩
  rw [getThread_eq_slot, getThread_eq_slot]
  by_cases hd : d = s.loc
  · have hx : s.slot ≠ x := fun hx => h ⟨hd, hx.symm⟩
    have hv : s.slot.val ≠ x.val := fun hv => hx (Fin.ext hv)
    simp [State.onTh, State.getCore, State.here, hd, Vector.getElem_set_ne _ _ hv]
  · simp [State.onTh, State.getCore, hd]

variable {s t u : State}

theorem refl (s : State) : OwnSlot s s := ⟨rfl, rfl, rfl, rfl, fun _ _ _ => rfl⟩

theorem of_due (h : OnlyDue s t) : OwnSlot s t := by
  obtain ⟨a, rfl⟩ := h
  exact ⟨rfl, rfl, rfl, rfl, fun _ _ _ => rfl⟩

/-- Cores whose slots stay. -/
theorem mapCores (s : State) (f : CoreId → Core → Core) (hf : ∀ c k, (f c k).slots = k.slots) : OwnSlot s (s.mapCores f) := by
  refine ⟨rfl, rfl, rfl, rfl, fun d x _ => ?_⟩
  rw [getThread_eq_slot, getThread_eq_slot, getCore_mapCores]
  split
  · simp only [hf]
  · next h => simp only [getCore_of_not_mem s d h]

theorem abortLaunch (s : State) (h status : Nat) : OwnSlot s (s.abortLaunch h status) := by
  unfold State.abortLaunch
  split
  · exact refl s
  · next l _ =>
    split
    · exact refl s
    · have hcores : ∀ v : State, OwnSlot v (v.mapCores fun _ k => { k with deque := k.deque.filter fun r => !(r.lh == h) }) :=
        fun v => mapCores v _ fun _ _ => rfl
      have hset : ∀ (v : State) (m : Launch), OwnSlot v { v with launches := mapSet v.launches h m } := fun _ _ =>
        ⟨rfl, rfl, rfl, rfl, fun _ _ _ => rfl⟩
      have hretire : ∀ v : State, OnlyDue v (v.coreList.foldl (fun s c =>
          ((s.getCore c).teams.filter fun t => t.lh == h).foldl (fun s t => s.later (.taskRetire c t.id)) s) v) := fun v =>
        OnlyDue.foldl _ (fun v c => OnlyDue.foldl _ (fun v t => OnlyDue.later v _) _ v) _ v
      have hall := fun m m' => (hset s m).trans ((hcores _).trans ((hset _ m').trans (of_due (hretire _))))
      dsimp only
      split
      · exact (hall _ _).trans (of_due (.later _ _))
      · exact hall _ _

end OwnSlot

theorem ownSlot_trap (s : State) (code : Nat) (v : Word) : OwnSlot s (s.trap code v) := by
  unfold State.trap State.endThread State.haltSlot
  split
  · split
    · exact .onTh s _
    · exact (OwnSlot.onTh s fun t => { t with status := .parked .stopped }).trans (.abortLaunch _ _ _)
  · exact .onTh s _

/-! A mismatch at the causeway (R19). -/

/-- What a mismatch does at one slot. -/
def mismatchSlot (id : Fin 64) (c : CoreId) (s : State) (sl : Fin 8) : State :=
  match (s.getThread c sl).status with
  | .parked (.barb i _) => if i = id.val then s.asThread c sl (fun s => s.wake.trap 0x07 (w64 id.val)) else s
  | _ => s

theorem ownSlot_wake_trap (u : State) (v : Word) : OwnSlot u (u.wake.trap 0x07 v) :=
  (OwnSlot.onTh u fun t => { t with status := .ready }).trans (ownSlot_trap _ _ _)

/-- The current thread after a trap that its handler takes. -/
def brokenThread (id : Fin 64) (t : Thread) : Thread :=
  { t with
    status := .ready
    xpc := t.pc
    xcause := BitVec.ofNat 64 (0x07 + (if t.mode = .supervisor then 256 else 0) + 512)
    xval := w64 id.val
    mode := .supervisor
    pc := t.xvec &&& ~~~3#64 }

theorem wake_trap_th (u : State) (id : Fin 64) (hi : u.th.inh = false) (hv : u.th.xvec ≠ 0) :
    (u.wake.trap 0x07 (w64 id.val)).th = brokenThread id u.th := by
  have hg : ¬(u.wake.th.inh || u.wake.th.xvec == 0) = true := by simpa [State.wake, Thread.inh] using ⟨hi, hv⟩
  rw [State.trap, if_neg hg]
  rfl

/-- Apart from the threads, a slot's part of a mismatch changes nothing that an obligation reads. -/
theorem mismatchSlot_rest (id : Fin 64) (c : CoreId) (s : State) (sl : Fin 8) :
    let t := mismatchSlot id c s sl
    t.loc = s.loc ∧ t.slot = s.slot ∧ t.causeway = s.causeway ∧ t.alrtSeq = s.alrtSeq := by
  have h := ownSlot_wake_trap (s.focus c sl) (w64 id.val)
  unfold mismatchSlot
  split
  · split
    · exact ⟨rfl, rfl, h.causeway, h.alrtSeq⟩
    · exact ⟨rfl, rfl, rfl, rfl⟩
  · exact ⟨rfl, rfl, rfl, rfl⟩

/-- At another slot the current thread stays. -/
theorem mismatchSlot_other (id : Fin 64) (c : CoreId) (s : State) (sl : Fin 8) (hne : ¬(s.loc = c ∧ s.slot = sl)) :
    (mismatchSlot id c s sl).th = s.th := by
  have h := ownSlot_wake_trap (s.focus c sl) (w64 id.val)
  unfold mismatchSlot
  split
  · split
    · rw [State.asThread, focus_th, h.others _ _ hne, getThread_focus, getThread_current]
    · rfl
  · rfl

theorem mismatchSlot_here (id : Fin 64) (s : State) (p : Bool) (hs : s.th.status = .parked (.barb id.val p))
    (hi : s.th.inh = false) (hv : s.th.xvec ≠ 0) : (mismatchSlot id s.loc s s.slot).th = brokenThread id s.th := by
  have hf : (s.focus s.loc s.slot).th = s.th := by rw [focus_th, getThread_current]
  have h := ownSlot_wake_trap (s.focus s.loc s.slot) (w64 id.val)
  have hcur := getThread_current ((s.focus s.loc s.slot).wake.trap 0x07 (w64 id.val))
  rw [h.loc, h.slot] at hcur
  simp only [mismatchSlot, getThread_current, hs, if_true, State.asThread, focus_th]
  exact hcur.trans ((wake_trap_th _ id (by rw [hf]; exact hi) (by rw [hf]; exact hv)).trans (congrArg _ hf))

theorem mismatchSlot_ready (id : Fin 64) (c : CoreId) (s : State) (sl : Fin 8) (hs : s.th.status = .ready) :
    (mismatchSlot id c s sl).th = s.th := by
  by_cases hne : s.loc = c ∧ s.slot = sl
  · obtain ⟨rfl, rfl⟩ := hne
    simp [mismatchSlot, hs]
  · exact mismatchSlot_other id c s sl hne

/-- A property of folded states that every step keeps, and one that a step of the list brings about. -/
theorem foldl_reaches {α β : Type} (f : β → α → β) (I J : β → Prop) (hI : ∀ b a, I b → I (f b a))
    (hJ : ∀ b a, I b → J b → J (f b a)) (x : α) (hx : ∀ b, I b → J (f b x)) (l : List α) (hm : x ∈ l) (b : β) (hb : I b) :
    J (l.foldl f b) := by
  induction l generalizing b with
  | nil => simp at hm
  | cons a r ih =>
    rw [List.foldl_cons]
    by_cases ha : a = x
    · subst ha
      exact (List.foldlRecOn (motive := fun b => I b ∧ J b) r f ⟨hI b a hb, hx b hb⟩ fun v hv a _ =>
        ⟨hI v a hv.1, hJ v a hv.1 hv.2⟩).2
    · exact ih (by simpa [Ne.symm ha] using hm) (f b a) (hI b a hb)

/-- Every thread of the package, as a mismatch goes through them. -/
def mismatchAll (id : Fin 64) (s : State) : State :=
  s.coreList.foldl (fun s c => (List.finRange 8).foldl (mismatchSlot id c) s) s

/-- What a mismatch reads and keeps of the state while it goes through the threads. -/
def MismatchKeeps (s t : State) : Prop :=
  t.loc = s.loc ∧ t.slot = s.slot ∧ t.causeway = s.causeway ∧ t.alrtSeq = s.alrtSeq

theorem mismatchKeeps_slot {s t : State} (id : Fin 64) (c : CoreId) (sl : Fin 8) (h : MismatchKeeps s t) :
    MismatchKeeps s (mismatchSlot id c t sl) := by
  obtain ⟨hl, hsl, hc, ha⟩ := h
  obtain ⟨hl', hsl', hc', ha'⟩ := mismatchSlot_rest id c t sl
  exact ⟨hl'.trans hl, hsl'.trans hsl, hc'.trans hc, ha'.trans ha⟩

theorem mismatchKeeps_all (id : Fin 64) (s : State) : MismatchKeeps s (mismatchAll id s) :=
  List.foldlRecOn _ _ ⟨rfl, rfl, rfl, rfl⟩ fun _ ht c _ =>
    List.foldlRecOn _ _ ht fun _ hu sl _ => mismatchKeeps_slot id c sl hu

/-- The current thread still waits as it did, or its trap has been taken. -/
def Mismatched (id : Fin 64) (s t : State) : Prop :=
  MismatchKeeps s t ∧ (t.th = s.th ∨ t.th = brokenThread id s.th)

theorem mismatchAll_th (id : Fin 64) (s : State) (p : Bool) (hs : s.th.status = .parked (.barb id.val p))
    (hi : s.th.inh = false) (hv : s.th.xvec ≠ 0) : (mismatchAll id s).th = brokenThread id s.th := by
  have hready : (brokenThread id s.th).status = .ready := rfl
  have hdone : ∀ t c sl, t.th = brokenThread id s.th → (mismatchSlot id c t sl).th = brokenThread id s.th := fun t c sl h =>
    (mismatchSlot_ready id c t sl (by rw [h]; exact hready)).trans h
  have hhere : ∀ t, Mismatched id s t → (mismatchSlot id s.loc t s.slot).th = brokenThread id s.th := by
    rintro t ⟨hk, ht | ht⟩
    · have := mismatchSlot_here id t p (by rw [ht]; exact hs) (by rw [ht]; exact hi) (by rw [ht]; exact hv)
      rwa [hk.1, hk.2.1, ht] at this
    · exact hdone t _ _ ht
  have hstep : ∀ t c sl, Mismatched id s t → Mismatched id s (mismatchSlot id c t sl) := by
    rintro t c sl ht
    refine ⟨mismatchKeeps_slot id c sl ht.1, ?_⟩
    by_cases hne : t.loc = c ∧ t.slot = sl
    · obtain ⟨rfl, rfl⟩ := hne
      rw [ht.1.1, ht.1.2.1]
      exact .inr (hhere t ht)
    · rw [mismatchSlot_other id c t sl hne]
      exact ht.2
  have hcore : ∀ t c, Mismatched id s t → Mismatched id s ((List.finRange 8).foldl (mismatchSlot id c) t) := fun t c ht =>
    List.foldlRecOn _ _ ht fun u hu sl _ => hstep u c sl hu
  refine foldl_reaches _ (Mismatched id s) (fun t => t.th = brokenThread id s.th) hcore ?_ s.loc ?_ s.coreList
    (List.mem_cons_self ..) s ⟨⟨rfl, rfl, rfl, rfl⟩, .inl rfl⟩
  · exact fun t c _ h => List.foldlRecOn (motive := fun u => u.th = brokenThread id s.th) _ _ h fun u hu sl _ => hdone u c sl hu
  · exact fun t ht => foldl_reaches _ (Mismatched id s) (fun u => u.th = brokenThread id s.th) (fun u sl => hstep u s.loc sl) (fun u sl _ => hdone u s.loc sl) s.slot
      hhere _ (List.mem_finRange _) t ht

/-- What a mismatch does to a core once the threads in their slots have trapped. -/
def mismatchCore (id : Fin 64) (k : Core) : Core :=
  let k := { k with saves := k.saves.map fun (v : Saved) => { v with thread := v.thread.retryIf (waitsBarb id.val) } }
  let k := { k with slots := k.slots.map (Thread.retryIf (waitsBarb id.val)) }
  { k with teams := k.teams.map fun (t : Team) => if t.band = some id.val then { t with barbCount := 0 } else t }

/-- The causeway with an identifier broken. -/
def broken (s : State) (id : Fin 64) : State := { s with
  causeway := s.causeway.set id { s.causeway[id] with broken := true, count := 0, next := 0, releasing := false } }

theorem causewayMismatch_eq (s : State) (id : Fin 64) :
    exec (.causewayMismatch id) s =
      .next ((mismatchAll id ((broken s id).alert 0x02 20 0 [w64 id.val])).mapAllCores (mismatchCore id)) := by
  show execCausewayMismatch id s = _
  simp only [execCausewayMismatch, mismatchAll, broken]
  rfl

theorem mapAllCores_mismatchCore_th (s : State) (id : Fin 64) (h : s.th.status = .ready) :
    (s.mapAllCores (mismatchCore id)).th = s.th := by
  have : (s.mapAllCores (mismatchCore id)).th = s.th.retryIf (waitsBarb id.val) := by
    simp [State.mapAllCores, State.mapCores, mismatchCore, State.here]
  rw [this, retryIf_of_ready _ _ h]

theorem mismatch_rest (u : State) (id : Fin 64) : let t := (mismatchAll id u).mapAllCores (mismatchCore id)
    t.causeway = u.causeway ∧ t.alrtSeq = u.alrtSeq := by
  obtain ⟨-, -, hc, hq⟩ := mismatchKeeps_all id u
  exact ⟨hc, hq⟩

theorem mismatch_th (u : State) (id : Fin 64) (p : Bool) (hs : u.th.status = .parked (.barb id.val p))
    (hi : u.th.inh = false) (hv : u.th.xvec ≠ 0) :
    ((mismatchAll id u).mapAllCores (mismatchCore id)).th = brokenThread id u.th := by
  have h := mismatchAll_th id u p hs hi hv
  rw [mapAllCores_mismatchCore_th _ id (by rw [h]; rfl), h]

theorem causewayMismatch_effect (s : State) (id : Fin 64) :
    ∃ t, exec (.causewayMismatch id) s = .next t ∧ t.causeway = (broken s id).causeway ∧ t.alrtSeq = s.alrtSeq + 1 ∧
      ∀ (p : Bool), s.th.status = .parked (.barb id.val p) → s.th.inh = false → s.th.xvec ≠ 0 →
        t.th = brokenThread id s.th := by
  have hx := causewayMismatch_eq s id
  obtain ⟨held, flight, lost, out, ha⟩ := alert_rest (broken s id) 0x02 20 0 [w64 id.val]
  rw [ha] at hx
  obtain ⟨hc, hq⟩ := mismatch_rest { broken s id with
    alrtSeq := (broken s id).alrtSeq + 1, alrtHeld := held, alrtFlight := flight, alrtLost := lost, outbox := out } id
  exact ⟨_, hx, hc, hq, fun p hs hi hv => mismatch_th _ id p hs hi hv⟩

theorem broken_get (s : State) (id : Fin 64) :
    (broken s id).causeway[id] =
      { s.causeway[id] with broken := true, count := 0, next := 0, releasing := false } := by simp [broken]

theorem broken_get_ne (s : State) (id j : Fin 64) (h : j ≠ id) : (broken s id).causeway[j] = s.causeway[j] :=
  Vector.getElem_set_ne id.isLt j.isLt fun hv => h (Fin.ext hv.symm)

theorem brokenThread_xcause (id : Fin 64) (t : Thread) : (brokenThread id t).xcause.toNat % 256 = 0x07 := by
  unfold brokenThread
  dsimp only
  split <;> decide

/-- Settles O39, clause by clause; a mismatch by an induction over the threads, among which is the current one. -/
theorem alertAndCausewayEvents : Obligations.AlertAndCausewayEvents := by
  unfold Obligations.AlertAndCausewayEvents
  refine ⟨fun s v off => ⟨alertWriteComplete_effect s, ?_, ?_, ?_, registerWrite_of_failed_boot s off v, ?_, ?_, ?_⟩,
    fun s id phase => ⟨?_, ?_, ?_, causewayRelease_effect s id, ?_⟩⟩
  · exact fun hb => congrArg _ (if_pos hb)
  · exact fun hb hh => (alrtctlWrite_eq s v hb).trans (congrArg _ (writeAlrtctl_undelivered s v (.inl hh)))
  · exact fun hb _ hn => (alrtctlWrite_eq s v hb).trans (congrArg _ (writeAlrtctl_undelivered s v (.inr hn)))
  · rintro hb rfl h
    have hr : mregAt 0xF0014030000 8 = some (.alert 0) := by decide
    rw [registerWrite_eq s h _ v _ (fun _ => hb) hr fun _ => rfl]
    simp [State.writeMReg, State.writeAlert, bits, w64]
  · rintro hb rfl h
    have hr : mregAt 0xF0014030010 8 = some (.alert 2) := by decide
    rw [registerWrite_eq s h _ v _ (fun _ => hb) hr fun _ => rfl]
    rfl
  · rintro rfl
    have hr : mregAt 0xF0014050088 8 = some .tvbase := by decide
    refine ⟨registerWrite_of_unseen s _ v _ hr rfl, ?_⟩
    rw [registerWrite_eq s false _ v _ (by simp) hr (by simp)]
    simp [State.writeMReg, bits]
  · rintro hb - rfl hlt
    exact causewayArrival_of_more s id hb hlt
  · rintro hb hr rfl hl hn
    exact causewayArrival_of_last s id hb hr hl hn
  · intro hb
    show execCausewayArrival id phase s = _
    simp only [execCausewayArrival, hb, if_true]
  · obtain ⟨t, hx, hc, hq, hth⟩ := causewayMismatch_effect s id
    refine ⟨t, hx, ?_, ?_, hq, fun j hj => ?_, fun p hs hi hv => ?_⟩
    · rw [hc, broken_get]
    · rw [hc, broken_get]
    · rw [hc, broken_get_ne s id j hj]
    · rw [hth p hs hi hv]
      exact ⟨rfl, rfl, rfl, brokenThread_xcause id s.th⟩

end Sys2Proof.Proofs
end

section
/-! PROOF. Translations that read only the thread's extents and its core's TLB (R122): states that agree in these translate alike. -/

namespace Sys2Proof.Proofs

open Sys2Proof.Machine Sys2Proof.Claims Sys2Proof.Laws

/-- Two states in which the current thread's translations are the same. -/
structure SameWalk (s u : State) : Prop where
  loc : u.loc = s.loc
  slot : u.slot = s.slot
  ctx : u.th.ctx = s.th.ctx
  mode : u.th.mode = s.th.mode
  extents : u.th.extents = s.th.extents
  tlb : u.core.tlb = s.core.tlb

theorem SameWalk.asid {s u : State} (h : SameWalk s u) : u.asid = s.asid := by
  unfold State.asid
  rw [h.loc, h.slot, h.ctx, h.mode]

/-- An entry of the TLB used. -/
theorem SameWalk.touch {s u : State} (h : SameWalk s u) (e : TlbEntry) :
    SameWalk (s.onCore s.loc (Core.tlbTouch e)) (u.onCore u.loc (Core.tlbTouch e)) := by
  have hth : ∀ v : State, (v.onCore v.loc (Core.tlbTouch e)).th = v.th := fun v => by
    simp [State.onCore, State.putCore, State.getCore, State.here, Core.tlbTouch]
  have htlb : ∀ v : State, (v.onCore v.loc (Core.tlbTouch e)).core.tlb = v.core.tlb.erase e ++ [e] := fun v => by
    simp [State.onCore, State.putCore, State.getCore, State.here, Core.tlbTouch]
  have hrest : ∀ v : State, (v.onCore v.loc (Core.tlbTouch e)).loc = v.loc ∧ (v.onCore v.loc (Core.tlbTouch e)).slot = v.slot :=
    fun v => by simp [State.onCore, State.putCore]
  exact ⟨by rw [(hrest s).1, (hrest u).1, h.loc], by rw [(hrest s).2, (hrest u).2, h.slot], by rw [hth, hth, h.ctx],
    by rw [hth, hth, h.mode], by rw [hth, hth, h.extents], by rw [htlb, htlb, h.tlb]⟩

theorem startWalk_not_ok (s : State) (a : Asid) (va : Word) (l : Leaf) : (s.startWalk a va).1 ≠ .ok l := by
  unfold State.startWalk
  split
  · exact nofun
  · split
    split
    · split <;> exact nofun
    · exact nofun

/-! Where the current thread's translation comes from. -/

theorem lookup_of_extent (s : State) (va : Word) (n : Nat) (x : Extent) (hx : extentFor s.th.extents va.toNat n = some x) :
    s.lookup s.asid va n = (.ok ⟨x.pbase + (va.toNat - x.vbase) - va.toNat % 65536, x.leaf, 16, x.lines⟩, s) := by
  have ht : s.getThread s.loc (Fin.ofNat 8 s.slot.val) = s.th := by simp
  simp only [State.lookup, State.asid, ht, hx, Bool.not_true, Bool.false_eq_true, if_false]

theorem lookup_of_tlb (s : State) (va : Word) (n : Nat) (e : TlbEntry) (hx : extentFor s.th.extents va.toNat n = none)
    (he : s.core.tlb.find? (fun e => e.hits s.slot.val s.th.ctx va) = some e) :
    s.lookup s.asid va n = (.ok e.asLeaf, s.onCore s.loc (Core.tlbTouch e)) := by
  have ht : s.getThread s.loc (Fin.ofNat 8 s.slot.val) = s.th := by simp
  have hk : (s.getCore s.loc).tlb = s.core.tlb := by simp [State.getCore, State.here]
  simp only [State.lookup, State.asid, ht, hx, hk, he, Bool.not_true, Bool.false_eq_true, if_false]

/-- Without either the thread waits for a walk, or has found one failed. -/
theorem lookup_of_neither (s : State) (va : Word) (n : Nat) (l : Leaf) (hx : extentFor s.th.extents va.toNat n = none)
    (he : s.core.tlb.find? (fun e => e.hits s.slot.val s.th.ctx va) = none) : (s.lookup s.asid va n).1 ≠ .ok l := by
  have ht : s.getThread s.loc (Fin.ofNat 8 s.slot.val) = s.th := by simp
  have hk : (s.getCore s.loc).tlb = s.core.tlb := by simp [State.getCore, State.here]
  simp only [State.lookup, State.asid, ht, hx, hk, he, Bool.not_true, Bool.false_eq_true, if_false]
  split
  · exact nofun
  · exact startWalk_not_ok s _ va l

theorem lookup_same {s u : State} (h : SameWalk s u) (va : Word) (n : Nat) (l : Leaf) (hl : (s.lookup s.asid va n).1 = .ok l) :
    (u.lookup u.asid va n).1 = .ok l ∧ SameWalk (s.lookup s.asid va n).2 (u.lookup u.asid va n).2 := by
  cases hx : extentFor s.th.extents va.toNat n with
  | some x =>
    rw [lookup_of_extent s va n x hx] at hl ⊢
    rw [lookup_of_extent u va n x (by rw [h.extents, hx])]
    exact ⟨hl, h⟩
  | none =>
    have hxu : extentFor u.th.extents va.toNat n = none := by rw [h.extents, hx]
    cases he : s.core.tlb.find? (fun e => e.hits s.slot.val s.th.ctx va) with
    | some e =>
      rw [lookup_of_tlb s va n e hx he] at hl ⊢
      rw [lookup_of_tlb u va n e hxu (by rw [h.tlb, h.slot, h.ctx, he])]
      exact ⟨hl, h.touch e⟩
    | none => exact absurd hl (lookup_of_neither s va n l hx he)

theorem xlate_same {s u : State} (h : SameWalk s u) (va : Word) (n : Nat) (k : Access) (p : Phys)
    (hp : (s.xlate s.asid va n k).1 = .ok p) :
    (u.xlate u.asid va n k).1 = .ok p ∧ SameWalk (s.xlate s.asid va n k).2 (u.xlate u.asid va n k).2 := by
  have hl := fun l => lookup_same h va n l
  revert hp
  unfold State.xlate
  rw [h.asid] at hl ⊢
  split
  · exact nofun
  · revert hl
    generalize s.lookup s.asid va n = r
    generalize u.lookup s.asid va n = q
    obtain ⟨o, s'⟩ := r
    obtain ⟨o', u'⟩ := q
    intro hl
    cases o with
    | error f => exact nofun
    | ok l =>
      obtain ⟨ho, hw⟩ := hl l rfl
      dsimp only at ho
      subst ho
      dsimp only
      split
      · exact nofun
      · exact fun hp => ⟨hp, hw⟩

/-- The pages of an access, first the one and then the other. -/
theorem xlateSpan_same {s u : State} (h : SameWalk s u) (va : Word) (n : Nat) (k : Access) (ps : List (Phys × Nat))
    (hp : (s.xlateSpan s.asid va n k).1 = .ok ps) : (u.xlateSpan u.asid va n k).1 = .ok ps := by
  have h1 := fun n p => xlate_same h va n k p
  have hs := fun n p => seen_xlate s va n k (p := p)
  have hu := fun n p => seen_xlate u va n k (p := p)
  revert hp
  unfold State.xlateSpan
  dsimp only
  split
  · have h1 := h1 n
    revert h1
    generalize s.xlate s.asid va n k = r
    generalize u.xlate u.asid va n k = q
    obtain ⟨o, s'⟩ := r
    obtain ⟨o', u'⟩ := q
    intro h1
    cases o with
    | error f => exact nofun
    | ok p =>
      have ho : o' = .ok p := (h1 p rfl).1
      subst ho
      exact id
  · generalize 65536 - va.toNat % 65536 = room
    have h1 := h1 room
    have hs := hs room
    have hu := hu room
    revert h1 hs hu
    generalize s.xlate s.asid va room k = r
    generalize u.xlate u.asid va room k = q
    obtain ⟨o, s'⟩ := r
    obtain ⟨o', u'⟩ := q
    intro h1 hs hu
    cases o with
    | error f => exact nofun
    | ok p =>
      obtain ⟨ho, hw⟩ := h1 p rfl
      have ho : o' = .ok p := ho
      subst ho
      have has : s'.asid = s.asid := (hs p rfl).asid
      have hau : u'.asid = u.asid := (hu p rfl).asid
      have h2 := fun q => xlate_same hw (va + w64 room) (n - room) k q
      dsimp only at h2 ⊢
      rw [has, hau] at h2
      revert h2
      generalize s'.xlate s.asid (va + w64 room) (n - room) k = r
      generalize u'.xlate u.asid (va + w64 room) (n - room) k = q
      obtain ⟨o, s''⟩ := r
      obtain ⟨o', u''⟩ := q
      intro h2
      cases o with
      | error f => exact nofun
      | ok p' =>
        have ho : o' = .ok p' := (h2 p' rfl).1
        subst ho
        exact id

/-! A release of a thread with nothing to wait for leaves what the thread reads (R159). -/

theorem drained_sameWalk {s u : State} (h : Drained s u) : SameWalk s u := by
  have hth : u.th = { s.th with scopeTab := u.th.scopeTab } := by
    conv_lhs => rw [h.rest]
  exact ⟨h.loc, h.slot, by rw [hth], by rw [hth], by rw [hth], h.tlb⟩

theorem drained_inflightOf {s u : State} (h : Drained s u) (c : CoreId) : (u.getCore c).inflight = (s.getCore c).inflight := by
  by_cases hc : c = s.loc
  · simp [State.getCore, State.here, h.loc, hc, h.inflight]
  · simp [State.getCore, h.loc, hc, h.cores]

theorem drained_open {s u : State} (h : Drained s u) (o : OpenMemory s) : OpenMemory u := by
  rw [h.rest]
  exact o

theorem drained_calm {s u : State} (h : Drained s u) (o : Calm s) : Calm u :=
  ⟨drained_open h o.1, fun c => by rw [drained_inflightOf h]; exact o.2 c⟩

theorem drained_isDevMem {s u : State} (h : Drained s u) (a : Nat) : u.isDevMem a = s.isDevMem a := by rw [h.rest]; rfl

theorem drained_reaches {s u : State} (h : Drained s u) (va : Word) (n : Nat) (k : Access) (ps : List (Phys × Nat))
    (hr : Reaches s va n k ps) : Reaches u va n k ps := by
  obtain ⟨h1, h2, h3⟩ := hr
  refine ⟨xlateSpan_same (drained_sameWalk h) va n k ps h1, fun q hq => by rw [drained_isDevMem h]; exact h2 q hq, ?_⟩
  rw [h.rest]
  exact h3

theorem drained_spanRead {s u : State} (h : Drained s u) (hst : s.core.staging = []) (ps : List (Phys × Nat)) :
    spanRead u ps = spanRead s ps := by
  have hown : u.ownStores = s.ownStores := by
    have h1 : u.core.staging = [] := by rw [h.core]
    have hth : u.th = { s.th with scopeTab := u.th.scopeTab } := by
      conv_lhs => rw [h.rest]
    simp only [State.ownStores, h1, hst, h.inflight]
    rw [hth]
  have hb : ∀ o a, u.loadByte o a = s.loadByte o a := fun o a => by
    rw [h.rest]
    rfl
  induction ps with
  | nil => rfl
  | cons q r ih =>
    obtain ⟨p, n⟩ := q
    simp only [Claims.spanRead, ih, hown]
    rw [leRead_congr fun a => hb _ a]

end Sys2Proof.Proofs
end

section
/-! PROOF. LAUNCH (R77, R78, R186, R392): the read of the record, the statuses, and the entry into the table. -/

namespace Sys2Proof.Proofs

open Sys2Proof.Machine Sys2Proof.Claims Sys2Proof.Laws

/-! What the checks of a record read (R77, R186). -/

/-- The context table as a state reads it, and the launches that it holds. -/
structure SameTables (s t : State) : Prop where
  en : t.ctxtEn = s.ctxtEn
  base : t.ctxtBase = s.ctxtBase
  byte : ∀ a, t.physByte a = s.physByte a
  launches : t.launches = s.launches

theorem SameTables.ctxEntry {s t : State} (h : SameTables s t) (ctx : BitVec 16) : t.ctxEntry ctx = s.ctxEntry ctx := by
  have hr : ∀ a n, t.physRead a n = s.physRead a n := fun a n => leRead_congr h.byte a n
  have ha : t.ctxAddr ctx = s.ctxAddr ctx := by rw [State.ctxAddr, h.base]; rfl
  simp only [State.ctxEntry, h.en, ha, hr]

theorem SameTables.launchStatus {s t : State} (h : SameTables s t) (v : Nat) : t.launchStatus v = s.launchStatus v := by
  simp only [State.launchStatus, h.ctxEntry]

theorem SameTables.freeHandle {s t : State} (h : SameTables s t) (sup : Nat) : t.freeHandle sup = s.freeHandle sup := by
  simp only [State.freeHandle, State.launchAt, h.launches]

/-! The record read. -/

/-- A state that a LAUNCH has read its record in: only the release and the caches lie between. -/
structure RecordRead (s t : State) : Prop where
  keeps : Keeps s t
  tables : SameTables s t
  th : t.th = { s.th with got := [], scopeTab := none }
  calm : Calm t

theorem recordRead_of {s u v : State} (hd : Drained s u) (hth : u.th = { s.th with scopeTab := none }) (hs : Seen u v)
    (hc : Calm s) : RecordRead s v.useUp := by
  have hcalm := calm_seen (drained_calm hd hc) hs
  refine ⟨keeps_trans hd.keeps (keeps_trans (keeps_seen hs) (keeps_useUp v)), ?_, ?_, ?_⟩
  · have h1 : SameTables s u := ⟨by rw [hd.rest], by rw [hd.rest], hd.physByte, hd.launches⟩
    exact ⟨(by rw [hs.rest] : v.ctxtEn = u.ctxtEn).trans h1.en, (by rw [hs.rest] : v.ctxtBase = u.ctxtBase).trans h1.base,
      fun a => (hs.physByte a).trans (h1.byte a), hs.launches.trans h1.launches⟩
  · rw [useUp_th, hs.th, hth]
  · refine ⟨hcalm.1, fun c => ?_⟩
    have : (v.useUp.getCore c).inflight = (v.getCore c).inflight := by
      by_cases hl : c = v.loc <;> simp [State.useUp, State.getCore, State.here, hl]
    rw [this]
    exact hcalm.2 c

/-- The handle table's command core: the current one, or the one that is named. -/
def launchSup (s : State) (n : Fin 8) : Nat := if isCmd s.loc then cmdNo s.loc else n.val

theorem launch_eq (d a : Reg) (n : Fin 8) (s : State) (hm : s.th.mode = .supervisor) (hn : isCmd s.loc = true → n = 0) :
    exec (.launch d a n) s = .next (runLaunch d a n s) := by
  have h1 : ¬(isCmd s.loc = true ∧ n ≠ 0) := fun h => h.2 (hn h.1)
  have h2 : ¬s.th.mode = .user := by rw [hm]; exact nofun
  refine congrArg Host.Outcome.next ?_
  rw [if_neg h1, guardPriv, if_neg h2]

theorem withCtx_of_open (ctx : BitVec 16) (k : State → State) (s : State) (h : OpenMemory s) : withCtx ctx k s = k s := by
  have : s.ctxReady ctx = (none, s) := by
    unfold State.ctxReady
    split
    · exact open_blocked h _ _ _ _ _
    · rfl
  simp only [withCtx, this]

/-- A LAUNCH that reads its record goes on with it where nothing else has changed. -/
theorem runLaunch_reads (d a : Reg) (n : Fin 8) (s : State) (ha : s.th.regs.rxp a = none) (hq : Quiet s) (hc : Calm s)
    (hal : (s.x a).toNat % 128 = 0) (ps : List (Phys × Nat)) (hr : Reaches s (s.x a) 128 .load ps) :
    ∃ t, runLaunch d a n s = enterLaunch d (spanRead s ps) (launchSup s n) t ∧ RecordRead s t := by
  have hheld : s.th.held = [] := hq.1
  have hstag : s.core.staging = [] := hq.2.2.1
  obtain ⟨u, hu, hd, hth, -⟩ := withReleaseOf_quiet (some .host) (fun c => levelRank (some .host) > 1 || sockOf c == sockOf s.loc)
    (loadThen (s.x a) 128 fun v => withCtx (BitVec.ofNat 16 (bits (recWord v 7) 15 0)) (enterLaunch d v (launchSup s n))) s hq
  obtain ⟨v, hv, hs⟩ := loadThen_calm (s.x a) 128
    (fun v => withCtx (BitVec.ofNat 16 (bits (recWord v 7) 15 0)) (enterLaunch d v (launchSup s n))) u ps (drained_calm hd hc)
    (drained_reaches hd _ _ _ _ hr)
  have hrec := recordRead_of hd hth hs hc
  refine ⟨v.useUp, ?_, hrec⟩
  have hal' : guardAlign (s.x a).toNat 128 (withRelease (some .host) (loadThen (s.x a) 128 fun v =>
      withCtx (BitVec.ofNat 16 (bits (recWord v 7) 15 0)) (enterLaunch d v (launchSup s n)))) s =
        withRelease (some .host) (loadThen (s.x a) 128 fun v =>
          withCtx (BitVec.ofNat 16 (bits (recWord v 7) 15 0)) (enterLaunch d v (launchSup s n))) s := if_pos hal
  unfold runLaunch
  rw [consumeX_clean [a] _ s (by simpa using ha), guardLatent_none _ s hheld]
  refine hal'.trans (hu.trans (hv.trans ?_))
  rw [withCtx_of_open _ _ _ hrec.calm.1, drained_spanRead hd hstag]

/-! The entry into the table. -/

theorem enterLaunch_of_refused (d : Reg) (v sup : Nat) (s : State) (h : s.launchStatus v ≠ 0) :
    enterLaunch d v sup s = (s.setX d (w64 (s.launchStatus v))).adv := by
  unfold enterLaunch
  split
  · next h0 => exact absurd h0 h
  · rfl

/-- What follows a launch that has entered the table (R78). -/
def launchNext (v h : Nat) : Instr :=
  let ctl := v / 2 ^ 64 % 2 ^ 64
  if ctl % 2 ^ 32 = 0 then .launchComplete h else if ctl / 2 ^ 48 % 2 ^ 10 = 0 then .dealTask h else .bandAdmit h

theorem recWord_toNat (v i : Nat) : (recWord v i).toNat = v / 2 ^ (64 * i) % 2 ^ 64 := by
  simp [recWord, w64, fieldAt]

theorem launchOf_ctl (v sup : Nat) : let ctl := v / 2 ^ 64 % 2 ^ 64
    (launchOf v sup).ntask = ctl % 2 ^ 32 ∧ (launchOf v sup).gangw = ctl / 2 ^ 32 % 8 ∧ (launchOf v sup).team = ctl / 2 ^ 35 % 16 ∧
      (launchOf v sup).prio = ctl / 2 ^ 40 % 4 ∧ (launchOf v sup).fpol = ctl / 2 ^ 42 % 4 ∧
      (launchOf v sup).partn = ctl / 2 ^ 44 % 16 ∧ (launchOf v sup).bandg = ctl / 2 ^ 48 % 2 ^ 10 := by
  have h : (recWord v 1).toNat = v / 2 ^ 64 % 2 ^ 64 := recWord_toNat v 1
  refine ⟨?_, congrArg (· / 2 ^ 32 % 8) h, congrArg (· / 2 ^ 35 % 16) h, congrArg (· / 2 ^ 40 % 4) h,
    congrArg (· / 2 ^ 42 % 4) h, congrArg (· / 2 ^ 44 % 16) h, congrArg (· / 2 ^ 48 % 2 ^ 10) h⟩
  rw [← h]
  simp [launchOf, bits]

theorem recWord_context (v i : Nat) :
    (BitVec.ofNat 16 (bits (recWord v i) 15 0)).toNat = v / 2 ^ (64 * i) % 2 ^ 64 % 2 ^ 16 := by
  simp [bits, recWord_toNat]

theorem enterLaunch_of_accepted (d : Reg) (v sup h : Nat) (s : State) (h0 : s.launchStatus v = 0) (hf : s.freeHandle sup = some h) :
    enterLaunch d v sup s =
      ((({ s with launches := mapSet s.launches h (launchOf v sup) } : State).setX d (w64 (256 * h))).adv).later (launchNext v h) := by
  obtain ⟨hn, -, -, -, -, -, hb⟩ := launchOf_ctl v sup
  unfold enterLaunch launchNext
  simp only [h0, hf, hn, hb]
  split
  · rfl
  · split <;> rfl

theorem keeps_launches (s : State) (m : Map Launch) : Keeps s { s with launches := m } :=
  ⟨⟨rfl, rfl, fun _ => rfl, fun _ _ _ => rfl, fun _ => rfl⟩, fun _ => ⟨rfl, rfl⟩⟩

theorem keeps_later (s : State) (i : Instr) : Keeps s (s.later i) :=
  ⟨⟨rfl, rfl, fun _ => rfl, fun _ _ _ => rfl, fun _ => rfl⟩, fun _ => ⟨rfl, rfl⟩⟩

/-- Settles O34: the record is read behind a release, and the entry into the table is written out. -/
theorem launchResults : Obligations.LaunchResults := by
  unfold Obligations.LaunchResults
  intro d a n s hm hn ha hq hc hal ps hr v word ctl
  obtain ⟨u, hrun, hrec⟩ := runLaunch_reads d a n s ha hq hc hal ps hr
  have hx : exec (.launch d a n) s = .next (enterLaunch d v (launchSup s n) u) := by rw [launch_eq d a n s hm hn, hrun]
  have hst : u.launchStatus v = s.launchStatus v := hrec.tables.launchStatus v
  refine ⟨fun h => ?_, fun h h0 hf => ?_⟩
  · rw [enterLaunch_of_refused d v _ u (by rw [hst]; exact h), hst] at hx
    refine ⟨_, hx, ?_, keeps_trans hrec.keeps (keeps_trans (keeps_setX u d _) (keeps_adv _)), hrec.tables.launches⟩
    rw [setX_adv_th, hrec.th]
    rfl
  · have hfree : u.freeHandle (launchSup s n) = some h := (hrec.tables.freeHandle _).trans hf
    rw [enterLaunch_of_accepted d v _ h u (by rw [hst, h0]) hfree] at hx
    obtain ⟨c1, c2, c3, c4, c5, c6, c7⟩ := launchOf_ctl v (launchSup s n)
    refine ⟨_, launchOf v (launchSup s n), hx, ?_, ?_, mapGet_mapSet_same _ _ _, fun k hk => ?_, recWord_toNat v 0,
      c1, c2, c3, c4, c5, c6, c7, recWord_toNat v 2, recWord_toNat v 3, recWord_toNat v 4, recWord_toNat v 5, recWord_toNat v 6,
      recWord_context v 7, rfl, rfl, rfl, u.agenda, rfl⟩
    · show (State.adv _).th = _
      rw [setX_adv_th]
      show ({ u.th with regs := u.th.regs.wx d (w64 (256 * h)), pc := u.th.pc + 4 } : Thread) = _
      rw [hrec.th]
      rfl
    · exact keeps_trans hrec.keeps (keeps_trans (keeps_launches u _) (keeps_trans (keeps_setX _ d _)
        (keeps_trans (keeps_adv _) (keeps_later _ _))))
    · exact (mapGet_mapSet_ne _ _ _ _ hk).trans (by rw [hrec.tables.launches])

end Sys2Proof.Proofs
end

section
/-! PROOF. Bytes of device memory (R87, R90, R91, R100): what a write-back, a recall and a store do to them. -/

namespace Sys2Proof.Proofs

open Sys2Proof.Machine Sys2Proof.Claims Sys2Proof.Laws

/-- Memory is in canonical form, and no two bytes of declared tiles stand at one place of shadow storage. -/
structure FramedMemory (s : State) : Prop where
  wf : s.mem.wf = true
  apart : ∀ a b p q, s.tileOver a = some p → s.tileOver b = some q → p.2.frameByte p.1 a = q.2.frameByte q.1 b → a = b

/-- No tile is declared, and memory is in canonical form. -/
structure PlainMemory (s : State) : Prop where
  tiles : s.tiles = []
  wf : s.mem.wf = true

theorem PlainMemory.tileOver {s : State} (h : PlainMemory s) (pa : Nat) : s.tileOver pa = none := by
  simp [State.tileOver, h.tiles]

theorem PlainMemory.framed {s : State} (h : PlainMemory s) : FramedMemory s :=
  ⟨h.wf, fun a _ _ _ ha => by rw [h.tileOver] at ha; cases ha⟩

theorem PlainMemory.physByte {s : State} (h : PlainMemory s) (a : Nat) :
    s.physByte a = (mapGet s.dirty a).getD (memByte s.mem a) := by
  unfold State.physByte State.backing
  rw [h.tileOver]
  cases mapGet s.dirty a <;> rfl

/-- Dirty bytes have gone to the visible frames, with the requests of the channels; every byte is as it was. -/
structure WrittenBack (s t : State) : Prop where
  rest : ∃ m d c sh, t = { s with mem := m, dirty := d, channels := c, shadow := sh }
  framed : FramedMemory t
  byte : ∀ a, t.physByte a = s.physByte a
  clean : ∀ a, mapGet s.dirty a = none → mapGet t.dirty a = none

namespace WrittenBack

variable {s t u : State}

theorem refl (h : FramedMemory s) : WrittenBack s s := ⟨⟨_, _, _, _, rfl⟩, h, fun _ => rfl, fun _ => id⟩

theorem trans (a : WrittenBack s t) (b : WrittenBack t u) : WrittenBack s u := by
  obtain ⟨_, _, _, _, rfl⟩ := a.rest
  obtain ⟨_, _, _, _, hu⟩ := b.rest
  exact ⟨⟨_, _, _, _, hu⟩, b.framed, fun x => (b.byte x).trans (a.byte x), fun x h => b.clean x (a.clean x h)⟩

theorem tiles (h : WrittenBack s t) : t.tiles = s.tiles := by
  obtain ⟨_, _, _, _, rfl⟩ := h.rest
  rfl

theorem plain (h : WrittenBack s t) (hp : PlainMemory s) : PlainMemory t := ⟨h.tiles.trans hp.tiles, h.framed.wf⟩

theorem lines (h : WrittenBack s t) : t.lines = s.lines := by
  obtain ⟨_, _, _, _, rfl⟩ := h.rest
  rfl

theorem lineAt (h : WrittenBack s t) (l : Nat) : t.lineAt l = s.lineAt l := by rw [State.lineAt, h.lines]; rfl

/-- The requests of a channel. -/
theorem channelTake (h : FramedMemory s) (pa : Nat) (wr : Bool) : WrittenBack s (s.channelTake pa wr) := by
  unfold State.channelTake
  split
  · split
    · exact ⟨⟨_, _, _, _, rfl⟩, ⟨h.wf, h.apart⟩, fun _ => rfl, fun _ => id⟩
    · exact refl h
  · exact refl h

theorem writeRequest (h : FramedMemory s) (line : Nat) : WrittenBack s (s.writeRequest line) := by
  unfold State.writeRequest
  split
  · exact channelTake h _ _
  · exact refl h

theorem foldl {α : Type} (f : State → α → State) (hf : ∀ u a, FramedMemory u → WrittenBack u (f u a)) (h : FramedMemory s)
    (l : List α) : WrittenBack s (l.foldl f s) :=
  List.foldlRecOn l f (refl h) fun t ht a _ => ht.trans (hf t a ht.framed)

end WrittenBack

/-! The frame that is visible (R103). -/

/-- Whether the visible byte of an address stands in shadow storage. -/
def InShadow (s : State) (a : Nat) (p : Nat × Tile) : Prop := s.tileOver a = some p ∧ p.2.gen = true

theorem backing_of_shadow {s : State} {a : Nat} {p : Nat × Tile} (h : InShadow s a p) :
    s.backing a = (mapGet s.shadow (p.2.frameByte p.1 a)).getD 0 := by
  obtain ⟨pb, t⟩ := p
  obtain ⟨ht, hg⟩ := h
  simp only [State.backing, ht]
  exact if_pos hg

theorem backing_of_memory {s : State} {a : Nat} (h : ¬∃ p, InShadow s a p) : s.backing a = memByte s.mem a := by
  unfold State.backing
  split
  · next pb t ht => exact if_neg fun hg => h ⟨(pb, t), ht, hg⟩
  · rfl

theorem putBacking_of_shadow {s : State} {a : Nat} {p : Nat × Tile} (h : InShadow s a p) (b : Byte) :
    s.putBacking a b = { s with shadow := mapSet s.shadow (p.2.frameByte p.1 a) b } := by
  obtain ⟨pb, t⟩ := p
  obtain ⟨ht, hg⟩ := h
  simp only [State.putBacking, ht]
  exact if_pos hg

theorem putBacking_of_memory {s : State} {a : Nat} (h : ¬∃ p, InShadow s a p) (b : Byte) :
    s.putBacking a b = { s with mem := memPut s.mem a b } := by
  unfold State.putBacking
  split
  · next pb t ht => exact if_neg fun hg => h ⟨(pb, t), ht, hg⟩
  · rfl

theorem physByte_of_dirty {s : State} {a : Nat} {b : Byte} (h : mapGet s.dirty a = some b) : s.physByte a = b := by
  simp only [State.physByte, h]

theorem physByte_of_clean {s : State} {a : Nat} (h : mapGet s.dirty a = none) : s.physByte a = s.backing a := by
  simp only [State.physByte, h]

/-- Bytes of which the one is dirty or not as the other, and that stand in one place. -/
theorem physByte_congr {s t : State} {a : Nat} (hd : mapGet t.dirty a = mapGet s.dirty a) (hb : t.backing a = s.backing a) :
    t.physByte a = s.physByte a := by
  simp only [State.physByte, hd, hb]

theorem backing_putBacking_same {s : State} (h : FramedMemory s) (a : Nat) (b : Byte) : (s.putBacking a b).backing a = b := by
  by_cases hs : ∃ p, InShadow s a p
  · obtain ⟨p, hp⟩ := hs
    rw [putBacking_of_shadow hp]
    have hp' : InShadow { s with shadow := mapSet s.shadow (p.2.frameByte p.1 a) b } a p := hp
    rw [backing_of_shadow hp']
    simp
  · rw [putBacking_of_memory hs]
    have hs' : ¬∃ p, InShadow { s with mem := memPut s.mem a b } a p := hs
    rw [backing_of_memory hs']
    exact memByte_memPut_same s.mem 0 a b h.wf

theorem backing_putBacking_ne {s : State} (h : FramedMemory s) (a c : Nat) (b : Byte) (hne : c ≠ a) :
    (s.putBacking a b).backing c = s.backing c := by
  by_cases hs : ∃ p, InShadow s a p
  · obtain ⟨p, hp⟩ := hs
    rw [putBacking_of_shadow hp]
    by_cases hc : ∃ q, InShadow s c q
    · obtain ⟨q, hq⟩ := hc
      have hq' : InShadow { s with shadow := mapSet s.shadow (p.2.frameByte p.1 a) b } c q := hq
      have hf : q.2.frameByte q.1 c ≠ p.2.frameByte p.1 a := fun hf => hne (h.apart _ _ _ _ hq.1 hp.1 hf)
      rw [backing_of_shadow hq', backing_of_shadow hq]
      exact congrArg (Option.getD · 0) (mapGet_mapSet_ne _ _ _ _ hf)
    · have hc' : ¬∃ q, InShadow { s with shadow := mapSet s.shadow (p.2.frameByte p.1 a) b } c q := hc
      rw [backing_of_memory hc', backing_of_memory hc]
  · rw [putBacking_of_memory hs]
    by_cases hc : ∃ q, InShadow s c q
    · obtain ⟨q, hq⟩ := hc
      have hq' : InShadow { s with mem := memPut s.mem a b } c q := hq
      rw [backing_of_shadow hq', backing_of_shadow hq]
    · have hc' : ¬∃ q, InShadow { s with mem := memPut s.mem a b } c q := hc
      rw [backing_of_memory hc', backing_of_memory hc]
      exact memByte_memPut_ne _ _ _ _ hne

theorem putBacking_rest {s : State} (h : FramedMemory s) (a : Nat) (b : Byte) : ∃ m sh,
    s.putBacking a b = { s with mem := m, shadow := sh } ∧ m.wf = true := by
  by_cases hs : ∃ p, InShadow s a p
  · obtain ⟨p, hp⟩ := hs
    exact ⟨_, _, putBacking_of_shadow hp b, h.wf⟩
  · exact ⟨_, _, putBacking_of_memory hs b, wf_memPut _ _ _ h.wf⟩

namespace WrittenBack

variable {s t u : State}

/-- One dirty byte moves to the frame that is visible. -/
theorem byteBack (h : FramedMemory s) (a : Nat) (b : Byte) (hd : mapGet s.dirty a = some b) :
    WrittenBack s { s.putBacking a b with dirty := mapErase s.dirty a } := by
  have hsame := backing_putBacking_same h a b
  have hne := fun c => backing_putBacking_ne h a c b
  obtain ⟨m, sh, hp, hw⟩ := putBacking_rest h a b
  rw [hp] at hsame hne ⊢
  refine ⟨⟨_, _, _, _, rfl⟩, ⟨hw, h.apart⟩, fun c => ?_, fun c hc => ?_⟩
  · by_cases hca : c = a
    · subst hca
      rw [physByte_of_dirty hd]
      exact (physByte_of_clean (mapGet_mapErase_same _ _)).trans hsame
    · exact physByte_congr (mapGet_mapErase_ne _ _ _ hca) (hne c hca)
  · by_cases hca : c = a
    · subst hca
      exact mapGet_mapErase_same _ _
    · exact (mapGet_mapErase_ne _ _ _ hca).trans hc

theorem writeBack (n : Nat) : ∀ (s : State) (pa : Nat), FramedMemory s → WrittenBack s (s.writeBack pa n) ∧
    ∀ a, pa ≤ a → a < pa + n → mapGet (s.writeBack pa n).dirty a = none := by
  induction n with
  | zero => exact fun s pa h => ⟨refl h, fun a h1 h2 => by omega⟩
  | succ n ih =>
    intro s pa h
    unfold State.writeBack
    cases hd : mapGet s.dirty pa with
    | none =>
      obtain ⟨hb, hc⟩ := ih s (pa + 1) h
      refine ⟨hb, fun a h1 h2 => ?_⟩
      by_cases he : a = pa
      · exact hb.clean a (he ▸ hd)
      · exact hc a (by omega) (by omega)
    | some b =>
      have h1 := byteBack h pa b hd
      obtain ⟨hb, hc⟩ := ih _ (pa + 1) h1.framed
      refine ⟨h1.trans hb, fun a hl hu => ?_⟩
      by_cases he : a = pa
      · exact hb.clean a (by simp [he])
      · exact hc a (by omega) (by omega)

/-- Sectors written back one after the other. -/
theorem sectors (l : List Nat) : ∀ s : State, FramedMemory s →
    let t := l.foldl (fun s q => s.writeBack q 16) s
    WrittenBack s t ∧ ∀ q ∈ l, ∀ a, q ≤ a → a < q + 16 → mapGet t.dirty a = none := by
  induction l with
  | nil => exact fun s h => ⟨refl h, fun q hq => by simp at hq⟩
  | cons i l ih =>
    intro s h
    rw [List.foldl_cons]
    obtain ⟨hb, hc⟩ := writeBack 16 s i h
    obtain ⟨hb', hc'⟩ := ih _ hb.framed
    refine ⟨hb.trans hb', fun q hq a h1 h2 => ?_⟩
    rcases List.mem_cons.1 hq with rfl | hq
    · exact hb'.clean a (hc a h1 h2)
    · exact hc' q hq a h1 h2

/-- While no tile is declared, every sector of a line is its own. -/
theorem lineSectors (line : Nat) (l : List Nat) : ∀ s : State, PlainMemory s →
    l.foldl (fun s j => match s.tileOver (line * 128 + 16 * j) with
      | some _ => s
      | none => s.writeBack (line * 128 + 16 * j) 16) s =
    (l.map fun j => line * 128 + 16 * j).foldl (fun s q => s.writeBack q 16) s := by
  induction l with
  | nil => simp
  | cons i l ih =>
    intro s h
    have hp : PlainMemory (s.writeBack (line * 128 + 16 * i) 16) := (writeBack 16 s (line * 128 + 16 * i) h.framed).1.plain h
    rw [List.foldl_cons, List.map_cons, List.foldl_cons, h.tileOver]
    exact ih _ hp

/-- After a line is written back none of its bytes is dirty. -/
theorem lineWriteBack (h : PlainMemory s) (line : Nat) : WrittenBack s (s.lineWriteBack line) ∧
    ∀ a, a / 128 = line → mapGet (s.lineWriteBack line).dirty a = none := by
  have hr := writeRequest h.framed line
  have hl : s.lineWriteBack line = _ := lineSectors line (List.range 8) _ (hr.plain h)
  obtain ⟨hb, hc⟩ := sectors ((List.range 8).map fun j => line * 128 + 16 * j) _ hr.framed
  rw [hl]
  refine ⟨hr.trans hb, fun a ha => hc (line * 128 + 16 * (a % 128 / 16)) ?_ a (by omega) (by omega)⟩
  exact List.mem_map.2 ⟨a % 128 / 16, List.mem_range.2 (by omega), rfl⟩

end WrittenBack

/-- What the home of a line touches when it serves a request: memory, the caches, the line entries, what waits for a kill, and
what is due. -/
def HomeSide (s t : State) : Prop := ∃ m d sh c l a k th ks ki cm, t = { s with
  mem := m, dirty := d, shadow := sh, channels := c, lines := l, agenda := a, core := k, th := th, cores := ks, kills := ki
  coreMaps := cm }

namespace HomeSide

variable {s t u : State}

theorem refl (s : State) : HomeSide s s := ⟨_, _, _, _, _, _, _, _, _, _, _, rfl⟩

theorem trans (a : HomeSide s t) (b : HomeSide t u) : HomeSide s u := by
  obtain ⟨_, _, _, _, _, _, _, _, _, _, _, rfl⟩ := a
  obtain ⟨_, _, _, _, _, _, _, _, _, _, _, rfl⟩ := b
  exact ⟨_, _, _, _, _, _, _, _, _, _, _, rfl⟩

theorem of_writtenBack (h : WrittenBack s t) : HomeSide s t := by
  obtain ⟨_, _, _, _, rfl⟩ := h.rest
  exact ⟨_, _, _, _, _, _, _, _, _, _, _, rfl⟩

theorem of_onlyCores (h : OnlyCores s t) : HomeSide s t := by
  obtain ⟨_, _, _, rfl⟩ := h
  exact ⟨_, _, _, _, _, _, _, _, _, _, _, rfl⟩

theorem of_due (h : OnlyDue s t) : HomeSide s t := by
  obtain ⟨_, rfl⟩ := h
  exact ⟨_, _, _, _, _, _, _, _, _, _, _, rfl⟩

theorem of_seen (h : Seen s t) : HomeSide s t := by
  rw [h.rest]
  exact ⟨_, _, _, _, _, _, _, _, _, _, _, rfl⟩

theorem setLine (s : State) (line : Nat) (e : LineEntry) : HomeSide s (s.setLine line e) := by
  rw [setLine_rest]
  exact ⟨_, _, _, _, _, _, _, _, _, _, _, rfl⟩

theorem outbox (h : HomeSide s t) : t.outbox = s.outbox := by
  obtain ⟨_, _, _, _, _, _, _, _, _, _, _, rfl⟩ := h
  rfl

theorem lostDies (h : HomeSide s t) : t.lostDies = s.lostDies := by
  obtain ⟨_, _, _, _, _, _, _, _, _, _, _, rfl⟩ := h
  rfl

theorem psect (h : HomeSide s t) : t.psect = s.psect := by
  obtain ⟨_, _, _, _, _, _, _, _, _, _, _, rfl⟩ := h
  rfl

end HomeSide

/-! A line recalled, and a line made clean (R61, R90). -/

theorem setLine_bytes (s : State) (line : Nat) (e : LineEntry) : (s.setLine line e).mem = s.mem ∧
    (s.setLine line e).dirty = s.dirty ∧ (s.setLine line e).tiles = s.tiles ∧ ∀ a, (s.setLine line e).physByte a = s.physByte a := by
  rw [setLine_rest]
  exact ⟨rfl, rfl, rfl, fun _ => rfl⟩

/-- Some bytes of a line have gone to memory, its entry is another, and no more has changed outside the cores. -/
structure LineTurned (line : Nat) (e : LineEntry) (s t : State) : Prop where
  side : HomeSide s t
  plain : PlainMemory t
  byte : ∀ a, t.physByte a = s.physByte a
  clean : ∀ a, mapGet s.dirty a = none → mapGet t.dirty a = none
  entry : t.lineAt line = e
  rest : ∀ l, l ≠ line → t.lineAt l = s.lineAt l

theorem lineTurned_setLine {s t : State} (hp : PlainMemory s) (h : WrittenBack s t) (line : Nat) (e : LineEntry) :
    LineTurned line e s (t.setLine line e) := by
  obtain ⟨hm, hd, ht, hb⟩ := setLine_bytes t line e
  exact ⟨(HomeSide.of_writtenBack h).trans (.setLine t line e), ⟨ht.trans (h.plain hp).tiles, hm ▸ h.framed.wf⟩,
    fun a => (hb a).trans (h.byte a), fun a ha => by rw [hd]; exact h.clean a ha, by rw [lineAt_setLine, if_pos rfl],
    fun l hl => by rw [lineAt_setLine, if_neg hl, h.lineAt]⟩

theorem LineTurned.onlyCores {line : Nat} {e : LineEntry} {s t u : State} (h : LineTurned line e s t) (hc : OnlyCores t u) :
    LineTurned line e s u := by
  have hb := onlyCores_physByte hc
  have hs := h.side.trans (.of_onlyCores hc)
  obtain ⟨_, _, _, rfl⟩ := hc
  exact ⟨hs, ⟨h.plain.tiles, h.plain.wf⟩, fun a => (hb a).trans (h.byte a), h.clean, h.entry, h.rest⟩

theorem onlyCores_uncache (s : State) (line : Nat) : OnlyCores s (s.uncache line) := onlyCores_mapCores s _

theorem onlyCores_invalidateOthers (s : State) (line : Nat) (c : CoreId) : OnlyCores s (s.invalidateOthers line c) :=
  onlyCores_mapCores s _

/-- A line that some die holds is given up. -/
theorem recall_of_held {s : State} (h : PlainMemory s) (line : Nat) {d : Nat} (hh : (s.lineAt line).held = some d) :
    LineTurned line (s.lineAt line).freed s (s.recall line) ∧
      ((s.lineAt line).state = 2 → ∀ a, a / 128 = line → mapGet (s.recall line).dirty a = none) := by
  obtain ⟨hw, hc⟩ := WrittenBack.lineWriteBack h line
  simp only [State.recall, hh]
  split
  · have ht := lineTurned_setLine h hw line (s.lineAt line).freed
    rw [hw.lineAt]
    refine ⟨ht.onlyCores (onlyCores_uncache _ _), fun _ a ha => ?_⟩
    exact (congrArg (mapGet · a) (setLine_bytes _ line _).2.1).trans (hc a ha)
  · next hn => exact ⟨(lineTurned_setLine h (.refl h.framed) line _).onlyCores (onlyCores_uncache _ _), fun h2 => absurd h2 hn⟩

theorem recall_of_free (s : State) (line : Nat) (hh : (s.lineAt line).held = none) : s.recall line = s := by
  simp only [State.recall, hh]

/-- No byte of a line can be dirty beside its holder's copy. -/
def Coherent (s : State) (line : Nat) : Prop := (s.lineAt line).state = 2 ∨ ∀ a, a / 128 = line → mapGet s.dirty a = none

/-- A recalled line: no die holds it, its host states stay, and none of its bytes is dirty. -/
theorem recall_effect {s : State} (h : PlainMemory s) (line : Nat) (hc : Coherent s line) :
    let t := s.recall line
    ∃ e, LineTurned line e s t ∧ e.held = none ∧ e.hlo = (s.lineAt line).hlo ∧ e.hhi = (s.lineAt line).hhi ∧
      ∀ a, a / 128 = line → mapGet t.dirty a = none := by
  cases hh : (s.lineAt line).held with
  | none =>
    have hs : (s.lineAt line).state ≠ 2 := by
      intro h2
      simp [LineEntry.held, h2] at hh
    rw [recall_of_free s line hh]
    exact ⟨s.lineAt line, ⟨.refl s, h, fun _ => rfl, fun _ => id, rfl, fun _ _ => rfl⟩, hh, rfl, rfl, hc.resolve_left hs⟩
  | some d =>
    obtain ⟨ht, hd⟩ := recall_of_held h line hh
    exact ⟨_, ht, rfl, rfl, rfl, fun a ha => hc.elim (fun h2 => hd h2 a ha) fun hn => ht.clean a (hn a ha)⟩

theorem makeClean_effect {s : State} (h : PlainMemory s) (line : Nat) :
    ∃ e, LineTurned line e s (s.makeClean line) ∧ e.hlo = (s.lineAt line).hlo ∧ e.hhi = (s.lineAt line).hhi := by
  unfold State.makeClean
  dsimp only
  split
  · obtain ⟨hw, -⟩ := WrittenBack.lineWriteBack h line
    exact ⟨_, lineTurned_setLine h hw line _, by rw [hw.lineAt], by rw [hw.lineAt]⟩
  · exact ⟨_, ⟨.refl s, h, fun _ => rfl, fun _ => id, rfl, fun _ _ => rfl⟩, rfl, rfl⟩

/-! Host states (R61). -/

theorem hostState_setHostState_same (s : State) (half : Nat) (v : BitVec 2) : (s.setHostState half v).hostState half = v := by
  unfold State.setHostState State.hostState
  dsimp only
  rw [lineAt_setLine, if_pos rfl]
  split <;> rfl

theorem held_setHostState (s : State) (half : Nat) (v : BitVec 2) :
    ((s.setHostState half v).lineAt (half / 2)).held = (s.lineAt (half / 2)).held := by
  unfold State.setHostState
  dsimp only
  rw [lineAt_setLine, if_pos rfl]
  split <;> rfl

end Sys2Proof.Proofs
end

section
/-! PROOF. The host (R59, R61 to R68, R112): decoders, reads and writes, back-invalidation, CXL ports and snoops. -/

namespace Sys2Proof.Proofs

open Sys2Proof.Machine Sys2Proof.Claims Sys2Proof.Laws

/-! Bytes of a half. -/

theorem leRead_lt (f : Nat → Byte) (n : Nat) : ∀ a, leRead f a n < 256 ^ n := by
  induction n with
  | zero => exact fun _ => by simp [leRead]
  | succ n ih =>
    intro a
    have hb := (f a).isLt
    have hr := ih (a + 1)
    rw [leRead, Nat.pow_succ]
    omega

theorem leRead_byte (f : Nat → Byte) (n : Nat) : ∀ a i, i < n → leRead f a n / 256 ^ i % 256 = (f (a + i)).toNat := by
  induction n with
  | zero => exact fun a i h => absurd h (Nat.not_lt_zero i)
  | succ n ih =>
    intro a i h
    have hb := (f a).isLt
    cases i with
    | zero => rw [leRead]; simp; omega
    | succ i =>
      have hd : ((f a).toNat + 256 * leRead f (a + 1) n) / 256 = leRead f (a + 1) n := by omega
      rw [leRead, Nat.pow_succ', ← Nat.div_div_eq_div_mul, hd, ih _ _ (by omega)]
      congr 2
      omega

theorem leRead_vec_byte (f : Nat → Byte) (a n i : Nat) (h : i < n) :
    (BitVec.ofNat (8 * n) (leRead f a n)).toNat / 256 ^ i % 256 = (f (a + i)).toNat := by
  have hlt : leRead f a n < 2 ^ (8 * n) := by
    rw [Nat.pow_mul]
    exact leRead_lt f n a
  rw [BitVec.toNat_ofNat, Nat.mod_eq_of_lt hlt]
  exact leRead_byte f n a i h

theorem halfData_byte (s : State) (half i : Nat) (h : i < 64) :
    (s.halfData half).toNat / 256 ^ i % 256 = (s.physByte (64 * half + i)).toNat := leRead_vec_byte _ _ 64 i h

/-! Decoders (R59). -/

theorem decoderOk_iff (d : HdmDecoder) : decoderOk d = true ↔
    (d.ways = 1 ∨ d.ways = 2 ∨ d.ways = 4) ∧ d.gran ∈ [256, 512, 1024, 2048, 4096, 8192, 16384] := by
  unfold decoderOk
  rw [Bool.and_eq_true, List.contains_iff_mem]
  simp [or_assoc]

/-- The settings agree with every other decoder that is committed. -/
def sameSettings (s : State) (port : Fin 4) (dec : HdmDecoder) : Bool :=
  (List.finRange 4).all fun q => q == port || !s.cxl[q].committed || s.cxl[q].settings == dec

theorem sameSettings_iff (s : State) (port : Fin 4) (dec : HdmDecoder) : sameSettings s port dec = true ↔
    ∀ q : Fin 4, q ≠ port → s.cxl[q].committed = true → s.cxl[q].settings = dec := by
  simp only [sameSettings, List.all_eq_true, List.mem_finRange, true_implies, Bool.or_eq_true, beq_iff_eq, Bool.not_eq_true']
  refine forall_congr' fun q => ⟨fun h hq hc => ?_, fun h => ?_⟩
  · rcases h with (h | h) | h
    · exact absurd h hq
    · rw [hc] at h; cases h
    · exact h
  · by_cases hq : q = port
    · exact .inl (.inl hq)
    · cases hc : s.cxl[q].committed with
      | false => exact .inl (.inr rfl)
      | true => exact .inr (h hq hc)

theorem decoderCommit_eq (s : State) (port : Fin 4) (dec : HdmDecoder) (hb : s.bootState ≠ 2) :
    exec (.hdmDecoderCommit port dec) s = .next { s with cxl := s.cxl.set port { s.cxl[port] with
      committed := decoderOk dec && sameSettings s port dec, failed := !(decoderOk dec && sameSettings s port dec)
      hostBase := dec.hostBase, dpaBase := dec.dpaBase, size := dec.size, ways := dec.ways, gran := dec.gran } } := by
  have ha : ¬(!s.answersHost) = true := by simpa [State.answersHost] using hb
  exact congrArg Host.Outcome.next (if_neg ha)

theorem answersHost_of_failed {s : State} (hb : s.bootState = 2) : s.answersHost = false := by simp [State.answersHost, hb]

theorem hostReaches_of_failed {s : State} (hb : s.bootState = 2) (pa : Nat) : s.hostReaches pa = false := by
  simp [State.hostReaches, answersHost_of_failed hb]

/-! Reads (R61). -/

theorem frameTake_plain {s : State} (h : PlainMemory s) (pa n : Nat) (wr : Bool) : s.frameTake pa n wr = s := by
  simp [State.frameTake, State.frameLines, h.tileOver]

theorem halfCovered_plain {s : State} (h : PlainMemory s) (half : Nat) : s.halfCovered half = false := by
  simp [State.halfCovered, h.tileOver]

/-- The request counted and sent to the channel: bytes, holder and host states stay. -/
theorem hostAsked_effect {s : State} (h : PlainMemory s) (line pa : Nat) :
    let t := (s.hostAsked line).hostTake pa
    ∃ e, LineTurned line e s t ∧ t.dirty = s.dirty ∧ e.state = (s.lineAt line).state ∧ e.hlo = (s.lineAt line).hlo ∧
      e.hhi = (s.lineAt line).hhi := by
  have hask : ∃ e, LineTurned line e s (s.hostAsked line) ∧ (s.hostAsked line).dirty = s.dirty ∧
      e.state = (s.lineAt line).state ∧ e.hlo = (s.lineAt line).hlo ∧ e.hhi = (s.lineAt line).hhi := by
    unfold State.hostAsked
    split
    · exact ⟨_, lineTurned_setLine h (.refl h.framed) line _, (setLine_bytes s line _).2.1, rfl, rfl, rfl⟩
    · exact ⟨_, ⟨.refl s, h, fun _ => rfl, fun _ => id, rfl, fun _ _ => rfl⟩, rfl, rfl, rfl, rfl⟩
  obtain ⟨e, ht, hd, hs, h0, h1⟩ := hask
  refine ⟨e, ?_, ?_, hs, h0, h1⟩
  all_goals
    unfold State.hostTake
    split
  · have hw := WrittenBack.channelTake ht.plain.framed pa false
    exact ⟨ht.side.trans (.of_writtenBack hw), hw.plain ht.plain, fun a => (hw.byte a).trans (ht.byte a),
      fun a ha => hw.clean a (ht.clean a ha), (hw.lineAt _).trans ht.entry, fun l hl => (hw.lineAt l).trans (ht.rest l hl)⟩
  · rwa [frameTake_plain ht.plain]
  · unfold State.channelTake
    split
    · split <;> exact hd
    · exact hd
  · rwa [frameTake_plain ht.plain]

/-- A read is served at once where nothing holds it up. -/
theorem hostMemRead_eq (s : State) (pa : Nat) (wantA : Bool) (hr : s.hostReaches pa = true) (hw : s.hostWaits (pa / 64) = false)
    (room : s.roomFor (pa / 128) = true) : exec (.hostMemRead pa wantA) s = .next (s.hostRead (pa / 64) wantA) := by
  have hm : State.makeRoom (lineOf pa) s.lines.length s = (true, s) := by
    cases s.lines.length with
    | zero => exact congrArg (·, s) room
    | succ n => exact if_pos room
  show execHostMemRead pa wantA s = _
  have hw' : s.hostWaits (halfOf pa) = false := hw
  simp only [execHostMemRead, hr, hw', hm, Bool.not_true, Bool.false_eq_true, if_false]
  rfl

theorem hostMemRead_of_waiting (s : State) (pa : Nat) (wantA : Bool) (hr : s.hostReaches pa = true)
    (hw : s.hostWaits (pa / 64) = true) (hb : (s.lineAt (pa / 128)).broken = false) :
    exec (.hostMemRead pa wantA) s = .next { s with hostHeld := s.hostHeld ++ [.hostMemRead pa wantA] } := by
  have hb' : (s.lineAt (pa / 64 / 2)).broken = false := by rwa [Nat.div_div_eq_div_mul]
  show execHostMemRead pa wantA s = _
  simp only [execHostMemRead, halfOf, hr, hw, Bool.not_true, Bool.false_eq_true, if_false, if_true, State.hostHold, hb', State.hold]

/-- Memory that answers as it is: nothing is lost and nothing is poisoned. -/
structure Sound (s : State) : Prop extends PlainMemory s where
  lost : s.lostDies = 0
  marks : s.psect = []

theorem Sound.of_side {s t : State} (h : Sound s) (hp : PlainMemory t) (hs : HomeSide s t) : Sound t :=
  ⟨hp, hs.lostDies.trans h.lost, hs.psect.trans h.marks⟩

theorem Sound.lostAt {s : State} (h : Sound s) (pa : Nat) : s.lostAt pa = false := by simp [State.lostAt, State.behind, h.lost]

theorem Sound.poisonedIn {s : State} (h : Sound s) (pa n : Nat) : s.poisonedIn pa n = false := by simp [State.poisonedIn, h.marks]

/-- The answer to a host read: the state granted, and the bytes. -/
theorem granted_effect (s : State) (half : Nat) (v : BitVec 2) :
    let t := (s.setHostState half v).out (.hostData (64 * half) ((s.setHostState half v).halfData half) false v)
    t.hostState half = v ∧ t.outbox = s.outbox ++ [.hostData (64 * half) (t.halfData half) false v] ∧
      (∀ a, t.physByte a = s.physByte a) ∧ (t.lineAt (half / 2)).held = (s.lineAt (half / 2)).held := by
  have ho : (s.setHostState half v).outbox = s.outbox := by
    unfold State.setHostState
    rw [setLine_rest]
  refine ⟨hostState_setHostState_same s half v, ?_, (setLine_bytes s _ _).2.2.2, held_setHostState s half v⟩
  show _ ++ _ = _
  rw [ho]
  rfl

/-- What the host gets: the state it asked for, and the bytes as they are. -/
theorem hostRead_effect (s : State) (half : Nat) (wantA : Bool) (h : Sound s) (hc : Coherent s (half / 2)) :
    let t := s.hostRead half wantA
    t.hostState half = (if wantA then 2 else 1) ∧
      t.outbox = s.outbox ++ [.hostData (64 * half) (t.halfData half) false (if wantA then 2 else 1)] ∧
      (∀ a, t.physByte a = s.physByte a) ∧ (wantA = true → (t.lineAt (half / 2)).held = none) := by
  obtain ⟨e, hu, hd, hs, -, -⟩ := hostAsked_effect h.toPlainMemory (half / 2) (64 * half)
  unfold State.hostRead
  dsimp only
  generalize (s.hostAsked (half / 2)).hostTake (64 * half) = u at hu hd
  have hsound : Sound u := h.of_side hu.plain hu.side
  rw [hsound.lostAt, hsound.poisonedIn, halfCovered_plain hu.plain]
  simp only [Bool.or_self, Bool.false_eq_true, if_false]
  cases wantA with
  | true =>
    have hcu : Coherent u (half / 2) := by
      rcases hc with h2 | hn
      · exact .inl (by rw [hu.entry, hs]; exact h2)
      · exact .inr fun a ha => by rw [hd]; exact hn a ha
    obtain ⟨e', hr, hheld, -, -, -⟩ := recall_effect hu.plain (half / 2) hcu
    have hv := hr.onlyCores (onlyCores_invalidateOthers (u.recall (half / 2)) (half / 2) hostSource.core)
    obtain ⟨g1, g2, g3, g4⟩ := granted_effect ((u.recall (half / 2)).invalidateOthers (half / 2) hostSource.core) half 2
    refine ⟨g1, g2.trans (congrArg (· ++ _) (hv.side.outbox.trans hu.side.outbox)),
      fun a => (g3 a).trans ((hv.byte a).trans (hu.byte a)), fun _ => g4.trans ?_⟩
    rw [hv.entry, hheld]
  | false =>
    obtain ⟨e', hv, -, -⟩ := makeClean_effect hu.plain (half / 2)
    obtain ⟨g1, g2, g3, -⟩ := granted_effect (u.makeClean (half / 2)) half 1
    exact ⟨g1, g2.trans (congrArg (· ++ _) (hv.side.outbox.trans hu.side.outbox)),
      fun a => (g3 a).trans ((hv.byte a).trans (hu.byte a)), fun hf => by cases hf⟩

/-! Writes (R63). -/

/-- Bytes of lines that no die holds are stored in memory. -/
theorem storeBytes_of_free (src : Source) (n : Nat) : ∀ (s : State) (pa v : Nat), PlainMemory s →
    (∀ i < n, (s.lineAt ((pa + i) / 128)).held = none) → s.storeBytes src pa n v = { s with mem := memWrite s.mem pa n v } := by
  induction n with
  | zero => exact fun _ _ _ _ _ => rfl
  | succ n ih =>
    intro s pa v h hf
    have h0 : (s.lineAt (lineOf pa)).held = none := hf 0 (by omega)
    have hb : s.storeByte src pa (BitVec.ofNat 8 v) = { s with mem := memPut s.mem pa (BitVec.ofNat 8 v) } := by
      simp only [State.storeByte, h.tileOver, State.lineStore, h0]
    have hplain : PlainMemory { s with mem := memPut s.mem pa (BitVec.ofNat 8 v) } := ⟨h.tiles, wf_memPut _ _ _ h.wf⟩
    rw [State.storeBytes, hb, ih _ (pa + 1) (v / 256) hplain]
    · rfl
    · intro i hi
      have := hf (i + 1) (by omega)
      rwa [show pa + (i + 1) = pa + 1 + i by omega] at this

theorem sendKills_side (s : State) (line : Nat) (c : CoreId) (tid : Nat) : HomeSide s (s.sendKills line c tid) ∧
    ∀ a, (s.sendKills line c tid).physByte a = s.physByte a := by
  unfold State.sendKills
  dsimp only
  split
  · refine List.foldlRecOn (motive := fun t => HomeSide s t ∧ ∀ a, t.physByte a = s.physByte a) _ _
      ⟨.setLine s _ _, (setLine_bytes s _ _).2.2.2⟩ fun t ht i _ => ?_
    split
    · split <;> split <;> exact ⟨ht.1.trans ⟨_, _, _, _, _, _, _, _, _, _, _, rfl⟩, ht.2⟩
    · exact ht
  · exact ⟨.refl s, fun _ => rfl⟩

/-- What every write to a line does besides leaves the bytes. -/
theorem lineWritten_side (s : State) (src : Source) (line : Nat) : HomeSide s (s.lineWritten src line) ∧
    ∀ a, (s.lineWritten src line).physByte a = s.physByte a := by
  obtain ⟨hk, hb⟩ := sendKills_side s line src.core src.tid
  have hc : OnlyCores (s.sendKills line src.core src.tid)
      (((s.sendKills line src.core src.tid).trigger line).invalidateOthers line src.core) :=
    OnlyCores.trans (onlyCores_mapCores _ _) (onlyCores_invalidateOthers _ _ _)
  have h := hk.trans (.of_onlyCores hc)
  have hb' := fun a => (onlyCores_physByte hc a).trans (hb a)
  unfold State.lineWritten
  dsimp only
  split
  · have hq := onlyDue_retryQueues (((s.sendKills line src.core src.tid).trigger line).invalidateOthers line src.core)
    refine ⟨h.trans (.of_due hq), fun a => ?_⟩
    obtain ⟨_, hq⟩ := hq
    rw [hq]
    exact hb' a
  · exact ⟨h, hb'⟩

theorem hostWrite_effect (s : State) (pa n v : Nat) (h : Sound s) (hc : Coherent s (pa / 128)) (hn : pa % 64 + n ≤ 64) :
    let t := s.hostWrite pa n v
    t.outbox = s.outbox ∧ (∀ i < n, t.physByte (pa + i) = BitVec.ofNat 8 (v / 256 ^ i)) ∧
      ∀ a, ¬(pa ≤ a ∧ a < pa + n) → t.physByte a = s.physByte a := by
  obtain ⟨e, hr, hheld, -, -, hclean⟩ := recall_effect h.toPlainMemory (pa / 128) hc
  have hw := WrittenBack.channelTake hr.plain.framed pa true
  have hline : ∀ i < n, (pa + i) / 128 = pa / 128 := fun i hi => by omega
  unfold State.hostWrite
  dsimp only [lineOf]
  have hstore := storeBytes_of_free hostSource n ((s.recall (pa / 128)).channelTake pa true) pa v (hw.plain hr.plain)
    fun i hi => by rw [hline i hi, hw.lineAt, hr.entry, hheld]
  have hwp := hw.plain hr.plain
  rw [hstore]
  generalize hu : (s.recall (pa / 128)).channelTake pa true = u at hw hwp
  have hmark : ({ u with mem := memWrite u.mem pa n v } : State).clearMarks pa n = { u with mem := memWrite u.mem pa n v } := by
    have hp : u.psect = [] := (hr.side.trans (.of_writtenBack hw)).psect.trans h.marks
    simp [State.clearMarks, hp]
  rw [hmark]
  obtain ⟨hside, hbyte⟩ := lineWritten_side { u with mem := memWrite u.mem pa n v } hostSource (pa / 128)
  have hplain : PlainMemory { u with mem := memWrite u.mem pa n v } := ⟨hwp.tiles, wf_memWrite _ _ _ _ hwp.wf⟩
  refine ⟨hside.outbox.trans (hr.side.trans (.of_writtenBack hw)).outbox, fun i hi => ?_, fun a ha => ?_⟩
  · have hd : mapGet u.dirty (pa + i) = none := hw.clean _ (hclean _ (hline i hi))
    rw [hbyte, hplain.physByte]
    show (mapGet u.dirty (pa + i)).getD _ = _
    rw [hd]
    exact memByte_memWrite_in _ _ _ _ _ hwp.wf hi
  · rw [hbyte, ← hr.byte, ← hw.byte, hplain.physByte, hwp.physByte]
    exact congrArg _ (memByte_memWrite_out _ _ _ _ _ (by omega))

theorem hostMemWrite_eq (s : State) (pa n : Nat) (d : BitVec 512) (h : Sound s) (hpos : 0 < n) (hn : pa % 64 + n ≤ 64)
    (hr : s.hostReaches pa = true) (hw : s.hostWaits (pa / 64) = false) :
    exec (.hostMemWrite pa n d) s = .next ((s.hostWrite pa n (d.toNat % 256 ^ n)).out (.hostDone pa)) := by
  have h0 : ¬(n = 0 ∨ 64 < pa % 64 + n ∨ !s.hostReaches pa) := by simp [hr]; omega
  have hpart : s.partPoisoned pa n = false := by simp [State.partPoisoned, h.marks]
  show execHostMemWrite pa n d s = _
  simp only [execHostMemWrite, if_neg h0, h.lostAt, halfOf, hw, hpart, Bool.false_eq_true, if_false]

/-! Back-invalidation (R62, R65). -/

theorem onlyDue_bisnpRoom (s : State) (port : Nat) : OnlyDue s (s.bisnpRoom port) := by
  unfold State.bisnpRoom
  split
  · exact OnlyDue.later s _
  · exact OnlyDue.refl s

/-- What was held runs again, and only what is due differs. -/
theorem requeued_rest (s : State) : ∃ a, s.retryQueues.requeueHeld = { s with agenda := s.agenda ++ a, hostHeld := [] } := by
  obtain ⟨a, h⟩ := onlyDue_retryQueues s
  rw [h]
  exact ⟨a ++ s.hostHeld, by simp [State.requeueHeld]⟩

theorem setHostState_rest (s : State) (half : Nat) (v : BitVec 2) :
    ∃ l a, s.setHostState half v = { s with lines := l, agenda := a } := by
  unfold State.setHostState
  rw [setLine_rest]
  exact ⟨_, _, rfl⟩

/-- The state when the host's answer has been noted at the home, before held requests are served. -/
def birspNoted (s : State) (half : Nat) (data : Bool) : State :=
  ({ s with bisnps := s.bisnps.filter fun b => b.1 != half } : State).setHostState half (if data then 1 else 0)

theorem birspNoted_rest (s : State) (half : Nat) (data : Bool) : ∃ l a,
    birspNoted s half data = { s with bisnps := s.bisnps.filter fun b => b.1 != half, lines := l, agenda := a } := by
  obtain ⟨l, a, h⟩ := setHostState_rest { s with bisnps := s.bisnps.filter fun b => b.1 != half } half (if data then 1 else 0)
  exact ⟨l, a, h⟩

theorem birspReceive_eq (s : State) (half : Nat) (b : Nat × Nat × Bool) (hb : s.bisnps.find? (fun b => b.1 == half) = some b) :
    exec (.birspReceive half none) s = .next ((((birspNoted s half b.2.2).mapThreads fun _ _ t => t.birsp half).serveHeld
      fun w => w == .bisnp half).retryQueues.requeueHeld.bisnpRoom b.2.1) := by
  show execBirspReceive half none s = _
  simp only [execBirspReceive, hb]
  rfl

theorem birsp_retry (half : Nat) (t : Thread) (q : Wait → Bool) (hq : q (.bisnp half) = true) (h : t.status = .parked (.bisnp half)) :
    ((t.birsp half).retryIf q).status = .ready ∧ ((t.birsp half).retryIf q).owes = some half := by
  have hb : t.birsp half = { t with owes := some half } := if_pos h
  have hs : (t.birsp half).status = .parked (.bisnp half) := by rw [hb]; exact h
  rw [retryIf_of_parked _ q _ hs hq]
  exact ⟨rfl, congrArg Thread.owes hb⟩

/-- What was held run again, a holding entry served: nothing else differs. -/
theorem requeuedRoom_rest (v : State) (port : Nat) : ∃ a, v.retryQueues.requeueHeld.bisnpRoom port =
    { v with agenda := a, hostHeld := [] } := by
  obtain ⟨a, hq⟩ := requeued_rest v
  obtain ⟨a', hroom⟩ := onlyDue_bisnpRoom v.retryQueues.requeueHeld port
  rw [hroom, hq]
  exact ⟨_, rfl⟩

/-- Held requests served, and what was held run again: the home's own record stays. -/
theorem servedAndRequeued (u : State) (p : Wait → Bool) (port : Nat) :
    let t := (u.serveHeld p).retryQueues.requeueHeld.bisnpRoom port
    t.bisnps = u.bisnps ∧ t.hostHeld = [] ∧ t.lines = u.lines ∧ (∀ a, t.physByte a = u.physByte a) ∧
      ∀ c sl, t.getThread c sl = (u.serveHeld p).getThread c sl := by
  obtain ⟨k, th, ks, rr, hs⟩ := serveHeld_rest u p
  obtain ⟨a, hq⟩ := requeuedRoom_rest (u.serveHeld p) port
  dsimp only
  rw [hq]
  generalize u.serveHeld p = v at hs
  refine ⟨?_, rfl, ?_, fun x => ?_, fun _ _ => rfl⟩
  · rw [hs]
  · rw [hs]
  · rw [hs]
    rfl

theorem birspNoted_fields (s : State) (half : Nat) (data : Bool) : let u := (birspNoted s half data).mapThreads fun _ _ t => t.birsp half
    (∀ b ∈ u.bisnps, b.1 ≠ half) ∧ u.hostState half = (if data then 1 else 0) ∧ (∀ a, u.physByte a = s.physByte a) ∧
      ∀ c sl, u.getThread c sl = (s.getThread c sl).birsp half := by
  obtain ⟨l, a, h⟩ := birspNoted_rest s half data
  refine ⟨fun b hb => ?_, hostState_setHostState_same _ _ _, fun x => ?_, fun c sl => ?_⟩
  · have hb' : b ∈ (birspNoted s half data).bisnps := hb
    rw [h] at hb'
    simpa using (List.mem_filter.1 hb').2
  · refine (onlyCores_physByte (onlyCores_mapCores _ _) x).trans ?_
    rw [h]
    rfl
  · rw [getThread_mapThreads _ _ _ _ rfl, h]
    rfl

/-- A back-invalidation answered without data: the host state of the half, and the accesses that waited for it. -/
theorem birspReceive_effect (s : State) (half : Nat) (b : Nat × Nat × Bool)
    (hb : s.bisnps.find? (fun b => b.1 == half) = some b) :
    ∃ t, exec (.birspReceive half none) s = .next t ∧ (∀ b ∈ t.bisnps, b.1 ≠ half) ∧ t.hostHeld = [] ∧
      t.hostState half = (if b.2.2 then 1 else 0) ∧ (∀ a, t.physByte a = s.physByte a) ∧
      ∀ c sl, (s.getThread c sl).status = .parked (.bisnp half) →
        (t.getThread c sl).status = .ready ∧ (t.getThread c sl).owes = some half := by
  refine ⟨_, birspReceive_eq s half b hb, ?_⟩
  obtain ⟨hbis, hst, hbyte, hth⟩ := birspNoted_fields s half b.2.2
  generalize ((birspNoted s half b.2.2).mapThreads fun _ _ t => t.birsp half) = u at hbis hst hbyte hth ⊢
  obtain ⟨h1, h2, h3, h4, h5⟩ := servedAndRequeued u (fun w => w == .bisnp half) b.2.1
  refine ⟨fun x hx => hbis x (h1 ▸ hx), h2, ?_, fun a => (h4 a).trans (hbyte a), fun c sl h => ?_⟩
  · rw [← hst, State.hostState, State.hostState, State.lineAt, State.lineAt, h3]
  · obtain ⟨q, hp, hg⟩ := getThread_serveHeld u (fun w => w == .bisnp half) c sl
    rw [h5, hg, hth]
    exact birsp_retry half _ q (hp _ (by simp)) h

end Sys2Proof.Proofs
end

section
/-! PROOF. A notice of a lost line leaves the ports, the host lines and the numbers of the alerts alone (R68, R80, R133): the
writes of an entry that a home serialises, operation by operation. -/

namespace Sys2Proof.Proofs

open Sys2Proof.Machine Sys2Proof.Claims Sys2Proof.Laws

/-- The ports of the host, its lines and the numbers of the alerts are as they were. -/
structure HostKept (s t : State) : Prop where
  cxl : t.cxl = s.cxl
  hostLines : t.hostLines = s.hostLines
  alrtSeq : t.alrtSeq = s.alrtSeq

namespace HostKept

variable {s t u : State}

theorem refl (s : State) : HostKept s s := ⟨rfl, rfl, rfl⟩

theorem trans (a : HostKept s t) (b : HostKept t u) : HostKept s u :=
  ⟨b.cxl.trans a.cxl, b.hostLines.trans a.hostLines, b.alrtSeq.trans a.alrtSeq⟩

theorem of_side (h : HomeSide s t) : HostKept s t := by
  obtain ⟨_, _, _, _, _, _, _, _, _, _, _, rfl⟩ := h
  exact ⟨rfl, rfl, rfl⟩

theorem of_pair {α : Type} {x : α × State} {a : α} (h : HostKept s x.2) (he : x = (a, t)) : HostKept s t := by
  rw [he] at h
  exact h

theorem foldl {α : Type} (f : State → α → State) (h : ∀ s a, HostKept s (f s a)) (l : List α) (s : State) :
    HostKept s (l.foldl f s) := List.foldlRecOn l f (refl s) fun t ht a _ => ht.trans (h t a)

theorem ite (c : Prop) [Decidable c] (h : HostKept s t) (h' : HostKept s u) : HostKept s (if c then t else u) := by
  split
  · exact h
  · exact h'

theorem later (s : State) (i : Instr) : HostKept s (s.later i) := ⟨rfl, rfl, rfl⟩

theorem setLine (s : State) (line : Nat) (e : LineEntry) : HostKept s (s.setLine line e) := of_side (.setLine s line e)

theorem channelTake (s : State) (pa : Nat) (wr : Bool) : HostKept s (s.channelTake pa wr) :=
  of_side (.of_seen (seen_channelTake s pa wr))

theorem dieCrowd (s : State) (die line : Nat) : HostKept s (s.dieCrowd die line) := of_side (.of_seen (seen_dieCrowd s die line))

theorem frameTake (s : State) (pa n : Nat) (wr : Bool) : HostKept s (s.frameTake pa n wr) :=
  of_side (.of_seen (seen_frameTake s pa n wr))

theorem endExcl (s : State) (c : CoreId) (line : Nat) : HostKept s (s.endExcl c line) := of_side (.of_seen (seen_endExcl s c line))

theorem replicas (s : State) (l : List Replica) : HostKept s { s with replicas := l } := ⟨rfl, rfl, rfl⟩

theorem trigger (s : State) (line : Nat) : HostKept s (s.trigger line) := of_side (.of_onlyCores (onlyCores_trigger s line))

/-! Bytes written back and stored. -/

theorem putBacking (s : State) (pa : Nat) (b : Byte) : HostKept s (s.putBacking pa b) := by
  unfold State.putBacking
  split
  · split <;> exact ⟨rfl, rfl, rfl⟩
  · exact ⟨rfl, rfl, rfl⟩

theorem writeBack (n : Nat) : ∀ (s : State) (pa : Nat), HostKept s (s.writeBack pa n) := by
  induction n with
  | zero => exact fun s _ => refl s
  | succ n ih =>
    intro s pa
    unfold State.writeBack
    refine HostKept.trans ?_ (ih _ (pa + 1))
    split
    · next b _ =>
      obtain ⟨h1, h2, h3⟩ := putBacking s pa b
      exact ⟨h1, h2, h3⟩
    · exact refl s

theorem writeRequest (s : State) (line : Nat) : HostKept s (s.writeRequest line) := by
  unfold State.writeRequest
  exact ite _ (channelTake s _ _) (refl s)

theorem lineWriteBack (s : State) (line : Nat) : HostKept s (s.lineWriteBack line) := by
  refine (writeRequest s line).trans (foldl _ (fun t j => ?_) _ _)
  dsimp only
  split
  · exact refl t
  · exact writeBack _ t _

theorem lineForStore (s : State) (src : Source) (line : Nat) : HostKept s (s.lineForStore src line) := by
  unfold State.lineForStore
  dsimp only
  split
  · exact (ite _ (lineWriteBack s line) (refl s)).trans (setLine _ _ _)
  · split
    · exact (channelTake s _ _).trans ((setLine _ _ _).trans (dieCrowd _ _ _))
    · exact channelTake s _ _

theorem dropReplica (s : State) (c : CoreId) (pa : Nat) : HostKept s (s.dropReplica c pa) := by
  unfold State.dropReplica
  split
  · exact refl s
  · split <;> exact ⟨rfl, rfl, rfl⟩

theorem tileDirty (s : State) (src : Source) (pb : Nat) (t : Tile) (pa : Nat) (b : Byte) :
    HostKept s (s.tileDirty src pb t pa b) := by
  have hr := dropReplica s src.core pa
  have hw : ∀ (u : State) (l : Nat) (qs : List Nat), HostKept u (qs.foldl (fun s q => s.writeBack q 16) (State.writeRequest u l)) := fun u l qs =>
    (writeRequest u l).trans (foldl _ (fun u q => writeBack 16 u q) qs _)
  unfold State.tileDirty
  dsimp only
  split
  · split
    · exact ⟨hr.cxl, hr.hostLines, hr.alrtSeq⟩
    · obtain ⟨h1, h2, h3⟩ := hr.trans (hw _ _ _)
      exact ⟨h1, h2, h3⟩
  · exact ⟨hr.cxl, hr.hostLines, hr.alrtSeq⟩

theorem tileArrives (s : State) (pb : Nat) (t : Tile) (c : CoreId) : HostKept s (s.tileArrives pb t c) := by
  unfold State.tileArrives
  exact (replicas s _).trans (foldl _ (fun u _ => dieCrowd u _ _) _ _)

theorem tileFill (s : State) (pb : Nat) (t : Tile) : HostKept s (s.tileFill pb t) := by
  unfold State.tileFill
  exact ite _ (refl s) (foldl _ (fun u _ => channelTake u _ _) _ s)

theorem claim (s : State) (src : Source) (pb : Nat) (t : Tile) : HostKept s (s.claim src pb t) :=
  (tileFill s pb t).trans ⟨rfl, rfl, rfl⟩

theorem tileStore (s : State) (src : Source) (pb : Nat) (t : Tile) (pa : Nat) (b : Byte) :
    HostKept s (s.tileStore src pb t pa b) := by
  have hput := (dropReplica s src.core pa).trans (putBacking _ pa b)
  unfold State.tileStore
  split
  · exact tileDirty s src pb t pa b
  · exact ite _ ((claim s src pb t).trans ((tileDirty _ src pb _ pa b).trans (tileArrives _ pb t _))) hput
  · exact hput
  · exact hput
  · exact hput

theorem lineStore (s : State) (pa : Nat) (b : Byte) : HostKept s (s.lineStore pa b) := by
  unfold State.lineStore
  dsimp only
  split
  · exact ite _ ⟨rfl, rfl, rfl⟩ ((setLine s _ _).trans ⟨rfl, rfl, rfl⟩)
  · exact ⟨rfl, rfl, rfl⟩

theorem storeByte (s : State) (src : Source) (pa : Nat) (b : Byte) : HostKept s (s.storeByte src pa b) := by
  unfold State.storeByte
  split
  · exact tileStore s src _ _ pa b
  · exact lineStore s pa b

theorem storeBytes (src : Source) (n : Nat) : ∀ (s : State) (pa v : Nat), HostKept s (s.storeBytes src pa n v) := by
  induction n with
  | zero => exact fun s _ _ => refl s
  | succ n ih => exact fun s pa v => (storeByte s src pa _).trans (ih _ _ _)

theorem kept (s : State) (c : CoreId) (line : Nat) (m : BitVec 8) : HostKept s ((s.touch c line m).keepStored c line m) := by
  have ht : HostKept s (s.touch c line m) := by
    unfold State.touch
    refine HostKept.trans ?_ (of_side (.of_onlyCores (onlyCores_onCore _ c (Core.touch line m))))
    split
    · exact endExcl s c _
    · exact refl s
  refine ht.trans ?_
  unfold State.keepStored
  exact ite _ (setLine _ _ _) (refl _)

/-! What holds an access back. -/

theorem holdEntry (s : State) (by' : Requester) (die : Nat) (c : HoldClass) (w : Wait) : HostKept s (s.holdEntry by' die c w) := by
  unfold State.holdEntry
  exact ite _ (refl s) ⟨rfl, rfl, rfl⟩

theorem recover (s : State) (line : Nat) : HostKept s (s.recover line) := by
  unfold State.recover
  exact ite _ (refl s) (later s _)

theorem sendBisnp (s : State) (by' : Requester) (half : Nat) (data : Bool) (cls : HoldClass) :
    HostKept s (s.sendBisnp by' half data cls) := by
  unfold State.sendBisnp
  exact ite _ (refl s) (ite _ (holdEntry s _ _ _ _) ⟨rfl, rfl, rfl⟩)

theorem blocked (s : State) (by' : Requester) (pa n : Nat) (onlyA : Bool) (cls : HoldClass) :
    HostKept s (s.blocked by' pa n onlyA cls).2 := by
  unfold State.blocked
  split
  · exact refl s
  · split
    · exact recover s _
    · split
      · exact refl s
      · split
        · exact sendBisnp s _ _ _ _
        · split
          · exact holdEntry s _ _ _ _
          · exact refl s

theorem ctxReady (s : State) (ctx : BitVec 16) : HostKept s (s.ctxReady ctx).2 := by
  unfold State.ctxReady
  split
  · exact blocked s _ _ _ _ _
  · exact refl s

/-! Entries of the fault queues, and notices. -/

theorem serialise (s : State) (src : Source) (pa n v : Nat) : HostKept s (s.serialise src pa n v).2 := by
  unfold State.serialise
  split
  · exact refl s
  · split
    · next heq => exact of_pair (blocked s _ _ _ _ _) heq
    · next t heq =>
      have hb := of_pair (blocked s _ _ _ _ _) heq
      split
      · exact hb
      · have hw := hb.trans ((frameTake t pa n true).trans ((foldl
          (fun s l => if s.touchesOpen l pa n then s.lineForStore src l else s)
          (fun u l => ite _ (lineForStore u src l) (refl u)) (linesOf pa n) _).trans
            ((storeBytes src n _ pa v).trans (HostKept.trans (t := State.clearMarks _ pa n) ⟨rfl, rfl, rfl⟩
              (foldl (fun s l => s.lineWritten src l) (fun u l => of_side (lineWritten_side u src l).1) (linesOf pa n) _)))))
        refine ite _ (hw.trans (foldl _ (fun u l => ?_) _ _)) hw
        exact ite _ (refl u) (kept u _ _ _)

theorem fqCount (s : State) (sup : Nat) (ctx : BitVec 16) : HostKept s (s.fqCount sup ctx) := by
  have hm : ∀ m : Vector Mailbox 8, HostKept s { s with mailboxes := m } := fun _ => ⟨rfl, rfl, rfl⟩
  unfold State.fqCount State.countEntry State.onMailbox State.mailboxChanged
  exact ite _ ⟨rfl, rfl, rfl⟩ ((hm _).trans (trigger _ _))

theorem fqWrite (s : State) (e : FaultEntry) : HostKept s (s.fqWrite e).2 := by
  unfold State.fqWrite
  split
  · next heq => exact of_pair (ctxReady s _) heq
  · next u heq =>
    have hu := of_pair (ctxReady s _) heq
    split
    · exact hu
    · next c _ =>
      extract_lets tail head
      clear_value tail head
      split
      · exact hu
      · split
        · next heq => exact hu.trans (of_pair (blocked u _ _ _ _ _) heq)
        · next v heq =>
          have hv := hu.trans (of_pair (blocked u _ _ _ _ _) heq)
          split
          · next heq => exact hv.trans (of_pair (blocked v _ _ _ _ _) heq)
          · next w heq =>
            have hw := hv.trans (of_pair (blocked v _ _ _ _ _) heq)
            generalize (tail + 1) % 2 ^ 64 = tail'
            exact hw.trans ((serialise w _ _ _ _).trans (serialise _ _ _ _ _))

theorem keepNotice (s : State) (die : Nat) (e : FaultEntry) : HostKept s (s.keepNotice die e) := by
  unfold State.keepNotice
  exact ite _ ⟨rfl, rfl, rfl⟩ (ite _ ⟨rfl, rfl, rfl⟩ (refl s))

theorem fqPut (s : State) (e : FaultEntry) : HostKept s (s.fqPut e).2 := by
  unfold State.fqPut
  split
  · next u heq => exact (of_pair (fqWrite s e) heq).trans (ite _ (fqCount u _ _) (refl u))
  · next heq => exact of_pair (fqWrite s e) heq

theorem notice (s : State) (die : Nat) (e : FaultEntry) : HostKept s (s.notice die e) := by
  unfold State.notice State.noticeIx
  split
  · exact keepNotice s die e
  · split
    · next heq => exact of_pair (fqPut s e) heq
    · next heq => exact (of_pair (fqPut s e) heq).trans (keepNotice _ die e)

end HostKept

/-! A port goes down (R68). -/

/-- A half of a host line dropped. -/
theorem dropHostHalf_effect (s : State) (half : Nat) (v : HostLine) :
    let t := s.dropHostHalf half v
    t.cxl = s.cxl ∧ t.alrtSeq = s.alrtSeq ∧ t.hostLines = mapErase s.hostLines half := by
  unfold State.dropHostHalf
  dsimp only
  split
  · have h := HostKept.notice { s with hostLines := mapErase s.hostLines half, mem := memWrite s.mem (64 * half) 64 0 }
      (homeOf (64 * half)) (noticeEntry { s with hostLines := mapErase s.hostLines half, mem := memWrite s.mem (64 * half) 64 0 }
        (homeOf (64 * half)) 0x12 (BitVec.ofNat 16 (v.st - 3)) 0 0 (64 * half) 0)
    exact ⟨h.cxl, h.alrtSeq, h.hostLines⟩
  · exact ⟨rfl, rfl, rfl⟩

theorem mapGet_mapErase_of_none {α : Type} (m : Map α) (a b : Nat) (h : mapGet m b = none) : mapGet (mapErase m a) b = none := by
  by_cases hne : b = a
  · subst hne
    simp
  · rw [mapGet_mapErase_ne _ _ _ hne, h]

/-- The host lines of a list dropped, one after the other. -/
theorem dropHostHalves_effect (l : List (Nat × HostLine)) : ∀ s : State,
    let t := l.foldl (fun s q => s.dropHostHalf q.1 q.2) s
    t.cxl = s.cxl ∧ t.alrtSeq = s.alrtSeq ∧ (∀ h, mapGet s.hostLines h = none → mapGet t.hostLines h = none) ∧
      ∀ q ∈ l, mapGet t.hostLines q.1 = none := by
  induction l with
  | nil => exact fun s => ⟨rfl, rfl, fun _ => id, fun q hq => by simp at hq⟩
  | cons p l ih =>
    intro s
    obtain ⟨h1, h2, h3⟩ := dropHostHalf_effect s p.1 p.2
    obtain ⟨g1, g2, g3, g4⟩ := ih (s.dropHostHalf p.1 p.2)
    refine ⟨g1.trans h1, g2.trans h2, fun h hn => g3 h ?_, fun q hq => ?_⟩
    · rw [h3]
      exact mapGet_mapErase_of_none _ _ _ hn
    · rcases List.mem_cons.1 hq with rfl | hq
      · refine g3 _ ?_
        rw [h3]
        simp
      · exact g4 q hq

theorem forgetHost_kept (s : State) (p : Fin 4) : HostKept s (s.forgetHost p) := by
  unfold State.forgetHost
  refine HostKept.foldl _ (fun t l => HostKept.foldl _ (fun u h => ?_) _ t) _ s
  exact HostKept.ite _ (.setLine u _ _) (.refl u)

/-- The errors that end the requests on a port. -/
def portErrors (reqs : List Outstanding) (s : State) : State :=
  reqs.foldl (fun s o => s.later (.errorResponseArrival o.core (BitVec.ofNat 10 o.tag) 0x12)) s

/-- A port is down and its host lines are dropped: what happens to those that waited for it. -/
theorem portEnded_effect (s : State) (reqs : List Outstanding) (cls : Byte) (src : Nat) (data : List Word) (p : Wait → Bool) :
    let t := (((portErrors reqs s).alert cls src 0 data).serveHeld p).retryQueues.requeueHeld
    t.cxl = s.cxl ∧ t.alrtSeq = s.alrtSeq + 1 ∧ t.hostLines = s.hostLines ∧
      ∀ o ∈ reqs, .errorResponseArrival o.core (BitVec.ofNat 10 o.tag) 0x12 ∈ t.agenda := by
  have hmem : ∀ o ∈ reqs, .errorResponseArrival o.core (BitVec.ofNat 10 o.tag) 0x12 ∈ (portErrors reqs s).agenda :=
    fun o => mem_agenda_foldl_later _ reqs s o
  obtain ⟨g, hg⟩ : OnlyDue s (portErrors reqs s) := OnlyDue.foldl _ (fun v _ => OnlyDue.later v _) reqs s
  obtain ⟨held, flight, lost, out, ha⟩ := alert_rest (portErrors reqs s) cls src 0 data
  dsimp only
  generalize (portErrors reqs s).alert cls src 0 data = u at ha
  obtain ⟨k, th, ks, rr, hs⟩ := serveHeld_rest u p
  obtain ⟨a, hq⟩ := requeued_rest (u.serveHeld p)
  rw [hq]
  generalize u.serveHeld p = v at hs
  generalize portErrors reqs s = e at hmem hg ha
  subst hs ha hg
  exact ⟨rfl, rfl, rfl, fun o ho => List.mem_append_left _ (hmem o ho)⟩

/-- The state once the port is down and the host lines that it had are gone. -/
def hostPortLost (s : State) (port : Fin 4) : State :=
  let u := s.forgetHost port
  (s.hostLines.filter fun q => q.2.port == port.val).foldl (fun s q => s.dropHostHalf q.1 q.2) { u with
    cxl := u.cxl.set port { u.cxl[port] with up := false }, bisnps := u.bisnps.filter fun b => b.2.1 != port.val }

theorem hostPortLost_effect (s : State) (port : Fin 4) :
    (hostPortLost s port).cxl[port].up = false ∧ (hostPortLost s port).alrtSeq = s.alrtSeq ∧
      ∀ q ∈ s.hostLines, q.2.port = port.val → mapGet (hostPortLost s port).hostLines q.1 = none := by
  have hf := forgetHost_kept s port
  obtain ⟨h1, h2, -, h4⟩ := dropHostHalves_effect (s.hostLines.filter fun q => q.2.port == port.val) { s.forgetHost port with
    cxl := (s.forgetHost port).cxl.set port { (s.forgetHost port).cxl[port] with up := false }
    bisnps := (s.forgetHost port).bisnps.filter fun b => b.2.1 != port.val }
  refine ⟨?_, h2.trans hf.alrtSeq, fun q hq hp => h4 q (List.mem_filter.2 ⟨hq, by simp [hp]⟩)⟩
  have h1' : (hostPortLost s port).cxl = _ := h1
  rw [h1']
  simp

theorem cxlPortDown_eq (s : State) (port : Fin 4) (h : s.cxl[port].up = true) :
    exec (.cxlPortDown port) s = .next ((((portErrors (s.outstanding.filter fun o => o.port == some port.val)
      (hostPortLost s port)).alert 0x05 (cxlSock port.val) 0 [0, w64 port.val]).serveHeld fun w =>
        (s.forgetHost port).waitsPort port.val w || w == .slot).retryQueues.requeueHeld) := by
  show execCxlPortDown port s = _
  simp only [execCxlPortDown, h, Bool.not_true, Bool.false_eq_true, if_false]
  rfl

theorem cxlPortDown_effect (s : State) (port : Fin 4) (h : s.cxl[port].up = true) :
    ∃ t, exec (.cxlPortDown port) s = .next t ∧ t.cxl[port].up = false ∧ t.alrtSeq = s.alrtSeq + 1 ∧
      (∀ o ∈ s.outstanding, o.port = some port.val →
        .errorResponseArrival o.core (BitVec.ofNat 10 o.tag) 0x12 ∈ t.agenda) ∧
      ∀ q ∈ s.hostLines, q.2.port = port.val → mapGet t.hostLines q.1 = none := by
  obtain ⟨d1, d2, d3⟩ := hostPortLost_effect s port
  obtain ⟨e1, e2, e3, e4⟩ := portEnded_effect (hostPortLost s port) (s.outstanding.filter fun o => o.port == some port.val) 0x05
    (cxlSock port.val) [0, w64 port.val] fun w => (s.forgetHost port).waitsPort port.val w || w == .slot
  refine ⟨_, cxlPortDown_eq s port h, by rw [e1]; exact d1, by rw [e2, d2], fun o ho hp => ?_, fun q hq hp => ?_⟩
  · exact e4 o (List.mem_filter.2 ⟨ho, by simp [hp]⟩)
  · rw [e3]
    exact d3 q hq hp

/-! A port comes up (R58), and snoops (R66). -/

theorem cxlPortUp_effect (s : State) (port : Fin 4) (hu : s.cxl[port].up = false)
    (hf : s.fenced.getLsbD (cxlSock port.val) = false) : ∃ t, exec (.cxlPortUp port) s = .next t ∧
      t.cxl = s.cxl.set port { s.cxl[port] with up := true, committed := false, failed := false } ∧
      ∀ a, t.physByte a = s.physByte a := by
  have hx : exec (.cxlPortUp port) s = .next (({ s with cxl := s.cxl.set port { s.cxl[port] with
      up := true, committed := false, failed := false } } : State).serveHeld fun w => w == .slot) := by
    show execCxlPortUp port s = _
    simp only [execCxlPortUp, hu, hf, Bool.or_self, Bool.false_eq_true, if_false]
  obtain ⟨k, th, ks, rr, hs⟩ := serveHeld_rest { s with cxl := s.cxl.set port { s.cxl[port] with
      up := true, committed := false, failed := false } } fun w => w == .slot
  rw [hs] at hx
  exact ⟨_, hx, rfl, fun _ => rfl⟩

section Snoops

variable (s : State) (half : Nat) (v : HostLine) (hv : mapGet s.hostLines half = some v)
  (ht : s.hostTaken (64 * half) = false)
include hv ht

theorem snpinv_eq : exec (.snpinv half) s = .next (({ s.snooped half (decide (3 ≤ v.st)) with
    hostLines := mapErase s.hostLines half, mem := memWrite s.mem (64 * half) 64 0 } : State).trigger (half / 2)) := by
  show execSnpinv half s = _
  simp only [execSnpinv, ht, hv, Bool.false_eq_true, if_false]
  rfl

theorem snpdata_eq : exec (.snpdata half) s = .next (({ s.snooped half (decide (3 ≤ v.st)) with
    hostLines := mapSet s.hostLines half { v with st := 1 } } : State).trigger (half / 2)) := by
  show execSnpdata half s = _
  simp only [execSnpdata, ht, hv, Bool.false_eq_true, if_false]

theorem snpcur_eq : exec (.snpcur half) s = .next ((s.snooped half false).trigger (half / 2)) := by
  show execSnpcur half s = _
  simp only [execSnpcur, ht, hv, Bool.false_eq_true, if_false]

end Snoops

/-- A byte of a number does not depend on the bytes above. -/
theorem byte_of_low (x n i : Nat) (h : i < n) : (BitVec.ofNat 8 (x % 256 ^ n / 256 ^ i)).toNat = x / 256 ^ i % 256 := by
  obtain ⟨k, rfl⟩ : ∃ k, n = i + (k + 1) := ⟨n - i - 1, by omega⟩
  have hd : 256 ∣ 256 ^ (k + 1) := ⟨256 ^ k, Nat.pow_succ'⟩
  rw [BitVec.toNat_ofNat, Nat.pow_add, Nat.mod_mul_right_div_self]
  exact Nat.mod_mod_of_dvd _ hd

/-- Settles O43: each event's state is written out, with what a home does for the host, and what a notice leaves alone. -/
theorem hostEvents : Obligations.HostEvents := by
  unfold Obligations.HostEvents
  intro s port dec pa n half wantA d legal same plain bytes
  have hsound : plain → Sound s ∧ Coherent s (pa / 128) := fun ⟨hw, ht, hl, hp, hc⟩ => ⟨⟨⟨ht, hw⟩, hl, hp⟩, hc⟩
  have hhalf : pa / 64 / 2 = pa / 128 := Nat.div_div_eq_div_mul ..
  refine ⟨?_, ?_, hostMemRead_of_waiting s pa wantA, ?_, ?_, ?_, cxlPortDown_effect s port, cxlPortUp_effect s port, ?_⟩
  · intro hb
    have hr := hostReaches_of_failed hb pa
    refine ⟨congrArg Host.Outcome.next (if_pos (by simp [answersHost_of_failed hb])),
      congrArg Host.Outcome.next (if_pos (by simp [hr])), congrArg Host.Outcome.next (if_pos (by simp [hr]))⟩
  · intro hb
    have hok : (decoderOk dec && sameSettings s port dec) = true ↔ legal ∧ same := by
      rw [Bool.and_eq_true, decoderOk_iff, sameSettings_iff]
      rfl
    refine ⟨_, decoderCommit_eq s port dec hb, ⟨rfl, rfl, rfl, rfl, rfl, fun _ => rfl⟩, ?_⟩
    simp only [Vector.getElem_set_self, Fin.getElem_fin, true_and]
    refine ⟨hok, fun q hq => ?_⟩
    exact Vector.getElem_set_ne port.isLt q.isLt fun he => hq (Fin.ext he.symm)
  · intro hr hw room hp
    obtain ⟨hs, hc⟩ := hsound hp
    obtain ⟨h1, h2, h3, h4⟩ := hostRead_effect s (pa / 64) wantA hs (hhalf ▸ hc)
    exact ⟨_, _, hostMemRead_eq s pa wantA hr hw room, h1, fun i hi => by rw [halfData_byte _ _ _ hi, h3], h2, h3, hhalf ▸ h4⟩
  · intro hpos hn hr hw hp
    obtain ⟨hs, hc⟩ := hsound hp
    obtain ⟨h1, h2, h3⟩ := hostWrite_effect s pa n (d.toNat % 256 ^ n) hs hc hn
    refine ⟨_, hostMemWrite_eq s pa n d hs hpos hn hr hw, congrArg (· ++ _) h1, fun i hi => ?_, h3⟩
    exact (congrArg BitVec.toNat (h2 i hi)).trans (byte_of_low _ _ _ hi)
  · intro b hb
    refine ⟨?_, birspReceive_effect s half b hb⟩
    show execBisnpTimeout half s = _
    simp only [execBisnpTimeout, hb]
    rfl
  · intro v hv ht x
    exact ⟨⟨_, snpinv_eq s half v hv ht, rfl, mapGet_mapErase_same _ _⟩,
      ⟨_, snpdata_eq s half v hv ht, rfl, mapGet_mapSet_same _ _ _, fun _ => rfl⟩,
      ⟨_, snpcur_eq s half v hv ht, rfl, rfl, fun _ => rfl⟩⟩

end Sys2Proof.Proofs
end

section
/-! PROOF. States between the issue of a tile form and its effect (R319, R320): reads, and a release with nothing to wait for. -/

namespace Sys2Proof.Proofs

open Sys2Proof.Machine Sys2Proof.Claims Sys2Proof.Laws

/-! A release waits for nothing after reads (R159). -/

/-- Nothing of the messages that a core's threads have open differs. -/
theorem closed_of {s u : State} (hp : ∀ j : Fin 8, (u.getThread u.loc j).packing = (s.getThread s.loc j).packing)
    (hv : u.core.saves = s.core.saves) (h : Closed s) : Closed u := by
  have hslot : ∀ (v : State) (j : Fin 8), v.here.slots[j] = v.getThread v.loc j := fun v j => by
    rw [getThread_eq_slot, State.getCore, if_pos rfl]
  intro t ht
  rcases List.mem_append.1 ht with ht | ht
  · obtain ⟨i, hi, rfl⟩ := Vector.getElem_of_mem (Vector.mem_toList_iff.1 ht)
    have hs : s.here.slots[(⟨i, hi⟩ : Fin 8)].packing = [] := h _ (List.mem_append_left _ (by simp))
    have hu := hslot u ⟨i, hi⟩
    rw [hslot] at hs
    exact (congrArg Thread.packing hu).trans ((hp _).trans hs)
  · rw [hv] at ht
    exact h t (List.mem_append_right _ ht)

theorem quiet_seen {s t : State} (h : Seen s t) (hq : Quiet s) : Quiet t := by
  obtain ⟨q1, q2, q3, q4, q5, q6, q7, q8, q9, q10⟩ := hq
  have hhalo : ∀ a, t.haloOut a = s.haloOut a := fun a => by rw [State.haloOut, h.replicas]; rfl
  refine ⟨by rw [h.th, q1], by rw [h.th, q2], by rw [h.staging, q3], by rw [h.inflight, q4], by rw [h.outstanding, q5],
    by rw [h.kills, q6], closed_of (fun j => ?_) (by rw [h.core]) q7, ?_, by rw [h.th, q9], by rw [h.th, q10]⟩
  · by_cases hj : j = s.slot
    · subst hj
      have : t.getThread t.loc s.slot = t.th := by rw [← h.slot, getThread_current]
      rw [this, getThread_current, h.th]
    · rw [h.loc, h.getThread _ _ fun hx => hj hx.2]
  · rw [h.tiles, h.loc]
    simpa only [hhalo] using q8

theorem quiet_useUp {s : State} (hq : Quiet s) : Quiet s.useUp := by
  obtain ⟨q1, q2, q3, q4, q5, q6, q7, q8, q9, q10⟩ := hq
  refine ⟨q1, q2, q3, q4, q5, q6, closed_of (s := s) (fun j => ?_) rfl q7, q8, q9, q10⟩
  by_cases hj : j = s.slot
  · subst hj
    have : s.useUp.getThread s.loc s.slot = s.useUp.th := if_pos ⟨rfl, rfl⟩
    exact (congrArg Thread.packing this).trans (congrArg Thread.packing (getThread_current s)).symm
  · exact congrArg Thread.packing ((keeps_useUp s).1.2.2.2.1 s.loc j fun hx => hj hx.2)

/-- What the room of a checkpoint bank depends on (R142): whether there is a thread, and its allotment. -/
def bankKey (t : Thread) : Status × Nat := (t.status, t.allot)

theorem banks_of_keys (l : List Thread) : (l.filter fun t => t.status != .empty).map bankBytes =
    ((l.map bankKey).filter fun q => q.1 != .empty).map fun q => 8 * 32 + 8 * 4 + 32 * 8 + 1024 * q.2 := by
  rw [List.filter_map, List.map_map]
  rfl

/-- Only caches, line entries, channels and what is due differ, the checkpoints, and what the current thread has of responses
and of its scope table. -/
structure Passed (s u : State) : Prop where
  rest : ∃ k l m c a g x, u = { s with
    core := k, lines := l, coreMaps := m, channels := c, agenda := a, th := { s.th with got := g, scopeTab := x } }
  slots : ∀ j : Fin 8, j ≠ s.slot → u.core.slots[j] = s.core.slots[j]
  host : ∀ h, u.hostState h = s.hostState h
  whole : Whole s u

namespace Passed

variable {s t u : State}

theorem of_seen (h : Seen s t) : Passed s t := by
  refine ⟨?_, h.slots, h.host, h.whole⟩
  rw [h.rest]
  exact ⟨_, _, _, _, _, s.th.got, s.th.scopeTab, rfl⟩

theorem of_drained (h : Drained s t) : Passed s t := by
  refine ⟨?_, h.slots, fun x => ?_, fun hw l => ?_⟩
  · rw [h.rest]
    exact ⟨_, _, _, _, _, s.th.got, _, rfl⟩
  · rw [h.rest]
    rfl
  · rw [h.rest]
    exact hw l

theorem useUp (s : State) : Passed s s.useUp := ⟨⟨_, _, _, _, _, _, s.th.scopeTab, rfl⟩, fun _ _ => rfl, fun _ => rfl, id⟩

theorem trans (a : Passed s t) (b : Passed t u) : Passed s u := by
  obtain ⟨_, _, _, _, _, _, _, rfl⟩ := a.rest
  obtain ⟨_, _, _, _, _, _, _, hu⟩ := b.rest
  exact ⟨⟨_, _, _, _, _, _, _, hu⟩, fun j hj => (b.slots j hj).trans (a.slots j hj), fun h => (b.host h).trans (a.host h),
    fun h => b.whole (a.whole h)⟩

theorem openMemory (h : Passed s u) (o : OpenMemory s) : OpenMemory u := by
  obtain ⟨o1, o2, o3, o4, o5, o6, o7, o8⟩ := o
  have hh := h.host
  have hw := h.whole o8
  obtain ⟨_, _, _, _, _, _, _, rfl⟩ := h.rest
  exact ⟨o1, o2, o3, o4, o5, o6, fun x => (hh x).trans (o7 x), hw⟩

theorem physByte (h : Passed s u) (a : Nat) : u.physByte a = s.physByte a := by
  obtain ⟨_, _, _, _, _, _, _, rfl⟩ := h.rest
  rfl

theorem memory (h : Passed s u) : u.tiles = s.tiles ∧ u.mem = s.mem ∧ u.replicas = s.replicas ∧ u.loc = s.loc ∧
    u.bisnps = s.bisnps ∧ u.links = s.links := by
  obtain ⟨_, _, _, _, _, _, _, rfl⟩ := h.rest
  exact ⟨rfl, rfl, rfl, rfl, rfl, rfl⟩

theorem isDevMem (h : Passed s u) (a : Nat) : u.isDevMem a = s.isDevMem a := by
  obtain ⟨_, _, _, _, _, _, _, rfl⟩ := h.rest
  rfl

theorem tileOf (h : Passed s u) (z : TileDesc) (ns : List CoreId) : u.tileOf z ns = s.tileOf z ns := by
  obtain ⟨_, _, _, _, _, _, _, rfl⟩ := h.rest
  rfl

theorem logical (h : Passed s u) (n : Nat) : u.logical n = s.logical n := by
  obtain ⟨_, _, _, _, _, _, _, rfl⟩ := h.rest
  rfl

theorem resolveNeigh (h : Passed s u) (ns : List Nat) : u.resolveNeigh ns = s.resolveNeigh ns := by
  induction ns with
  | nil => rfl
  | cons n r ih => simp only [State.resolveNeigh, h.logical, ih, h.memory.2.2.2.1]

/-- What a checkpoint bank holds of each thread is as large as before. -/
theorem thread (h : Passed s u) (c : CoreId) (j : Fin 8) :
    (u.getThread c j).status = (s.getThread c j).status ∧ (u.getThread c j).allot = (s.getThread c j).allot := by
  have hs := h.slots
  obtain ⟨k, _, _, _, _, _, _, rfl⟩ := h.rest
  by_cases hc : c = s.loc
  · by_cases hj : j = s.slot
    · subst hc hj
      simp [State.getThread]
    · have hne : ¬(c = s.loc ∧ j = s.slot) := fun hx => hj hx.2
      have hv : ¬(s.slot.val = j.val) := fun he => hj (Fin.ext he.symm)
      have := hs j hj
      simp only [Fin.getElem_fin] at this
      simp [State.getThread, State.getCore, State.here, hc, hj, hv, this]
  · simp [State.getThread, State.getCore, hc]

theorem banksUsed (h : Passed s u) (die : Nat) : u.banksUsed die = s.banksUsed die := by
  have hl : u.coreList = s.coreList := by
    obtain ⟨_, _, _, _, _, _, _, rfl⟩ := h.rest
    rfl
  have hkeys : ∀ c, (u.getCore c).slots.toList.map bankKey = (s.getCore c).slots.toList.map bankKey := by
    intro c
    refine List.ext_getElem (by simp) fun i h1 _ => ?_
    have hi : i < 8 := by simpa using h1
    obtain ⟨h1, h2⟩ := h.thread c ⟨i, hi⟩
    rw [getThread_eq_slot, getThread_eq_slot] at h1 h2
    simpa [bankKey] using And.intro h1 h2
  simp only [State.banksUsed, hl, banks_of_keys, hkeys]

theorem allocFrame (h : Passed s u) (pb : Nat) (t : Tile) : u.allocFrame pb t = s.allocFrame pb t := by
  have hc : ∀ die, u.contextsUsed die = s.contextsUsed die := fun die => by
    obtain ⟨_, _, _, _, _, _, _, rfl⟩ := h.rest
    rfl
  have hs : u.sramShadow = s.sramShadow := by
    obtain ⟨_, _, _, _, _, _, _, rfl⟩ := h.rest
    rfl
  simp only [State.allocFrame, h.memory.1, hc, h.banksUsed, hs]

end Passed

end Sys2Proof.Proofs
end

section
/-! PROOF. Tiles declared and dropped (R98, R100, R101): where the bytes go. -/

namespace Sys2Proof.Proofs

open Sys2Proof.Machine Sys2Proof.Claims Sys2Proof.Laws

/-! What caches, line entries and channels do leaves bytes, tiles and threads alone. -/

/-- Bytes, declared tiles, replicas and the current thread are the same. -/
structure Unmoved (s t : State) : Prop where
  mem : t.mem = s.mem
  dirty : t.dirty = s.dirty
  tiles : t.tiles = s.tiles
  replicas : t.replicas = s.replicas
  th : t.th = s.th

namespace Unmoved

variable {s t u : State}

theorem refl (s : State) : Unmoved s s := ⟨rfl, rfl, rfl, rfl, rfl⟩

theorem trans (a : Unmoved s t) (b : Unmoved t u) : Unmoved s u :=
  ⟨b.mem.trans a.mem, b.dirty.trans a.dirty, b.tiles.trans a.tiles, b.replicas.trans a.replicas, b.th.trans a.th⟩

theorem foldl {α : Type} (f : State → α → State) (h : ∀ s a, Unmoved s (f s a)) (l : List α) (s : State) :
    Unmoved s (l.foldl f s) := List.foldlRecOn l f (refl s) fun t ht a _ => ht.trans (h t a)

theorem setLine (s : State) (line : Nat) (e : LineEntry) : Unmoved s (s.setLine line e) := by
  rw [setLine_rest]
  exact ⟨rfl, rfl, rfl, rfl, rfl⟩

theorem markLines (s : State) (ls : List Nat) : Unmoved s (s.markLines ls) :=
  foldl _ (fun u l => setLine u l _) ls s

theorem uncache (s : State) (line : Nat) : Unmoved s (s.uncache line) :=
  ⟨rfl, rfl, rfl, rfl, by simp [State.uncache, State.mapCores, State.here]⟩

theorem tileLeaves (s : State) (pb : Nat) (t : Tile) : Unmoved s (s.tileLeaves pb t) :=
  foldl _ uncache _ s

theorem channelTake (s : State) (pa : Nat) (wr : Bool) : Unmoved s (s.channelTake pa wr) := by
  unfold State.channelTake
  split
  · split <;> exact ⟨rfl, rfl, rfl, rfl, rfl⟩
  · exact refl s

theorem tileFill (s : State) (pb : Nat) (t : Tile) : Unmoved s (s.tileFill pb t) := by
  unfold State.tileFill
  split
  · exact refl s
  · exact foldl _ (fun u l => channelTake u _ _) _ s

theorem dieCrowd (s : State) (die line : Nat) : Unmoved s (s.dieCrowd die line) := by
  unfold State.dieCrowd
  dsimp only
  split
  · split <;> exact ⟨rfl, rfl, rfl, rfl, rfl⟩
  · exact refl s

/-- Where there is no replica none is dropped. -/
theorem tileArrives (h : s.replicas = []) (pb : Nat) (t : Tile) (c : CoreId) : Unmoved s (s.tileArrives pb t c) := by
  unfold State.tileArrives
  dsimp only
  refine trans ?_ (foldl _ (fun u l => dieCrowd u (sockOf c) l) _ _)
  exact ⟨rfl, rfl, rfl, by simp [h], rfl⟩

theorem dropReplicas (h : s.replicas = []) (pb : Nat) : Unmoved s (s.dropReplicas pb) := by
  unfold State.dropReplicas
  simp only [h, List.filter_nil, List.flatMap_nil, List.eraseDups_nil, List.foldl_nil, List.map_nil]
  exact ⟨rfl, rfl, rfl, h.symm, rfl⟩

theorem plain (h : Unmoved s t) (hp : PlainMemory s) : PlainMemory t := ⟨h.tiles.trans hp.tiles, h.mem ▸ hp.wf⟩

theorem physByte (h : Unmoved s t) (hp : PlainMemory s) (a : Nat) : t.physByte a = s.physByte a := by
  rw [hp.physByte, (h.plain hp).physByte, h.mem, h.dirty]

end Unmoved

/-- After a dropped tile is gone, no line of its footprint keeps a holder or a copy (R105). -/
def freeLines (pb : Nat) (q : Tile) (s : State) : State :=
  ((((q.footLines pb).foldl State.recall s).tileLeaves pb q).dropReplicas pb).markLines (q.footLines pb)

/-- While no tile is declared, the bytes are the same, wherever they stand, and so are replicas and the current thread. -/
structure SameBytes (s t : State) : Prop where
  plain : PlainMemory t
  byte : ∀ a, t.physByte a = s.physByte a
  replicas : t.replicas = s.replicas
  th : t.th = s.th

namespace SameBytes

variable {s t u : State}

theorem of_unmoved (hp : PlainMemory s) (h : Unmoved s t) : SameBytes s t := ⟨h.plain hp, h.physByte hp, h.replicas, h.th⟩

theorem trans (a : SameBytes s t) (b : SameBytes t u) : SameBytes s u :=
  ⟨b.plain, fun x => (b.byte x).trans (a.byte x), b.replicas.trans a.replicas, b.th.trans a.th⟩

theorem of_writtenBack (hp : PlainMemory s) (h : WrittenBack s t) : SameBytes s t := by
  have ht := h.plain hp
  have hb := h.byte
  obtain ⟨_, _, _, _, rfl⟩ := h.rest
  exact ⟨ht, hb, rfl, rfl⟩

/-- A line recalled (R90): its dirty bytes go to memory. -/
theorem of_recall (hp : PlainMemory s) (line : Nat) : SameBytes s (s.recall line) := by
  unfold State.recall
  dsimp only
  split
  · exact of_unmoved hp (.refl s)
  · have hw : SameBytes s (if (s.lineAt line).state = 2 then s.lineWriteBack line else s) := by
      split
      · exact of_writtenBack hp (WrittenBack.lineWriteBack hp line).1
      · exact of_unmoved hp (.refl s)
    exact hw.trans (of_unmoved hw.plain ((Unmoved.setLine _ line _).trans (.uncache _ line)))

theorem of_recalls (hp : PlainMemory s) (ls : List Nat) : SameBytes s (ls.foldl (fun s l => s.recall l) s) :=
  List.foldlRecOn ls _ (of_unmoved hp (.refl s)) fun _ ht l _ => ht.trans (of_recall ht.plain l)

theorem of_freeLines (hp : PlainMemory s) (hr : s.replicas = []) (pb : Nat) (q : Tile) : SameBytes s (freeLines pb q s) := by
  have h1 := of_recalls hp (q.footLines pb)
  have h2 := h1.trans (of_unmoved h1.plain (.tileLeaves _ pb q))
  have h3 := h2.trans (of_unmoved h2.plain (.dropReplicas (h2.replicas.trans hr) pb))
  exact h3.trans (of_unmoved h3.plain (.markLines _ _))

end SameBytes

/-! A tile declared (R98, R100). -/

/-- With the tile's own memory visible, its bytes are those that the lines had. -/
theorem physByte_of_ownFrame {s : State} {pb : Nat} {t : Tile} (ht : s.tiles = [(pb, t)]) (hg : t.gen = false) (a : Nat) :
    s.physByte a = (mapGet s.dirty a).getD (memByte s.mem a) := by
  have hb : s.backing a = memByte s.mem a := by
    refine backing_of_memory ?_
    rintro ⟨p, hp, hpg⟩
    have hm : p ∈ s.tiles := List.mem_of_find?_eq_some hp
    rw [ht, List.mem_singleton] at hm
    rw [hm, hg] at hpg
    exact Bool.false_ne_true hpg
  rw [State.physByte, hb]
  cases mapGet s.dirty a <;> rfl

/-- The declared tile is the only one, and every byte is as it was. -/
theorem declare_effect {s : State} (hp : PlainMemory s) (hr : s.replicas = []) (pb : Nat) (t : Tile) (hg : t.gen = false) :
    (s.declare pb t).tiles = [(pb, t)] ∧ (s.declare pb t).th = s.th ∧ ∀ a, (s.declare pb t).physByte a = s.physByte a := by
  have hv := (SameBytes.of_recalls hp (t.lines pb)).trans (SameBytes.of_unmoved (SameBytes.of_recalls hp (t.lines pb)).plain
    (Unmoved.tileFill _ pb t))
  unfold State.declare
  dsimp only
  generalize ((t.lines pb).foldl (fun s l => s.recall l) s).tileFill pb t = v at hv
  have hf : Unmoved { v with tiles := mapSet v.tiles pb t, declRecs := mapSet v.declRecs pb t }
      (if t.shad = true then State.clearFrame { v with tiles := mapSet v.tiles pb t, declRecs := mapSet v.declRecs pb t } pb t
        else { v with tiles := mapSet v.tiles pb t, declRecs := mapSet v.declRecs pb t }) := by
    split <;> exact ⟨rfl, rfl, rfl, rfl, rfl⟩
  have hm := hf.trans (Unmoved.markLines _ (t.lines pb))
  have ha := hm.trans (Unmoved.tileArrives (hm.replicas.trans (hv.replicas.trans hr)) pb t t.owner)
  have htiles : mapSet v.tiles pb t = [(pb, t)] := by rw [hv.plain.tiles]; rfl
  refine ⟨ha.tiles.trans htiles, ha.th.trans hv.th, fun a => ?_⟩
  rw [physByte_of_ownFrame (ha.tiles.trans htiles) hg, ha.mem, ha.dirty, ← hv.byte, hv.plain.physByte]

/-! A tile dropped (R100). -/

/-- One tile is declared, and memory is in canonical form. -/
structure OneTile (pb : Nat) (q : Tile) (s : State) : Prop where
  tiles : s.tiles = [(pb, q)]
  wf : s.mem.wf = true

namespace OneTile

variable {pb : Nat} {q : Tile} {s : State}

theorem tileOver_eq (h : OneTile pb q s) {a : Nat} {p : Nat × Tile} (hp : s.tileOver a = some p) :
    p = (pb, q) ∧ q.covers pb a = true := by
  have hm : p ∈ s.tiles := List.mem_of_find?_eq_some hp
  have hc := List.find?_some hp
  rw [h.tiles, List.mem_singleton] at hm
  subst hm
  exact ⟨rfl, (Bool.and_eq_true _ _ ▸ hc).2⟩

theorem le_of_covers {a : Nat} (h : q.covers pb a = true) : pb ≤ a := by
  unfold Tile.covers at h
  rw [Bool.and_eq_true] at h
  exact of_decide_eq_true h.1

/-- The bytes of a tile stand at different places of its shadow frame. -/
theorem framed (h : OneTile pb q s) : FramedMemory s := by
  refine ⟨h.wf, fun a b p r hp hr he => ?_⟩
  obtain ⟨rfl, ha⟩ := h.tileOver_eq hp
  obtain ⟨rfl, hb⟩ := h.tileOver_eq hr
  have h1 := le_of_covers ha
  have h2 := le_of_covers hb
  simp only [Tile.frameByte] at he
  omega

end OneTile

/-- A covered address lies in one of the tile's sectors. -/
theorem sector_of_covers {pb a : Nat} {q : Tile} (h : q.covers pb a = true) : ∃ m ∈ q.sectors pb, m ≤ a ∧ a < m + 16 := by
  have hle := OneTile.le_of_covers h
  simp only [Tile.covers, Bool.and_eq_true, decide_eq_true_eq] at h
  obtain ⟨-, h⟩ := h
  have hmem : ∀ i < q.rows, ∀ j < q.rowq, pb + i * q.pitch + 16 * j ∈ q.sectors pb := fun i hi j hj =>
    List.mem_flatMap.2 ⟨i, List.mem_range.2 hi, List.mem_map.2 ⟨j, List.mem_range.2 hj, rfl⟩⟩
  split at h
  · next h1 =>
    rw [decide_eq_true_eq] at h
    exact ⟨_, hmem 0 (by omega) ((a - pb) / 16) (by omega), by omega, by omega⟩
  · simp only [Bool.and_eq_true, decide_eq_true_eq] at h
    have hd := Nat.div_add_mod (a - pb) q.pitch
    rw [Nat.mul_comm] at hd
    exact ⟨_, hmem _ h.1 ((a - pb) % q.pitch / 16) (by omega), by omega, by omega⟩

/-- Where the rows do not overlap, every byte of a sector is covered. -/
theorem covers_of_sector {pb a m : Nat} {q : Tile} (hr : q.rows = 1 ∨ 16 * q.rowq ≤ q.pitch) (hm : m ∈ q.sectors pb)
    (h1 : m ≤ a) (h2 : a < m + 16) : q.covers pb a = true := by
  obtain ⟨i, hi, hm⟩ := List.mem_flatMap.1 hm
  obtain ⟨j, hj, rfl⟩ := List.mem_map.1 hm
  rw [List.mem_range] at hi hj
  simp only [Tile.covers, Bool.and_eq_true, decide_eq_true_eq]
  refine ⟨by omega, ?_⟩
  split
  · next hone =>
    have hi0 : i = 0 := by omega
    subst hi0
    rw [decide_eq_true_eq]
    omega
  · next hone =>
    have hpitch := hr.resolve_left hone
    have hcomm := Nat.mul_comm i q.pitch
    obtain ⟨k, hk, hoff⟩ : ∃ k, k < q.pitch ∧ a - pb = k + q.pitch * i := ⟨a - (pb + i * q.pitch), by omega, by omega⟩
    rw [hoff, Nat.add_mul_div_left _ _ (by omega), Nat.add_mul_mod_self_left, Nat.div_eq_of_lt hk, Nat.mod_eq_of_lt hk]
    simp only [Bool.and_eq_true, decide_eq_true_eq]
    omega

/-- Bytes of the visible shadow frame copied into the tile's own memory: those at the addresses of `P`. -/
structure FrameCopied (pb : Nat) (q : Tile) (P : Nat → Prop) (s t : State) : Prop where
  rest : ∃ m k, t = { s with mem := m, psect := k }
  wf : t.mem.wf = true
  inside : ∀ a, P a → memByte t.mem a = (mapGet s.shadow (q.frameByte pb a)).getD 0
  outside : ∀ a, ¬P a → memByte t.mem a = memByte s.mem a

namespace FrameCopied

variable {pb : Nat} {q : Tile} {s t : State}

theorem foldl {α : Type} (P : α → Nat → Prop) (f : State → α → State)
    (hf : ∀ s x, s.mem.wf = true → FrameCopied pb q (P x) s (f s x)) (l : List α) :
    ∀ s : State, s.mem.wf = true → FrameCopied pb q (fun a => ∃ x ∈ l, P x a) s (l.foldl f s) := by
  induction l with
  | nil => exact fun s h => ⟨⟨_, _, rfl⟩, h, fun a ha => by simp at ha, fun _ _ => rfl⟩
  | cons x l ih =>
    intro s h
    have h1 := hf s x h
    have h2 := ih _ h1.wf
    have hshadow : (f s x).shadow = s.shadow := by
      obtain ⟨_, _, h⟩ := h1.rest
      rw [h]
    refine ⟨?_, h2.wf, fun a ha => ?_, fun a ha => ?_⟩
    · obtain ⟨_, _, h1⟩ := h1.rest
      obtain ⟨_, _, h2⟩ := h2.rest
      exact ⟨_, _, h2.trans (by rw [h1])⟩
    · by_cases hl : ∃ y ∈ l, P y a
      · exact (h2.inside a hl).trans (by rw [hshadow])
      · refine (h2.outside a hl).trans (h1.inside a ?_)
        obtain ⟨y, hy, hp⟩ := ha
        rcases List.mem_cons.1 hy with rfl | hy
        · exact hp
        · exact absurd ⟨y, hy, hp⟩ hl
    · exact (h2.outside a fun ⟨y, hy, hp⟩ => ha ⟨y, List.mem_cons_of_mem _ hy, hp⟩).trans
        (h1.outside a fun hp => ha ⟨x, List.mem_cons_self, hp⟩)

theorem byte (s : State) (m : Nat) (h : s.mem.wf = true) : FrameCopied pb q (fun a => a = m) s
    { s with mem := memPut s.mem m ((mapGet s.shadow (q.frameByte pb m)).getD 0) } := by
  refine ⟨⟨_, _, rfl⟩, wf_memPut _ _ _ h, fun a ha => ?_, fun a ha => memByte_memPut_ne _ _ _ _ ha⟩
  subst ha
  exact memByte_memPut_same s.mem 0 a _ h

theorem setMark (h : FrameCopied pb q P s t) (m : Nat) (on : Bool) : FrameCopied pb q P s (t.setMark m on) := by
  obtain ⟨_, _, hr⟩ := h.rest
  exact ⟨⟨_, _, by rw [hr]; rfl⟩, h.wf, h.inside, h.outside⟩

/-- The whole frame. -/
theorem frameToMemory (h : s.mem.wf = true) :
    FrameCopied pb q (fun a => ∃ m ∈ q.sectors pb, ∃ i ∈ List.range 16, a = m + i) s (s.frameToMemory pb q) :=
  foldl (fun m a => ∃ i ∈ List.range 16, a = m + i) _ (fun s m hs =>
    setMark (foldl (fun i a => a = m + i) _ (fun s i hs => byte s (m + i) hs) (List.range 16) s hs) _ _) (q.sectors pb) s h

end FrameCopied

/-- The bytes that are seen once no tile is declared: dirty ones, and those of memory. -/
def lineByte (s : State) (a : Nat) : Byte := (mapGet s.dirty a).getD (memByte s.mem a)

/-- Memory, replicas and the current thread of a state whose tile is about to go. -/
structure Settled (s t : State) : Prop where
  wf : t.mem.wf = true
  tiles : t.tiles = s.tiles
  replicas : t.replicas = s.replicas
  th : t.th = s.th

theorem WrittenBack.settled {s t : State} (h : WrittenBack s t) : Settled s t := by
  refine ⟨h.framed.wf, h.tiles, ?_, ?_⟩ <;> (obtain ⟨_, _, _, _, rfl⟩ := h.rest; rfl)

theorem FrameCopied.settled {pb : Nat} {q : Tile} {P : Nat → Prop} {s t : State} (h : FrameCopied pb q P s t) : Settled s t := by
  refine ⟨h.wf, ?_, ?_, ?_⟩ <;> (obtain ⟨_, _, hr⟩ := h.rest; rw [hr])

theorem Settled.trans {s t u : State} (a : Settled s t) (b : Settled t u) : Settled s u :=
  ⟨b.wf, b.tiles.trans a.tiles, b.replicas.trans a.replicas, b.th.trans a.th⟩

section Frames

variable {pb : Nat} {q : Tile} {s : State} (h : OneTile pb q s) (hl : q.tstate ≠ .lost)
include h

/-- The whole tile written back: none of its bytes is dirty. -/
theorem tileWriteBack_effect : WrittenBack s (s.tileWriteBack pb q) ∧
    ∀ m ∈ q.sectors pb, ∀ a, m ≤ a → a < m + 16 → mapGet (s.tileWriteBack pb q).dirty a = none := by
  have hr := WrittenBack.foldl State.writeRequest (fun u l hu => WrittenBack.writeRequest hu l) h.framed (q.lines pb)
  obtain ⟨hb, hc⟩ := WrittenBack.sectors (q.sectors pb) _ hr.framed
  exact ⟨hr.trans hb, hc⟩

include hl in
theorem inShadow_of_covers {a : Nat} (hg : q.gen = true) (hc : q.covers pb a = true) : InShadow s a (pb, q) := by
  have : (q.tstate != .lost) = true := by simpa using hl
  exact ⟨by simp [State.tileOver, h.tiles, hc, this], hg⟩

theorem backing_of_uncovered {a : Nat} (hc : ¬q.covers pb a = true) : s.backing a = memByte s.mem a :=
  backing_of_memory fun ⟨_, hp, _⟩ => hc (h.tileOver_eq hp).2

include hl in
/-- A clean tile's shadow frame copied into its memory: the bytes are seen without the tile as with it. -/
theorem lineByte_frameToMemory (hg : q.gen = true) (hr : q.rows = 1 ∨ 16 * q.rowq ≤ q.pitch)
    (hclean : ∀ m ∈ q.sectors pb, ∀ a, m ≤ a → a < m + 16 → mapGet s.dirty a = none) (a : Nat) :
    lineByte (s.frameToMemory pb q) a = s.physByte a := by
  have hf := FrameCopied.frameToMemory (pb := pb) (q := q) h.wf
  have hd : (s.frameToMemory pb q).dirty = s.dirty := by
    obtain ⟨_, _, hrest⟩ := hf.rest
    rw [hrest]
  unfold lineByte
  rw [hd]
  by_cases hc : q.covers pb a = true
  · obtain ⟨m, hm, h1, h2⟩ := sector_of_covers hc
    have hn := hclean m hm a h1 h2
    rw [hn, physByte_of_clean hn, backing_of_shadow (inShadow_of_covers h hl hg hc)]
    exact hf.inside a ⟨m, hm, a - m, List.mem_range.2 (by omega), by omega⟩
  · have hout : memByte (s.frameToMemory pb q).mem a = memByte s.mem a := by
      refine hf.outside a ?_
      rintro ⟨m, hm, i, hi, rfl⟩
      exact hc (covers_of_sector hr hm (by omega) (by have := List.mem_range.1 hi; omega))
    rw [hout, ← backing_of_uncovered h hc]
    unfold State.physByte
    cases mapGet s.dirty a <;> rfl

/-- A tile's frame made its memory, whichever frame was visible (R100). -/
theorem frameSettled_effect : let t := if q.gen then (s.tileWriteBack pb q).frameToMemory pb q else s.tileWriteBack pb q
    Settled s t ∧ (q.tstate ≠ .lost → (q.rows = 1 ∨ 16 * q.rowq ≤ q.pitch) → ∀ a, lineByte t a = s.physByte a) := by
  obtain ⟨hw, hclean⟩ := tileWriteBack_effect h
  have hone : OneTile pb q (s.tileWriteBack pb q) := ⟨hw.tiles.trans h.tiles, hw.framed.wf⟩
  cases hg : q.gen with
  | true =>
    refine ⟨hw.settled.trans (FrameCopied.frameToMemory hone.wf).settled, fun hl hr a => ?_⟩
    exact (lineByte_frameToMemory hone hl hg hr hclean a).trans (hw.byte a)
  | false =>
    refine ⟨hw.settled, fun _ _ a => ?_⟩
    exact (physByte_of_ownFrame hone.tiles hg a).symm.trans (hw.byte a)

/-- The tile is gone, and unless it was lost its bytes stay. -/
theorem undeclare_effect (hrep : s.replicas = []) : let t := s.undeclare pb q
    t.tiles = [] ∧ t.th = s.th ∧ t.replicas = [] ∧
      (q.tstate ≠ .lost → (q.rows = 1 ∨ 16 * q.rowq ≤ q.pitch) → ∀ a, t.physByte a = s.physByte a) := by
  obtain ⟨v, hv, hbyte, hx⟩ : ∃ v, Settled s v ∧
      (q.tstate ≠ .lost → (q.rows = 1 ∨ 16 * q.rowq ≤ q.pitch) → ∀ a, lineByte v a = s.physByte a) ∧
      s.undeclare pb q = freeLines pb q { v with tiles := mapErase v.tiles pb, declRecs := mapErase v.declRecs pb } := by
    by_cases hl : q.tstate = .lost
    · exact ⟨s, ⟨h.wf, rfl, rfl, rfl⟩, fun hn => absurd hl hn, by simp only [State.undeclare, if_pos hl, freeLines]⟩
    · obtain ⟨h1, h2⟩ := frameSettled_effect h
      exact ⟨_, h1, h2, by simp only [State.undeclare, if_neg hl, freeLines]⟩
  have hp : PlainMemory { v with tiles := mapErase v.tiles pb, declRecs := mapErase v.declRecs pb } :=
    ⟨by simp [hv.tiles, h.tiles, mapErase], hv.wf⟩
  have hb := SameBytes.of_freeLines hp (hv.replicas.trans hrep) pb q
  dsimp only
  rw [hx]
  exact ⟨hb.plain.tiles, hb.th.trans hv.th, hb.replicas.trans (hv.replicas.trans hrep), fun hl hr a =>
    (hb.byte a).trans ((hp.physByte a).trans (hbyte hl hr a))⟩

end Frames

end Sys2Proof.Proofs
end

section
/-! PROOF. TDECL (R64, R320): the halves that it asks for, and the transaction once all are answered. -/

namespace Sys2Proof.Proofs

open Sys2Proof.Machine Sys2Proof.Claims Sys2Proof.Laws

/-! The halves of a tile asked for (R64). -/

theorem mem_halves (t : Tile) (pb h : Nat) : h ∈ t.halves pb ↔ ∃ m ∈ t.sectors pb, halfOf m = h := by
  rw [Tile.halves, List.mem_eraseDups, List.mem_map]

/-- The halves asked for wait for their answers; what was asked for before stays. -/
structure Snooping (s t : State) : Prop where
  rest : ∃ b o g n, t = { s with bisnps := b, outbox := o, holdings := g, th := { s.th with snooped := n } }
  kept : ∀ e ∈ s.bisnps, e ∈ t.bisnps
  asked : (∀ h ∈ s.th.snooped, ∃ e ∈ s.bisnps, e.1 = h) → ∀ h ∈ t.th.snooped, ∃ e ∈ t.bisnps, e.1 = h

namespace Snooping

variable {s t u : State}

theorem refl (s : State) : Snooping s s := ⟨⟨_, _, _, s.th.snooped, rfl⟩, fun _ => id, id⟩

theorem trans (a : Snooping s t) (b : Snooping t u) : Snooping s u := by
  have hk := fun e he => b.kept e (a.kept e he)
  have ha := fun h => b.asked (a.asked h)
  obtain ⟨_, _, _, _, rfl⟩ := a.rest
  obtain ⟨_, _, _, _, hu⟩ := b.rest
  exact ⟨⟨_, _, _, _, hu⟩, hk, ha⟩

/-- A request for a half that is not asked for yet. -/
theorem sendBisnp (s : State) (by' : Requester) (h : Nat) (d : Bool) : Snooping s (s.sendBisnp by' h d) ∧
    (s.sendBisnp by' h d).th = s.th ∧
    (s.bisnps.length < (s.sendBisnp by' h d).bisnps.length → ∃ e ∈ (s.sendBisnp by' h d).bisnps, e.1 = h) := by
  unfold State.sendBisnp
  split
  · exact ⟨refl s, rfl, fun hlt => absurd hlt (Nat.lt_irrefl _)⟩
  · dsimp only
    split
    · unfold State.holdEntry
      split
      · exact ⟨refl s, rfl, fun hlt => absurd hlt (Nat.lt_irrefl _)⟩
      · exact ⟨⟨⟨_, _, _, s.th.snooped, rfl⟩, fun _ => id, id⟩, rfl, fun hlt => absurd hlt (Nat.lt_irrefl _)⟩
    · refine ⟨⟨⟨_, _, _, s.th.snooped, rfl⟩, fun e he => List.mem_append_left _ he, fun ha x hx => ?_⟩, rfl, fun _ => ?_⟩
      · obtain ⟨e, he, hx⟩ := ha x hx
        exact ⟨e, List.mem_append_left _ he, hx⟩
      · exact ⟨_, List.mem_append_right _ (List.mem_singleton.2 rfl), rfl⟩

theorem snoopHalf (s : State) (h : Nat) : Snooping s (s.snoopHalf h) := by
  unfold State.snoopHalf
  split
  · exact refl s
  · obtain ⟨hs, hth, hlen⟩ := sendBisnp s (s.loc, s.th.order) h false
    dsimp only
    split
    · next hlt =>
      refine hs.trans ⟨⟨_, _, _, _, rfl⟩, fun _ => id, fun ha x hx => ?_⟩
      rcases List.mem_append.1 hx with hx | hx
      · exact ha x hx
      · rw [List.mem_singleton.1 hx]
        exact hlen hlt
    · exact hs

theorem foldl (l : List Nat) (s : State) : Snooping s (l.foldl State.snoopHalf s) :=
  List.foldlRecOn l _ (refl s) fun t ht h _ => ht.trans (snoopHalf t h)

end Snooping

/-- The first half is asked for, unless its home's forward egress is stopped. -/
theorem snoopHalf_first (s : State) (h : Nat) (hb : s.bisnps = []) (hn : s.th.snooped = [])
    (hf : s.forwardStopped (homeOf (h * 64)) = false) : (h, s.bisnpPort h, false) ∈ (s.snoopHalf h).bisnps := by
  have hmax : ¬Config.bisnpMax ≤ 0 := by decide
  simp [State.snoopHalf, State.sendBisnp, hb, hn, hf, hmax, State.out, State.onTh]

/-- TDECL before any half is asked for: it waits for one of them. -/
theorem snoopAll_unasked (s : State) (pb : Nat) (t : Tile) (hb : s.bisnps = []) (hn : s.th.snooped = [])
    (hne : t.halves pb ≠ []) : ∃ h u, s.snoopAll pb t = (some (.bisnp h), u) ∧ h ∈ t.halves pb ∧ Snooping s u ∧
      (s.forwardStopped (homeOf (h * 64)) = false → ∃ e ∈ u.bisnps, e.1 = h ∧ e.2.2 = false) := by
  obtain ⟨h, r, hr⟩ := List.exists_cons_of_ne_nil hne
  have hs0 : s.onTh (fun t => { t with snooped := t.snooped.filter fun h => (s.bisnps.any fun p => p.1 == h) || s.hostState h == 0 })
      = s := by
    have : ({ s.th with snooped := [] } : Thread) = s.th := by rw [← hn]
    simp only [State.onTh, hn, List.filter_nil, this]
  have hfind : ∀ f : Nat → Bool, f h = true → (t.halves pb).find? f = some h := fun f hf => by rw [hr, List.find?_cons_of_pos hf]
  have hs := Snooping.foldl (t.halves pb) s
  have hfirst : (!((t.halves pb).foldl State.snoopHalf s).th.snooped.contains h ||
      ((t.halves pb).foldl State.snoopHalf s).bisnps.any fun p => p.1 == h) = true := by
    by_cases hm : h ∈ ((t.halves pb).foldl State.snoopHalf s).th.snooped
    · obtain ⟨e, he, hx⟩ := hs.asked (fun x hx => by rw [hn] at hx; cases hx) h hm
      rw [Bool.or_eq_true, List.any_eq_true]
      exact .inr ⟨e, he, by simp [hx]⟩
    · simp [hm]
  refine ⟨h, (t.halves pb).foldl State.snoopHalf s, ?_, hr ▸ List.mem_cons_self, hs, fun hf => ?_⟩
  · unfold State.snoopAll
    dsimp only
    rw [hs0]
    refine Prod.ext ?_ rfl
    exact congrArg (Option.map Wait.bisnp) (hfind _ hfirst)
  · have h1 := (Snooping.foldl r (s.snoopHalf h)).kept _ (snoopHalf_first s h hb hn hf)
    rw [hr, List.foldl_cons]
    exact ⟨_, h1, rfl, rfl⟩

/-- TDECL after every answer: it waits for none. -/
theorem snoopAll_answered (s : State) (pb : Nat) (t : Tile) (hb : s.bisnps = []) (hh : ∀ h, s.hostState h = 0)
    (ha : ∀ h ∈ t.halves pb, h ∈ s.th.snooped) : s.snoopAll pb t = (none, s) := by
  have hs0 : s.onTh (fun t => { t with snooped := t.snooped.filter fun h => (s.bisnps.any fun p => p.1 == h) || s.hostState h == 0 })
      = s := by
    have : s.th.snooped.filter (fun h => (s.bisnps.any fun p => p.1 == h) || s.hostState h == 0) = s.th.snooped :=
      List.filter_eq_self.2 fun h _ => by simp [hh]
    simp only [State.onTh, this]
  have hs1 : (t.halves pb).foldl State.snoopHalf s = s :=
    List.foldlRecOn (motive := fun u => u = s) (t.halves pb) _ rfl fun u hu h hm => by
      subst hu
      exact if_pos (List.contains_iff_mem.2 (ha h hm))
  unfold State.snoopAll
  dsimp only
  rw [hs0, hs1]
  refine Prod.ext ?_ rfl
  have : (t.halves pb).find? (fun h => !s.th.snooped.contains h || s.bisnps.any fun p => p.1 == h) = none :=
    List.find?_eq_none.2 fun h hm => by simp [hb, ha h hm]
  dsimp only
  rw [this]
  rfl

/-- Nothing of a footprint is held by a split, and no transaction of its lines goes on. -/
theorem declWaits_none (s : State) (pb : Nat) (t : Tile) (hb : s.bisnps = []) (hf : s.fenced = 0) (hw : s.splitWait = none) :
    s.declWaits pb t = none := by
  have hsplit : ∀ m, s.heldBySplit m = false := fun m => by simp [State.heldBySplit, State.behind, hf, hw]
  have hany : (t.sectors pb).any s.heldBySplit = false := List.any_eq_false.2 fun m _ => by simp [hsplit]
  have hfind : (t.lines pb).findSome? s.busyHalf = none := List.findSome?_eq_none_iff.2 fun l _ => by simp [State.busyHalf, hb]
  simp only [State.declWaits, hany, hfind, Option.map_none, Bool.false_eq_true, if_false]

/-! TDECL (R320). -/

section Finish

variable (d : Reg) (pb : Nat) (t : Tile) (s : State)

/-- A home without a tile has an entry for one, and a frame where it needs one. -/
theorem finishDecl_room (ht : s.tiles = []) (hf : t.shad = true → (s.allocFrame pb t).isSome = true) :
    ¬Config.tileMax ≤ (s.tiles.filter fun p => homeOf p.1 == homeOf pb).length ∧
      ∃ f, (if t.shad then s.allocFrame pb t else some 0) = some f := by
  refine ⟨?_, ?_⟩
  · have hmax : ¬Config.tileMax ≤ 0 := by decide
    simpa [ht] using hmax
  · cases hsh : t.shad with
    | false => exact ⟨0, rfl⟩
    | true => exact Option.isSome_iff_exists.1 (hf hsh)

variable (ht : s.tiles = []) (hf : t.shad = true → (s.allocFrame pb t).isSome = true)
include ht hf

theorem finishDecl_of_asking {w : Wait} {u : State} (h : s.snoopAll pb t = (some w, u)) : finishDecl d pb t s = u.park w := by
  obtain ⟨hroom, f, hframe⟩ := finishDecl_room pb t s ht hf
  simp only [finishDecl, hroom, hframe, h, if_false]

theorem finishDecl_of_answered (h : s.snoopAll pb t = (none, s)) (hw : s.declWaits pb t = none) :
    ∃ f, finishDecl d pb t s =
      (((s.onTh fun t => { t with snooped := [] }).declare pb { t with sfrm := f }).setX d 0).adv := by
  obtain ⟨hroom, f, hframe⟩ := finishDecl_room pb t s ht hf
  exact ⟨f, by simp only [finishDecl, hroom, hframe, h, hw, if_false]⟩

end Finish

/-- A sound descriptor of uncovered device memory is declared behind a release (R169). -/
theorem declareAt_released (d : Reg) (va : Word) (z : TileDesc) (pb : Nat) (ns : List CoreId) (s : State) (hq : Quiet s)
    (ho : OpenMemory s) (hr : s.replicas = []) (hz : z.ok = true) (hns : s.resolveNeigh z.neigh = some ns)
    (hdev : s.isDevMem pb = true) (hpage : pb / 65536 = (pb + z.span - 1) / 65536) :
    ∃ u, declareAt d va z pb s = finishDecl d pb (s.tileOf z ns) u ∧ Drained s u ∧ u.th = { s.th with scopeTab := none } := by
  obtain ⟨hlost, -, -, htiles, -⟩ := ho
  obtain ⟨u, hu, hd, hth, -⟩ := withReleaseOf_quiet (some .device) (fun c => levelRank (some .device) > 1 || sockOf c == sockOf s.loc)
    (finishDecl d pb (s.tileOf z ns)) s hq
  refine ⟨u, Eq.trans ?_ hu, hd, hth⟩
  have hhost : (s.isLocal pb && regionOf pb == .host) = false := by
    simp only [State.isDevMem, Bool.and_eq_true, Bool.or_eq_true, beq_iff_eq] at hdev
    rcases hdev.2 with h | h <;> simp [h]
  have hno : ∀ m, s.lostAt m = false := fun m => by simp [State.lostAt, State.behind, hlost]
  have hhalo : s.haloOut pb = false := by simp [State.haloOut, hr]
  simp [declareAt, hz, hns, hpage, hhost, hdev, hno, htiles, hhalo, withRelease]

/-- TDECL reads its descriptor, translates the base, and declares behind a release. -/
theorem runTdecl_reaches (d a : Reg) (s : State) (ha : s.th.regs.rxp a = none) (hq : Quiet s) (hc : Calm s) (hr : s.replicas = [])
    (hcmd : isCmd s.loc = false) (hal : (s.x a).toNat % 64 = 0) (ps : List (Phys × Nat)) (hreach : Reaches s (s.x a) 64 .load ps)
    (z : TileDesc) (hzd : TileDesc.ofBits (spanRead s ps) = z) (p : Phys) (ns : List CoreId)
    (hx : ∀ u, CachesOnly s u → (u.xlate u.asid z.base 1 .tdecl).1 = .ok p) (hz : z.ok = true)
    (hns : s.resolveNeigh z.neigh = some ns) (hdev : s.isDevMem p.pa = true) (hpage : p.pa / 65536 = (p.pa + z.span - 1) / 65536) :
    ∃ u, runTdecl d a s = finishDecl d p.pa (s.tileOf z ns) u ∧ Passed s u ∧
      u.th = { s.th with got := [], scopeTab := none } := by
  have hheld : s.th.held = [] := hq.1
  obtain ⟨t, ht, hs⟩ := loadThen_calm (s.x a) 64 (fun v s => 
      let desc := TileDesc.ofBits v
      match s.xlate s.asid desc.base 1 .tdecl with
      | (.error f, s) => s.failX desc.base true f
      | (.ok p, s) => declareAt d desc.base desc p.pa s) s ps hc hreach
  have hwalk : SameWalk t t.useUp := ⟨rfl, rfl, rfl, rfl, rfl, rfl⟩
  obtain ⟨hp, -⟩ := xlate_same hwalk z.base 1 .tdecl p (hx t ⟨hs.rest, hs.core, hs.slots, hs.host, hs.whole⟩)
  have hseen := seen_xlate t.useUp z.base 1 .tdecl hp
  have hquiet := quiet_seen hseen (quiet_useUp (quiet_seen hs hq))
  have hpass := (Passed.of_seen hs).trans ((Passed.useUp t).trans (Passed.of_seen hseen))
  have hthx : (t.useUp.xlate t.useUp.asid z.base 1 .tdecl).2.th = { s.th with got := [] } := by rw [hseen.th, useUp_th, hs.th]
  have hrun : runTdecl d a s = declareAt d z.base z p.pa (t.useUp.xlate t.useUp.asid z.base 1 .tdecl).2 := by
    unfold runTdecl
    rw [consumeX_clean [a] _ s (by simpa using ha), guardLatent_none _ s hheld, if_neg (by simp [hal, hcmd])]
    refine ht.trans ?_
    dsimp only
    rw [hzd]
    revert hp
    generalize t.useUp.xlate t.useUp.asid z.base 1 .tdecl = r
    obtain ⟨o, x⟩ := r
    intro hp
    have hp : o = .ok p := hp
    subst hp
    rfl
  rw [hrun]
  generalize (t.useUp.xlate t.useUp.asid z.base 1 .tdecl).2 = x at hquiet hpass hthx
  obtain ⟨u, hu, hd, hth⟩ := declareAt_released d z.base z p.pa ns x hquiet (hpass.openMemory hc.1)
    (hpass.memory.2.2.1.trans hr) hz ((hpass.resolveNeigh _).trans hns) ((hpass.isDevMem _).trans hdev) hpage
  refine ⟨u, by rw [hu, hpass.tileOf], hpass.trans (.of_drained hd), ?_⟩
  rw [hth, hthx]

/-- A tile form that does not wait for write counters ends as it is (R319). -/
theorem tileForm_eq (k : State → State) (s : State) (h : ∀ l, (k s).th.status ≠ .parked (.counters l)) : tileForm k s = k s := by
  unfold tileForm
  dsimp only
  split
  · next l hl => exact absurd hl (h l)
  · rfl

theorem tileForm_of_ready (k : State → State) (s : State) (h : (k s).th.status = .ready) : tileForm k s = k s :=
  tileForm_eq k s fun l => by rw [h]; exact nofun

/-- A sound descriptor's tile covers some half. -/
theorem halves_of_sound {z : TileDesc} (hz : z.ok = true) (s : State) (ns : List CoreId) (pb : Nat) :
    (s.tileOf z ns).halves pb ≠ [] := by
  simp only [TileDesc.ok, Bool.and_eq_true, decide_eq_true_eq] at hz
  have hrows : 0 < z.rows ∧ 0 < z.rowq := by omega
  refine List.ne_nil_of_mem ((mem_halves _ pb (halfOf (pb + 0 * z.pitch + 16 * 0))).2 ⟨_, ?_, rfl⟩)
  exact List.mem_flatMap.2 ⟨0, List.mem_range.2 hrows.1, List.mem_map.2 ⟨0, List.mem_range.2 hrows.2, rfl⟩⟩

section Declaring

variable {d a : Reg} {pb : Nat} {t : Tile} {s u : State} (hrun : runTdecl d a s = finishDecl d pb t u) (hp : Passed s u)
  (hth : u.th = { s.th with got := [], scopeTab := none }) (ho : OpenMemory s)
  (hframe : t.shad = true → (s.allocFrame pb t).isSome = true)
include hrun hp hth ho hframe

/-- Before its snoops TDECL asks for every half, and waits. -/
theorem tdecl_unasked (hne : t.halves pb ≠ []) (hn : s.th.snooped = []) :
    ∃ v h, exec (.tdecl d a) s = .next v ∧ v.th.status = .parked (.bisnp h) ∧ h ∈ t.halves pb ∧ v.th.regs = s.th.regs ∧
      v.th.pc = s.th.pc ∧ v.tiles = [] ∧ (∀ m, v.physByte m = s.physByte m) ∧
      (s.forwardStopped (homeOf (h * 64)) = false → ∃ e ∈ v.bisnps, e.1 = h ∧ e.2.2 = false) := by
  obtain ⟨htiles, -, -, -, -, hlinks⟩ := hp.memory
  obtain ⟨-, -, -, o4, -, o6, -⟩ := hp.openMemory ho
  obtain ⟨h, v, hv, hm, hs, hsent⟩ := snoopAll_unasked u pb t o6 (by rw [hth]; exact hn) hne
  have hfin := finishDecl_of_asking d pb t u o4 (fun hsh => by rw [hp.allocFrame]; exact hframe hsh) hv
  have hx : exec (.tdecl d a) s = .next (v.park (.bisnp h)) := by
    refine congrArg Host.Outcome.next ?_
    rw [tileForm_eq _ _ (by rw [hrun, hfin]; exact fun _ => nofun), hrun, hfin]
  have hfs : u.forwardStopped = s.forwardStopped := by unfold State.forwardStopped; rw [hlinks]
  rw [hfs] at hsent
  have hbyte := hp.physByte
  obtain ⟨b, o, g, n, hrest⟩ := hs.rest
  refine ⟨_, h, hx, rfl, hm, ?_, ?_, ?_, fun m => (hbyte m).symm ▸ ?_, hsent⟩
  · show v.th.regs = _
    rw [hrest]
    show u.th.regs = _
    rw [hth]
  · show v.th.pc = _
    rw [hrest]
    show u.th.pc = _
    rw [hth]
  · show v.tiles = _
    rw [hrest]
    exact o4
  · rw [hrest]
    rfl

/-- After every answer TDECL declares the tile. -/
theorem tdecl_answered (hwf : s.mem.wf = true) (hr : s.replicas = []) (hready : s.th.status = .ready) (hg : t.gen = false)
    (ha : ∀ h ∈ t.halves pb, h ∈ s.th.snooped) :
    ∃ v f, exec (.tdecl d a) s = .next v ∧ v.th.pc = s.th.pc + 4 ∧ v.th.regs = s.th.regs.wx d 0 ∧
      v.tiles = [(pb, { t with sfrm := f })] ∧ ∀ m, v.physByte m = s.physByte m := by
  obtain ⟨-, hmem, hrep, -, -, -⟩ := hp.memory
  obtain ⟨-, o2, o3, o4, -, o6, o7, -⟩ := hp.openMemory ho
  obtain ⟨f, hfin⟩ := finishDecl_of_answered d pb t u o4 (fun hsh => by rw [hp.allocFrame]; exact hframe hsh)
    (snoopAll_answered u pb t o6 o7 (by rw [hth]; exact ha)) (declWaits_none u pb t o6 o2 o3)
  have hplain : PlainMemory (u.onTh fun t => { t with snooped := [] }) := ⟨o4, (congrArg Memory.wf hmem).trans hwf⟩
  obtain ⟨h1, h2, h3⟩ := declare_effect hplain (hrep.trans hr) pb { t with sfrm := f } hg
  have hbyte : ∀ m, (u.onTh fun t => { t with snooped := [] }).physByte m = s.physByte m := hp.physByte
  have hregs : (u.onTh fun t => { t with snooped := [] }).th.regs = s.th.regs := by
    show u.th.regs = _
    rw [hth]
  have hpc : (u.onTh fun t => { t with snooped := [] }).th.pc = s.th.pc := by
    show u.th.pc = _
    rw [hth]
  have hst : (u.onTh fun t => { t with snooped := [] }).th.status = s.th.status := by
    show u.th.status = _
    rw [hth]
  rw [← h2] at hregs hpc hst
  generalize (u.onTh fun t => { t with snooped := [] }).declare pb { t with sfrm := f } = v at h1 h3 hfin hregs hpc hst
  have hstatus : (runTdecl d a s).th.status = .ready := by
    rw [hrun, hfin, setX_adv_th]
    exact hst.trans hready
  have hx : exec (.tdecl d a) s = .next (runTdecl d a s) := congrArg Host.Outcome.next (tileForm_of_ready _ _ hstatus)
  rw [hrun, hfin] at hx
  refine ⟨_, f, hx, ?_, ?_, h1, fun m => (h3 m).trans (hbyte m)⟩
  · rw [setX_adv_th, hpc]
  · rw [setX_adv_th, hregs]

end Declaring

end Sys2Proof.Proofs
end

section
/-! PROOF. The forms that name a declared tile (R321): TDROP, TFWD and PUBL. -/

namespace Sys2Proof.Proofs

open Sys2Proof.Machine Sys2Proof.Claims Sys2Proof.Laws

/-! The tile that a form names (R319). -/

section Named

variable {a : Reg} {s : State} {p : Phys} {q : Tile} (hx : (s.xlate s.asid (s.x a) 1 .load).1 = .ok p)
  (ht : s.tiles = [(p.pa, q)])
include hx ht

/-- A tile of the thread's context that is not in forward is the form's. -/
theorem tileThen_named (k : Nat → Tile → State → State) (hc : q.ctx = s.th.ctx) (hf : s.fenced = 0) (hw : s.splitWait = none)
    (hn : q.tstate ≠ .inForward) : tileThen a k s = k p.pa q (s.xlate s.asid (s.x a) 1 .load).2 := by
  have hs := seen_xlate s (s.x a) 1 .load hx
  revert hx hs
  unfold tileThen
  dsimp only
  generalize s.xlate s.asid (s.x a) 1 .load = r
  obtain ⟨o, u⟩ := r
  intro hx hs
  replace hx : o = .ok p := hx
  replace hs : Seen s u := hs
  subst hx
  have hget : mapGet u.tiles p.pa = some q := by simp [hs.tiles, ht, mapGet]
  have hsplit : u.heldBySplit p.pa = false := by simp [State.heldBySplit, State.behind, hs.fenced, hs.splitWait, hf, hw]
  have hctx : ¬q.ctx ≠ u.th.ctx := by simp [hs.th, hc]
  simp only [hget, if_neg hctx, hsplit, if_neg hn, Bool.false_eq_true, if_false]

/-- The form's own release has nothing to wait for, and its tile is still declared. -/
theorem released_stillTile (l : Option Level) (k : Tile → State → State) (hq : Quiet s) :
    ∃ u, withRelease l (stillTile a p.pa k) (s.xlate s.asid (s.x a) 1 .load).2 = k q u ∧ Passed s u ∧ Keeps s u ∧
      u.th = { s.th with scopeTab := none } ∧ u.agenda = (s.xlate s.asid (s.x a) 1 .load).2.agenda := by
  have hs := seen_xlate s (s.x a) 1 .load hx
  generalize (s.xlate s.asid (s.x a) 1 .load).2 = v at hs
  obtain ⟨u, hu, hd, hth, -⟩ := withReleaseOf_quiet l (fun c => levelRank l > 1 || sockOf c == sockOf v.loc)
    (stillTile a p.pa k) v (quiet_seen hs hq)
  have hget : mapGet u.tiles p.pa = some q := by simp [hd.tiles, hs.tiles, ht, mapGet]
  refine ⟨u, ?_, (Passed.of_seen hs).trans (.of_drained hd), keeps_trans (keeps_seen hs) hd.keeps, by rw [hth, hs.th], hd.agenda⟩
  refine Eq.trans hu ?_
  simp only [stillTile, hget]

end Named

/-- A tile in forward to a core (R101). -/
def toward (q : Tile) (c : CoreId) : Tile :=
  { q with tstate := .inForward, ftgt := c, prev := q.tstate, prevOwner := q.owner }

/-- A tile in forward covers what it covered, and stands where it stood. -/
theorem physByte_toward {s : State} {pb : Nat} {q : Tile} (ht : s.tiles = [(pb, q)]) (hl : q.tstate ≠ .lost) (c : CoreId)
    (m : Map Tile) (a : Nat) : ({ s with tiles := [(pb, toward q c)], declRecs := m } : State).physByte a = s.physByte a := by
  refine physByte_congr rfl ?_
  have hcov : (toward q c).covers pb a = q.covers pb a := rfl
  have hst : ((toward q c).tstate != .lost) = true := rfl
  have hl' : (q.tstate != .lost) = true := by simpa using hl
  cases hc : q.covers pb a with
  | true =>
    have h1 : s.tileOver a = some (pb, q) := by simp [State.tileOver, ht, hl', hc]
    have h2 : ({ s with tiles := [(pb, toward q c)], declRecs := m } : State).tileOver a = some (pb, toward q c) := by
      simp [State.tileOver, hst, hcov, hc]
    simp only [State.backing, h1, h2]
    rfl
  | false =>
    have h1 : s.tileOver a = none := by simp [State.tileOver, ht, hc]
    have h2 : ({ s with tiles := [(pb, toward q c)], declRecs := m } : State).tileOver a = none := by
      simp [State.tileOver, hcov, hc]
    simp only [State.backing, h1, h2]

/-- A push starts (R101). -/
theorem forward_effect {s : State} {pb : Nat} {q : Tile} (ht : s.tiles = [(pb, q)]) (hl : q.tstate ≠ .lost) (va : Word)
    (c : CoreId) : let t := s.forward va pb q c
    t.th = { s.th with status := .parked (.tfwd pb va) } ∧ Keeps s t ∧ t.agenda = s.agenda ++ [.tilePushAck pb] ∧
      t.tiles = [(pb, toward q c)] := by
  have hset : ∀ x, mapSet s.tiles pb x = [(pb, x)] := fun x => by simp [ht, mapSet]
  unfold State.forward
  simp only [hset]
  generalize (match mapGet s.declRecs pb with
    | some r => mapSet s.declRecs pb { r with ftgt := c }
    | none => s.declRecs) = m
  refine ⟨rfl, ?_, rfl, rfl⟩
  refine keeps_trans (t := { s with tiles := [(pb, toward q c)], declRecs := m })
    ⟨⟨rfl, rfl, physByte_toward ht hl c m, fun _ _ _ => rfl, fun _ => rfl⟩, fun _ => ⟨rfl, rfl⟩⟩ ?_
  exact keeps_trans (keeps_th _ _) (keeps_later _ _)

section Forms

variable {a b : Reg} {s : State} {p : Phys} {q : Tile} (hx : (s.xlate s.asid (s.x a) 1 .load).1 = .ok p)
  (ht : s.tiles = [(p.pa, q)]) (hc : q.ctx = s.th.ctx) (hf : s.fenced = 0) (hw : s.splitWait = none)
  (hn : q.tstate ≠ .inForward) (hq : Quiet s) (ha : s.th.regs.rxp a = none) (hready : s.th.status = .ready)
include hx ht hc hf hw hn hq ha

theorem runTdrop_eq : ∃ u, runTdrop a s = (if (u.undeclare p.pa q).haloOut p.pa then (u.undeclare p.pa q).park (.tdrop p.pa)
      else (u.undeclare p.pa q).adv) ∧ Passed s u ∧ u.th = { s.th with scopeTab := none } := by
  obtain ⟨u, hu, hp, -, hth, -⟩ := released_stillTile hx ht (some .device) (fun t s =>
    let s := s.undeclare p.pa t
    if s.haloOut p.pa then s.park (.tdrop p.pa) else s.adv) hq
  refine ⟨u, ?_, hp, hth⟩
  unfold runTdrop
  rw [consumeX_clean [a] _ s (by simpa using ha), guardLatent_none _ s hq.1, tileThen_named hx ht _ hc hf hw hn]
  exact hu

theorem publ_eq (hs : q.shad = true) (hl : q.tstate ≠ .lost) : ∃ u, runPubl a s =
      (if q.tstate = .shadowed then (u.park (.publ p.pa false)).later (.publGenToggle p.pa) else u.adv) ∧ Passed s u ∧
      Keeps s u ∧ u.th = { s.th with scopeTab := none } ∧ u.agenda = (s.xlate s.asid (s.x a) 1 .load).2.agenda := by
  obtain ⟨u, hu, h⟩ := released_stillTile hx ht (some .host) (fun t s =>
    if t.tstate = .shadowed then (s.park (.publ p.pa false)).later (.publGenToggle p.pa) else s.adv) hq
  refine ⟨u, ?_, h⟩
  unfold runPubl
  rw [consumeX_clean [a] _ s (by simpa using ha), guardLatent_none _ s hq.1]
  dsimp only
  rw [tileThen_named hx ht _ hc hf hw hn, if_neg (by simp [hs, hl])]
  exact hu

include hready

/-- TDROP ends the tile. -/
theorem tdrop_effect (hwf : s.mem.wf = true) (hr : s.replicas = []) :
    ∃ t, exec (.tdrop a) s = .next t ∧ t.th.pc = s.th.pc + 4 ∧ t.th.regs = s.th.regs ∧ t.tiles = [] ∧
      (q.tstate ≠ .lost → (q.rows = 1 ∨ 16 * q.rowq ≤ q.pitch) → ∀ m, t.physByte m = s.physByte m) := by
  obtain ⟨u, hu, hp, hth⟩ := runTdrop_eq hx ht hc hf hw hn hq ha
  obtain ⟨htiles, hmem, hrep, -⟩ := hp.memory
  obtain ⟨h1, h2, h3, h4⟩ := undeclare_effect (s := u) (pb := p.pa) (q := q) ⟨htiles.trans ht, hmem ▸ hwf⟩ (hrep.trans hr)
  have hbyte := hp.physByte
  rw [hth] at h2
  generalize u.undeclare p.pa q = v at hu h1 h2 h3 h4
  have hhalo : ¬v.haloOut p.pa = true := by simp [State.haloOut, h3]
  rw [if_neg hhalo] at hu
  have hx' : exec (.tdrop a) s = .next v.adv := by
    refine congrArg Host.Outcome.next ?_
    rw [tileForm_of_ready _ _ (by rw [hu]; exact (congrArg Thread.status h2).trans hready), hu]
  refine ⟨_, hx', ?_, ?_, h1, fun hl ho m => (h4 hl ho m).trans (hbyte m)⟩
  · show v.th.pc + 4 = _
    rw [h2]
  · show v.th.regs = _
    rw [h2]

section Tfwd

variable {c : CoreId} (hb : s.th.regs.rxp b = none) (hlog : s.logical (s.x b).toNat = some c)
  (hm : q.tstate = .home ∨ (q.tstate = .owned ∧ q.owner = s.loc))
include hb hlog hm

omit hready in
theorem runTfwd_eq : ∃ u, runTfwd a b s =
      (if q.tstate == .owned && c == s.loc then u.adv else u.forward (s.x a) p.pa q c) ∧ Passed s u ∧
      Keeps s u ∧ u.th = { s.th with scopeTab := none } ∧ u.agenda = (s.xlate s.asid (s.x a) 1 .load).2.agenda := by
  have hs := seen_xlate s (s.x a) 1 .load hx
  have hmay : ∀ u : State, u.loc = s.loc → u.mayForward q = true := fun u hl => by
    rcases hm with h | ⟨h, ho⟩ <;> simp [State.mayForward, h, hl]
    exact ho
  obtain ⟨u, hu, hp, h⟩ := released_stillTile hx ht (some (if sockOf c = sockOf s.loc then .near else .device)) (fun t u =>
    if !u.mayForward t then u.parkFault 0x0C (s.x a) false p.pa 0
    else if t.tstate == .owned && c == u.loc then u.adv
    else u.forward (s.x a) p.pa t c) hq
  have hloc : u.loc = s.loc := hp.memory.2.2.2.1
  refine ⟨u, ?_, hp, h⟩
  unfold runTfwd
  rw [consumeX_clean [a, b] _ s (by simp [ha, hb]), guardLatent_none _ s hq.1]
  dsimp only
  rw [tileThen_named hx ht _ hc hf hw hn]
  have hlog' : (s.xlate s.asid (s.x a) 1 .load).2.logical ((s.xlate s.asid (s.x a) 1 .load).2.x b).toNat = some c := by
    rw [(Passed.of_seen hs).logical, State.x, hs.th]
    exact hlog
  simp only [hlog']
  rw [if_pos (hmay _ hs.loc), hs.loc]
  refine hu.trans ?_
  rw [hmay u hloc, hloc]
  rfl

/-- TFWD to the core that owns the tile is a release. -/
theorem tfwd_of_owner (ho : q.tstate = .owned ∧ c = s.loc) :
    ∃ t, exec (.tfwd a b) s = .next t ∧ t.th = { s.th with pc := s.th.pc + 4, scopeTab := none } ∧ Keeps s t ∧
      t.tiles = s.tiles := by
  obtain ⟨u, hu, hp, hk, hth, -⟩ := runTfwd_eq hx ht hc hf hw hn hq ha hb hlog hm
  rw [if_pos (by simp [ho.1, ho.2])] at hu
  have hx' : exec (.tfwd a b) s = .next u.adv := by
    refine congrArg Host.Outcome.next ?_
    rw [tileForm_of_ready _ _ (by rw [hu]; exact (congrArg Thread.status hth).trans hready), hu]
  refine ⟨_, hx', ?_, keeps_trans hk (keeps_adv u), hp.memory.1⟩
  show ({ u.th with pc := u.th.pc + 4 } : Thread) = _
  rw [hth]

omit hready in
/-- TFWD to another core starts a push. -/
theorem tfwd_of_other (ho : ¬(q.tstate = .owned ∧ c = s.loc)) :
    ∃ t, exec (.tfwd a b) s = .next t ∧ t.th = { s.th with status := .parked (.tfwd p.pa (s.x a)), scopeTab := none } ∧
      Keeps s t ∧ t.agenda = (s.xlate s.asid (s.x a) 1 .load).2.agenda ++ [.tilePushAck p.pa] ∧
      t.tiles = [(p.pa, toward q c)] := by
  have hl : q.tstate ≠ .lost := by rcases hm with h | h <;> simp [h]
  obtain ⟨u, hu, hp, hk, hth, hag⟩ := runTfwd_eq hx ht hc hf hw hn hq ha hb hlog hm
  obtain ⟨h1, h2, h3, h4⟩ := forward_effect (hp.memory.1.trans ht) hl (s.x a) c
  rw [if_neg (by simpa using ho)] at hu
  rw [hth] at h1
  generalize u.forward (s.x a) p.pa q c = v at hu h1 h2 h3 h4
  have hx' : exec (.tfwd a b) s = .next v := by
    refine congrArg Host.Outcome.next ?_
    rw [tileForm_eq _ _ (by rw [hu, h1]; exact fun _ => nofun), hu]
  exact ⟨v, hx', h1, keeps_trans hk h2, by rw [h3, hag], h4⟩

end Tfwd

/-- PUBL of a tile whose shadow frame holds nothing is its release. -/
theorem publ_of_unshadowed (hs : q.shad = true) (ho : q.tstate = .owned ∨ q.tstate = .home) :
    ∃ t, exec (.publ a) s = .next t ∧ t.th = { s.th with pc := s.th.pc + 4, scopeTab := none } ∧ Keeps s t ∧ t.tiles = s.tiles := by
  have hl : q.tstate ≠ .lost ∧ q.tstate ≠ .shadowed := by rcases ho with h | h <;> simp [h]
  obtain ⟨u, hu, hp, hk, hth, -⟩ := publ_eq hx ht hc hf hw hn hq ha hs hl.1
  rw [if_neg hl.2] at hu
  have hx' : exec (.publ a) s = .next u.adv := by
    refine congrArg Host.Outcome.next ?_
    rw [tileForm_of_ready _ _ (by rw [hu]; exact (congrArg Thread.status hth).trans hready), hu]
  refine ⟨_, hx', ?_, keeps_trans hk (keeps_adv u), hp.memory.1⟩
  show ({ u.th with pc := u.th.pc + 4 } : Thread) = _
  rw [hth]

omit hready in
/-- PUBL of a shadowed tile waits for the toggle. -/
theorem publ_of_shadowed (hs : q.shad = true) (ho : q.tstate = .shadowed) :
    ∃ t, exec (.publ a) s = .next t ∧ t.th = { s.th with status := .parked (.publ p.pa false), scopeTab := none } ∧ Keeps s t ∧
      t.agenda = (s.xlate s.asid (s.x a) 1 .load).2.agenda ++ [.publGenToggle p.pa] := by
  obtain ⟨u, hu, hp, hk, hth, hag⟩ := publ_eq hx ht hc hf hw hn hq ha hs (by simp [ho])
  rw [if_pos ho] at hu
  have hx' : exec (.publ a) s = .next ((u.park (.publ p.pa false)).later (.publGenToggle p.pa)) := by
    refine congrArg Host.Outcome.next ?_
    rw [tileForm_eq _ _ (by rw [hu]; exact fun _ => nofun), hu]
  refine ⟨_, hx', ?_, keeps_trans hk (keeps_trans (keeps_th u _) (keeps_later _ _)), congrArg (· ++ _) hag⟩
  show ({ u.th with status := .parked (.publ p.pa false) } : Thread) = _
  rw [hth]

end Forms

/-- Settles O26: TDECL by its snoops, and the other forms by what their own release leaves. -/
theorem tileResults : Obligations.TileResults := by
  unfold Obligations.TileResults
  intro d a b s hq hwf hclean hr hw hf hready
  have ha := hclean a (by simp)
  have hb := hclean b (by simp)
  refine ⟨?_, ?_⟩
  · intro hcmd hc hal ps hreach z p ns hx hz hns hdev hpage hframe hs
    obtain ⟨u, hrun, hp, hth⟩ := runTdecl_reaches d a s ha hq hc hr hcmd hal ps hreach z rfl p ns hx hz hns hdev hpage
    refine ⟨fun hn => ?_, fun hall => ?_⟩
    · obtain ⟨t, h, hx', h1, h2, h3, h4, h5, h6, h7⟩ :=
        tdecl_unasked hrun hp hth hc.1 hframe (halves_of_sound hz s ns p.pa) hn
      exact ⟨t, h, hx', h1, h2, h3, h4, h5, h6, h7⟩
    · obtain ⟨t, f, hx', h1, h2, h3, h4⟩ := tdecl_answered hrun hp hth hc.1 hframe hwf hr hready rfl hall
      exact ⟨t, _, hx', h1, h2, h3, rfl, rfl, rfl, rfl, rfl, rfl, rfl, rfl, rfl, h4⟩
  · intro p q hx ht hc hn
    refine ⟨tdrop_effect hx ht hc hf hw hn hq ha hready hwf hr, fun c hlog hm => ⟨fun ho => ?_, fun ho => ?_⟩, fun hs ho => ?_,
      fun hs ho => ?_⟩
    · exact tfwd_of_owner hx ht hc hf hw hn hq ha hready hb hlog hm ho
    · exact tfwd_of_other hx ht hc hf hw hn hq ha hb hlog hm ho
    · exact publ_of_unshadowed hx ht hc hf hw hn hq ha hready hs ho
    · exact publ_of_shadowed hx ht hc hf hw hn hq ha hs ho

end Sys2Proof.Proofs
end

section
/-! PROOF. A publication whose halo reads overlap (R102, R103): the statement about tiles fails without R95's condition on the pitch. -/

namespace Sys2Proof.Proofs

open Sys2Proof.Machine Sys2Proof.Claims Sys2Proof.Laws

/-- A shadowed tile of two rows of one sector. Its rows stand 8 bytes apart, which R95 (the pitch is a multiple of 16) forbids
a declaration but no hypothesis of the statement excludes; all of it is right halo, for a neighbour on die 1. -/
def tightTile : Tile where
  tstate := .shadowed
  gen := true
  shad := true
  rows := 2
  rowq := 1
  pitch := 8
  owner := 0
  ftgt := 0
  dcore := 0
  ctx := 0
  sfrm := 0
  ht := 0
  hb := 0
  hl := 0
  hr := 1
  fmt := 0
  neighbours := [64]
  prev := .home
  prevOwner := 0

/-- The tile at 0x30040 (home die 0), whose first byte holds 1. -/
def tightState : State := { State.reset with
  mem := [(0x30040, 1)]
  tiles := [(0x30040, tightTile)] }

/-- Both rows' sectors are in the halo and have the same sector number, but after the toggle their bytes differ. -/
theorem tightState_published : ∃ t, exec (.publGenToggle 0x30040) tightState = .next t ∧
    t.physRead 0x30040 16 = 1 ∧ t.physRead 0x30048 16 = 0 :=
  ⟨_, rfl, by decide +kernel, by decide +kernel⟩

/-- Refutes O47: a neighbour's replica cannot hold the bytes of two halo sectors that have the same sector number. The tile of
`tightState`, with a pitch that is no multiple of 16 (R95), has two such sectors, with different bytes. -/
theorem not_tileEvents : ¬ Obligations.TileEvents := by
  unfold Obligations.TileEvents
  intro h
  obtain ⟨-, -, -, -, -, -, hpub, -⟩ := h tightState 0 0 0 0x30040 0 0 0 tightTile
  obtain ⟨t, ht, -, -, ⟨r, -, -, -, -, hcopy⟩, -⟩ :=
    hpub 64 (by decide) rfl rfl (by decide) ⟨0x30040, by decide, by decide⟩
  obtain ⟨u, hu, hfirst, hsecond⟩ := tightState_published
  obtain rfl : t = u := Host.Outcome.next.inj (ht.symm.trans hu)
  have hone := hcopy 0x30040 (by decide) (by decide)
  have hzero := hcopy 0x30048 (by decide) (by decide)
  rw [hfirst] at hone
  rw [hsecond] at hzero
  have : some (BitVec.ofNat 128 1) = some (BitVec.ofNat 128 0) := hone.symm.trans hzero
  exact absurd this (by decide)

end Sys2Proof.Proofs
end

section
/-! PROOF. What the homes and the writers of fault queues leave alone (R90, R100, R132, R133): a thread that waits behind a fault
queue, the launches, the notices, the entries that wait and the requests that are outstanding. -/

namespace Sys2Proof.Proofs

open Sys2Proof.Machine Sys2Proof.Claims Sys2Proof.Laws

/-! The relation. -/

/-- A thread's wait for the space of a fault queue, or for an acknowledgement (R127, R132). -/
def atQueue : Wait → Prop
  | .fault | .fqSpace _ => True
  | _ => False

/-- A thread's own work: what it is doing, where it stands, and the entries that it holds. -/
structure SameWork (x y : Thread) : Prop where
  status : y.status = x.status
  pc : y.pc = x.pc
  regs : y.regs = x.regs
  held : y.held = x.held
  log : y.log = x.log

/-- While a thread waits behind a fault queue, its work stays. -/
def Rests (x y : Thread) : Prop := ∀ w, x.status = .parked w → atQueue w → SameWork x y

namespace Rests

variable {x y z : Thread}

theorem of_work (h : SameWork x y) : Rests x y := fun _ _ _ => h

theorem refl (x : Thread) : Rests x x := of_work ⟨rfl, rfl, rfl, rfl, rfl⟩

theorem trans (a : Rests x y) (b : Rests y z) : Rests x z := fun w hw hq => by
  obtain ⟨a1, a2, a3, a4, a5⟩ := a w hw hq
  obtain ⟨b1, b2, b3, b4, b5⟩ := b w (a1.trans hw) hq
  exact ⟨b1.trans a1, b2.trans a2, b3.trans a3, b4.trans a4, b5.trans a5⟩

end Rests

/-- A watch that triggers (R324) does not concern a thread that waits behind a fault queue. -/
theorem rests_trigger (line : Nat) (x : Thread) : Rests x (x.trigger line) := by
  intro w hw hq
  have hjoin : rejoin line x = x := by
    cases w <;> simp_all [rejoin, atQueue]
  have hwait : ∀ v, ({ x with watch := v } : Thread).checkWaitev = { x with watch := v } := fun v => by
    cases w <;> simp_all [Thread.checkWaitev, atQueue]
  rcases trigger_cases line x with h | ⟨v, h⟩
  · rw [h, hjoin]
    exact ⟨rfl, rfl, rfl, rfl, rfl⟩
  · rw [h, hjoin, hwait]
    exact ⟨rfl, rfl, rfl, rfl, rfl⟩

/-- Every thread of a core that waits behind a fault queue rests. -/
def RestsCore (k k' : Core) : Prop := ∀ i : Fin 8, Rests k.slots[i] k'.slots[i]

theorem RestsCore.of_slots {k k' : Core} (h : k'.slots = k.slots) : RestsCore k k' := fun i => by rw [h]; exact .refl _

/-- What a home does not touch. -/
def aloof (s : State) := (s.loc, s.slot, s.launches, s.notices, s.fqWait, s.outstanding)

/-- Work of a home, or of what writes into a fault queue. -/
structure HomeWork (s t : State) : Prop where
  rest : aloof t = aloof s
  core : ∀ c, RestsCore (s.getCore c) (t.getCore c)

namespace HomeWork

variable {s t u : State}

theorem of_cores (h : aloof t = aloof s) (hc : ∀ c, t.getCore c = s.getCore c) : HomeWork s t :=
  ⟨h, fun c => .of_slots (by rw [hc])⟩

theorem refl (s : State) : HomeWork s s := of_cores rfl fun _ => rfl

theorem trans (a : HomeWork s t) (b : HomeWork t u) : HomeWork s u :=
  ⟨b.rest.trans a.rest, fun c i => (a.core c i).trans (b.core c i)⟩

theorem foldl {α : Type} (f : State → α → State) (h : ∀ s a, HomeWork s (f s a)) (l : List α) (s : State) :
    HomeWork s (l.foldl f s) :=
  List.foldlRecOn l f (refl s) fun t ht a _ => ht.trans (h t a)

theorem ite (c : Prop) [Decidable c] (h : HomeWork s t) (h' : HomeWork s u) : HomeWork s (if c then t else u) := by
  split
  · exact h
  · exact h'

/-- The state of a pair that a call returns. -/
theorem of_pair {α : Type} {x : α × State} {a : α} (h : HomeWork s x.2) (he : x = (a, t)) : HomeWork s t := by
  rw [he] at h
  exact h

theorem of_due (h : OnlyDue s t) : HomeWork s t := by
  obtain ⟨_, rfl⟩ := h
  exact of_cores rfl fun _ => rfl

theorem later (s : State) (i : Instr) : HomeWork s (s.later i) := of_due (.later s i)

theorem of_writtenBack (h : WrittenBack s t) : HomeWork s t := by
  obtain ⟨_, _, _, _, rfl⟩ := h.rest
  exact of_cores rfl fun _ => rfl

theorem aloof_of_onlyCores (h : OnlyCores s t) : aloof t = aloof s := by
  obtain ⟨_, _, _, rfl⟩ := h
  rfl

theorem onCore (s : State) (c : CoreId) (f : Core → Core) (h : ∀ k, RestsCore k (f k)) : HomeWork s (s.onCore c f) := by
  refine ⟨aloof_of_onlyCores (onlyCores_onCore s c f), fun d => ?_⟩
  rw [getCore_onCore]
  split
  · exact h _
  · exact .of_slots rfl

theorem mapCores (s : State) (f : CoreId → Core → Core) (h : ∀ c k, RestsCore k (f c k)) : HomeWork s (s.mapCores f) := by
  refine ⟨rfl, fun d => ?_⟩
  rw [getCore_mapCores]
  split
  · exact h d _
  · next hd =>
    rw [getCore_of_not_mem s d hd]
    exact .of_slots rfl

theorem mapThreads (s : State) (f : CoreId → Fin 8 → Thread → Thread) (h : ∀ c i x, Rests x (f c i x)) :
    HomeWork s (s.mapThreads f) :=
  mapCores s _ fun c k i => by simpa using h c i k.slots[i]

theorem trigger (s : State) (line : Nat) : HomeWork s (s.trigger line) := mapThreads s _ fun _ _ => rests_trigger line

/-! Lines, tiles and channels (R90 to R114). -/

theorem channelTake (s : State) (pa : Nat) (wr : Bool) : HomeWork s (s.channelTake pa wr) := by
  unfold State.channelTake
  split
  · split <;> exact of_cores rfl fun _ => rfl
  · exact refl s

theorem setLine (s : State) (line : Nat) (e : LineEntry) : HomeWork s (s.setLine line e) := by
  rw [setLine_rest]
  exact of_cores rfl fun _ => rfl

theorem dieCrowd (s : State) (die line : Nat) : HomeWork s (s.dieCrowd die line) := by
  unfold State.dieCrowd
  dsimp only
  split
  · split
    · exact later s _
    · exact refl s
  · exact refl s

theorem putBacking (s : State) (pa : Nat) (b : Byte) : HomeWork s (s.putBacking pa b) := by
  unfold State.putBacking
  split
  · split <;> exact of_cores rfl fun _ => rfl
  · exact of_cores rfl fun _ => rfl

theorem writeBack (n : Nat) : ∀ (s : State) (pa : Nat), HomeWork s (s.writeBack pa n) := by
  induction n with
  | zero => exact fun s _ => refl s
  | succ n ih =>
    intro s pa
    unfold State.writeBack
    refine HomeWork.trans ?_ (ih _ (pa + 1))
    split
    · next b _ => exact (putBacking s pa b).trans (of_cores rfl fun _ => rfl)
    · exact refl s

theorem writeRequest (s : State) (line : Nat) : HomeWork s (s.writeRequest line) := ite _ (channelTake s _ _) (refl s)

theorem lineWriteBack (s : State) (line : Nat) : HomeWork s (s.lineWriteBack line) := by
  refine (writeRequest s line).trans (foldl _ (fun t j => ?_) _ _)
  dsimp only
  split
  · exact refl t
  · exact writeBack _ t _

theorem lineForStore (s : State) (src : Source) (line : Nat) : HomeWork s (s.lineForStore src line) := by
  unfold State.lineForStore
  dsimp only
  split
  · exact (ite _ (lineWriteBack s line) (refl s)).trans (setLine _ _ _)
  · exact ite _ ((channelTake s _ _).trans ((setLine _ _ _).trans (dieCrowd _ _ _))) (channelTake s _ _)

theorem dropReplica (s : State) (c : CoreId) (pa : Nat) : HomeWork s (s.dropReplica c pa) := by
  unfold State.dropReplica
  split
  · exact refl s
  · exact ite _ (of_cores rfl fun _ => rfl) (refl s)

theorem tiles (h : HomeWork s t) (m : Map Tile) (d : Map Byte) : HomeWork s { t with tiles := m, dirty := d } :=
  h.trans (of_cores rfl fun _ => rfl)

theorem tileDirty (s : State) (src : Source) (pb : Nat) (t : Tile) (pa : Nat) (b : Byte) :
    HomeWork s (s.tileDirty src pb t pa b) := by
  unfold State.tileDirty
  refine tiles ((dropReplica s src.core pa).trans ?_) _ _
  split
  · exact ite _ (refl _) ((writeRequest _ _).trans (foldl _ (fun u q => writeBack 16 u q) _ _))
  · exact refl _

theorem claim (s : State) (src : Source) (pb : Nat) (t : Tile) : HomeWork s (s.claim src pb t) :=
  (ite _ (refl s) (foldl _ (fun u _ => channelTake u _ _) _ s)).trans
    (show HomeWork (s.tileFill pb t) _ from of_cores rfl fun _ => rfl)

theorem tileArrives (s : State) (pb : Nat) (t : Tile) (c : CoreId) : HomeWork s (s.tileArrives pb t c) := by
  unfold State.tileArrives
  refine HomeWork.trans ?_ (foldl _ (fun u _ => dieCrowd u _ _) _ _)
  exact of_cores rfl fun _ => rfl

theorem tileStore (s : State) (src : Source) (pb : Nat) (t : Tile) (pa : Nat) (b : Byte) :
    HomeWork s (s.tileStore src pb t pa b) := by
  have hput := (dropReplica s src.core pa).trans (putBacking _ pa b)
  unfold State.tileStore
  split
  · exact tileDirty s src pb t pa b
  · exact ite _ ((claim s src pb t).trans ((tileDirty _ src pb _ pa b).trans (tileArrives _ pb t _))) hput
  · exact hput
  · exact hput
  · exact hput

theorem lineStore (s : State) (pa : Nat) (b : Byte) : HomeWork s (s.lineStore pa b) := by
  unfold State.lineStore
  dsimp only
  split
  · exact ite _ (of_cores rfl fun _ => rfl) ((setLine s _ _).trans (of_cores rfl fun _ => rfl))
  · exact of_cores rfl fun _ => rfl

theorem storeBytes (src : Source) (n : Nat) : ∀ (s : State) (pa v : Nat), HomeWork s (s.storeBytes src pa n v) := by
  induction n with
  | zero => exact fun s _ _ => refl s
  | succ n ih =>
    intro s pa v
    refine HomeWork.trans ?_ (ih _ _ _)
    unfold State.storeByte
    split
    · exact tileStore s src _ _ pa _
    · exact lineStore s pa _

theorem endExcl (s : State) (c : CoreId) (line : Nat) : HomeWork s (s.endExcl c line) := ite _ (setLine s _ _) (refl s)

theorem touch (s : State) (c : CoreId) (line : Nat) (m : BitVec 8) : HomeWork s (s.touch c line m) := by
  unfold State.touch
  refine HomeWork.trans ?_ (onCore _ c (Core.touch line m) fun k => .of_slots rfl)
  split
  · exact endExcl s c _
  · exact refl s

theorem keepStored (s : State) (c : CoreId) (line : Nat) (m : BitVec 8) : HomeWork s (s.keepStored c line m) :=
  ite _ (setLine s _ _) (refl s)

theorem sendKills (s : State) (line : Nat) (c : CoreId) (tid : Nat) : HomeWork s (s.sendKills line c tid) := by
  unfold State.sendKills
  refine ite _ ((setLine s _ _).trans (foldl _ (fun t i => ?_) _ _)) (refl s)
  dsimp only
  split
  · split <;> split <;> exact of_cores rfl fun _ => rfl
  · exact refl t

theorem invalidateOthers (s : State) (line : Nat) (c : CoreId) : HomeWork s (s.invalidateOthers line c) := by
  refine mapCores s _ fun d k => ?_
  split <;> exact .of_slots rfl

theorem lineWritten (s : State) (src : Source) (line : Nat) : HomeWork s (s.lineWritten src line) := by
  have h := (sendKills s line src.core src.tid).trans ((trigger _ line).trans (invalidateOthers _ line src.core))
  exact ite _ (h.trans (of_due (onlyDue_retryQueues _))) h

/-! What holds an access back (R36, R66, R109). -/

theorem holdEntry (s : State) (q : Requester) (die : Nat) (c : HoldClass) (w : Wait) : HomeWork s (s.holdEntry q die c w) :=
  ite _ (refl s) (of_cores rfl fun _ => rfl)

theorem recover (s : State) (line : Nat) : HomeWork s (s.recover line) := ite _ (refl s) (later s _)

theorem sendBisnp (s : State) (q : Requester) (half : Nat) (data : Bool) (cls : HoldClass) :
    HomeWork s (s.sendBisnp q half data cls) :=
  ite _ (refl s) (ite _ (holdEntry s _ _ _ _) (of_cores rfl fun _ => rfl))

theorem blocked (s : State) (q : Requester) (pa n : Nat) (onlyA : Bool) (cls : HoldClass) :
    HomeWork s (s.blocked q pa n onlyA cls).2 := by
  unfold State.blocked
  split
  · exact refl s
  · split
    · exact recover s _
    · split
      · exact refl s
      · split
        · exact sendBisnp s _ _ _ _
        · split
          · exact holdEntry s _ _ _ _
          · exact refl s

theorem ctxReady (s : State) (ctx : BitVec 16) : HomeWork s (s.ctxReady ctx).2 := by
  unfold State.ctxReady
  split
  · exact blocked s _ _ _ _ _
  · exact refl s

/-! Serialisation of writes and reads (R90, R150, R151). -/

theorem serialise (s : State) (src : Source) (pa n v : Nat) : HomeWork s (s.serialise src pa n v).2 := by
  unfold State.serialise
  split
  · exact refl s
  · split
    · next heq => exact of_pair (blocked s _ _ _ _ _) heq
    · next u heq =>
      have hu := of_pair (blocked s _ _ _ _ _) heq
      split
      · exact hu
      · have hline : HomeWork u ((linesOf pa n).foldl (fun s l => if s.touchesOpen l pa n then s.lineForStore src l else s)
            (u.frameTake pa n true)) :=
          (foldl _ (fun v _ => channelTake v _ _) _ u).trans
            (foldl _ (fun v l => ite _ (lineForStore v src l) (refl v)) (linesOf pa n) _)
        have hstore : ∀ x : State, HomeWork x ((x.storeBytes src pa n v).clearMarks pa n) := fun x =>
          (storeBytes src n x pa v).trans (of_cores rfl fun _ => rfl)
        have hw := hu.trans (hline.trans ((hstore _).trans (foldl _ (fun v l => lineWritten v src l) (linesOf pa n) _)))
        refine ite _ (hw.trans (foldl _ (fun v l => ?_) _ _)) hw
        exact ite _ (refl v) ((touch v _ _ _).trans (keepStored _ _ _ _))

theorem lineForRead (s : State) (c : CoreId) (line : Nat) (m : Bool) : HomeWork s (s.lineForRead c line m) := by
  unfold State.lineForRead
  dsimp only
  split
  · exact setLine s _ _
  · exact ite _ ((channelTake s _ _).trans ((setLine _ _ _).trans (dieCrowd _ _ _))) (channelTake s _ _)

theorem serveRead (s : State) (c : CoreId) (pa n : Nat) (m : Bool) (tid : Nat) : HomeWork s (s.serveRead c pa n m tid).2 := by
  unfold State.serveRead
  split
  · exact refl s
  · split
    · next heq => exact of_pair (blocked s _ _ _ _ _) heq
    · next u heq =>
      have hu := of_pair (blocked s _ _ _ _ _) heq
      split
      · exact hu
      · have hr : HomeWork u ((linesOf pa n).foldl (fun s l => if s.touchesOpen l pa n then s.lineForRead c l m else s)
            (u.frameTake pa n false)) :=
          (foldl _ (fun v _ => channelTake v _ _) _ u).trans
            (foldl _ (fun v l => ite _ (lineForRead v c l m) (refl v)) (linesOf pa n) _)
        exact ite _ (hu.trans (hr.trans (foldl _ (fun v l => ite _ (refl v) (touch v _ _ _)) _ _))) (hu.trans hr)

/-! Entries of fault queues, and notices (R132, R133). -/

theorem countEntry (s : State) (sup : Nat) (ctx : BitVec 16) : HomeWork s (s.countEntry sup ctx) := by
  refine HomeWork.trans (t := { s with mailboxes := _ }) ?_ (trigger _ _)
  exact of_cores rfl fun _ => rfl

theorem fqCount (s : State) (sup : Nat) (ctx : BitVec 16) : HomeWork s (s.fqCount sup ctx) :=
  ite _ (of_cores rfl fun _ => rfl) (countEntry s sup ctx)

theorem fqWrite (s : State) (e : FaultEntry) : HomeWork s (s.fqWrite e).2 := by
  unfold State.fqWrite
  split
  · next heq => exact of_pair (ctxReady s _) heq
  · next u heq =>
    have hu := of_pair (ctxReady s _) heq
    split
    · exact hu
    · next c _ =>
      extract_lets tail head
      clear_value tail head
      split
      · exact hu
      · split
        · next heq => exact hu.trans (of_pair (blocked u _ _ _ _ _) heq)
        · next v heq =>
          have hv := hu.trans (of_pair (blocked u _ _ _ _ _) heq)
          split
          · next heq => exact hv.trans (of_pair (blocked v _ _ _ _ _) heq)
          · next w heq =>
            have hw := hv.trans (of_pair (blocked v _ _ _ _ _) heq)
            generalize (tail + 1) % 2 ^ 64 = tail'
            exact hw.trans ((serialise w _ _ _ _).trans (serialise _ _ _ _ _))

theorem fqPut (s : State) (e : FaultEntry) : HomeWork s (s.fqPut e).2 := by
  unfold State.fqPut
  split
  · next u heq => exact (of_pair (fqWrite s e) heq).trans (ite _ (fqCount u _ _) (refl u))
  · next heq => exact of_pair (fqWrite s e) heq

/-! What the relation says. -/

theorem loc (h : HomeWork s t) : t.loc = s.loc := congrArg (·.1) h.rest
theorem slot (h : HomeWork s t) : t.slot = s.slot := congrArg (·.2.1) h.rest
theorem launches (h : HomeWork s t) : t.launches = s.launches := congrArg (·.2.2.1) h.rest
theorem notices (h : HomeWork s t) : t.notices = s.notices := congrArg (·.2.2.2.1) h.rest
theorem fqWait (h : HomeWork s t) : t.fqWait = s.fqWait := congrArg (·.2.2.2.2.1) h.rest
theorem outstanding (h : HomeWork s t) : t.outstanding = s.outstanding := congrArg (·.2.2.2.2.2) h.rest

theorem thread (h : HomeWork s t) (c : CoreId) (i : Fin 8) : Rests (s.getThread c i) (t.getThread c i) := by
  rw [getThread_eq_slot, getThread_eq_slot]
  exact h.core c i

theorem th (h : HomeWork s t) : Rests s.th t.th := by
  have := h.thread s.loc s.slot
  rwa [getThread_current, ← h.loc, ← h.slot, getThread_current] at this

end HomeWork

end Sys2Proof.Proofs
end

section
/-! PROOF. A write that a home serialises in open device memory (R90, R150): it stores its bytes, and no others. -/

namespace Sys2Proof.Proofs

open Sys2Proof.Machine Sys2Proof.Claims Sys2Proof.Laws

/-! Line entries and bytes under the work of homes. -/

/-- Work of homes while no tile is declared: the host states stay, no entry breaks, and no byte becomes dirty beside a holder's
copy. -/
structure LineWork (s t : State) : Prop where
  side : HomeSide s t
  plain : PlainMemory t
  host : ∀ l, (t.lineAt l).hlo = (s.lineAt l).hlo ∧ (t.lineAt l).hhi = (s.lineAt l).hhi
  whole : ∀ l, (s.lineAt l).state ≠ 3 → (t.lineAt l).state ≠ 3
  coherent : ∀ l, Coherent s l → Coherent t l

theorem LineWork.trans {s t u : State} (a : LineWork s t) (b : LineWork t u) : LineWork s u :=
  ⟨a.side.trans b.side, b.plain, fun l => ⟨(b.host l).1.trans (a.host l).1, (b.host l).2.trans (a.host l).2⟩,
    fun l h => b.whole l (a.whole l h), fun l h => b.coherent l (a.coherent l h)⟩

theorem LineWork.openMemory {s t : State} (h : LineWork s t) (o : OpenMemory s) : OpenMemory t := by
  obtain ⟨lost, fenced, split, -, marks, bisnps, host, whole⟩ := o
  have hhost : ∀ x, t.hostState x = 0 := fun x => by
    rw [← host x]
    simp only [State.hostState, h.host]
  have htiles := h.plain.tiles
  have hwhole := fun l => h.whole l (whole l)
  obtain ⟨_, _, _, _, _, _, _, _, _, _, _, rfl⟩ := h.side
  exact ⟨lost, fenced, split, htiles, marks, bisnps, hhost, hwhole⟩

/-- Such work that leaves every byte. -/
structure QuietWork (s t : State) : Prop extends LineWork s t where
  byte : ∀ a, t.physByte a = s.physByte a

namespace QuietWork

variable {s t u : State}

theorem trans (a : QuietWork s t) (b : QuietWork t u) : QuietWork s u :=
  ⟨a.toLineWork.trans b.toLineWork, fun x => (b.byte x).trans (a.byte x)⟩

/-- Memory, the dirty bytes and the line entries are as they were. -/
theorem of_same (hp : PlainMemory s) (h : HomeSide s t) (hm : t.mem = s.mem) (hd : t.dirty = s.dirty) (hl : t.lines = s.lines) :
    QuietWork s t := by
  have hline : ∀ l, t.lineAt l = s.lineAt l := fun l => by simp only [State.lineAt, hl]
  have ht : t.tiles = [] := by
    obtain ⟨_, _, _, _, _, _, _, _, _, _, _, rfl⟩ := h
    exact hp.tiles
  have hpt : PlainMemory t := ⟨ht, hm ▸ hp.wf⟩
  refine ⟨⟨h, hpt, fun l => by rw [hline]; exact ⟨rfl, rfl⟩, fun l hw => by rwa [hline], fun l hc => ?_⟩, fun a => ?_⟩
  · simpa only [Coherent, hline, hd] using hc
  · rw [hpt.physByte, hp.physByte, hm, hd]

theorem refl (hp : PlainMemory s) : QuietWork s s := of_same hp (.refl s) rfl rfl rfl

theorem foldl {α : Type} (f : State → α → State) (hf : ∀ u a, PlainMemory u → QuietWork u (f u a)) (hp : PlainMemory s)
    (l : List α) : QuietWork s (l.foldl f s) :=
  List.foldlRecOn l f (refl hp) fun t ht a _ => ht.trans (hf t a ht.plain)

theorem ite (c : Prop) [Decidable c] (h : QuietWork s t) (h' : QuietWork s u) : QuietWork s (if c then t else u) := by
  split
  · exact h
  · exact h'

theorem of_writtenBack (hp : PlainMemory s) (h : WrittenBack s t) : QuietWork s t := by
  refine ⟨⟨.of_writtenBack h, h.plain hp, fun l => by rw [h.lineAt]; exact ⟨rfl, rfl⟩, fun l hw => by rwa [h.lineAt],
    fun l hc => ?_⟩, h.byte⟩
  rcases hc with h2 | hn
  · exact .inl (by rw [h.lineAt]; exact h2)
  · exact .inr fun a ha => h.clean a (hn a ha)

theorem of_onlyCores (hp : PlainMemory s) (h : OnlyCores s t) : QuietWork s t := by
  obtain ⟨_, _, _, rfl⟩ := h
  exact of_same hp (.of_onlyCores ⟨_, _, _, rfl⟩) rfl rfl rfl

theorem of_due (hp : PlainMemory s) (h : OnlyDue s t) : QuietWork s t := by
  obtain ⟨_, rfl⟩ := h
  exact of_same hp ⟨_, _, _, _, _, _, _, _, _, _, _, rfl⟩ rfl rfl rfl

/-- A line entry written with its host states kept; it owns its line then, or its state stays. -/
theorem setLine (hp : PlainMemory s) (line : Nat) (e : LineEntry) (hlo : e.hlo = (s.lineAt line).hlo)
    (hhi : e.hhi = (s.lineAt line).hhi) (hs : e.state = 2 ∨ e.state = (s.lineAt line).state) : QuietWork s (s.setLine line e) := by
  obtain ⟨hm, hd, ht, hb⟩ := setLine_bytes s line e
  have hat := lineAt_setLine s line e
  refine ⟨⟨.setLine s line e, ⟨ht.trans hp.tiles, hm ▸ hp.wf⟩, fun l => ?_, fun l hw => ?_, fun l hc => ?_⟩, hb⟩
  · rw [hat]
    split
    · next h => subst h; exact ⟨hlo, hhi⟩
    · exact ⟨rfl, rfl⟩
  · rw [hat]
    split
    · next h => subst h; rcases hs with h2 | hs <;> simp_all
    · exact hw
  · unfold Coherent at hc ⊢
    rw [hat, hd]
    split
    · next h =>
      subst h
      exact hs.elim .inl fun hs => by rwa [hs]
    · exact hc

theorem channelTake (hp : PlainMemory s) (pa : Nat) (wr : Bool) : QuietWork s (s.channelTake pa wr) :=
  of_writtenBack hp (.channelTake hp.framed pa wr)

theorem dieCrowd (hp : PlainMemory s) (die line : Nat) : QuietWork s (s.dieCrowd die line) := by
  unfold State.dieCrowd
  dsimp only
  split
  · split
    · exact of_due hp (.later s _)
    · exact refl hp
  · exact refl hp

/-- What every write to a line does besides (R107, R324, R87, R132). -/
theorem lineWritten (hp : PlainMemory s) (src : Source) (line : Nat) : QuietWork s (s.lineWritten src line) := by
  have hkills : QuietWork s (s.sendKills line src.core src.tid) := by
    unfold State.sendKills
    dsimp only
    have hset := setLine hp line { s.lineAt line with fresh := 0 } rfl rfl (.inr rfl)
    refine ite _ (hset.trans (foldl _ (fun u i hu => ?_) hset.plain _)) (refl hp)
    split
    · have hkill := fun k => of_same (t := { u with kills := k }) hu ⟨_, _, _, _, _, _, _, _, _, _, _, rfl⟩ rfl rfl rfl
      have hdue := fun k i => (hkill k).trans (of_due (hkill k).plain (.later _ i))
      split <;> split
      · exact hdue _ _
      · exact hkill _
      · exact hdue _ _
      · exact hkill _
    · exact refl hu
  have hcores := hkills.trans (of_onlyCores hkills.plain
    ((onlyCores_trigger _ line).trans (onlyCores_invalidateOthers _ line src.core)))
  exact ite _ (hcores.trans (of_due hcores.plain (onlyDue_retryQueues _))) hcores

/-- A core's cache takes sectors of a line (R211). -/
theorem touch (hp : PlainMemory s) (c : CoreId) (line : Nat) (m : BitVec 8) : QuietWork s (s.touch c line m) := by
  have hexcl : ∀ v : Nat, QuietWork s (s.endExcl c v) := fun v => ite _ (setLine hp _ _ rfl rfl (.inr rfl)) (refl hp)
  unfold State.touch
  split
  · next v _ => exact (hexcl _).trans (of_onlyCores (hexcl _).plain (onlyCores_onCore _ _ _))
  · exact of_onlyCores hp (onlyCores_onCore _ _ _)

theorem keepStored (hp : PlainMemory s) (c : CoreId) (line : Nat) (m : BitVec 8) : QuietWork s (s.keepStored c line m) :=
  ite _ (setLine hp _ _ rfl rfl (.inr rfl)) (refl hp)

/-- The line's holder for a store (R90). -/
theorem lineForStore (hp : PlainMemory s) (src : Source) (line : Nat) : QuietWork s (s.lineForStore src line) := by
  unfold State.lineForStore
  dsimp only
  split
  · have hback : QuietWork s (if (s.lineAt line).state = 2 && (s.lineAt line).tag != src.ctx then s.lineWriteBack line else s) :=
      ite _ (of_writtenBack hp (WrittenBack.lineWriteBack hp line).1) (refl hp)
    refine hback.trans (setLine hback.plain line _ ?_ ?_ (.inl rfl)) <;> simp only [hback.host line] <;> rw [asked_eq]
  · split
    · have hread := channelTake hp (128 * line) false
      have hset := fun (e : LineEntry) h0 h1 (h2 : e.state = 2) => setLine hread.plain line e h0 h1 (.inl h2)
      have hcrowd := fun e h0 h1 h2 =>
        (hset e h0 h1 h2).trans (dieCrowd (hset e h0 h1 h2).plain (sockOf src.core) line)
      exact hread.trans (hcrowd _ (hread.host line).1.symm (hread.host line).2.symm rfl)
    · exact channelTake hp _ _

end QuietWork

/-! A line made ready for a store. -/

/-- An entry whose line its holder owns, or no die holds. -/
def Ready (e : LineEntry) : Prop := e.state = 2 ∨ e.held = none

theorem lineAt_dieCrowd (s : State) (die line l : Nat) : (s.dieCrowd die line).lineAt l = s.lineAt l := by
  unfold State.dieCrowd
  dsimp only
  split
  · split <;> rfl
  · rfl

/-- An entry that is ready, written where the entries were those of `s`. -/
theorem readied_of_setLine {s u : State} (h : ∀ l, u.lineAt l = s.lineAt l) (line : Nat) (e : LineEntry) (he : Ready e) :
    ∃ x, Ready x ∧ ∀ l, (u.setLine line e).lineAt l = if l = line then x else s.lineAt l :=
  ⟨e, he, fun l => by rw [lineAt_setLine, h]⟩

theorem lineAt_lineForStore {s : State} (hp : PlainMemory s) (src : Source) (line : Nat) :
    ∃ e, Ready e ∧ ∀ l, (s.lineForStore src line).lineAt l = if l = line then e else s.lineAt l := by
  unfold State.lineForStore
  dsimp only
  split
  · refine readied_of_setLine (fun l => ?_) line _ (.inl rfl)
    split
    · exact (WrittenBack.lineWriteBack hp line).1.lineAt l
    · rfl
  · next hn =>
    split
    · simp only [lineAt_dieCrowd]
      exact readied_of_setLine (fun l => lineAt_channelTake _ _ _ _) line _ (.inl rfl)
    · refine ⟨s.lineAt line, .inr hn, fun l => ?_⟩
      rw [lineAt_channelTake]
      split
      · next h => rw [h]
      · rfl

/-- While no tile is declared, every line that some bytes touch is the line's own. -/
theorem touchesOpen_of_line {s : State} (hp : PlainMemory s) (pa n l : Nat) (hn : 0 < n) (hl : l ∈ linesOf pa n) :
    s.touchesOpen l pa n = true := by
  have hends : l = pa / 128 ∨ l = (pa + n - 1) / 128 := by
    unfold linesOf lineOf at hl
    split at hl <;> simp at hl <;> tauto
  refine List.any_eq_true.2 ?_
  rcases hends with rfl | rfl
  · exact ⟨0, List.mem_range.2 (by omega), by simp [hp.tileOver]; omega⟩
  · exact ⟨(pa + n - 1) / 16 - pa / 16, List.mem_range.2 (by omega), by simp [hp.tileOver]; omega⟩

theorem mem_linesOf (pa n i : Nat) (hi : i < n) (hn : n ≤ 128) : (pa + i) / 128 ∈ linesOf pa n := by
  have hends : (pa + i) / 128 = pa / 128 ∨ (pa + i) / 128 = (pa + n - 1) / 128 := by omega
  unfold linesOf lineOf
  split
  · next h => simp only [List.mem_singleton]; omega
  · simpa using hends

/-- Every line that a write touches is made ready. -/
theorem linesForStore_effect (src : Source) (pa n : Nat) (hn : 0 < n) (ls : List Nat) : ∀ s : State, PlainMemory s →
    (∀ l ∈ ls, l ∈ linesOf pa n) →
    let t := ls.foldl (fun s l => if s.touchesOpen l pa n then s.lineForStore src l else s) s
    QuietWork s t ∧ ∀ l, l ∈ ls ∨ Ready (s.lineAt l) → Ready (t.lineAt l) := by
  induction ls with
  | nil => exact fun s hp _ => ⟨.refl hp, fun l hl => hl.resolve_left (by simp)⟩
  | cons line ls ih =>
    intro s hp hall
    have hq := QuietWork.lineForStore hp src line
    obtain ⟨e, he, hat⟩ := lineAt_lineForStore hp src line
    rw [List.foldl_cons, if_pos (touchesOpen_of_line hp pa n line hn (hall line (by simp)))]
    obtain ⟨hrest, hready⟩ := ih _ hq.plain fun l hl => hall l (by simp [hl])
    refine ⟨hq.trans hrest, fun l hl => hready l ?_⟩
    by_cases h : l = line
    · exact .inr (by rw [hat, if_pos h]; exact he)
    · refine hl.imp (fun hl => (List.mem_cons.1 hl).resolve_left h) fun hr => ?_
      rw [hat, if_neg h]
      exact hr

/-! Bytes stored. -/

/-- Bytes from `pa` hold the low `n` bytes of `v`, and every other byte is as it was. -/
structure Wrote (s t : State) (pa n v : Nat) : Prop where
  inside : ∀ i < n, t.physByte (pa + i) = BitVec.ofNat 8 (v / 256 ^ i)
  outside : ∀ a, ¬(pa ≤ a ∧ a < pa + n) → t.physByte a = s.physByte a

theorem Wrote.quiet {s t u v : State} {pa n x : Nat} (a : QuietWork s t) (h : Wrote t u pa n x) (b : QuietWork u v) :
    Wrote s v pa n x :=
  ⟨fun i hi => (b.byte _).trans (h.inside i hi), fun c hc => (b.byte c).trans ((h.outside c hc).trans (a.byte c))⟩

/-- A store changes at most which sectors of its line are dirty. -/
def DirtyOnly (s t : State) : Prop := ∀ l, ∃ d, t.lineAt l = { s.lineAt l with dirty := d }

theorem DirtyOnly.ready {s t : State} (h : DirtyOnly s t) (l : Nat) (hr : Ready (s.lineAt l)) : Ready (t.lineAt l) := by
  obtain ⟨d, hd⟩ := h l
  rw [hd]
  exact hr

/-- The byte at `pa` is `b`, and every other byte is as it was. -/
structure ByteStored (s t : State) (pa : Nat) (b : Byte) : Prop extends LineWork s t where
  here : t.physByte pa = b
  rest : ∀ a, a ≠ pa → t.physByte a = s.physByte a

/-- A byte stored in memory, where it is not dirty any more. -/
theorem byteStored_mem {s : State} (hp : PlainMemory s) (pa : Nat) (b : Byte) (d : Map Byte) (h0 : mapGet d pa = none)
    (hd : ∀ a, a ≠ pa → mapGet d a = mapGet s.dirty a) :
    ByteStored s { s with mem := memPut s.mem pa b, dirty := d } pa b := by
  have hpt : PlainMemory { s with mem := memPut s.mem pa b, dirty := d } := ⟨hp.tiles, wf_memPut _ _ _ hp.wf⟩
  refine ⟨⟨⟨_, _, _, _, _, _, _, _, _, _, _, rfl⟩, hpt, fun _ => ⟨rfl, rfl⟩, fun _ => id, fun l hl => ?_⟩, ?_, fun a ha => ?_⟩
  · refine hl.imp id fun hn a ha => ?_
    by_cases he : a = pa
    · rw [he]; exact h0
    · exact (hd a he).trans (hn a ha)
  · rw [hpt.physByte]
    simp only [h0, Option.getD_none]
    exact memByte_memPut_same s.mem 0 pa b hp.wf
  · rw [hpt.physByte, hp.physByte]
    simp only [hd a ha, memByte_memPut_ne _ _ _ _ ha]

/-- A byte stored in the die cache of the line's owner. -/
theorem byteStored_dirty {s : State} (hp : PlainMemory s) (pa : Nat) (b : Byte) (h2 : (s.lineAt (pa / 128)).state = 2) :
    ByteStored s { s with dirty := mapSet s.dirty pa b } pa b := by
  refine ⟨⟨⟨_, _, _, _, _, _, _, _, _, _, _, rfl⟩, ⟨hp.tiles, hp.wf⟩, fun _ => ⟨rfl, rfl⟩, fun _ => id, fun l hl => ?_⟩,
    physByte_of_dirty (mapGet_mapSet_same _ _ _), fun a ha => ?_⟩
  · by_cases he : l = pa / 128
    · exact .inl (he ▸ h2)
    · refine hl.imp id fun hn a ha => ?_
      exact (mapGet_mapSet_ne _ _ _ _ fun h => he (h ▸ ha).symm).trans (hn a ha)
  · exact physByte_congr (t := { s with dirty := mapSet s.dirty pa b }) (mapGet_mapSet_ne _ _ _ _ ha) rfl

/-- One byte stored into a line that is ready. -/
theorem lineStore_effect {s : State} (hp : PlainMemory s) (pa : Nat) (b : Byte) (hr : Ready (s.lineAt (pa / 128)))
    (hc : Coherent s (pa / 128)) : ByteStored s (s.lineStore pa b) pa b ∧ DirtyOnly s (s.lineStore pa b) := by
  unfold State.lineStore
  dsimp only [lineOf]
  split
  · next h hh =>
    have h2 : (s.lineAt (pa / 128)).state = 2 := hr.resolve_right (by simp [hh])
    split
    · exact ⟨byteStored_mem hp pa b _ (mapGet_mapErase_same _ _) fun a ha => mapGet_mapErase_ne _ _ _ ha, fun _ => ⟨_, rfl⟩⟩
    · obtain ⟨d, hd⟩ : ∃ d, (s.lineAt (pa / 128)).dirty ||| BitVec.ofNat 8 (2 ^ (pa / 16 % 8)) = d := ⟨_, rfl⟩
      rw [hd]
      have hset := QuietWork.setLine hp (pa / 128) { s.lineAt (pa / 128) with dirty := d } rfl rfl (.inr rfl)
      have hat := lineAt_setLine s (pa / 128) { s.lineAt (pa / 128) with dirty := d }
      have hstored := byteStored_dirty hset.plain pa b (by rw [hat, if_pos rfl]; exact h2)
      refine ⟨⟨hset.toLineWork.trans hstored.toLineWork, hstored.here, fun a ha => (hstored.rest a ha).trans (hset.byte a)⟩,
        fun l => ?_⟩
      show ∃ x, (s.setLine _ _).lineAt l = _
      rw [hat]
      split
      · next he => subst he; exact ⟨_, rfl⟩
      · exact ⟨_, rfl⟩
  · next hn =>
    have hclean : mapGet s.dirty pa = none := by
      refine (hc.resolve_left fun h2 => ?_) pa rfl
      simp [LineEntry.held, h2] at hn
    exact ⟨byteStored_mem hp pa b s.dirty hclean fun _ _ => rfl, fun _ => ⟨_, rfl⟩⟩

/-- Bytes stored into lines that are ready. -/
theorem storeBytes_effect (src : Source) (n : Nat) : ∀ (s : State) (pa v : Nat), PlainMemory s →
    (∀ i < n, Ready (s.lineAt ((pa + i) / 128)) ∧ Coherent s ((pa + i) / 128)) →
    LineWork s (s.storeBytes src pa n v) ∧ Wrote s (s.storeBytes src pa n v) pa n v := by
  induction n with
  | zero => exact fun s pa v hp _ => ⟨(QuietWork.refl hp).toLineWork, fun i hi => by omega, fun _ _ => rfl⟩
  | succ n ih =>
    intro s pa v hp hl
    obtain ⟨hr, hc⟩ := hl 0 (by omega)
    obtain ⟨⟨hw, hb, ho⟩, hd⟩ := lineStore_effect hp pa (BitVec.ofNat 8 v) hr hc
    have hbyte : s.storeByte src pa (BitVec.ofNat 8 v) = s.lineStore pa (BitVec.ofNat 8 v) := by
      simp only [State.storeByte, hp.tileOver]
    rw [State.storeBytes, hbyte]
    obtain ⟨hw', hin, hout⟩ := ih _ (pa + 1) (v / 256) hw.plain fun i hi => by
      have := hl (i + 1) (by omega)
      rw [show pa + (i + 1) = pa + 1 + i by omega] at this
      exact ⟨hd.ready _ this.1, hw.coherent _ this.2⟩
    refine ⟨hw.trans hw', fun i hi => ?_, fun a ha => (hout a (by omega)).trans (ho a (by omega))⟩
    cases i with
    | zero => exact (hout pa (by omega)).trans (hb.trans (by simp))
    | succ i =>
      rw [show pa + (i + 1) = pa + 1 + i by omega, hin i (by omega), Nat.div_div_eq_div_mul, Nat.pow_succ']

theorem clearMarks_of_none {s : State} (h : s.psect = []) (pa n : Nat) : s.clearMarks pa n = s := by
  have hnone : ∀ f : Nat → Bool, s.psect.filter f = s.psect := fun f => by rw [h]; rfl
  exact congrArg (fun p => ({ s with psect := p } : State)) (hnone _)

/-- The end of a write whose lines are ready: its bytes are stored, its lines are written, and the writer's core cache takes what
its die cache has (R87, R90, R211). -/
def serialised (s : State) (src : Source) (pa n v : Nat) : State :=
  let s := (linesOf pa n).foldl (fun s l => s.lineWritten src l) (s.storeBytes src pa n v)
  if src.mayHold then
    (linesOf pa n).foldl (fun s l =>
      let m := s.dieMask (sockOf src.core) l pa n
      if m = 0 then s else (s.touch src.core l m).keepStored src.core l m) s
  else s

/-- A write of device memory that is open is performed at once: it stores its bytes, and the homes keep what a further write needs. -/
theorem serialise_effect {s : State} (o : OpenMemory s) (hwf : s.mem.wf = true) (src : Source) (pa n v : Nat) (hn : 0 < n)
    (hle : n ≤ 128) (hc : ∀ l ∈ linesOf pa n, Coherent s l) :
    ∃ t, s.serialise src pa n v = (.done (), t) ∧ LineWork s t ∧ Wrote s t pa n v := by
  have hp : PlainMemory s := ⟨o.2.2.2.1, hwf⟩
  have hframe : QuietWork s (s.frameTake pa n true) :=
    .foldl _ (fun u l hu => .channelTake hu _ _) hp _
  obtain ⟨hlines, hready⟩ := linesForStore_effect src pa n hn (linesOf pa n) _ hframe.plain fun _ => id
  have hbefore := hframe.trans hlines
  generalize hu : (linesOf pa n).foldl (fun s l => if s.touchesOpen l pa n then s.lineForStore src l else s)
    (s.frameTake pa n true) = u at hready hbefore
  obtain ⟨hstored, hwrote⟩ := storeBytes_effect src n u pa v hbefore.plain fun i hi =>
    ⟨hready _ (.inl (mem_linesOf pa n i hi hle)), hbefore.coherent _ (hc _ (mem_linesOf pa n i hi hle))⟩
  have hmarks : (u.storeBytes src pa n v).psect = [] :=
    (hstored.side.psect.trans hbefore.side.psect).trans o.2.2.2.2.1
  have hwritten : QuietWork (u.storeBytes src pa n v)
      ((linesOf pa n).foldl (fun s l => s.lineWritten src l) (u.storeBytes src pa n v)) :=
    .foldl _ (fun _ l hx => .lineWritten hx src l) hstored.plain _
  have hafter : QuietWork (u.storeBytes src pa n v) (serialised u src pa n v) := by
    refine .ite _ (hwritten.trans (.foldl _ (fun x l hx => ?_) hwritten.plain _)) hwritten
    exact .ite _ (.refl hx) ((QuietWork.touch hx _ _ _).trans (.keepStored (QuietWork.touch hx _ _ _).plain _ _ _))
  refine ⟨serialised u src pa n v, ?_, (hbefore.toLineWork.trans hstored).trans hafter.toLineWork,
    .quiet hbefore hwrote hafter⟩
  simp only [State.serialise, open_lostAt o, open_blocked o, open_partPoisoned o, Bool.or_self, Bool.false_eq_true, if_false,
    hu, clearMarks_of_none hmarks]
  rfl

end Sys2Proof.Proofs
end

section
/-! PROOF. Fault queues (R132 to R134): an entry written and counted, the policy of its launch, the entries that wait for space,
and the notices of a die. -/

namespace Sys2Proof.Proofs

open Sys2Proof.Machine Sys2Proof.Claims Sys2Proof.Laws

/-! The bytes of an entry (R134). -/

theorem leRead_of_bytes (f : Nat → Byte) (n : Nat) : ∀ a v, (∀ i < n, f (a + i) = BitVec.ofNat 8 (v / 256 ^ i)) →
    leRead f a n = v % 256 ^ n := by
  induction n with
  | zero => exact fun a v _ => by simp [leRead, Nat.mod_one]
  | succ n ih =>
    intro a v h
    have h0 : (f a).toNat = v % 256 := by simpa using congrArg BitVec.toNat (h 0 (by omega))
    have hr := ih (a + 1) (v / 256) fun i hi => by
      rw [show a + 1 + i = a + (i + 1) by omega, h (i + 1) (by omega), Nat.div_div_eq_div_mul, ← Nat.pow_succ']
    rw [leRead, h0, hr, Nat.pow_succ', Nat.mod_mul]

/-- The digits of a number that is put together from them. -/
theorem digit_of_foldr (b : Nat) (hb : 0 < b) (ws : List Nat) : ∀ i, (hi : i < ws.length) →
    ws.foldr (fun w r => w % b + b * r) 0 / b ^ i % b = ws[i] % b := by
  induction ws with
  | nil => exact fun i hi => absurd hi (by simp)
  | cons w ws ih =>
    intro i hi
    rw [List.foldr_cons]
    cases i with
    | zero => simp
    | succ i =>
      rw [Nat.pow_succ', ← Nat.div_div_eq_div_mul, Nat.add_mul_div_left _ _ hb, Nat.div_eq_of_lt (Nat.mod_lt _ hb), Nat.zero_add]
      exact ih i (by simpa using hi)

theorem word_of_value (e : FaultEntry) (i : Nat) (hi : i < e.words.length) :
    e.value / 256 ^ (8 * i) % 256 ^ 8 = e.words[i] % 2 ^ 64 := by
  have h8 : (256 : Nat) ^ 8 = 2 ^ 64 := by decide
  rw [Nat.pow_mul, h8]
  exact digit_of_foldr _ (by decide) e.words i hi

/-! An entry written (R132). -/

/-- Where the tail of a context's queue stands, and where its next entry goes. -/
def queueTail (s : State) (c : CtxEntry) : Nat := s.physRead (c.addr + 0x10) 8
def queuePlace (s : State) (c : CtxEntry) : Nat := c.fqbase + 64 * (queueTail s c % c.n)

/-- The queue of a context has room, in device memory that takes the writes of an entry at once. -/
structure TakesEntry (s : State) (ctx : BitVec 16) (c : CtxEntry) : Prop where
  memory : OpenMemory s
  wf : s.mem.wf = true
  entry : s.ctxEntry ctx = some c
  aligned : c.addr % 64 = 0
  room : (queueTail s c + 2 ^ 64 - s.physRead (c.addr + 0x18) 8) % 2 ^ 64 ≠ c.n
  apart : queuePlace s c / 128 ≠ c.addr / 128
  placeClean : Coherent s (queuePlace s c / 128)
  entryClean : Coherent s (c.addr / 128)

/-- The current thread and its core do not matter to a queue. -/
theorem TakesEntry.of_here {s : State} {ctx : BitVec 16} {c : CtxEntry} (h : TakesEntry s ctx c) (k : Core) (th : Thread) :
    TakesEntry { s with core := k, th := th } ctx c :=
  ⟨h.memory, h.wf, h.entry, h.aligned, h.room, h.apart, h.placeClean, h.entryClean⟩

theorem queuePlace_aligned {s : State} {ctx : BitVec 16} {c : CtxEntry} (h : s.ctxEntry ctx = some c) : queuePlace s c % 64 = 0 := by
  unfold State.ctxEntry at h
  dsimp only at h
  split at h
  · split at h
    · obtain rfl := Option.some.inj h
      unfold queuePlace
      dsimp only
      omega
    · cases h
  · cases h

theorem open_ctxReady {s : State} (o : OpenMemory s) (ctx : BitVec 16) : s.ctxReady ctx = (none, s) := by
  unfold State.ctxReady
  split
  · exact open_blocked o _ _ _ _ _
  · rfl

/-- The bytes of a queue after an entry is written: the entry stands at its place, the tail is one further. -/
structure EntryWritten (s t : State) (c : CtxEntry) (v : Nat) : Prop where
  entry : ∀ i < 64, t.physByte (queuePlace s c + i) = BitVec.ofNat 8 (v / 256 ^ i)
  tail : t.physRead (c.addr + 0x10) 8 = (queueTail s c + 1) % 2 ^ 64
  outside : ∀ q, ¬(queuePlace s c ≤ q ∧ q < queuePlace s c + 64) → ¬(c.addr + 0x10 ≤ q ∧ q < c.addr + 0x18) →
    t.physByte q = s.physByte q

theorem EntryWritten.of_bytes {s t u : State} {c : CtxEntry} {v : Nat} (h : EntryWritten s t c v)
    (hb : ∀ q, u.physByte q = t.physByte q) : EntryWritten s u c v :=
  ⟨fun i hi => (hb _).trans (h.entry i hi), (leRead_congr hb _ _).trans h.tail, fun q h1 h2 => (hb q).trans (h.outside q h1 h2)⟩

/-- The line of some bytes that do not leave it. -/
theorem linesOf_single (pa n : Nat) (h : pa % 128 + n ≤ 128) (hn : 0 < n) : linesOf pa n = [pa / 128] := by
  unfold linesOf lineOf
  exact if_pos (by omega)

theorem fqWrite_effect {s : State} {e : FaultEntry} {c : CtxEntry} (h : TakesEntry s e.ctx c) :
    ∃ t, s.fqWrite e = (some (w64 (queueTail s c)), t) ∧ HomeWork s t ∧ EntryWritten s t c e.value := by
  obtain ⟨o, hwf, hentry, haddr, hroom, hapart, hplace, hclean⟩ := h
  have hal := queuePlace_aligned (s := s) hentry
  let src := deviceSource s.loc e.ctx
  obtain ⟨u, hu, hwork, hin, hout⟩ := serialise_effect o hwf src (queuePlace s c) 64 e.value (by omega) (by omega) fun l hl => by
    rw [linesOf_single _ _ (by omega) (by omega), List.mem_singleton] at hl
    exact hl ▸ hplace
  obtain ⟨t, ht, -, hin', hout'⟩ := serialise_effect (hwork.openMemory o) hwork.plain.wf src (c.addr + 0x10) 8
    ((queueTail s c + 1) % 2 ^ 64) (by omega) (by omega) fun l hl => by
    rw [linesOf_single _ _ (by omega) (by omega), List.mem_singleton] at hl
    rw [hl, show (c.addr + 0x10) / 128 = c.addr / 128 by omega]
    exact hwork.coherent _ hclean
  have hx : s.fqWrite e = (some (w64 (queueTail s c)), t) := by
    unfold State.fqWrite
    rw [open_ctxReady o]
    simp only [hentry, open_blocked o]
    unfold queueTail at hroom
    rw [if_neg hroom]
    show (some (w64 (queueTail s c)), ((s.serialise src (queuePlace s c) 64 e.value).2.serialise src (c.addr + 0x10) 8
      ((queueTail s c + 1) % 2 ^ 64)).2) = _
    rw [hu, ht]
  have hwork := HomeWork.of_pair (HomeWork.fqWrite s e) hx
  refine ⟨t, hx, hwork, fun i hi => ?_, ?_, fun q h1 h2 => ?_⟩
  · rw [hout' _ (by omega), hin i hi]
  · have hlt : (queueTail s c + 1) % 2 ^ 64 < 256 ^ 8 := Nat.mod_lt _ (by decide)
    rw [State.physRead, leRead_of_bytes _ 8 _ _ hin', Nat.mod_eq_of_lt hlt]
  · rw [hout' q (by omega), hout q h1]

/-- An entry counted (R132): a mailbox, or a count that waits. -/
theorem physByte_fqCount (s : State) (sup : Nat) (ctx : BitVec 16) (a : Nat) : (s.fqCount sup ctx).physByte a = s.physByte a := by
  unfold State.fqCount
  split <;> rfl

/-! What the policy of a launch does (R77): a launch is aborted, or an alert posted. -/

/-- No thread, no byte of memory and no entry that waits is touched. -/
structure Apart (s t : State) : Prop where
  loc : t.loc = s.loc
  slot : t.slot = s.slot
  fqWait : t.fqWait = s.fqWait
  notices : t.notices = s.notices
  byte : ∀ a, t.physByte a = s.physByte a
  thread : ∀ c i, t.getThread c i = s.getThread c i

namespace Apart

variable {s t u : State}

theorem refl (s : State) : Apart s s := ⟨rfl, rfl, rfl, rfl, fun _ => rfl, fun _ _ => rfl⟩

theorem th (h : Apart s t) : t.th = s.th := by
  have := h.thread s.loc s.slot
  rwa [getThread_current, ← h.loc, ← h.slot, getThread_current] at this

end Apart

/-- The entry of a launch that is aborted, with as many tasks that still run. -/
def endedLaunch (l : Launch) (status live : Nat) : Launch := { l with aborted := true, status := status, live := live }

/-- The records of a launch that wait in the deques. -/
def recordsWaiting (s : State) (h : Nat) : Nat :=
  s.coreList.foldl (fun n c => n + ((s.getCore c).deque.filter fun r => r.lh == h).length) 0

/-- Every deque without the records of a launch, whose entry is `l'` and then `l`. -/
def withoutRecords (s : State) (h : Nat) (l l' : Launch) : State :=
  { s.mapCores fun _ k => { k with deque := k.deque.filter fun r => !(r.lh == h) } with
    launches := mapSet (mapSet s.launches h l') h l }

/-- A running launch that is aborted (R79, R197): its records leave every deque, its entry says so, and what follows is due. -/
theorem abortLaunch_effect (s : State) (h status : Nat) (l : Launch) (hl : s.launchAt h = some l) (ha : l.aborted = false) :
    OnlyDue (withoutRecords s h (endedLaunch l status (l.live - recordsWaiting s h)) (endedLaunch l status l.live))
      (s.abortLaunch h status) := by
  have hretire : ∀ v : State, OnlyDue v (v.coreList.foldl (fun s c =>
      ((s.getCore c).teams.filter fun t => t.lh == h).foldl (fun s t => s.later (.taskRetire c t.id)) s) v) := fun v =>
    OnlyDue.foldl _ (fun v c => OnlyDue.foldl _ (fun v t => OnlyDue.later v _) _ v) _ v
  have hall := hretire (withoutRecords s h (endedLaunch l status (l.live - recordsWaiting s h)) (endedLaunch l status l.live))
  simp only [State.abortLaunch, hl, ha, Bool.false_eq_true, if_false]
  split
  · exact hall.trans (.later _ _)
  · exact hall

namespace Apart

variable {s t u : State}

theorem of_due (h : OnlyDue s t) : Apart s t := by
  obtain ⟨_, rfl⟩ := h
  exact ⟨rfl, rfl, rfl, rfl, fun _ => rfl, fun _ _ => rfl⟩

theorem trans (a : Apart s t) (b : Apart t u) : Apart s u :=
  ⟨b.loc.trans a.loc, b.slot.trans a.slot, b.fqWait.trans a.fqWait, b.notices.trans a.notices,
    fun x => (b.byte x).trans (a.byte x), fun c i => (b.thread c i).trans (a.thread c i)⟩

/-- Cores changed, but not in their slots. -/
theorem mapCores (s : State) (f : CoreId → Core → Core) (hf : ∀ c k, (f c k).slots = k.slots) : Apart s (s.mapCores f) := by
  refine ⟨rfl, rfl, rfl, rfl, fun _ => rfl, fun c i => ?_⟩
  rw [getThread_eq_slot, getThread_eq_slot, getCore_mapCores]
  split
  · simp only [hf]
  · next h => simp only [getCore_of_not_mem s c h]

theorem withoutRecords (s : State) (h : Nat) (l l' : Launch) : Apart s (withoutRecords s h l l') :=
  (mapCores s (fun _ k => { k with deque := k.deque.filter fun r => !(r.lh == h) }) fun _ _ => rfl).trans
    ⟨rfl, rfl, rfl, rfl, fun _ => rfl, fun _ _ => rfl⟩

theorem abortLaunch (s : State) (h status : Nat) : Apart s (s.abortLaunch h status) := by
  cases hl : s.launchAt h with
  | none =>
    simp only [State.abortLaunch, hl]
    exact refl s
  | some l =>
    cases ha : l.aborted with
    | true =>
      simp only [State.abortLaunch, hl, ha, if_true]
      exact refl s
    | false =>
      exact (withoutRecords s h _ _).trans (of_due (abortLaunch_effect s h status l hl ha))

theorem alert (s : State) (cls : Byte) (src : Nat) (ctx : BitVec 16) (data : List Word) : Apart s (s.alert cls src ctx data) := by
  obtain ⟨_, _, _, _, h⟩ := alert_rest s cls src ctx data
  rw [h]
  exact ⟨rfl, rfl, rfl, rfl, fun _ => rfl, fun _ _ => rfl⟩

theorem faultPolicy (s : State) (ix : Word) : Apart s (s.faultPolicy ix) := by
  unfold State.faultPolicy
  split
  · exact refl s
  · split
    · exact refl s
    · split
      · exact abortLaunch s _ _
      · split
        · exact alert s _ _ _ _
        · exact refl s

/-- What a thread in another slot does in the current one's place. -/
theorem asThread (s : State) (c : CoreId) (i : Fin 8) (f : State → State) (h : ∀ u, Apart u (f u)) : Apart s (s.asThread c i f) :=
  ⟨rfl, rfl, (h _).fqWait, (h _).notices, (h _).byte, fun d j => by
    rw [State.asThread, getThread_focus, (h _).thread, getThread_focus]⟩

end Apart

/-! A raised entry of the current thread (R127, R132, R138). -/

theorem raiseHeld_of_none (s : State) (h : s.th.held = []) : s.raiseHeld = s := by
  simp [State.raiseHeld, h]

theorem fqTake_of_unqueued (s : State) (e : FaultEntry) (h : ∀ q ∈ s.fqWait, q.entry.ctx ≠ e.ctx) : s.fqTake e = s.fqWrite e := by
  have hnone : (s.fqWait.any fun q => q.entry.ctx == e.ctx) = false := by simpa using h
  unfold State.fqTake
  rw [hnone]
  exact if_neg (by simp)

/-- A parked thread with an entry of its own raised, at an index of its queue. -/
structure Raised (s t : State) (ctx : BitVec 16) (ix : Word) : Prop where
  status : t.th.status = .parked .fault
  pc : t.th.pc = s.th.pc
  regs : t.th.regs = s.th.regs
  held : ∃ h, t.th.held = s.th.held ++ [h] ∧ h.ctx = ctx ∧ h.index = ix ∧ h.raised = true

/-- What a thread holds of an entry that it has raised. -/
def raisedEntry (e : FaultEntry) (ix : Word) : HeldEntry :=
  { ctx := e.ctx, index := ix, pc := e.fpc, load := none, regs := Regs.zero, copy := none, raised := true, acked := false
    write := none }

theorem raiseNew_effect {s : State} {e : FaultEntry} {c : CtxEntry} (h : TakesEntry s e.ctx c)
    (hw : ∀ q ∈ s.fqWait, q.entry.ctx ≠ e.ctx) :
    Raised s (s.raiseNew e none) e.ctx (w64 (queueTail s c)) ∧ EntryWritten s (s.raiseNew e none) c e.value := by
  obtain ⟨u, hu, hwork, hbytes⟩ := fqWrite_effect (h.of_here s.core { s.th with status := .parked .fault })
  obtain ⟨h1, h2, h3, h4, -⟩ := (hwork.trans (HomeWork.fqCount u e.sup e.ctx)).th .fault rfl trivial
  have hx : s.raiseNew e none = ((u.fqCount e.sup e.ctx).onTh fun t => { t with
      held := t.held ++ [raisedEntry e (w64 (queueTail s c))] }).faultPolicy (w64 (queueTail s c)) := by
    have htake : (s.park .fault).fqTake e = (some (w64 (queueTail s c)), u) :=
      (fqTake_of_unqueued (s.park .fault) e hw).trans hu
    simp only [State.raiseNew, htake, if_true, raisedEntry]
  have hp := Apart.faultPolicy ((u.fqCount e.sup e.ctx).onTh fun t => { t with
    held := t.held ++ [raisedEntry e (w64 (queueTail s c))] }) (w64 (queueTail s c))
  have hbytes : EntryWritten s u c e.value := ⟨hbytes.entry, hbytes.tail, hbytes.outside⟩
  rw [hx]
  refine ⟨?_, hbytes.of_bytes fun q => (hp.byte q).trans (physByte_fqCount u _ _ q)⟩
  constructor <;> rw [hp.th]
  · exact h1
  · exact h2
  · exact h3
  · exact ⟨_, congrArg (· ++ _) h4, rfl, rfl, rfl⟩

/-! A failed fetch (R138). -/

theorem dropFetched_rest (s : State) : ∃ k, s.dropFetched = { s with core := k } := by
  unfold State.dropFetched
  split <;> exact ⟨_, rfl⟩

/-- The words that the entry of a failed fetch holds (R134). -/
def fetchWords (s : State) (cause : Byte) (detail : Word) : List Nat :=
  [cause.toNat + 256 + 65536 * s.th.ctx.toNat, s.th.pc.toNat, s.th.pc.toNat, s.th.pc.toNat,
    s.pkgid.toNat + 256 * (s.loc / 64 % 32) + 8192 * (s.loc % 64) + 524288 * s.slot.val, 0, detail.toNat,
    if s.th.kind = .strand then 0 else s.th.task.toNat]

theorem words_entryOf (s : State) (cause : Byte) (detail : Word) :
    (s.entryOf cause s.th.pc 1 false 0 detail).words = fetchWords s cause detail := by
  simp [FaultEntry.words, State.entryOf, fetchWords, sockOf, siteOf, apply_ite BitVec.toNat]

theorem fetchWords_lt (s : State) (cause : Byte) (detail : Word) : ∀ w ∈ fetchWords s cause detail, w < 2 ^ 64 := by
  have h1 := cause.isLt
  have h2 := s.th.ctx.isLt
  have h3 := s.th.pc.isLt
  have h4 := s.pkgid.isLt
  have h5 := s.slot.isLt
  have h6 := detail.isLt
  have h7 := s.th.task.isLt
  intro w hw
  simp only [fetchWords, List.mem_cons, List.not_mem_nil, or_false] at hw
  split at hw <;> omega

/-- What a failed fetch does when the queue takes its entry at once. -/
theorem fetchFault_effect (s : State) (cause : Byte) (detail : Word) (c : CtxEntry) (h : TakesEntry s s.th.ctx c)
    (hw : ∀ q ∈ s.fqWait, q.entry.ctx ≠ s.th.ctx) (hh : s.th.held = []) :
    ∃ t, exec (.fetchFault cause detail) s = .next t ∧ Raised s t s.th.ctx (w64 (queueTail s c)) ∧
      (∀ i, (hi : i < (fetchWords s cause detail).length) →
        t.physRead (queuePlace s c + 8 * i) 8 = (fetchWords s cause detail)[i]) ∧
      EntryWritten s t c (s.entryOf cause s.th.pc 1 false 0 detail).value := by
  obtain ⟨k, hk⟩ : ∃ k, (if cause = 0x17 then s.dropFetched else s) = { s with core := k } := by
    split
    · exact dropFetched_rest s
    · exact ⟨_, rfl⟩
  have hx : exec (.fetchFault cause detail) s =
      .next (State.raiseNew { s with core := k } (s.entryOf cause s.th.pc 1 false 0 detail) none) := by
    show Host.Outcome.next (State.parkFault (if cause = 0x17 then s.dropFetched else s) cause s.th.pc false 0 detail) = _
    rw [hk, State.parkFault, raiseHeld_of_none { s with core := k } hh]
    rfl
  obtain ⟨hr, hb⟩ := raiseNew_effect (s := { s with core := k }) (e := s.entryOf cause s.th.pc 1 false 0 detail)
    (h.of_here k s.th) hw
  have hb : EntryWritten s _ c _ := ⟨hb.entry, hb.tail, hb.outside⟩
  refine ⟨_, hx, ⟨hr.status, hr.pc, hr.regs, hr.held⟩, fun i hi => ?_, hb⟩
  have hi8 : i < 8 := hi
  have hword := word_of_value (s.entryOf cause s.th.pc 1 false 0 detail) i (by rw [words_entryOf]; exact hi)
  rw [State.physRead, leRead_of_bytes _ 8 _ ((s.entryOf cause s.th.pc 1 false 0 detail).value / 256 ^ (8 * i))]
  · rw [hword]
    simp only [words_entryOf]
    exact Nat.mod_eq_of_lt (fetchWords_lt s cause detail _ (List.getElem_mem hi))
  · intro j hj
    rw [Nat.add_assoc, hb.entry (8 * i + j) (by omega), Nat.pow_add, Nat.div_div_eq_div_mul]

/-! Entries that wait for space (R132). -/

theorem statServe_of_others (ctx : BitVec 16) (l : List StatWrite) (s : State) (h : ∀ x ∈ l, x.ctx ≠ ctx) :
    s.statServe ctx l = s := by
  induction l with
  | nil => rfl
  | cons x r ih =>
    rw [State.statServe, if_pos (h x (by simp))]
    exact ih fun y hy => h y (by simp [hy])

theorem fqServe_of_others (ctx : BitVec 16) (l : List FqItem) (s : State) (h : ∀ q ∈ l, q.entry.ctx ≠ ctx) :
    s.fqServe ctx l = s := by
  induction l with
  | nil => rfl
  | cons q r ih =>
    rw [State.fqServe, if_pos (h q (by simp))]
    exact ih fun y hy => h y (by simp [hy])

theorem drainNotices_of_others (die : Nat) (ctx : BitVec 16) (l : List FaultEntry) (s : State) (h : ∀ e ∈ l, e.ctx ≠ ctx) :
    s.drainNotices die ctx l = s := by
  induction l with
  | nil => rfl
  | cons e r ih =>
    rw [State.drainNotices, if_pos (h e (by simp))]
    exact ih fun y hy => h y (by simp [hy])

theorem faultQueueSpace_of_others (s : State) (ctx : BitVec 16) (hq : ∀ q ∈ s.fqWait, q.entry.ctx ≠ ctx)
    (hx : ∀ x ∈ s.statWait, x.ctx ≠ ctx) : exec (.faultQueueSpace ctx) s = .next s.requeueHeld := by
  show execFaultQueueSpace ctx s = _
  simp only [execFaultQueueSpace, statServe_of_others ctx _ s hx, fqServe_of_others ctx _ s hq]

/-- The state of a put whose index is known. -/
theorem fqPut_of_written {s : State} {e : FaultEntry} {ix : Word} (h : (s.fqWrite e).1 = some ix) :
    ∃ u, s.fqPut e = (some ix, u) ∧ HomeWork s u := by
  have hput := HomeWork.fqPut s e
  unfold State.fqPut at hput ⊢
  split at hput
  · next u heq =>
    rw [heq] at h
    obtain rfl := Option.some.inj h
    exact ⟨_, rfl, hput⟩
  · next heq => rw [heq] at h; cases h

@[simp] theorem getThread_onSlot_same (s : State) (c : CoreId) (i : Fin 8) (f : Thread → Thread) :
    (s.onSlot c i f).getThread c i = f (s.getThread c i) := getThread_putThread_same s c i _

theorem onlyCores_onSlot (s : State) (c : CoreId) (i : Fin 8) (f : Thread → Thread) : OnlyCores s (s.onSlot c i f) :=
  onlyCores_putThread s c i _

theorem fqWait_of_onlyCores {s t : State} (h : OnlyCores s t) : t.fqWait = s.fqWait := by
  obtain ⟨_, _, _, rfl⟩ := h
  rfl

theorem onlyCores_fqSettled (s : State) (c : CoreId) (i : Fin 8) : OnlyCores s (s.fqSettled c i) := by
  unfold State.fqSettled
  split
  · exact ⟨_, _, _, rfl⟩
  · exact onlyCores_onSlot s c i _

theorem held_fqSettled (s : State) (c : CoreId) (i : Fin 8) :
    ((s.fqSettled c i).getThread c i).held = (s.getThread c i).held := by
  unfold State.fqSettled
  split
  · rfl
  · rw [getThread_onSlot_same]
    split <;> rfl

/-- What a thread holds of an entry that has its index. -/
def indexedEntry (q : FqItem) (ix : Word) (r : Regs) : HeldEntry :=
  { ctx := q.entry.ctx, index := ix, pc := q.entry.fpc, load := q.load, regs := r, copy := none, raised := q.entry.stat == 1
    acked := false, write := q.write }

/-- A load whose entry has its index writes its poison and goes on. -/
def poisoned (q : FqItem) (ix : Word) (op : LoadOp) (after : Regs) (x : Thread) : Thread :=
  { x with
    status := .ready, held := x.held ++ [indexedEntry q ix x.regs]
    regs := after.poisonLoad op q.lanes (BitVec.ofNat 21 (ix.toNat % 65536)), pc := x.pc + 4 }

theorem fqGot_of_load (s : State) (q : FqItem) (ix : Word) (op : LoadOp) (after : Regs) (hs : q.entry.stat ≠ 2)
    (hc : q.copy = none) (ho : q.load = some op) (ha : q.after = some after) :
    s.fqGot q ix = s.onSlot q.core q.slot fun x => poisoned q ix op after x := by
  simp only [State.fqGot, if_neg hs, hc, ho, ha, poisoned, indexedEntry]

theorem fqGot_of_other (s : State) (q : FqItem) (ix : Word) (hs : q.entry.stat ≠ 2) (hc : q.copy = none)
    (hl : q.load = none ∨ q.after = none) :
    s.fqGot q ix = ((s.onSlot q.core q.slot fun x => { x with held := x.held ++ [indexedEntry q ix Regs.zero] }).asThread
      q.core q.slot fun s => s.faultPolicy ix).fqSettled q.core q.slot := by
  unfold State.fqGot
  rw [if_neg hs, hc]
  rcases hl with hl | hl
  · simp only [hl, indexedEntry]
  · cases ho : q.load <;> simp only [ho, hl, indexedEntry]

/-- An entry that waited has its index: its thread holds it. -/
theorem fqGot_effect (s : State) (q : FqItem) (ix : Word) (hs : q.entry.stat ≠ 2) (hc : q.copy = none) :
    let x := s.getThread q.core q.slot
    let y := (s.fqGot q ix).getThread q.core q.slot
    (s.fqGot q ix).fqWait = s.fqWait ∧ (∃ r, y.held = x.held ++ [indexedEntry q ix r]) ∧
      ∀ op after, q.load = some op → q.after = some after → y = poisoned q ix op after x := by
  by_cases hl : q.load = none ∨ q.after = none
  · rw [fqGot_of_other s q ix hs hc hl]
    set u := s.onSlot q.core q.slot fun x => { x with held := x.held ++ [indexedEntry q ix Regs.zero] } with hu
    have hp := Apart.asThread u q.core q.slot (fun s => s.faultPolicy ix) fun v => Apart.faultPolicy v ix
    refine ⟨?_, ⟨Regs.zero, ?_⟩, fun op after ho ha => ?_⟩
    · rw [fqWait_of_onlyCores (onlyCores_fqSettled _ _ _), hp.fqWait, hu, fqWait_of_onlyCores (onlyCores_onSlot s _ _ _)]
    · rw [held_fqSettled, hp.thread, hu, getThread_onSlot_same]
    · rcases hl with hl | hl
      · rw [hl] at ho; cases ho
      · rw [hl] at ha; cases ha
  · obtain ⟨op, ho⟩ := Option.ne_none_iff_exists'.1 fun h => hl (.inl h)
    obtain ⟨after, ha⟩ := Option.ne_none_iff_exists'.1 fun h => hl (.inr h)
    rw [fqGot_of_load s q ix op after hs hc ho ha]
    refine ⟨fqWait_of_onlyCores (onlyCores_onSlot s _ _ _), ⟨_, congrArg Thread.held (getThread_onSlot_same s _ _ _)⟩,
      fun op' after' ho' ha' => ?_⟩
    obtain rfl := Option.some.inj (ho.symm.trans ho')
    obtain rfl := Option.some.inj (ha.symm.trans ha')
    exact getThread_onSlot_same s _ _ _

/-- The first entry that waits gets its index. -/
theorem faultQueueSpace_of_first (s : State) (ctx : BitVec 16) (q : FqItem) (rest : List FqItem) (ix : Word)
    (hf : s.fqWait = q :: rest) (hctx : q.entry.ctx = ctx) (hrest : ∀ p ∈ rest, p.entry.ctx ≠ ctx)
    (hx : ∀ x ∈ s.statWait, x.ctx ≠ ctx) (hw : (s.fqWrite q.entry).1 = some ix) :
    ∃ u, HomeWork s u ∧ exec (.faultQueueSpace ctx) s = .next (State.fqGot { u with fqWait := rest } q ix).requeueHeld := by
  obtain ⟨u, hu, hwork⟩ := fqPut_of_written hw
  have herase : u.fqWait.erase q = rest := by rw [hwork.fqWait, hf, List.erase_cons_head]
  refine ⟨u, hwork, ?_⟩
  show execFaultQueueSpace ctx s = _
  simp only [execFaultQueueSpace, statServe_of_others ctx _ s hx, hf, State.fqServe, hctx, ne_eq, not_true_eq_false, if_false, hu,
    herase, fqServe_of_others ctx rest _ hrest]

/-- The same, as the thread that waited sees it. -/
theorem faultQueueSpace_effect (s : State) (ctx : BitVec 16) (q : FqItem) (rest : List FqItem) (ix : Word)
    (hf : s.fqWait = q :: rest) (hctx : q.entry.ctx = ctx) (hrest : ∀ p ∈ rest, p.entry.ctx ≠ ctx)
    (hx : ∀ x ∈ s.statWait, x.ctx ≠ ctx) (hs : q.entry.stat ≠ 2) (hw : (s.fqWrite q.entry).1 = some ix) (hc : q.copy = none)
    (hp : (s.getThread q.core q.slot).status = .parked (.fqSpace ctx)) :
    let x := s.getThread q.core q.slot
    ∃ t, exec (.faultQueueSpace ctx) s = .next t ∧ t.fqWait = rest ∧
      (∃ h, (t.getThread q.core q.slot).held = x.held ++ [h] ∧ h.index = ix ∧ h.raised = (q.entry.stat == 1)) ∧
      ∀ op after, q.load = some op → q.after = some after →
        let y := t.getThread q.core q.slot
        y.status = .ready ∧ y.pc = x.pc + 4 ∧ y.regs = after.poisonLoad op q.lanes (BitVec.ofNat 21 (ix.toNat % 65536)) := by
  obtain ⟨u, hwork, hx⟩ := faultQueueSpace_of_first s ctx q rest ix hf hctx hrest hx hw
  obtain ⟨-, hpc, -, hheld, -⟩ := hwork.thread q.core q.slot (.fqSpace ctx) hp trivial
  obtain ⟨hwait, ⟨r, hentry⟩, hload⟩ := fqGot_effect { u with fqWait := rest } q ix hs hc
  refine ⟨_, hx, hwait, ⟨_, hentry.trans (congrArg (· ++ _) hheld), rfl, rfl⟩, fun op after ho ha => ?_⟩
  have hy := hload op after ho ha
  exact ⟨congrArg Thread.status hy, (congrArg Thread.pc hy).trans (congrArg (· + 4) hpc), congrArg Thread.regs hy⟩

/-! Notices (R133). -/

theorem noticesOf_of_eq {s t : State} (h : t.notices = s.notices) (die : Nat) : t.noticesOf die = s.noticesOf die := by
  simp only [State.noticesOf, h]

theorem notices_of_onlyCores {s t : State} (h : OnlyCores s t) : t.notices = s.notices := by
  obtain ⟨_, _, _, rfl⟩ := h
  rfl

/-- A remote-fault entry that takes its index leaves the notices. -/
theorem notices_recordIndex (s : State) (e : FaultEntry) (ix : Word) : (s.recordIndex e ix).notices = s.notices := by
  unfold State.recordIndex
  split
  · rfl
  · refine List.foldlRecOn (motive := fun (t : State) => t.notices = s.notices) _ _ rfl fun t ht q _ => ?_
    rw [notices_of_onlyCores (onlyCores_fqSettled _ _ _), (Apart.asThread t q.1 q.2 _ fun v => Apart.faultPolicy v ix).notices, ht]

/-- The first entry that a die holds is written. -/
theorem noticeStoreDrain_effect (s : State) (die : Fin 24) (ctx : BitVec 16) (e : FaultEntry) (rest : List FaultEntry) (ix : Word)
    (hn : (s.noticesOf die.val).entries = e :: rest) (hctx : e.ctx = ctx) (hrest : ∀ x ∈ rest, x.ctx ≠ ctx)
    (hw : (s.fqWrite e).1 = some ix) :
    ∃ t, exec (.noticeStoreDrain die ctx) s = .next t ∧ (t.noticesOf die.val).entries = rest ∧
      (t.noticesOf die.val).dropped = (s.noticesOf die.val).dropped := by
  obtain ⟨u, hu, hwork⟩ := fqPut_of_written hw
  have hns := noticesOf_of_eq hwork.notices die.val
  set v : State := { u with notices := mapSet u.notices die.val { u.noticesOf die.val with entries := rest } } with hv
  have hx : exec (.noticeStoreDrain die ctx) s = .next (v.recordIndex e ix) := by
    show execNoticeStoreDrain die ctx s = _
    simp only [execNoticeStoreDrain, hn, State.drainNotices, hctx, ne_eq, not_true_eq_false, if_false, hu, hns,
      List.erase_cons_head, drainNotices_of_others die.val ctx rest _ hrest, hv]
  have hat : (v.recordIndex e ix).noticesOf die.val = { s.noticesOf die.val with entries := rest } := by
    rw [noticesOf_of_eq (notices_recordIndex v e ix), hv, ← hns]
    simp [State.noticesOf]
  exact ⟨_, hx, by rw [hat], by rw [hat]⟩

/-- A period in which notices were dropped is told. -/
theorem noticeDropAlert_effect (s : State) (die : Fin 24) (h : (s.noticesOf die.val).dropped ≠ 0) :
    ∃ t, exec (.noticeDropAlert die) s = .next t ∧ Undisturbed s t ∧
      (t.noticesOf die.val).entries = (s.noticesOf die.val).entries ∧ (t.noticesOf die.val).dropped = 0 ∧
      t.alrtSeq = s.alrtSeq + 1 := by
  let ns := s.noticesOf die.val
  obtain ⟨held, flight, lost, out, ha⟩ := alert_rest s 0x0A die.val ns.dropCtx
    [ns.dropCtx.setWidth 64, w64 ns.dropped, ns.dropCause.setWidth 64]
  have hx : exec (.noticeDropAlert die) s = .next { s with
      alrtSeq := s.alrtSeq + 1, alrtHeld := held, alrtFlight := flight, alrtLost := lost, outbox := out
      notices := mapSet s.notices die.val { ns with dropped := 0, dropCtx := 0, dropCause := 0 } } := by
    show execNoticeDropAlert die s = _
    simp only [execNoticeDropAlert, if_neg h]
    rw [ha]
  refine ⟨_, hx, ⟨rfl, rfl, rfl, rfl, rfl, fun _ => rfl⟩, ?_, ?_, rfl⟩ <;> simp [State.noticesOf, ns]

end Sys2Proof.Proofs
end

section
/-! PROOF. Requests that leave a core touch no core (R35, R66, R67, R147); and a thread that waits behind a fault queue rests while
writes on their way are performed and device memory is read (R34, R60, R150, R157). -/

namespace Sys2Proof.Proofs

open Sys2Proof.Machine Sys2Proof.Claims Sys2Proof.Laws

/-! Requests that leave. -/

theorem outer_outstanding (s : State) (l : List Outstanding) : Outer s { s with outstanding := l } :=
  ⟨⟨_, _, _, _, _, _, _, _, _, _, _, _, _, _, rfl⟩, List.prefix_rfl, List.prefix_rfl⟩

theorem outer_later (s : State) (i : Instr) : Outer s (s.later i) := (OnlyDue.later s i).outer

theorem outer_linkSend (s : State) (k : Fin 24) (vn : Nat) (q : List (BitVec 128)) (i : Option Instr) :
    Outer s (s.linkSend k vn q i) := by
  unfold State.linkSend
  split
  · exact outer_onLink s k _
  · exact (linkOne_effect s k _).1

theorem outer_enterGateway (s : State) (o : Outstanding) : Outer s (s.enterGateway o) := by
  unfold State.enterGateway
  refine (outer_outstanding s (s.outstanding ++ [o])).trans ?_
  dsimp only
  split
  · exact outer_later _ _
  · split
    · exact outer_later _ _
    · exact (Outer.foldl _ (fun t q => outer_linkSend t _ _ q _) _ _).trans (outer_linkSend _ _ _ _ _)

theorem outer_hostRequest (s : State) (o : Outstanding) (kind : CxlReq) (n : Nat) (data : Option (BitVec 512)) :
    Outer s (s.hostRequest o kind n data) := by
  unfold State.hostRequest
  split
  · exact (outer_outstanding s _).trans (outer_later _ _)
  · exact (outer_outstanding s _).trans (outer_out _ _)

theorem outer_sendGroup (s : State) (c : CoreId) (tid slot : Nat) (ws : List WriteMsg) : Outer s (s.sendGroup c tid slot ws) := by
  unfold State.sendGroup
  split
  · exact .refl s
  · exact ((outer_out s _).trans (outer_enterGateway _ _)).trans (outer_outstanding _ _)

theorem outer_sendWrite (s : State) (c : CoreId) (tid slot : Nat) (w : WriteMsg) : Outer s (s.sendWrite c tid slot w) := by
  unfold State.sendWrite
  dsimp only
  split
  · split <;> exact outer_hostRequest s _ _ _ _
  · exact outer_sendGroup s c tid slot [w]

theorem outer_obtain (s : State) (asker : CoreId) (tid : Nat) (engine : Option Nat) (pa n : Nat) (own : Bool) :
    Outer s (s.obtain asker tid engine pa n own).2 := by
  unfold State.obtain
  dsimp only
  split
  · exact .refl s
  · generalize (if lineOf pa = _ then pa else pa + n - 1) = at'
    split
    · exact .refl s
    · split
      · exact .refl s
      · dsimp only
        exact outer_hostRequest s _ _ _ _

theorem outer_ask (s : State) (p : Phys) (n : Nat) : Outer s (s.ask p n).2 := by
  unfold State.ask
  dsimp only
  split
  · exact .refl s
  · dsimp only
    split
    · exact outer_hostRequest s _ _ _ _
    · exact (outer_enterGateway s _).trans (outer_out _ _)

/-! The relation. -/

/-- The current slot is the same one, and every thread that waits behind a fault queue rests. -/
structure Resting (s t : State) : Prop where
  loc : t.loc = s.loc
  slot : t.slot = s.slot
  thread : ∀ c i, Rests (s.getThread c i) (t.getThread c i)

namespace Resting

variable {s t u : State}

theorem refl (s : State) : Resting s s := ⟨rfl, rfl, fun _ _ => .refl _⟩

theorem trans (a : Resting s t) (b : Resting t u) : Resting s u :=
  ⟨b.loc.trans a.loc, b.slot.trans a.slot, fun c i => (a.thread c i).trans (b.thread c i)⟩

theorem foldl {α : Type} (f : State → α → State) (h : ∀ s a, Resting s (f s a)) (l : List α) (s : State) : Resting s (l.foldl f s) :=
  List.foldlRecOn l f (refl s) fun t ht a _ => ht.trans (h t a)

theorem ite (c : Prop) [Decidable c] (h : Resting s t) (h' : Resting s u) : Resting s (if c then t else u) := by
  split
  · exact h
  · exact h'

theorem of_pair {α : Type} {x : α × State} {a : α} (h : Resting s x.2) (he : x = (a, t)) : Resting s t := by
  rw [he] at h
  exact h

/-- The cores and the current thread are as they were. -/
theorem of_cores (hl : t.loc = s.loc) (hs : t.slot = s.slot) (h : ∀ c i, t.getThread c i = s.getThread c i) : Resting s t :=
  ⟨hl, hs, fun c i => by rw [h]; exact .refl _⟩

theorem of_outer (h : Outer s t) : Resting s t := by
  obtain ⟨_, _, _, _, _, _, _, _, _, _, _, _, _, _, rfl⟩ := h.rest
  exact of_cores rfl rfl fun _ _ => rfl

theorem of_homeWork (h : HomeWork s t) : Resting s t := ⟨h.loc, h.slot, h.thread⟩

theorem of_seen (h : Seen s t) : Resting s t := by
  refine of_cores h.loc h.slot fun c i => ?_
  by_cases hc : c = s.loc ∧ i = s.slot
  · obtain ⟨rfl, rfl⟩ := hc
    rw [getThread_current, ← h.loc, ← h.slot, getThread_current, h.th]
  · exact h.getThread c i hc

theorem onCore (s : State) (c : CoreId) (f : Core → Core) (h : ∀ k, RestsCore k (f k)) : Resting s (s.onCore c f) :=
  of_homeWork (.onCore s c f h)

theorem th (h : Resting s t) : Rests s.th t.th := by
  have := h.thread s.loc s.slot
  rwa [getThread_current, ← h.loc, ← h.slot, getThread_current] at this

/-- A thread named by its dispatch number is changed, but not in its work. -/
theorem onTid (s : State) (c : CoreId) (tid : Nat) (f : Thread → Thread) (h : ∀ x, Rests x (f x)) : Resting s (s.onTid c tid f) := by
  refine onCore s c _ fun k i => ?_
  simp only [Core.onTid, Fin.getElem_fin, Vector.getElem_map]
  split
  · exact h _
  · exact .refl _

/-! Notices of writes that failed (R133, R140). -/

theorem keepNotice (s : State) (die : Nat) (e : FaultEntry) : Resting s (s.keepNotice die e) :=
  ite _ (of_cores rfl rfl fun _ _ => rfl) (ite _ (of_cores rfl rfl fun _ _ => rfl) (refl s))

theorem noticeIx (s : State) (die : Nat) (e : FaultEntry) : Resting s (s.noticeIx die e).2 := by
  unfold State.noticeIx
  split
  · exact keepNotice s die e
  · have hput := of_homeWork (.fqPut s e)
    split
    · next heq => exact of_pair hput heq
    · next heq => exact (of_pair hput heq).trans (keepNotice _ die e)

theorem writeFailedOn (s : State) (c : CoreId) (tid die : Nat) (near : Bool) (cause : Byte) (w : WriteMsg) :
    Resting s (s.writeFailedOn c tid die near cause w) :=
  (noticeIx s die _).trans (onTid _ c tid _ fun _ => .of_work ⟨rfl, rfl, rfl, rfl, rfl⟩)

/-! Registers written by a store (R60, R71 to R73, R80). -/

theorem mailboxSet (s : State) (n : Fin 8) (m : Mailbox) : Resting s (s.mailboxSet n m) := by
  refine ite _ (refl s) (Resting.trans (t := { s with mailboxes := _ }) ?_ (of_homeWork (.trigger _ _)))
  exact of_cores rfl rfl fun _ _ => rfl

theorem msix (s : State) (n : Nat) : Resting s (s.msix n) := by
  unfold State.msix
  split
  · exact of_outer (outer_out s _)
  · exact refl s

theorem alertSend (s : State) (a : Alert) : Resting s (s.alertSend a) :=
  ite _ (of_cores rfl rfl fun _ _ => rfl) (of_cores rfl rfl fun _ _ => rfl)

theorem writeAlrtctl (s : State) (v : Word) : Resting s (s.writeAlrtctl v) := by
  unfold State.writeAlrtctl State.deliverHeld
  refine Resting.trans (t := { s with alrtLog2n := bits v 4 0, alrtEn := v.getLsbD 8 }) (of_cores rfl rfl fun _ _ => rfl) ?_
  refine ite _ (Resting.trans (t := { s with alrtLog2n := bits v 4 0, alrtEn := v.getLsbD 8, alrtHeld := [] }) ?_
    (foldl _ alertSend _ _)) (refl _)
  exact of_cores rfl rfl fun _ _ => rfl

theorem writeAlert (s : State) (ix : Nat) (v : Word) : Resting s (s.writeAlert ix v) := by
  unfold State.writeAlert
  split
  · exact of_cores rfl rfl fun _ _ => rfl
  · exact writeAlrtctl s v
  · exact of_cores rfl rfl fun _ _ => rfl
  · exact refl s

theorem lockLct (s : State) : Resting s s.lockLct :=
  ite _ (refl s) (ite _ (of_cores rfl rfl fun _ _ => rfl) (of_cores rfl rfl fun _ _ => rfl))

theorem writePart (s : State) (p : Fin 16) (v : Word) : Resting s (s.writePart p v) := by
  have hparts : ∀ x, Resting s { s with parts := s.parts.set p x } := fun _ => of_cores rfl rfl fun _ _ => rfl
  have hlater : ∀ x i, Resting s (({ s with parts := s.parts.set p x } : State).later i) := fun x i =>
    (hparts x).trans (of_outer (outer_later _ i))
  unfold State.writePart
  dsimp only
  refine ite _ (hparts _) (ite _ (hlater _ _) (ite _ ?_ (ite _ (hlater _ _) (ite _ (hlater _ _) ?_))))
  · refine (hparts _).trans ((of_homeWork (.mapCores _ _ fun c k => ?_)).trans (of_outer (outer_requeueHeld _)))
    split <;> exact .of_slots rfl
  · exact (hparts _).trans (of_outer (outer_requeueHeld _))

theorem writeFpctl (s : State) (p : Fin 36) (off rekey : Bool) :
    Resting s (if rekey then (s.writeOff p off).startRekey p else s.writeOff p off) := by
  have hports : ∀ x, Resting s { s with fports := s.fports.set p x } := fun _ => of_cores rfl rfl fun _ _ => rfl
  have hoff : Resting s (s.writeOff p off) :=
    ite _ (ite _ (hports _) ((hports _).trans (of_outer (outer_later _ _)))) (hports _)
  have hrekey : ∀ t : State, Resting t (t.startRekey p) := fun t => by
    have h := of_outer (outer_onPort t p fun f => { f with rekey := true })
    unfold State.startRekey State.startExchange
    refine ite _ (h.trans ?_) h
    exact (of_outer (outer_onPort _ p _)).trans ((of_outer (outer_out _ _)).trans (of_outer (PortWork.sendKeyFlit _).outer))
  exact ite _ (hoff.trans (hrekey _)) hoff

theorem writeMReg (s : State) (host : Bool) (r : MReg) (v : Word) : Resting s (s.writeMReg host r v) := by
  cases r with
  | mailbox n w =>
    unfold State.writeMReg
    dsimp only
    split
    · exact ite _ (refl s) (ite _ (mailboxSet s n _) (mailboxSet s n _))
    · refine ite _ (refl s) (ite _ (mailboxSet s n _) ?_)
      exact ite _ ((mailboxSet s n _).trans (msix _ _)) (mailboxSet s n _)
    · exact mailboxSet s n _
    · exact refl s
  | alert ix => exact writeAlert s ix v
  | ctxtbase =>
    exact Resting.trans (t := { s with ctxtEn := v.getLsbD 0, ctxtBase := bits v 51 22 * 0x400000 })
      (of_cores rfl rfl fun _ _ => rfl)
      ((of_outer (onlyDue_retryQueues _).outer).trans (of_outer (outer_requeueHeld _)))
  | part p => exact writePart s p v
  | partmem p => exact of_cores rfl rfl fun _ _ => rfl
  | lctctl => exact ite _ (lockLct s) (refl s)
  | tvbase => exact of_cores rfl rfl fun _ _ => rfl
  | lct n => exact ite _ (refl s) (of_cores rfl rfl fun _ _ => rfl)
  | fpctl p => exact writeFpctl s p _ _
  | ltgen => exact refl s
  | fport _ => exact refl s
  | ltent _ => exact refl s

/-! Writes that are performed (R34, R60, R66, R151, R167). -/

theorem cleanHalf (s : State) (half : Nat) (ctx : BitVec 16) : Resting s (s.cleanHalf half ctx) := by
  unfold State.cleanHalf
  split
  · exact refl s
  · exact ite _ (of_cores rfl rfl fun _ _ => rfl) (refl s)

theorem dirtyHalf (s : State) (half : Nat) (ctx : BitVec 16) : Resting s (s.dirtyHalf half ctx) := by
  have h := (cleanHalf s (half / 2 * 2) ctx).trans (cleanHalf _ (half / 2 * 2 + 1) ctx)
  unfold State.dirtyHalf
  dsimp only
  split
  · exact h
  · exact h.trans (of_cores rfl rfl fun _ _ => rfl)

theorem dirtyHost (s : State) (pa n : Nat) (ctx : BitVec 16) : Resting s (s.dirtyHost pa n ctx) :=
  ite _ (dirtyHalf s _ _) ((dirtyHalf s _ _).trans (dirtyHalf _ _ _))

theorem leaveCore (s : State) (c : CoreId) (ls : List Nat) : Resting s (s.leaveCore c ls) := by
  refine foldl _ (fun t l => (of_homeWork (.endExcl t c l)).trans (onCore _ c _ fun _ => ?_)) ls s
  exact .of_slots rfl

theorem atomicDev (s : State) (src : Source) (pa op b exp : Nat) (wide : Bool) :
    Resting s (s.atomicDev src pa op b exp wide).2 := by
  have h := fun n v => of_homeWork (.serialise s src pa n v)
  unfold State.atomicDev
  dsimp only
  split
  · next heq => exact (of_pair (h _ _) heq).trans (ite _ (leaveCore _ _ _) (refl _))
  · next heq => exact of_pair (h _ _) heq
  · next heq => exact of_pair (h _ _) heq

theorem performMsg (s : State) (c : CoreId) (tid : Nat) (w : WriteMsg) (asker : Nat) :
    Resting s (s.performMsg c tid w asker).2 := by
  unfold State.performMsg
  split
  · split
    · exact refl s
    · exact writeMReg s false _ _
    · exact refl s
  · exact refl s
  case h_3 | h_4 =>
    dsimp only
    split
    · exact of_homeWork (.serialise s _ _ _ _)
    · next op exp _ =>
      have h := atomicDev s ⟨c, tid, w.ctx, !isCmd c && !w.leaf.getLsbD 8⟩ w.pa op w.data.toNat exp.toNat w.wide
      split <;> next heq => exact of_pair h heq
  · split
    · exact refl s
    · exact refl s
    · have hown := of_outer (outer_obtain s c asker none w.pa w.n true)
      split
      · next heq => exact of_pair hown heq
      · next u heq =>
        have hu := of_pair hown heq
        split
        · exact hu
        · refine hu.trans ((dirtyHost u w.pa w.n w.ctx).trans ((of_homeWork (.storeBytes _ _ _ _ _)).trans
            (foldl _ (fun t l => of_homeWork (.trigger t l)) _ _)))

theorem unqueue (s : State) (c : CoreId) (p : Pending) : Resting s (s.unqueue c p) := by
  refine onCore s c _ fun _ => ?_
  exact .of_slots rfl

theorem endWrite (s : State) (c : CoreId) (tid : Nat) (near dev hst : Bool) :
    Resting s (s.onTid c tid (Thread.endWrite near dev hst)) :=
  onTid s c tid _ fun _ => .of_work ⟨rfl, rfl, rfl, rfl, rfl⟩

theorem performOne (s : State) (c : CoreId) (p : Pending) : Resting s (s.performOne c p).2 := by
  have hgone : ∀ u : State, Resting u ((u.unqueue c p).onTid c p.tid (Thread.endWrite p.near false false)) := fun u =>
    (unqueue u c p).trans (endWrite _ _ _ _ _ _)
  have hmsg := performMsg s c p.tid p.msg 0
  unfold State.performOne
  split
  · dsimp only
    split
    · next u heq => exact (of_pair hmsg heq).trans (hgone u)
    · next heq => exact of_pair hmsg heq
    · next u heq => exact (of_pair hmsg heq).trans ((hgone u).trans (writeFailedOn _ _ _ _ _ _ _))
  · split
    · exact (hgone s).trans (writeFailedOn _ _ _ _ _ _ _)
    · split
      · exact (unqueue s c p).trans (of_outer (outer_sendWrite _ _ _ _ _))
      · exact refl s

theorem performSeq (l : List (CoreId × Pending)) (s : State) : Resting s (s.performSeq l).2 := by
  induction l generalizing s with
  | nil => exact refl s
  | cons q r ih =>
    have h := performOne s q.1 q.2
    unfold State.performSeq
    split
    · next u heq => exact (of_pair h heq).trans (ih u)
    · exact h

theorem performAll (l : List Pending) (s : State) (c : CoreId) : Resting s (s.performAll c l).2 := by
  induction l generalizing s with
  | nil => exact refl s
  | cons p r ih =>
    have h : Resting s (s.perform c p).2 := by
      have hseq := performSeq (s.olderWrites c p) s
      unfold State.perform
      split
      · next u heq => exact (of_pair hseq heq).trans (performOne u c p)
      · exact hseq
    unfold State.performAll
    split
    · next u heq => exact (of_pair h heq).trans (ih u)
    · exact h

/-! Loads (R66, R150, R157). -/

theorem settle (s : State) (c : CoreId) (pa : Nat) : Resting s (s.settle c pa).2 := performSeq _ s

theorem awayPiece (s : State) (p : Phys) (n : Nat) : Resting s (s.awayPiece p n).2 := by
  unfold State.awayPiece
  dsimp only
  split
  · exact refl s
  · split
    · split <;> exact refl s
    · exact of_outer (outer_ask s p n)

theorem hostPiece (s : State) (p : Phys) (n : Nat) : Resting s (s.hostPiece p n).2 := by
  have hset := settle s s.loc p.pa
  unfold State.hostPiece
  split
  · exact refl s
  · split
    · next heq => exact of_pair hset heq
    · next u _ heq =>
      have hown := (of_pair hset heq).trans (of_outer (outer_obtain u u.loc u.th.order none p.pa n false))
      split <;> next heq => exact of_pair hown heq

theorem loadHere (s : State) (p : Phys) (n : Nat) : Resting s (s.loadHere p n).2 := by
  unfold State.loadHere
  split
  · exact awayPiece s p n
  · split
    · exact refl s
    · split <;> exact refl s
    · split
      · exact refl s
      · exact refl s
      · split
        · exact hostPiece s p n
        · exact awayPiece s p n
    case h_4 | h_5 =>
      have hset := settle s s.loc p.pa
      dsimp only
      split
      · exact refl s
      · split
        · next heq => exact of_pair hset heq
        · next u _ heq =>
          have hread := (of_pair hset heq).trans
            (of_homeWork (.serveRead u u.loc p.pa n (!isCmd u.loc && !p.uncached) u.th.order))
          split <;> next heq => exact of_pair hread heq

theorem loadPieces (ps : List (Phys × Nat)) (s : State) : Resting s (s.loadPieces ps).2 := by
  induction ps generalizing s with
  | nil => exact refl s
  | cons q r ih =>
    obtain ⟨p, n⟩ := q
    have h : Resting s (s.loadPiece p n).2 := by
      have hflush : Resting s (s.flushAmos p.pa n).2 := performAll _ s s.loc
      unfold State.loadPiece
      split
      · next u heq => exact (of_pair hflush heq).trans (loadHere u p n)
      · next heq => exact of_pair hflush heq
      · next heq => exact of_pair hflush heq
    unfold State.loadPieces
    split
    · next u heq =>
      have hr := (of_pair h heq).trans (ih u)
      split
      · next heq => exact of_pair hr heq
      · exact hr
    · exact h

/-- A load that finds its value. -/
theorem loadVa (s : State) (va : Word) (n v : Nat) (h : (s.loadVa va n).1 = .value v) : Resting s (s.loadVa va n).2 := by
  revert h
  unfold State.loadVa
  split
  · split <;> exact nofun
  · next ps u heq =>
    have hx := of_seen (seen_xlateSpan s va n .load (ps := ps) (by rw [heq]))
    rw [heq] at hx
    split
    · exact nofun
    · exact fun _ => Resting.trans hx (loadPieces ps u)

end Resting

end Sys2Proof.Proofs
end

section
/-! PROOF. The replay of a thread (R136): poison written with what its payload names, and the two ends of a replay that has no
log to run. -/

namespace Sys2Proof.Proofs

open Sys2Proof.Machine Sys2Proof.Claims Sys2Proof.Laws

/-! Poison resolved. -/

/-- One scalar register, and one mask, written with what its payload names. -/
def resolveScalar (ps : List Producer) (r : Regs) (i : Reg) : Regs :=
  match ((r.rxp i).bind (producerOf ps)).bind Producer.scalar with
  | some v => r.wx i v
  | none => r
def resolveMask (ps : List Producer) (r : Regs) (i : KReg) : Regs :=
  match ((r.rkp i).bind (producerOf ps)).bind Producer.mask with
  | some v => r.wk i v
  | none => r

theorem resolve_eq (r : Regs) (ps : List Producer) : r.resolve ps =
    (List.finRange 32).foldl (fun r d => r.resolveLanes ps d)
      ((List.finRange 8).foldl (resolveMask ps) ((List.finRange 32).foldl (resolveScalar ps) r)) := rfl

theorem resolve_nil (r : Regs) : r.resolve [] = r := by
  have hnone : ∀ o : Option Payload, o.bind (producerOf []) = none := fun o => by cases o <;> rfl
  have hscalar : ∀ i, resolveScalar [] r i = r := fun i => by
    unfold resolveScalar
    rw [hnone]
    rfl
  have hmask : ∀ i, resolveMask [] r i = r := fun i => by
    unfold resolveMask
    rw [hnone]
    rfl
  have hlanes : ∀ d : VReg, r.resolveLanes [] d = r := fun d => List.foldl_fixed' (fun _ => rfl) _
  rw [resolve_eq, List.foldl_fixed' hscalar, List.foldl_fixed' hmask, List.foldl_fixed' hlanes]

/-- The scalar registers, and which of them hold poison. -/
def SameScalars (r q : Regs) : Prop := q.x = r.x ∧ q.xp = r.xp

theorem SameScalars.rx {r q : Regs} (h : SameScalars r q) (i : Reg) : q.rx i = r.rx i := by rw [Regs.rx, h.1]; rfl

theorem SameScalars.rxp {r q : Regs} (h : SameScalars r q) (i : Reg) : q.rxp i = r.rxp i := by rw [Regs.rxp, h.2]; rfl

theorem SameScalars.trans {r q p : Regs} (a : SameScalars r q) (b : SameScalars q p) : SameScalars r p :=
  ⟨b.1.trans a.1, b.2.trans a.2⟩

theorem sameScalars_foldl {α : Type} (f : Regs → α → Regs) (h : ∀ r a, SameScalars r (f r a)) (l : List α) (r : Regs) :
    SameScalars r (l.foldl f r) :=
  List.foldlRecOn l f ⟨rfl, rfl⟩ fun q hq a _ => hq.trans (h q a)

theorem sameScalars_resolveMask (ps : List Producer) (r : Regs) (i : KReg) : SameScalars r (resolveMask ps r i) := by
  unfold resolveMask Regs.wk
  split
  · split <;> exact ⟨rfl, rfl⟩
  · exact ⟨rfl, rfl⟩

theorem sameScalars_resolveLanes (ps : List Producer) (d : VReg) (r : Regs) : SameScalars r (r.resolveLanes ps d) := by
  refine sameScalars_foldl _ (fun q e => ?_) _ r
  split <;> exact ⟨rfl, rfl⟩

theorem rxp_wx (r : Regs) (i j : Reg) (v : Word) (hj : j ≠ 0) : (r.wx j v).rxp i = if i = j then none else r.rxp i := by
  unfold Regs.wx Regs.rxp
  rw [if_neg hj]
  by_cases hi : i = j
  · subst hi
    simp [hj]
  · have hv : j.val ≠ i.val := fun he => hi (Fin.ext he.symm)
    simp [hi, hv]

/-- What the scalar registers are while the one that holds poison waits for its value or has it. -/
structure Resolving (r : Regs) (d : Reg) (v : Word) (q : Regs) : Prop where
  others : ∀ i, i ≠ d → q.rxp i = none ∧ q.rx i = r.rx i
  own : q.rxp d = r.rxp d ∨ (q.rxp d = none ∧ q.rx d = v)

/-- One register that holds poison is written with the value that its payload names; the other scalars stay. -/
theorem resolve_one (r : Regs) (ps : List Producer) (d : Reg) (p : Payload) (v : Word) (hp : r.rxp d = some p)
    (hv : (producerOf ps p).bind Producer.scalar = some v) (ho : ∀ i, i ≠ d → r.rxp i = none) :
    (r.resolve ps).rxp d = none ∧ (r.resolve ps).rx d = v ∧ ∀ i, i ≠ d → (r.resolve ps).rx i = r.rx i := by
  have hd : d ≠ 0 := by
    rintro rfl
    simp [Regs.rxp] at hp
  have hkeep : ∀ q i, q.rxp i = none → resolveScalar ps q i = q := fun q i h => by
    unfold resolveScalar
    rw [h]
    rfl
  have hwrite : ∀ q, q.rxp d = r.rxp d → resolveScalar ps q d = q.wx d v := fun q h => by
    unfold resolveScalar
    rw [h, hp]
    simp only [Option.bind_some, hv]
  have hown : ∀ q, Resolving r d v q → Resolving r d v (resolveScalar ps q d) ∧ (resolveScalar ps q d).rxp d = none := by
    intro q hq
    rcases hq.own with h | ⟨hn, hx⟩
    · have h1 := fun i => rxp_wx q i d v hd
      have h2 := fun i => rx_wx q i d v hd
      rw [hwrite q h]
      have hnone : (q.wx d v).rxp d = none := by rw [h1, if_pos rfl]
      refine ⟨⟨fun i hi => ?_, .inr ⟨hnone, by rw [h2, if_pos rfl]⟩⟩, hnone⟩
      rw [h1, h2, if_neg hi, if_neg hi]
      exact hq.others i hi
    · rw [hkeep q d hn]
      exact ⟨hq, hn⟩
  have hstep : ∀ q i, Resolving r d v q → Resolving r d v (resolveScalar ps q i) := by
    intro q i hq
    by_cases hi : i = d
    · exact hi ▸ (hown q hq).1
    · rw [hkeep q i (hq.others i hi).1]
      exact hq
  have hstay : ∀ q i, Resolving r d v q → q.rxp d = none → (resolveScalar ps q i).rxp d = none := by
    intro q i hq hn
    by_cases hi : i = d
    · exact hi ▸ (hown q hq).2
    · rw [hkeep q i (hq.others i hi).1]
      exact hn
  have hstart : Resolving r d v r := ⟨fun i hi => ⟨ho i hi, rfl⟩, .inl rfl⟩
  have hall : Resolving r d v ((List.finRange 32).foldl (resolveScalar ps) r) :=
    List.foldlRecOn _ _ hstart fun q hq i _ => hstep q i hq
  have hdone := foldl_reaches (resolveScalar ps) (Resolving r d v) (fun q => q.rxp d = none) hstep hstay d
    (fun q hq => (hown q hq).2) (List.finRange 32) (List.mem_finRange d) r hstart
  have hrest : SameScalars ((List.finRange 32).foldl (resolveScalar ps) r) (r.resolve ps) := by
    rw [resolve_eq]
    exact (sameScalars_foldl _ (sameScalars_resolveMask ps) _ _).trans
      (sameScalars_foldl _ (fun q d => sameScalars_resolveLanes ps d q) _ _)
  refine ⟨(hrest.rxp d).trans hdone, (hrest.rx d).trans ?_, fun i hi => (hrest.rx i).trans (hall.others i hi).2⟩
  rcases hall.own with h | ⟨-, hx⟩
  · rw [hdone, hp] at h
    cases h
  · exact hx

/-! A replay without a log. -/

theorem replayLoads_of_none (s : State) (again : Instr) (l : List HeldEntry) (h : ∀ e ∈ l, e.load = none) :
    s.replayLoads again l = .go s := by
  induction l with
  | nil => rfl
  | cons e r ih =>
    have he := h e (by simp)
    unfold State.replayLoads
    rw [he]
    exact ih fun x hx => h x (by simp [hx])

theorem resendAll_of_none (s : State) (again : Instr) (l : List HeldEntry) (h : ∀ e ∈ l, e.write = none) :
    s.resendAll again l = .go s := by
  induction l with
  | nil => rfl
  | cons e r ih =>
    have he := h e (by simp)
    unfold State.resendAll
    rw [he]
    exact ih fun x hx => h x (by simp [hx])

theorem resumeCopies_of_none (s : State) (h : ∀ e ∈ s.th.held, e.copy = none) : s.resumeCopies = s := by
  refine List.foldlRecOn (motive := fun t => t = s) _ _ rfl fun t ht e he => ?_
  rw [h e (List.mem_filter.1 he).1]
  exact ht

/-- A thread whose replay has ended. -/
def replayed (ps : List Producer) (x : Thread) : Thread :=
  { x with status := .ready, regs := x.regs.resolve ps, log := [], held := x.held.filter (!·.raised), got := [] }

/-- A replay whose loads are done, of a thread with an empty log and nothing to send again. -/
theorem replay_of_loaded (s u : State) (again : Instr) (hl : s.replayLoads again s.th.held = .go u) (hlog : u.th.log = [])
    (hh : ∀ e ∈ u.th.held, e.copy = none ∧ e.write = none) :
    s.replay again = u.onTh fun x => replayed u.th.loadProducers x := by
  have hsend := resendAll_of_none u again u.th.held fun e he => (hh e he).2
  have hcopies := resumeCopies_of_none u fun e he => (hh e he).1
  simp only [State.replay, hl, hlog, State.replayLog, hsend, State.replayEnd, hcopies, replayed]

/-- The state in which a thread's replay runs: the thread is the current one, and what an earlier walk found is forgotten. -/
def replayStart (s : State) (c : CoreId) (i : Fin 8) : State :=
  (s.focus c i).onTh fun t => { t with walked := if t.rewalk then t.walked else [], rewalk := false }

/-- Of its thread a replay's start keeps the work. -/
theorem replayStart_work (s : State) (c : CoreId) (i : Fin 8) : SameWork (s.getThread c i) (replayStart s c i).th := by
  rw [← focus_th]
  exact ⟨rfl, rfl, rfl, rfl, rfl⟩

theorem taskReplay_eq (s : State) (c : CoreId) (i : Fin 8) (hp : (s.getThread c i).status = .parked .fault)
    (ha : (s.getThread c i).allAcked = true) (hd : (s.getThread c i).dispatchFault = none) :
    exec (.taskReplay c i) s = .next (((replayStart s c i).replay (.taskReplay c i)).focus s.loc s.slot) := by
  have hdisp : (replayStart s c i).th.dispatchFault = none := by
    rw [← hd, ← focus_th]
    rfl
  show execTaskReplay c i s = _
  unfold execTaskReplay
  dsimp only
  rw [if_neg (by simp [hp, ha])]
  unfold State.asThread
  show Host.Outcome.next (State.focus (match (replayStart s c i).th.dispatchFault with
    | some (_, va) => _
    | none => _) _ _) = _
  rw [hdisp]
  rfl

end Sys2Proof.Proofs
end

section
/-! PROOF. What a replay leaves of its thread (R136): one that has nothing to perform again, and one that performs one scalar load
again. -/

namespace Sys2Proof.Proofs

open Sys2Proof.Machine Sys2Proof.Claims Sys2Proof.Laws

/-- A replay whose loads are done leaves the thread as its loads' values make it, and memory as the loads left it. -/
theorem taskReplay_of_loaded (s u : State) (c : CoreId) (i : Fin 8) (hp : (s.getThread c i).status = .parked .fault)
    (ha : (s.getThread c i).allAcked = true) (hd : (s.getThread c i).dispatchFault = none)
    (hl : (replayStart s c i).replayLoads (.taskReplay c i) (replayStart s c i).th.held = .go u) (hlog : u.th.log = [])
    (hh : ∀ e ∈ u.th.held, e.copy = none ∧ e.write = none) (hloc : u.loc = c) (hslot : u.slot = i) :
    ∃ t, exec (.taskReplay c i) s = .next t ∧ t.getThread c i = replayed u.th.loadProducers u.th ∧
      ∀ a, t.physByte a = u.physByte a := by
  subst hloc hslot
  refine ⟨_, taskReplay_eq s u.loc u.slot hp ha hd, ?_, fun _ => ?_⟩
  · rw [getThread_focus, replay_of_loaded _ u _ hl hlog hh]
    exact getThread_current _
  · rw [replay_of_loaded _ u _ hl hlog hh]
    rfl

/-- A thread whose held entries are raised, and which has nothing to perform again, goes on where it stood. -/
theorem taskReplay_idle (s : State) (c : CoreId) (i : Fin 8) (hp : (s.getThread c i).status = .parked .fault)
    (ha : (s.getThread c i).allAcked = true) (hd : (s.getThread c i).dispatchFault = none) (hlog : (s.getThread c i).log = [])
    (hh : ∀ h ∈ (s.getThread c i).held, h.raised = true ∧ h.load = none ∧ h.copy = none ∧ h.write = none) :
    ∃ t, exec (.taskReplay c i) s = .next t ∧ (t.getThread c i).status = .ready ∧
      (t.getThread c i).pc = (s.getThread c i).pc ∧ (t.getThread c i).held = [] ∧
      (t.getThread c i).regs = (s.getThread c i).regs ∧ ∀ a, t.physByte a = s.physByte a := by
  have hw := replayStart_work s c i
  rw [← hw.held] at hh
  obtain ⟨t, ht, hthread, hbyte⟩ := taskReplay_of_loaded s (replayStart s c i) c i hp ha hd
    (replayLoads_of_none _ _ _ fun e he => (hh e he).2.1) (hw.log.trans hlog) (fun e he => (hh e he).2.2) rfl rfl
  have hprod : (replayStart s c i).th.loadProducers = [] := by
    rw [Thread.loadProducers, List.filterMap_eq_nil_iff]
    exact fun e he => by rw [(hh e he).2.1]
  rw [hprod] at hthread
  refine ⟨t, ht, by rw [hthread]; rfl, ?_, ?_, ?_, hbyte⟩
  · rw [hthread]
    exact hw.pc
  · rw [hthread, replayed, List.filter_eq_nil_iff]
    exact fun e he => by simp [(hh e he).1]
  · rw [hthread, replayed]
    dsimp only
    rw [resolve_nil]
    exact hw.regs

/-- A held load that has been performed again, with the registers that have its result. -/
def performedAgain (h : HeldEntry) (r : Regs) : HeldEntry := { h with value := some r }

/-- The producer that a scalar load performed again is. -/
def scalarProducer (h : HeldEntry) (d : Reg) (r : Regs) : Producer := ⟨0, h.index.toNat % 65536, .x d, r⟩

/-- The payload that a load's poison carries names that load. -/
theorem producerOf_scalarProducer (h : HeldEntry) (d : Reg) (r : Regs) :
    producerOf [scalarProducer h d r] (BitVec.ofNat 21 (h.index.toNat % 65536)) = some (scalarProducer h d r) := by
  have hlt : h.index.toNat % 65536 < 65536 := Nat.mod_lt _ (by decide)
  have hnat : (BitVec.ofNat 21 (h.index.toNat % 65536)).toNat = h.index.toNat % 65536 := by
    rw [BitVec.toNat_ofNat]
    omega
  simp [producerOf, scalarProducer, hnat, Nat.div_eq_of_lt hlt]

/-- The producers of a thread that holds one scalar load, performed again. -/
theorem loadProducers_of_scalar (x : Thread) (h : HeldEntry) (d : Reg) (va : Word) (n : Nat) (sg : Bool) (r : Regs)
    (hheld : x.held = [performedAgain h r]) (hl : h.load = some (.scalar d va n sg)) (ho : h.orig = none) :
    x.loadProducers = [scalarProducer h d r] := by
  simp [Thread.loadProducers, hheld, performedAgain, hl, ho, LoadOp.dest, scalarProducer]

/-- A scalar load performed again, which finds its value: its entry keeps the registers with it. -/
theorem replayLoads_of_scalar (s : State) (again : Instr) (h : HeldEntry) (d : Reg) (va : Word) (n : Nat) (sg : Bool) (v : Nat)
    (hl : h.load = some (.scalar d va n sg)) (hv : h.value = none) (hr : h.raised = true) (hm : (s.loadVa va n).1 = .value v) :
    s.replayLoads again [h] = .go ((s.loadVa va n).2.onTh fun t => { t with
      held := t.held.map fun x => if x = h then performedAgain h (h.regs.wx d (loadValue n sg v)) else x }) := by
  have hone : s.replayLoad (.scalar d va n sg) h.regs = (.value (h.regs.wx d (loadValue n sg v)), (s.loadVa va n).2) := by
    rcases hload : s.loadVa va n with ⟨a, u⟩
    rw [hload] at hm
    cases hm
    simp only [State.replayLoad, hload]
  obtain ⟨_, _, _, load, _, _, raised, _, _, _, value⟩ := h
  cases hl
  cases hv
  cases hr
  unfold State.replayLoads
  simp only [hone]
  rfl

/-- A thread that holds one raised scalar load, which now finds its value, goes on with it in the register that held the load's
poison. -/
theorem taskReplay_scalar (s : State) (c : CoreId) (i : Fin 8) (h : HeldEntry) (d : Reg) (va : Word) (n : Nat) (sg : Bool) (v : Nat)
    (hp : (s.getThread c i).status = .parked .fault) (ha : (s.getThread c i).allAcked = true)
    (hd : (s.getThread c i).dispatchFault = none) (hlog : (s.getThread c i).log = []) (hheld : (s.getThread c i).held = [h])
    (hr : h.raised = true) (hv : h.value = none) (ho : h.orig = none) (hcopy : h.copy = none) (hwrite : h.write = none)
    (hl : h.load = some (.scalar d va n sg)) (hm : ((replayStart s c i).loadVa va n).1 = .value v)
    (hpois : (s.getThread c i).regs.rxp d = some (BitVec.ofNat 21 (h.index.toNat % 65536)))
    (hothers : ∀ j, j ≠ d → (s.getThread c i).regs.rxp j = none) :
    ∃ t, exec (.taskReplay c i) s = .next t ∧ (t.getThread c i).status = .ready ∧
      (t.getThread c i).pc = (s.getThread c i).pc ∧ (t.getThread c i).held = [] ∧ (t.getThread c i).regs.rxp d = none ∧
      (t.getThread c i).regs.rx d = extended n sg v ∧
      ∀ j, j ≠ d → (t.getThread c i).regs.rx j = (s.getThread c i).regs.rx j := by
  have hz : d ≠ 0 := by
    rintro rfl
    simp [Regs.rxp] at hpois
  have hload := Resting.loadVa (replayStart s c i) va n v hm
  have hw := replayStart_work s c i
  obtain ⟨hstatus, hpc, hregs, hheldu, hlogu⟩ := hload.th .fault (hw.status.trans hp) trivial
  have hu := replayLoads_of_scalar (replayStart s c i) (.taskReplay c i) h d va n sg v hl hv hr hm
  generalize hr' : h.regs.wx d (loadValue n sg v) = r at hu
  rw [← hheld, ← hw.held] at hu
  generalize hx : (((replayStart s c i).loadVa va n).2.onTh fun t => { t with
    held := t.held.map fun x => if x = h then performedAgain h r else x }) = u at hu
  have hu' : u.th.held = [performedAgain h r] ∧ SameWork (s.getThread c i) { u.th with held := [h] } := by
    subst hx
    rw [onTh_th]
    refine ⟨?_, hstatus.trans hw.status, hpc.trans hw.pc, hregs.trans hw.regs, hheld.symm, hlogu.trans hw.log⟩
    rw [hheldu, hw.held, hheld]
    simp
  obtain ⟨t, ht, hthread, -⟩ := taskReplay_of_loaded s u c i hp ha hd hu (hu'.2.log.trans hlog)
    (by rw [hu'.1]; simpa using ⟨hcopy, hwrite⟩) (by subst hx; exact hload.loc) (by subst hx; exact hload.slot)
  rw [loadProducers_of_scalar _ h d va n sg r hu'.1 hl ho] at hthread
  have hvalue : (scalarProducer h d r).scalar = some (extended n sg v) := by
    show some (r.rx d) = _
    rw [← hr', rx_wx _ _ _ _ hz, if_pos rfl, loadValue_extended]
  obtain ⟨hnone, hget, hkeep⟩ := resolve_one (s.getThread c i).regs [scalarProducer h d r] d _ (extended n sg v)
    hpois (by rw [producerOf_scalarProducer]; exact hvalue) hothers
  refine ⟨t, ht, by rw [hthread]; rfl, ?_, ?_, ?_, ?_, fun j hj => ?_⟩
  · rw [hthread]
    exact hu'.2.pc
  · rw [hthread, replayed, hu'.1]
    simp [performedAgain, hr]
  all_goals
    rw [hthread, replayed]
    dsimp only
    rw [hu'.2.regs]
  · exact hnone
  · exact hget
  · exact hkeep j hj

end Sys2Proof.Proofs
end

section
/-! PROOF. Remote stores (R140): one that its destination performs, one that fails there, and the record that returns. -/

namespace Sys2Proof.Proofs

open Sys2Proof.Machine Sys2Proof.Claims Sys2Proof.Laws

/-! A notice leaves the launches and the requests alone (R133). -/

theorem keepNotice_aloof (s : State) (die : Nat) (e : FaultEntry) :
    (s.keepNotice die e).launches = s.launches ∧ (s.keepNotice die e).outstanding = s.outstanding := by
  unfold State.keepNotice
  dsimp only
  split
  · exact ⟨rfl, rfl⟩
  · split <;> exact ⟨rfl, rfl⟩

theorem noticeIx_aloof (s : State) (die : Nat) (e : FaultEntry) :
    (s.noticeIx die e).2.launches = s.launches ∧ (s.noticeIx die e).2.outstanding = s.outstanding := by
  have hput := HomeWork.fqPut s e
  unfold State.noticeIx
  split
  · exact keepNotice_aloof s die e
  · split
    · next heq => exact ⟨(HomeWork.of_pair hput heq).launches, (HomeWork.of_pair hput heq).outstanding⟩
    · next u heq =>
      obtain ⟨hl, ho⟩ := keepNotice_aloof u die e
      exact ⟨hl.trans (HomeWork.of_pair hput heq).launches, ho.trans (HomeWork.of_pair hput heq).outstanding⟩

/-! A store at its destination. -/

/-- A plain write of device memory is serialised at its home. -/
theorem performMsg_of_device (s : State) (c : CoreId) (tid : Nat) (w : WriteMsg) (h : s.isDevMem w.pa = true) (ha : w.amo = none) :
    ∃ src, s.performMsg c tid w = s.serialise src w.pa w.n w.data.toNat := by
  refine ⟨⟨c, tid, w.ctx, !isCmd c && !w.leaf.getLsbD 8⟩, ?_⟩
  unfold State.isDevMem at h
  unfold State.performMsg
  cases hr : regionOf w.pa <;> simp_all

/-- The lines of a write are those of its first and of its last byte. -/
theorem coherent_linesOf {s : State} {pa n : Nat} (h0 : Coherent s (pa / 128)) (h1 : Coherent s ((pa + n - 1) / 128)) :
    ∀ l ∈ linesOf pa n, Coherent s l := by
  intro l hl
  unfold linesOf lineOf at hl
  split at hl
  · obtain rfl := List.mem_singleton.1 hl
    exact h0
  · rcases List.mem_pair.1 hl with rfl | rfl
    · exact h0
    · exact h1

/-- The answer to the request of a remote store that is done, if there is one. -/
def storeAnswered (t : State) (c : CoreId) : Option Outstanding → State
  | some x => t.later (.responseArrival c (BitVec.ofNat 10 x.tag) 0)
  | none => t

/-- A remote store whose die answers is performed, and its request is answered. -/
theorem remoteStoreArrival_done (s : State) (c : CoreId) (sl : Fin 8) (w : WriteMsg)
    (hf : s.fenced.getLsbD (homeOf w.pa) = false) (o : OpenMemory s) (hwf : s.mem.wf = true) (ha : w.amo = none)
    (hd : s.isDevMem w.pa = true) (hn : 0 < w.n) (hle : w.n ≤ 128) (h0 : Coherent s (w.pa / 128))
    (h1 : Coherent s ((w.pa + w.n - 1) / 128)) :
    ∃ t, exec (.remoteStoreArrival c sl w true) s = .next t ∧ Wrote s t w.pa w.n w.data.toNat ∧
      ∀ x, s.remoteOut c w = some x → .responseArrival c (BitVec.ofNat 10 x.tag) 0 ∈ t.agenda := by
  obtain ⟨src, hperform⟩ := performMsg_of_device s c (((s.remoteOut c w).map (·.tid)).getD (s.getThread c sl).order) w hd ha
  obtain ⟨t, ht, -, hwrote⟩ := serialise_effect o hwf src w.pa w.n w.data.toNat hn hle (coherent_linesOf h0 h1)
  have hout : t.remoteOut c w = s.remoteOut c w := by
    rw [State.remoteOut, (HomeWork.of_pair (HomeWork.serialise s src w.pa w.n w.data.toNat) ht).outstanding]
    rfl
  have hexec : execRemoteStoreArrival c sl w true s = .next (storeAnswered t c (s.remoteOut c w)) := by
    unfold execRemoteStoreArrival
    rw [hperform, ht, hf]
    simp only [Bool.false_eq_true, if_false, Bool.not_true, hout]
    cases s.remoteOut c w <;> rfl
  refine ⟨_, hexec, ?_, fun x hx => ?_⟩
  · cases s.remoteOut c w with
    | none => exact hwrote
    | some x => exact ⟨hwrote.inside, hwrote.outside⟩
  · rw [hx]
    exact List.mem_append_right _ (List.mem_singleton_self _)

/-- A remote store that its destination does not permit returns a record to its origin. -/
theorem remoteStoreArrival_refused (s : State) (c : CoreId) (sl : Fin 8) (w : WriteMsg)
    (hf : s.fenced.getLsbD (homeOf w.pa) = false) :
    ∃ t x, exec (.remoteStoreArrival c sl w false) s = .next t ∧ t.outstanding = s.outstanding ∧ x.cause = 0x14 ∧ x.write = w ∧
      .remoteFaultRecord c sl x ∈ t.agenda := by
  have hexec : execRemoteStoreArrival c sl w false s = .next (s.remoteFails c sl (homeOf w.pa) 0x14 w) := by
    unfold execRemoteStoreArrival
    rw [hf]
    rfl
  refine ⟨_, _, hexec, ?_, rfl, rfl, List.mem_append_right _ (List.mem_singleton_self _)⟩
  exact (noticeIx_aloof s _ _).2

/-! A record that returns. -/

/-- The origin counts the write of a returned record no longer. -/
def recordCounted (s : State) (c : CoreId) (w : WriteMsg) : State :=
  match s.remoteOut c w with
  | some o => ({ s with outstanding := s.outstanding.erase o }).onTid c o.tid (Thread.endWrite o.nearDone o.devDone false)
  | none => s

/-- A wait that the end of a write can end. -/
def waitsWriteEnd (w : Wait) : Bool :=
  match w with
  | .counters _ | .form _ | .slot => true
  | _ => false

/-- Of a thread a returned record's count leaves what it is, its registers and its records. -/
structure RecordKept (x y : Thread) : Prop where
  status : y.status = x.status
  order : y.order = x.order
  regs : y.regs = x.regs
  records : y.records = x.records

theorem getThread_onTid_cases (s : State) (c : CoreId) (tid : Nat) (f : Thread → Thread) (sl : Fin 8) :
    (s.onTid c tid f).getThread c sl = f (s.getThread c sl) ∨ (s.onTid c tid f).getThread c sl = s.getThread c sl := by
  rw [getThread_eq_slot, getThread_eq_slot, State.onTid, getCore_onCore_same]
  simp only [Core.onTid, Fin.getElem_fin, Vector.getElem_map]
  split
  · exact .inl rfl
  · exact .inr rfl

theorem recordCounted_thread (s : State) (c : CoreId) (sl : Fin 8) (w : WriteMsg) :
    RecordKept (s.getThread c sl) ((recordCounted s c w).getThread c sl) := by
  unfold recordCounted
  cases s.remoteOut c w with
  | none => exact ⟨rfl, rfl, rfl, rfl⟩
  | some o =>
    rcases getThread_onTid_cases { s with outstanding := s.outstanding.erase o } c o.tid
      (Thread.endWrite o.nearDone o.devDone false) sl with h | h <;> exact h ▸ ⟨rfl, rfl, rfl, rfl⟩

theorem recordCounted_memory (s : State) (c : CoreId) (w : WriteMsg) :
    (∀ a, (recordCounted s c w).physByte a = s.physByte a) ∧
      ∀ o, s.remoteOut c w = some o → (recordCounted s c w).outstanding = s.outstanding.erase o := by
  unfold recordCounted
  cases s.remoteOut c w with
  | none => exact ⟨fun _ => rfl, fun _ h => by cases h⟩
  | some o =>
    dsimp only
    obtain ⟨u, hu⟩ : ∃ u : State, u = { s with outstanding := s.outstanding.erase o } := ⟨_, rfl⟩
    have hbyte : ∀ a, u.physByte a = s.physByte a := fun _ => by rw [hu]; rfl
    have hout : u.outstanding = s.outstanding.erase o := by rw [hu]
    rw [← hu]
    have h : OnlyCores u (u.onTid c o.tid (Thread.endWrite o.nearDone o.devDone false)) := onlyCores_onCore u c _
    exact ⟨fun a => (onlyCores_physByte h a).trans (hbyte a),
      fun x hx => by rw [← Option.some.inj hx]; exact (onlyCores_outstanding h).trans hout⟩

theorem retryIf_regs_records (x : Thread) (p : Wait → Bool) : (x.retryIf p).regs = x.regs ∧ (x.retryIf p).records = x.records := by
  unfold Thread.retryIf
  split
  · split <;> exact ⟨rfl, rfl⟩
  · exact ⟨rfl, rfl⟩

theorem remoteFaultRecord_effect (s : State) (c : CoreId) (sl : Fin 8) (r : FaultRec)
    (hs : (s.getThread c sl).status ≠ .empty) (ht : r.tid = none ∨ r.tid = some (s.getThread c sl).order) :
    ∃ t, exec (.remoteFaultRecord c sl r) s = .next t ∧
      (t.getThread c sl).records = (s.getThread c sl).records ++ [{ r with tid := some (s.getThread c sl).order }] ∧
      (t.getThread c sl).regs = (s.getThread c sl).regs ∧ (∀ a, t.physByte a = s.physByte a) ∧
      ∀ o, s.remoteOut c r.write = some o → t.outstanding = s.outstanding.erase o := by
  have htid : r.tid.getD (s.getThread c sl).order = (s.getThread c sl).order := by rcases ht with h | h <;> rw [h] <;> rfl
  have hk := recordCounted_thread s c sl r.write
  obtain ⟨hbyte, hout⟩ := recordCounted_memory s c r.write
  have hexec : execRemoteFaultRecord c sl r s = .next (((recordCounted s c r.write).onTid c (s.getThread c sl).order
      fun t => { t with records := t.records ++ [{ r with tid := some (s.getThread c sl).order }] }).retry waitsWriteEnd) := by
    unfold execRemoteFaultRecord
    rw [htid]
    rfl
  generalize recordCounted s c r.write = u at hk hbyte hout hexec
  have hrest : OnlyCores u ((u.onTid c (s.getThread c sl).order
      fun t => { t with records := t.records ++ [{ r with tid := some (s.getThread c sl).order }] }).retry waitsWriteEnd) :=
    (onlyCores_onCore u c _).trans (retry_rest _ _)
  refine ⟨_, hexec, ?_, ?_, fun a => (onlyCores_physByte hrest a).trans (hbyte a),
    fun o ho => (onlyCores_outstanding hrest).trans (hout o ho)⟩
  all_goals
    rw [getThread_retry, getThread_onTid_of_order _ _ _ _ _ hk.order (by rw [hk.status]; exact hs)]
  · rw [(retryIf_regs_records _ _).2, hk.records]
  · exact (retryIf_regs_records _ _).1.trans hk.regs

end Sys2Proof.Proofs
end

section
/-! PROOF. The staging timeout (R143): the stores that a team holds leave, its checkpoint is sealed, and no byte changes yet. -/

namespace Sys2Proof.Proofs

open Sys2Proof.Machine Sys2Proof.Claims Sys2Proof.Laws

/-! The relation. -/

/-- What draining keeps of a core: who its threads are; it stages nothing new and opens no checkpoint. -/
structure DrainsCore (k k' : Core) : Prop where
  tids : ∀ team, k'.tidsOf team = k.tidsOf team
  staging : ∀ q ∈ k'.staging, q ∈ k.staging
  sealed : ∀ team, (∀ tm ∈ k.teams, tm.id = team → tm.ckpt.isOpen = false) → ∀ tm ∈ k'.teams, tm.id = team → tm.ckpt.isOpen = false

namespace DrainsCore

theorem trans {k l m : Core} (a : DrainsCore k l) (b : DrainsCore l m) : DrainsCore k m :=
  ⟨fun team => (b.tids team).trans (a.tids team), fun q hq => a.staging q (b.staging q hq),
    fun team h => b.sealed team (a.sealed team h)⟩

/-- The threads, the staging area and the teams are as they were. -/
theorem of_same {k k' : Core} (hs : k'.slots = k.slots) (hv : k'.saves = k.saves) (hg : k'.staging = k.staging)
    (ht : k'.teams = k.teams) : DrainsCore k k' :=
  ⟨fun team => by simp only [Core.tidsOf, hs, hv], fun q hq => hg ▸ hq, fun team h => by rw [ht]; exact h⟩

/-- A thread is changed, but not in who it is. -/
theorem onTid (k : Core) (tid : Nat) (f : Thread → Thread)
    (hf : ∀ x, (f x).status = x.status ∧ (f x).team = x.team ∧ (f x).order = x.order) : DrainsCore k (k.onTid tid f) := by
  refine ⟨fun team => ?_, fun q hq => hq, fun team h => h⟩
  have hslot : ∀ x : Thread, ∃ y : Thread, (if x.order == tid && x.status != .empty then f x else x) = y ∧
      y.status = x.status ∧ y.team = x.team ∧ y.order = x.order := fun x => by
    refine ⟨_, rfl, ?_⟩
    split
    · exact hf x
    · exact ⟨rfl, rfl, rfl⟩
  have hsave : ∀ v : Saved, ∃ w : Saved, (if v.thread.order == tid then { v with thread := f v.thread } else v) = w ∧
      w.thread.team = v.thread.team ∧ w.thread.order = v.thread.order := fun v => by
    refine ⟨_, rfl, ?_⟩
    split
    · exact (hf v.thread).2
    · exact ⟨rfl, rfl⟩
  choose y hy hys hyt hyo using hslot
  choose w hw hwt hwo using hsave
  simp only [Core.tidsOf, Core.onTid, hy, hw, Vector.toList_map, List.filter_map, List.map_map]
  congr 1
  · rw [show (fun t : Thread => t.status != .empty && t.team == team) ∘ (fun t => y t) =
      fun t => t.status != .empty && t.team == team from funext fun t => by simp [hys, hyt]]
    exact List.map_congr_left fun t _ => hyo t
  · rw [show (fun v : Saved => v.thread.team == team) ∘ (fun v => w v) = fun v => v.thread.team == team from
      funext fun v => by simp [hwt]]
    exact List.map_congr_left fun v _ => hwo v

end DrainsCore

/-- Writes leave a core: it stages nothing new, and no byte changes. -/
structure Drains (c : CoreId) (s t : State) : Prop where
  core : DrainsCore (s.getCore c) (t.getCore c)
  byte : ∀ a, t.physByte a = s.physByte a

namespace Drains

variable {c : CoreId} {s t u : State}

theorem refl (c : CoreId) (s : State) : Drains c s s := ⟨.of_same rfl rfl rfl rfl, fun _ => rfl⟩

theorem trans (a : Drains c s t) (b : Drains c t u) : Drains c s u :=
  ⟨a.core.trans b.core, fun x => (b.byte x).trans (a.byte x)⟩

theorem foldl {α : Type} (f : State → α → State) (h : ∀ s a, Drains c s (f s a)) (l : List α) (s : State) :
    Drains c s (l.foldl f s) :=
  List.foldlRecOn l f (refl c s) fun t ht a _ => ht.trans (h t a)

theorem ite (p : Prop) [Decidable p] (h : Drains c s t) (h' : Drains c s u) : Drains c s (if p then t else u) := by
  split
  · exact h
  · exact h'

theorem of_outer (h : Outer s t) : Drains c s t := by
  obtain ⟨_, _, _, _, _, _, _, _, _, _, _, _, _, _, rfl⟩ := h.rest
  exact ⟨.of_same rfl rfl rfl rfl, fun _ => rfl⟩

theorem onCore (s : State) (c : CoreId) (f : Core → Core) (h : ∀ k, DrainsCore k (f k)) : Drains c s (s.onCore c f) :=
  ⟨by rw [getCore_onCore_same]; exact h _, onlyCores_physByte (onlyCores_onCore s c f)⟩

theorem onTid (s : State) (c : CoreId) (tid : Nat) (f : Thread → Thread)
    (hf : ∀ x, (f x).status = x.status ∧ (f x).team = x.team ∧ (f x).order = x.order) : Drains c s (s.onTid c tid f) :=
  onCore s c _ fun k => .onTid k tid f hf

theorem enqueueWrite (s : State) (c : CoreId) (p : Pending) : Drains c s (s.enqueueWrite c p) := by
  refine (onCore s c _ fun k => ?_).trans (of_outer (outer_later _ _))
  exact .of_same rfl rfl rfl rfl

theorem closeMsg (s : State) (c : CoreId) (tid : Nat) : Drains c s (s.closeMsg c tid) := by
  unfold State.closeMsg
  split
  · exact refl c s
  · have hclosed := onTid s c tid (fun t => { t with packing := [] }) fun _ => ⟨rfl, rfl, rfl⟩
    exact ite _ (hclosed.trans (of_outer (outer_sendGroup _ c tid _ _)))
      (hclosed.trans (foldl _ (fun u q => enqueueWrite u c _) _ _))

theorem issueWrite (s : State) (c : CoreId) (slot : Nat) (p : Pending) : Drains c s (s.issueWrite c slot p) := by
  have hsend : ∀ u : State, Drains c u (u.sendWrite c p.tid slot p.msg) := fun u => of_outer (outer_sendWrite u c _ _ _)
  have hclose := closeMsg s c p.tid
  unfold State.issueWrite
  refine ite _ (enqueueWrite s c p) (ite _ (ite _ (enqueueWrite s c p) (hsend s)) ?_)
  refine ite _ (onTid s c _ _ fun _ => ⟨rfl, rfl, rfl⟩) (ite _ (hclose.trans (enqueueWrite _ c p)) ?_)
  exact ite _ (hclose.trans (onTid _ c _ _ fun _ => ⟨rfl, rfl, rfl⟩)) (hclose.trans (hsend _))

end Drains

/-! A team sealed. -/

/-- A core whose team has sealed its checkpoint, and stages nothing. -/
structure SealedTeam (k : Core) (team : Nat) : Prop where
  sealed : ∀ tm ∈ k.teams, tm.id = team → tm.ckpt.isOpen = false
  drained : ∀ q ∈ k.staging, q.tid ∉ k.tidsOf team

theorem SealedTeam.drains {k k' : Core} {team : Nat} (h : SealedTeam k team) (d : DrainsCore k k') : SealedTeam k' team :=
  ⟨d.sealed team h.sealed, fun q hq => by rw [d.tids]; exact h.drained q (d.staging q hq)⟩

/-- A core whose team's staged stores are taken out and whose checkpoint is sealed (R143). -/
def sealTeam (k : Core) (team : Nat) : Core :=
  { k.onTeam team (fun t => { t with ckpt := { t.ckpt with isOpen := false } }) with
    staging := k.staging.filter fun p => !(k.tidsOf team).contains p.tid
    stagedAt := mapErase k.stagedAt team }

theorem drains_sealTeam (k : Core) (team : Nat) : DrainsCore k (sealTeam k team) := by
  refine ⟨fun _ => rfl, fun q hq => (List.mem_filter.1 hq).1, fun id h tm htm hid => ?_⟩
  obtain ⟨x, hx, rfl⟩ := List.mem_map.1 htm
  by_cases he : (x.id == team) = true
  · rw [if_pos he]
  · rw [if_neg he] at hid ⊢
    exact h x hx hid

theorem sealedTeam_sealTeam (k : Core) (team : Nat) : SealedTeam (sealTeam k team) team := by
  refine ⟨fun tm htm hid => ?_, fun q hq hmem => ?_⟩
  · obtain ⟨x, hx, rfl⟩ := List.mem_map.1 htm
    by_cases he : (x.id == team) = true
    · rw [if_pos he]
    · rw [if_neg he] at hid
      exact absurd hid (by simpa using he)
  · have hout := (List.mem_filter.1 hq).2
    simp only [Bool.not_eq_true', List.contains_eq_mem, decide_eq_false_iff_not] at hout
    exact hout hmem

/-- A team's seal drains, and seals it. -/
theorem sealOf_effect (s : State) (c : CoreId) (team : Nat) :
    Drains c s (s.sealOf c team) ∧ SealedTeam ((s.sealOf c team).getCore c) team := by
  have hfirst : (s.onCore c fun k => sealTeam (s.getCore c) team).getCore c = sealTeam (s.getCore c) team :=
    getCore_onCore_same s c _
  have hbyte := onlyCores_physByte (onlyCores_onCore s c fun _ => sealTeam (s.getCore c) team)
  have hrest : Drains c (s.onCore c fun _ => sealTeam (s.getCore c) team) (s.sealOf c team) := by
    unfold State.sealOf
    exact (Drains.foldl _ (fun u p => .issueWrite u c _ p) _ _).trans (Drains.foldl _ (fun u tid => .closeMsg u c tid) _ _)
  refine ⟨Drains.trans ⟨?_, hbyte⟩ hrest, ?_⟩
  · rw [hfirst]
    exact drains_sealTeam _ team
  · refine SealedTeam.drains ?_ hrest.core
    rw [hfirst]
    exact sealedTeam_sealTeam _ team

theorem stagingTimeout_effect (s : State) (c : CoreId) :
    ∃ t, exec (.stagingTimeout c) s = .next t ∧ (∀ a, t.physByte a = s.physByte a) ∧
      ∀ p ∈ (s.getCore c).stagedAt, p.2 + 2048 ≤ (s.getCore c).cycle →
        (∀ tm ∈ (t.getCore c).teams, tm.id = p.1 → tm.ckpt.isOpen = false) ∧
        ∀ q ∈ (t.getCore c).staging, q.tid ∉ (s.getCore c).tidsOf p.1 := by
  let due := (s.getCore c).stagedAt.filter fun p => decide (p.2 + 2048 ≤ (s.getCore c).cycle)
  let u := due.foldl (fun s p => s.sealOf c p.1) s
  have hu : Drains c s u := .foldl _ (fun v p => (sealOf_effect v c p.1).1) due s
  have hrest : Drains c u ((s.getCore c).overdue.foldl (fun s tid => s.closeMsg c tid) u) :=
    .foldl _ (fun v tid => .closeMsg v c tid) _ u
  refine ⟨_, rfl, (hu.trans hrest).byte, fun p hp hcycle => ?_⟩
  have hmem : p ∈ due := List.mem_filter.2 ⟨hp, by simpa using hcycle⟩
  have hsealed : SealedTeam (u.getCore c) p.1 :=
    foldl_reaches _ (fun _ => True) (fun v => SealedTeam (v.getCore c) p.1) (fun _ _ _ => trivial)
      (fun v q _ hv => hv.drains (sealOf_effect v c q.1).1.core) p (fun v _ => (sealOf_effect v c p.1).2) due hmem s trivial
  obtain ⟨hopen, hdrained⟩ := hsealed.drains hrest.core
  refine ⟨hopen, fun q hq => ?_⟩
  rw [← (hu.trans hrest).core.tids]
  exact hdrained q hq

end Sys2Proof.Proofs
end

section
/-! PROOF. Errors of a team (R144): the rollback to an open checkpoint, and the launch that a sealed one ends. -/

namespace Sys2Proof.Proofs

open Sys2Proof.Machine Sys2Proof.Claims Sys2Proof.Laws

/-! A rollback. -/

/-- A member as its team's checkpoint has it. -/
def backTo (k : Core) (tm : Team) (x : Thread) : Thread :=
  match tm.ckpt.members.find? fun m => m.1 == x.order with
  | some m => x.rollBack (k.staging.filter fun p => p.tid == x.order).length m.2.1 m.2.2
  | none => x

theorem rollBack_slot (k : Core) (tm : Team) (i : Fin 8) : (k.rollBack tm).slots[i] =
    if k.slots[i].status != .empty && k.slots[i].team == tm.id then backTo k tm k.slots[i] else k.slots[i] := by
  show (k.slots.map fun t => if t.status != .empty && t.team == tm.id then backTo k tm t else t)[i] = _
  simp

theorem rollBack_staging (k : Core) (tm : Team) :
    (k.rollBack tm).staging = k.staging.filter fun p => !(k.tidsOf tm.id).contains p.tid := rfl

theorem order_mem_tidsOf (k : Core) (i : Fin 8) (team : Nat) (hs : k.slots[i].status ≠ .empty) (ht : k.slots[i].team = team) :
    k.slots[i].order ∈ k.tidsOf team := by
  have hmem : k.slots[i] ∈ k.slots.toList := by simp
  exact List.mem_append_left _ (List.mem_map_of_mem (List.mem_filter.2 ⟨hmem, by rw [ht]; simpa using hs⟩))

theorem correctedError_cores (s : State) : (∀ c, s.correctedError.getCore c = s.getCore c) ∧
    ∀ a, s.correctedError.physByte a = s.physByte a := by
  unfold State.correctedError
  split <;> exact ⟨fun _ => rfl, fun _ => rfl⟩

/-- An open checkpoint is rolled back to: its members stand where it was taken, and nothing of theirs is staged. -/
theorem uncorrectableTeamError_open (s : State) (c : CoreId) (team : Nat) (tm : Team) (htm : s.teamAt c team = some tm)
    (ho : tm.ckpt.isOpen = true) :
    ∃ t, exec (.uncorrectableTeamError c team) s = .next t ∧ (∀ a, t.physByte a = s.physByte a) ∧
      (∀ i, (s.getThread c i).status ≠ .empty → (s.getThread c i).team = tm.id →
        (∀ p ∈ (t.getCore c).staging, p.tid ≠ (s.getThread c i).order) ∧
        ∀ m, tm.ckpt.members.find? (fun m => m.1 == (s.getThread c i).order) = some m →
          (t.getThread c i).status = .ready ∧ (t.getThread c i).regs = (s.getThread c i).regs.restore m.2.1 ∧
            (t.getThread c i).pc = m.2.2 ∧ (t.getThread c i).log = []) ∧
      ∀ i, (s.getThread c i).team ≠ tm.id → t.getThread c i = s.getThread c i := by
  have hexec : execUncorrectableTeamError c team s = .next (s.onCore c fun k => k.rollBack tm).correctedError := by
    unfold execUncorrectableTeamError
    rw [htm]
    simp only [ho, if_true]
  obtain ⟨hcore, hbyte⟩ := correctedError_cores (s.onCore c fun k => k.rollBack tm)
  have hk : (s.onCore c fun k => k.rollBack tm).correctedError.getCore c = (s.getCore c).rollBack tm :=
    (hcore c).trans (getCore_onCore_same s c _)
  generalize (s.onCore c fun k => k.rollBack tm).correctedError = t at hexec hbyte hk
  have hth : ∀ i, t.getThread c i =
      if (s.getThread c i).status != .empty && (s.getThread c i).team == tm.id then backTo (s.getCore c) tm (s.getThread c i)
      else s.getThread c i := fun i => by
    rw [getThread_eq_slot, getThread_eq_slot, hk]
    exact rollBack_slot (s.getCore c) tm i
  refine ⟨t, hexec, fun a => (hbyte a).trans (onlyCores_physByte (onlyCores_onCore s c _) a), fun i hs ht => ⟨?_, fun m hm => ?_⟩,
    fun i ht => by rw [hth, if_neg (by simp [ht])]⟩
  · intro p hp he
    rw [hk, rollBack_staging] at hp
    have hout := (List.mem_filter.1 hp).2
    rw [getThread_eq_slot] at hs ht he
    rw [he, List.contains_iff_mem.2 (order_mem_tidsOf (s.getCore c) i tm.id hs ht)] at hout
    cases hout
  · have hback : backTo (s.getCore c) tm (s.getThread c i) = (s.getThread c i).rollBack
        ((s.getCore c).staging.filter fun p => p.tid == (s.getThread c i).order).length m.2.1 m.2.2 := by
      unfold backTo
      rw [hm]
    rw [hth, if_pos (by simp [hs, ht]), hback]
    exact ⟨rfl, rfl, rfl, rfl⟩

/-! A launch ended. -/

/-- The threads of a team, each with a slot number (0 for one in a save area). -/
def teamThreads (k : Core) (team : Nat) : List (Nat × Thread) :=
  ((List.range 8).filterMap fun i => (k.slots[i]?).bind fun t =>
    if t.status != .empty && t.team == team then some (i, t) else none) ++
  (k.saves.filter fun v => v.thread.team == team).map fun v => (0, v.thread)

/-- The notices of a team whose sealed checkpoint escalates. -/
def escalated (s : State) (c : CoreId) (team sup : Nat) : State :=
  (teamThreads (s.getCore c) team).foldl (fun s p => s.notice (sockOf c) (s.escalation c p.1 sup p.2)) s

theorem escalated_launches (s : State) (c : CoreId) (team sup : Nat) : (escalated s c team sup).launches = s.launches :=
  List.foldlRecOn (motive := fun t : State => t.launches = s.launches) _ _ rfl
    fun t ht _ _ => (noticeIx_aloof t _ _).1.trans ht

/-- A sealed checkpoint escalates: the launch of its team is aborted. -/
theorem uncorrectableTeamError_sealed (s : State) (c : CoreId) (team : Nat) (tm : Team) (l : Launch)
    (htm : s.teamAt c team = some tm) (ho : tm.ckpt.isOpen = false) (hl : s.launchAt tm.lh = some l) (ha : l.aborted = false) :
    ∃ t u, exec (.uncorrectableTeamError c team) s = .next t ∧ mapGet t.launches tm.lh = some u ∧ u.aborted = true ∧
      u.status = 1 := by
  obtain ⟨sup, hexec⟩ : ∃ sup, execUncorrectableTeamError c team s = .next ((escalated s c team sup).abortLaunch tm.lh 1) := by
    refine ⟨l.sup, ?_⟩
    unfold execUncorrectableTeamError
    rw [htm]
    simp only [ho, Bool.false_eq_true, if_false, hl, Option.map_some, Option.getD_some]
    rfl
  have hlv : (escalated s c team sup).launchAt tm.lh = some l := by
    rw [← hl, State.launchAt, escalated_launches]
    rfl
  obtain ⟨due, hended⟩ := abortLaunch_effect _ tm.lh 1 l hlv ha
  refine ⟨_, endedLaunch l 1 (l.live - recordsWaiting (escalated s c team sup) tm.lh), hexec, ?_, rfl, rfl⟩
  rw [hended]
  exact mapGet_mapSet_same _ _ _

end Sys2Proof.Proofs
end

section
/-! PROOF. Fault queues, notices, replay, remote stores, and errors of a team (R110, R126, R132 to R138, R140, R143, R144): the
obligation, put together. -/

namespace Sys2Proof.Proofs

open Sys2Proof.Machine Sys2Proof.Claims Sys2Proof.Laws

/-- Settles O48, from what each of its events does to the current state: the entry of a failed fetch and of one that waited, the
notices of a die, a replay, a remote store and its record, and the seal, the rollback and the abort of a team. -/
theorem faultEvents : Obligations.FaultEvents := by
  unfold Obligations.FaultEvents
  intro s c sl ctx die cause detail w r team th clean
  refine ⟨?fetch, faultQueueSpace_of_others s ctx, faultQueueSpace_effect s ctx, noticeStoreDrain_effect s die ctx,
    noticeDropAlert_effect s die,
    fun hp ha hd hlog => ⟨fun hh _ => taskReplay_idle s c sl hp ha hd hlog hh, ?scalar⟩, fun hf => ?fenced,
    fun hf hcalm hwf ha hd hn hle h0 h1 => ?arrives, remoteStoreArrival_refused s c sl w, remoteFaultRecord_effect s c sl r,
    stagingTimeout_effect s c, uncorrectableTeamError_open s c team, uncorrectableTeamError_sealed s c team⟩
  case fetch =>
    intro e _ he haddr hq hcalm hwf hheld tail head a hroom hapart hplace hentry words
    have htakes : TakesEntry s s.th.ctx e := ⟨hcalm.1, hwf, he, haddr, hroom, hapart, hplace, hentry⟩
    obtain ⟨t, ht, ⟨hstatus, hpc, hregs, h, hnew, hhctx, hhix, hhraised⟩, hwords, hwritten⟩ :=
      fetchFault_effect s cause detail e htakes hq hheld
    refine ⟨t, ht, hstatus, hpc, hregs, ?_, hwords, hwritten.tail, hwritten.outside⟩
    rw [hnew, hheld, List.nil_append, List.map_singleton, hhctx, hhix, hhraised]
    rfl
  case scalar =>
    intro h d va n sg v hh hr hv ho hcopy hwrite hl hm hpois hothers
    exact taskReplay_scalar s c sl h d va n sg v hp ha hd hlog hh hr hv ho hcopy hwrite hl hm hpois hothers
  case fenced =>
    show Host.Outcome.next _ = _
    rw [if_pos hf]
  case arrives =>
    obtain ⟨t, ht, hwrote, hanswer⟩ := remoteStoreArrival_done s c sl w hf hcalm.1 hwf ha hd hn hle h0 h1
    refine ⟨t, ht, fun i hi => ?_, hwrote.outside, hanswer⟩
    rw [hwrote.inside i hi, BitVec.toNat_ofNat]

end Sys2Proof.Proofs
end

section
/-! PROOF. A scalar operation that reads poison (R129, R130, R280): it logs itself and writes its destination poisoned, or parks as a
consumer where its log has no room. -/

namespace Sys2Proof.Proofs

open Sys2Proof Sys2Proof.Machine Sys2Proof.Laws Sys2Proof.Claims

/-- The state after a propagating instruction that read poison (R129): its log entry, and the payload restamped with the entry's number. -/
def poisonedBy (op : PropOp) (d : Reg) (p : Payload) (s : State) : State :=
  { s with th := { s.th with
    log := s.th.log ++ [⟨s.th.pc, op, s.th.regs, 0⟩]
    regs := s.th.regs.wxp d (BitVec.ofNat 21 (p.toNat % 65536 + 65536 * (s.th.log.length + 1)))
    pc := s.th.pc + 4 } }

/-- With room in its log the instruction logs itself and writes poison; without room it is a consumer. -/
def Propagates (i : Instr) (op : PropOp) (d : Reg) (p : Payload) (s : State) : Prop :=
  (s.th.log.length < 16 → loggedVecs s.th.log ≤ 8 → exec i s = .next (poisonedBy op d p s)) ∧
    (16 ≤ s.th.log.length → exec i s = .next s.parkConsumer)

/-- An instruction propagates once its effect writes poison that no vector register made. -/
theorem propagates_of_eff {i : Instr} {op : PropOp} {d : Reg} {p : Payload} {s : State} (hi : exec i s = .next (runProp op s))
    (he : op.eff (s.th.log.length + 1) s.th.regs = ⟨s.th.regs.wxp d (stamp (s.th.log.length + 1) p), true, 0⟩)
    (hq : op.usesQ8 = false) : Propagates i op d p s := by
  constructor
  · intro hlen hvecs
    have room : logFull s.th.log 0 = false := 
      Bool.or_eq_false_iff.2 ⟨decide_eq_false (Nat.not_le.2 hlen), decide_eq_false (Nat.not_lt.2 hvecs)⟩
    rw [hi]
    simp only [runProp, he, room, hq, Bool.true_and, Bool.false_and, Bool.false_eq_true, if_false, if_true]
    rfl
  · intro hlen
    have full : logFull s.th.log 0 = true := by simp [logFull, Config.logMax, hlen]
    rw [hi]
    simp only [runProp, he, full, Bool.and_self, if_true]

/-- An operation of major 0x01 runs as the propagating instruction of its name (R266). -/
theorem exec_aluInstr (f : AluFn) (d a b : Reg) (s : State) :
    exec (aluInstr f d a b) s = .next (runProp (.alu f d a (if aluReadsB f then b else 0)) s) := by
  cases f <;> rfl

/-- The single-source forms read `x0` in the place of rb, which is never poisoned (R128). -/
theorem aluPayload {f : AluFn} {r : Regs} {a b : Reg} {p : Payload}
    (h : r.rxp a = some p ∨ (r.rxp a = none ∧ aluReadsB f = true ∧ r.rxp b = some p)) :
    firstPay (r.rxp a) (r.rxp (if aluReadsB f then b else 0)) = some p := by
  rcases h with h | ⟨h, hb, hp⟩
  · simp [firstPay, h]
  · simp [firstPay, h, hb, hp]

theorem alu_propagates (f : AluFn) (d a b : Reg) (p : Payload) (s : State)
    (h : s.th.regs.rxp a = some p ∨ (s.th.regs.rxp a = none ∧ aluReadsB f = true ∧ s.th.regs.rxp b = some p)) :
    Propagates (aluInstr f d a b) (.alu f d a (if aluReadsB f then b else 0)) d p s :=
  propagates_of_eff (exec_aluInstr f d a b s) (by simp only [PropOp.eff, aluPayload h, Regs.scalarOut]) rfl

theorem imm_propagates {i : Instr} (f : ImmFn) (d a : Reg) (v : BitVec 16) (p : Payload) (s : State)
    (hi : exec i s = .next (runProp (.imm f d a v) s)) (h : s.th.regs.rxp a = some p) : Propagates i (.imm f d a v) d p s :=
  propagates_of_eff hi (by simp only [PropOp.eff, h, Regs.scalarOut]) rfl

/-- CMOV on a poisoned condition takes the payload of x[ra] where that is poisoned too (R280). -/
theorem cmov_propagates (d a b : Reg) (p : Payload) (s : State) (hd : d ≠ 0)
    (h : s.th.regs.rxp a = some p ∨ s.th.regs.rxp a = none ∧ s.th.regs.rxp b = some p) (hb : s.th.regs.rxp b ≠ none) :
    Propagates (.cmov d a b) (.cmov d a b) d p s := by
  obtain ⟨pb, hpb⟩ := Option.ne_none_iff_exists'.1 hb
  have pay : (s.th.regs.rxp a).getD pb = p := by
    rcases h with h | ⟨h, h'⟩
    · simp [h]
    · simpa [h, hpb] using h'
  exact propagates_of_eff rfl (by simp only [PropOp.eff, Regs.cmov, if_neg hd, hpb, pay]) rfl

/-- CMOV with a clean condition makes no log entry (R280). -/
theorem exec_cmov_unlogged (d a b : Reg) (r : Regs) (s : State)
    (he : s.th.regs.cmov d a b (s.th.log.length + 1) = ⟨r, false, 0⟩) :
    exec (.cmov d a b) s = .next { s with th := { s.th with regs := r, pc := s.th.pc + 4 } } := by
  show Host.Outcome.next (runProp (.cmov d a b) s) = _
  rw [runProp_clean (.cmov d a b) s ⟨r, false, 0⟩ he rfl rfl]
  rfl

/-- Settles O4: the effect of each form writes poison, and `propagates_of_eff` says what that leaves; CMOV by its condition. -/
theorem aluPoison : Obligations.AluPoison := by
  intro s
  refine ⟨fun f d a b p h => alu_propagates f d a b p s h, fun d a i n l o p h => ?_, fun d a b p hd => ⟨?_, ?_, ?_⟩, ?_⟩
  · have imm := fun {j : Instr} (f : ImmFn) (v : BitVec 16) (hi : exec j s = .next (runProp (.imm f d a v) s)) =>
      imm_propagates f d a v p s hi h
    exact ⟨imm _ _ rfl, imm _ _ rfl, imm _ _ rfl, imm _ _ rfl, imm _ _ rfl, imm _ _ rfl, imm _ _ rfl, imm _ _ rfl, imm _ _ rfl,
      imm _ _ rfl, imm _ _ rfl, imm _ _ rfl, imm _ _ rfl⟩
  · exact cmov_propagates d a b p s hd
  · intro hb hx ha
    exact exec_cmov_unlogged d a b _ s (by simp only [Regs.cmov, if_neg hd, hb, ha]; exact if_neg hx)
  · intro hb hx
    exact exec_cmov_unlogged d a b _ s (by simp only [Regs.cmov, if_neg hd, hb]; exact if_pos hx)
  · intro a b
    exact exec_cmov_unlogged 0 a b _ s (by simp only [Regs.cmov, if_true])

end Sys2Proof.Proofs
end

section
/-! PROOF. Consumers of poison (R130, R132): an instruction that reads a poisoned register it consumes parks, with nothing written. -/

namespace Sys2Proof.Proofs

open Sys2Proof Sys2Proof.Machine Sys2Proof.Laws Sys2Proof.Claims

/-- An instruction that consumes a poisoned register parks as a consumer. -/
theorem consumeX_poisoned {rs : List Reg} {x : Reg} {s : State} (k : State → State) (hx : x ∈ rs) (hp : s.th.regs.rxp x ≠ none) :
    consumeX rs k s = s.parkConsumer := by
  have : (rs.map s.th.regs.rxp).any Option.isSome = true :=
    List.any_eq_true.2 ⟨_, List.mem_map_of_mem hx, Option.isSome_iff_ne_none.2 hp⟩
  simp only [consumeX, guardClean, this, if_true]

theorem exec_of_consumed {i : Instr} {rs : List Reg} {k : State → State} {x : Reg} {s : State}
    (hi : exec i s = .next (consumeX rs k s)) (hx : x ∈ rs) (hp : s.th.regs.rxp x ≠ none) :
    exec i s = .next (s.raiseHeld.park .fault) := by
  rw [hi, consumeX_poisoned k hx hp]
  rfl

/-- A vector form that names no vector register meets no check before its operands on a core die (R217, R265). -/
theorem runVec_core (w : IWord) (k : State → State) {s : State} (h : isCmd s.loc = false) : runVec w [] k s = k s := by
  simp only [runVec, guardCmd, h, guardAllot, List.find?_nil, Bool.false_eq_true, if_false]

/-- A privileged form meets no check before its operands in supervisor mode (R377). -/
theorem exec_of_supervisor {i : Instr} {w : IWord} {k : State → State} {s : State} (hi : exec i s = .next (guardPriv w k s))
    (hmode : s.th.mode = .supervisor) (hk : k s = s.parkConsumer) : exec i s = .next (s.raiseHeld.park .fault) := by
  rw [hi, guardPriv, hmode, if_neg (by decide), hk]
  rfl

theorem runFaultack_poisoned (abandon : Bool) {d a b x : Reg} {s : State} (hx : x ∈ [a, b]) (hp : s.th.regs.rxp x ≠ none) :
    runFaultack abandon d a b s = s.parkConsumer := consumeX_poisoned _ hx hp

theorem runSave_poisoned (restore : Bool) {d a b x : Reg} {s : State} (hx : x ∈ [a, b]) (hp : s.th.regs.rxp x ≠ none) :
    runSave restore d a b s = s.parkConsumer := consumeX_poisoned _ hx hp

/-- Every mode writes FMTA (R259), so SYSW to it meets no check before its operand. -/
theorem exec_sysw_fmta (x : Reg) (s : State) : exec (.sysw x .fmta) s = .next (runSysw x .fmta (fun _ v => v) s) := by
  show Host.Outcome.next (guardSysWrite .fmta _ _ s) = _
  rw [guardSysWrite, if_pos (show sysWritable .fmta = true from rfl), guardSys, if_neg (by decide)]

/-- A thread whose entries have all been raised raises none (R132). -/
theorem raiseHeld_raised {s : State} (h : ∀ e ∈ s.th.held, e.raised = true) : s.raiseHeld = s := by
  have : s.th.held.filter (fun e => !e.raised) = [] := by
    rw [List.filter_eq_nil_iff]
    intro e he
    simp [h e he]
  simp only [State.raiseHeld, this, List.foldl_nil]

/-- Settles O55: each form reads its operands through `consumeX`, behind checks that let it pass. -/
theorem poisonParks : Obligations.PoisonParks := by
  intro d a b x i p q n sc o s pay hpay
  have hp : s.th.regs.rxp x ≠ none := by simp [hpay]
  have parks := fun {j : Instr} {rs : List Reg} {k : State → State} (hj : exec j s = .next (consumeX rs k s)) (hx : x ∈ rs) =>
    exec_of_consumed hj hx hp
  refine ⟨?_, fun hcore => ?_, fun hmode => ?_, fun hraised => ?_⟩
  · simp only [List.forall_mem_cons]
    exact ⟨parks rfl (by simp), parks rfl (by simp), parks rfl (by simp), parks rfl (by simp), parks rfl (by simp),
      parks rfl (by simp), parks rfl (by simp), parks rfl (by simp), parks rfl (by simp), parks rfl (by simp), parks rfl (by simp),
      parks rfl (by simp), parks rfl (by simp), parks rfl (by simp), parks rfl (by simp), parks rfl (by simp), parks rfl (by simp),
      parks (exec_sysw_fmta x s) (by simp), parks rfl (by simp), by simp⟩
  · have vec := fun {j : Instr} {w : IWord} {k : State → State} (hj : exec j s = .next (runVec w [] (consumeX [x] k) s)) =>
      parks (hj.trans (congrArg _ (runVec_core w _ hcore))) (List.mem_singleton.2 rfl)
    simp only [List.forall_mem_cons]
    exact ⟨vec rfl, vec rfl, vec rfl, by simp⟩
  · have priv := fun {j : Instr} {w : IWord} {k : State → State} (hj : exec j s = .next (guardPriv w k s)) =>
      exec_of_supervisor hj hmode
    simp only [List.forall_mem_cons]
    exact ⟨priv rfl (runFaultack_poisoned _ (by simp) hp), priv rfl (runFaultack_poisoned _ (by simp) hp),
      priv rfl (runSave_poisoned _ (by simp) hp), priv rfl (runSave_poisoned _ (by simp) hp), by simp⟩
  · rw [raiseHeld_raised hraised]
    rfl

end Sys2Proof.Proofs
end

section
/-! PROOF. An acknowledged entry in a line without a holder over which a dirty byte stands (R90, R136): the statement about FAULTACK fails
on it, since it asks nothing of the entry's line (the statements about travel packets and copies ask `CleanLine` of theirs). -/

namespace Sys2Proof.Proofs

open Sys2Proof Sys2Proof.Machine Sys2Proof.Claims Sys2Proof.Laws

/-- Context 0 has a fault queue of 64 entries at address 4096, which holds one raised entry; no die holds the entry's line, but a dirty
copy of its second byte, the one with STAT, is recorded. -/
def staleState : State := { State.reset with
  ctxtEn := true
  mem := [(0, 1), (8, 6), (9, 0x10), (0x10, 1), (0x1001, 1)]
  dirty := [(0x1001, 1)]
  th := { State.reset.th with mode := .supervisor } }

theorem staleState_quiet : Quiet staleState :=
  ⟨rfl, rfl, rfl, rfl, rfl, rfl, by unfold Closed; decide +kernel, fun _ h => absurd h List.not_mem_nil, rfl, rfl⟩

theorem staleState_calm : Calm staleState := by
  refine ⟨⟨rfl, rfl, rfl, rfl, rfl, rfl, fun q => ?_, fun l => ?_⟩, fun c p hp => ?_⟩
  · simp [State.hostState, State.lineAt, staleState, State.reset, LineEntry.none]
  · simp [State.lineAt, staleState, State.reset, LineEntry.none]
  · have none : (staleState.getCore c).inflight = [] := by
      unfold State.getCore
      split
      · rfl
      · rfl
    simp [none] at hp

/-- The new STAT goes to memory, where the line has no holder, and the dirty copy is what is read. -/
theorem staleState_acknowledged : ∃ t, exec (.faultackResume 0 0 0) staleState = .next t ∧ t.physByte 0x1001 = 1 :=
  ⟨_, rfl, by decide +kernel⟩

/-- Refutes O35: STAT of the acknowledged entry of `staleState` is 1 and stays 1, where the statement has it become 3
(`staleState_acknowledged`). -/
theorem not_faultackResults : ¬ Obligations.FaultackResults := by
  unfold Obligations.FaultackResults
  intro h
  obtain ⟨-, hentry⟩ := h 0 0 0 staleState rfl (by decide) staleState_quiet staleState_calm (by decide +kernel) (.faultackResume 0 0 0) (.inl rfl)
  obtain ⟨-, hlisted⟩ := hentry ⟨0, 0, 0x1006, 0x1000, 64⟩ (by decide +kernel)
  obtain ⟨-, hraised⟩ := hlisted (by decide +kernel)
  obtain ⟨t, ht, -, -, hbytes, -⟩ := hraised (by decide +kernel)
  obtain ⟨u, hu, hstale⟩ := staleState_acknowledged
  obtain rfl : t = u := Host.Outcome.next.inj (ht.symm.trans hu)
  have hthree := hbytes 0x1001
  rw [hstale] at hthree
  revert hthree
  decide +kernel

end Sys2Proof.Proofs
end

section
/-! PROOF. A step of a core whose turn it is (R138, R201, R212, R268): which slot issues, what it fetches, and what that leaves alone. -/

namespace Sys2Proof.Proofs

open Sys2Proof Sys2Proof.Machine Sys2Proof.Claims Sys2Proof.Laws

/-! The turn of a core. -/

/-- `t` is `s` with slot `sl` of core `c` as the current one, and with less to do first. -/
structure Turned (s t : State) (c : CoreId) (sl : Fin 8) : Prop where
  rest : ∃ k th ks sc rr ag hh, t = { s with
    loc := c, slot := sl, core := k, th := th, cores := ks, schedule := sc, rerun := rr, agenda := ag, hostHeld := hh }
  cores : ∀ d, t.getCore d = s.getCore d

namespace Turned

variable {s t : State} {c : CoreId} {sl : Fin 8}

theorem focus (s : State) (c : CoreId) (sl : Fin 8) : Turned s (s.focus c sl) c sl :=
  ⟨⟨_, _, _, _, _, _, _, rfl⟩, getCore_focus s c sl⟩

theorem refocus (h : Turned s t c sl) (d : CoreId) (i : Fin 8) : Turned s (t.focus d i) d i := by
  refine ⟨?_, fun e => (getCore_focus t d i e).trans (h.cores e)⟩
  obtain ⟨_, _, _, _, _, _, _, rfl⟩ := h.rest
  exact ⟨_, _, _, _, _, _, _, rfl⟩

theorem loc (h : Turned s t c sl) : t.loc = c := by
  obtain ⟨_, _, _, _, _, _, _, rfl⟩ := h.rest
  rfl

theorem slot (h : Turned s t c sl) : t.slot = sl := by
  obtain ⟨_, _, _, _, _, _, _, rfl⟩ := h.rest
  rfl

theorem threads (h : Turned s t c sl) (d : CoreId) (i : Fin 8) : t.getThread d i = s.getThread d i := by
  rw [getThread_eq_slot, getThread_eq_slot, h.cores]

theorem th (h : Turned s t c sl) : t.th = s.getThread c sl := by
  rw [← h.threads, ← getThread_current, h.loc, h.slot]

/-- The current core is the one whose turn it is, but for its current slot. -/
theorem core (h : Turned s t c sl) {α : Type} (f : Core → α) (hf : ∀ k x, f { k with slots := x } = f k) : f t.core = f (s.getCore c) := by
  rw [← h.cores c, ← h.loc]
  simp [State.getCore, State.here, hf]

theorem cycles (h : Turned s t c sl) : t.cycles = s.cycles := by
  obtain ⟨_, _, _, _, _, _, _, rfl⟩ := h.rest
  rfl

theorem issued (h : Turned s t c sl) : t.issued = s.issued := by
  obtain ⟨_, _, _, _, _, _, _, rfl⟩ := h.rest
  rfl

theorem physByte (h : Turned s t c sl) (a : Nat) : t.physByte a = s.physByte a := by
  obtain ⟨_, _, _, _, _, _, _, rfl⟩ := h.rest
  rfl

theorem isDevMem (h : Turned s t c sl) (a : Nat) : t.isDevMem a = s.isDevMem a := by
  obtain ⟨_, _, _, _, _, _, _, rfl⟩ := h.rest
  rfl

theorem calm (h : Turned s t c sl) (o : Calm s) : Calm t := by
  refine ⟨?_, fun d => by rw [h.cores]; exact o.2 d⟩
  obtain ⟨_, _, _, _, _, _, _, rfl⟩ := h.rest
  exact o.1

/-- The thread's translations are those that it has as the current thread of `s`. -/
theorem sameWalk (h : Turned s t c sl) : SameWalk (s.focus c sl) t := by
  have f := focus s c sl
  have hth : t.th = (s.focus c sl).th := h.th.trans f.th.symm
  exact ⟨h.loc.trans f.loc.symm, h.slot.trans f.slot.symm, by rw [hth], by rw [hth], by rw [hth],
    (h.core (·.tlb) fun _ _ => rfl).trans (f.core (·.tlb) fun _ _ => rfl).symm⟩

end Turned

/-! A fetch. -/

/-- What a fetch that finds a word leaves alone (R138, R212). -/
structure Fetching (t u : State) : Prop where
  loc : u.loc = t.loc
  slot : u.slot = t.slot
  th : u.th = t.th
  cycles : u.cycles = t.cycles
  issued : u.issued = t.issued
  bytes : ∀ a, u.physByte a = t.physByte a
  threads : ∀ d i, u.getThread d i = t.getThread d i
  saves : ∀ d, (u.getCore d).saves = (t.getCore d).saves
  turn : (u.core.cycle, u.core.dpFree, u.core.claims) = (t.core.cycle, t.core.dpFree, t.core.claims)

namespace Fetching

variable {s t u : State}

theorem refl (s : State) : Fetching s s := ⟨rfl, rfl, rfl, rfl, rfl, fun _ => rfl, fun _ _ => rfl, fun _ => rfl, rfl⟩

theorem trans (a : Fetching s t) (b : Fetching t u) : Fetching s u :=
  ⟨b.loc.trans a.loc, b.slot.trans a.slot, b.th.trans a.th, b.cycles.trans a.cycles, b.issued.trans a.issued,
    fun x => (b.bytes x).trans (a.bytes x), fun d i => (b.threads d i).trans (a.threads d i),
    fun d => (b.saves d).trans (a.saves d), b.turn.trans a.turn⟩

theorem of_seen (h : Seen s t) : Fetching s t where
  loc := h.loc
  slot := h.slot
  th := h.th
  cycles := by rw [h.rest]
  issued := by rw [h.rest]
  bytes := h.physByte
  threads := fun d i => by
    by_cases hc : d = s.loc ∧ i = s.slot
    · obtain ⟨rfl, rfl⟩ := hc
      rw [getThread_current, ← h.th, ← getThread_current t, h.loc, h.slot]
    · exact h.getThread d i hc
  saves := fun d => by
    by_cases hd : d = s.loc
    · simp only [State.getCore, State.here, h.loc, hd, if_true]
      rw [h.core]
    · simp [State.getCore, h.loc, hd, h.cores]
  turn := by rw [h.core]

/-- The instruction cache of the current core changed. -/
theorem onHere (s : State) (f : Core → Core) (hf : ∀ k, f k = { k with icache := (f k).icache }) : Fetching s (s.onHere f) := by
  have hs : (f s.core).slots = s.core.slots := by rw [hf]
  refine ⟨rfl, rfl, rfl, rfl, rfl, fun _ => rfl, fun d i => ?_, fun d => ?_, by simp only [State.onHere]; rw [hf]⟩
  · simp only [State.getThread, State.getCore, State.here, State.onHere, hs]
    split
    · rfl
    · split <;> rfl
  · have hv : (f s.core).saves = s.core.saves := by rw [hf]
    by_cases hd : d = s.loc
    · simpa only [State.getCore, State.here, State.onHere, hd, if_true] using hv
    · simp only [State.getCore, State.onHere, hd, if_false]

theorem freeBit (s : State) : Fetching s s.freeBit.2 :=
  ⟨rfl, rfl, rfl, rfl, rfl, fun _ => rfl, fun _ _ => rfl, fun _ => rfl, rfl⟩

end Fetching

/-- An aligned word of a line is the four bytes at its address. -/
theorem wordIn_line (f : Nat → Byte) (pa : Nat) (h : pa % 4 = 0) :
    wordIn (BitVec.ofNat 1024 (leRead f (128 * lineOf pa) 128)) (pa % 128) = BitVec.ofNat 32 (leRead f pa 4) := by
  have hlt : leRead f (128 * lineOf pa) 128 < 2 ^ 1024 := (leRead_lt f 128 _).trans_eq (by rw [show 256 = 2 ^ 8 from rfl, ← pow_mul])
  have hbytes : ∀ i < 4, f (pa + i) = BitVec.ofNat 8 (leRead f (128 * lineOf pa) 128 / 256 ^ (pa % 128) / 256 ^ i) := by
    intro i hi
    have hb := leRead_byte f 128 (128 * lineOf pa) (pa % 128 + i) (by omega)
    have ha : 128 * lineOf pa + (pa % 128 + i) = pa + i := by simp only [lineOf]; omega
    apply BitVec.eq_of_toNat_eq
    rw [ha] at hb
    rw [BitVec.toNat_ofNat, Nat.div_div_eq_div_mul, ← pow_add, ← hb]
  rw [leRead_of_bytes f 4 pa _ hbytes]
  apply BitVec.eq_of_toNat_eq
  have h8 : 2 ^ (8 * (pa % 128)) = 256 ^ (pa % 128) := by rw [pow_mul]; rfl
  simp only [wordIn, BitVec.toNat_ofNat, Nat.mod_eq_of_lt hlt, h8]
  omega

/-- A miss reads the word's bytes from open device memory. -/
theorem fetchMiss_finds {t : State} {p : Phys} (o : Calm t) (hd : t.isDevMem p.pa = true) (hp : p.pa % 4 = 0) :
    ∃ u, t.fetchMiss p = (.word (BitVec.ofNat 32 (leRead t.physByte p.pa 4)), u) ∧ Fetching t u := by
  obtain ⟨u, hu, seen⟩ := serveRead_calm t o p.pa 4 (!isCmd t.loc) t.th.order
  have hbytes : u.physRead (128 * lineOf p.pa) 128 = leRead t.physByte (128 * lineOf p.pa) 128 := leRead_congr seen.physByte _ _
  have hl : t.isLocal p.pa = true ∧ (regionOf p.pa == .host) = false := by
    have h := hd
    simp only [State.isDevMem, Bool.and_eq_true, Bool.or_eq_true, beq_iff_eq] at h
    refine ⟨h.1, ?_⟩
    rcases h.2 with h | h <;> rw [h] <;> rfl
  simp only [State.fetchMiss, hl.1, hl.2, hd, hu, hbytes, wordIn_line _ _ hp, Bool.not_true, Bool.or_self, Bool.false_eq_true, if_false]
  refine ⟨_, rfl, (Fetching.of_seen seen).trans ?_⟩
  split
  · exact .onHere u _ fun _ => rfl
  · exact .refl u

/-- A hit gives the word of the line, or the one that device memory holds now (R212). -/
theorem fetchHit_finds (t : State) (p : Phys) (l : BitVec 1024) :
    ∃ v u, t.fetchHit p l = (.word v, u) ∧ Fetching t u ∧
      (v = wordIn l (p.pa % 128) ∨ (t.isDevMem p.pa = true ∧ v = BitVec.ofNat 32 (leRead t.physByte p.pa 4))) := by
  unfold State.fetchHit
  dsimp only
  split
  · exact ⟨_, t, rfl, .refl t, .inl rfl⟩
  · next h =>
    have hd : t.isDevMem p.pa = true := by
      by_contra hn
      simp [hn] at h
    have hb : t.freeBit = (t.freeBit.1, t.freeBit.2) := rfl
    rw [hb]
    cases t.freeBit.1
    · exact ⟨_, _, rfl, .freeBit t, .inl rfl⟩
    · exact ⟨_, _, rfl, .freeBit t, .inr ⟨hd, rfl⟩⟩

/-- A thread whose translation succeeds fetches a word that the instruction cache or open device memory gives (R138, R212). -/
theorem fetch_finds {t : State} {p : Phys} {w : IWord} (hpc : t.th.pc.toNat % 4 = 0) (hx : (t.xlate t.asid t.th.pc 4 .fetch).1 = .ok p)
    (hp : p.pa % 4 = 0)
    (hw : (mapGet t.core.icache (p.pa / 128) = none ∧ Calm t ∧ t.isDevMem p.pa = true ∧ w = BitVec.ofNat 32 (leRead t.physByte p.pa 4)) ∨
      ∃ l, mapGet t.core.icache (p.pa / 128) = some l ∧ w = BitVec.ofNat 32 (l.toNat / 2 ^ (8 * (p.pa % 128)))) :
    ∃ v u, t.fetch = (.word v, u) ∧ Fetching t u ∧
      (v = w ∨ (t.isDevMem p.pa = true ∧ v = BitVec.ofNat 32 (leRead t.physByte p.pa 4))) := by
  have seen := seen_xlate t t.th.pc 4 .fetch hx
  unfold State.fetch
  rw [if_neg (by omega)]
  revert hx seen
  generalize t.xlate t.asid t.th.pc 4 .fetch = x
  obtain ⟨o, t'⟩ := x
  rintro rfl seen
  dsimp only at seen ⊢
  have hic : t'.core.icache = t.core.icache := by rw [seen.core]
  have hd : t'.isDevMem p.pa = t.isDevMem p.pa := by rw [seen.rest]; rfl
  have hb : leRead t'.physByte p.pa 4 = leRead t.physByte p.pa 4 := leRead_congr seen.physByte _ _
  rw [hic, lineOf]
  rcases hw with ⟨hn, o, hdev, rfl⟩ | ⟨l, hl, rfl⟩
  · obtain ⟨u, hu, hf⟩ := fetchMiss_finds (calm_seen o seen) (hd.trans hdev) hp
    rw [hn]
    exact ⟨_, u, hu, (Fetching.of_seen seen).trans hf, .inl (by rw [hb])⟩
  · obtain ⟨v, u, hu, hf, hv⟩ := fetchHit_finds t' p l
    rw [hl]
    rw [hd, hb] at hv
    exact ⟨v, u, hu, (Fetching.of_seen seen).trans hf, hv⟩

/-! The close of an open message (R147). -/

/-- What the close of a thread's message leaves alone: of the threads, all but their open messages. -/
structure Closing (s t : State) : Prop where
  loc : t.loc = s.loc
  slot : t.slot = s.slot
  cycles : t.cycles = s.cycles
  issued : t.issued = s.issued
  bytes : ∀ a, t.physByte a = s.physByte a
  cycle : t.core.cycle = s.core.cycle
  threads : ∀ d i, t.getThread d i = { s.getThread d i with packing := (t.getThread d i).packing }
  closed : ∀ d i, (s.getThread d i).packing = [] → (t.getThread d i).packing = []

namespace Closing

variable {s t u : State}

theorem refl (s : State) : Closing s s := ⟨rfl, rfl, rfl, rfl, fun _ => rfl, rfl, fun _ _ => rfl, fun _ _ h => h⟩

theorem trans (a : Closing s t) (b : Closing t u) : Closing s u :=
  ⟨b.loc.trans a.loc, b.slot.trans a.slot, b.cycles.trans a.cycles, b.issued.trans a.issued, fun x => (b.bytes x).trans (a.bytes x),
    b.cycle.trans a.cycle, fun d i => by rw [b.threads, a.threads], fun d i h => b.closed d i (a.closed d i h)⟩

theorem of_outer (h : Outer s t) : Closing s t := by
  obtain ⟨_, _, _, _, _, _, _, _, _, _, _, _, _, _, rfl⟩ := h.rest
  exact ⟨rfl, rfl, rfl, rfl, fun _ => rfl, rfl, fun _ _ => rfl, fun _ _ h => h⟩

/-- A core changed in the open messages of its threads, and where nothing of this matters. -/
theorem onCore (s : State) (c : CoreId) (f : Core → Core) (hc : ∀ k, (f k).cycle = k.cycle)
    (hs : ∀ k, ∀ i : Fin 8, (f k).slots[i] = k.slots[i] ∨ (f k).slots[i] = { k.slots[i] with packing := [] }) : Closing s (s.onCore c f) := by
  have hth : ∀ d i, (s.onCore c f).getThread d i = s.getThread d i ∨
      (s.onCore c f).getThread d i = { s.getThread d i with packing := [] } := fun d i => by
    rw [getThread_eq_slot, getThread_eq_slot, getCore_onCore]
    split
    · exact hs _ i
    · exact .inl rfl
  have hcy : ((s.onCore c f).getCore s.loc).cycle = (s.getCore s.loc).cycle := by
    rw [getCore_onCore]
    split
    · exact hc _
    · rfl
  obtain ⟨k, th, ks, hk⟩ := onlyCores_onCore s c f
  have hcy : (s.onCore c f).core.cycle = s.core.cycle := by
    rw [hk] at hcy ⊢
    simpa [State.getCore, State.here] using hcy
  refine ⟨by rw [hk], by rw [hk], by rw [hk], by rw [hk], fun a => by rw [hk]; rfl, hcy, fun d i => ?_, fun d i h => ?_⟩
  · rcases hth d i with h | h <;> rw [h]
  · rcases hth d i with h' | h' <;> rw [h']
    exact h

theorem enqueueWrite (s : State) (c : CoreId) (p : Pending) : Closing s (s.enqueueWrite c p) :=
  (onCore s c (fun k => { k with inflight := k.inflight ++ [p] }) (fun _ => rfl) fun _ _ => .inl rfl).trans
    (of_outer (OnlyDue.later _ _).outer)

theorem forget (s : State) (c : CoreId) (tid : Nat) : Closing s (s.onTid c tid fun t => { t with packing := [] }) := by
  refine onCore s c _ (fun _ => rfl) fun k i => ?_
  simp only [Core.onTid, Fin.getElem_fin, Vector.getElem_map]
  split
  · exact .inr rfl
  · exact .inl rfl

theorem closeMsg (s : State) (c : CoreId) (tid : Nat) : Closing s (s.closeMsg c tid) := by
  unfold State.closeMsg
  split
  · exact refl s
  · next w r _ =>
    refine (forget s c tid).trans ?_
    dsimp only
    split
    · exact of_outer (outer_sendGroup _ c tid _ _)
    · exact List.foldlRecOn (w :: r) _ (refl _) fun u h q _ => h.trans (enqueueWrite u c _)

end Closing

/-- Without an open message there is nothing to close. -/
theorem closeMsg_of_closed {s : State} {c : CoreId} {tid : Nat} (h : (s.threadOf c tid).packing = []) : s.closeMsg c tid = s := by
  simp only [State.closeMsg, h]

theorem closing_closeFor (s : State) (w : IWord) : Closing s (s.closeFor w) := by
  unfold State.closeFor
  split
  · exact .closeMsg s _ _
  · exact .refl s

theorem closeFor_of_closed {s : State} (w : IWord) (h : (s.threadOf s.loc s.th.order).packing = []) : s.closeFor w = s := by
  rw [State.closeFor, closeMsg_of_closed h, ite_self]

/-- A thread found by its number is the same where the slots and the save areas of its core are. -/
theorem threadOf_congr {s t : State} (c : CoreId) (tid : Nat) (hs : ∀ i, t.getThread c i = s.getThread c i)
    (hv : (t.getCore c).saves = (s.getCore c).saves) : t.threadOf c tid = s.threadOf c tid := by
  have hslots : (t.getCore c).slots = (s.getCore c).slots := by
    apply Vector.ext
    intro i hi
    have := hs ⟨i, hi⟩
    rwa [getThread_eq_slot, getThread_eq_slot] at this
  simp only [State.threadOf, Core.slotOfTid, hv, hslots, hs]

/-! The issue. -/

/-- The current thread of `x`, as its instruction issues in its core's next cycle (R201, R202). -/
def noted (x : State) : Thread := { x.th with
  lastIssue := some x.core.cycle, since := x.cycles, came := x.issued
  stay := if x.th.stay = some x.th.pc then x.th.stay else none, owes := none
  walked := if x.th.rewalk then x.th.walked else [], rewalk := false }

/-- `u` is `x` after the current thread, now `th`, has been given its turn: nothing else that runs differs. -/
structure Given (x u : State) (th : Thread) : Prop where
  loc : u.loc = x.loc
  slot : u.slot = x.slot
  th : u.th = th
  bytes : ∀ a, u.physByte a = x.physByte a
  others : ∀ d i, ¬(d = x.loc ∧ i = x.slot) → u.getThread d i = x.getThread d i

/-- What a change of the current thread, of its core's times and of the queues of events gives. -/
theorem given_of {x u : State} {k : Core} {th : Thread} {n : Nat} {ag hh : List Instr} (hk : k.slots = x.core.slots)
    (hu : u = { x with core := k, th := th, cycles := n, agenda := ag, hostHeld := hh }) : Given x u th := by
  subst hu
  refine ⟨rfl, rfl, rfl, fun _ => rfl, fun d i hne => ?_⟩
  rw [State.getThread, State.getThread, if_neg hne, if_neg hne]
  by_cases hd : d = x.loc
  · have hi : ¬(x.slot.val = i.val) := fun h => hne ⟨hd, Fin.ext h.symm⟩
    simp [State.getCore, State.here, hd, hk, hi]
  · simp [State.getCore, hd]

theorem Given.trans {x y z : State} {th th' : Thread} (a : Given x y th) (b : Given y z th') : Given x z th' :=
  ⟨b.loc.trans a.loc, b.slot.trans a.slot, b.th, fun q => (b.bytes q).trans (a.bytes q),
    fun d i h => (b.others d i (by rw [a.loc, a.slot]; exact h)).trans (a.others d i h)⟩

theorem given_onTh (x : State) (f : Thread → Thread) : Given x (x.onTh f) (f x.th) := given_of rfl rfl

theorem given_onTh_onHere (x : State) (f : Thread → Thread) (g : Core → Core) (hg : (g x.core).slots = x.core.slots) :
    Given x ((x.onTh f).onHere g) (f x.th) := given_of hg rfl

theorem given_requeueHeld (x : State) : Given x x.requeueHeld x.th := given_of rfl rfl

theorem given_tick (x : State) : Given x x.tick x.th := given_of (k := { x.core with cycle := x.core.cycle + 1 }) rfl rfl

/-- Events that the thread's wait held back run again where it owes them. -/
theorem requeueOwed (x : State) : Given x (if x.th.owes.isSome then x.requeueHeld else x) x.th ∧
    (if x.th.owes.isSome then x.requeueHeld else x).core = x.core ∧
    (if x.th.owes.isSome then x.requeueHeld else x).cycles = x.cycles ∧
    (if x.th.owes.isSome then x.requeueHeld else x).issued = x.issued := by
  split
  · exact ⟨given_requeueHeld x, rfl, rfl, rfl⟩
  · exact ⟨⟨rfl, rfl, rfl, fun _ => rfl, fun _ _ _ => rfl⟩, rfl, rfl, rfl⟩

theorem issueNow_given (x : State) (dp : Option Nat) :
    Given x (x.issueNow dp) (noted x) ∧ (x.issueNow dp).core.cycle = x.core.cycle ∧ (x.issueNow dp).cycles = x.cycles := by
  unfold State.issueNow
  have h := requeueOwed x
  revert h
  generalize (if x.th.owes.isSome then x.requeueHeld else x) = y
  rintro ⟨hg, hcore, hcycles, hissued⟩
  refine ⟨?_, by rw [← hcore]; rfl, hcycles⟩
  have hn : noted x = noted y := by simp only [noted, hg.th, hcore, hcycles, hissued]
  rw [hn]
  exact hg.trans (given_onTh_onHere y _ _ rfl)

theorem issueNow_tick (x : State) (dp : Option Nat) : Given x (x.issueNow dp).tick (noted x) ∧
    (x.issueNow dp).tick.core.cycle = x.core.cycle + 1 ∧ (x.issueNow dp).tick.cycles = x.cycles + 1 := by
  obtain ⟨hg, hcycle, hcycles⟩ := issueNow_given x dp
  revert hg hcycle hcycles
  generalize x.issueNow dp = y
  intro hg hcycle hcycles
  refine ⟨?_, congrArg (· + 1) hcycle, congrArg (· + 1) hcycles⟩
  have ht := given_tick y
  rw [hg.th] at ht
  exact hg.trans ht

theorem reissue_given (x : State) : Given x x.reissue { x.th with owes := none, rewalk := false } ∧
    x.reissue.core.cycle = x.core.cycle ∧ x.reissue.cycles = x.cycles := by
  unfold State.reissue
  have h := requeueOwed x
  revert h
  generalize (if x.th.owes.isSome then x.requeueHeld else x) = y
  rintro ⟨hg, hcore, hcycles, -⟩
  refine ⟨?_, by rw [← hcore]; rfl, hcycles⟩
  rw [← hg.th]
  exact hg.trans (given_onTh y _)

/-! Whose turn it is. -/

theorem dropClaims_of_none {s : State} (h : s.core.claims = []) : s.dropClaims = s := by
  show { s with core := { s.core with claims := s.core.claims.filter _ } } = s
  rw [h, List.filter_nil, ← h]

theorem eligible_of {s : State} (hr : s.th.status = .ready)
    (hl : s.th.lastIssue = none ∨ ∃ l, s.th.lastIssue = some l ∧ l + 3 < s.core.cycle) : s.eligible = true := by
  rcases hl with hl | ⟨l, hl, hlt⟩
  · simp [State.eligible, hr, hl]
  · simp [State.eligible, hr, hl, hlt]

/-- The first offer of a cycle is accepted by a thread that is eligible, fetches a word, is to give up no offer, and finds the
datapath free and unclaimed. -/
theorem offers_first (legal : IWord → Bool) (s u : State) (r : List Nat) (i : Nat) (v : IWord)
    (he : (s.focus s.loc (Fin.ofNat 8 i)).eligible = true) (hf : (s.focus s.loc (Fin.ofNat 8 i)).fetch = (.word v, u))
    (hdp : u.core.dpFree ≤ u.core.cycle) (hcl : u.core.claims = []) (hskip : u.th.skip = 0) :
    ∃ dp, s.offers legal (i :: r) = (some (.word v), (u.closeFor v).issueNow dp) := by
  have hb : u.dpBlocked = false := by
    simp only [State.dpBlocked, hcl, Bool.or_false, decide_eq_false_iff_not]
    omega
  refine ⟨if legal v && !isCmd u.loc then dpCycles v u.th.regs else none, ?_⟩
  simp only [State.offers, he, hf, hb, hskip, Bool.not_true, Bool.and_false, Bool.false_eq_true, if_false, Nat.lt_irrefl]

theorem step_of_quiet {s : State} (hp : s.powered = true) (hf : s.frozen = false) (ha : s.agenda = []) : step s = s.coreCycle := by
  simp only [step, State.nextEvent, hp, hf, ha, Bool.not_true, Bool.false_eq_true, if_false]

theorem coreCycle_of_pick {s u : State} {v : IWord} (h : s.pick legalWord = (some (.word v), u)) : s.coreCycle = runWord v u := by
  simp only [State.coreCycle, h]

/-- A core's turn in which its first slot issues (R201). -/
theorem pick_of_turn {s : State} {c : CoreId} {sl : Fin 8} {rest : List CoreId} {p : Phys} {w : IWord} (hrerun : s.rerun = [])
    (hsched : s.schedule = c :: rest) (hstop : (s.getCore c).stopped = false) (hsl : sl.val = (s.getCore c).cycle % 8)
    (hdp : (s.getCore c).dpFree ≤ (s.getCore c).cycle) (hcl : (s.getCore c).claims = []) (hready : (s.getThread c sl).status = .ready)
    (hlast : (s.getThread c sl).lastIssue = none ∨ ∃ l, (s.getThread c sl).lastIssue = some l ∧ l + 3 < (s.getCore c).cycle)
    (hskip : (s.getThread c sl).skip = 0)
    (hfetch : ∀ t, Turned s t c sl → ∃ v u, t.fetch = (.word v, u) ∧ Fetching t u ∧
      (v = w ∨ (s.isDevMem p.pa = true ∧ v = BitVec.ofNat 32 (leRead s.physByte p.pa 4)))) :
    ∃ v t u dp, (v = w ∨ (s.isDevMem p.pa = true ∧ v = BitVec.ofNat 32 (leRead s.physByte p.pa 4))) ∧ Turned s t c sl ∧
      Fetching t u ∧ s.pick legalWord = (some (.word v), ((u.closeFor v).issueNow dp).tick) := by
  have h0 : Turned s (({ s with schedule := rest } : State).focus c 0) c 0 :=
    ⟨⟨_, _, _, _, _, _, _, rfl⟩, fun d => getCore_focus _ c 0 d⟩
  have hnext : s.nextCore.dropClaims = ({ s with schedule := rest } : State).focus c 0 := by
    have hn : s.nextCore = ({ s with schedule := rest } : State).focus c 0 := by simp only [State.nextCore, hsched]
    rw [hn]
    exact dropClaims_of_none ((h0.core (·.claims) fun _ _ => rfl).trans hcl)
  revert hnext h0
  generalize ({ s with schedule := rest } : State).focus c 0 = t0
  intro h0 hnext
  have hi : Fin.ofNat 8 ((t0.core.cycle + 0) % 8) = sl := by
    apply Fin.ext
    rw [h0.core (·.cycle) fun _ _ => rfl]
    show ((s.getCore c).cycle + 0) % 8 % 8 = _
    omega
  have h1 : Turned s (t0.focus t0.loc (Fin.ofNat 8 ((t0.core.cycle + 0) % 8))) c sl := by
    rw [hi, h0.loc]
    exact h0.refocus c sl
  have hcyc : (t0.focus t0.loc (Fin.ofNat 8 ((t0.core.cycle + 0) % 8))).core.cycle = (s.getCore c).cycle :=
    h1.core (·.cycle) fun _ _ => rfl
  obtain ⟨v, u, hu, hf, hv⟩ := hfetch _ h1
  obtain ⟨hc, hd, hk⟩ : u.core.cycle = (s.getCore c).cycle ∧ u.core.dpFree = (s.getCore c).dpFree ∧
      u.core.claims = (s.getCore c).claims := by
    have ht := hf.turn
    simp only [Prod.mk.injEq] at ht
    exact ⟨ht.1.trans hcyc, ht.2.1.trans (h1.core (·.dpFree) fun _ _ => rfl), ht.2.2.trans (h1.core (·.claims) fun _ _ => rfl)⟩
  obtain ⟨dp, hoff⟩ := offers_first legalWord t0 u ((List.range' 1 7).map fun i => (t0.core.cycle + i) % 8)
    ((t0.core.cycle + 0) % 8) v (eligible_of (by rw [h1.th]; exact hready) (by rw [h1.th, hcyc]; exact hlast)) hu
    (by rw [hd, hc]; exact hdp) (hk.trans hcl) (by rw [hf.th, h1.th]; exact hskip)
  refine ⟨v, _, u, dp, hv, h1, hf, ?_⟩
  have hstop0 : t0.core.stopped = false := (h0.core (·.stopped) fun _ _ => rfl).trans hstop
  have horder : offerOrder t0.core.cycle =
      (t0.core.cycle + 0) % 8 :: (List.range' 1 7).map fun i => (t0.core.cycle + i) % 8 := rfl
  simp only [State.pick, hrerun, State.pickCycle, hnext, hstop0, Bool.false_eq_true, if_false, horder, hoff]

/-- A held request that is served runs its instruction again (R36). -/
theorem pick_of_rerun {s : State} {c : CoreId} {sl : Fin 8} {more : List (CoreId × Fin 8)} {p : Phys} {w : IWord}
    (hrerun : s.rerun = (c, sl) :: more) (hstop : (s.getCore c).stopped = false) (hready : (s.getThread c sl).status = .ready)
    (hfetch : ∀ t, Turned s t c sl → ∃ v u, t.fetch = (.word v, u) ∧ Fetching t u ∧
      (v = w ∨ (s.isDevMem p.pa = true ∧ v = BitVec.ofNat 32 (leRead s.physByte p.pa 4)))) :
    ∃ v t u, (v = w ∨ (s.isDevMem p.pa = true ∧ v = BitVec.ofNat 32 (leRead s.physByte p.pa 4))) ∧ Turned s t c sl ∧
      Fetching t u ∧ s.pick legalWord = (some (.word v), u.reissue) := by
  have h : Turned s ((({ s with rerun := more } : State).requeueHeld).focus c sl) c sl :=
    ⟨⟨_, _, _, _, _, _, _, rfl⟩, fun d => getCore_focus _ c sl d⟩
  obtain ⟨v, u, hu, hf, hv⟩ := hfetch _ h
  refine ⟨v, _, u, hv, h, hf, ?_⟩
  have hready' := (congrArg Thread.status h.th).trans hready
  have hstop' := (h.core (·.stopped) fun _ _ => rfl).trans hstop
  simp only [State.pick, hrerun, State.serve, hready', hstop', hu, bne_self_eq_false, Bool.or_self, Bool.false_eq_true, if_false]

/-! The statement. -/

/-- The step of `s` runs, from `u`, the word that the thread in slot `sl` of core `c` fetches at `p`: `w`, or the word that device memory
holds; of the rest, only the open messages of other threads with that thread's number may differ. -/
def RunsFetched (s : State) (c : CoreId) (sl : Fin 8) (p : Phys) (w : IWord) (u : State) : Prop :=
  ∃ v, (v = w ∨ (s.isDevMem p.pa = true ∧ v = BitVec.ofNat 32 (leRead s.physByte p.pa 4))) ∧
    (∀ i, decode v = .ok i → step s = exec i u) ∧ (∀ e, decode v = .error e → step s = exec (.illegalInstruction v) u) ∧
    u.loc = c ∧ u.slot = sl ∧ (∀ a, u.physByte a = s.physByte a) ∧
    ∀ d i, ¬(d = c ∧ i = sl) →
      u.getThread d i = { s.getThread d i with packing := (u.getThread d i).packing } ∧
      ((s.threadOf c (s.getThread c sl).order).packing = [] → u.getThread d i = s.getThread d i)

theorem runsFetched_of {s t u x z : State} {c : CoreId} {sl : Fin 8} {p : Phys} {v w : IWord} {th : Thread} (hp : s.powered = true)
    (hf : s.frozen = false) (ha : s.agenda = []) (hv : v = w ∨ (s.isDevMem p.pa = true ∧ v = BitVec.ofNat 32 (leRead s.physByte p.pa 4)))
    (ht : Turned s t c sl) (hu : Fetching t u) (hx : Closing u x)
    (hclosed : (u.threadOf u.loc u.th.order).packing = [] → x = u) (hz : Given x z th)
    (hpick : s.pick legalWord = (some (.word v), z)) : RunsFetched s c sl p w z := by
  have hrun : step s = runWord v z := (step_of_quiet hp hf ha).trans (coreCycle_of_pick hpick)
  have hloc : x.loc = c := hx.loc.trans (hu.loc.trans ht.loc)
  have hslot : x.slot = sl := hx.slot.trans (hu.slot.trans ht.slot)
  have hth : ∀ d i, u.getThread d i = s.getThread d i := fun d i => (hu.threads d i).trans (ht.threads d i)
  have hof : u.threadOf u.loc u.th.order = s.threadOf c (s.getThread c sl).order := by
    rw [hu.loc, ht.loc, hu.th, ht.th]
    exact threadOf_congr c _ (hth c) ((hu.saves c).trans (by rw [ht.cores]))
  refine ⟨v, hv, fun i hi => by rw [hrun, runWord, hi], fun e he => by rw [hrun, runWord, he], hz.loc.trans hloc,
    hz.slot.trans hslot, fun a => by rw [hz.bytes, hx.bytes, hu.bytes, ht.physByte], fun d i hne => ?_⟩
  have ho := hz.others d i (by rw [hloc, hslot]; exact hne)
  refine ⟨by rw [ho, hx.threads, hth], fun hn => ?_⟩
  rw [ho, hclosed (by rw [hof]; exact hn), hth]

/-- Settles O57: the events and the freeze by the definition of the step; a core's turn by `pick_of_turn`, a held request by
`pick_of_rerun`, with what `fetch_finds` finds. -/
theorem stepRunsDecodedInstruction : Obligations.StepRunsDecodedInstruction := by
  unfold Obligations.StepRunsDecodedInstruction
  refine fun s => ⟨fun hp => ?_, fun hp hf i r ha => ?_, fun hp hf ha => ?_, ?_⟩
  · simp only [step, hp, Bool.not_false, if_true]
  · simp only [step, State.nextEvent, hp, hf, ha, Bool.not_true, Bool.false_eq_true, if_false]
  · simp only [step, State.nextEvent, hp, hf, ha, Bool.not_true, Bool.false_eq_true, if_false, if_true, List.find?_nil, Option.map_none]
  intro c sl rest p w hp hf ha th k hstop hready hpc hx hal hw
  have hfetch : ∀ t, Turned s t c sl → ∃ v u, t.fetch = (.word v, u) ∧ Fetching t u ∧
      (v = w ∨ (s.isDevMem p.pa = true ∧ v = BitVec.ofNat 32 (leRead s.physByte p.pa 4))) := fun t ht => by
    have hb : leRead t.physByte p.pa 4 = leRead s.physByte p.pa 4 := leRead_congr ht.physByte _ _
    have hic := ht.core (·.icache) fun _ _ => rfl
    have hxt := (xlate_same ht.sameWalk _ _ _ _ hx).1
    have := fetch_finds (t := t) (w := w) (by rw [ht.th]; exact hpc) (by rw [ht.th]; exact hxt) hal (by
      rw [hb, ht.isDevMem, hic]
      exact hw.imp (fun ⟨hn, o, hd⟩ => ⟨hn, ht.calm o, hd⟩) id)
    rwa [hb, ht.isDevMem] at this
  refine ⟨fun hrerun hsched hsl hdp hcl hlast hskip => ?_, fun more hrerun => ?_⟩
  · obtain ⟨v, t, u, dp, hv, ht, hu, hpick⟩ := pick_of_turn hrerun hsched hstop hsl hdp hcl hready hlast hskip hfetch
    have hx := closing_closeFor u v
    obtain ⟨hz, hcycle, hcycles⟩ := issueNow_tick (u.closeFor v) dp
    have hcyc : (u.closeFor v).core.cycle = k.cycle :=
      hx.cycle.trans ((congrArg Prod.fst hu.turn).trans (ht.core (·.cycle) fun _ _ => rfl))
    have hcycs : (u.closeFor v).cycles = s.cycles := hx.cycles.trans (hu.cycles.trans ht.cycles)
    have hth : (u.closeFor v).th = { th with packing := (u.closeFor v).th.packing } := by
      have h := hx.threads u.loc u.slot
      rw [getThread_current, ← hx.loc, ← hx.slot, getThread_current, hu.th, ht.th] at h
      exact h
    refine ⟨_, runsFetched_of hp hf ha hv ht hu hx (closeFor_of_closed v) hz hpick, hcycle.trans (by rw [hcyc]),
      hcycles.trans (by rw [hcycs]), fun hn => ?_, ?_⟩
    · have h := hx.closed u.loc u.slot (by rw [getThread_current, hu.th, ht.th]; exact hn)
      rw [← hx.loc, ← hx.slot, getThread_current] at h
      rw [hz.th]
      exact h
    · rw [hz.th, noted, hcyc, hcycs, hx.issued, hu.issued, ht.issued, hth]
  · obtain ⟨v, t, u, hv, ht, hu, hpick⟩ := pick_of_rerun hrerun hstop hready hfetch
    obtain ⟨hz, hcycle, hcycles⟩ := reissue_given u
    refine ⟨_, runsFetched_of hp hf ha hv ht hu (.refl u) (fun _ => rfl) hz hpick, ?_, hcycles.trans (hu.cycles.trans ht.cycles), ?_⟩
    · exact hcycle.trans ((congrArg Prod.fst hu.turn).trans (ht.core (·.cycle) fun _ _ => rfl))
    · rw [hz.th, hu.th, ht.th]

end Sys2Proof.Proofs
end

section
/-! PROOF. What the work of homes, of engines and of the writers of fault queues leaves of a core (R90, R100, R126, R132): its messages,
copies, rings, teams and pool; and of each thread that waits for no write, what it is doing. -/

namespace Sys2Proof.Proofs

open Sys2Proof Sys2Proof.Machine Sys2Proof.Claims Sys2Proof.Laws

/-! The relation. -/

/-- What a thread is, and where it stands. -/
def taskOf (x : Thread) := (x.kind, x.mode, x.pc, x.ctx, x.joinp, x.xpc, x.xcause, x.xval, x.xvec, x.allot, x.eng, x.regs)

/-- Waits that a write to a line can end (R297, R324). -/
def awaitsWrite : Status → Bool
  | .parked (.join ..) | .parked (.waitev ..) => true
  | _ => false

/-- A thread goes on as it was, unless it waits for a write. -/
def Steadfast (x y : Thread) : Prop := awaitsWrite x.status = false → y.status = x.status ∧ taskOf y = taskOf x

namespace Steadfast

variable {x y z : Thread}

theorem of_task (hs : y.status = x.status) (ht : taskOf y = taskOf x) : Steadfast x y := fun _ => ⟨hs, ht⟩

theorem refl (x : Thread) : Steadfast x x := of_task rfl rfl

theorem trans (a : Steadfast x y) (b : Steadfast y z) : Steadfast x z := fun h => by
  obtain ⟨a1, a2⟩ := a h
  obtain ⟨b1, b2⟩ := b (by rw [a1]; exact h)
  exact ⟨b1.trans a1, b2.trans a2⟩

theorem trigger (line : Nat) (x : Thread) : Steadfast x (x.trigger line) := by
  intro hx
  have hjoin : rejoin line x = x := by
    unfold rejoin
    split
    · next h => rw [h] at hx; cases hx
    · rfl
  have hwait : ∀ v, ({ x with watch := v } : Thread).checkWaitev = { x with watch := v } := fun v => by
    unfold Thread.checkWaitev
    split
    · next h => rw [show x.status = _ from h] at hx; cases hx
    · rfl
  rcases trigger_cases line x with h | ⟨v, h⟩
  · rw [h, hjoin]
    exact ⟨rfl, rfl⟩
  · rw [h, hjoin, hwait]
    exact ⟨rfl, rfl⟩

end Steadfast

/-- What a core has of its own. -/
def ownOf (k : Core) := (k.msgq, k.copies, k.rings, k.teams, k.pool)

/-- What others' work leaves of a core. -/
structure Tended (k k' : Core) : Prop where
  own : ownOf k' = ownOf k
  slots : ∀ i : Fin 8, Steadfast k.slots[i] k'.slots[i]

namespace Tended

theorem of_slots {k k' : Core} (hs : k'.slots = k.slots) (ho : ownOf k' = ownOf k) : Tended k k' :=
  ⟨ho, fun i => by rw [hs]; exact .refl _⟩

theorem refl (k : Core) : Tended k k := of_slots rfl rfl

theorem trans {k l m : Core} (a : Tended k l) (b : Tended l m) : Tended k m :=
  ⟨b.own.trans a.own, fun i => (a.slots i).trans (b.slots i)⟩

end Tended

/-- The current slot is the same one, and every core is as `Tended` says. -/
structure Afar (s t : State) : Prop where
  loc : t.loc = s.loc
  slot : t.slot = s.slot
  core : ∀ c, Tended (s.getCore c) (t.getCore c)

namespace Afar

variable {s t u : State}

theorem of_same (hl : t.loc = s.loc) (hs : t.slot = s.slot) (hc : ∀ c, t.getCore c = s.getCore c) : Afar s t :=
  ⟨hl, hs, fun c => by rw [hc]; exact .refl _⟩

theorem refl (s : State) : Afar s s := of_same rfl rfl fun _ => rfl

theorem trans (a : Afar s t) (b : Afar t u) : Afar s u :=
  ⟨b.loc.trans a.loc, b.slot.trans a.slot, fun c => (a.core c).trans (b.core c)⟩

theorem foldl {α : Type} (f : State → α → State) (h : ∀ s a, Afar s (f s a)) (l : List α) (s : State) : Afar s (l.foldl f s) :=
  List.foldlRecOn l f (refl s) fun t ht a _ => ht.trans (h t a)

theorem ite (c : Prop) [Decidable c] (h : Afar s t) (h' : Afar s u) : Afar s (if c then t else u) := by
  split
  · exact h
  · exact h'

theorem ite_pair {α : Type} (c : Prop) [Decidable c] {x y : α × State} (h : Afar s x.2) (h' : Afar s y.2) :
    Afar s (if c then x else y).2 := by
  split
  · exact h
  · exact h'

/-- The state of a pair that a call returns. -/
theorem of_pair {α : Type} {x : α × State} {a : α} (h : Afar s x.2) (he : x = (a, t)) : Afar s t := by
  rw [he] at h
  exact h

theorem of_outer (h : Outer s t) : Afar s t := by
  obtain ⟨_, _, _, _, _, _, _, _, _, _, _, _, _, _, rfl⟩ := h.rest
  exact of_same rfl rfl fun _ => rfl

theorem of_due (h : OnlyDue s t) : Afar s t := of_outer h.outer

theorem later (s : State) (i : Instr) : Afar s (s.later i) := of_due (.later s i)

theorem onCore (s : State) (c : CoreId) (f : Core → Core) (h : ∀ k, Tended k (f k)) : Afar s (s.onCore c f) := by
  refine ⟨?_, ?_, fun d => ?_⟩
  · obtain ⟨_, _, _, he⟩ := onlyCores_onCore s c f
    rw [he]
  · obtain ⟨_, _, _, he⟩ := onlyCores_onCore s c f
    rw [he]
  · rw [getCore_onCore]
    split
    · exact h _
    · exact .refl _

theorem mapCores (s : State) (f : CoreId → Core → Core) (h : ∀ c k, Tended k (f c k)) : Afar s (s.mapCores f) := by
  refine ⟨rfl, rfl, fun d => ?_⟩
  rw [getCore_mapCores]
  split
  · exact h d _
  · next hd =>
    rw [getCore_of_not_mem s d hd]
    exact .refl _

theorem mapThreads (s : State) (f : CoreId → Fin 8 → Thread → Thread) (h : ∀ c i x, Steadfast x (f c i x)) :
    Afar s (s.mapThreads f) :=
  mapCores s _ fun c k => ⟨rfl, fun i => by simpa using h c i k.slots[i]⟩

theorem trigger (s : State) (line : Nat) : Afar s (s.trigger line) := mapThreads s _ fun _ _ => .trigger line

/-- A thread named by its dispatch number is changed, but not in what it does. -/
theorem onTid (s : State) (c : CoreId) (tid : Nat) (f : Thread → Thread) (h : ∀ x, Steadfast x (f x)) : Afar s (s.onTid c tid f) := by
  refine onCore s c _ fun k => ⟨rfl, fun i => ?_⟩
  simp only [Core.onTid, Fin.getElem_fin, Vector.getElem_map]
  split
  · exact h _
  · exact .refl _

/-- What the relation says of a thread. -/
theorem thread (h : Afar s t) (c : CoreId) (i : Fin 8) : Steadfast (s.getThread c i) (t.getThread c i) := by
  rw [getThread_eq_slot, getThread_eq_slot]
  exact (h.core c).slots i

theorem th (h : Afar s t) : Steadfast s.th t.th := by
  have := h.thread s.loc s.slot
  rwa [getThread_current, ← h.loc, ← h.slot, getThread_current] at this

/-- The current thread is changed, but not in what it does. -/
theorem onTh (s : State) (f : Thread → Thread) (h : Steadfast s.th (f s.th)) : Afar s (s.onTh f) := by
  refine ⟨rfl, rfl, fun c => ?_⟩
  by_cases hc : c = s.loc
  · refine ⟨by simp [State.getCore, State.here, State.onTh, hc, ownOf], fun i => ?_⟩
    simp only [← getThread_eq_slot]
    by_cases hi : i = s.slot
    · subst hc hi
      rw [getThread_current]
      exact (getThread_current (s.onTh f)).symm ▸ h
    · have hv : ¬(s.slot.val = i.val) := fun he => hi (Fin.ext he.symm)
      simp only [State.getThread, State.getCore, State.here, State.onTh, hi, and_false, if_false, hc, if_true, Fin.getElem_fin,
        Vector.getElem_set, hv]
      exact .refl _
  · exact .of_slots (by simp [State.getCore, State.onTh, hc]) (by simp [State.getCore, State.onTh, hc])

/-! Lines, tiles and channels (R90 to R114). -/

theorem channelTake (s : State) (pa : Nat) (wr : Bool) : Afar s (s.channelTake pa wr) := by
  unfold State.channelTake
  split
  · split <;> exact of_same rfl rfl fun _ => rfl
  · exact refl s

theorem setLine (s : State) (line : Nat) (e : LineEntry) : Afar s (s.setLine line e) := by
  rw [setLine_rest]
  exact of_same rfl rfl fun _ => rfl

theorem dieCrowd (s : State) (die line : Nat) : Afar s (s.dieCrowd die line) := by
  unfold State.dieCrowd
  dsimp only
  split
  · split
    · exact later s _
    · exact refl s
  · exact refl s

theorem putBacking (s : State) (pa : Nat) (b : Byte) : Afar s (s.putBacking pa b) := by
  unfold State.putBacking
  split
  · split <;> exact of_same rfl rfl fun _ => rfl
  · exact of_same rfl rfl fun _ => rfl

theorem writeBack (n : Nat) : ∀ (s : State) (pa : Nat), Afar s (s.writeBack pa n) := by
  induction n with
  | zero => exact fun s _ => refl s
  | succ n ih =>
    intro s pa
    unfold State.writeBack
    refine Afar.trans ?_ (ih _ (pa + 1))
    split
    · next b _ => exact (putBacking s pa b).trans (of_same rfl rfl fun _ => rfl)
    · exact refl s

theorem writeRequest (s : State) (line : Nat) : Afar s (s.writeRequest line) := ite _ (channelTake s _ _) (refl s)

theorem lineWriteBack (s : State) (line : Nat) : Afar s (s.lineWriteBack line) := by
  refine (writeRequest s line).trans (foldl _ (fun t j => ?_) _ _)
  dsimp only
  split
  · exact refl t
  · exact writeBack _ t _

theorem lineForStore (s : State) (src : Source) (line : Nat) : Afar s (s.lineForStore src line) := by
  unfold State.lineForStore
  dsimp only
  split
  · exact (ite _ (lineWriteBack s line) (refl s)).trans (setLine _ _ _)
  · exact ite _ ((channelTake s _ _).trans ((setLine _ _ _).trans (dieCrowd _ _ _))) (channelTake s _ _)

theorem dropReplica (s : State) (c : CoreId) (pa : Nat) : Afar s (s.dropReplica c pa) := by
  unfold State.dropReplica
  split
  · exact refl s
  · exact ite _ (of_same rfl rfl fun _ => rfl) (refl s)

theorem tiles (h : Afar s t) (m : Map Tile) (d : Map Byte) : Afar s { t with tiles := m, dirty := d } :=
  h.trans (of_same rfl rfl fun _ => rfl)

theorem tileDirty (s : State) (src : Source) (pb : Nat) (t : Tile) (pa : Nat) (b : Byte) :
    Afar s (s.tileDirty src pb t pa b) := by
  unfold State.tileDirty
  refine tiles ((dropReplica s src.core pa).trans ?_) _ _
  split
  · exact ite _ (refl _) ((writeRequest _ _).trans (foldl _ (fun u q => writeBack 16 u q) _ _))
  · exact refl _

theorem claim (s : State) (src : Source) (pb : Nat) (t : Tile) : Afar s (s.claim src pb t) :=
  (ite _ (refl s) (foldl _ (fun u _ => channelTake u _ _) _ s)).trans
    (show Afar (s.tileFill pb t) _ from of_same rfl rfl fun _ => rfl)

theorem tileArrives (s : State) (pb : Nat) (t : Tile) (c : CoreId) : Afar s (s.tileArrives pb t c) := by
  unfold State.tileArrives
  refine Afar.trans ?_ (foldl _ (fun u _ => dieCrowd u _ _) _ _)
  exact of_same rfl rfl fun _ => rfl

theorem tileStore (s : State) (src : Source) (pb : Nat) (t : Tile) (pa : Nat) (b : Byte) :
    Afar s (s.tileStore src pb t pa b) := by
  have hput := (dropReplica s src.core pa).trans (putBacking _ pa b)
  unfold State.tileStore
  split
  · exact tileDirty s src pb t pa b
  · exact ite _ ((claim s src pb t).trans ((tileDirty _ src pb _ pa b).trans (tileArrives _ pb t _))) hput
  · exact hput
  · exact hput
  · exact hput

theorem lineStore (s : State) (pa : Nat) (b : Byte) : Afar s (s.lineStore pa b) := by
  unfold State.lineStore
  dsimp only
  split
  · exact ite _ (of_same rfl rfl fun _ => rfl) ((setLine s _ _).trans (of_same rfl rfl fun _ => rfl))
  · exact of_same rfl rfl fun _ => rfl

theorem storeBytes (src : Source) (n : Nat) : ∀ (s : State) (pa v : Nat), Afar s (s.storeBytes src pa n v) := by
  induction n with
  | zero => exact fun s _ _ => refl s
  | succ n ih =>
    intro s pa v
    refine Afar.trans ?_ (ih _ _ _)
    unfold State.storeByte
    split
    · exact tileStore s src _ _ pa _
    · exact lineStore s pa _

theorem endExcl (s : State) (c : CoreId) (line : Nat) : Afar s (s.endExcl c line) := ite _ (setLine s _ _) (refl s)

theorem touch (s : State) (c : CoreId) (line : Nat) (m : BitVec 8) : Afar s (s.touch c line m) := by
  unfold State.touch
  refine Afar.trans ?_ (onCore _ c (Core.touch line m) fun k => .of_slots rfl rfl)
  split
  · exact endExcl s c _
  · exact refl s

theorem keepStored (s : State) (c : CoreId) (line : Nat) (m : BitVec 8) : Afar s (s.keepStored c line m) :=
  ite _ (setLine s _ _) (refl s)

theorem sendKills (s : State) (line : Nat) (c : CoreId) (tid : Nat) : Afar s (s.sendKills line c tid) := by
  unfold State.sendKills
  refine ite _ ((setLine s _ _).trans (foldl _ (fun t i => ?_) _ _)) (refl s)
  dsimp only
  split
  · split <;> split <;> exact of_same rfl rfl fun _ => rfl
  · exact refl t

theorem invalidateOthers (s : State) (line : Nat) (c : CoreId) : Afar s (s.invalidateOthers line c) := by
  refine mapCores s _ fun d k => ?_
  split <;> exact .of_slots rfl rfl

theorem lineWritten (s : State) (src : Source) (line : Nat) : Afar s (s.lineWritten src line) := by
  have h := (sendKills s line src.core src.tid).trans ((trigger _ line).trans (invalidateOthers _ line src.core))
  exact ite _ (h.trans (of_due (onlyDue_retryQueues _))) h

/-! What holds an access back (R36, R66, R109). -/

theorem holdEntry (s : State) (q : Requester) (die : Nat) (c : HoldClass) (w : Wait) : Afar s (s.holdEntry q die c w) :=
  ite _ (refl s) (of_same rfl rfl fun _ => rfl)

theorem recover (s : State) (line : Nat) : Afar s (s.recover line) := ite _ (refl s) (later s _)

theorem sendBisnp (s : State) (q : Requester) (half : Nat) (data : Bool) (cls : HoldClass) :
    Afar s (s.sendBisnp q half data cls) :=
  ite _ (refl s) (ite _ (holdEntry s _ _ _ _) (of_same rfl rfl fun _ => rfl))

theorem blocked (s : State) (q : Requester) (pa n : Nat) (onlyA : Bool) (cls : HoldClass) :
    Afar s (s.blocked q pa n onlyA cls).2 := by
  unfold State.blocked
  split
  · exact refl s
  · split
    · exact recover s _
    · split
      · exact refl s
      · split
        · exact sendBisnp s _ _ _ _
        · split
          · exact holdEntry s _ _ _ _
          · exact refl s

theorem ctxReady (s : State) (ctx : BitVec 16) : Afar s (s.ctxReady ctx).2 := by
  unfold State.ctxReady
  split
  · exact blocked s _ _ _ _ _
  · exact refl s

/-! Serialisation of writes and reads (R90, R150, R151). -/

theorem serialise (s : State) (src : Source) (pa n v : Nat) : Afar s (s.serialise src pa n v).2 := by
  unfold State.serialise
  split
  · exact refl s
  · split
    · next heq => exact of_pair (blocked s _ _ _ _ _) heq
    · next u heq =>
      have hu := of_pair (blocked s _ _ _ _ _) heq
      split
      · exact hu
      · have hline : Afar u ((linesOf pa n).foldl (fun s l => if s.touchesOpen l pa n then s.lineForStore src l else s)
            (u.frameTake pa n true)) :=
          (foldl _ (fun v _ => channelTake v _ _) _ u).trans
            (foldl _ (fun v l => ite _ (lineForStore v src l) (refl v)) (linesOf pa n) _)
        have hstore : ∀ x : State, Afar x ((x.storeBytes src pa n v).clearMarks pa n) := fun x =>
          (storeBytes src n x pa v).trans (of_same rfl rfl fun _ => rfl)
        have hw := hu.trans (hline.trans ((hstore _).trans (foldl _ (fun v l => lineWritten v src l) (linesOf pa n) _)))
        refine ite _ (hw.trans (foldl _ (fun v l => ?_) _ _)) hw
        exact ite _ (refl v) ((touch v _ _ _).trans (keepStored _ _ _ _))

theorem lineForRead (s : State) (c : CoreId) (line : Nat) (m : Bool) : Afar s (s.lineForRead c line m) := by
  unfold State.lineForRead
  dsimp only
  split
  · exact setLine s _ _
  · exact ite _ ((channelTake s _ _).trans ((setLine _ _ _).trans (dieCrowd _ _ _))) (channelTake s _ _)

theorem serveRead (s : State) (c : CoreId) (pa n : Nat) (m : Bool) (tid : Nat) : Afar s (s.serveRead c pa n m tid).2 := by
  unfold State.serveRead
  split
  · exact refl s
  · split
    · next heq => exact of_pair (blocked s _ _ _ _ _) heq
    · next u heq =>
      have hu := of_pair (blocked s _ _ _ _ _) heq
      split
      · exact hu
      · have hr : Afar u ((linesOf pa n).foldl (fun s l => if s.touchesOpen l pa n then s.lineForRead c l m else s)
            (u.frameTake pa n false)) :=
          (foldl _ (fun v _ => channelTake v _ _) _ u).trans
            (foldl _ (fun v l => ite _ (lineForRead v c l m) (refl v)) (linesOf pa n) _)
        exact ite _ (hu.trans (hr.trans (foldl _ (fun v l => ite _ (refl v) (touch v _ _ _)) _ _))) (hu.trans hr)

/-! Entries of fault queues, and notices (R132, R133). -/

theorem countEntry (s : State) (sup : Nat) (ctx : BitVec 16) : Afar s (s.countEntry sup ctx) := by
  refine Afar.trans (t := { s with mailboxes := _ }) ?_ (trigger _ _)
  exact of_same rfl rfl fun _ => rfl

theorem fqCount (s : State) (sup : Nat) (ctx : BitVec 16) : Afar s (s.fqCount sup ctx) :=
  ite _ (of_same rfl rfl fun _ => rfl) (countEntry s sup ctx)

theorem fqWrite (s : State) (e : FaultEntry) : Afar s (s.fqWrite e).2 := by
  unfold State.fqWrite
  split
  · next heq => exact of_pair (ctxReady s _) heq
  · next u heq =>
    have hu := of_pair (ctxReady s _) heq
    split
    · exact hu
    · next c _ =>
      extract_lets tail head
      clear_value tail head
      split
      · exact hu
      · split
        · next heq => exact hu.trans (of_pair (blocked u _ _ _ _ _) heq)
        · next v heq =>
          have hv := hu.trans (of_pair (blocked u _ _ _ _ _) heq)
          split
          · next heq => exact hv.trans (of_pair (blocked v _ _ _ _ _) heq)
          · next w heq =>
            have hw := hv.trans (of_pair (blocked v _ _ _ _ _) heq)
            generalize (tail + 1) % 2 ^ 64 = tail'
            exact hw.trans ((serialise w _ _ _ _).trans (serialise _ _ _ _ _))

theorem fqPut (s : State) (e : FaultEntry) : Afar s (s.fqPut e).2 := by
  unfold State.fqPut
  split
  · next u heq => exact (of_pair (fqWrite s e) heq).trans (ite _ (fqCount u _ _) (refl u))
  · next heq => exact of_pair (fqWrite s e) heq

theorem statTry (s : State) (x : StatWrite) : Afar s (s.statTry x).2 := by
  unfold State.statTry
  split
  · exact countEntry s _ _
  · have hc := ctxReady s x.ctx
    rcases he : s.ctxReady x.ctx with ⟨_ | w, t⟩ <;> rw [he] at hc
    · dsimp only at hc ⊢
      split
      · exact hc
      · next c _ =>
        have hb := hc.trans (blocked t (t.loc, 0) (c.fqbase + 64 * (x.index.toNat % c.n)) 64 false .line)
        rcases he' : t.blocked (t.loc, 0) (c.fqbase + 64 * (x.index.toNat % c.n)) 64 false with ⟨_ | w, u⟩ <;> rw [he'] at hb
        · dsimp only at hb ⊢
          have h1 := fun v => hb.trans (serialise u (deviceSource u.loc x.ctx) (c.fqbase + 64 * (x.index.toNat % c.n) + 1) 1 v)
          split
          · exact (h1 _).trans (serialise _ _ _ _ _)
          · exact h1 _
        · exact hb
    · exact hc

theorem fqStat (s : State) (x : StatWrite) : Afar s (s.fqStat x) := by
  unfold State.fqStat
  split
  · exact (of_same rfl rfl fun _ => rfl)
  · have hs := statTry s x
    rcases he : s.statTry x with ⟨_ | _, t⟩ <;> rw [he] at hs
    · exact hs.trans (of_same rfl rfl fun _ => rfl)
    · exact hs

theorem dropEntries (s : State) (t : Thread) : Afar s (s.dropEntries t) := by
  refine Afar.trans (foldl _ (fun u h => fqStat u _) _ s) (foldl _ (fun u r => ?_) _ _)
  split
  · exact fqStat u _
  · exact refl u

/-! Notices of writes that failed (R133, R140). -/

theorem keepNotice (s : State) (die : Nat) (e : FaultEntry) : Afar s (s.keepNotice die e) :=
  ite _ (of_same rfl rfl fun _ => rfl) (ite _ (of_same rfl rfl fun _ => rfl) (refl s))

theorem noticeIx (s : State) (die : Nat) (e : FaultEntry) : Afar s (s.noticeIx die e).2 := by
  unfold State.noticeIx
  split
  · exact keepNotice s die e
  · have hput := fqPut s e
    split
    · next heq => exact of_pair hput heq
    · next heq => exact (of_pair hput heq).trans (keepNotice _ die e)

theorem writeFailedOn (s : State) (c : CoreId) (tid die : Nat) (near : Bool) (cause : Byte) (w : WriteMsg) :
    Afar s (s.writeFailedOn c tid die near cause w) :=
  (noticeIx s die _).trans (onTid _ c tid _ fun _ => .of_task rfl rfl)

/-! Registers written by a store (R60, R71 to R73, R80). -/

theorem mailboxSet (s : State) (n : Fin 8) (m : Mailbox) : Afar s (s.mailboxSet n m) := by
  refine ite _ (refl s) (Afar.trans (t := { s with mailboxes := _ }) ?_ ((trigger _ _)))
  exact of_same rfl rfl fun _ => rfl

theorem msix (s : State) (n : Nat) : Afar s (s.msix n) := by
  unfold State.msix
  split
  · exact of_outer (outer_out s _)
  · exact refl s

theorem alertSend (s : State) (a : Alert) : Afar s (s.alertSend a) :=
  ite _ (of_same rfl rfl fun _ => rfl) (of_same rfl rfl fun _ => rfl)

theorem writeAlrtctl (s : State) (v : Word) : Afar s (s.writeAlrtctl v) := by
  unfold State.writeAlrtctl State.deliverHeld
  refine Afar.trans (t := { s with alrtLog2n := bits v 4 0, alrtEn := v.getLsbD 8 }) (of_same rfl rfl fun _ => rfl) ?_
  refine ite _ (Afar.trans (t := { s with alrtLog2n := bits v 4 0, alrtEn := v.getLsbD 8, alrtHeld := [] }) ?_
    (foldl _ alertSend _ _)) (refl _)
  exact of_same rfl rfl fun _ => rfl

theorem writeAlert (s : State) (ix : Nat) (v : Word) : Afar s (s.writeAlert ix v) := by
  unfold State.writeAlert
  split
  · exact of_same rfl rfl fun _ => rfl
  · exact writeAlrtctl s v
  · exact of_same rfl rfl fun _ => rfl
  · exact refl s

theorem lockLct (s : State) : Afar s s.lockLct :=
  ite _ (refl s) (ite _ (of_same rfl rfl fun _ => rfl) (of_same rfl rfl fun _ => rfl))

theorem writePart (s : State) (p : Fin 16) (v : Word) : Afar s (s.writePart p v) := by
  have hparts : ∀ x, Afar s { s with parts := s.parts.set p x } := fun _ => of_same rfl rfl fun _ => rfl
  have hlater : ∀ x i, Afar s (({ s with parts := s.parts.set p x } : State).later i) := fun x i =>
    (hparts x).trans (of_outer (outer_later _ i))
  unfold State.writePart
  dsimp only
  refine ite _ (hparts _) (ite _ (hlater _ _) (ite _ ?_ (ite _ (hlater _ _) (ite _ (hlater _ _) ?_))))
  · refine (hparts _).trans ((mapCores _ _ fun c k => ?_).trans (of_outer (outer_requeueHeld _)))
    split <;> exact .of_slots rfl rfl
  · exact (hparts _).trans (of_outer (outer_requeueHeld _))

theorem writeFpctl (s : State) (p : Fin 36) (off rekey : Bool) :
    Afar s (if rekey then (s.writeOff p off).startRekey p else s.writeOff p off) := by
  have hports : ∀ x, Afar s { s with fports := s.fports.set p x } := fun _ => of_same rfl rfl fun _ => rfl
  have hoff : Afar s (s.writeOff p off) :=
    ite _ (ite _ (hports _) ((hports _).trans (of_outer (outer_later _ _)))) (hports _)
  have hrekey : ∀ t : State, Afar t (t.startRekey p) := fun t => by
    have h := of_outer (outer_onPort t p fun f => { f with rekey := true })
    unfold State.startRekey State.startExchange
    refine ite _ (h.trans ?_) h
    exact (of_outer (outer_onPort _ p _)).trans ((of_outer (outer_out _ _)).trans (of_outer (PortWork.sendKeyFlit _).outer))
  exact ite _ (hoff.trans (hrekey _)) hoff

theorem writeMReg (s : State) (host : Bool) (r : MReg) (v : Word) : Afar s (s.writeMReg host r v) := by
  cases r with
  | mailbox n w =>
    unfold State.writeMReg
    dsimp only
    split
    · exact ite _ (refl s) (ite _ (mailboxSet s n _) (mailboxSet s n _))
    · refine ite _ (refl s) (ite _ (mailboxSet s n _) ?_)
      exact ite _ ((mailboxSet s n _).trans (msix _ _)) (mailboxSet s n _)
    · exact mailboxSet s n _
    · exact refl s
  | alert ix => exact writeAlert s ix v
  | ctxtbase =>
    exact Afar.trans (t := { s with ctxtEn := v.getLsbD 0, ctxtBase := bits v 51 22 * 0x400000 })
      (of_same rfl rfl fun _ => rfl)
      ((of_outer (onlyDue_retryQueues _).outer).trans (of_outer (outer_requeueHeld _)))
  | part p => exact writePart s p v
  | partmem p => exact of_same rfl rfl fun _ => rfl
  | lctctl => exact ite _ (lockLct s) (refl s)
  | tvbase => exact of_same rfl rfl fun _ => rfl
  | lct n => exact ite _ (refl s) (of_same rfl rfl fun _ => rfl)
  | fpctl p => exact writeFpctl s p _ _
  | ltgen => exact refl s
  | fport _ => exact refl s
  | ltent _ => exact refl s

/-! Writes that are performed (R34, R60, R66, R151, R167). -/

theorem cleanHalf (s : State) (half : Nat) (ctx : BitVec 16) : Afar s (s.cleanHalf half ctx) := by
  unfold State.cleanHalf
  split
  · exact refl s
  · exact ite _ (of_same rfl rfl fun _ => rfl) (refl s)

theorem dirtyHalf (s : State) (half : Nat) (ctx : BitVec 16) : Afar s (s.dirtyHalf half ctx) := by
  have h := (cleanHalf s (half / 2 * 2) ctx).trans (cleanHalf _ (half / 2 * 2 + 1) ctx)
  unfold State.dirtyHalf
  dsimp only
  split
  · exact h
  · exact h.trans (of_same rfl rfl fun _ => rfl)

theorem dirtyHost (s : State) (pa n : Nat) (ctx : BitVec 16) : Afar s (s.dirtyHost pa n ctx) :=
  ite _ (dirtyHalf s _ _) ((dirtyHalf s _ _).trans (dirtyHalf _ _ _))

theorem leaveCore (s : State) (c : CoreId) (ls : List Nat) : Afar s (s.leaveCore c ls) := by
  refine foldl _ (fun t l => (endExcl t c l).trans (onCore _ c _ fun _ => ?_)) ls s
  exact .of_slots rfl rfl

theorem atomicDev (s : State) (src : Source) (pa op b exp : Nat) (wide : Bool) :
    Afar s (s.atomicDev src pa op b exp wide).2 := by
  have h := fun n v => serialise s src pa n v
  unfold State.atomicDev
  dsimp only
  split
  · next heq => exact (of_pair (h _ _) heq).trans (ite _ (leaveCore _ _ _) (refl _))
  · next heq => exact of_pair (h _ _) heq
  · next heq => exact of_pair (h _ _) heq

theorem performMsg (s : State) (c : CoreId) (tid : Nat) (w : WriteMsg) (asker : Nat) :
    Afar s (s.performMsg c tid w asker).2 := by
  unfold State.performMsg
  split
  · split
    · exact refl s
    · exact writeMReg s false _ _
    · exact refl s
  · exact refl s
  case h_3 | h_4 =>
    dsimp only
    split
    · exact serialise s _ _ _ _
    · next op exp _ =>
      have h := atomicDev s ⟨c, tid, w.ctx, !isCmd c && !w.leaf.getLsbD 8⟩ w.pa op w.data.toNat exp.toNat w.wide
      split <;> next heq => exact of_pair h heq
  · split
    · exact refl s
    · exact refl s
    · have hown := of_outer (outer_obtain s c asker none w.pa w.n true)
      split
      · next heq => exact of_pair hown heq
      · next u heq =>
        have hu := of_pair hown heq
        split
        · exact hu
        · refine hu.trans ((dirtyHost u w.pa w.n w.ctx).trans ((storeBytes _ _ _ _ _).trans
            (foldl _ (fun t l => trigger t l) _ _)))

theorem unqueue (s : State) (c : CoreId) (p : Pending) : Afar s (s.unqueue c p) := by
  refine onCore s c _ fun _ => ?_
  exact .of_slots rfl rfl

theorem endWrite (s : State) (c : CoreId) (tid : Nat) (near dev hst : Bool) :
    Afar s (s.onTid c tid (Thread.endWrite near dev hst)) :=
  onTid s c tid _ fun _ => .of_task rfl rfl

theorem performOne (s : State) (c : CoreId) (p : Pending) : Afar s (s.performOne c p).2 := by
  have hgone : ∀ u : State, Afar u ((u.unqueue c p).onTid c p.tid (Thread.endWrite p.near false false)) := fun u =>
    (unqueue u c p).trans (endWrite _ _ _ _ _ _)
  have hmsg := performMsg s c p.tid p.msg 0
  unfold State.performOne
  split
  · dsimp only
    split
    · next u heq => exact (of_pair hmsg heq).trans (hgone u)
    · next heq => exact of_pair hmsg heq
    · next u heq => exact (of_pair hmsg heq).trans ((hgone u).trans (writeFailedOn _ _ _ _ _ _ _))
  · split
    · exact (hgone s).trans (writeFailedOn _ _ _ _ _ _ _)
    · split
      · exact (unqueue s c p).trans (of_outer (outer_sendWrite _ _ _ _ _))
      · exact refl s

theorem performSeq (l : List (CoreId × Pending)) (s : State) : Afar s (s.performSeq l).2 := by
  induction l generalizing s with
  | nil => exact refl s
  | cons q r ih =>
    have h := performOne s q.1 q.2
    unfold State.performSeq
    split
    · next u heq => exact (of_pair h heq).trans (ih u)
    · exact h

/-! Walks and translations (R120 to R124). -/

theorem watchLine (s : State) (line : Nat) (c : CoreId) : Afar s (s.watchLine line c) :=
  (setLine s line _).trans (of_same rfl rfl fun _ => rfl)

theorem walkFrom (s : State) (c : CoreId) (va : Word) (level table : Nat) (lines : List Nat) (fuel : Nat) :
    Afar s (s.walkFrom c va level table lines fuel).2 := by
  induction fuel generalizing s level table lines with
  | zero => exact refl s
  | succ fuel ih =>
    unfold State.walkFrom
    dsimp only [State.walkEntry]
    generalize (if level = 0 then bits va 53 42 else if level = 1 then bits va 41 29 else bits va 28 16) = ix
    split
    · exact refl s
    · split
      · next heq => exact of_pair (blocked s _ _ _ _ _) heq
      · next u heq =>
        have hu := (of_pair (blocked s _ _ _ _ _) heq).trans
          (watchLine u (lineOf (table + 8 * ix)) c)
        split
        · exact hu
        · split
          · exact hu
          · split
            · exact hu
            · split
              · exact hu.trans (ite _ (watchLine _ _ _) (refl _))
              · exact hu.trans (ih _ _ _ _)

theorem walk (s : State) (c : CoreId) (ctx : BitVec 16) (va : Word) : Afar s (s.walk c ctx va).2 := by
  unfold State.walk
  split
  · next heq => exact of_pair (ctxReady s _) heq
  · next u heq =>
    have hu := of_pair (ctxReady s _) heq
    split
    · exact hu
    · exact hu.trans (walkFrom u c va _ _ _ _)

theorem startWalk (s : State) (a : Asid) (va : Word) : Afar s (s.startWalk a va).2 := by
  unfold State.startWalk
  split
  · exact refl s
  · split
    next r u heq =>
    have hu := of_pair (walk s _ _ _) heq
    have hw := fun f i => hu.trans
      ((onCore u a.core (fun k => { k with walks := k.walks ++ [f] }) fun _ => .of_slots rfl rfl).trans (later _ i))
    split
    · split
      · exact hu
      · exact hw _ _
    · exact hw _ _

theorem lookup (s : State) (a : Asid) (va : Word) (n : Nat) : Afar s (s.lookup a va n).2 := by
  unfold State.lookup
  dsimp only
  split
  · exact walk s _ _ _
  · split
    · exact refl s
    · split
      · exact onCore s _ _ fun _ => .of_slots rfl rfl
      · split
        · exact refl s
        · exact startWalk s a va

theorem xlate (s : State) (a : Asid) (va : Word) (n : Nat) (k : Access) : Afar s (s.xlate a va n k).2 := by
  unfold State.xlate
  split
  · exact refl s
  · split
    · next heq => exact of_pair (lookup s a va n) heq
    · next heq =>
      have hu := of_pair (lookup s a va n) heq
      split <;> exact hu

theorem xlateSpan (s : State) (a : Asid) (va : Word) (n : Nat) (k : Access) : Afar s (s.xlateSpan a va n k).2 := by
  unfold State.xlateSpan
  dsimp only
  split
  · split
    · next heq => exact of_pair (xlate s _ _ _ _) heq
    · next heq => exact of_pair (xlate s _ _ _ _) heq
  · split
    · next heq => exact of_pair (xlate s _ _ _ _) heq
    · next heq =>
      have hu := of_pair (xlate s _ _ _ _) heq
      split
      · next heq => exact hu.trans (of_pair (xlate _ _ _ _ _) heq)
      · next heq => exact hu.trans (of_pair (xlate _ _ _ _ _) heq)

theorem loaded {α : Type} (x : Served α × State) (va : Word) (pa : Nat) (h : Afar s x.2) :
    Afar s (Served.loaded x va pa).2 := by
  obtain ⟨_ | _ | _, u⟩ := x <;> exact h

theorem engObtain (s : State) (c : CoreId) (id pa n : Nat) (own : Bool) : Afar s (s.engObtain c id pa n own).2 := by
  unfold State.engObtain
  split
  · next g _ => exact onCore s c (fun k => { k with got := k.got.erase g }) fun _ => .of_slots rfl rfl
  · split
    · next heq => exact of_pair (of_outer (outer_obtain s c 0 (some id) pa n own)) heq
    · next heq => exact of_pair (of_outer (outer_obtain s c 0 (some id) pa n own)) heq

theorem engHostRead (s : State) (c : CoreId) (id pa n : Nat) : Afar s (s.engHostRead c id pa n).2 := by
  have hs : Afar s (s.settle c pa).2 := performSeq _ s
  unfold State.engHostRead
  split
  · next heq => exact of_pair hs heq
  · next u _ heq =>
    have hu := of_pair hs heq
    split
    · next heq => exact hu.trans (of_pair (engObtain u c id pa n false) heq)
    · next heq => exact hu.trans (of_pair (engObtain u c id pa n false) heq)
    · next heq => exact hu.trans (of_pair (engObtain u c id pa n false) heq)

theorem engAsk (s : State) (c : CoreId) (id : Nat) (p : Phys) (n : Nat) : Afar s (s.engAsk c id p n).2 := by
  unfold State.engAsk
  dsimp only
  split
  · exact refl s
  · exact ite _ (of_outer (outer_hostRequest s _ _ _ _)) (of_outer ((outer_enterGateway s _).trans (outer_out _ _)))

theorem engAway (s : State) (c : CoreId) (id : Nat) (p : Phys) (va : Word) (n : Nat) : Afar s (s.engAway c id p va n).2 := by
  unfold State.engAway
  split
  · next g _ =>
    have hg := onCore s c (fun k => { k with got := k.got.erase g }) fun _ => .of_slots rfl rfl
    dsimp only
    split <;> exact hg
  · split
    · exact refl s
    · split
      · next heq => exact of_pair (engAsk s c id p n) heq
      · next heq => exact of_pair (engAsk s c id p n) heq

theorem engPiece (s : State) (c : CoreId) (id : Nat) (va : Word) (p : Phys) (n : Nat) :
    Afar s (s.engPiece c id va p n).2 := by
  unfold State.engPiece
  split
  · exact engAway s c id p va n
  · split
    · exact refl s
    · split <;> exact refl s
    · split
      · exact refl s
      · exact refl s
      · split
        · exact loaded _ _ _ (engHostRead s c id p.pa n)
        · exact engAway s c id p va n
    · exact loaded _ _ _ (serveRead s c p.pa n false id)
    · exact loaded _ _ _ (serveRead s c p.pa n false id)

theorem engPieces (ps : List (Phys × Nat)) (s : State) (c : CoreId) (id : Nat) (va : Word) :
    Afar s (s.engPieces c id va ps).2 := by
  induction ps generalizing s va with
  | nil => exact refl s
  | cons q r ih =>
    obtain ⟨p, n⟩ := q
    have h := engPiece s c id va p n
    unfold State.engPieces
    split
    · next u heq =>
      have hu := of_pair h heq
      have hr := hu.trans (ih u (va + w64 n))
      split
      · next heq => exact hu.trans (of_pair (ih u (va + w64 n)) heq)
      · exact hr
    · exact h

theorem engLoad (s : State) (a : Asid) (id : Nat) (va : Word) (n : Nat) : Afar s (s.engLoad a id va n).2 := by
  unfold State.engLoad
  split
  · next heq => exact of_pair (xlateSpan s a va n .load) heq
  · next u heq => exact (of_pair (xlateSpan s a va n .load) heq).trans (engPieces _ u _ _ _)

theorem scopeLines (n : Nat) (s : State) (va : Word) : Afar s (s.scopeLines va n).2 := by
  induction n generalizing s va with
  | zero => exact refl s
  | succ n ih =>
    have h := engLoad s s.dispatchAsid dispatchId va 128
    unfold State.scopeLines
    split
    · next u heq =>
      have hu := of_pair h heq
      have hr := hu.trans (ih u (va + 128))
      split
      · next heq => exact hu.trans (of_pair (ih u (va + 128)) heq)
      · exact hr
    · next heq => exact of_pair h heq
    · next heq => exact of_pair h heq

/-- The current core's copies of scope tables changed. -/
theorem onScopes (s : State) (f : Core → Core) (h : ∀ k, f k = { k with scopes := (f k).scopes }) : Afar s (s.onHere f) := by
  have hslots : (f s.core).slots = s.core.slots := by rw [h]
  have hown : ownOf (f s.core) = ownOf s.core := by rw [h]; rfl
  refine ⟨rfl, rfl, fun c => ?_⟩
  by_cases hc : c = s.loc
  · simp only [State.getCore, State.onHere, State.here, hc, if_true, hslots]
    exact .of_slots rfl hown
  · simp only [State.getCore, State.onHere, hc, if_false]
    exact .refl _

theorem readScopes (s : State) : Afar s s.readScopes.2 := by
  unfold State.readScopes
  split
  · exact refl s
  · have h := scopeLines 24 s s.th.scopet
    split
    · next heq => exact (of_pair h heq).trans (onScopes _ (fun k => { k with scopes := mapSet k.scopes _ _ }) fun _ => rfl)
    · next heq => exact of_pair h heq
    · next heq => exact of_pair h heq

/-! Entries that are raised (R77, R132). -/

theorem abortLaunch (s : State) (h status : Nat) : Afar s (s.abortLaunch h status) := by
  unfold State.abortLaunch
  split
  · exact refl s
  · next l _ =>
    refine ite _ (refl s) ?_
    have hcores : ∀ v : State, Afar v (v.mapCores fun _ k => { k with deque := k.deque.filter fun r => !(r.lh == h) }) :=
      fun v => mapCores v _ fun _ _ => .of_slots rfl rfl
    have hretire : ∀ v : State, Afar v (v.coreList.foldl (fun s c =>
        ((s.getCore c).teams.filter fun t => t.lh == h).foldl (fun s t => s.later (.taskRetire c t.id)) s) v) := fun v =>
      foldl _ (fun v c => foldl _ (fun v t => later v _) _ v) _ v
    have hset : ∀ (v : State) (m : Launch), Afar v { v with launches := mapSet v.launches h m } :=
      fun v m => of_same rfl rfl fun _ => rfl
    have hall := fun m m' => (hset s m).trans ((hcores _).trans ((hset _ m').trans (hretire _)))
    exact ite _ ((hall _ _).trans (later _ _)) (hall _ _)

theorem faultPolicy (s : State) (ix : Word) : Afar s (s.faultPolicy ix) := by
  unfold State.faultPolicy
  refine ite _ (refl s) ?_
  split
  · exact refl s
  · exact ite _ (abortLaunch s _ _) (ite _ (of_outer (alert_outer s _ _ _ _).1) (refl s))

theorem raiseOne (s : State) (e : HeldEntry) : Afar s (s.raiseOne e) := by
  unfold State.raiseOne
  refine ite _ (refl s) ?_
  exact (fqStat s _).trans ((onTh _ _ (.of_task rfl rfl)).trans (faultPolicy _ _))

theorem raiseHeld (s : State) : Afar s s.raiseHeld :=
  (foldl _ raiseOne _ s).trans (foldl _ (fun t _ => fqCount t _ _) _ _)

theorem fqTake (s : State) (e : FaultEntry) : Afar s (s.fqTake e).2 := ite_pair _ (refl s) (fqWrite s e)

end Afar

/-! A thread that faults. -/

/-- An entry of the current thread that is raised. -/
theorem Afar.addEntry (s : State) (h : HeldEntry) (ix : Word) :
    Afar s ((s.onTh fun t => { t with held := t.held ++ [h] }).faultPolicy ix) :=
  (onTh s _ (.of_task rfl rfl)).trans (faultPolicy _ ix)

/-- A slot whose thread is still there, and is the same one where it stands. -/
def SameTask (x y : Thread) : Prop := y.status ≠ .empty ∧ taskOf y = taskOf x

/-- A raised entry of the current slot's thread parks it (R127): it is the same one where it stands. -/
theorem raiseNew_sameTask (s : State) (e : FaultEntry) (w : Option WriteMsg) (alone : Bool) :
    (s.raiseNew e w alone).loc = s.loc ∧ (s.raiseNew e w alone).slot = s.slot ∧ SameTask s.th (s.raiseNew e w alone).th := by
  unfold State.raiseNew
  dsimp only
  have htake := Afar.fqTake (s.park .fault) e
  obtain ⟨-, ht⟩ := htake.th rfl
  split
  · next ix v heq =>
    rw [heq] at htake
    have hcount : Afar v (if alone = true then v.fqCount e.sup e.ctx else v) := .ite _ (.fqCount v _ _) (.refl v)
    have hall := (htake.trans hcount).trans (Afar.addEntry _
      { ctx := e.ctx, index := ix, pc := e.fpc, load := none, regs := Regs.zero, copy := none, raised := true, acked := false,
        write := w } ix)
    obtain ⟨hs, ht⟩ := hall.th rfl
    exact ⟨hall.loc, hall.slot, by rw [hs]; nofun, ht⟩
  · next v heq =>
    rw [heq] at htake ht
    exact ⟨htake.loc, htake.slot, nofun, ht⟩

/-- The current slot's thread takes a parking fault (R127): it waits, and is the same one where it stands. -/
theorem parkFault_sameTask {s : State} (h : awaitsWrite s.th.status = false) (cause : Byte) (fva : Word) (write : Bool) (pa : Nat)
    (detail : Word) : let t := s.parkFault cause fva write pa detail
    t.loc = s.loc ∧ t.slot = s.slot ∧ SameTask s.th t.th := by
  have hraise := Afar.raiseHeld s
  obtain ⟨hloc, hslot, hempty, htask⟩ := raiseNew_sameTask s.raiseHeld (s.entryOf cause fva 1 write pa detail) none true
  exact ⟨hloc.trans hraise.loc, hslot.trans hraise.slot, hempty, htask.trans (hraise.th h).2⟩

end Sys2Proof.Proofs
end

section
/-! PROOF. Travel packets, the message engine, spills, restores, and the timers of parked slots (R146, R205, R206, R233, R297, R298, R324,
R325). -/

namespace Sys2Proof.Proofs

open Sys2Proof Sys2Proof.Machine Sys2Proof.Claims Sys2Proof.Laws

/-! The timers of parked slots (R297, R324, R325). -/

theorem physByte_onSlot (s : State) (c : CoreId) (sl : Fin 8) (f : Thread → Thread) (a : Nat) :
    (s.onSlot c sl f).physByte a = s.physByte a := onlyCores_physByte (onlyCores_onSlot s c sl f) a

theorem exec_joinPoll (s : State) (c : CoreId) (sl : Fin 8) :
    exec (.joinPoll c sl) s = .next (s.onSlot c sl (Thread.retryIf waitsJoin)) := rfl

/-- A thread whose polled entries trigger while they are armed (R324). -/
def polledThread (t : Thread) : Thread :=
  { t with watch := t.watch.map fun (e : WatchEntry) => if e.armed && e.polled then { e with triggered := true } else e }

theorem exec_watchPoll (s : State) (c : CoreId) (sl : Fin 8) :
    exec (.watchPoll c sl) s = .next (s.onSlot c sl fun t => (polledThread t).checkWaitev) := rfl

/-- A thread that waits for no event is not looked at. -/
theorem checkWaitev_of_ready (t : Thread) (h : t.status = .ready) : t.checkWaitev = t := by simp [Thread.checkWaitev, h]

/-- A polled entry triggers while it is armed. -/
theorem polled_entry (e : WatchEntry) : (if e.armed && e.polled then { e with triggered := true } else e) =
    { e with triggered := e.triggered || (e.armed && e.polled) } := by
  split
  · next h => simp [h]
  · next h => simp [h]

/-- R325: at its limit a WAITEV ends. -/
theorem exec_waitevTimeout (s : State) (c : CoreId) (sl : Fin 8) (d : Reg) (l : Nat)
    (h : (s.getThread c sl).status = .parked (.waitev d (some l))) (hl : l ≤ (s.getCore c).cycle) :
    exec (.waitevTimeout c sl) s = .next (s.onSlot c sl fun t => t.endWaitev d) := by
  show Host.Outcome.next _ = _
  rw [h]
  exact congrArg _ (if_pos hl)

/-! Spills (R205, R206, R298). -/

/-- One step of the search for the youngest slot. -/
theorem youngest_spec (k : Core) (is : List (Fin 8)) (m : Option (Fin 8)) (v : Fin 8)
    (h : is.foldl (fun (m : Option (Fin 8)) i => match m with
      | none => some i
      | some j => if k.slots[j].order < k.slots[i].order then some i else m) m = some v) :
    (v ∈ is ∨ m = some v) ∧ (∀ i ∈ is, k.slots[i].order ≤ k.slots[v].order) ∧
      ∀ j, m = some j → k.slots[j].order ≤ k.slots[v].order := by
  induction is generalizing m with
  | nil => exact ⟨.inr h, nofun, fun j hj => by rw [← Option.some.inj (hj.symm.trans h)]⟩
  | cons x is ih =>
    obtain ⟨hmem, hmax, hacc⟩ := ih _ h
    cases m with
    | none =>
      have hx := hacc x rfl
      refine ⟨.inl ?_, List.forall_mem_cons.2 ⟨hx, hmax⟩, nofun⟩
      exact hmem.elim (List.mem_cons_of_mem x) fun hv => by rw [Option.some.inj hv]; exact List.mem_cons_self
    | some j =>
      dsimp only at hmem hacc
      split at hmem
      · next hlt =>
        have hx := hacc x (if_pos hlt)
        refine ⟨.inl ?_, List.forall_mem_cons.2 ⟨hx, hmax⟩, fun i hi => ?_⟩
        · exact hmem.elim (List.mem_cons_of_mem x) fun hv => by rw [Option.some.inj hv]; exact List.mem_cons_self
        · rw [← Option.some.inj hi]
          exact hlt.le.trans hx
      · next hge =>
        have hj := hacc j (if_neg hge)
        refine ⟨hmem.imp_left (List.mem_cons_of_mem x), List.forall_mem_cons.2 ⟨(not_lt.1 hge).trans hj, hmax⟩, fun i hi => ?_⟩
        rw [← Option.some.inj hi]
        exact hj

/-- R206: the slot that is spilled is one of the candidates, and none was dispatched after it. -/
theorem youngest_mem_max {k : Core} {is : List (Fin 8)} {v : Fin 8} (h : k.youngest is = some v) :
    v ∈ is ∧ ∀ i ∈ is, k.slots[i].order ≤ k.slots[v].order := by
  obtain ⟨hmem, hmax, -⟩ := youngest_spec k is none v h
  exact ⟨hmem.resolve_right nofun, hmax⟩

theorem exec_slotSpill (s : State) (c : CoreId) (p : Nat) (v : Fin 8) (hp : s.spillNeed c = some p)
    (hv : (s.getCore c).youngest ((s.getCore c).victims p) = some v) :
    exec (.slotSpill c) s = .next { s with agenda := .spillComplete c v :: s.agenda } := by
  show Host.Outcome.next _ = _
  simp only [hp, hv]
  rfl

theorem exec_joinSpill (s : State) (c : CoreId) (sl : Fin 8) (h : s.joinerToSpill c = some sl) :
    exec (.joinSpill c sl) s = .next { s with agenda := .spillComplete c sl :: s.agenda } :=
  congrArg Host.Outcome.next (if_pos h)

theorem exec_spillComplete_hold (s : State) (c : CoreId) (sl : Fin 8) (j : Option Word) (hj : s.spillFor c sl = some j)
    (h : s.spillReady c sl = false) :
    exec (.spillComplete c sl) s = .next { s with hostHeld := s.hostHeld ++ [.spillComplete c sl] } := by
  show Host.Outcome.next _ = _
  simp only [hj, h]
  rfl

theorem exec_spillComplete_ready (s : State) (c : CoreId) (sl : Fin 8) (j : Option Word) (hj : s.spillFor c sl = some j)
    (h : s.spillReady c sl = true) : exec (.spillComplete c sl) s = .next (s.spillAway c sl j) := by
  show Host.Outcome.next _ = _
  simp only [hj, h]
  rfl

/-- The cluster's work that becomes due changes no core. -/
theorem getCore_wakeCluster (s : State) (c d : CoreId) : (s.wakeCluster c).getCore d = s.getCore d := by
  unfold State.wakeCluster
  refine List.foldlRecOn (motive := fun t : State => t.getCore d = s.getCore d) _ _ rfl fun t ht a _ => ?_
  split
  · exact ht
  · exact ht

/-- A core whose slot's thread has moved to a save area (R205). -/
def savedFrom (t : Thread) (sl : Fin 8) (j : Option Word) (k : Core) : Core :=
  let k := k.onTeam t.team fun m => { m with frames := m.frames - t.allot }
  { k with
    child := if j.isSome then k.deque.find? fun r => r.thread && r.lh == t.lh else k.child
    slots := k.slots.set sl Thread.empty
    saves := k.saves ++ [{ thread := { t with extents := [] }, joins := j, due := false : Saved }]
    tlb := k.tlb.filter fun e => e.slot != sl.val }

theorem getCore_spillAway (s : State) (c : CoreId) (sl : Fin 8) (j : Option Word) (d : CoreId) :
    (s.spillAway c sl j).getCore d = (s.onCore c (savedFrom (s.getThread c sl) sl j)).getCore d := by
  cases j with
  | none => exact getCore_wakeCluster _ c d
  | some _ => rfl

theorem agenda_spillAway (s : State) (c : CoreId) (sl : Fin 8) (j : Option Word) (h : j.isSome = true) :
    (s.spillAway c sl j).agenda = .taskDispatch c :: s.agenda := by
  unfold State.spillAway
  dsimp only
  rw [if_pos h]
  obtain ⟨_, _, _, he⟩ := onlyCores_onCore s c _
  rw [he]
  rfl

/-! Restores (R205, R206). -/

theorem readJoin_of_none (s : State) (c : CoreId) (v : Saved) (h : v.joins = none) : s.readJoin c v = s := by
  simp [State.readJoin, h]

/-- Without a joiner in a save area no counter is read. -/
theorem readJoins_none (s : State) (c : CoreId) (vs : List Saved) (h : ∀ v ∈ vs, v.joins = none) :
    vs.foldl (fun s v => s.readJoin c v) s = s := by
  induction vs with
  | nil => rfl
  | cons v vs ih =>
    rw [List.foldl_cons, readJoin_of_none s c v (h v List.mem_cons_self)]
    exact ih fun w hw => h w (List.mem_cons_of_mem v hw)

theorem exec_slotRestore (s : State) (c : CoreId) (v : Saved) (i : Fin 8) (hc : isCmd c = false) (hoff : s.coreOff c = false)
    (hj : ∀ x ∈ (s.getCore c).saves, x.due = false → x.joins = none) (hv : s.restoreNext c = some v)
    (hi : (s.getCore c).freeSlots.head? = some i) (hr : s.recordFirst c v = false) :
    exec (.slotRestore c) s = .next { s with agenda := .slotRestoreComplete c i :: s.agenda } := by
  have hnone : ∀ x ∈ (s.getCore c).saves.filter fun v => !v.due, x.joins = none := fun x hx => by
    obtain ⟨hm, hd⟩ := List.mem_filter.1 hx
    exact hj x hm (by simpa using hd)
  show Host.Outcome.next _ = _
  simp only [hc, readJoins_none s c _ hnone, hoff, hi, hv, hr, Bool.false_eq_true, if_false]
  rfl

theorem exec_slotRestoreComplete (s : State) (c : CoreId) (sl : Fin 8) (v : Saved) (hv : s.restoreNext c = some v)
    (h : (s.getThread c sl).status = .empty) : exec (.slotRestoreComplete c sl) s = .next (s.restoreInto c sl v) := by
  show Host.Outcome.next _ = _
  simp only [hv, h]
  rfl

/-- A thread whose armed watch entries have triggered, since its lines may have changed while it was out (R205). -/
def watchesDue (t : Thread) : Thread :=
  { t with watch := t.watch.map fun (e : WatchEntry) => if e.armed then { e with triggered := true } else e }

/-- A restored thread that is ready goes on. -/
theorem resumed_of_ready (t : Thread) (h : t.status = .ready) : t.resumed = watchesDue t :=
  (congrArg Thread.checkWaitev (retryIf_of_ready (watchesDue t) _ h)).trans (checkWaitev_of_ready (watchesDue t) h)

/-- A saved thread, no longer owed: it is protected until it arrives at its barrier (R208). -/
def unowed (s : State) (c : CoreId) (v : Saved) : Thread :=
  { v.thread with owed := false, protect := (v.thread.protect ++ s.owedAt c v.thread).eraseDups }

/-- A core whose slot takes a thread from a save area (R205). -/
def restoredTo (t : Thread) (v : Saved) (sl : Fin 8) (k : Core) : Core :=
  let k := k.onTeam t.team fun m => { m with frames := m.frames + t.allot }
  { k with
    slots := k.slots.set sl t
    saves := k.saves.erase v
    tlb := k.tlb.filter fun e => e.slot != sl.val || e.leaf.getLsbD 5 || e.ctx == t.ctx }

theorem restoreInto_eq (s : State) (c : CoreId) (sl : Fin 8) (v : Saved) (h : v.thread.status = .ready) : s.restoreInto c sl v =
    (s.onCore c (restoredTo (watchesDue (unowed s c v)) v sl)).later (.slotRestore c) := by
  have hres : (unowed s c v).resumed = watchesDue (unowed s c v) := resumed_of_ready _ h
  have hpark : ¬((watchesDue (unowed s c v)).status = .parked .fault ∧ (watchesDue (unowed s c v)).allAcked = true) := fun hp => by
    rw [show (watchesDue (unowed s c v)).status = .ready from h] at hp
    exact absurd hp.1 nofun
  have hinto : s.restoreInto c sl v =
      let u := s.onCore c (restoredTo (unowed s c v).resumed v sl)
      (if (unowed s c v).resumed.status = .parked .fault ∧ (unowed s c v).resumed.allAcked = true then u.later (.taskReplay c sl)
        else u).later (.slotRestore c) := rfl
  rw [hinto, hres]
  dsimp only
  rw [if_neg hpark]

/-- A core of which one slot is written. -/
theorem getThread_of_slot_set {s t : State} {c : CoreId} {sl : Fin 8} {f : Core → Core} {x : Thread}
    (hc : ∀ d, t.getCore d = (s.onCore c f).getCore d) (hs : ∀ k, (f k).slots = k.slots.set sl x) :
    t.getThread c sl = x ∧ ∀ k i, ¬(k = c ∧ i = sl) → t.getThread k i = s.getThread k i := by
  refine ⟨?_, fun k i hne => ?_⟩
  · simp [getThread_eq_slot, hc, hs]
  · rw [getThread_eq_slot, getThread_eq_slot, hc, getCore_onCore]
    split
    · next hk =>
      have hi : sl.val ≠ i.val := fun h => hne ⟨hk, (Fin.ext h).symm⟩
      simp [hs, hi]
    · rfl

end Sys2Proof.Proofs
end

section
/-! PROOF. The arrival of a travel packet (R146): the thread of the packet stands in the free slot. -/

namespace Sys2Proof.Proofs

open Sys2Proof Sys2Proof.Machine Sys2Proof.Claims Sys2Proof.Laws

/-! The packet. -/

theorem packetWord_eq (p : BitVec 6144) (i : Nat) : packetWord p i = BitVec.ofNat 64 (p.toNat / 2 ^ (64 * i)) := by
  apply BitVec.eq_of_toNat_eq
  simp [packetWord, w64]

theorem packetRegs_rx (p : BitVec 6144) (i : Reg) :
    (packetRegs p).rx i = if i = 0 then 0 else BitVec.ofNat 64 (p.toNat / 2 ^ (64 * (i.val - 1))) := by
  unfold Regs.rx
  split
  · rfl
  · next h =>
    have hi : i.val ≠ 0 := fun h0 => h (Fin.ext h0)
    refine (Vector.getElem_ofFn _).trans ?_
    rw [if_neg hi, packetWord_eq]

theorem packetRegs_b (p : BitVec 6144) (i : Fin 4) : (packetRegs p).b[i] = BitVec.ofNat 64 (p.toNat / 2 ^ (64 * (31 + i.val))) := by
  exact (Vector.getElem_ofFn _).trans (packetWord_eq p _)

/-! The slot. -/

/-- The free slot of a die is empty. -/
theorem freeOnDie_empty {s : State} {die : Nat} {c : CoreId} {sl : Fin 8} (h : s.freeOnDie die = some (c, sl)) :
    (s.getThread c sl).status = .empty := by
  unfold State.freeOnDie at h
  split at h
  · cases h
  · obtain ⟨i, -, hi⟩ := List.exists_of_findSome?_eq_some h
    dsimp only at hi
    split at hi
    · obtain ⟨x, hx, he⟩ := Option.map_eq_some_iff.1 hi
      obtain ⟨rfl, rfl⟩ := Prod.mk.inj he
      have hm := (List.mem_filter.1 (List.mem_of_mem_head? hx)).2
      rw [getThread_eq_slot]
      exact eq_of_beq hm
    · cases hi

/-- The slot that a packet came from holds a thread that waits for it. -/
theorem travelOrigin_parked {s : State} {p : BitVec 6144} {c : CoreId} {sl : Fin 8} (h : s.travelOrigin p = some (c, sl)) :
    (s.getThread c sl).status = .parked .travel := by
  obtain ⟨d, -, hd⟩ := List.exists_of_findSome?_eq_some h
  obtain ⟨i, -, hi⟩ := List.exists_of_findSome?_eq_some hd
  dsimp only at hi
  split at hi
  · next hc =>
    obtain ⟨rfl, rfl⟩ := Prod.mk.inj (Option.some.inj hi)
    simp only [Bool.and_eq_true, beq_iff_eq] at hc
    exact of_decide_eq_true hc.1
  · cases hi

theorem getThread_onSlot_ne (s : State) (c d : CoreId) (i x : Fin 8) (f : Thread → Thread) (h : ¬(d = c ∧ x = i)) :
    (s.onSlot c i f).getThread d x = s.getThread d x := by
  unfold State.onSlot State.putThread
  split
  · next hcur =>
    obtain ⟨hc, hi⟩ := hcur
    have hne : ¬(d = s.loc ∧ x = s.slot) := fun hd => h ⟨hd.1.trans hc.symm, hd.2.trans hi.symm⟩
    simp only [State.getThread, if_neg hne, State.getCore, State.here]
    split
    · next hd =>
      have hx : s.slot.val ≠ x.val := fun hv => hne ⟨hd, (Fin.ext hv).symm⟩
      simp [hx]
    · rfl
  · exact (getThread_of_slot_set (c := c) (sl := i) (fun _ => rfl) fun k => rfl).2 d x h

/-! The slot that the thread leaves. -/

theorem getThread_onCore_slots (s : State) (c : CoreId) (f : Core → Core) (h : ∀ k, (f k).slots = k.slots) (d : CoreId) (x : Fin 8) :
    (s.onCore c f).getThread d x = s.getThread d x := by
  rw [getThread_eq_slot, getThread_eq_slot, getCore_onCore]
  split
  · simp only [h]
  · rfl

theorem getThread_later (s : State) (i : Instr) (d : CoreId) (x : Fin 8) : (s.later i).getThread d x = s.getThread d x := rfl

theorem getThread_requeueHeld (s : State) (d : CoreId) (x : Fin 8) : s.requeueHeld.getThread d x = s.getThread d x := rfl

/-- A thread that departs leaves every other slot's thread as it was. -/
theorem departed_thread (s : State) (c : CoreId) (sl : Fin 8) (d : CoreId) (x : Fin 8) (h : ¬(d = c ∧ x = sl)) :
    Steadfast (s.getThread d x) ((s.departed c sl).getThread d x) := by
  have hout : ∀ l, Afar s { s with outstanding := l } := fun l => .of_same rfl rfl fun _ => rfl
  unfold State.departed
  dsimp only
  rw [getThread_requeueHeld, getThread_later, getThread_later, getThread_onCore_slots, getThread_onSlot_ne _ _ _ _ _ _ h]
  · exact ((hout _).trans (Afar.dropEntries _ _)).thread d x
  · exact fun k => rfl

/-- The package that sent the thread learns of it: no thread changes. -/
theorem acceptAway_thread (s : State) (p : BitVec 6144) (d : CoreId) (x : Fin 8) :
    (s.acceptAway p).getThread d x = s.getThread d x := by
  unfold State.acceptAway
  split
  · next r hr =>
    rw [getThread_eq_slot, getThread_eq_slot]
    exact congrArg (fun k : Core => k.slots[x])
      (getCore_eq_of_undisturbed ((outer_out _ _).trans (responds_sendResponse _ _).outer).undisturbed d)
  · rfl

theorem countTask_thread (s : State) (h : Nat) (d : CoreId) (x : Fin 8) : (s.countTask h).getThread d x = s.getThread d x := by
  unfold State.countTask
  split
  · rfl
  · rfl

/-! The dispatch unit's reads (R195). -/

/-- The current slot's thread is there after an operation, and is the same one where it stands. -/
structure Stays (s t : State) : Prop where
  loc : t.loc = s.loc
  slot : t.slot = s.slot
  task : SameTask s.th t.th

theorem Stays.of_afar {s t u : State} (h : Afar s t) (hw : awaitsWrite s.th.status = false) (g : Stays t u) : Stays s u := by
  obtain ⟨hl, hs, he, ht⟩ := g
  exact ⟨hl.trans h.loc, hs.trans h.slot, he, ht.trans (h.th hw).2⟩

/-- A thread whose dispatch reads fail takes a parking fault. -/
theorem stays_dispatchFault (s : State) (x : Option (Byte × Word)) (cause : Byte) (fva : Word) (pa : Nat) (detail : Word)
    (h : s.th.status = .ready) :
    Stays s ((s.onTh fun t => { t with dispatchFault := x }).parkFault cause fva false pa detail) := by
  obtain ⟨hl, hs, ht⟩ := parkFault_sameTask (s := s.onTh fun t => { t with dispatchFault := x })
    (show awaitsWrite s.th.status = false by rw [h]; rfl) cause fva false pa detail
  exact ⟨hl, hs, ht⟩

/-- A thread that waits for its dispatch reads is parked. -/
theorem stays_dispatchWait (s old : State) (c : CoreId) (x : Option (Byte × Word)) (i : Instr)
    (hw : awaitsWrite s.th.status = false) :
    Stays s (((s.keepGot old c).onTh fun t => { t with status := .parked .fault, dispatchFault := x }).hold i) := by
  have hkept : Afar s (s.keepGot old c) := Afar.onCore s c _ fun k => .of_slots rfl rfl
  exact .of_afar hkept hw ⟨rfl, rfl, nofun, rfl⟩

/-- R195: whatever its dispatch reads find, the thread stands where it stood. -/
theorem stays_dispatchReads (s : State) (again : Instr) (h : s.th.status = .ready) : Stays s (s.dispatchReads false again) := by
  have hread : Afar s.recheckpoint s.recheckpoint.readScopes.2 := .readScopes _
  obtain ⟨hst, hta⟩ := hread.th (show awaitsWrite s.th.status = false by rw [h]; rfl)
  have hready : s.recheckpoint.readScopes.2.th.status = .ready := hst.trans h
  have hall : ∀ t, Stays s.recheckpoint.readScopes.2 t → Stays s t := fun t ht =>
    ⟨ht.loc.trans hread.loc, ht.slot.trans hread.slot, ht.task.1, ht.task.2.trans hta⟩
  unfold State.dispatchReads
  simp only [Bool.false_eq_true, if_false]
  revert hready hall
  generalize s.recheckpoint.readScopes = r
  obtain ⟨v, u⟩ := r
  intro hready hall
  apply hall
  cases v with
  | fail f va pa => exact stays_dispatchFault u _ _ _ _ _ hready
  | wait w => exact stays_dispatchWait u _ _ _ _ (by rw [hready]; rfl)
  | value x => exact ⟨rfl, rfl, nofun, rfl⟩

/-! The arrival. -/

/-- R180: what the trap vectors' table says changes no core. -/
theorem afar_trapVector (s : State) (c : CoreId) (ctx : BitVec 16) : Afar s (s.trapVector c ctx).2 := by
  have hpiece := Afar.engPiece s c dispatchId 0 ⟨s.tvBase + 8 * ctx.toNat, 0⟩ 8
  have hread := Afar.serveRead s c (s.tvBase + 8 * ctx.toNat) 8 false 0
  unfold State.trapVector
  dsimp only
  split
  · exact .refl s
  · split
    · revert hpiece
      generalize s.engPiece c dispatchId 0 ⟨s.tvBase + 8 * ctx.toNat, 0⟩ 8 = r
      obtain ⟨v, u⟩ := r
      intro hpiece
      cases v with
      | value v => exact hpiece
      | wait w => exact hpiece
      | fail => exact hpiece
    · revert hread
      generalize s.serveRead c (s.tvBase + 8 * ctx.toNat) 8 false 0 = r
      obtain ⟨v, u⟩ := r
      intro hread
      cases v with
      | done v => exact hread
      | wait w => exact hread
      | fail => exact hread

/-- A thread put in a slot, done with as the current one. -/
theorem asThread_sameTask {s : State} {c : CoreId} {sl : Fin 8} {f : State → State} (h : Stays (s.focus c sl) (f (s.focus c sl))) :
    SameTask (s.getThread c sl) ((s.asThread c sl f).getThread c sl) := by
  obtain ⟨hl, hs, ht⟩ := h
  rw [focus_th] at ht
  have hcur := getThread_current (f (s.focus c sl))
  rw [hl, hs] at hcur
  unfold State.asThread
  rw [getThread_focus, show (f (s.focus c sl)).getThread c sl = _ from hcur]
  exact ht

/-- A thread that is ready in its slot, with its dispatch reads. -/
theorem dispatched_sameTask {x : Thread} {c : CoreId} {sl : Fin 8} (hx : x.status = .ready) (s : State)
    (h : Steadfast x (s.getThread c sl)) :
    SameTask x ((s.asThread c sl fun s => s.dispatchReads false (.taskReplay c sl)).getThread c sl) := by
  obtain ⟨hst, hta⟩ := h (by rw [hx]; rfl)
  obtain ⟨he, ht⟩ := asThread_sameTask (f := fun s => s.dispatchReads false (.taskReplay c sl))
    (stays_dispatchReads (s.focus c sl) (.taskReplay c sl) (by rw [focus_th, hst, hx]))
  exact ⟨he, ht.trans hta⟩

theorem sweepScopes_slots (k : Core) : k.sweepScopes.slots = k.slots := rfl

/-- R146: the thread of a packet stands in its slot: it is ready, or it waits for its dispatch reads or for their fault. -/
theorem arrive1_thread (s : State) (p : BitVec 6144) (lh : Nat) (c : CoreId) (sl : Fin 8) (xvec : Word)
    (hfree : (s.getThread c sl).status = .empty) :
    ∃ prio team tid, SameTask (packetThread p lh prio team tid xvec) ((s.arrive1 p lh c sl xvec).getThread c sl) := by
  unfold State.arrive1
  dsimp only
  generalize hw : s.onCore c Core.sweepScopes = w
  have hfree' : (w.getThread c sl).status = .empty := by
    rw [← hw, getThread_onCore_slots _ _ _ sweepScopes_slots]
    exact hfree
  refine ⟨((w.launchAt lh).map (·.prio)).getD 0, (w.getCore c).nextTeam + 1, (w.getCore c).nextOrder + 1, ?_⟩
  have hready : (packetThread p lh (((w.launchAt lh).map (·.prio)).getD 0) ((w.getCore c).nextTeam + 1)
    ((w.getCore c).nextOrder + 1) xvec).status = .ready := rfl
  generalize packetThread p lh (((w.launchAt lh).map (·.prio)).getD 0) ((w.getCore c).nextTeam + 1)
    ((w.getCore c).nextOrder + 1) xvec = t at hready ⊢
  generalize w.travelTeam c t = r
  obtain ⟨tm, k⟩ := r
  dsimp only
  have hput : ∀ k, ((w.putCore c (Core.place k sl t)).getThread c sl) = t := fun k => by
    rw [getThread_eq_slot, getCore_putCore_same]
    simp [Core.place]
  generalize hz : w.putCore c _ = z
  have hz' : z.getThread c sl = t := by
    rw [← hz]
    exact hput _
  have hgone : Steadfast t ((match w.travelOrigin p with
      | some (c, sl) => z.departed c sl
      | none => (z.acceptAway p).countTask lh).getThread c sl) := by
    rw [← hz']
    split
    · next d x ho =>
      refine departed_thread z d x c sl fun h => ?_
      rw [h.1, h.2, travelOrigin_parked ho] at hfree'
      cases hfree'
    · rw [countTask_thread, acceptAway_thread]
      exact .refl _
  refine dispatched_sameTask hready _ hgone

end Sys2Proof.Proofs
end

section
/-! PROOF. The message engine (R140, R141, R233): what leaves its queue, and the answer that becomes due; with it, the obligation on spills,
restores, travel packets and timers. -/

namespace Sys2Proof.Proofs

open Sys2Proof Sys2Proof.Machine Sys2Proof.Claims Sys2Proof.Laws

/-! Kills that are delivered (R107, R125). -/

/-- A state that differs from another at most in its kills, its maps of cores, its lines, its cores and their threads, and the events that
are due. -/
def OnlyKills (s t : State) : Prop :=
  ∃ ki cm li k th ks ag, t = { s with kills := ki, coreMaps := cm, lines := li, core := k, th := th, cores := ks, agenda := ag }

namespace OnlyKills

variable {s t u : State}

theorem refl (s : State) : OnlyKills s s := ⟨_, _, _, _, _, _, _, rfl⟩

theorem trans (a : OnlyKills s t) (b : OnlyKills t u) : OnlyKills s u := by
  obtain ⟨_, _, _, _, _, _, _, rfl⟩ := a
  obtain ⟨_, _, _, _, _, _, _, rfl⟩ := b
  exact ⟨_, _, _, _, _, _, _, rfl⟩

theorem killReaches (s : State) (die line : Nat) : OnlyKills s (s.killReaches die line) := ⟨_, _, _, _, _, _, _, rfl⟩

theorem killAcked (s : State) (die line : Nat) : OnlyKills s (s.killAcked die line) := by
  unfold State.killAcked
  dsimp only
  split
  · rw [setLine_rest]
    exact ⟨_, _, _, _, _, _, _, rfl⟩
  · exact ⟨_, _, _, _, _, _, _, rfl⟩

theorem finishKills (s : State) (c : CoreId) (tid : Nat) : OnlyKills s (s.finishKills c tid) :=
  List.foldlRecOn _ _ (refl s) fun t ht k _ => ht.trans ((killReaches t k.die k.line).trans (killAcked _ k.die k.line))

theorem physByte (h : OnlyKills s t) (a : Nat) : t.physByte a = s.physByte a := by
  obtain ⟨_, _, _, _, _, _, _, rfl⟩ := h
  rfl

end OnlyKills

/-- A core drops what it derived from a line: its threads go on. -/
theorem tended_dropDerived (line : Nat) (k : Core) : Tended k (k.dropDerived line) := by
  refine ⟨rfl, fun i => ?_⟩
  rw [show (k.dropDerived line).slots[i] = _ from Vector.getElem_map _ _]
  exact .of_task rfl rfl

theorem Afar.killReaches (s : State) (die line : Nat) : Afar s (s.killReaches die line) := by
  have hdrop : ∀ cs : List CoreId, Afar s (s.mapCores fun c k => if cs.contains c then k.dropDerived line else k) := fun cs =>
    mapCores s _ fun c k => by
      split
      · exact tended_dropDerived line k
      · exact .refl k
  exact (hdrop _).trans (of_same rfl rfl fun _ => rfl)

theorem Afar.killAcked (s : State) (die line : Nat) : Afar s (s.killAcked die line) := by
  unfold State.killAcked
  dsimp only
  split
  · refine .trans ?_ (setLine _ _ _)
    exact of_same rfl rfl fun _ => rfl
  · exact of_same rfl rfl fun _ => rfl

theorem Afar.finishKills (s : State) (c : CoreId) (tid : Nat) : Afar s (s.finishKills c tid) := by
  have hone : ∀ (t : State) (k : Kill), Afar t ((t.killReaches k.die k.line).killAcked k.die k.line) := fun t k =>
    (killReaches t k.die k.line).trans (killAcked _ k.die k.line)
  unfold State.finishKills
  exact foldl _ hone _ s

/-! The head message leaves the queue. -/

/-- The head message has ended (R233). -/
def messageTaken (s : State) (c : CoreId) : State :=
  (((s.onCore c fun k => { k with msgq := k.msgq.drop 1 }).enterQueue c).retry waitsSaving).requeueHeld

/-- A state that differs from another at most in its cores, their threads and the events that are due. -/
def OnlyCoresDue (s t : State) : Prop :=
  ∃ k th ks ag hh, t = { s with core := k, th := th, cores := ks, agenda := ag, hostHeld := hh }

theorem enterQueue_of_none (s : State) (c : CoreId) (h : (s.getCore c).msgHeld = []) :
    s.enterQueue c = s ∨ s.enterQueue c = s.later (.messageEngineExecute c) := by
  unfold State.enterQueue
  simp only [h, List.isEmpty_nil, Bool.true_or, if_true]
  split
  · exact .inl rfl
  · exact .inr rfl

theorem getCore_retry_msgq (s : State) (p : Wait → Bool) (c : CoreId) : ((s.retry p).getCore c).msgq = (s.getCore c).msgq := by
  unfold State.retry State.mapThreads
  rw [getCore_mapCores]
  split
  · rfl
  · next h => rw [getCore_of_not_mem s c h]

/-- With no message that waits for the queue, the head leaves it and no other enters. -/
theorem messageTaken_effect (s : State) (c : CoreId) (h : (s.getCore c).msgHeld = []) :
    OnlyCoresDue s (messageTaken s c) ∧ ((messageTaken s c).getCore c).msgq = (s.getCore c).msgq.drop 1 := by
  have hcore := onlyCores_onCore s c fun k => { k with msgq := k.msgq.drop 1 }
  have hheld : ((s.onCore c fun k => { k with msgq := k.msgq.drop 1 }).getCore c).msgHeld = [] := by
    rw [getCore_onCore_same]
    exact h
  have hq : ((s.onCore c fun k => { k with msgq := k.msgq.drop 1 }).getCore c).msgq = (s.getCore c).msgq.drop 1 := by
    rw [getCore_onCore_same]
  unfold messageTaken
  revert hcore hheld hq
  generalize s.onCore c _ = u
  intro hcore hheld hq
  obtain ⟨_, _, _, rfl⟩ := hcore
  refine ⟨?_, ?_⟩
  · rcases enterQueue_of_none _ c hheld with he | he
    · rw [he]
      exact ⟨_, _, _, _, _, rfl⟩
    · rw [he]
      exact ⟨_, _, _, _, _, rfl⟩
  · rw [requeueHeld_getCore, getCore_retry_msgq]
    rcases enterQueue_of_none _ c hheld with he | he
    · rw [he, hq]
    · rw [he, later_getCore, hq]

theorem exec_messageEngine_hold (s : State) (c : CoreId) (e : MsgEntry) (rest : List MsgEntry) (hq : (s.getCore c).msgq = e :: rest)
    (h : s.outOfTurn e = true) :
    exec (.messageEngineExecute c) s = .next { s with hostHeld := s.hostHeld ++ [.messageEngineExecute c] } := by
  show Host.Outcome.next _ = _
  simp only [hq, h]
  rfl

theorem exec_messageEngine_done (s : State) (c : CoreId) (e f : MsgEntry) (rest : List MsgEntry) (u : State)
    (hq : (s.getCore c).msgq = e :: rest) (h : s.outOfTurn e = false) (hr : s.msgRun c e 5 = (none, f, u)) :
    exec (.messageEngineExecute c) s = .next ((messageTaken u c).courierDone c f) := by
  show Host.Outcome.next _ = _
  simp only [hq, h, hr]
  rfl

theorem exec_messageEngine_fail (s : State) (c : CoreId) (e f : MsgEntry) (rest : List MsgEntry) (u : State) (k : Byte)
    (hq : (s.getCore c).msgq = e :: rest) (h : s.outOfTurn e = false) (hr : s.msgRun c e 5 = (some (.fail k), f, u)) :
    exec (.messageEngineExecute c) s = .next ((messageTaken u c).courierFailed c f k) := by
  show Host.Outcome.next _ = _
  simp only [hq, h, hr]
  rfl

/-! The answers. -/

theorem mem_agenda_later (s : State) (i : Instr) : i ∈ (s.later i).agenda := by simp [State.later]

/-- The value of a message: that of m[RSEL], where m0 reads 0. -/
theorem msgReg_value (m : Vector Word 8) (ret : Bool) (r : BitVec 3) :
    (if ret = true ∧ r ≠ 0 then (m[r.toNat]?).getD 0 else 0) = if ret = true then msgReg m r.toNat else 0 := by
  unfold msgReg
  cases ret with
  | false => rfl
  | true =>
    by_cases h : r = 0
    · rw [h]
      rfl
    · have hn : r.toNat ≠ 0 := fun h0 => h (BitVec.eq_of_toNat_eq h0)
      rw [if_pos ⟨rfl, h⟩, if_pos rfl, if_neg hn]

/-- R233: a message that was performed is answered with its value. -/
theorem courierDone_effect (s : State) (c : CoreId) (f : MsgEntry) (haway : f.away = none) (hpkg : f.msg.spkg = s.pkgid) :
    ((s.courierDone c f).getCore c).msgq = (s.getCore c).msgq ∧
      .responseArrival (coreOf f.msg.ssock.toNat f.msg.score.toNat) (BitVec.ofNat 10 f.tag)
        ((if f.msg.ret then msgReg f.m f.msg.rsel.toNat else 0).setWidth 1024) ∈ (s.courierDone c f).agenda := by
  have hpkg' : f.msg.spkg = (s.finishKills c 0).pkgid := by
    obtain ⟨_, _, _, _, _, _, _, he⟩ := OnlyKills.finishKills s c 0
    rw [he]
    exact hpkg
  have hq := congrArg Prod.fst ((Afar.finishKills s c 0).core c).own
  have hx : s.courierDone c f = (s.finishKills c 0).later (.responseArrival (coreOf f.msg.ssock.toNat f.msg.score.toNat)
      (BitVec.ofNat 10 f.tag) ((if f.msg.ret then msgReg f.m f.msg.rsel.toNat else 0).setWidth 1024)) := by
    unfold State.courierDone
    simp only [haway, State.originOf, if_pos hpkg']
  rw [hx]
  exact ⟨hq, mem_agenda_later _ _⟩

/-- R140: a write that failed leaves a record for the thread that sent it. -/
theorem remoteFails_effect (s : State) (o : CoreId) (slot : Fin 8) (die : Nat) (k : Byte) (w : WriteMsg) (c : CoreId) :
    ((s.remoteFails o slot die k w).getCore c).msgq = (s.getCore c).msgq ∧
      ∃ x, .remoteFaultRecord o slot x ∈ (s.remoteFails o slot die k w).agenda ∧ x.cause = k ∧ x.write = w := by
  have hq := fun e => congrArg Prod.fst ((Afar.noticeIx s die e).core c).own
  exact ⟨hq _, _, mem_agenda_later _ _, rfl, rfl⟩

/-- R140, R141: a message that failed is answered with an error, or with the record of its write. -/
theorem courierFailed_effect (s : State) (c : CoreId) (f : MsgEntry) (k : Byte) (o : Outstanding) (haway : f.away = none)
    (hpkg : f.msg.spkg = s.pkgid)
    (ho : s.requestOf (coreOf f.msg.ssock.toNat f.msg.score.toNat) (BitVec.ofNat 10 f.tag) = some o) :
    let from' := coreOf f.msg.ssock.toNat f.msg.score.toNat
    ((s.courierFailed c f k).getCore c).msgq = (s.getCore c).msgq ∧
      (o.write = none → .errorResponseArrival from' (BitVec.ofNat 10 f.tag) k ∈ (s.courierFailed c f k).agenda) ∧
      ∀ w, o.write = some w →
        ∃ x i, .remoteFaultRecord from' i x ∈ (s.courierFailed c f k).agenda ∧ x.cause = k ∧ x.write = w := by
  have hx : s.courierFailed c f k = s.courierFails c (coreOf f.msg.ssock.toNat f.msg.score.toNat) (BitVec.ofNat 10 f.tag) k := by
    unfold State.courierFailed
    simp only [haway, State.originOf, if_pos hpkg]
  intro from'
  rw [hx]
  unfold State.courierFails
  simp only [ho]
  cases hw : o.write with
  | none => exact ⟨rfl, fun _ => mem_agenda_later _ _, nofun⟩
  | some w =>
    obtain ⟨hq, x, hm, hc, hxw⟩ := remoteFails_effect s from' (Fin.ofNat 8 ((s.getCore from').slotOfTid o.tid)) (sockOf c) k w c
    refine ⟨hq, nofun, fun v hv => ?_⟩
    obtain rfl := Option.some.inj hv
    exact ⟨x, _, hm, hc, hxw⟩

/-! The obligation. -/

/-- R146: a packet that returns: its thread is ready, and its access is performed remotely. -/
theorem travelReturn_effect (s : State) (c : CoreId) (sl : Fin 8) (h : (s.getThread c sl).status = .parked .travel) :
    ∃ t, exec (.travelPacketReturn c sl) s = .next t ∧
      t.getThread c sl = { s.getThread c sl with status := .ready, stay := some (s.getThread c sl).pc } ∧
      ∀ a, t.physByte a = s.physByte a := by
  have hx : exec (.travelPacketReturn c sl) s = .next (if (s.getThread c sl).status ≠ .parked .travel then s else
      ({ s with
        agenda := s.agenda.filter (!isArrival (packBits (s.getThread c sl).packet) ·)
        hostHeld := s.hostHeld.filter (!isArrival (packBits (s.getThread c sl).packet) ·)
        outstanding := s.outstanding.filter fun o => !(o.core == c && o.tid == (s.getThread c sl).order && o.n == 768)
        } : State).onSlot c sl Thread.stayHere) := rfl
  rw [if_neg (not_not.2 h)] at hx
  refine ⟨_, hx, ?_, fun a => physByte_onSlot _ _ _ _ a⟩
  rw [getThread_onSlot_same]
  exact if_pos h

/-- R146: a packet that finds a free slot starts there. -/
theorem exec_travelArrival_start (s : State) (die : Fin 16) (p : BitVec 6144) (lh : Nat) (k : CoreId) (sl : Fin 8) (v : Word)
    (hfree : s.freeOnDie die.val = some (k, sl)) (hv : (s.trapVector k ((packetWord p 36).setWidth 16)).1 = .value v) :
    exec (.travelPacketArrival die p lh) s =
      .next ((s.trapVector k ((packetWord p 36).setWidth 16)).2.arrive1 p lh k sl v) := by
  show Host.Outcome.next _ = _
  rcases hr : s.trapVector k ((packetWord p 36).setWidth 16) with ⟨x, u⟩
  rw [hr] at hv
  obtain rfl : x = .value v := hv
  simp only [hfree, hr]

theorem exec_travelArrival_wait (s : State) (die : Fin 16) (p : BitVec 6144) (lh : Nat) (h : s.freeOnDie die.val = none) :
    exec (.travelPacketArrival die p lh) s = .next { s with hostHeld := s.hostHeld ++ [.travelPacketArrival die p lh] } := by
  show Host.Outcome.next _ = _
  simp only [h]
  rfl

end Sys2Proof.Proofs
end

section
/-! PROOF. The obligation on travel packets, the message engine, spills, restores and timers. -/

namespace Sys2Proof.Proofs

open Sys2Proof Sys2Proof.Machine Sys2Proof.Claims Sys2Proof.Laws

/-- R146: the thread of a packet that has arrived holds what the packet says. -/
theorem travelArrival_effect (s : State) (die : Fin 16) (p : BitVec 6144) (lh : Nat) (k : CoreId) (sl : Fin 8) (v : Word)
    (hfree : s.freeOnDie die.val = some (k, sl)) (hv : (s.trapVector k ((packetWord p 36).setWidth 16)).1 = .value v) :
    ∃ t, exec (.travelPacketArrival die p lh) s = .next t ∧
      ∃ prio team tid, SameTask (packetThread p lh prio team tid v) (t.getThread k sl) := by
  refine ⟨_, exec_travelArrival_start s die p lh k sl v hfree hv, arrive1_thread _ p lh k sl v ?_⟩
  have hempty := freeOnDie_empty hfree
  have hkept := (afar_trapVector s k ((packetWord p 36).setWidth 16)).thread k sl (by rw [hempty]; rfl)
  exact hkept.1.trans hempty

/-- R205: a save that ends. -/
theorem spillComplete_effect (s : State) (c : CoreId) (sl : Fin 8) (j : Option Word) (hj : s.spillFor c sl = some j)
    (h : s.spillReady c sl = true) : ∃ t, exec (.spillComplete c sl) s = .next t ∧ (t.getThread c sl).status = .empty ∧
      (t.getCore c).saves = (s.getCore c).saves ++
        [{ thread := { s.getThread c sl with extents := [] }, joins := j, due := false }] ∧
      (j.isSome = true → t.agenda = .taskDispatch c :: s.agenda) ∧
      ∀ k i, ¬(k = c ∧ i = sl) → t.getThread k i = s.getThread k i := by
  obtain ⟨hslot, hother⟩ := getThread_of_slot_set (getCore_spillAway s c sl j) fun k => rfl
  refine ⟨_, exec_spillComplete_ready s c sl j hj h, by rw [hslot]; rfl, ?_, agenda_spillAway s c sl j, hother⟩
  rw [getCore_spillAway, getCore_onCore_same]
  rfl

/-- R205: a restore that ends. -/
theorem slotRestoreComplete_effect (s : State) (c : CoreId) (sl : Fin 8) (v : Saved) (hv : s.restoreNext c = some v)
    (h : (s.getThread c sl).status = .empty) (hr : v.thread.status = .ready) :
    ∃ t, exec (.slotRestoreComplete c sl) s = .next t ∧ (t.getThread c sl).status = .ready ∧
      (t.getThread c sl).pc = v.thread.pc ∧ (t.getThread c sl).regs = v.thread.regs ∧
      (t.getThread c sl).mode = v.thread.mode ∧ (t.getCore c).saves = (s.getCore c).saves.erase v ∧
      ∀ k i, ¬(k = c ∧ i = sl) → t.getThread k i = s.getThread k i := by
  have hx := exec_slotRestoreComplete s c sl v hv h
  rw [restoreInto_eq s c sl v hr] at hx
  obtain ⟨hslot, hother⟩ := getThread_of_slot_set (c := c) (sl := sl) (f := restoredTo (watchesDue (unowed s c v)) v sl)
    (t := (s.onCore c (restoredTo (watchesDue (unowed s c v)) v sl)).later (.slotRestore c)) (fun _ => rfl) fun k => rfl
  refine ⟨_, hx, ?_, ?_, ?_, ?_, ?_, hother⟩
  · rw [hslot]
    exact hr
  · rw [hslot]
    rfl
  · rw [hslot]
    rfl
  · rw [hslot]
    rfl
  · rw [later_getCore, getCore_onCore_same]
    rfl

/-- Settles O49: each event is followed to the thread, the queue or the save area that it writes; a packet's thread keeps what it is
through the dispatch unit's reads, which end no wait but one for a write. -/
theorem spillAndCourierEvents : Obligations.SpillAndCourierEvents := by
  intro s c sl die pkt lh th field
  refine ⟨exec_travelArrival_wait s die pkt lh, fun k slot v hfree hv => ?_, fun h => ?_,
    fun e rest => exec_messageEngine_hold s c e rest,
    fun e rest hq hturn hheld => ?_, fun p v hp hv => ⟨exec_slotSpill s c p v hp hv, youngest_mem_max hv⟩, exec_joinSpill s c sl,
    fun j hj => ⟨exec_spillComplete_hold s c sl j hj, spillComplete_effect s c sl j hj⟩,
    fun v i hc hoff hj hv hi hr => exec_slotRestore s c v i hc hoff hj hv hi hr, slotRestoreComplete_effect s c sl,
    fun l va h => ⟨_, exec_joinPoll s c sl, ?_, physByte_onSlot s c sl _⟩, fun h => ⟨_, exec_watchPoll s c sl, ?_⟩,
    fun d l h hl => ⟨_, exec_waitevTimeout s c sl d l h hl, ?_⟩⟩
  · obtain ⟨t, hx, prio, team, tid, hempty, htask⟩ := travelArrival_effect s die pkt lh k slot v hfree
      (by rw [packetWord_eq]; exact hv)
    refine ⟨t, hx, ?_⟩
    intro x
    simp only [taskOf, Prod.mk.injEq] at htask
    obtain ⟨hkind, hmode, hpc, hctx, hjoin, hxpc, hcause, hval, hvec, hallot, heng, hregs⟩ := htask
    have hword : ∀ i, packetWord pkt i = field i := packetWord_eq pkt
    refine ⟨hempty, hkind, hmode, hpc.trans (hword 35), hctx.trans (congrArg (BitVec.setWidth 16) (hword 36)), hjoin.trans (hword 37),
      hxpc.trans (hword 45), hcause.trans (hword 46), hval.trans (hword 47), hvec, hallot, fun i => ?_, fun i => ?_, fun i => ?_⟩
    · rw [heng]
      exact (Vector.getElem_ofFn _).trans (hword _)
    · rw [hregs]
      exact packetRegs_b pkt i
    · rw [hregs]
      exact packetRegs_rx pkt i
  · obtain ⟨t, hx, ht, hmem⟩ := travelReturn_effect s c sl h
    refine ⟨t, hx, ?_⟩
    rw [ht]
    exact ⟨rfl, rfl, rfl, rfl, hmem⟩
  · rcases hrun : s.msgRun c e 5 with ⟨x, f, u⟩
    rw [hrun] at hheld
    dsimp only
    obtain ⟨⟨k, th', ks, ag, hh, he⟩, hmsgq⟩ := messageTaken_effect u c hheld
    have hpkg : (messageTaken u c).pkgid = u.pkgid := by rw [he]
    have hreq : ∀ a b, (messageTaken u c).requestOf a b = u.requestOf a b := fun a b => by rw [he]; rfl
    refine ⟨fun g hx hg haway hspkg hmsg htag => ?_, fun cause g o hx hg haway hspkg hmsg htag ho => ?_⟩
    · subst hx hg
      obtain ⟨hq', hagenda⟩ := courierDone_effect (messageTaken u c) c g haway (hspkg.trans hpkg.symm)
      refine ⟨_, exec_messageEngine_done s c e g rest u hq hturn hrun, hq'.trans hmsgq, ?_⟩
      rw [msgReg_value, ← hmsg, ← htag]
      exact hagenda
    · subst hx hg
      rw [← hmsg, ← htag] at ho ⊢
      obtain ⟨hq', hfail, hrec⟩ := courierFailed_effect (messageTaken u c) c g cause o haway (hspkg.trans hpkg.symm)
        ((hreq _ _).trans ho)
      exact ⟨_, exec_messageEngine_fail s c e g rest u cause hq hturn hrun, hq'.trans hmsgq, hfail, hrec⟩
  · rw [getThread_onSlot_same]
    exact retryIf_of_parked th waitsJoin _ h rfl
  · rw [getThread_onSlot_same, checkWaitev_of_ready (polledThread th) h]
    refine ⟨rfl, fun i => ?_⟩
    rw [← polled_entry]
    exact Vector.getElem_map _ _
  · rw [getThread_onSlot_same]
    exact ⟨rfl, rfl, rfl, fun i => Vector.getElem_map _ _⟩

end Sys2Proof.Proofs
end

section
/-! PROOF. What an engine reads and translates in open memory (R126): its walks leave every line's state as it was, and a read gives the
current bytes. -/

namespace Sys2Proof.Proofs

open Sys2Proof Sys2Proof.Machine Sys2Proof.Claims Sys2Proof.Laws

/-! Walks. -/

/-- A die has become a watcher of lines: only caches and events differ, and no line changes its holder. -/
structure Watched (s t : State) : Prop extends Seen s t where
  states : ∀ l, (t.lineAt l).state = (s.lineAt l).state

namespace Watched

variable {s t u : State}

theorem refl (s : State) : Watched s s := ⟨.refl s, fun _ => rfl⟩

theorem trans (a : Watched s t) (b : Watched t u) : Watched s u :=
  ⟨a.toSeen.trans b.toSeen, fun l => (b.states l).trans (a.states l)⟩

theorem ite (c : Prop) [Decidable c] (h : Watched s t) (h' : Watched s u) : Watched s (if c then t else u) := by
  split
  · exact h
  · exact h'

theorem openMemory (h : Watched s t) (o : OpenMemory s) : OpenMemory t := open_seen o h.toSeen

theorem coherent (h : Watched s t) (l : Nat) (hc : Coherent s l) : Coherent t l := by
  unfold Coherent
  rw [h.states, h.toSeen.dirty]
  exact hc

theorem watchLine (s : State) (line : Nat) (c : CoreId) : Watched s (s.watchLine line c) := by
  refine ⟨seen_watchLine s line c, fun l => ?_⟩
  unfold State.watchLine State.watchFor
  refine Eq.trans (congrArg LineEntry.state (lineAt_setLine s line _ l)) ?_
  split
  · next h => rw [h, asked_eq]
  · rfl

/-- A walk in open memory is held up by nothing. -/
theorem walkFrom (c : CoreId) (va : Word) (n : Nat) : ∀ (s : State) (level table : Nat) (lines : List Nat), OpenMemory s →
    Watched s (s.walkFrom c va level table lines n).2 := by
  induction n with
  | zero => exact fun s _ _ _ _ => refl s
  | succ n ih =>
    intro s level table lines o
    have hentry := fun line => watchLine s line c
    have ix : (if level = 0 then bits va 53 42 else if level = 1 then bits va 41 29 else bits va 28 16) = walkIx va level := rfl
    simp only [State.walkFrom, ix, open_blocked o, State.walkEntry, open_poisonedIn ((hentry _).openMemory o), Bool.false_eq_true, if_false]
    generalize table + 8 * walkIx va level = pa
    generalize s.physRead pa 8 = e
    have hread := hentry (lineOf pa)
    split
    · exact refl s
    · split
      · exact hread
      · split
        · exact hread
        · split
          · exact hread.trans (ite _ (watchLine _ _ c) (refl _))
          · exact hread.trans (ih (s.watchLine (lineOf pa) c) _ _ _ (hread.openMemory o))

theorem walk {s : State} (o : OpenMemory s) (c : CoreId) (ctx : BitVec 16) (va : Word) : Watched s (s.walk c ctx va).2 := by
  unfold State.walk
  rw [open_ctxReady o]
  dsimp only
  split
  · exact refl s
  · exact walkFrom c va 3 s _ _ _ o

/-- A translation of an engine, which keeps none (R126). -/
theorem xlate {s : State} (o : OpenMemory s) (a : Asid) (ha : a.thread = false) (va : Word) (n : Nat) (k : Access) :
    Watched s (s.xlate a va n k).2 := by
  have hw := walk o a.core a.ctx va
  simp only [State.xlate, State.lookup, ha, Bool.not_false, if_true]
  split
  · exact refl s
  · revert hw
    generalize s.walk a.core a.ctx va = r
    obtain ⟨x, u⟩ := r
    intro hw
    cases x with
    | error f => exact hw
    | ok l =>
      dsimp only
      split
      · exact hw
      · exact hw

theorem xlateSpan {s : State} (o : OpenMemory s) (a : Asid) (ha : a.thread = false) (va : Word) (n : Nat) (k : Access) :
    Watched s (s.xlateSpan a va n k).2 := by
  have hx := fun m => xlate o a ha va m k
  unfold State.xlateSpan
  dsimp only
  split
  · have h := hx n
    revert h
    generalize s.xlate a va n k = r
    obtain ⟨x, u⟩ := r
    intro h
    cases x with
    | error f => exact h
    | ok p => exact h
  · have h := hx (65536 - va.toNat % 65536)
    revert h
    generalize s.xlate a va (65536 - va.toNat % 65536) k = r
    obtain ⟨x, u⟩ := r
    intro h
    cases x with
    | error f => exact h
    | ok p =>
      have h' := h.trans (xlate (h.openMemory o) a ha (va + w64 (65536 - va.toNat % 65536)) (n - (65536 - va.toNat % 65536)) k)
      revert h'
      dsimp only
      generalize u.xlate a (va + w64 (65536 - va.toNat % 65536)) (n - (65536 - va.toNat % 65536)) k = r
      obtain ⟨y, v⟩ := r
      intro h'
      cases y with
      | error f => exact h'
      | ok q => exact h'

end Watched

/-! Reads. -/

/-- Without tiles no core has a replica. -/
theorem byteFor_open {s : State} (o : OpenMemory s) (c : CoreId) : s.byteFor c = s.physByte := by
  funext a
  simp [State.byteFor, State.replicaSector, open_tileOver o]

/-- An engine's read of device memory. -/
theorem serveRead_engine {s : State} (o : OpenMemory s) (c : CoreId) (pa n tid : Nat) :
    ∃ t, s.serveRead c pa n false tid = (.done (leRead s.physByte pa n), t) ∧ Seen s t := by
  simp only [State.serveRead, open_lostAt o, open_blocked o, open_poisonedIn o, Bool.or_self, Bool.false_eq_true, if_false, byteFor_open o]
  exact ⟨_, rfl, (seen_frameTake s pa n false).trans (seen_linesForRead c false pa n (linesOf pa n) _)⟩

theorem isDevMem_cases {s : State} {pa : Nat} (h : s.isDevMem pa = true) :
    s.isLocal pa = true ∧ (regionOf pa = .lpddr ∨ regionOf pa = .near) := by
  simpa only [State.isDevMem, Bool.and_eq_true, Bool.or_eq_true, beq_iff_eq] using h

theorem Seen.isDevMem {s t : State} (h : Seen s t) (pa : Nat) : t.isDevMem pa = s.isDevMem pa := by
  simp only [State.isDevMem, State.isLocal, h.pkgid]

/-- An engine's load of one piece of device memory gives the current bytes (R126). -/
theorem engLoad_value {s : State} (o : OpenMemory s) (a : Asid) (ha : a.thread = false) (id : Nat) (va : Word) (n : Nat) (p : Phys)
    (hx : (s.xlateSpan a va n .load).1 = .ok [(p, n)]) (hd : s.isDevMem p.pa = true) :
    ∃ t, s.engLoad a id va n = (.value (leRead s.physByte p.pa n), t) ∧ Seen s t := by
  have hw := Watched.xlateSpan o a ha va n .load
  unfold State.engLoad
  revert hx hw
  generalize s.xlateSpan a va n .load = r
  obtain ⟨x, u⟩ := r
  intro hx hw
  obtain rfl : x = .ok [(p, n)] := hx
  have hb : u.physByte = s.physByte := funext fun b => hw.toSeen.physByte b
  obtain ⟨t, hread, hs⟩ := serveRead_engine (hw.openMemory o) a.core p.pa n id
  obtain ⟨hlocal, hregion⟩ := isDevMem_cases ((hw.toSeen.isDevMem p.pa).trans hd)
  have hpiece : u.engPiece a.core id va p n = (.value (leRead s.physByte p.pa n), t) := by
    unfold State.engPiece
    rw [hlocal]
    rcases hregion with h | h
    · simp only [h, hread, Served.loaded, hb, Bool.not_true, Bool.false_eq_true, if_false]
    · simp only [h, hread, Served.loaded, hb, Bool.not_true, Bool.false_eq_true, if_false]
  refine ⟨t, ?_, hw.toSeen.trans hs⟩
  simp only [State.engPieces, hpiece, Nat.mul_zero, Nat.add_zero]

/-- A translation that fails fails an engine's access. -/
theorem engLoad_fail (s : State) (a : Asid) (id : Nat) (va : Word) (n : Nat) (f : XFault) (hx : (s.xlateSpan a va n .load).1 = .error f)
    (hf : f.wait = none) : s.engLoad a id va n = (.fail f va 0, (s.xlateSpan a va n .load).2) := by
  unfold State.engLoad
  revert hx
  generalize s.xlateSpan a va n .load = r
  obtain ⟨x, u⟩ := r
  intro hx
  obtain rfl : x = .error f := hx
  simp only [engFault, hf]

theorem engStore_fail (s : State) (a : Asid) (id tid : Nat) (pc va : Word) (n v : Nat) (f : XFault)
    (hx : (s.xlateSpan a va n .store).1 = .error f) (hf : f.wait = none) :
    s.engStore a id tid pc va n v = (.fail f va 0, (s.xlateSpan a va n .store).2) := by
  unfold State.engStore
  revert hx
  generalize s.xlateSpan a va n .store = r
  obtain ⟨x, u⟩ := r
  intro hx
  obtain rfl : x = .error f := hx
  simp only [engFault, hf]

/-! Writes. -/

theorem Wrote.append {s t u : State} {pa m n v : Nat} (a : Wrote s t pa m v) (b : Wrote t u (pa + m) n (v / 256 ^ m)) :
    Wrote s u pa (m + n) v := by
  refine ⟨fun i hi => ?_, fun c hc => ?_⟩
  · by_cases h : i < m
    · exact (b.outside _ (by omega)).trans (a.inside i h)
    · obtain ⟨j, rfl⟩ : ∃ j, i = m + j := ⟨i - m, by omega⟩
      rw [← Nat.add_assoc, b.inside j (by omega), Nat.div_div_eq_div_mul, ← Nat.pow_add]
  · exact (b.outside c (by omega)).trans (a.outside c (by omega))

/-- A value is written as its low bytes are. -/
theorem Wrote.of_mod {s t : State} {pa n v : Nat} (h : Wrote s t pa n (v % 256 ^ n)) : Wrote s t pa n v := by
  refine ⟨fun i hi => ?_, h.outside⟩
  rw [h.inside i hi]
  apply BitVec.eq_of_toNat_eq
  rw [BitVec.toNat_ofNat, BitVec.toNat_ofNat]
  have hn : 256 ^ n = 256 ^ i * 256 ^ (n - i) := by rw [← Nat.pow_add]; congr 1; omega
  have hd : 256 ∣ 256 ^ (n - i) := dvd_pow_self 256 (by omega)
  rw [hn, Nat.mod_mul_right_div_self]
  exact Nat.mod_mod_of_dvd _ hd

/-- A line of some bytes is that of one of them. -/
theorem exists_of_mem_linesOf {pa n l : Nat} (hn : 0 < n) (h : l ∈ linesOf pa n) : ∃ i < n, l = (pa + i) / 128 := by
  have hends : l = pa / 128 ∨ l = (pa + n - 1) / 128 := by
    unfold linesOf lineOf at h
    split at h
    · exact .inl (List.mem_singleton.1 h)
    · simpa using h
  rcases hends with rfl | rfl
  · exact ⟨0, hn, rfl⟩
  · exact ⟨n - 1, by omega, by congr 1; omega⟩

/-- An engine's write of device memory, sector by sector. -/
theorem engSectors_effect (c : CoreId) (id : Nat) (ctx : BitVec 16) (fuel : Nat) : ∀ (s : State) (pa n v : Nat), OpenMemory s →
    s.mem.wf = true → (n ≠ 0 → pa % 16 + n ≤ 16 * fuel) → (∀ i < n, Coherent s ((pa + i) / 128)) →
    ∃ t, s.engSectors c id ctx pa n v fuel = (.done (), t) ∧ Wrote s t pa n v ∧ Afar s t := by
  induction fuel with
  | zero =>
    intro s pa n v _ _ hn _
    obtain rfl : n = 0 := by omega
    exact ⟨s, rfl, ⟨fun i hi => absurd hi (by omega), fun _ _ => rfl⟩, .refl s⟩
  | succ fuel ih =>
    intro s pa n v o hwf hn hc
    by_cases h0 : n = 0
    · subst h0
      exact ⟨s, by simp [State.engSectors], ⟨fun i hi => absurd hi (by omega), fun _ _ => rfl⟩, .refl s⟩
    · obtain ⟨m, hm⟩ : ∃ m, m = min n (16 - pa % 16) := ⟨_, rfl⟩
      have hpos : 0 < m := by omega
      have hlines : ∀ l ∈ linesOf pa m, Coherent s l := fun l hl => by
        obtain ⟨i, hi, rfl⟩ := exists_of_mem_linesOf hpos hl
        exact hc i (by omega)
      obtain ⟨u, hu, hwork, hwrote⟩ := serialise_effect o hwf ⟨c, engTid id, ctx, false⟩ pa m (v % 256 ^ m) hpos (by omega) hlines
      have hfar := Afar.serialise s ⟨c, engTid id, ctx, false⟩ pa m (v % 256 ^ m)
      rw [hu] at hfar
      obtain ⟨t, ht, hwrote', hfar'⟩ := ih u (pa + m) (n - m) (v / 256 ^ m) (hwork.openMemory o) hwork.plain.wf (by omega)
        fun i hi => hwork.coherent _ (by rw [Nat.add_assoc]; exact hc _ (by omega))
      have hsum : m + (n - m) = n := by omega
      refine ⟨t, ?_, ?_, hfar.trans hfar'⟩
      · simp only [State.engSectors, if_neg h0, ← hm, State.engSector, open_tileOver o, hu, ht]
      · have hall := hwrote.of_mod.append hwrote'
        rwa [hsum] at hall

end Sys2Proof.Proofs
end

section
/-! PROOF. Scratchpads that an engine writes (R214, R225): what a write leaves in the cores, and what is read there afterwards. -/

namespace Sys2Proof.Proofs

open Sys2Proof Sys2Proof.Machine Sys2Proof.Claims Sys2Proof.Laws

/-! Bytes of a scratchpad. -/

/-- The low `n` bytes of `v` stand from `o`, and every other byte is as it was. -/
structure Stored (m m' : Memory) (o n v : Nat) : Prop where
  inside : ∀ i < n, memByte m' (o + i) = BitVec.ofNat 8 (v / 256 ^ i)
  outside : ∀ b, b < o ∨ o + n ≤ b → memByte m' b = memByte m b

namespace Stored

variable {m m' m'' : Memory} {o n v : Nat}

theorem memWrite (h : m.wf = true) (o n v : Nat) : Stored m (Machine.memWrite m o n v) o n v :=
  ⟨fun i hi => memByte_memWrite_in m o n v i h hi, fun b hb => memByte_memWrite_out m o n v b hb⟩

theorem again (a : Stored m m' o n v) (b : Stored m' m'' o n v) : Stored m m'' o n v :=
  ⟨b.inside, fun c hc => (b.outside c hc).trans (a.outside c hc)⟩

theorem read (h : Stored m m' o n v) : memRead m' o n = v % 256 ^ n := leRead_of_bytes _ n o v h.inside

theorem read_apart (h : Stored m m' o n v) {o' n' : Nat} (ha : o' + n' ≤ o ∨ o + n ≤ o') : memRead m' o' n' = memRead m o' n' :=
  leRead_congr_on n' o' fun i hi => h.outside _ (by omega)

end Stored

/-! The scratchpad of a team in its core. -/

/-- The scratchpad of a team of a core, or a command core's pool. -/
def poolIn (cmd : Bool) (k : Core) (team : Nat) : Memory :=
  if cmd = true then k.pool else ((k.teams.find? fun t => t.id == team).map (·.pool)).getD []

/-- A scratchpad that an engine may write, told of its core alone. -/
def ReadyIn (cmd : Bool) (k : Core) (team : Nat) : Prop :=
  if cmd = true then k.pool.wf = true
  else (∃ t, (k.teams.find? fun t => t.id == team) = some t ∧ t.pool.wf = true) ∧
    ∀ x ∈ k.teams, x.id = team → x.ckpt.isOpen = false

/-- A core whose scratchpad is written, with no undo log. -/
def filled (cmd : Bool) (team o n v : Nat) (k : Core) : Core :=
  if cmd = true then { k with pool := memWrite k.pool o n v } else k.onTeam team fun t => t.poolWrite o n v

/-- A team without its scratchpad. -/
def teamShape (t : Team) : Team := { t with pool := [] }

/-- What a copy finds in a core besides scratchpads. -/
structure Kept (k k' : Core) : Prop where
  copies : k'.copies = k.copies
  rings : k'.rings = k.rings
  teams : k'.teams.map teamShape = k.teams.map teamShape

theorem Kept.refl (k : Core) : Kept k k := ⟨rfl, rfl, rfl⟩

theorem Kept.trans {k l m : Core} (a : Kept k l) (b : Kept l m) : Kept k m :=
  ⟨b.copies.trans a.copies, b.rings.trans a.rings, b.teams.trans a.teams⟩

section
variable {cmd : Bool} {k : Core} {team : Nat}

theorem ReadyIn.wf (h : ReadyIn cmd k team) : (poolIn cmd k team).wf = true := by
  cases cmd with
  | true => exact h
  | false =>
    obtain ⟨⟨t, ht, hwf⟩, -⟩ := h
    have hp : poolIn false k team = t.pool := by simp [poolIn, ht]
    rw [hp]
    exact hwf

/-- A write changes a team's scratchpad only, while its checkpoint is closed. -/
theorem poolWrite_of_closed (t : Team) (o n v : Nat) (h : t.ckpt.isOpen = false) :
    t.poolWrite o n v = { t with pool := memWrite t.pool o n v } := by
  simp [Team.poolWrite, h]

/-- A team of the written core is looked up as before. -/
theorem find_filled (k : Core) (team team' o n v : Nat) :
    ((filled false team o n v k).teams.find? fun t => t.id == team') =
      (k.teams.find? fun t => t.id == team').map fun t => if t.id == team then t.poolWrite o n v else t := by
  have hid : ∀ t : Team, (if t.id == team then t.poolWrite o n v else t).id = t.id := fun t => by
    split
    · rfl
    · rfl
  show (List.map _ k.teams).find? _ = _
  rw [List.find?_map]
  congr 1
  refine congrArg (fun p => k.teams.find? p) (funext fun t => ?_)
  simp only [Function.comp, hid]

theorem poolIn_filled_same (h : ReadyIn cmd k team) (o n v : Nat) :
    poolIn cmd (filled cmd team o n v k) team = memWrite (poolIn cmd k team) o n v := by
  cases cmd with
  | true => rfl
  | false =>
    obtain ⟨⟨t, ht, -⟩, -⟩ := h
    have hid : t.id = team := by simpa using List.find?_some ht
    simp [poolIn, find_filled, ht, hid, Team.poolWrite]

/-- Another team's scratchpad is as it was, or is the same one. -/
theorem poolIn_filled {team' : Nat} (h : ReadyIn cmd k team') (team o n v : Nat) :
    poolIn cmd (filled cmd team o n v k) team' = poolIn cmd k team' ∨
      poolIn cmd (filled cmd team o n v k) team' = memWrite (poolIn cmd k team') o n v := by
  cases cmd with
  | true => exact .inr rfl
  | false =>
    obtain ⟨⟨t, ht, -⟩, -⟩ := h
    by_cases hid : t.id = team
    · exact .inr (by simp [poolIn, find_filled, ht, hid, Team.poolWrite])
    · exact .inl (by simp [poolIn, find_filled, ht, hid])

theorem readyIn_filled {team' : Nat} (h : ReadyIn cmd k team') (team o n v : Nat) :
    ReadyIn cmd (filled cmd team o n v k) team' := by
  have hwf : (poolIn cmd (filled cmd team o n v k) team').wf = true := by
    rcases poolIn_filled h team o n v with he | he
    · rw [he]
      exact h.wf
    · rw [he]
      exact wf_memWrite _ _ _ _ h.wf
  cases cmd with
  | true => exact hwf
  | false =>
    obtain ⟨⟨t, ht, -⟩, hclosed⟩ := h
    refine ⟨⟨_, by rw [find_filled, ht]; rfl, ?_⟩, fun x hx hid => ?_⟩
    · simpa [poolIn, find_filled, ht] using hwf
    · obtain ⟨y, hy, rfl⟩ := List.mem_map.1 hx
      have hsame : (if y.id == team then y.poolWrite o n v else y).id = y.id := by
        split
        · rfl
        · rfl
      have hyclosed := hclosed y hy (hsame.symm.trans hid)
      split
      · exact (congrArg (fun t : Team => t.ckpt.isOpen) (poolWrite_of_closed y o n v hyclosed)).trans hyclosed
      · exact hyclosed

theorem kept_filled (h : ReadyIn cmd k team) (o n v : Nat) : Kept k (filled cmd team o n v k) := by
  cases cmd with
  | true => exact ⟨rfl, rfl, rfl⟩
  | false =>
    refine ⟨rfl, rfl, ?_⟩
    show (List.map _ k.teams).map teamShape = _
    rw [List.map_map]
    refine List.map_congr_left fun t ht => ?_
    simp only [Function.comp]
    split
    · next hid => rw [poolWrite_of_closed _ _ _ _ (h.2 t ht (eq_of_beq hid))]; rfl
    · rfl

end

/-! The scratchpads of a state. -/

/-- The scratchpad of a team of any core, or a command core's pool. -/
def poolOf (s : State) (d : CoreId) (team : Nat) : Memory := poolIn (isCmd d) (s.getCore d) team

theorem poolReady_iff (s : State) (d : CoreId) (team : Nat) : PoolReady s d team ↔ ReadyIn (isCmd d) (s.getCore d) team := Iff.rfl

theorem poolReadOf_eq {s : State} {d : CoreId} {team : Nat} (h : PoolReady s d team) (o n : Nat) :
    s.poolReadOf d team o n = memRead (poolOf s d team) o n := by
  unfold PoolReady at h
  unfold State.poolReadOf poolOf poolIn
  split
  · rfl
  · next hc =>
    rw [if_neg hc] at h
    obtain ⟨⟨t, ht, -⟩, -⟩ := h
    unfold State.teamAt at ht ⊢
    rw [ht]
    rfl

/-- A scratchpad whose checkpoint is not open takes a write and seals nothing (R142, R143). -/
theorem poolWriteOf_eq {s : State} {d : CoreId} {team : Nat} (h : PoolReady s d team) (o n v : Nat) :
    s.poolWriteOf d team o n v = s.onCore d (filled (isCmd d) team o n v) := by
  unfold PoolReady at h
  unfold State.poolWriteOf
  split
  · next hc =>
    rw [hc]
    rfl
  · next hc =>
    rw [if_neg hc] at h
    obtain ⟨-, hclosed⟩ := h
    have hroom : ((s.getCore d).teams.any fun t => t.id == team && t.ckpt.isOpen &&
        decide (Config.undoBytes < { t.ckpt with undo := t.ckpt.undo ++ t.newUndo o n : Checkpoint }.undoBytes)) = false := by
      rw [List.any_eq_false]
      intro t ht
      by_cases hid : t.id = team
      · simp [hclosed t ht hid]
      · simp [hid]
    rw [Bool.not_eq_true] at hc
    rw [hc]
    dsimp only
    rw [hroom]
    rfl

/-! What a copy finds of its receivers (R231). -/

/-- A team is found as before, but for its scratchpad. -/
theorem teamAt_of_kept {s u : State} (h : ∀ d, Kept (s.getCore d) (u.getCore d)) (d : CoreId) (id : Nat) :
    (u.teamAt d id).map teamShape = (s.teamAt d id).map teamShape := by
  have hfind : ∀ ts : List Team, (ts.find? fun t => t.id == id).map teamShape = (ts.map teamShape).find? fun t => t.id == id :=
    fun ts => by
      rw [List.find?_map]
      rfl
  unfold State.teamAt
  rw [hfind, hfind, (h d).teams]

/-- A copy has the same receivers. -/
theorem receivers_of_kept {s u : State} (h : ∀ d, Kept (s.getCore d) (u.getCore d)) (core : CoreId) (c : Copy) :
    u.receivers core c = s.receivers core c := by
  have hfind : ∀ (ts : List Team) (lh : Nat) (task : BitVec 32) (d : CoreId),
      ((ts.find? fun t => t.lh == lh && t.task == task && t.kind == .gang).map fun t => (d, t.id)) =
        (((ts.map teamShape).find? fun t => t.lh == lh && t.task == task && t.kind == .gang).map fun t => (d, t.id)) :=
    fun ts lh task d => by
      rw [List.find?_map, Option.map_map]
      rfl
  have hgangs := fun lh task d => (hfind (u.getCore d).teams lh task d).trans
    (((congrArg (fun ts : List Team => (ts.find? fun t => t.lh == lh && t.task == task && t.kind == .gang).map fun t => (d, t.id))
      (h d).teams)).trans (hfind (s.getCore d).teams lh task d).symm)
  have hteam := teamAt_of_kept h core c.team
  unfold State.receivers State.ringAt
  rw [(h core).rings]
  revert hteam
  generalize s.teamAt core c.team = x
  generalize u.teamAt core c.team = y
  intro hteam
  cases x with
  | none =>
    rw [Option.map_none, Option.map_eq_none_iff] at hteam
    rw [hteam]
  | some tm =>
    rw [Option.map_some, Option.map_eq_some_iff] at hteam
    obtain ⟨tm', rfl, hshape⟩ := hteam
    have hkind : tm'.kind = tm.kind := show (teamShape tm').kind = (teamShape tm).kind from congrArg Team.kind hshape
    have hgang : tm'.gang = tm.gang := show (teamShape tm').gang = (teamShape tm).gang from congrArg Team.gang hshape
    have hlh : tm'.lh = tm.lh := show (teamShape tm').lh = (teamShape tm).lh from congrArg Team.lh hshape
    have htask : tm'.task = tm.task := show (teamShape tm').task = (teamShape tm).task from congrArg Team.task hshape
    simp only [hkind, hgang, hlh, htask, hgangs]

theorem missing_of_kept {s u : State} (h : ∀ d, Kept (s.getCore d) (u.getCore d)) (core : CoreId) (c : Copy) :
    u.missing core c = s.missing core c := by
  have hteam := teamAt_of_kept h core c.team
  unfold State.missing
  rw [receivers_of_kept h]
  revert hteam
  generalize s.teamAt core c.team = x
  generalize u.teamAt core c.team = y
  intro hteam
  cases x with
  | none =>
    rw [Option.map_none, Option.map_eq_none_iff] at hteam
    rw [hteam]
  | some tm =>
    rw [Option.map_some, Option.map_eq_some_iff] at hteam
    obtain ⟨tm', rfl, hshape⟩ := hteam
    have hkind : tm'.kind = tm.kind := show (teamShape tm').kind = (teamShape tm).kind from congrArg Team.kind hshape
    cases c.kind with
    | cpym mask => simp only [hkind]
    | _ => rfl

/-! A run of writes. -/

/-- What an engine's copying leaves of a state: the bytes of memory, and of each core all but its scratchpads and caches. -/
structure Filling (s u : State) : Prop where
  aside : EngineAside s u
  core : ∀ d, Kept (s.getCore d) (u.getCore d)

theorem aside_refl (s : State) : EngineAside s s := ⟨rfl, fun _ => rfl, id⟩

theorem aside_trans {s t u : State} (a : EngineAside s t) (b : EngineAside t u) : EngineAside s u :=
  ⟨by rw [b.1, a.1], fun h => (b.2.1 h).trans (a.2.1 h), fun h => b.2.2 (a.2.2 h)⟩

theorem aside_of_seen {s t : State} (h : Seen s t) : EngineAside s t := ⟨by rw [h.rest], h.host, h.whole⟩

theorem aside_of_onlyCores {s t : State} (h : OnlyCores s t) : EngineAside s t := by
  obtain ⟨_, _, _, rfl⟩ := h
  exact ⟨rfl, fun _ => rfl, id⟩

namespace Filling

variable {s t u : State}

theorem refl (s : State) : Filling s s := ⟨aside_refl s, fun _ => .refl _⟩

theorem trans (a : Filling s t) (b : Filling t u) : Filling s u := ⟨aside_trans a.aside b.aside, fun d => (a.core d).trans (b.core d)⟩

theorem of_seen (h : Seen s t) (hf : Afar s t) : Filling s t := by
  refine ⟨aside_of_seen h, fun d => ?_⟩
  have hown := (hf.core d).own
  simp only [ownOf, Prod.mk.injEq] at hown
  obtain ⟨-, hcopies, hrings, hteams, -⟩ := hown
  exact ⟨hcopies, hrings, by rw [hteams]⟩

theorem poolWriteOf {d : CoreId} {team : Nat} (h : PoolReady s d team) (o n v : Nat) : Filling s (s.poolWriteOf d team o n v) := by
  rw [poolWriteOf_eq h]
  refine ⟨aside_of_onlyCores (onlyCores_onCore s d _), fun e => ?_⟩
  rw [getCore_onCore]
  split
  · next he =>
    subst he
    exact kept_filled h o n v
  · exact .refl _

theorem receivers (h : Filling s u) (core : CoreId) (c : Copy) : u.receivers core c = s.receivers core c := receivers_of_kept h.core core c

theorem missing (h : Filling s u) (core : CoreId) (c : Copy) : u.missing core c = s.missing core c := missing_of_kept h.core core c

/-- A copy's elements have the same places in the scratchpads. -/
theorem poolOffset (h : Filling s u) (core : CoreId) (c : Copy) (i : Nat) : u.poolOffset core c i = s.poolOffset core c i := by
  have hring : ∀ d n, u.ringAt d n = s.ringAt d n := fun d n => by
    unfold State.ringAt
    rw [(h.core d).rings]
  simp only [State.poolOffset, State.targetRing, hring]

theorem copyAt (h : Filling s u) (core : CoreId) (id : Nat) : u.copyAt core id = s.copyAt core id := by
  unfold State.copyAt
  rw [(h.core core).copies]

end Filling

end Sys2Proof.Proofs
end

section
/-! PROOF. A copy from memory into scratchpads (R126, R229): its elements move one after the other, each to every receiver. -/

namespace Sys2Proof.Proofs

open Sys2Proof Sys2Proof.Machine Sys2Proof.Claims Sys2Proof.Laws

/-! An element written to its receivers. -/

/-- A scratchpad that is as it was, or holds the bytes. -/
def Patched (m m' : Memory) (o n v : Nat) : Prop := m' = m ∨ Stored m m' o n v

theorem Patched.trans {m m' m'' : Memory} {o n v : Nat} (a : Patched m m' o n v) (b : Patched m' m'' o n v) : Patched m m'' o n v := by
  rcases a with rfl | a
  · exact b
  · rcases b with rfl | b
    · exact .inr a
    · exact .inr (a.again b)

theorem Stored.patched {m m' m'' : Memory} {o n v : Nat} (a : Stored m m' o n v) (b : Patched m' m'' o n v) : Stored m m'' o n v := by
  rcases b with rfl | b
  · exact a
  · exact a.again b

theorem Patched.stored {m m' m'' : Memory} {o n v : Nat} (a : Patched m m' o n v) (b : Stored m' m'' o n v) : Stored m m'' o n v := by
  rcases a with rfl | a
  · exact b
  · exact a.again b

/-- Every scratchpad that an engine may write is as it was, or holds the bytes; those of the receivers hold them. -/
structure Put (s t : State) (rs : List (CoreId × Nat)) (o n v : Nat) : Prop where
  filling : Filling s t
  ready : ∀ d team, PoolReady s d team → PoolReady t d team
  pools : ∀ d team, PoolReady s d team → Patched (poolOf s d team) (poolOf t d team) o n v
  stored : ∀ p ∈ rs, Stored (poolOf s p.1 p.2) (poolOf t p.1 p.2) o n v

/-- One scratchpad written. -/
theorem put_poolWriteOf {s : State} {d : CoreId} {team : Nat} (h : PoolReady s d team) (o n v : Nat) :
    Put s (s.poolWriteOf d team o n v) [(d, team)] o n v := by
  have heq := poolWriteOf_eq h o n v
  refine ⟨.poolWriteOf h o n v, fun e team' he => ?_, fun e team' he => ?_, fun p hp => ?_⟩
  · rw [poolReady_iff, heq, getCore_onCore]
    split
    · next hd =>
      subst hd
      exact readyIn_filled he team o n v
    · exact he
  · unfold poolOf
    rw [heq, getCore_onCore]
    split
    · next hd =>
      subst hd
      exact (poolIn_filled he team o n v).imp id fun hp => by
        rw [hp]
        exact .memWrite ((poolReady_iff s _ team').1 he).wf o n v
    · exact .inl rfl
  · obtain rfl := List.mem_singleton.1 hp
    unfold poolOf
    rw [heq, getCore_onCore_same, poolIn_filled_same h]
    exact .memWrite ((poolReady_iff s d team).1 h).wf o n v

/-- The receivers of an element, one after the other. -/
theorem put_receivers (o n v : Nat) (rs : List (CoreId × Nat)) : ∀ s : State, (∀ p ∈ rs, PoolReady s p.1 p.2) →
    Put s (rs.foldl (fun s p => s.poolWriteOf p.1 p.2 o n v) s) rs o n v := by
  induction rs with
  | nil => exact fun s _ => ⟨.refl s, fun _ _ h => h, fun _ _ _ => .inl rfl, nofun⟩
  | cons p rs ih =>
    intro s h
    have hone := put_poolWriteOf (h p List.mem_cons_self) o n v
    have hrest := ih _ fun q hq => hone.ready _ _ (h q (List.mem_cons_of_mem p hq))
    rw [List.foldl_cons]
    refine ⟨hone.filling.trans hrest.filling, fun d team hd => hrest.ready d team (hone.ready d team hd),
      fun d team hd => (hone.pools d team hd).trans (hrest.pools d team (hone.ready d team hd)), fun q hq => ?_⟩
    rcases List.mem_cons.1 hq with rfl | hq'
    · exact (hone.stored q (List.mem_singleton.2 rfl)).patched (hrest.pools _ _ (hone.ready _ _ (h q hq)))
    · exact (hone.pools _ _ (h q hq)).stored (hrest.stored q hq')

/-- What an engine reads leaves every scratchpad. -/
theorem poolOf_afar {s t : State} (h : Afar s t) (d : CoreId) (team : Nat) :
    poolOf t d team = poolOf s d team ∧ (PoolReady s d team → PoolReady t d team) := by
  have hown := (h.core d).own
  simp only [ownOf, Prod.mk.injEq] at hown
  obtain ⟨-, -, -, hteams, hpool⟩ := hown
  unfold poolOf poolIn
  rw [poolReady_iff, poolReady_iff]
  unfold ReadyIn
  rw [hteams, hpool]
  exact ⟨rfl, id⟩

theorem Put.after {s t u : State} {rs : List (CoreId × Nat)} {o n v : Nat} (hs : Seen s t) (hf : Afar s t) (h : Put t u rs o n v) :
    Put s u rs o n v := by
  refine ⟨(Filling.of_seen hs hf).trans h.filling, fun d team hd => h.ready d team ((poolOf_afar hf d team).2 hd),
    fun d team hd => ?_, fun p hp => ?_⟩
  · rw [← (poolOf_afar hf d team).1]
    exact h.pools d team ((poolOf_afar hf d team).2 hd)
  · rw [← (poolOf_afar hf p.1 p.2).1]
    exact h.stored p hp

/-! One element. -/

/-- The value of an element of a copy from memory that lies at `pa`, or the fill value (R229). -/
def elemValue (s : State) (c : Copy) (pa i : Nat) : Nat :=
  if c.target i = none then c.geom.fill.toNat % 256 ^ c.geom.e else leRead s.physByte pa c.geom.e

/-- An element's address translates to device memory. -/
def LoadsFrom (s : State) (core : CoreId) (c : Copy) (pa i : Nat) : Prop :=
  ∀ a, c.target i = some a → s.isDevMem pa = true ∧
    ∃ p, (s.xlateSpan (c.asid core) a c.geom.e .load).1 = .ok [(p, c.geom.e)] ∧ p.pa = pa

/-- An element of a copy from memory moves to every receiver. -/
theorem moveElem_load {s : State} (op : OpenMemory s) (core : CoreId) (c : Copy) (i pa : Nat) (hdir : c.geom.dir = false)
    (hmiss : s.missing core c = false) (hready : ∀ p ∈ s.receivers core c, PoolReady s p.1 p.2) (hfrom : LoadsFrom s core c pa i) :
    ∃ t, s.moveElem core c i = (.value (), t) ∧
      Put s t (s.receivers core c) (s.poolOffset core c i) c.geom.e (elemValue s c pa i) := by
  unfold State.moveElem elemValue
  simp only [hdir, hmiss, Bool.false_eq_true, if_false]
  cases htarget : c.target i with
  | none => exact ⟨_, rfl, put_receivers _ _ _ _ s hready⟩
  | some a =>
    obtain ⟨hd, p, hx, rfl⟩ := hfrom a htarget
    obtain ⟨u, hload, hseen⟩ := engLoad_value op (c.asid core) rfl c.id a c.geom.e p hx hd
    have hfar := Afar.engLoad s (c.asid core) c.id a c.geom.e
    rw [hload] at hfar
    simp only [hload, reduceCtorEq, if_false]
    refine ⟨_, rfl, .after hseen hfar ?_⟩
    rw [(Filling.of_seen hseen hfar).receivers]
    exact put_receivers _ _ _ _ u fun q hq => (poolOf_afar hfar q.1 q.2).2 (hready q hq)

/-! A run of elements. -/

/-- The elements of a copy from its next one up to `i` stand in the scratchpads of its receivers. -/
structure MovedTo (s u : State) (core : CoreId) (c : Copy) (pa : Nat → Nat) (i : Nat) : Prop where
  filling : Filling s u
  ready : ∀ p ∈ s.receivers core c, PoolReady u p.1 p.2
  moved : ∀ p ∈ s.receivers core c, ∀ j, c.next ≤ j → j < i →
    u.poolReadOf p.1 p.2 (s.poolOffset core c j) c.geom.e = elemValue s c (pa j) j

/-- A run in one page of memory to the end of the copy (R126). -/
structure LoadRun (s : State) (core : CoreId) (c : Copy) (page : Nat) (pa : Nat → Nat) : Prop where
  memory : OpenMemory s
  dir : c.geom.dir = false
  present : s.missing core c = false
  apart : ∀ i j, c.next ≤ i → i < j → j < c.geom.count → s.poolOffset core c i + c.geom.e ≤ s.poolOffset core c j ∨
    s.poolOffset core c j + c.geom.e ≤ s.poolOffset core c i
  page : ∀ i, c.next ≤ i → i < c.geom.count → ∀ a, c.target i = some a → a.toNat / 65536 = page
  loads : ∀ i, c.next ≤ i → i < c.geom.count → ∀ u, EngineAside s u → LoadsFrom u core c (pa i) i

section
variable {s : State} {core : CoreId} {c : Copy} {page : Nat} {pa : Nat → Nat}

theorem elemValue_aside {u : State} (h : EngineAside s u) (c : Copy) (a i : Nat) : elemValue u c a i = elemValue s c a i := by
  unfold elemValue
  rw [show u.physByte = s.physByte from funext fun b => aside_physByte h b]

/-- The next element. -/
theorem MovedTo.step (hr : LoadRun s core c page pa) {u : State} {i : Nat} (h : MovedTo s u core c pa i) (hi : c.next ≤ i)
    (hic : i < c.geom.count) : ∃ t, u.moveElem core c i = (.value (), t) ∧ MovedTo s t core c pa (i + 1) := by
  have hrs := h.filling.receivers core c
  have hoff := h.filling.poolOffset core c i
  obtain ⟨t, ht, hput⟩ := moveElem_load (aside_open h.filling.aside hr.memory) core c i (pa i) hr.dir
    ((h.filling.missing core c).trans hr.present) (by rw [hrs]; exact h.ready) (hr.loads i hi hic u h.filling.aside)
  rw [hrs, hoff, elemValue_aside h.filling.aside] at hput
  refine ⟨t, ht, h.filling.trans hput.filling, fun p hp => hput.ready _ _ (h.ready p hp), fun p hp j hj hji => ?_⟩
  rw [poolReadOf_eq (hput.ready _ _ (h.ready p hp))]
  rcases Nat.lt_succ_iff_lt_or_eq.1 hji with hlt | rfl
  · rw [(hput.stored p hp).read_apart (hr.apart j i hj hlt hic), ← poolReadOf_eq (h.ready p hp)]
    exact h.moved p hp j hj hlt
  · rw [(hput.stored p hp).read, Nat.mod_eq_of_lt]
    unfold elemValue
    split
    · exact Nat.mod_lt _ (by positivity)
    · exact leRead_lt _ _ _

/-- The rest of the run. -/
theorem MovedTo.run (hr : LoadRun s core c page pa) (fuel : Nat) : ∀ (u : State) (i : Nat) (pg : Option Nat), MovedTo s u core c pa i →
    c.next ≤ i → i ≤ c.geom.count → c.geom.count ≤ i + fuel → (∀ q, pg = some q → q = page) →
    ∃ t, u.moveRun core c pg i fuel = (c.geom.count, .page, t) ∧ MovedTo s t core c pa c.geom.count := by
  induction fuel with
  | zero =>
    intro u i pg h _ hic hfuel _
    obtain rfl : i = c.geom.count := by omega
    exact ⟨u, rfl, h⟩
  | succ fuel ih =>
    intro u i pg h hi hic hfuel hpg
    by_cases hend : c.geom.count ≤ i
    · obtain rfl : i = c.geom.count := by omega
      exact ⟨u, by simp [State.moveRun], h⟩
    · obtain ⟨t, ht, hmoved⟩ := h.step hr hi (by omega)
      have hpage : ∀ q, c.page i = some q → q = page := fun q hq => by
        obtain ⟨a, ha, rfl⟩ := Option.map_eq_some_iff.1 hq
        exact hr.page i hi (by omega) a ha
      have hnext := fun pg hpg => ih t (i + 1) pg hmoved (by omega) (by omega) (by omega) hpg
      unfold State.moveRun
      rw [if_neg hend]
      cases pg with
      | none =>
        simp only [ht]
        exact hnext _ fun q hq => hpage q hq
      | some p =>
        obtain rfl := hpg _ rfl
        cases hq : c.page i with
        | none =>
          simp only [ht]
          exact hnext _ hpg
        | some q =>
          obtain rfl := hpage _ hq
          simp only [ne_eq, not_true_eq_false, if_false, ht]
          exact hnext _ hpg

end

end Sys2Proof.Proofs
end

section
/-! PROOF. A copy's page (R126, R229, R230): the runs that end it, its last element written to memory, and a page that fails. -/

namespace Sys2Proof.Proofs

open Sys2Proof Sys2Proof.Machine Sys2Proof.Claims Sys2Proof.Laws

/-! The copy in its core's queue. -/

theorem copyAt_onCopy {s : State} {core : CoreId} {id : Nat} {c : Copy} {f : Copy → Copy} (h : s.copyAt core id = some c)
    (hf : ∀ x, (f x).id = x.id) : (s.onCopy core id f).copyAt core id = some (f c) := by
  unfold State.copyAt State.onCopy at *
  have hid : ∀ x : Copy, (if x.id = id then f x else x).id = x.id := fun x => by
    split
    · exact hf x
    · rfl
  have hc : c.id = id := by simpa using List.find?_some h
  rw [getCore_onCore_same]
  dsimp only
  rw [List.find?_map]
  have hfind : ((fun x : Copy => x.id == id) ∘ fun x => if x.id = id then f x else x) = fun x : Copy => x.id == id :=
    funext fun x => by simp only [Function.comp, hid]
  rw [hfind, h, Option.map_some, if_pos hc]

theorem copyAt_id {s : State} {core : CoreId} {id : Nat} {c : Copy} (h : s.copyAt core id = some c) : c.id = id := by
  unfold State.copyAt at h
  simpa using List.find?_some h

theorem copyAt_afar {s t : State} (h : Afar s t) (core : CoreId) (id : Nat) : t.copyAt core id = s.copyAt core id := by
  have hown := (h.core core).own
  simp only [ownOf, Prod.mk.injEq] at hown
  obtain ⟨-, hcopies, -⟩ := hown
  unfold State.copyAt
  rw [hcopies]

/-! The event. -/

theorem exec_copyPage_none (s : State) (core : CoreId) (id : Nat) (h : s.copyAt core id = none) :
    exec (.copyPageTranslate core id) s = .next s := by
  show Host.Outcome.next _ = _
  rw [h]

/-- A copy that has fired, where it must, and has not stopped. -/
def CopyRuns (c : Copy) : Prop := c.stopped = false ∧ ∀ r, c.kind = .cpyr r → c.fired ≠ none

/-- A store of a copy's thread that has left the package and is not acknowledged (R168). -/
def HoldsCopy (core : CoreId) (c : Copy) (x : Outstanding) : Prop :=
  x.core = core ∧ x.tid = c.tid ∧ x.engine = none ∧ x.write ≠ none

/-- Nothing of its thread is ahead of a copy's page (R168). -/
structure CopyGoes (s : State) (core : CoreId) (c : Copy) : Prop where
  runs : CopyRuns c
  near : ∀ p ∈ (s.getCore core).inflight, p.tid ≠ c.tid
  away : ∀ x ∈ s.outstanding, ¬HoldsCopy core c x

theorem holdsCopy_iff (core : CoreId) (c : Copy) (x : Outstanding) :
    (x.core == core && x.tid == c.tid && x.engine.isNone && x.write.isSome) = true ↔ HoldsCopy core c x := by
  simp [HoldsCopy, Option.isSome_iff_ne_none, and_assoc]

/-- The copy is not one that still waits to fire. -/
theorem not_waiting {c : Copy} (h : CopyRuns c) :
    (c.stopped || match c.kind with
      | .cpyr _ => c.fired.isNone
      | _ => false) = false := by
  obtain ⟨hstop, hfire⟩ := h
  rw [hstop, Bool.false_or]
  cases hk : c.kind with
  | cpyr r => simpa [Option.isSome_iff_ne_none] using hfire r hk
  | _ => rfl

/-- What the end of a run leaves (R126, R230). -/
def runEnd (core : CoreId) (id : Nat) (c : Copy) : Nat × CopyEnd × State → State
  | (i, x, s) =>
    let s := s.onCopy core id fun c => { c with next := i }
    match x with
    | .page => if c.geom.count ≤ i then s.later (.copyArrival core id) else s.later (.copyPageTranslate core id)
    | .failed f va pa => s.stopCopy core c f va pa
    | .wait => { s with hostHeld := s.hostHeld ++ [.copyPageTranslate core id] }

theorem exec_copyPage_hold {s : State} {core : CoreId} {id : Nat} {c : Copy} (h : s.copyAt core id = some c) (hr : CopyRuns c)
    (x : Outstanding) (hx : x ∈ s.outstanding) (hm : HoldsCopy core c x) :
    exec (.copyPageTranslate core id) s = .next { s with hostHeld := s.hostHeld ++ [.copyPageTranslate core id] } := by
  have hany : (s.outstanding.any fun o => o.core == core && o.tid == c.tid && o.engine.isNone && o.write.isSome) = true :=
    List.any_eq_true.2 ⟨x, hx, (holdsCopy_iff core c x).2 hm⟩
  have hw := not_waiting hr
  show Host.Outcome.next _ = _
  rw [h]
  exact congrArg _ ((if_neg fun hb => Bool.false_ne_true (hw.symm.trans hb)).trans (if_pos hany))

theorem exec_copyPage_run {s : State} {core : CoreId} {id : Nat} {c : Copy} (h : s.copyAt core id = some c) (hg : CopyGoes s core c) :
    exec (.copyPageTranslate core id) s = .next (runEnd core id c (s.moveRun core c none c.next 65536)) := by
  have hany : (s.outstanding.any fun o => o.core == core && o.tid == c.tid && o.engine.isNone && o.write.isSome) = false :=
    List.any_eq_false.2 fun x hx hm => hg.away x hx ((holdsCopy_iff core c x).1 hm)
  have hnear : ((s.getCore core).inflight.filter fun p => p.tid == c.tid) = [] :=
    List.filter_eq_nil_iff.2 fun p hp => by simpa using hg.near p hp
  have hw := not_waiting hg.runs
  show Host.Outcome.next _ = _
  rw [h]
  refine congrArg _ ((if_neg fun hb => Bool.false_ne_true (hw.symm.trans hb)).trans
    ((if_neg fun hb => Bool.false_ne_true (hany.symm.trans hb)).trans ?_))
  rw [hnear]
  rfl

/-! Runs. -/

/-- The run of a copy's last element. -/
theorem moveRun_last {s t : State} {core : CoreId} {c : Copy} {i fuel : Nat} (hi : i + 1 = c.geom.count) (hf : 2 ≤ fuel)
    (h : s.moveElem core c i = (.value (), t)) : s.moveRun core c none i fuel = (c.geom.count, .page, t) := by
  obtain ⟨f, rfl⟩ : ∃ f, fuel = f + 1 + 1 := ⟨fuel - 2, by omega⟩
  have hlast : ∀ pg, t.moveRun core c pg (i + 1) (f + 1) = (c.geom.count, .page, t) := fun pg => by
    rw [hi]
    simp [State.moveRun]
  rw [State.moveRun, if_neg (by omega)]
  · simp only [h]
    exact hlast _
  · nofun

/-- A run that ends with its first element. -/
theorem moveRun_failed {s t : State} {core : CoreId} {c : Copy} {i fuel : Nat} {f : XFault} {va : Word} {pa : Nat}
    (hi : i < c.geom.count) (hf : 1 ≤ fuel) (h : s.moveElem core c i = (.fail f va pa, t)) :
    s.moveRun core c none i fuel = (i, .failed f va pa, t) := by
  obtain ⟨g, rfl⟩ : ∃ g, fuel = g + 1 := ⟨fuel - 1, by omega⟩
  rw [State.moveRun, if_neg (by omega)]
  · simp only [h]
  · nofun

/-- R230: a copy stops where its page fails. -/
theorem stopCopy_copyAt {s : State} {core : CoreId} {id : Nat} {c c' : Copy} (h : s.copyAt core id = some c') (hid : c.id = id)
    (f : XFault) (va : Word) (pa : Nat) : (s.stopCopy core c f va pa).copyAt core id = some { c' with stopped := true } := by
  have hstop : (s.onCopy core id fun c => { c with stopped := true }).copyAt core id = some { c' with stopped := true } :=
    copyAt_onCopy h fun _ => rfl
  unfold State.stopCopy
  rw [hid]
  dsimp only
  have htake := Afar.fqTake (s.onCopy core id fun c => { c with stopped := true })
    ((s.onCopy core id fun c => { c with stopped := true }).copyEntry core c f va pa)
  revert htake
  generalize State.fqTake _ _ = r
  obtain ⟨x, u⟩ := r
  intro htake
  have hu := (copyAt_afar htake core id).trans hstop
  cases x with
  | none => exact hu
  | some ix =>
    have htid : ∀ (tid : Nat) (g : Thread → Thread), (u.onTid core tid g).copyAt core id = u.copyAt core id := fun tid g => by
      unfold State.copyAt State.onTid
      rw [getCore_onCore_same]
      rfl
    exact (htid _ _).trans hu

/-! The last element written to memory. -/

/-- The bytes of an element lie in its first and its last line. -/
theorem line_of_byte {pa n i : Nat} (hi : i < n) (hn : n ≤ 16) : (pa + i) / 128 = pa / 128 ∨ (pa + i) / 128 = (pa + n - 1) / 128 := by
  omega

/-- R126: an engine's write of at most one sector's bytes in open device memory. -/
theorem engStore_effect {s : State} (o : OpenMemory s) (hwf : s.mem.wf = true) (a : Asid) (ha : a.thread = false) (id tid : Nat)
    (pc va : Word) (n v : Nat) (p : Phys) (hn : n ≤ 16) (hx : (s.xlateSpan a va n .store).1 = .ok [(p, n)])
    (hd : s.isDevMem p.pa = true) (hlo : Coherent s (p.pa / 128)) (hhi : Coherent s ((p.pa + n - 1) / 128)) :
    ∃ t, s.engStore a id tid pc va n v = (.value (), t) ∧ Wrote s t p.pa n v ∧ Afar s t := by
  have hw := Watched.xlateSpan o a ha va n .store
  have hfar := Afar.xlateSpan s a va n .store
  unfold State.engStore
  revert hx hw hfar
  generalize s.xlateSpan a va n .store = r
  obtain ⟨x, u⟩ := r
  intro hx hw hfar
  obtain rfl : x = .ok [(p, n)] := hx
  obtain ⟨hlocal, hregion⟩ := isDevMem_cases ((hw.toSeen.isDevMem p.pa).trans hd)
  have hnothost : (regionOf p.pa == .host) = false := by
    rcases hregion with h | h
    · rw [h]; rfl
    · rw [h]; rfl
  have hlines : ∀ i < n, Coherent u ((p.pa + i) / 128) := fun i hi => by
    rcases line_of_byte (pa := p.pa) hi hn with h | h
    · rw [h]; exact hw.coherent _ hlo
    · rw [h]; exact hw.coherent _ hhi
  obtain ⟨t, ht, hwrote, hfar'⟩ := engSectors_effect a.core id a.ctx 8 u p.pa n (v % 256 ^ n) (hw.openMemory o)
    (by rw [hw.toSeen.mem]; exact hwf) (fun _ => by omega) hlines
  refine ⟨t, ?_, ⟨hwrote.of_mod.inside, fun b hb => (hwrote.outside b hb).trans (hw.toSeen.physByte b)⟩, hfar.trans hfar'⟩
  simp only [State.engStorePieces, hlocal, hnothost, (hw.toSeen.isDevMem p.pa).trans hd, ht, Served.loaded, Bool.not_true, Bool.false_and,
    Bool.or_self, Bool.false_eq_true, if_false, if_true]

end Sys2Proof.Proofs
end

section
/-! PROOF. The elements of a copy that meet (R229), and what a copy's page event leaves in each case. -/

namespace Sys2Proof.Proofs

open Sys2Proof Sys2Proof.Machine Sys2Proof.Claims Sys2Proof.Laws

/-! Elements that share no byte. -/

/-- An element's address keeps its bytes clear of every element before it. -/
def ClearOf (c : Copy) (i : Nat) (a : Word) : Prop :=
  ∀ j < i, ∀ b, c.target j = some b → c.geom.e ≤ (a - b).toNat ∧ c.geom.e ≤ (b - a).toNat

/-- Two addresses whose elements share a byte. -/
theorem not_meets {e : Nat} {a b : Word} (h : e ≤ (a - b).toNat ∧ e ≤ (b - a).toNat) :
    (decide ((a - b).toNat < e) || decide ((b - a).toNat < e)) = false := by
  rw [Bool.or_eq_false_iff, decide_eq_false_iff_not, decide_eq_false_iff_not]
  exact ⟨not_lt.2 h.1, not_lt.2 h.2⟩

/-- The target of an element of a row list (R366). -/
theorem target_cpyp {c : Copy} {dest : List (Option Word)} (hk : c.kind = .cpyp dest) (i : Nat) :
    c.target i = ((dest[i / c.geom.n[0] % c.geom.n[1]]?).getD none).map fun a => a + w64 (c.geom.e * (i % c.geom.n[0])) := by
  unfold Copy.target
  simp only [hk]
  rfl

/-- Below the start of its row by less than a row's bytes, an address shares a byte with an element of the row. -/
theorem row_meets {e n : Nat} {a b : Word} (he : 0 < e) (h : (a - b).toNat < e * n) :
    ∃ k < n, (a - (b + w64 (e * k))).toNat < e := by
  have hk := Nat.div_lt_of_lt_mul h
  refine ⟨(a - b).toNat / e, hk, ?_⟩
  have hle : e * ((a - b).toNat / e) ≤ (a - b).toNat := Nat.mul_div_le _ _
  have hw : (w64 (e * ((a - b).toNat / e))).toNat = e * ((a - b).toNat / e) :=
    Nat.mod_eq_of_lt (lt_of_le_of_lt hle (a - b).isLt)
  have hsub : a - (b + w64 (e * ((a - b).toNat / e))) = a - b - w64 (e * ((a - b).toNat / e)) := by ring
  rw [hsub, BitVec.toNat_sub_of_le (by rw [BitVec.le_def, hw]; exact hle), hw]
  have hmod := Nat.mod_lt (a - b).toNat he
  have hdiv := Nat.div_add_mod (a - b).toNat e
  omega

/-- The elements of row `r`, of a list that names it. -/
theorem target_row {c : Copy} {dest : List (Option Word)} (hk : c.kind = .cpyp dest) {r k : Nat} {b : Word} (hr : r < c.geom.n[1])
    (hkn : k < c.geom.n[0]) (hd : dest[r]? = some (some b)) : c.target (r * c.geom.n[0] + k) = some (b + w64 (c.geom.e * k)) := by
  have hpos : 0 < c.geom.n[0] := by omega
  have hdiv : (r * c.geom.n[0] + k) / c.geom.n[0] = r := by
    rw [Nat.add_comm, Nat.add_mul_div_right _ _ hpos, Nat.div_eq_of_lt hkn, Nat.zero_add]
  have hmod : (r * c.geom.n[0] + k) % c.geom.n[0] = k := by
    rw [Nat.add_comm, Nat.add_mul_mod_self_right, Nat.mod_eq_of_lt hkn]
  rw [target_cpyp hk, hdiv, hmod, Nat.mod_eq_of_lt hr, hd]
  rfl

/-- An element whose row the list names again has the address of an earlier element, and is not clear of it. -/
theorem row_lt_of_clear {c : Copy} {dest : List (Option Word)} (hk : c.kind = .cpyp dest) {i : Nat} {a : Word} (he : 0 < c.geom.e)
    (h0 : 0 < c.geom.n[0]) (h1 : 0 < c.geom.n[1]) (ha : c.target i = some a) (h : ClearOf c i a) : i / c.geom.n[0] < c.geom.n[1] := by
  by_contra hrow
  obtain ⟨j, hj⟩ : ∃ j, j = i / c.geom.n[0] % c.geom.n[1] * c.geom.n[0] + i % c.geom.n[0] := ⟨_, rfl⟩
  have hlt : i / c.geom.n[0] % c.geom.n[1] < i / c.geom.n[0] := by
    have := Nat.mod_lt (i / c.geom.n[0]) h1
    omega
  have hji : j < i := by
    have hi := Nat.div_add_mod i c.geom.n[0]
    have hmul := Nat.mul_lt_mul_of_pos_right hlt h0
    rw [Nat.mul_comm] at hi
    omega
  have hsame : c.target j = some a := by
    have hm := Nat.mod_lt i h0
    have hdiv : j / c.geom.n[0] = i / c.geom.n[0] % c.geom.n[1] := by
      rw [hj, Nat.add_comm, Nat.add_mul_div_right _ _ h0, Nat.div_eq_of_lt hm, Nat.zero_add]
    have hmod : j % c.geom.n[0] = i % c.geom.n[0] := by
      rw [hj, Nat.add_comm, Nat.add_mul_mod_self_right, Nat.mod_eq_of_lt hm]
    rw [← ha, target_cpyp hk, target_cpyp hk, hdiv, hmod, Nat.mod_mod]
  have hself := (h j hji a hsame).1
  rw [BitVec.sub_self] at hself
  exact absurd hself (not_le.2 he)

/-- An element clear of those before it is clear of every row before its own. -/
theorem rows_clear {c : Copy} {dest : List (Option Word)} (hk : c.kind = .cpyp dest) {i : Nat} {a : Word} (he : 0 < c.geom.e)
    (h0 : 0 < c.geom.n[0]) (hrow : i / c.geom.n[0] < c.geom.n[1]) (h : ClearOf c i a) {r : Nat} {b : Word} (hr : r < i / c.geom.n[0])
    (hd : dest[r]? = some (some b)) : c.geom.e * c.geom.n[0] ≤ (a - b).toNat ∧ c.geom.e ≤ (b - a).toNat := by
  have hbefore : ∀ k < c.geom.n[0], r * c.geom.n[0] + k < i := fun k hkn => by
    have hle : (r + 1) * c.geom.n[0] ≤ i := (Nat.le_div_iff_mul_le h0).1 hr
    rw [Nat.succ_mul] at hle
    omega
  have helem := fun k hkn => h _ (hbefore k hkn) _ (target_row hk (hr.trans hrow) hkn hd)
  refine ⟨not_lt.1 fun hlt => ?_, ?_⟩
  · obtain ⟨k, hkn, hmeet⟩ := row_meets he hlt
    exact absurd (helem k hkn).1 (not_le.2 hmeet)
  · have hfirst := (helem 0 h0).2
    rwa [Nat.mul_zero, show w64 0 = 0#64 from rfl, BitVec.add_zero] at hfirst

/-- R229: an element that shares no byte with an earlier one meets none. -/
theorem clash_of_clear {c : Copy} {i : Nat} {a : Word} (he : 0 < c.geom.e) (hi : i < c.geom.count) (ha : c.target i = some a)
    (h : ClearOf c i a) : c.clash i a = false := by
  have hother : ∀ x : Bool, (!x && (List.range i).any fun j => match c.target j with
      | some b => decide ((a - b).toNat < c.geom.e) || decide ((b - a).toNat < c.geom.e)
      | none => false) = false := fun x => by
    rw [Bool.and_eq_false_iff]
    refine .inr (List.any_eq_false.2 fun j hj => ?_)
    rw [Bool.not_eq_true]
    split
    · next b hb => exact not_meets (h j (List.mem_range.1 hj) b hb)
    · rfl
  unfold Copy.clash
  dsimp only
  split
  · next dest hk =>
    have hpos : 0 < c.geom.n[0] ∧ 0 < c.geom.n[1] := by
      unfold CopyGeom.count at hi
      constructor
      · rcases Nat.eq_zero_or_pos c.geom.n[0] with h0 | h0
        · simp [h0] at hi
        · exact h0
      · rcases Nat.eq_zero_or_pos c.geom.n[1] with h0 | h0
        · simp [h0] at hi
        · exact h0
    have hrow := row_lt_of_clear hk he hpos.1 hpos.2 ha h
    refine List.any_eq_false.2 fun d hd => ?_
    obtain ⟨r, hr, hget⟩ := List.getElem_of_mem hd
    rw [List.getElem_take] at hget
    rw [List.length_take, lt_min_iff] at hr
    rw [Bool.not_eq_true]
    cases d with
    | none => rfl
    | some b =>
      obtain ⟨hlo, hhi⟩ := rows_clear hk he hpos.1 hrow h hr.1 (List.getElem?_eq_some_iff.2 ⟨hr.2, hget⟩)
      dsimp only
      rw [Bool.or_eq_false_iff, decide_eq_false_iff_not, decide_eq_false_iff_not]
      exact ⟨not_lt.2 hlo, not_lt.2 hhi⟩
  · exact hother _

/-! The page event. -/

/-- A scratchpad reads the same where the core has the same teams and pool. -/
theorem poolReadOf_onCore (s : State) (c : CoreId) (f : Core → Core) (hp : ∀ k, (f k).pool = k.pool) (ht : ∀ k, (f k).teams = k.teams)
    (d : CoreId) (team o n : Nat) : (s.onCore c f).poolReadOf d team o n = s.poolReadOf d team o n := by
  unfold State.poolReadOf State.teamAt
  rw [getCore_onCore]
  by_cases hd : d = c
  · rw [if_pos hd, hp, ht]
  · rw [if_neg hd]

section
variable {s : State} {core : CoreId} {id : Nat} {c : Copy}

/-- A copy whose last element has moved goes on to its arrival. -/
theorem copyPage_moved {u : State} (h : s.copyAt core id = some c) (hg : CopyGoes s core c)
    (hrun : s.moveRun core c none c.next 65536 = (c.geom.count, .page, u)) (hcopy : u.copyAt core id = s.copyAt core id) :
    ∃ t, exec (.copyPageTranslate core id) s = .next t ∧
      (t.copyAt core id = some { c with next := c.geom.count } ∧ .copyArrival core id ∈ t.agenda) ∧
      (∀ a, t.physByte a = u.physByte a) ∧ ∀ d team o n, t.poolReadOf d team o n = u.poolReadOf d team o n := by
  have hx := exec_copyPage_run h hg
  rw [hrun] at hx
  have ht : runEnd core id c (c.geom.count, .page, u) =
      (u.onCopy core id fun c' => { c' with next := c.geom.count }).later (.copyArrival core id) := if_pos le_rfl
  rw [ht] at hx
  have hbyte : ∀ a, (u.onCopy core id fun c' => { c' with next := c.geom.count }).physByte a = u.physByte a :=
    onlyCores_physByte (onlyCores_onCore u core _)
  exact ⟨_, hx, ⟨copyAt_onCopy (hcopy.trans h) fun _ => rfl, mem_agenda_later _ _⟩, hbyte,
    poolReadOf_onCore u core _ (fun _ => rfl) fun _ => rfl⟩

/-- R126: a copy from memory moves the elements of its last page. -/
theorem copyPage_load {page : Nat} {pa : Nat → Nat} (h : s.copyAt core id = some c) (hg : CopyGoes s core c)
    (hr : LoadRun s core c page pa) (hready : ∀ p ∈ s.receivers core c, PoolReady s p.1 p.2) (hn : c.next ≤ c.geom.count)
    (hfuel : c.geom.count ≤ c.next + 65536) :
    ∃ t, exec (.copyPageTranslate core id) s = .next t ∧
      (t.copyAt core id = some { c with next := c.geom.count } ∧ .copyArrival core id ∈ t.agenda) ∧
      (∀ a, t.physByte a = s.physByte a) ∧ ∀ p ∈ s.receivers core c, ∀ i, c.next ≤ i → i < c.geom.count →
        t.poolReadOf p.1 p.2 (s.poolOffset core c i) c.geom.e = elemValue s c (pa i) i := by
  have hstart : MovedTo s s core c pa c.next := ⟨.refl s, hready, fun _ _ j hj hjn => absurd hj (not_le.2 hjn)⟩
  obtain ⟨u, hrun, hmoved⟩ := hstart.run hr 65536 s c.next none le_rfl hn hfuel nofun
  obtain ⟨t, hx, hcopy, hbyte, hpool⟩ := copyPage_moved h hg hrun (hmoved.filling.copyAt core id)
  refine ⟨t, hx, hcopy, fun a => (hbyte a).trans (aside_physByte hmoved.filling.aside a), fun p hp i hi hic => ?_⟩
  rw [hpool]
  exact hmoved.moved p hp i hi hic

/-- An element that has no place in memory moves by leaving memory alone. -/
theorem copyPage_nowhere (h : s.copyAt core id = some c) (hg : CopyGoes s core c) (hdir : c.geom.dir = true)
    (hlast : c.next + 1 = c.geom.count) (ha : c.target c.next = none) :
    ∃ t, exec (.copyPageTranslate core id) s = .next t ∧
      (t.copyAt core id = some { c with next := c.geom.count } ∧ .copyArrival core id ∈ t.agenda) ∧
      ∀ a, t.physByte a = s.physByte a := by
  have helem : s.moveElem core c c.next = (.value (), s) := by
    unfold State.moveElem
    simp only [hdir, ha, if_true]
  obtain ⟨t, hx, hcopy, hbyte, -⟩ := copyPage_moved h hg (moveRun_last hlast (by decide) helem) rfl
  exact ⟨t, hx, hcopy, hbyte⟩

/-- R126, R229: the last element of a copy to memory is written at its address. -/
theorem copyPage_store {a : Word} {p : Phys} (h : s.copyAt core id = some c) (hg : CopyGoes s core c) (hdir : c.geom.dir = true)
    (hlast : c.next + 1 = c.geom.count) (o : OpenMemory s) (hwf : s.mem.wf = true) (he : c.geom.loge ≤ 4)
    (ha : c.target c.next = some a) (hx : (s.xlateSpan (c.asid core) a c.geom.e .store).1 = .ok [(p, c.geom.e)])
    (hd : s.isDevMem p.pa = true) (hclear : ClearOf c c.next a) (hlo : Coherent s (p.pa / 128))
    (hhi : Coherent s ((p.pa + c.geom.e - 1) / 128)) :
    ∃ t, exec (.copyPageTranslate core id) s = .next t ∧
      (t.copyAt core id = some { c with next := c.geom.count } ∧ .copyArrival core id ∈ t.agenda) ∧
      Wrote s t p.pa c.geom.e (s.poolReadOf core c.team (s.poolOffset core c c.next) c.geom.e) := by
  have hsize : 0 < c.geom.e ∧ c.geom.e ≤ 16 := ⟨Nat.two_pow_pos _, Nat.pow_le_pow_right (by decide) he⟩
  have hclash := clash_of_clear hsize.1 (by omega) ha hclear
  obtain ⟨u, hstore, hwrote, hfar⟩ := engStore_effect o hwf (c.asid core) rfl c.id c.tid c.pc a c.geom.e
    (s.poolReadOf core c.team (s.poolOffset core c c.next) c.geom.e) p hsize.2 hx hd hlo hhi
  have helem : s.moveElem core c c.next = (.value (), u) := by
    unfold State.moveElem
    simp only [hdir, ha, hclash, Bool.not_false, if_true]
    exact hstore
  obtain ⟨t, hexec, hcopy, hbyte, -⟩ := copyPage_moved h hg (moveRun_last hlast (by decide) helem) (copyAt_afar hfar core id)
  exact ⟨t, hexec, hcopy, fun i hi => (hbyte _).trans (hwrote.inside i hi), fun b hb => (hbyte b).trans (hwrote.outside b hb)⟩

/-- R230: a copy whose element has no translation stops there. -/
theorem copyPage_stops {a : Word} {f : XFault} (h : s.copyAt core id = some c) (hg : CopyGoes s core c)
    (hnext : c.next < c.geom.count) (hmiss : c.geom.dir = false → s.missing core c = false) (ha : c.target c.next = some a)
    (hx : (s.xlateSpan (c.asid core) a c.geom.e (if c.geom.dir then .store else .load)).1 = .error f) (hf : f.wait = none)
    (hclash : c.geom.dir = true → c.clash c.next a = false) :
    ∃ t, exec (.copyPageTranslate core id) s = .next t ∧ t.copyAt core id = some { c with stopped := true } := by
  obtain ⟨k, hk⟩ : ∃ k : Access, k = if c.geom.dir then .store else .load := ⟨_, rfl⟩
  have helem : s.moveElem core c c.next = (.fail f a 0, (s.xlateSpan (c.asid core) a c.geom.e k).2) := by
    unfold State.moveElem
    cases hdir : c.geom.dir with
    | true =>
      rw [hdir, if_pos rfl] at hx hk
      simp only [ha, hclash hdir, Bool.not_false, if_true, hk]
      exact engStore_fail s _ _ _ _ _ _ _ f hx hf
    | false =>
      rw [hdir, if_neg Bool.false_ne_true] at hx hk
      simp only [hmiss hdir, ha, Bool.false_eq_true, if_false, hk, engLoad_fail s _ _ _ _ f hx hf]
  have hexec := exec_copyPage_run h hg
  rw [moveRun_failed hnext (by decide) helem] at hexec
  refine ⟨_, hexec, ?_⟩
  have hsame : ((s.xlateSpan (c.asid core) a c.geom.e k).2).copyAt core id = some c :=
    (copyAt_afar (Afar.xlateSpan s (c.asid core) a c.geom.e k) core id).trans h
  exact stopCopy_copyAt (copyAt_onCopy (f := fun c' => { c' with next := c.next }) hsame fun _ => rfl) (copyAt_id h) f a 0

end

end Sys2Proof.Proofs
end

section
/-! PROOF. Bytes that arrive at a barrier object (R225, R231, R232): the object, and the threads that it lets go. -/

namespace Sys2Proof.Proofs

open Sys2Proof Sys2Proof.Machine Sys2Proof.Claims Sys2Proof.Laws

/-! The object in its bits (R224). -/

/-- The ranges of a barrier object's fields. -/
structure Ranged (b : BarObj) : Prop where
  low : -(2 ^ 31) ≤ b.bytes
  high : b.bytes < 2 ^ 31
  thr : b.thr < 2 ^ 16
  thrn : b.thrn < 2 ^ 16

theorem ranged_ofBits (n : Nat) : Ranged (BarObj.ofBits n) := by
  have hs : -(2 ^ 31) ≤ sint n 32 ∧ sint n 32 < 2 ^ 31 := by
    unfold sint
    rw [Int.ofNat_eq_natCast]
    split
    · omega
    · omega
  exact ⟨hs.1, hs.2, Nat.mod_lt _ (by decide), Nat.mod_lt _ (by decide)⟩

theorem ranged_barObj (s : State) (d : CoreId) (team o : Nat) : Ranged (s.barObj d team o) := ranged_ofBits _

theorem sint_uint (b : Int) (h0 : -(2 ^ 31) ≤ b) (h1 : b < 2 ^ 31) : sint (uint b 32) 32 = b := by
  unfold sint uint
  rw [Int.ofNat_eq_natCast]
  split
  · omega
  · omega

theorem ofBits_toBits {b : BarObj} (h : Ranged b) : BarObj.ofBits (b.toBits % 256 ^ 16) = b := by
  obtain ⟨bytes, thr, phase, v, err, thrn⟩ := b
  obtain ⟨h0, h1, ht, hn⟩ := h
  dsimp only at h0 h1 ht hn
  have hu : uint bytes 32 < 2 ^ 32 := by unfold uint; omega
  have hround := sint_uint bytes h0 h1
  unfold BarObj.toBits BarObj.ofBits
  dsimp only
  generalize uint bytes 32 = u at hu hround
  have hbit : ∀ x : Bool, x.toNat < 2 := fun x => by cases x <;> decide
  have hp := hbit phase
  have hv := hbit v
  have he := hbit err
  generalize hN : (u + 2 ^ 32 * thr + 2 ^ 48 * phase.toNat + 2 ^ 49 * v.toNat + 2 ^ 50 * err.toNat + 2 ^ 64 * thrn) % 256 ^ 16 = N
  have hlow : N % 2 ^ 32 = u := by omega
  have hthr : N / 2 ^ 32 % 2 ^ 16 = thr := by omega
  have hphase : N / 2 ^ 48 % 2 = phase.toNat := by omega
  have hvalid : N / 2 ^ 49 % 2 = v.toNat := by omega
  have herr : N / 2 ^ 50 % 2 = err.toNat := by omega
  have hthrn : N / 2 ^ 64 % 2 ^ 16 = thrn := by omega
  have hbool : ∀ x : Bool, (x.toNat == 1) = x := fun x => by cases x <;> rfl
  have hbytes : sint N 32 = bytes := by
    rw [← hround]
    unfold sint
    rw [hlow, Nat.mod_eq_of_lt hu]
  rw [hbytes, hthr, hphase, hvalid, herr, hthrn, hbool, hbool, hbool]

/-- The bytes that arrive leave the object's fields in their ranges. -/
theorem ranged_arrived {obj : BarObj} (h : Ranged obj) {b : Nat} (hb : -(2 ^ 31) ≤ obj.bytes - b) : Ranged (Claims.arrived obj b) := by
  obtain ⟨-, h1, ht, hn⟩ := h
  unfold Claims.arrived
  split
  · exact ⟨(by decide : -(2 ^ 31) ≤ (0 : Int)), (by decide : (0 : Int) < 2 ^ 31), hn, hn⟩
  · exact ⟨hb, lt_of_le_of_lt (by omega : obj.bytes - b ≤ obj.bytes) h1, ht, hn⟩

/-- R225: bytes that arrive within the object's range are taken off it. -/
theorem update_arrived {obj : BarObj} (h : Ranged obj) {b : Nat} (hb : -(2 ^ 31) ≤ obj.bytes - b) :
    obj.update (-(b : Int)) 0 = Claims.arrived obj b := by
  have hin : ¬(obj.bytes + -(b : Int) < -(2 ^ 31) ∨ 2 ^ 31 ≤ obj.bytes + -(b : Int) ∨ obj.thr < 0) := by
    have := h.high
    omega
  have hzero : (obj.bytes + -(b : Int) = 0 ∧ obj.thr = 0) ↔ (obj.bytes = b ∧ obj.thr = 0) := by
    constructor
    · exact fun hz => ⟨by omega, hz.2⟩
    · exact fun hz => ⟨by omega, hz.2⟩
  unfold BarObj.update Claims.arrived
  rw [if_neg hin]
  by_cases hd : obj.bytes = b ∧ obj.thr = 0
  · rw [if_pos (hzero.2 hd), if_pos hd]
  · rw [if_neg fun hz => hd (hzero.1 hz), if_neg hd, ← Int.sub_eq_add_neg, Nat.sub_zero]

theorem arrived_err (obj : BarObj) (b : Nat) : (Claims.arrived obj b).err = obj.err := by
  unfold Claims.arrived
  split
  · rfl
  · rfl

/-! The core of the object. -/

/-- A core in which bytes have arrived at an object of a team (R225). -/
def arrivedAt (cmd : Bool) (team o b : Nat) (obj : BarObj) (k : Core) : Core :=
  let k := filled cmd team o 16 (Claims.arrived obj b).toBits k
  if (Claims.arrived obj b).phase != obj.phase then k.onMembers team (Thread.departIf (waitsOn o obj.phase)) else k

/-- A thread that is as it was, or that a barrier object has let go (R225). -/
def Woken (x y : Thread) : Prop :=
  y = x ∨ (∃ o q, x.status = .parked (.bowait o q)) ∧ y = { x with status := .ready, pc := x.pc + 4 }

theorem woken_departIf (o : Nat) (q : Bool) (x : Thread) : Woken x (x.departIf (waitsOn o q)) := by
  unfold Thread.departIf
  split
  · next w hw =>
    split
    · next hp =>
      refine .inr ⟨?_, rfl⟩
      unfold waitsOn at hp
      split at hp
      · exact ⟨_, _, hw⟩
      · cases hp
    · exact .inl rfl
  · exact .inl rfl

theorem departIf_of_bowait {x : Thread} {o : Nat} {q : Bool} (h : x.status = .parked (.bowait o q)) :
    x.departIf (waitsOn o q) = { x with status := .ready, pc := x.pc + 4 } := by
  simp [Thread.departIf, h, waitsOn]

theorem slot_onMembers (k : Core) (team : Nat) (f : Thread → Thread) (i : Fin 8) : (k.onMembers team f).slots[i] =
    if k.slots[i].status != .empty && k.slots[i].team == team then f k.slots[i] else k.slots[i] := Vector.getElem_map _ _

theorem slot_filled (cmd : Bool) (k : Core) (team o n v : Nat) (i : Fin 8) : (filled cmd team o n v k).slots[i] = k.slots[i] := by
  cases cmd
  · rfl
  · rfl

section
variable {cmd : Bool} {team o b : Nat} {obj : BarObj} {k : Core}

theorem arrivedAt_of_toggle (h : ((Claims.arrived obj b).phase != obj.phase) = true) : arrivedAt cmd team o b obj k =
    (filled cmd team o 16 (Claims.arrived obj b).toBits k).onMembers team (Thread.departIf (waitsOn o obj.phase)) := if_pos h

theorem arrivedAt_of_same (h : ¬((Claims.arrived obj b).phase != obj.phase) = true) : arrivedAt cmd team o b obj k =
    filled cmd team o 16 (Claims.arrived obj b).toBits k := if_neg h

theorem arrivedAt_pool (cmd : Bool) (team o b : Nat) (obj : BarObj) (k : Core) :
    (arrivedAt cmd team o b obj k).pool = (filled cmd team o 16 (Claims.arrived obj b).toBits k).pool ∧
      (arrivedAt cmd team o b obj k).teams = (filled cmd team o 16 (Claims.arrived obj b).toBits k).teams := by
  by_cases h : ((Claims.arrived obj b).phase != obj.phase) = true
  · rw [arrivedAt_of_toggle h]
    exact ⟨rfl, rfl⟩
  · rw [arrivedAt_of_same h]
    exact ⟨rfl, rfl⟩

theorem arrivedAt_kept (h : ReadyIn cmd k team) : Kept k (arrivedAt cmd team o b obj k) := by
  obtain ⟨hcopies, hrings, hteams⟩ := kept_filled h o 16 (Claims.arrived obj b).toBits
  by_cases ht : ((Claims.arrived obj b).phase != obj.phase) = true
  · rw [arrivedAt_of_toggle ht]
    exact ⟨hcopies, hrings, hteams⟩
  · rw [arrivedAt_of_same ht]
    exact ⟨hcopies, hrings, hteams⟩

theorem arrivedAt_slot (cmd : Bool) (team o b : Nat) (obj : BarObj) (k : Core) (i : Fin 8) :
    Woken k.slots[i] (arrivedAt cmd team o b obj k).slots[i] := by
  by_cases h : ((Claims.arrived obj b).phase != obj.phase) = true
  · rw [arrivedAt_of_toggle h, slot_onMembers, slot_filled]
    split
    · exact woken_departIf _ _ _
    · exact .inl rfl
  · rw [arrivedAt_of_same h, slot_filled]
    exact .inl rfl

/-- A completed phase lets the threads go that wait for it. -/
theorem arrivedAt_released (hb : obj.bytes = b) (ht : obj.thr = 0) {i : Fin 8}
    (hs : k.slots[i].status = .parked (.bowait o obj.phase)) (hteam : k.slots[i].team = team) :
    (arrivedAt cmd team o b obj k).slots[i] = { k.slots[i] with status := .ready, pc := k.slots[i].pc + 4 } := by
  have hphase : ((Claims.arrived obj b).phase != obj.phase) = true := by
    unfold Claims.arrived
    rw [if_pos ⟨hb, ht⟩]
    cases obj.phase <;> rfl
  have hmember : (k.slots[i].status != .empty && k.slots[i].team == team) = true := by
    rw [hs, hteam, beq_self_eq_true]
    rfl
  rw [arrivedAt_of_toggle hphase, slot_onMembers, slot_filled, if_pos hmember]
  exact departIf_of_bowait hs

end

/-! The object updated. -/

/-- R225: bytes that arrive at an object within its range change its core only. -/
theorem barUpdate_effect {s : State} {d : CoreId} {team o b : Nat} (hr : PoolReady s d team)
    (hb : -(2 ^ 31) ≤ (s.barObj d team o).bytes - b) :
    OnlyCores s (s.barUpdate d team o (-(b : Int)) 0) ∧
      (∀ e, e ≠ d → (s.barUpdate d team o (-(b : Int)) 0).getCore e = s.getCore e) ∧
      (s.barUpdate d team o (-(b : Int)) 0).getCore d = arrivedAt (isCmd d) team o b (s.barObj d team o) (s.getCore d) := by
  have hup := update_arrived (ranged_barObj s d team o) hb
  have herr : ((s.barObj d team o).update (-(b : Int)) 0).err = (s.barObj d team o).err := by rw [hup, arrived_err]
  unfold State.barUpdate arrivedAt
  dsimp only
  rw [herr, hup, poolWriteOf_eq hr, Bool.and_not_self, if_neg Bool.false_ne_true]
  have hfill := onlyCores_onCore s d (filled (isCmd d) team o 16 (Claims.arrived (s.barObj d team o) b).toBits)
  split
  · exact ⟨hfill.trans (onlyCores_onCore _ d _), fun e he => (getCore_onCore_ne _ _ _ _ he).trans (getCore_onCore_ne _ _ _ _ he),
      (getCore_onCore_same _ _ _).trans (by rw [getCore_onCore_same])⟩
  · exact ⟨hfill, fun e he => getCore_onCore_ne _ _ _ _ he, getCore_onCore_same _ _ _⟩

theorem getThread_congr {s t : State} {d : CoreId} (h : t.getCore d = s.getCore d) (i : Fin 8) : t.getThread d i = s.getThread d i := by
  rw [getThread_eq_slot, getThread_eq_slot, h]

theorem poolReadOf_congr {s t : State} {d : CoreId} (hp : (t.getCore d).pool = (s.getCore d).pool)
    (ht : (t.getCore d).teams = (s.getCore d).teams) (team o n : Nat) : t.poolReadOf d team o n = s.poolReadOf d team o n := by
  unfold State.poolReadOf State.teamAt
  rw [hp, ht]

theorem poolReadOf_core {s t : State} {d : CoreId} (h : t.getCore d = s.getCore d) (team o n : Nat) :
    t.poolReadOf d team o n = s.poolReadOf d team o n :=
  poolReadOf_congr (congrArg Core.pool h) (congrArg Core.teams h) team o n

theorem barObj_congr {s t : State} {d : CoreId} (h : t.getCore d = s.getCore d) (team o : Nat) : t.barObj d team o = s.barObj d team o :=
  congrArg BarObj.ofBits (poolReadOf_core h team o 16)

theorem poolReady_congr {s t : State} {d : CoreId} (h : t.getCore d = s.getCore d) (team : Nat) :
    PoolReady t d team ↔ PoolReady s d team := by rw [poolReady_iff, poolReady_iff, h]

/-- What a thread was when bytes arrived, and what it is after what followed. -/
theorem arrives_congr {s s' t t' : State} {d : CoreId} {team o b : Nat} (h : Arrives s t d team o b)
    (hs : s'.poolReadOf d team o 16 = s.poolReadOf d team o 16)
    (hx : ∀ i, (s.getThread d i).status = (s'.getThread d i).status ∧ (s.getThread d i).team = (s'.getThread d i).team ∧
      (s.getThread d i).pc = (s'.getThread d i).pc)
    (ht : t'.poolReadOf d team o 16 = t.poolReadOf d team o 16)
    (hy : ∀ i, (t.getThread d i).status = .ready →
      (t'.getThread d i).status = .ready ∧ (t'.getThread d i).pc = (t.getThread d i).pc) :
    Arrives s' t' d team o b := by
  unfold Arrives at h ⊢
  dsimp only at h ⊢
  rw [hs, ht]
  obtain ⟨hobj, hgo⟩ := h
  refine ⟨hobj, fun hb h0 i hst hteam => ?_⟩
  obtain ⟨hxs, hxt, hxp⟩ := hx i
  obtain ⟨hready, hpc⟩ := hgo hb h0 i (hxs.trans hst) (hxt.trans hteam)
  obtain ⟨hr', hpc'⟩ := hy i hready
  exact ⟨hr', hpc'.trans (hpc.trans (by rw [hxp]))⟩

/-- R225: the object takes the bytes, and lets the threads go that wait for its phase. -/
theorem barUpdate_arrives {s : State} {d : CoreId} {team o b : Nat} (hr : PoolReady s d team)
    (hb : -(2 ^ 31) ≤ (s.barObj d team o).bytes - b) : Arrives s (s.barUpdate d team o (-(b : Int)) 0) d team o b := by
  obtain ⟨-, -, hcore⟩ := barUpdate_effect hr hb
  have hranged := ranged_arrived (ranged_barObj s d team o) hb
  have hobj : State.barObj (s.barUpdate d team o (-(b : Int)) 0) d team o = Claims.arrived (s.barObj d team o) b := by
    obtain ⟨hpool, hteams⟩ := arrivedAt_pool (isCmd d) team o b (s.barObj d team o) (s.getCore d)
    have hsame : (s.barUpdate d team o (-(b : Int)) 0).poolReadOf d team o 16 =
        (s.poolWriteOf d team o 16 (Claims.arrived (s.barObj d team o) b).toBits).poolReadOf d team o 16 := by
      have hw : (s.poolWriteOf d team o 16 (Claims.arrived (s.barObj d team o) b).toBits).getCore d =
          filled (isCmd d) team o 16 (Claims.arrived (s.barObj d team o) b).toBits (s.getCore d) := by
        rw [poolWriteOf_eq hr]
        exact getCore_onCore_same s d _
      refine poolReadOf_congr ?_ ?_ team o 16
      · rw [hcore, hw]
        exact hpool
      · rw [hcore, hw]
        exact hteams
    have hput := put_poolWriteOf hr o 16 (Claims.arrived (s.barObj d team o) b).toBits
    have hread : State.barObj (s.barUpdate d team o (-(b : Int)) 0) d team o =
        BarObj.ofBits (State.poolReadOf (s.barUpdate d team o (-(b : Int)) 0) d team o 16) := rfl
    rw [hread, hsame, poolReadOf_eq (hput.ready d team hr), (hput.stored (d, team) (List.mem_singleton.2 rfl)).read]
    exact ofBits_toBits hranged
  refine ⟨hobj, fun hbytes hthr i hst hteam => ?_⟩
  rw [getThread_eq_slot] at hst hteam
  have hgone := arrivedAt_released (cmd := isCmd d) (obj := s.barObj d team o) hbytes hthr hst hteam
  rw [getThread_eq_slot, getThread_eq_slot, hcore, hgone]
  exact ⟨rfl, rfl⟩

/-- R232: the notice of freed bytes is an arrival at the producer's object. -/
theorem stageFreeNotice_effect {s : State} {d : CoreId} {team o b : Nat} (hr : PoolReady s d team)
    (hb : -(2 ^ 31) ≤ (s.barObj d team o).bytes - b) :
    ∃ t, exec (.stageFreeNotice d team o b) s = .next t ∧ Arrives s t d team o b ∧ ∀ a, t.physByte a = s.physByte a :=
  ⟨_, rfl, barUpdate_arrives hr hb, onlyCores_physByte (barUpdate_effect hr hb).1⟩

/-! Arrivals at several receivers (R231). -/

/-- Bytes have arrived at the same object of each of some teams. -/
structure ArrivedAll (s t : State) (l : List (CoreId × Nat)) (o b : Nat) : Prop where
  only : OnlyCores s t
  rest : ∀ e, e ∉ l.map (·.1) → t.getCore e = s.getCore e
  kept : ∀ e, Kept (s.getCore e) (t.getCore e)
  woken : ∀ e i, Woken (s.getThread e i) (t.getThread e i)
  arrives : ∀ p ∈ l, Arrives s t p.1 p.2 o b

theorem barUpdate_all (o b : Nat) (l : List (CoreId × Nat)) : ∀ s : State, (l.map (·.1)).Nodup →
    (∀ p ∈ l, PoolReady s p.1 p.2 ∧ -(2 ^ 31) ≤ (s.barObj p.1 p.2 o).bytes - b) →
    ArrivedAll s (l.foldl (fun s p => s.barUpdate p.1 p.2 o (-(b : Int)) 0) s) l o b := by
  induction l with
  | nil =>
    exact fun s _ _ => ⟨⟨_, _, _, rfl⟩, fun _ _ => rfl, fun _ => .refl _, fun _ _ => .inl rfl, nofun⟩
  | cons p l ih =>
    intro s hnd h
    obtain ⟨hp, hnd'⟩ := List.nodup_cons.1 hnd
    obtain ⟨hr, hb⟩ := h p List.mem_cons_self
    obtain ⟨honly, hother, hcore⟩ := barUpdate_effect hr hb
    have harr := barUpdate_arrives hr hb
    rw [List.foldl_cons]
    revert honly hother hcore harr
    generalize s.barUpdate p.1 p.2 o (-(b : Int)) 0 = u
    intro honly hother hcore harr
    have hne : ∀ q ∈ l, q.1 ≠ p.1 := fun q hq he => hp (List.mem_map.2 ⟨q, hq, he⟩)
    have hrest := ih u hnd' fun q hq => by
      have hsame := hother q.1 (hne q hq)
      obtain ⟨hq1, hq2⟩ := h q (List.mem_cons_of_mem p hq)
      refine ⟨(poolReady_congr hsame q.2).2 hq1, ?_⟩
      rw [barObj_congr hsame]
      exact hq2
    have hp' := hrest.rest p.1 hp
    have hwoken : ∀ e i, Woken (s.getThread e i) (u.getThread e i) := fun e i => by
      rw [getThread_eq_slot, getThread_eq_slot]
      by_cases he : e = p.1
      · rw [he, hcore]
        exact arrivedAt_slot _ _ _ _ _ _ i
      · rw [hother e he]
        exact .inl rfl
    refine ⟨honly.trans hrest.only, fun e he => ?_, fun e => ?_, fun e i => ?_, fun q hq => ?_⟩
    · rw [List.map_cons, List.mem_cons, not_or] at he
      exact (hrest.rest e he.2).trans (hother e he.1)
    · refine Kept.trans ?_ (hrest.kept e)
      by_cases he : e = p.1
      · rw [he, hcore]
        exact arrivedAt_kept hr
      · rw [hother e he]
        exact .refl _
    · by_cases he : e = p.1
      · rw [he, getThread_congr hp' i]
        exact hwoken p.1 i
      · rw [← getThread_congr (hother e he) i]
        exact hrest.woken e i
    · rcases List.mem_cons.1 hq with rfl | hq'
      · refine arrives_congr harr rfl (fun _ => ⟨rfl, rfl, rfl⟩) (poolReadOf_core hp' _ _ _) fun i hi => ?_
        rw [getThread_congr hp' i]
        exact ⟨hi, rfl⟩
      · have hsame := hother q.1 (hne q hq')
        refine arrives_congr (hrest.arrives q hq') (poolReadOf_core hsame _ _ _).symm (fun i => ?_) rfl
          fun i hi => ⟨hi, rfl⟩
        rw [getThread_congr hsame i]
        exact ⟨rfl, rfl, rfl⟩

end Sys2Proof.Proofs
end

section
/-! PROOF. The arrival of a copy (R168, R225, R231, R365), the copy that fires into a ring (R365), and the obligation on copies. -/

namespace Sys2Proof.Proofs

open Sys2Proof Sys2Proof.Machine Sys2Proof.Claims Sys2Proof.Laws

/-! Rings and copies of a core. -/

theorem getCore_setRing_same (s : State) (d : CoreId) (n : Fin 8) (g : Ring) : ((s.setRing d n (some g)).getCore d).rings[n] = some g := by
  rw [State.setRing, getCore_onCore_same]
  exact Vector.getElem_set_self _

theorem targetRing_of_own {s : State} {core : CoreId} {n : Fin 8} {g : Ring} (h : (s.getCore core).rings[n] = some g)
    (hl : g.remote = none) : s.targetRing core n.val = some (core, n, g) := by
  have hn : Fin.ofNat 8 n.val = n := Fin.ofNat_val_eq_self n
  unfold State.targetRing State.ringAt
  dsimp only
  rw [hn, h]
  simp only [Option.bind_some, hl]

theorem targetRing_of_remote {s : State} {core d : CoreId} {tm : Nat} {n : Fin 8} {g q : Ring}
    (h : (s.getCore core).rings[n] = some g) (hl : g.remote = some (d, tm)) (hq : (s.getCore d).rings[n] = some q) :
    s.targetRing core n.val = some (d, n, q) := by
  have hn : Fin.ofNat 8 n.val = n := Fin.ofNat_val_eq_self n
  unfold State.targetRing State.ringAt
  dsimp only
  rw [hn, h]
  simp only [Option.bind_some, hl, hq, Option.map_some]

/-! The copy that fires (R365). -/

/-- Copies that have fired, or that go into no ring, leave the next one to fire. -/
theorem firable_after (s : State) (core : CoreId) (c : Copy) (rest : List Copy) (r : Nat) (hk : c.kind = .cpyr r) (hf : c.fired = none)
    {d : CoreId} {n : Fin 8} {g : Ring} (ht : s.targetRing core r = some (d, n, g))
    (hroom : (d != core || decide (g.holds + g.reserved + c.geom.e * c.geom.count ≤ g.size)) = true) (before : List Copy) :
    ∀ done : List Copy, (∀ p ∈ done ++ before, ∀ q, p.kind = .cpyr q → p.fired ≠ none) →
      s.firable core done (before ++ c :: rest) = some c := by
  induction before with
  | nil =>
    intro done h
    have hnone : (done.any fun p => p.kind == c.kind && p.fired.isNone) = false := by
      refine List.any_eq_false.2 fun p hp hb => ?_
      rw [Bool.and_eq_true, beq_iff_eq, Option.isNone_iff_eq_none] at hb
      exact h p (List.mem_append_left _ hp) r (hb.1.trans hk) hb.2
    rw [List.nil_append, State.firable]
    simp only [hk] at hnone ⊢
    simp only [hf, hnone, ht, hroom, Option.isNone_none, Bool.not_false, Bool.and_self, if_true]
  | cons p before ih =>
    intro done h
    rw [List.cons_append, State.firable]
    have hskip : (match p.kind with
        | .cpyr n => p.fired.isNone && !(done.any fun q => q.kind == p.kind && q.fired.isNone) &&
          (match s.targetRing core n with
           | some (d, _, g) => d != core || decide (g.holds + g.reserved + p.geom.e * p.geom.count ≤ g.size)
           | none => false)
        | _ => false) = false := by
      cases hp : p.kind with
      | cpyr q =>
        have hfired : p.fired.isNone = false := by
          rw [← Bool.not_eq_true, Option.isNone_iff_eq_none]
          exact h p (List.mem_append_right _ List.mem_cons_self) q hp
        simp only [hfired, Bool.false_and]
      | _ => rfl
    refine (if_neg fun hb => Bool.false_ne_true (hskip.symm.trans hb)).trans (ih _ fun q hq => h q ?_)
    simpa [List.append_assoc] using hq

/-- R365: a copy that fires reserves its bytes of the ring, and moves its pages next. -/
theorem cpyrFire_effect {s : State} {core d : CoreId} {c : Copy} {n : Fin 8} {g : Ring} {before rest : List Copy}
    (hq : (s.getCore core).copies = before ++ c :: rest) (hid : ∀ p ∈ before, p.id ≠ c.id)
    (hfire : s.firable core [] (s.getCore core).copies = some c) (hk : c.kind = .cpyr n.val)
    (ht : s.targetRing core n.val = some (d, n, g)) :
    ∃ t, exec (.cpyrFire core) s = .next t ∧
      (t.getCore d).rings[n] = some { g with reserved := g.reserved + c.geom.e * c.geom.count } ∧
      t.copyAt core c.id = some { c with fired := some (g.written + g.reserved) } ∧
      t.agenda = s.agenda ++ [.copyPageTranslate core c.id, .cpyrFire core] := by
  obtain ⟨u, hu⟩ : ∃ u, u = s.setRing d n (some { g with reserved := g.reserved + c.geom.e * c.geom.count }) := ⟨_, rfl⟩
  have hx : exec (.cpyrFire core) s = .next (((u.onCopy core c.id fun c => { c with fired := some (g.written + g.reserved) }).later
      (.copyPageTranslate core c.id)).later (.cpyrFire core)) := by
    show Host.Outcome.next _ = _
    rw [hfire]
    dsimp only
    rw [hk]
    dsimp only
    rw [ht, hu]
  have hcopy : u.copyAt core c.id = some c := by
    have hfind : s.copyAt core c.id = some c := by
      unfold State.copyAt
      rw [hq, List.find?_append, List.find?_eq_none.2 fun p hp => by simpa using hid p hp]
      simp
    refine Eq.trans ?_ hfind
    rw [hu]
    unfold State.copyAt State.setRing
    rw [getCore_onCore]
    split
    · rfl
    · rfl
  have hring : ((u.onCopy core c.id fun c => { c with fired := some (g.written + g.reserved) }).getCore d).rings = (u.getCore d).rings := by
    unfold State.onCopy
    rw [getCore_onCore]
    split
    · rfl
    · rfl
  have hagenda : (u.onCopy core c.id fun c => { c with fired := some (g.written + g.reserved) }).agenda = s.agenda := by
    rw [hu]
    exact onlyCores_agenda ((onlyCores_onCore s d fun k =>
      { k with rings := k.rings.set n (some { g with reserved := g.reserved + c.geom.e * c.geom.count }) }).trans
        (onlyCores_onCore _ core fun k => { k with copies := k.copies.map fun x =>
          if x.id = c.id then { x with fired := some (g.written + g.reserved) } else x }))
  refine ⟨_, hx, ?_, ?_, ?_⟩
  · rw [later_getCore, later_getCore, hring, hu]
    exact getCore_setRing_same _ _ _ _
  · exact copyAt_onCopy (f := fun c => { c with fired := some (g.written + g.reserved) }) hcopy fun _ => rfl
  · simp [State.later, hagenda]

end Sys2Proof.Proofs
end

section
/-! PROOF. The arrival of a copy (R168, R225, R231, R365). -/

namespace Sys2Proof.Proofs

open Sys2Proof Sys2Proof.Machine Sys2Proof.Claims Sys2Proof.Laws

/-! The receivers' cores. -/

/-- A receiver's core tells its team: a multicast finds one team of the gang there (R231). -/
theorem receivers_team (s : State) (core : CoreId) (c : Copy) :
    ∃ f : CoreId → Option Nat, ∀ p ∈ s.receivers core c, f p.1 = some p.2 := by
  have hone : ∀ q : CoreId × Nat, ∃ f : CoreId → Option Nat, ∀ p ∈ [q], f p.1 = some p.2 := fun q =>
    ⟨fun _ => some q.2, fun p hp => by rw [List.mem_singleton.1 hp]⟩
  have hnil : ∃ f : CoreId → Option Nat, ∀ p ∈ ([] : List (CoreId × Nat)), f p.1 = some p.2 := ⟨fun _ => none, nofun⟩
  unfold State.receivers
  split
  · split
    · exact hone _
    · split
      · exact hnil
      · next tm _ =>
        split
        · refine ⟨fun d => ((s.getCore d).teams.find? fun t => t.lh == tm.lh && t.task == tm.task && t.kind == .gang).map (·.id),
            fun p hp => ?_⟩
          obtain ⟨g, -, hg⟩ := List.mem_filterMap.1 hp
          split at hg
          · obtain ⟨d, -, hd⟩ := Option.bind_eq_some_iff.1 hg
            obtain ⟨t, ht, rfl⟩ := Option.map_eq_some_iff.1 hd
            dsimp only
            rw [ht]
            rfl
          · cases hg
        · exact hone _
  · split
    · split
      · exact hone _
      · exact hone _
    · exact hnil
  · exact hone _
  · exact hone _
  · exact hone _

theorem receivers_inj {s : State} {core : CoreId} {c : Copy} {p q : CoreId × Nat} (hp : p ∈ s.receivers core c)
    (hq : q ∈ s.receivers core c) (h : p.1 = q.1) : p = q := by
  obtain ⟨f, hf⟩ := receivers_team s core c
  have hteam := hf p hp
  rw [h, hf q hq] at hteam
  exact Prod.ext h (Option.some.inj hteam).symm

theorem receivers_cores_nodup {s : State} {core : CoreId} {c : Copy} (h : (s.receivers core c).Nodup) :
    ((s.receivers core c).map (·.1)).Nodup :=
  List.Nodup.map_on (fun _ hp _ hq he => receivers_inj hp hq he) h

/-! What comes before the bytes arrive: kills that are acknowledged, and the ring's counters (R125, R365). -/

/-- Threads stand where they stood, and cores have their copies and scratchpads. -/
structure Early (s u : State) : Prop where
  copies : ∀ d, (u.getCore d).copies = (s.getCore d).copies
  teams : ∀ d, (u.getCore d).teams = (s.getCore d).teams
  pool : ∀ d, (u.getCore d).pool = (s.getCore d).pool
  byte : ∀ a, u.physByte a = s.physByte a
  threads : ∀ d i, ∃ es, u.getThread d i = { s.getThread d i with extents := es }

namespace Early

variable {s t u : State}

theorem refl (s : State) : Early s s := ⟨fun _ => rfl, fun _ => rfl, fun _ => rfl, fun _ => rfl, fun _ _ => ⟨_, rfl⟩⟩

theorem trans (a : Early s t) (b : Early t u) : Early s u := by
  refine ⟨fun d => (b.copies d).trans (a.copies d), fun d => (b.teams d).trans (a.teams d), fun d => (b.pool d).trans (a.pool d),
    fun x => (b.byte x).trans (a.byte x), fun d i => ?_⟩
  obtain ⟨es, h⟩ := a.threads d i
  obtain ⟨es', h'⟩ := b.threads d i
  exact ⟨es', by rw [h', h]⟩

end Early

/-- A kill drops translations of threads, and nothing else of them. -/
theorem killReaches_threads (s : State) (die line : Nat) (d : CoreId) (i : Fin 8) :
    ∃ es, (s.killReaches die line).getThread d i = { s.getThread d i with extents := es } := by
  have hcore : ∀ cs : List CoreId, ∃ es, ((s.mapCores fun c k => if cs.contains c then k.dropDerived line else k).getCore d).slots[i] =
      { (s.getCore d).slots[i] with extents := es } := fun cs => by
    rw [getCore_mapCores]
    split
    · split
      · exact ⟨_, Vector.getElem_map _ _⟩
      · exact ⟨_, rfl⟩
    · next hd =>
      rw [getCore_of_not_mem s d hd]
      exact ⟨_, rfl⟩
  rw [getThread_eq_slot, getThread_eq_slot]
  exact hcore _

theorem killAcked_getThread (s : State) (die line : Nat) (d : CoreId) (i : Fin 8) :
    (s.killAcked die line).getThread d i = s.getThread d i := by
  unfold State.killAcked
  dsimp only
  split
  · rw [setLine_rest]
    rfl
  · rfl

theorem finishKills_threads (s : State) (c : CoreId) (tid : Nat) (d : CoreId) (i : Fin 8) :
    ∃ es, (s.finishKills c tid).getThread d i = { s.getThread d i with extents := es } := by
  refine List.foldlRecOn (motive := fun t : State => ∃ es, t.getThread d i = { s.getThread d i with extents := es }) _ _ ⟨_, rfl⟩
    fun t ht k _ => ?_
  obtain ⟨es, h⟩ := ht
  obtain ⟨es', h'⟩ := killReaches_threads t k.die k.line d i
  exact ⟨es', by rw [killAcked_getThread, h', h]⟩

theorem early_finishKills (s : State) (c : CoreId) (tid : Nat) : Early s (s.finishKills c tid) := by
  have hown := fun d => ((Afar.finishKills s c tid).core d).own
  simp only [ownOf, Prod.mk.injEq] at hown
  exact ⟨fun d => (hown d).2.1, fun d => (hown d).2.2.2.1, fun d => (hown d).2.2.2.2, (OnlyKills.finishKills s c tid).physByte,
    finishKills_threads s c tid⟩

/-- Kills of a copy at a wider level than near (R161). -/
def copyKills (s : State) (core : CoreId) (id : Nat) (c : Copy) : State :=
  if c.level = .near then s else s.finishKills core (engTid id)

theorem copyKills_effect (s : State) (core : CoreId) (id : Nat) (c : Copy) :
    Early s (copyKills s core id c) ∧ ∀ d, ((copyKills s core id c).getCore d).rings = (s.getCore d).rings := by
  unfold copyKills
  split
  · exact ⟨.refl s, fun _ => rfl⟩
  · have hown := fun d => ((Afar.finishKills s core (engTid id)).core d).own
    simp only [ownOf, Prod.mk.injEq] at hown
    exact ⟨early_finishKills s core _, fun d => (hown d).2.2.1⟩

theorem getCore_pokeMatrix (s : State) (c d : CoreId) : (s.pokeMatrix c).getCore d = s.getCore d := by
  unfold State.pokeMatrix
  split
  · rfl
  · rfl

theorem physByte_pokeMatrix (s : State) (c : CoreId) (a : Nat) : (s.pokeMatrix c).physByte a = s.physByte a := by
  unfold State.pokeMatrix
  split
  · rfl
  · rfl

/-- The counters of a ring are of no thread. -/
theorem early_setRing (s : State) (d : CoreId) (n : Fin 8) (g : Option Ring) : Early s ((s.setRing d n g).pokeMatrix d) := by
  have hc : ∀ e, ((s.setRing d n g).pokeMatrix d).getCore e =
      if e = d then { s.getCore e with rings := (s.getCore e).rings.set n g } else s.getCore e := fun e => by
    rw [getCore_pokeMatrix]
    exact getCore_onCore s d e _
  refine ⟨fun e => ?_, fun e => ?_, fun e => ?_, fun a => ?_, fun e i => ⟨(s.getThread e i).extents, ?_⟩⟩
  · rw [hc]; split <;> rfl
  · rw [hc]; split <;> rfl
  · rw [hc]; split <;> rfl
  · rw [physByte_pokeMatrix]
    exact onlyCores_physByte (onlyCores_onCore s d _) a
  · rw [getThread_eq_slot, getThread_eq_slot, hc]
    split <;> rfl

theorem early_ringWritten (s : State) (core : CoreId) (c : Copy) : Early s (s.ringWritten core c) := by
  unfold State.ringWritten
  split
  · split
    · exact .refl s
    · exact early_setRing s _ _ _
  · exact .refl s

/-- A ring that a copy of core `core` has written its bytes into, on core `d` (R365). -/
def writtenRing (core d : CoreId) (c : Copy) (g : Ring) : Ring :=
  { g with
    written := g.written + c.geom.e * c.geom.count
    reserved := g.reserved - c.geom.e * c.geom.count
    ovr := g.ovr || (d != core && decide (g.size < g.holds + c.geom.e * c.geom.count)) }

theorem ringWritten_eq {s : State} {core d : CoreId} {c : Copy} {r : Nat} {n : Fin 8} {g : Ring} (hk : c.kind = .cpyr r)
    (ht : s.targetRing core r = some (d, n, g)) :
    s.ringWritten core c = (s.setRing d n (some (writtenRing core d c g))).pokeMatrix d := by
  unfold State.ringWritten
  simp only [hk, ht]
  rfl

theorem ringWritten_ring {s : State} {core d : CoreId} {c : Copy} {r : Nat} {n : Fin 8} {g : Ring} (hk : c.kind = .cpyr r)
    (ht : s.targetRing core r = some (d, n, g)) :
    ((s.ringWritten core c).getCore d).rings[n] = some (writtenRing core d c g) := by
  rw [ringWritten_eq hk ht, getCore_pokeMatrix]
  exact getCore_setRing_same s d n _

/-! What comes after. -/

/-- Cores have their copies, rings and scratchpads, and a thread that is ready goes on. -/
structure Tailed (u t : State) : Prop where
  copies : ∀ d, (t.getCore d).copies = (u.getCore d).copies
  rings : ∀ d, (t.getCore d).rings = (u.getCore d).rings
  teams : ∀ d, (t.getCore d).teams = (u.getCore d).teams
  pool : ∀ d, (t.getCore d).pool = (u.getCore d).pool
  byte : ∀ a, t.physByte a = u.physByte a
  goes : ∀ d i, (u.getThread d i).status = .ready → t.getThread d i = u.getThread d i

namespace Tailed

variable {s t u : State}

theorem refl (s : State) : Tailed s s := ⟨fun _ => rfl, fun _ => rfl, fun _ => rfl, fun _ => rfl, fun _ => rfl, fun _ _ _ => rfl⟩

theorem trans (a : Tailed s t) (b : Tailed t u) : Tailed s u :=
  ⟨fun d => (b.copies d).trans (a.copies d), fun d => (b.rings d).trans (a.rings d), fun d => (b.teams d).trans (a.teams d),
    fun d => (b.pool d).trans (a.pool d), fun x => (b.byte x).trans (a.byte x),
    fun d i h => (b.goes d i (by rw [a.goes d i h]; exact h)).trans (a.goes d i h)⟩

theorem later (s : State) (i : Instr) : Tailed s (s.later i) :=
  ⟨fun _ => rfl, fun _ => rfl, fun _ => rfl, fun _ => rfl, fun _ => rfl, fun _ _ _ => rfl⟩

theorem requeueHeld (s : State) : Tailed s s.requeueHeld :=
  ⟨fun _ => rfl, fun _ => rfl, fun _ => rfl, fun _ => rfl, fun _ => rfl, fun _ _ _ => rfl⟩

/-- Threads of one core changed, those that are ready left. -/
theorem onCore (s : State) (c : CoreId) (f : Core → Core)
    (hf : ∀ k, (f k).copies = k.copies ∧ (f k).rings = k.rings ∧ (f k).teams = k.teams ∧ (f k).pool = k.pool)
    (hs : ∀ (k : Core) (i : Fin 8), k.slots[i].status = .ready → (f k).slots[i] = k.slots[i]) : Tailed s (s.onCore c f) := by
  have hc : ∀ d, (s.onCore c f).getCore d = s.getCore d ∨ (s.onCore c f).getCore d = f (s.getCore d) := fun d => by
    rw [getCore_onCore]
    split
    · exact .inr rfl
    · exact .inl rfl
  refine ⟨fun d => ?_, fun d => ?_, fun d => ?_, fun d => ?_, onlyCores_physByte (onlyCores_onCore s c f), fun d i h => ?_⟩
  · rcases hc d with he | he <;> rw [he]
    exact (hf _).1
  · rcases hc d with he | he <;> rw [he]
    exact (hf _).2.1
  · rcases hc d with he | he <;> rw [he]
    exact (hf _).2.2.1
  · rcases hc d with he | he <;> rw [he]
    exact (hf _).2.2.2
  · rw [getThread_eq_slot] at h ⊢
    rw [getThread_eq_slot]
    rcases hc d with he | he <;> rw [he]
    exact hs _ i h

theorem onTid (s : State) (c : CoreId) (tid : Nat) (p : Wait → Bool) : Tailed s (s.onTid c tid (Thread.retryIf p)) := by
  refine onCore s c _ (fun _ => ⟨rfl, rfl, rfl, rfl⟩) fun _ _ h => ?_
  refine (Vector.getElem_map _ _).trans ?_
  split
  · exact retryIf_of_ready _ p h
  · rfl

theorem retrySlots (s : State) (c : CoreId) (p : Wait → Bool) :
    Tailed s (s.onCore c fun k => { k with slots := k.slots.map fun t => t.retryIf p }) :=
  onCore s c _ (fun _ => ⟨rfl, rfl, rfl, rfl⟩) fun _ _ h => (Vector.getElem_map _ _).trans (retryIf_of_ready _ p h)

theorem retry (s : State) (p : Wait → Bool) : Tailed s (s.retry p) := by
  have hc : ∀ d, ∃ sl, (s.retry p).getCore d = { s.getCore d with slots := sl } := fun d => by
    unfold State.retry State.mapThreads
    rw [getCore_mapCores]
    split
    · exact ⟨_, rfl⟩
    · next h =>
      rw [getCore_of_not_mem s d h]
      exact ⟨_, rfl⟩
  refine ⟨fun d => ?_, fun d => ?_, fun d => ?_, fun d => ?_, onlyCores_physByte (retry_rest s p), fun d i h => ?_⟩
  · obtain ⟨sl, he⟩ := hc d; rw [he]
  · obtain ⟨sl, he⟩ := hc d; rw [he]
  · obtain ⟨sl, he⟩ := hc d; rw [he]
  · obtain ⟨sl, he⟩ := hc d; rw [he]
  · rw [getThread_retry]
    exact retryIf_of_ready _ p h

theorem nextIntoRing (s : State) (core : CoreId) (c : Copy) : Tailed s (s.nextIntoRing core c) := by
  unfold State.nextIntoRing
  split
  · split
    · split
      · exact later s _
      · exact refl s
    · exact refl s
  · exact refl s

end Tailed

end Sys2Proof.Proofs
end

section
/-! PROOF. The arrival of a copy at its receivers, and the obligation on copies. -/

namespace Sys2Proof.Proofs

open Sys2Proof Sys2Proof.Machine Sys2Proof.Claims Sys2Proof.Laws

/-- What a copy that has arrived leaves (R168): it is out of its core's queue, and the threads that wait for it run again. -/
def arrivalDone (core : CoreId) (id : Nat) (c : Copy) (s : State) : State :=
  let s := s.onCore core fun k => { k with copies := k.copies.filter fun p => p.id != id }
  let s := s.onTid core c.tid (Thread.retryIf waitsCopies)
  let s := s.onCore core fun k => { k with slots := k.slots.map fun t => t.retryIf waitsCopyq }
  ((s.nextIntoRing core c).retry fun w => w == .saving).requeueHeld

section
variable {s : State} {core : CoreId} {id : Nat} {c : Copy}

/-- Nothing of its own keeps a copy from arriving (R161, R168, R365). -/
structure Arriving (s : State) (core : CoreId) (c : Copy) : Prop where
  running : c.stopped = false
  moved : c.geom.count ≤ c.next
  reached : c.reached = true
  first : (s.getCore core).ringAhead c = false

theorem exec_copyArrival_none (s : State) (core : CoreId) (id : Nat) (h : s.copyAt core id = none) :
    exec (.copyArrival core id) s = .next s := by
  show Host.Outcome.next _ = _
  rw [h]

theorem exec_copyArrival (h : s.copyAt core id = some c) (ha : Arriving s core c) :
    exec (.copyArrival core id) s = .next (arrivalDone core id c
      (((copyKills s core id c).receivers core c).foldl (fun s p => s.barUpdate p.1 p.2 c.bo (-((c.geom.e * c.geom.count : Nat) : Int)) 0)
        ((copyKills s core id c).ringWritten core c))) := by
  obtain ⟨hstop, hmoved, hreached, hfirst⟩ := ha
  obtain ⟨hearly, -⟩ := copyKills_effect s core id c
  have hahead : ((copyKills s core id c).getCore core).ringAhead c = false := by
    unfold Core.ringAhead at hfirst ⊢
    rw [hearly.copies]
    exact hfirst
  have hgo : (c.stopped || decide (c.next < c.geom.count) || !c.reached || ((copyKills s core id c).getCore core).ringAhead c) = false := by
    rw [hstop, hreached, hahead, decide_eq_false (not_lt.2 hmoved)]
    rfl
  show Host.Outcome.next _ = _
  rw [h]
  exact congrArg _ (if_neg fun hb => Bool.false_ne_true (hgo.symm.trans hb))

/-- A copy out of the queue is not found there. -/
theorem copyAt_filtered (s : State) (core : CoreId) (id : Nat) :
    (s.onCore core fun k => { k with copies := k.copies.filter fun p => p.id != id }).copyAt core id = none := by
  unfold State.copyAt
  rw [getCore_onCore_same]
  refine List.find?_eq_none.2 fun p hp => ?_
  simpa using (List.mem_filter.1 hp).2

/-- What the end of an arrival leaves: the bytes that have arrived, and the threads that they let go. -/
structure Finished (core : CoreId) (id tid : Nat) (s t : State) : Prop where
  gone : t.copyAt core id = none
  byte : ∀ a, t.physByte a = s.physByte a
  rings : ∀ d, (t.getCore d).rings = (s.getCore d).rings
  pool : ∀ d team o n, t.poolReadOf d team o n = s.poolReadOf d team o n
  goes : ∀ d i, (s.getThread d i).status = .ready → t.getThread d i = s.getThread d i
  released : ∀ i, (s.getThread core i).order = tid → (s.getThread core i).status = .parked .copies →
    (t.getThread core i).status = .ready ∧ (t.getThread core i).pc = (s.getThread core i).pc

theorem arrivalDone_effect (s : State) (core : CoreId) (id : Nat) (c : Copy) : Finished core id c.tid s (arrivalDone core id c s) := by
  unfold arrivalDone
  dsimp only
  have hgone := copyAt_filtered s core id
  have hbyte := onlyCores_physByte (onlyCores_onCore s core fun k => { k with copies := k.copies.filter fun p => p.id != id })
  have hrings : ∀ d, ((s.onCore core fun k => { k with copies := k.copies.filter fun p => p.id != id }).getCore d).rings =
      (s.getCore d).rings := fun d => by
    rw [getCore_onCore]
    split
    · rfl
    · rfl
  have hpool := poolReadOf_onCore s core (fun k => { k with copies := k.copies.filter fun p => p.id != id }) (fun _ => rfl) fun _ => rfl
  have hthread := getThread_onCore_slots s core (fun k => { k with copies := k.copies.filter fun p => p.id != id }) fun _ => rfl
  revert hgone hbyte hrings hpool hthread
  generalize s.onCore core _ = u
  intro hgone hbyte hrings hpool hthread
  have hafter : Tailed (u.onTid core c.tid (Thread.retryIf waitsCopies))
      ((((u.onTid core c.tid (Thread.retryIf waitsCopies)).onCore core fun k =>
        { k with slots := k.slots.map fun t => t.retryIf waitsCopyq }).nextIntoRing core c).retry fun w => w == .saving).requeueHeld :=
    (Tailed.retrySlots _ core _).trans ((Tailed.nextIntoRing _ core c).trans ((Tailed.retry _ _).trans (Tailed.requeueHeld _)))
  have hall := (Tailed.onTid u core c.tid waitsCopies).trans hafter
  refine ⟨?_, fun a => (hall.byte a).trans (hbyte a), fun d => (hall.rings d).trans (hrings d),
    fun d team o n => (poolReadOf_congr (hall.pool d) (hall.teams d) team o n).trans (hpool d team o n),
    fun d i hr => (hall.goes d i (by rw [hthread]; exact hr)).trans (hthread d i), fun i ho hst => ?_⟩
  · unfold State.copyAt at hgone ⊢
    rw [hall.copies]
    exact hgone
  · have hretry : (u.onTid core c.tid (Thread.retryIf waitsCopies)).getThread core i = { s.getThread core i with status := .ready } := by
      rw [getThread_onTid_of_order u core c.tid _ i (by rw [hthread]; exact ho) (by rw [hthread, hst]; nofun), hthread]
      exact retryIf_of_parked _ _ _ hst rfl
    rw [hafter.goes core i (by rw [hretry]), hretry]
    exact ⟨rfl, rfl⟩

theorem poolReady_parts {s t : State} {d : CoreId} (hp : (t.getCore d).pool = (s.getCore d).pool)
    (ht : (t.getCore d).teams = (s.getCore d).teams) (team : Nat) : PoolReady t d team ↔ PoolReady s d team := by
  rw [poolReady_iff, poolReady_iff]
  unfold ReadyIn
  rw [hp, ht]

/-- R168, R225, R231, R365: a copy arrives at the object of each receiver. -/
theorem copyArrival_effect (h : s.copyAt core id = some c) (ha : Arriving s core c) (hnd : (s.receivers core c).Nodup)
    (hready : ∀ p ∈ s.receivers core c, PoolReady s p.1 p.2 ∧
      -(2 ^ 31) ≤ (s.barObj p.1 p.2 c.bo).bytes - (c.geom.e * c.geom.count : Nat)) :
    ∃ t, exec (.copyArrival core id) s = .next t ∧ t.copyAt core id = none ∧ (∀ a, t.physByte a = s.physByte a) ∧
      (∀ p ∈ s.receivers core c, Arrives s t p.1 p.2 c.bo (c.geom.e * c.geom.count)) ∧
      (∀ i, (s.getThread core i).order = c.tid → (s.getThread core i).status = .parked .copies →
        (t.getThread core i).status = .ready ∧ (t.getThread core i).pc = (s.getThread core i).pc) ∧
      ∀ r d (n : Fin 8) g, c.kind = .cpyr r → s.targetRing core r = some (d, n, g) →
        (t.getCore d).rings[n] = some (writtenRing core d c g) := by
  have hx := exec_copyArrival h ha
  obtain ⟨hkills, hrings⟩ := copyKills_effect s core id c
  have hkept : ∀ d, Kept (s.getCore d) ((copyKills s core id c).getCore d) := fun d =>
    ⟨hkills.copies d, hrings d, by rw [hkills.teams]⟩
  have hearly := hkills.trans (early_ringWritten (copyKills s core id c) core c)
  have hring : ∀ r d (n : Fin 8) g, c.kind = .cpyr r → s.targetRing core r = some (d, n, g) →
      (((copyKills s core id c).ringWritten core c).getCore d).rings[n] = some (writtenRing core d c g) := fun r d n g hk ht => by
    refine ringWritten_ring hk ?_
    unfold State.targetRing State.ringAt at ht ⊢
    simp only [hrings]
    exact ht
  rw [receivers_of_kept hkept] at hx
  revert hx hearly hring
  generalize (copyKills s core id c).ringWritten core c = u
  intro hx hearly hring
  have hbar := barUpdate_all c.bo (c.geom.e * c.geom.count) (s.receivers core c) u (receivers_cores_nodup hnd) fun p hp => by
    obtain ⟨hr, hb⟩ := hready p hp
    refine ⟨(poolReady_parts (hearly.pool p.1) (hearly.teams p.1) p.2).2 hr, ?_⟩
    have hobj : u.barObj p.1 p.2 c.bo = s.barObj p.1 p.2 c.bo :=
      congrArg BarObj.ofBits (poolReadOf_congr (hearly.pool p.1) (hearly.teams p.1) p.2 c.bo 16)
    rw [hobj]
    exact hb
  revert hx hbar
  generalize (s.receivers core c).foldl _ u = v
  intro hx hbar
  have hdone := arrivalDone_effect v core id c
  refine ⟨_, hx, hdone.gone, fun a => (hdone.byte a).trans ((onlyCores_physByte hbar.only a).trans (hearly.byte a)), fun p hp => ?_,
    fun i ho hst => ?_, fun r d n g hk ht => ?_⟩
  · refine arrives_congr (hbar.arrives p hp) (poolReadOf_congr (hearly.pool p.1) (hearly.teams p.1) p.2 c.bo 16).symm (fun i => ?_)
      (hdone.pool _ _ _ _) fun i hi => ?_
    · obtain ⟨es, he⟩ := hearly.threads p.1 i
      rw [he]
      exact ⟨rfl, rfl, rfl⟩
    · rw [hdone.goes p.1 i hi]
      exact ⟨hi, rfl⟩
  · obtain ⟨es, he⟩ := hearly.threads core i
    have hsame : v.getThread core i = u.getThread core i := by
      refine (hbar.woken core i).resolve_right fun hw => ?_
      obtain ⟨⟨o, q, hoq⟩, -⟩ := hw
      rw [he] at hoq
      exact absurd (hst.symm.trans hoq) nofun
    have hrel := hdone.released i
    rw [hsame, he] at hrel
    exact hrel ho hst
  · rw [hdone.rings, (hbar.kept d).rings]
    exact hring r d n g hk ht

end

/-- The levels that a copy's writes must reach (R161). -/
theorem reached_of_level {c : Copy} (h : match c.level with
    | .near => True
    | .device => c.dev = 0
    | .host => c.dev = 0 ∧ c.hst = 0) : c.reached = true := by
  unfold Copy.reached
  cases hl : c.level with
  | near => rfl
  | device =>
    rw [hl] at h
    simpa using h
  | host =>
    rw [hl] at h
    simpa using h

/-- A copy with no other copy into its ring ahead of it (R365). -/
theorem ringAhead_of_first {k : Core} {c : Copy}
    (h : ∀ r, c.kind = .cpyr r → ∀ p ∈ k.copies.takeWhile (fun p => p.id != c.id), p.kind ≠ .cpyr r) : k.ringAhead c = false := by
  unfold Core.ringAhead
  split
  · next r hk =>
    refine List.any_eq_false.2 fun p hp hb => ?_
    exact h r hk p hp (eq_of_beq hb)
  · rfl

/-- Settles O50: a run of elements is an induction over the elements left, in a state that keeps the bytes of memory and all of the
cores but scratchpads and caches; an arrival is an update of each receiver's object, on cores that differ. -/
theorem copyEvents : Obligations.CopyEvents := by
  intro s core id team fbo bytes
  refine ⟨fun h => ⟨exec_copyPage_none s core id h, exec_copyArrival_none s core id h⟩, stageFreeNotice_effect, ?_, fun c hc => ?_⟩
  · intro before c rest r n g hq hk hf hbefore hn hg b fires
    subst hn
    have hfire : ∀ d q, s.targetRing core n.val = some (d, n, q) →
        (d != core || decide (q.holds + q.reserved + c.geom.e * c.geom.count ≤ q.size)) = true → fires d q := fun d q ht hroom => by
      refine cpyrFire_effect hq (fun p hp => (hbefore p hp).1) ?_ hk ht
      rw [hq]
      exact firable_after s core c rest n.val hk hf ht hroom before [] fun p hp => (hbefore p hp).2
    refine ⟨fun hl hroom => hfire core g (targetRing_of_own hg hl) ?_,
      fun d tm q hl hd hring => hfire d q (targetRing_of_remote hg hl hring) ?_⟩
    · exact Bool.or_eq_true_iff.2 (.inr (decide_eq_true hroom))
    · exact Bool.or_eq_true_iff.2 (.inl (bne_iff_ne.2 hd))
  · intro g w count rs off runs mine goes moved
    have hgoes : goes → CopyGoes s core c := fun hg => ⟨hg.1, hg.2.1, hg.2.2.1⟩
    refine ⟨fun hr ⟨x, hx, hm⟩ => exec_copyPage_hold hc hr x hx hm, ?_, ?_, ?_, ?_⟩
    · intro hg hcalm hnd hready hdir hnext hfuel hapart page pa hpage
      have hrun : LoadRun s core c page pa := ⟨hcalm.1, hdir, hg.2.2.2 hdir, hapart, fun i hi hic a ha => (hpage i hi hic a ha).1,
        fun i hi hic u hu a ha => by
          obtain ⟨-, hd, hx⟩ := hpage i hi hic a ha
          refine ⟨?_, hx u hu⟩
          rw [hu.1]
          exact hd⟩
      exact copyPage_load hc (hgoes hg) hrun hready hnext hfuel
    · intro hg hdir hlast
      refine ⟨copyPage_nowhere hc (hgoes hg) hdir hlast, fun hcalm hwf hloge a p ha hx hd hclear hlo hhi => ?_⟩
      obtain ⟨t, hexec, hmoved, hwrote⟩ := copyPage_store hc (hgoes hg) hdir hlast hcalm.1 hwf hloge ha hx hd hclear hlo hhi
      refine ⟨t, hexec, hmoved, fun i hi => ?_, hwrote.outside⟩
      rw [hwrote.inside i hi]
      exact BitVec.toNat_ofNat _ _
    · intro hg hnext a f ha hx hf hclash
      exact copyPage_stops hc (hgoes hg) hnext hg.2.2.2 ha hx hf hclash
    · intro hstop hcount hlevel hfirst hnd hready
      exact copyArrival_effect hc ⟨hstop, hcount, reached_of_level hlevel, ringAhead_of_first hfirst⟩ hnd hready

end Sys2Proof.Proofs
end
